-- ==== Sys2Proof/Word.lean ====
section
/-! DEFINITION. The word types of the G5128 model (00 R6: fields are little-endian bytes). -/
namespace Sys2Proof

/-- One byte of a packet, a frame or a memory. -/
abbrev Byte := BitVec 8

/-- One 32-bit word: a PE register, an instruction word, a sample. -/
abbrev Word := BitVec 32

/-- The number of a PE register, or a 5-bit field taken as a number (06 Instruction encoding). -/
abbrev Reg := Fin 32

/-- One PE accumulator, A0 to A3 (06 R148). -/
abbrev Acc := BitVec 72

/-- A string of bytes, lowest offset first. -/
abbrev Bytes := List Byte

end Sys2Proof
end

