-- ==== Sys2Proof/Syntax.lean ====
section
/-! DEFINITION. The commands of the block: the 425 rows of the table of operations and events, with their operands. -/
namespace Sys2Proof

/-- A command packet as the front end hands it to Zenith (02 R32, R34, R37): the channel it came on, the fields of its
header, whether it carried a trailer, the largest reply LENGTH its channel can carry back (R42, R442), where the reply
goes (a source MAC address on Ethernet, a reply buffer address on PCIe), the index, USER word and generation of a PCIe
command's descriptor (18 R442, R444), and the parameter bytes. -/
structure Cmd where
  chan       : Nat
  opcode     : Nat
  flags      : Nat
  inst       : Nat
  tag        : Nat
  seq        : Nat
  replyLimit : Nat
  replyTo    : Nat
  index      : Nat
  user       : Nat
  gen        : Nat
  params     : Bytes
  deriving DecidableEq, Repr

/-- What the MAC found of a frame as it ended (17 R427, R433): `err` 0 good, 1 a code or FEC error inside it, 2 a
reassembly error, 3 a wrong FCS; the fragments it came in; the FEC codewords corrected and not corrected with it. -/
structure Rx where
  err    : Nat
  frags  : Nat
  fecFix : Nat
  fecBad : Nat
  deriving DecidableEq, Repr

/-- How a pair record arrived (12 R306, R307): by LINK_A (0) or LINK_B (1), in the frame with FRAME_SEQ `fseq` as its
record `idx`; the key and packet number under which its sender protected the frame (log entry 31). -/
structure PairRx where
  link : Nat
  fseq : Nat
  idx  : Nat
  key  : Bytes
  pn   : Nat
  deriving DecidableEq, Repr

/-- An instance as a worker reports it (03 R89, 13 R341): declaration, phase, and for each copy its engine (LS, cluster,
number), its span and the areas CODE, DATA, IMAGE as (base, bytes). -/
structure ReportInst where
  fi       : Nat
  cls      : Nat
  cycle    : Nat
  kind     : Nat
  phase    : Nat
  image    : Nat
  wcic     : Nat
  code     : Nat
  data     : Nat
  imgBytes : Nat
  channels : List Nat
  running  : Bool
  copies   : List (Option (Bool × Nat × Nat) × Nat × List (Nat × Nat))
  deriving DecidableEq, Repr

/-- A worker's state report (03 R89, R92, 13 R333): the images it holds, its engines that are not IN_SERVICE (LS, cluster,
number, whether FAILED), its placed instances, the channels it has defined (channel, format, RATE, RING_SPAN in µs) and their
rings (channel, cluster, depth, address, bytes, chain units). -/
structure WorkerReport where
  images  : List Nat
  engines : List (Bool × Nat × Nat × Bool)
  insts   : List ReportInst
  chans   : List (Nat × Nat × Nat × Nat)
  rings   : List (Nat × Nat × Nat × Nat × Nat × Nat)
  deriving DecidableEq, Repr

/-- What a Stratus management message carries (13 R333, R337, R340, 03 R90 to R93; log entry 34): a forwarded command, an
instance assigned with its phase, manager state for the backup, an assignment for the backup, a schedule, its activation, a
handover, a worker's answer to message `re`, a state report, an acknowledgement. -/
inductive MgmtBody where
  | forward (pkt : Bytes)
  | assign (pkt : Bytes)
  | managerState (pkt : Bytes)
  | assigned (fi node phase : Nat)
  | table (version : Nat) (bytes : Bytes)
  | activate (version round : Nat)
  | handover (round : Nat)
  | answer (re : Nat) (completion : Bool) (status detail : Nat) (data : Bytes)
  | report (rep : WorkerReport)
  | ack
  deriving DecidableEq, Repr

/-- How a Stratus frame arrived (13 R324, R334, R345): the IN port, the node that transmitted on that link, the key and packet
number under which it protected the frame (log entry 31), TB2 at the frame's first bit at this port and at its first bit
leaving the OUT port, in 2^-16 ns. -/
structure StratusRx where
  port  : Nat
  from_ : Nat
  key   : Bytes
  pn    : Nat
  tIn   : Nat
  tOut  : Nat
  deriving DecidableEq, Repr

/-- A Sync message as a port gives it (14 R352, R356): domain, VLAN (0 untagged), the master's portIdentity, sequenceId, twoStepFlag,
correctionField and originTimestamp in 2^-16 ns, logMessageInterval. -/
structure PtpSync where
  domain  : Nat
  vlan    : Nat
  sender  : Nat
  seq     : Nat
  twoStep : Bool
  corr    : Int
  origin  : Nat
  logInt  : Int
  deriving DecidableEq, Repr

/-- An Announce message (14 R352, R366): domain, VLAN, portIdentity, the data set, ptpTimescale, currentUtcOffset if valid, leap
(1 leap61, 2 leap59), logMessageInterval. -/
structure PtpAnnounce where
  domain   : Nat
  vlan     : Nat
  sender   : Nat
  prio1    : Nat
  cls      : Nat
  accuracy : Nat
  variance : Nat
  prio2    : Nat
  gmId     : Nat
  steps    : Nat
  ptpScale : Bool
  utc      : Option Int
  leap     : Nat
  logInt   : Int
  deriving DecidableEq, Repr


/-- A write to a register without a row of its own (00 R7): a BAR0 write of a function, whether it is an aligned 32-bit one (18
R438 to R452), and the PCIe configuration writes that set VF Enable with NumVFs, MSI-X Enable and Function Mask, and the mask of
an MSI-X vector (18 R437, 19 R462). -/
inductive RegWrite where
  | bar0 (vi off val : Nat) (aligned : Bool)
  | vfEnable (n : Nat)
  | msixEnable (vi : Nat) (on fnMask : Bool)
  | msixMask (vi vec : Nat)
  deriving DecidableEq, Repr

/-- What the boot ROM finds at the start of the sequence (23 R516, R520): the straps as latched, ROLE in bits 1:0 and PAIR in
bits 3:2; whether images A and B fail authentication although their slots are VALID; of the copies of the boot record, bit 0 the
current one torn, bit 1 the other. -/
structure BootScan where
  straps : Nat
  badA   : Bool
  badB   : Bool
  record : Nat
  deriving DecidableEq, Repr

/-- What the boot finds after that (23 R517, R518, 20 R470, 21 R497): failing PEs and LSs (cluster, number), comparators, clusters
whose sample memory or filter block cannot be repaired, FATAL_RESOURCE, rows repaired, whether XO passes its qualification; key slots with
flipped bits of their word; records whose stored CRC is found changed; damaged cells by identifier (0x1000 + FI for a retained
record): bit 0 copy A (of a retained record the current copy) invalid, bit 1 the other, bit 2 both valid with equal SEQ; the three times of the boot
report in ms. -/
structure BootFindings where
  pes      : List (Nat × Nat)
  lss      : List (Nat × Nat)
  cmps     : List Nat
  clusters : List Nat
  fatal    : Nat
  rows     : Nat
  xo       : Bool
  slots    : List (Nat × Nat)
  records  : List (Nat × Nat)
  cells    : List (Nat × Nat)
  msAuth   : Nat
  msReady  : Nat
  msSelf   : Nat
  deriving DecidableEq, Repr
/-- One command of the block: one constructor per row of the table of operations and events. `dt` is the number of
Horizon periods that pass before the command (log entry 3). -/
inductive Instr where
  /-- PACKET_ARRIVAL (R41): A command packet arrives whole on a channel; the front end runs checks 1 to 6 and queues, answers or drops it. -/
  | packetArrival (dt chan : Nat) (pkt : Bytes) (replyTo replyBytes index user : Nat)
  /-- COMMAND_START (R50): Zenith takes the next packet in URGENT-then-round-robin order, runs checks 7 to 13 and executes the command. -/
  | commandStart (dt : Nat)
  /-- COMMAND_COMPLETION (R53): A command that replied ACCEPTED finishes and Zenith sends its completion report. -/
  | commandCompletion (dt chan seq : Nat)
  /-- ZENITH_LOAD_UPDATE (R51): Every 1 ms the Zenith load is recomputed and the module enters or leaves BUSY. -/
  | zenithLoadUpdate (dt load : Nat)
  /-- WATCHDOG_EXPIRY (R56): A Zenith core fails to service its watchdog; Zenith enters RESTARTING or MANAGEMENT_LOST. -/
  | watchdogExpiry (dt core : Nat)
  /-- ZENITH_RECOVERED (R56): Restarted firmware recovers within 300 ms; Zenith returns to RUNNING and reports committed commands. -/
  | zenithRecovered (dt : Nat)
  /-- UART_CHARACTER (R503): The UART receiver completes a character, judging start, data, parity and stop bits. -/
  | uartCharacter (dt n : Nat) (smp : List Nat)
  /-- UART_BREAK (R505): RX held at 0 for 2 character times is counted as a break and may discard a UART0 frame. -/
  | uartBreak (dt n : Nat)
  /-- MGMT_ETHERNET_FRAME (R39): A frame with EtherType 0x88B6 and subtype 0x01 is accepted or dropped by the management channel. -/
  | mgmtEthernetFrame (dt port : Nat) (frame : Bytes)
  /-- GET_IDENTITY (R59): Returns the module serial number, lot, ordering code, role, pair role and node. -/
  | getIdentity (dt : Nat) (c : Cmd)
  /-- GET_STATUS (R59): Returns the module state, the summary bits and the engine and instance counts. -/
  | getStatus (dt : Nat) (c : Cmd)
  /-- RESET (R60): Starts a ZENITH reset or a MODULE reset 1 ms after the reply. -/
  | reset (dt : Nat) (c : Cmd)
  /-- GET_FIRMWARE_INFO (R59): Returns the running and next images and the state and version of each. -/
  | getFirmwareInfo (dt : Nat) (c : Cmd)
  /-- ECHO (R59): Returns DATA unchanged. -/
  | echo (dt : Nat) (c : Cmd)
  /-- GET_ZENITH_LOAD (R59): Returns the load, the BUSY flag, the counters and the load histogram. -/
  | getZenithLoad (dt : Nat) (c : Cmd)
  /-- SET_CHANNEL (R61): Enables, binds or configures UART0 or the management Ethernet channel. -/
  | setChannel (dt : Nat) (c : Cmd)
  /-- WRITE_FIRMWARE (R522): Writes a chunk of an image container into the slot that is not running; the last chunk triggers validation. -/
  | writeFirmware (dt : Nat) (c : Cmd)
  /-- SELECT_IMAGE (R520): Sets NEXT in mode PERMANENT or TRIAL. -/
  | selectImage (dt : Nat) (c : Cmd)
  /-- CONFIRM_IMAGE (R523): Confirms the running trial image and clears the trial flags. -/
  | confirmImage (dt : Nat) (c : Cmd)
  /-- GET_BOOT_REPORT (R525): Returns the cause, flags and findings of the last boot. -/
  | getBootReport (dt : Nat) (c : Cmd)
  /-- DECLARE_INSTANCE (R62): Declares a function instance and gives it the next declaration number. -/
  | declareInstance (dt : Nat) (c : Cmd)
  /-- REMOVE_INSTANCE (R94): Removes an instance that is not running and frees its resources. -/
  | removeInstance (dt : Nat) (c : Cmd)
  /-- PLACE (R72): Places every DECLARED and SHED instance by the placement algorithm, all or none. -/
  | place (dt : Nat) (c : Cmd)
  /-- GET_PLACEMENT (R94): Returns the placement state, phase and copies of an instance. -/
  | getPlacement (dt : Nat) (c : Cmd)
  /-- GET_ENGINE (R94): Returns the state, slots, memory, canary and required rate of an engine. -/
  | getEngine (dt : Nat) (c : Cmd)
  /-- SET_PLACEMENT_LIMITS (R66): Sets the operating point and extra spares; spares made available restore DEGRADED instances. -/
  | setPlacementLimits (dt : Nat) (c : Cmd)
  /-- GET_PLACEMENT_LIMITS (R94): Returns the operating point, extra spares and spares left. -/
  | getPlacementLimits (dt : Nat) (c : Cmd)
  /-- GET_CLUSTER (R94): Returns the free slots, units, memory, engines in use and spares of a cluster. -/
  | getCluster (dt : Nat) (c : Cmd)
  /-- LOAD_IMAGE (R212): Stores a chunk of a function image container; the completing chunk is checked against its CRC and R212. -/
  | loadImage (dt : Nat) (c : Cmd)
  /-- FREE_IMAGE (R229): Frees a loaded or incomplete image that nothing names. -/
  | freeImage (dt : Nat) (c : Cmd)
  /-- BIND_SIGNALS (R229): Binds a chunk of an instance's input signals. -/
  | bindSignals (dt : Nat) (c : Cmd)
  /-- START_INSTANCE (R216): Starts an instance COLD, WARM or RESUME at a fixed start latch. -/
  | startInstance (dt : Nat) (c : Cmd)
  /-- STOP_INSTANCE (R216): Fixes the stop latch of a running instance, or cancels a pending start. -/
  | stopInstance (dt : Nat) (c : Cmd)
  /-- WRITE_SETTINGS (R219): Writes settings at once, or writes one setting at a latch of a running instance. -/
  | writeSettings (dt : Nat) (c : Cmd)
  /-- STAGE_CHANGE (R222): Opens an on-line change, adds entries to it or closes and stages it. -/
  | stageChange (dt : Nat) (c : Cmd)
  /-- SWITCH_CHANGE (R223): Fixes the switch instant of the staged change. -/
  | switchChange (dt : Nat) (c : Cmd)
  /-- CANCEL_CHANGE (R226): Cancels an OPEN or STAGED change and frees its staged resources. -/
  | cancelChange (dt : Nat) (c : Cmd)
  /-- CHANGE_COMPLETION (R227): Once every instance of the change has published a new cycle or been removed, the old areas are freed and the change is reported. -/
  | changeCompletion (dt : Nat)
  /-- GET_RUN_STATE (R229): Returns the run state, image, PUB_DELAY and cycle of an instance. -/
  | getRunState (dt : Nat) (c : Cmd)
  /-- GET_CHANGE (R229): Returns the state of the on-line change. -/
  | getChange (dt : Nat) (c : Cmd)
  /-- DEFINE_STREAM (R96): Defines a sampled-value or travelling-wave stream and its channels, DISABLED. -/
  | defineStream (dt : Nat) (c : Cmd)
  /-- REMOVE_STREAM (R115): Removes a stream whose channels no declared instance reads. -/
  | removeStream (dt : Nat) (c : Cmd)
  /-- ENABLE_STREAM (R105): Enables or disables a stream's alignment state machine. -/
  | enableStream (dt : Nat) (c : Cmd)
  /-- SET_ALIGNMENT (R105): Sets the alignment margin or fixed delay, or relearns it; an enabled stream returns to WAITING. -/
  | setAlignment (dt : Nat) (c : Cmd)
  /-- GET_STREAM (R115): Returns a stream's state, delay, arrival offset, late margin and counters. -/
  | getStream (dt : Nat) (c : Cmd)
  /-- GET_INGEST_TOTALS (R113): Returns the module-wide stream, channel and chain-unit totals. -/
  | getIngestTotals (dt : Nat) (c : Cmd)
  /-- GET_CHANNEL (R114): Returns a channel's stream, ring cluster, depth and ring address. -/
  | getChannel (dt : Nat) (c : Cmd)
  /-- LOAD_BANK (R127): Loads a coefficient bank into every cluster after checking its validity and CRC. -/
  | loadBank (dt : Nat) (c : Cmd)
  /-- READ_BANK (R126): Returns a ROM or loaded coefficient bank. -/
  | readBank (dt : Nat) (c : Cmd)
  /-- FREE_BANK (R147): Frees a loaded bank that is not in force or pending. -/
  | freeBank (dt : Nat) (c : Cmd)
  /-- SET_CHAIN (R131): Queues a change of bank, gain, offset and mode on listed channels at an apply position. -/
  | setChain (dt : Nat) (c : Cmd)
  /-- GET_CHAIN (R147): Returns a chain's settings, state, pending changes and counters. -/
  | getChain (dt : Nat) (c : Cmd)
  /-- SYNC_DECIMATORS (R134): Sets N_REF by time, or arms or disarms TPI synchronisation on listed channels. -/
  | syncDecimators (dt : Nat) (c : Cmd)
  /-- SET_DETECTOR (R146): Enables and configures or disables a PEAK, RMS or ENVELOPE detector. -/
  | setDetector (dt : Nat) (c : Cmd)
  /-- GET_DETECTORS (R147): Returns the detector values of one output. -/
  | getDetectors (dt : Nat) (c : Cmd)
  /-- BIND_OUTPUTS (R232): Replaces an instance's binding of output words or bits to signals. -/
  | bindOutputs (dt : Nat) (c : Cmd)
  /-- DEFINE_PUBLICATION (R234): Defines a GOOSE publication and returns its frame size. -/
  | definePublication (dt : Nat) (c : Cmd)
  /-- REMOVE_PUBLICATION (R250): Removes a disabled publication. -/
  | removePublication (dt : Nat) (c : Cmd)
  /-- ENABLE_PUBLICATION (R243): Enables a publication after the gate-window and latency check, or disables it. -/
  | enablePublication (dt : Nat) (c : Cmd)
  /-- SET_ROUTE (R244): Changes a publication's ports or entry signals from a given driver cycle. -/
  | setRoute (dt : Nat) (c : Cmd)
  /-- GET_PUBLICATION (R250): Returns a publication's state, stNum, sqNum and counters. -/
  | getPublication (dt : Nat) (c : Cmd)
  /-- DEFINE_SUBSCRIPTION (R245): Defines a GOOSE subscription mapping entries to signals. -/
  | defineSubscription (dt : Nat) (c : Cmd)
  /-- REMOVE_SUBSCRIPTION (R250): Removes a disabled subscription and frees its signals. -/
  | removeSubscription (dt : Nat) (c : Cmd)
  /-- ENABLE_SUBSCRIPTION (R249): Enables or disables a subscription. -/
  | enableSubscription (dt : Nat) (c : Cmd)
  /-- GET_SUBSCRIPTION (R250): Returns a subscription's state and counters. -/
  | getSubscription (dt : Nat) (c : Cmd)
  /-- GET_SIGNAL (R231): Returns the source, value and status of a signal. -/
  | getSignal (dt : Nat) (c : Cmd)
  /-- DEFINE_RECORDER (R253): Defines a capture recorder with its lanes and segments. -/
  | defineRecorder (dt : Nat) (c : Cmd)
  /-- REMOVE_RECORDER (R272): Removes a DISABLED or STOPPED recorder and frees its blocks. -/
  | removeRecorder (dt : Nat) (c : Cmd)
  /-- SET_TRIGGER (R262): Sets one of a recorder's eight trigger conditions. -/
  | setTrigger (dt : Nat) (c : Cmd)
  /-- LOAD_MASK (R264): Loads or frees a chunk of a capture mask. -/
  | loadMask (dt : Nat) (c : Cmd)
  /-- ARM_RECORDER (R260): Arms or disarms a recorder. -/
  | armRecorder (dt : Nat) (c : Cmd)
  /-- FORCE_TRIGGER (R259): Schedules a forced trigger at a given time, broadcast by a manager if asked. -/
  | forceTrigger (dt : Nat) (c : Cmd)
  /-- GET_RECORDER (R272): Returns a recorder's state, horizon and counters. -/
  | getRecorder (dt : Nat) (c : Cmd)
  /-- LIST_SEGMENTS (R272): Returns the state and sequence number of each segment. -/
  | listSegments (dt : Nat) (c : Cmd)
  /-- READ_SEGMENT (R270): Reads bytes of a complete or archived segment inline or by DMA. -/
  | readSegment (dt : Nat) (c : Cmd)
  /-- RELEASE_SEGMENT (R272): Frees a segment; a FULL recorder re-arms. -/
  | releaseSegment (dt : Nat) (c : Cmd)
  /-- GET_CAPTURE_TOTALS (R272): Returns the free blocks, recorders, write rate and archive use. -/
  | getCaptureTotals (dt : Nat) (c : Cmd)
  /-- GET_ANVIL_STATUS (R304): Returns the hub state, comparators, lanes, guarantee bits and fault counters. -/
  | getAnvilStatus (dt : Nat) (c : Cmd)
  /-- GET_CONTAINMENT (R304): Returns an instance's comparator lane, last fault and counters. -/
  | getContainment (dt : Nat) (c : Cmd)
  /-- GET_MEMORY_HEALTH (R294): Returns the ECC and scrub counters of a memory region. -/
  | getMemoryHealth (dt : Nat) (c : Cmd)
  /-- SET_SELF_TEST (R298): Enables or disables background self-test. -/
  | setSelfTest (dt : Nat) (c : Cmd)
  /-- INJECT_FAULT (R304): Arms or applies an injected fault that is then handled as a real one. -/
  | injectFault (dt : Nat) (c : Cmd)
  /-- SET_PAIR (R306): Sets the pair links, key slot, shared source MAC and node. -/
  | setPair (dt : Nat) (c : Cmd)
  /-- GET_PAIR_STATUS (R322): Returns the pair state, partner state, links and counters. -/
  | getPairStatus (dt : Nat) (c : Cmd)
  /-- SWITCHOVER (R316): Schedules the ACTIVE to give up control at a tick. -/
  | switchover (dt : Nat) (c : Cmd)
  /-- RESYNC (R319): Puts a STANDBY into STANDBY_SYNC. -/
  | resync (dt : Nat) (c : Cmd)
  /-- SET_STRATUS (R323): Sets the node, ring ports, key, link delay and group address of Stratus. -/
  | setStratus (dt : Nat) (c : Cmd)
  /-- LOAD_SCHEDULE (R329): Stores a chunk of a schedule container and checks the round timing once it is complete. -/
  | loadSchedule (dt : Nat) (c : Cmd)
  /-- ACTIVATE_SCHEDULE (R325): Distributes a schedule and activates it at a round after every node has confirmed. -/
  | activateSchedule (dt : Nat) (c : Cmd)
  /-- BIND_RECEIVE (R331): Binds the signals of a Stratus slot to local signals. -/
  | bindReceive (dt : Nat) (c : Cmd)
  /-- GET_STRATUS_STATUS (R346): Returns the Stratus state, level, links, manager, epoch and counters. -/
  | getStratusStatus (dt : Nat) (c : Cmd)
  /-- GET_SLOT (R331): Returns a slot's age and commit counters. -/
  | getSlot (dt : Nat) (c : Cmd)
  /-- GET_SYNC (R335): Returns the TB2 synchronisation status, rate and link delays. -/
  | getSync (dt : Nat) (c : Cmd)
  /-- HANDOVER_MANAGER (R340): Schedules the exchange of manager and backup at a round. -/
  | handoverManager (dt : Nat) (c : Cmd)
  /-- GET_NODES (R332): Returns the 32 node entries last committed. -/
  | getNodes (dt : Nat) (c : Cmd)
  /-- SET_PTP (R352): Enables and configures a PTP base. -/
  | setPtp (dt : Nat) (c : Cmd)
  /-- GET_PTP_STATUS (R373): Returns a PTP base's state, master, offset, rate and counters. -/
  | getPtpStatus (dt : Nat) (c : Cmd)
  /-- SET_PORT_TIMING (R355): Sets the external PHY latencies and asymmetry of a port. -/
  | setPortTiming (dt : Nat) (c : Cmd)
  /-- SELECT_TIME (R362): Selects the base that protection time follows, with its AUTO, REVERT and slew options. -/
  | selectTime (dt : Nat) (c : Cmd)
  /-- GET_TIME (R373): Returns all time bases latched in one Horizon period. -/
  | getTime (dt : Nat) (c : Cmd)
  /-- SET_PULSE (R367): Programs a pulse output as ONCE, PERIODIC or OFF. -/
  | setPulse (dt : Nat) (c : Cmd)
  /-- SET_CAPTURE_INPUT (R370): Sets the edges and minimum width captured on a TPI pin. -/
  | setCaptureInput (dt : Nat) (c : Cmd)
  /-- READ_CAPTURES (R371): Removes and returns entries from a TPI capture queue. -/
  | readCaptures (dt : Nat) (c : Cmd)
  /-- SET_UTC (R366): Sets the UTC offset source and a pending leap second. -/
  | setUtc (dt : Nat) (c : Cmd)
  /-- STEP_PROTECTION_TIME (R363): Steps protection time to its base while nothing runs. -/
  | stepProtectionTime (dt : Nat) (c : Cmd)
  /-- SET_CLOCK_SOURCES (R381): Enables and prioritises the clock sources. -/
  | setClockSources (dt : Nat) (c : Cmd)
  /-- GET_CLOCK_STATUS (R392): Returns the reference state and the state of each source. -/
  | getClockStatus (dt : Nat) (c : Cmd)
  /-- GET_PLL_STATUS (R392): Returns the lock state of each PLL and the lock-loss counters. -/
  | getPllStatus (dt : Nat) (c : Cmd)
  /-- SET_POWER (R389): Sets VIN_WARN. -/
  | setPower (dt : Nat) (c : Cmd)
  /-- GET_POWER_STATUS (R392): Returns the supplies, rails, supply state and temperatures. -/
  | getPowerStatus (dt : Nat) (c : Cmd)
  /-- SET_VLAN (R395): Sets or deletes the member and untag masks of a VID. -/
  | setVlan (dt : Nat) (c : Cmd)
  /-- SET_FDB_ENTRY (R398): Adds, replaces or removes a static forwarding entry. -/
  | setFdbEntry (dt : Nat) (c : Cmd)
  /-- GET_FDB (R397): Looks up a forwarding entry. -/
  | getFdb (dt : Nat) (c : Cmd)
  /-- SET_PORT_SWITCH (R395): Sets a port's learning, flooding, VLAN, class and residence settings. -/
  | setPortSwitch (dt : Nat) (c : Cmd)
  /-- SET_SWITCH (R399): Sets the age time and the EtherType class map. -/
  | setSwitch (dt : Nat) (c : Cmd)
  /-- SET_QUEUE (R402): Sets a queue's reservation, alpha and drop profiles. -/
  | setQueue (dt : Nat) (c : Cmd)
  /-- SET_POLICER (R401): Sets or disables a two-rate three-colour meter. -/
  | setPolicer (dt : Nat) (c : Cmd)
  /-- SET_GATE_LIST (R411): Installs a port's gate list from a switch tick. -/
  | setGateList (dt : Nat) (c : Cmd)
  /-- SET_REDUNDANCY (R412): Configures a PRP or HSR redundancy entity. -/
  | setRedundancy (dt : Nat) (c : Cmd)
  /-- GET_REDUNDANCY_STATUS (R419): Returns an entity's mode, links and counters. -/
  | getRedundancyStatus (dt : Nat) (c : Cmd)
  /-- GET_BUFFER_STATUS (R402): Returns the shared buffer accounting. -/
  | getBufferStatus (dt : Nat) (c : Cmd)
  /-- GET_QUEUE_COUNTERS (R419): Returns a queue's cells and counters. -/
  | getQueueCounters (dt : Nat) (c : Cmd)
  /-- GET_SWITCH_COUNTERS (R419): Returns a port's ingress drop counters. -/
  | getSwitchCounters (dt : Nat) (c : Cmd)
  /-- SET_PORT (R425): Enables a port and sets its PHY, FEC, frame size, pause and preemption. -/
  | setPort (dt : Nat) (c : Cmd)
  /-- GET_PORT_STATUS (R436): Returns a port's state, PHY and flags. -/
  | getPortStatus (dt : Nat) (c : Cmd)
  /-- GET_PORT_COUNTERS (R436): Returns a port's octet and frame counters. -/
  | getPortCounters (dt : Nat) (c : Cmd)
  /-- I2C_TRANSFER (R435): Queues a multiplexed write and read transfer on an I2C master. -/
  | i2cTransfer (dt : Nat) (c : Cmd)
  /-- SET_INSTANCE_RESOURCES (R456): Sets an instance's DMA weight, read limit and reset mode. -/
  | setInstanceResources (dt : Nat) (c : Cmd)
  /-- GET_INSTANCE (R457): Returns a virtual instance's host-interface state. -/
  | getInstance (dt : Nat) (c : Cmd)
  /-- SET_WINDOW (R450): Sets or removes a bridge window of an instance. -/
  | setWindow (dt : Nat) (c : Cmd)
  /-- GET_WINDOW (R457): Returns a bridge window's settings. -/
  | getWindow (dt : Nat) (c : Cmd)
  /-- RESET_INSTANCE (R454): Starts a reset of an instance's host interface. -/
  | resetInstance (dt : Nat) (c : Cmd)
  /-- GET_HOST_COUNTERS (R457): Returns an instance's host counters. -/
  | getHostCounters (dt : Nat) (c : Cmd)
  /-- SET_SOURCE (R462): Sets an interrupt source's route, priority, mode and Squall limits. -/
  | setSource (dt : Nat) (c : Cmd)
  /-- GET_SOURCE (R467): Returns an interrupt source's settings and counters. -/
  | getSource (dt : Nat) (c : Cmd)
  /-- UNMASK_SOURCE (R465): Returns a masked interrupt source to service. -/
  | unmaskSource (dt : Nat) (c : Cmd)
  /-- LIST_MASKED (R467): Returns the bitmap of masked sources. -/
  | listMasked (dt : Nat) (c : Cmd)
  /-- WRITE_KEY (R476): Writes a key slot and reloads its users. -/
  | writeKey (dt : Nat) (c : Cmd)
  /-- ERASE_KEY (R481): Zeroes a slot not in use and makes it EMPTY. -/
  | eraseKey (dt : Nat) (c : Cmd)
  /-- GET_KEY_INFO (R481): Returns a slot's state, type, usage, owner and version. -/
  | getKeyInfo (dt : Nat) (c : Cmd)
  /-- LIST_KEYS (R481): Returns the state of every slot. -/
  | listKeys (dt : Nat) (c : Cmd)
  /-- VERIFY_KEY (R478): Returns the check value of a slot's key or of a derived key. -/
  | verifyKey (dt : Nat) (c : Cmd)
  /-- ACK_TAMPER (R480): Clears the TAMPER latch once TAMPER_N is high. -/
  | ackTamper (dt : Nat) (c : Cmd)
  /-- GET_HALO_STATUS (R481): Returns the Halo phase, tamper state and counters. -/
  | getHaloStatus (dt : Nat) (c : Cmd)
  /-- GET_RECORDER_STATUS (R501): Returns OLDEST, NEXT, capacity and the Contrail queue state. -/
  | getRecorderStatus (dt : Nat) (c : Cmd)
  /-- READ_RECORDS (R490): Copies log records with OLDEST read before and after the copy. -/
  | readRecords (dt : Nat) (c : Cmd)
  /-- GET_CLEAR_NONCE (R494): Returns a fresh 60 s clear nonce. -/
  | getClearNonce (dt : Nat) (c : Cmd)
  /-- CLEAR_RECORDER (R493): Checks the token and clears the log, committing CLEARED, or refuses. -/
  | clearRecorder (dt : Nat) (c : Cmd)
  /-- READ_COUNTERS (R498): Returns lifetime counters with their A/B cell flags. -/
  | readCounters (dt : Nat) (c : Cmd)
  /-- POST_RECORD (R501): Posts a USER record to Contrail. -/
  | postRecord (dt : Nat) (c : Cmd)
  /-- GET_CHIPLET_IDENTITY (R500): Returns a chiplet's fuse identity image. -/
  | getChipletIdentity (dt : Nat) (c : Cmd)
  /-- READ_HISTOGRAM (R499): Returns the bins of a lifetime histogram. -/
  | readHistogram (dt : Nat) (c : Cmd)
  /-- SET_UART (R507): Sets the rate, format, owner and enable of a UART. -/
  | setUart (dt : Nat) (c : Cmd)
  /-- UART_WRITE (R506): Queues bytes whole into a UART transmit buffer. -/
  | uartWrite (dt : Nat) (c : Cmd)
  /-- UART_READ (R513): Removes and returns bytes from a UART receive buffer. -/
  | uartRead (dt : Nat) (c : Cmd)
  /-- GET_UART_STATUS (R513): Returns a UART's buffered byte counts and counters. -/
  | getUartStatus (dt : Nat) (c : Cmd)
  /-- SET_BINARY_INPUT (R508): Configures a binary input and its signal. -/
  | setBinaryInput (dt : Nat) (c : Cmd)
  /-- SET_BINARY_OUTPUT (R510): Configures a binary output, its signal and its safe level. -/
  | setBinaryOutput (dt : Nat) (c : Cmd)
  /-- GET_BINARY_IO (R513): Returns the binary input and output states. -/
  | getBinaryIo (dt : Nat) (c : Cmd)
  /-- FRAME_RECEIVED (R407): A frame received on a switch port passes the MAC and drop checks and is forwarded, queued or dropped. -/
  | frameReceived (dt port ta : Nat) (frame : Bytes) (rx : Rx)
  /-- FRAME_TRANSMIT_START (R432): An egress port starts the next eligible frame once its gate, guard band and start threshold allow it. -/
  | frameTransmitStart (dt port : Nat) (under : Bool)
  /-- THRESHOLD_DECAY (R431): After 1 s without underrun START_THRESHOLD falls one step. -/
  | thresholdDecay (dt port : Nat)
  /-- GATE_EVENT (R410): A gate-list entry boundary or cycle start opens and closes traffic-class gates. -/
  | gateEvent (dt port : Nat)
  /-- FDB_AGE_EXPIRY (R398): A learned entry not refreshed for AGE_TIME is freed. -/
  | fdbAgeExpiry (dt mac vid : Nat)
  /-- SOURCE_ENTRY_AGE (R414): A resequencer source entry not refreshed for ENTRY_AGE is freed. -/
  | sourceEntryAge (dt ent src : Nat)
  /-- HOLD_EXPIRY (R416): A frame held behind a sequence gap is delivered when HOLD_NS expires. -/
  | holdExpiry (dt ent src : Nat)
  /-- SUPERVISION_SEND (R418): An entity sends PRP or HSR supervision frames at its interval. -/
  | supervisionSend (dt ent : Nat)
  /-- PAUSE_RECEIVED (R429): A received PAUSE holds the preemptable classes of the port. -/
  | pauseReceived (dt port quanta : Nat)
  /-- PAUSE_EXPIRY (R429): The pause hold of a port ends after its quanta. -/
  | pauseExpiry (dt port : Nat)
  /-- PAUSE_REPEAT (R430): While the pool stays below XON the PAUSE is repeated every 0x8000 quanta. -/
  | pauseRepeat (dt port : Nat)
  /-- PREEMPT_VERIFY (R433): A verify frame of the MAC merge exchange is received and answered. -/
  | preemptVerify (dt port : Nat) (response : Bool)
  /-- PREEMPT_VERIFY_TIMEOUT (R433): The 10 ms verify time expires and verification retries or fails. -/
  | preemptVerifyTimeout (dt port : Nat)
  /-- PORT_LINK_UP (R425): After 10 ms of PCS lock a port goes UP. -/
  | portLinkUp (dt port pause : Nat) (speedOk : Bool)
  /-- PORT_LINK_DOWN (R426): A port leaves UP; its frames are truncated and dropped. -/
  | portLinkDown (dt port : Nat) (receiving remote : Bool)
  /-- I2C_TRANSFER_COMPLETE (R435): An I2C master finishes a transfer or ends it on NAK, stretch timeout or stuck bus. -/
  | i2cTransferComplete (dt master result : Nat) (data : Bytes)
  /-- SV_FRAME_RECEIVED (R99): A matched sampled-value or travelling-wave frame is checked and its samples filed by position. -/
  | svFrameReceived (dt port ta : Nat) (frame : Bytes)
  /-- STREAM_LOSS_TIMEOUT (R105): No frame passes checks for LOSS_TIME; the stream goes LOST. -/
  | streamLossTimeout (dt stream : Nat)
  /-- SLOT_CLOSE (R103): A ring slot closes at its cutoff, MISSING if nothing was filed. -/
  | slotClose (dt stream : Nat)
  /-- CHAIN_TAKE_POSITION (R117): A chain takes the next position, applies pending changes and commits an output at output positions. -/
  | chainTakePosition (dt ch : Nat)
  /-- GOOSE_FRAME_RECEIVED (R246): A matched GOOSE frame is checked and accepted as a new state or refresh, or discarded. -/
  | gooseFrameReceived (dt port ta : Nat) (frame : Bytes)
  /-- SUBSCRIPTION_STALE (R249): A subscription's timeAllowedtoLive expires and it goes STALE. -/
  | subscriptionStale (dt sub : Nat)
  /-- LATCH (R224): At a latch instant an instance's image half is frozen and switches, starts, stops, initialisations, settings and the header are applied. -/
  | latch (dt fi : Nat)
  /-- COPY_START (R159): At L + s a copy on its engine sets the entry state and starts running. -/
  | copyStart (dt fi k : Nat)
  /-- SIGNATURE_POSTED (R159): A copy that executed END forms its signature and posts it to Anvil. -/
  | signaturePosted (dt : Nat) (ls : Bool) (e : Nat)
  /-- SPAN_END (R548): A copy's span ends; a copy not yet DONE raises DEADLINE. -/
  | spanEnd (dt : Nat) (ls : Bool) (e : Nat)
  /-- ANVIL_VERDICT (R280): Once the last copy posts, Anvil compares or votes, probes and releases or withholds the cycle. -/
  | anvilVerdict (dt fi : Nat) (probe : Bool) (bad : List Nat)
  /-- VERDICT_DEADLINE (R276): At P − 0.85 µs a copy that has posted nothing is judged as DEADLINE. -/
  | verdictDeadline (dt fi : Nat)
  /-- DIAGNOSIS_START (R282): At B_d + 0.10 µs an engine gives up its slot and runs self-diagnosis. -/
  | diagnosisStart (dt : Nat) (ls : Bool) (e : Nat)
  /-- DIAGNOSIS_END (R283): A diagnosis run ends and its engine is FAILED or counted transient. -/
  | diagnosisEnd (dt : Nat) (ls : Bool) (e : Nat) (pass : Bool)
  /-- CROSS_CHECK_FAULT (R292): HUB-A and HUB-B disagree; the module enters FATAL_CONTAINMENT. -/
  | crossCheckFault (dt : Nat)
  /-- PUBLICATION_INSTANT (R233): At a driver's publication instant the publisher releases a new state or a retransmission and signals take the accepted outputs. -/
  | publicationInstant (dt fi : Nat)
  /-- ENGINE_FAILED (R79): An engine reported faulty becomes FAILED and its copies move to spares or are handled after exhaustion. -/
  | engineFailed (dt : Nat) (ls : Bool) (cc no cls : Nat)
  /-- COPY_LOAD_COMPLETE (R81): A moved copy's code and image map finish loading on the new engine. -/
  | copyLoadComplete (dt fi k : Nat)
  /-- COPY_DATA_TRANSFER (R81): At the first cycle boundary after loading, instance data are copied from a survivor. -/
  | copyDataTransfer (dt fi k : Nat)
  /-- CLUSTER_MEMORY_FAILED (R88): An uncorrectable cluster memory or a failed filter block fails the cluster and places its rings again. -/
  | clusterMemoryFailed (dt cc : Nat)
  /-- CANARY_CHECK (R69): Every 100 µs each engine's canary rate is compared with its required rate. -/
  | canaryCheck (dt : Nat) (rates : List (Bool × Nat × Nat × Nat))
  /-- MARGIN_LOST_TIMEOUT (R70): Margin lost 1 ms after the ceiling makes the engine SLOW and moves its failing copies. -/
  | marginLostTimeout (dt : Nat) (ls : Bool) (cc no : Nat)
  /-- CORE_VOLTAGE_UPDATE (R388): Every 100 µs each compute rail is raised, lowered or held. -/
  | coreVoltageUpdate (dt : Nat)
  /-- SCRUB_PASS (R297): The scrubber reads, corrects or poisons lines of every SRAM region. -/
  | scrubPass (dt region cc ms : Nat) (found : List (Nat × Nat))
  /-- BACKGROUND_TEST (R298): An idle engine, comparator or delay buffer is tested in its free time. -/
  | backgroundTest (dt kind id : Nat) (pass : Bool) (passMs : Option Nat)
  /-- CAPTURE_HORIZON (R256): At T + H a recorder writes the entries of time T and evaluates its triggers on them. -/
  | captureHorizon (dt cap : Nat)
  /-- SEGMENT_COMPLETE (R261): A segment's CRC is written and it becomes COMPLETE. -/
  | segmentComplete (dt : Nat)
  /-- ARCHIVE_COPY_COMPLETE (R271): A segment's copy to the NAND archive ends and its lock is released. -/
  | archiveCopyComplete (dt : Nat)
  /-- PAIR_TICK_SEND (R307): At B + 1 µs the ACTIVE sends its TICK record on both links. -/
  | pairTickSend (dt : Nat)
  /-- PAIR_TICK_LATE (R308): A TICK record not sent by B + 3 µs drops publish enable in hardware. -/
  | pairTickLate (dt : Nat)
  /-- PAIR_TICK_RECEIVED (R309): A partner's TICK record drives the pair state machine. -/
  | pairTickReceived (dt : Nat) (rx : PairRx) (st mseq tick : Nat)
  /-- PAIR_RESULT_RECEIVED (R313): The standby compares a RESULT record with its own cycle. -/
  | pairResultReceived (dt : Nat) (rx : PairRx) (fi : Nat) (held : Bool) (tick sig outCrc imgCrc : Nat)
  /-- PAIR_PUB_RECEIVED (R314): The standby takes stNum, sqNum and SENT from a PUB record. -/
  | pairPubReceived (dt : Nat) (rx : PairRx) (pub : Nat) (sent : Bool) (tick stNum sqNum : Nat)
  /-- PAIR_MIRROR_RECEIVED (R311): The standby executes a mirrored command in MIRROR_SEQ order. -/
  | pairMirrorReceived (dt : Nat) (rx : PairRx) (mseq : Nat) (pkt : Bytes)
  /-- PAIR_DATA_RECEIVED (R319): The standby loads instance data from a DATA record. -/
  | pairDataReceived (dt : Nat) (rx : PairRx) (fi tick off : Nat) (data : Bytes)
  /-- PAIR_GIVE_UP_RECEIVED (R317): A STANDBY receiving GIVE_UP takes over control. -/
  | pairGiveUpReceived (dt : Nat) (rx : PairRx) (cause tick : Nat)
  /-- TAKEOVER_TIMEOUT (R317): PAIR_OK low and no TICK by B + 5 µs makes the STANDBY take over. -/
  | takeoverTimeout (dt : Nat)
  /-- PAIR_OK_CHANGE (R309): A change on PAIR_OK drives the pair state machine. -/
  | pairOkChange (dt : Nat) (level : Bool)
  /-- PAIR_WAIT_TIMEOUT (R309): A WAITING module that sees no partner for 100 or 150 ms goes ACTIVE_ALONE. -/
  | pairWaitTimeout (dt : Nat)
  /-- PAIR_LINK_SILENT (R320): Silence on one or both pair links is handled without takeover. -/
  | pairLinkSilent (dt link : Nat)
  /-- ROUND_START (R326): At R_r the manager starts the poll frames and sources latch their slot values. -/
  | roundStart (dt : Nat)
  /-- LAP2_SEND (R328): The manager sends a returned frame again as lap 2 at D2. -/
  | lap2Send (dt : Nat)
  /-- POLL_FRAME_RECEIVED (R328): A device forwards a poll frame, inserts its records and reads the verified records. -/
  | pollFrameReceived (dt : Nat) (rx : StratusRx) (pdu : Bytes)
  /-- ROUND_COMMIT (R331): At C_r every device commits its bound slots and corrects TB2. -/
  | roundCommit (dt : Nat)
  /-- NODE_LOST (R332): A node silent for 16 rounds is lost and an unpaired worker's instances move. -/
  | nodeLost (dt node : Nat)
  /-- MGMT_MESSAGE_RECEIVED (R333): A Stratus management frame is executed at its destination and acknowledged. -/
  | mgmtMessageReceived (dt : Nat) (rx : StratusRx) (src dst mseq : Nat) (body : MgmtBody)
  /-- MGMT_MESSAGE_RETRY (R333): An unacknowledged management message is repeated every 10 ms. -/
  | mgmtMessageRetry (dt : Nat)
  /-- PTP_SYNC (R356): An accepted Sync feeds the servo, which steps, rejects or adjusts rate. -/
  | ptpSync (dt port : Nat) (m : PtpSync) (t2 : Nat)
  /-- PTP_FOLLOW_UP (R356): A Follow_Up completes a two-step Sync measurement. -/
  | ptpFollowUp (dt port : Nat) (m : PtpSync)
  /-- PTP_ANNOUNCE (R352): An Announce message enters the best master selection. -/
  | ptpAnnounce (dt port : Nat) (m : PtpAnnounce)
  /-- PDELAY_REQ (R353): Horizon answers a Pdelay_Req as a two-step responder. -/
  | pdelayReq (dt port domain requester seq t2 t3 : Nat)
  /-- PTP_SYNC_TIMEOUT (R358): No Sync for 3 intervals or an Announce timeout puts a base in HOLDOVER. -/
  | ptpSyncTimeout (dt base : Nat)
  /-- REVERT_TIMEOUT (R362): After REVERT_TIME of TB0 LOCKED, protection time returns to TB0. -/
  | revertTimeout (dt : Nat)
  /-- SLEW_COMPLETE (R361): The slew of protection time brings e to exactly 0. -/
  | slewComplete (dt : Nat)
  /-- LEAP_SECOND (R366): UTC_OFFSET changes at the end of the announced UTC day. -/
  | leapSecond (dt : Nat)
  /-- PULSE_INSTANT (R367): A pulse output fires at its programmed instant. -/
  | pulseInstant (dt pin : Nat)
  /-- TPI_EDGE (R370): An accepted TPI edge is captured and delivered to chains, recorders and the queue. -/
  | tpiEdge (dt pin : Nat) (rising : Bool) (pt width : Nat)
  /-- PLL_LOCK_LOSS (R384): A PLL loses lock; its ports, time bases or PCIe link are affected. -/
  | pllLockLoss (dt dom rx : Nat)
  /-- PLL_RELOCK (R384): A PLL regains lock. -/
  | pllRelock (dt dom : Nat)
  /-- SOURCE_ACTIVITY (R378): A clock source showing 16 edges in 1 µs opens a qualification window. -/
  | sourceActivity (dt src : Nat)
  /-- QUALIFICATION_WINDOW_END (R377): A window ends and the source is QUALIFIED, FAILED or judged by R380. -/
  | qualificationWindowEnd (dt src : Nat) (off half iro : Int)
  /-- SOURCE_LOSS_OF_ACTIVITY (R379): No edge for 4 periods fails a source. -/
  | sourceLossOfActivity (dt src : Nat)
  /-- RATIO_CHECK (R379): Every 100 µs source ratios to IRO are compared and trips are taken. -/
  | ratioCheck (dt : Nat) (ratios : List Nat) (offs : List Int)
  /-- REFINEMENT_END (R377): A 1 s refinement makes a source FINE or FAILED. -/
  | refinementEnd (dt src : Nat) (off : Int)
  /-- SOURCE_RETRY (R378): A FAILED source with edges for RETRY_TIME qualifies again. -/
  | sourceRetry (dt src : Nat)
  /-- WAIT_TO_RESTORE_EXPIRY (R381): A higher-priority source QUALIFIED for WAIT_TO_RESTORE is selected under REVERTIVE. -/
  | waitToRestoreExpiry (dt : Nat)
  /-- REFERENCE_SWITCH_COMPLETE (R383): A domain's reference switch completes with 3 cycles lost. -/
  | referenceSwitchComplete (dt dom : Nat)
  /-- POWER_UP (R517): VIN and VAUX become valid and the boot sequence runs. -/
  | powerUp (dt vin vaux : Nat) (b : BootScan)
  /-- COMMAND_READY (R517): Boot completes and the command channels open. -/
  | commandReady (dt : Nat) (f : BootFindings)
  /-- RESET_N (R514): RESET_N held low resets the module and restarts the boot sequence. -/
  | resetN (dt : Nat) (level : Bool) (b : BootScan)
  /-- VIN_WARNING (R390): VIN falls below VIN_WARN; hold-up actions and give-up follow. -/
  | vinWarning (dt vin : Nat)
  /-- VIN_RECOVERED (R389): VIN above VIN_WARN + 0.10 V for 10 ms returns the supply to RUNNING. -/
  | vinRecovered (dt vin : Nat)
  /-- VIN_LOSS (R389): VIN below 2.30 V holds the module in reset. -/
  | vinLoss (dt vin : Nat)
  /-- VAUX_LOSS (R391): VAUX lost with VIN present is a tamper event. -/
  | vauxLoss (dt : Nat)
  /-- TAMPER (R479): A tamper event zeroises every key by hardware. -/
  | tamper (dt : Nat) (low : Bool)
  /-- REMASK (R472): A slot is re-masked after its TAG check. -/
  | remask (dt slot : Nat)
  /-- TAG_CHECK (R470): The background TAG check finds a slot UNUSABLE when it fails. -/
  | tagCheck (dt slot flip : Nat)
  /-- TAP_INSTRUCTION (R540): A JTAG TAP instruction is loaded; non-BYPASS instructions put Halo in TEST. -/
  | tapInstruction (dt n : Nat)
  /-- OLD_KEY_EXPIRY (R477): A MACsec receive SA's previous key stops being accepted after 1 s. -/
  | oldKeyExpiry (dt link : Nat)
  /-- NONCE_EXPIRY (R494): A clear nonce expires after 60 s. -/
  | nonceExpiry (dt : Nat)
  /-- RECORD_COMMIT (R486): Contrail commits the next queued record to the MRAM ring. -/
  | recordCommit (dt : Nat)
  /-- BIN_CHANGE_ACCEPTED (R508): A debounced input change is accepted or puts the input in CHATTER. -/
  | binChangeAccepted (dt n : Nat) (level : Bool) (held : Nat)
  /-- CHATTER_RELEASE (R508): No change for RELEASE_MS returns a chattering input to NORMAL. -/
  | chatterRelease (dt n : Nat) (level : Bool) (held : Nat)
  /-- BIN_STUCK_TIMEOUT (R508): An input held at 1 for STUCK_MS goes STUCK. -/
  | binStuckTimeout (dt n : Nat)
  /-- INTERRUPT_MESSAGE (R460): A message interrupt event is taken, checked by Squall and delivered to Zenith and the host. -/
  | interruptMessage (dt : Nat)
  /-- WIRED_LINE_CHANGE (R458): A wired interrupt line changes and the event is taken. -/
  | wiredLineChange (dt : Nat)
  /-- SQUALL_RELEASE (R465): A masked source returns to service after RELEASE. -/
  | squallRelease (dt src : Nat)
  /-- STUCK_TIMEOUT (R464): A level source active beyond MAX_ASSERT is masked. -/
  | stuckTimeout (dt src : Nat)
  /-- INTERRUPT_ACK (R461): A Zenith core acknowledges and receives its highest delivered source. -/
  | interruptAck (dt core : Nat)
  /-- END_OF_INTERRUPT (R461): A Zenith core ends an interrupt; an out-of-order end forces its watchdog. -/
  | endOfInterrupt (dt core src : Nat)
  /-- MSIX_UNMASK (R462): Lifting an MSI-X mask sends the pending message. -/
  | msixUnmask (dt vi : Nat) (vec : Option Nat)
  /-- ICU_PENDING_CLEAR (R462): A W1C write to ICU_PENDING clears PENDING bits. -/
  | icuPendingClear (dt vi word bits : Nat)
  /-- ICU_UNMASK (R465): A write to ICU_UNMASK unmasks a source. -/
  | icuUnmask (dt vi src : Nat)
  /-- HIF_CMD_TAIL (R440): A doorbell write of CMD_TAIL offers new command descriptors. -/
  | hifCmdTail (dt vi tail : Nat) (writes : List (Nat × Bytes))
  /-- HIF_DLV_HEAD (R440): A doorbell write of DLV_HEAD releases delivery entries. -/
  | hifDlvHead (dt vi head : Nat)
  /-- HIF_CONTROL_WRITE (R441): A write to HIF_CONTROL enables or stops the rings. -/
  | hifControlWrite (dt vi v : Nat)
  /-- HIF_RESET (R454): A write of RESET starts a reset of the instance. -/
  | hifReset (dt vi : Nat)
  /-- RING_ERROR_CLEAR (R443): Clearing RING_ERROR resumes the rings from CMD_HEAD. -/
  | ringErrorClear (dt vi : Nat)
  /-- DESCRIPTOR_TAKE (R445): With queue and delivery room the G5128 takes and checks a command descriptor. -/
  | descriptorTake (dt vi : Nat)
  /-- TU_INV (R448): A write to TU_INV invalidates translation cache entries. -/
  | tuInv (dt vi : Nat) (all : Bool)
  /-- TU_INV_COMPLETE (R448): The invalidation finishes and BUSY reads 0. -/
  | tuInvComplete (dt : Nat)
  /-- DIRTY_SWAP (R449): A write of SWAP starts exchanging the dirty bitmaps. -/
  | dirtySwap (dt vi : Nat)
  /-- DIRTY_SWAP_COMPLETE (R449): The swap completes and the other bitmap becomes active. -/
  | dirtySwapComplete (dt vi : Nat)
  /-- BRIDGE_READ (R452): A host read through a bridge window returns internal data. -/
  | bridgeRead (dt vi addr len : Nat)
  /-- BRIDGE_WRITE (R452): A host write through a bridge window is committed, ignored or fails. -/
  | bridgeWrite (dt vi addr : Nat) (data : Bytes) (fault : Bool)
  /-- FLR (R454): A function-level reset starts a reset of the instance. -/
  | flr (dt vi : Nat)
  /-- VF_ENABLE_CLEAR (R454): Clearing VF Enable resets every VF. -/
  | vfEnableClear (dt : Nat)
  /-- PERST (R438): PERST_N resets the host interface of every instance. -/
  | perst (dt : Nat)
  /-- PCIE_LINK_DOWN (R438): Loss of the PCIe link resets the host interface of every instance. -/
  | pcieLinkDown (dt : Nat)
  /-- DRAIN_TIMEOUT (R455): After 200 µs of DRAIN the outstanding reads are squashed. -/
  | drainTimeout (dt vi : Nat)
  /-- INSTANCE_RESET_COMPLETE (R454): An instance reset completes and RESETTING reads 0. -/
  | instanceResetComplete (dt vi : Nat)
  /-- DMA_COMPLETION (R455): A read completion arrives and is used or discarded as late. -/
  | dmaCompletion (dt vi tag gen : Nat) (err : Bool)
  /-- DMA_COMPLETION_TIMEOUT (R446): A read not completed in 50 ms times out. -/
  | dmaCompletionTimeout (dt vi tag : Nat)
  /-- RC_REGISTER_READ (R8): A read of an RC register returns its value and clears it. -/
  | rcRegisterRead (dt vi off : Nat) (aligned : Bool)
  /-- REGISTER_WRITE (R7): A write to a register without a row of its own acts as its access code gives. -/
  | registerWrite (dt : Nat) (w : RegWrite)
  /-- ADD (R163): d = a + b modulo 2^32. -/
  | peAdd (e : Nat) (d a b : Reg)
  /-- SUB (R163): d = a − b modulo 2^32. -/
  | peSub (e : Nat) (d a b : Reg)
  /-- AND (R163): Bitwise AND. -/
  | peAnd (e : Nat) (d a b : Reg)
  /-- OR (R163): Bitwise OR. -/
  | peOr (e : Nat) (d a b : Reg)
  /-- XOR (R163): Bitwise XOR. -/
  | peXor (e : Nat) (d a b : Reg)
  /-- SHL (R163): Shift left by b[4:0]. -/
  | peShl (e : Nat) (d a b : Reg)
  /-- SHR (R163): Logical shift right by b[4:0]. -/
  | peShr (e : Nat) (d a b : Reg)
  /-- SHRA (R163): Arithmetic shift right by b[4:0]. -/
  | peShra (e : Nat) (d a b : Reg)
  /-- CMPLT (R163): Signed less-than comparison. -/
  | peCmplt (e : Nat) (d a b : Reg)
  /-- CMPLTU (R163): Unsigned less-than comparison. -/
  | peCmpltu (e : Nat) (d a b : Reg)
  /-- MUL (R163): Low 32 bits of the product. -/
  | peMul (e : Nat) (d a b : Reg)
  /-- MULHS (R163): High 32 bits of the signed product. -/
  | peMulhs (e : Nat) (d a b : Reg)
  /-- MULHU (R163): High 32 bits of the unsigned product. -/
  | peMulhu (e : Nat) (d a b : Reg)
  /-- DIVS (R163): Signed quotient with defined division by zero. -/
  | peDivs (e : Nat) (d a b : Reg)
  /-- DIVU (R163): Unsigned quotient with defined division by zero. -/
  | peDivu (e : Nat) (d a b : Reg)
  /-- REMS (R163): Signed remainder. -/
  | peRems (e : Nat) (d a b : Reg)
  /-- REMU (R163): Unsigned remainder. -/
  | peRemu (e : Nat) (d a b : Reg)
  /-- MIN (R163): Signed minimum. -/
  | peMin (e : Nat) (d a b : Reg)
  /-- MAX (R163): Signed maximum. -/
  | peMax (e : Nat) (d a b : Reg)
  /-- SEL (R163): Selects a or b by G[c]. -/
  | peSel (e : Nat) (d a b c : Reg)
  /-- CLZ (R163): Counts leading zero bits. -/
  | peClz (e : Nat) (d a : Reg)
  /-- SHLI (R163): Shift left by the immediate c-field. -/
  | peShli (e : Nat) (d a c : Reg)
  /-- SHRI (R163): Logical shift right by the immediate c-field. -/
  | peShri (e : Nat) (d a c : Reg)
  /-- SHRAI (R163): Arithmetic shift right by the immediate c-field. -/
  | peShrai (e : Nat) (d a c : Reg)
  /-- ADDS (R164): Saturating add. -/
  | peAdds (e : Nat) (d a b : Reg)
  /-- SUBS (R164): Saturating subtract. -/
  | peSubs (e : Nat) (d a b : Reg)
  /-- NEGS (R164): Saturating negate. -/
  | peNegs (e : Nat) (d a : Reg)
  /-- ABSS (R164): Saturating absolute value. -/
  | peAbss (e : Nat) (d a : Reg)
  /-- MULQ (R164): Rounded, shifted and saturated product. -/
  | peMulq (e : Nat) (d a b c : Reg)
  /-- SHLS (R164): Saturating shift left. -/
  | peShls (e : Nat) (d a c : Reg)
  /-- SHRR (R164): Rounding shift right. -/
  | peShrr (e : Nat) (d a c : Reg)
  /-- CLAMP (R164): Clamps a between b and G[c]. -/
  | peClamp (e : Nat) (d a b c : Reg)
  /-- FADD (R165): Binary32 add. -/
  | peFadd (e : Nat) (d a b : Reg)
  /-- FSUB (R165): Binary32 subtract. -/
  | peFsub (e : Nat) (d a b : Reg)
  /-- FMUL (R165): Binary32 multiply. -/
  | peFmul (e : Nat) (d a b : Reg)
  /-- FDIV (R165): Binary32 divide. -/
  | peFdiv (e : Nat) (d a b : Reg)
  /-- FMA (R165): Fused multiply-add. -/
  | peFma (e : Nat) (d a b c : Reg)
  /-- FNMS (R165): Fused negated multiply-subtract. -/
  | peFnms (e : Nat) (d a b c : Reg)
  /-- FSQRT (R165): Binary32 square root. -/
  | peFsqrt (e : Nat) (d a : Reg)
  /-- FRCP (R165): Binary32 reciprocal. -/
  | peFrcp (e : Nat) (d a : Reg)
  /-- FMIN (R174): Binary32 minimum. -/
  | peFmin (e : Nat) (d a b : Reg)
  /-- FMAX (R174): Binary32 maximum. -/
  | peFmax (e : Nat) (d a b : Reg)
  /-- FABS (R165): Clears the sign bit. -/
  | peFabs (e : Nat) (d a : Reg)
  /-- FNEG (R165): Inverts the sign bit. -/
  | peFneg (e : Nat) (d a : Reg)
  /-- FEQ (R174): Binary32 equality comparison. -/
  | peFeq (e : Nat) (d a b : Reg)
  /-- FLT (R174): Binary32 less-than comparison. -/
  | peFlt (e : Nat) (d a b : Reg)
  /-- FLE (R174): Binary32 less-or-equal comparison. -/
  | peFle (e : Nat) (d a b : Reg)
  /-- FCVTFI (R175): Integer to binary32 conversion. -/
  | peFcvtfi (e : Nat) (d a : Reg)
  /-- FCVTIF (R175): Binary32 to integer conversion. -/
  | peFcvtif (e : Nat) (d a : Reg)
  /-- QTOF (R175): Fixed point to binary32 conversion. -/
  | peQtof (e : Nat) (d a c : Reg)
  /-- FTOQ (R175): Binary32 to fixed point conversion. -/
  | peFtoq (e : Nat) (d a c : Reg)
  /-- MAC (R166): Multiply-accumulate into A[k]. -/
  | peMac (e : Nat) (a b : Reg) (k : Fin 4)
  /-- MSU (R166): Multiply-subtract from A[k]. -/
  | peMsu (e : Nat) (a b : Reg) (k : Fin 4)
  /-- ACLR (R166): Clears A[k]. -/
  | peAclr (e : Nat) (k : Fin 4)
  /-- ALD (R166): Loads A[k] with a shifted value. -/
  | peAld (e : Nat) (a b : Reg) (k : Fin 4)
  /-- ARD (R166): Reads A[k] rounded, shifted and saturated. -/
  | peArd (e : Nat) (d b : Reg) (k : Fin 4)
  /-- ISQRT (R176): Integer square root. -/
  | peIsqrt (e : Nat) (d a : Reg)
  /-- MAG (R176): Integer vector magnitude. -/
  | peMag (e : Nat) (d a b : Reg)
  /-- ATAN2 (R176): CORDIC binary angle. -/
  | peAtan2 (e : Nat) (d a b : Reg)
  /-- RECIPQ (R176): Fixed-point reciprocal. -/
  | peRecipq (e : Nat) (d a c : Reg)
  /-- PHASOR (R176): Harmonic phasor of N samples. -/
  | pePhasor (e : Nat) (d a b c : Reg)
  /-- ADDK (R168): Adds a sign-extended constant. -/
  | peAddk (e : Nat) (d a : Reg) (k : BitVec 14)
  /-- ANDK (R168): ANDs a zero-extended constant. -/
  | peAndk (e : Nat) (d a : Reg) (k : BitVec 14)
  /-- ORK (R168): ORs a zero-extended constant. -/
  | peOrk (e : Nat) (d a : Reg) (k : BitVec 14)
  /-- XORK (R168): XORs a zero-extended constant. -/
  | peXork (e : Nat) (d a : Reg) (k : BitVec 14)
  /-- CMPLTK (R168): Signed comparison with a constant. -/
  | peCmpltk (e : Nat) (d a : Reg) (k : BitVec 14)
  /-- ADDSK (R168): Saturating add of a constant. -/
  | peAddsk (e : Nat) (d a : Reg) (k : BitVec 14)
  /-- MOVL (R168): Loads a zero-extended 16-bit constant. -/
  | peMovl (e : Nat) (d : Reg) (k : BitVec 16)
  /-- MOVH (R168): Sets the high half of a register. -/
  | peMovh (e : Nat) (d : Reg) (k : BitVec 16)
  /-- LD_W (R168): Loads a word. -/
  | peLdW (e : Nat) (d a : Reg) (k : BitVec 14)
  /-- LD_H (R168): Loads a sign-extended halfword. -/
  | peLdH (e : Nat) (d a : Reg) (k : BitVec 14)
  /-- LD_HU (R168): Loads a zero-extended halfword. -/
  | peLdHu (e : Nat) (d a : Reg) (k : BitVec 14)
  /-- LD_B (R168): Loads a sign-extended byte. -/
  | peLdB (e : Nat) (d a : Reg) (k : BitVec 14)
  /-- LD_BU (R168): Loads a zero-extended byte. -/
  | peLdBu (e : Nat) (d a : Reg) (k : BitVec 14)
  /-- ST_W (R168): Stores a word into the signature. -/
  | peStW (e : Nat) (d a : Reg) (k : BitVec 14)
  /-- ST_H (R168): Stores a halfword. -/
  | peStH (e : Nat) (d a : Reg) (k : BitVec 14)
  /-- ST_B (R168): Stores a byte. -/
  | peStB (e : Nat) (d a : Reg) (k : BitVec 14)
  /-- BR_EQ (R169): Branches if equal. -/
  | peBrEq (e : Nat) (a b : Reg) (k : BitVec 14)
  /-- BR_NE (R169): Branches if not equal. -/
  | peBrNe (e : Nat) (a b : Reg) (k : BitVec 14)
  /-- BR_LT (R169): Branches if signed less. -/
  | peBrLt (e : Nat) (a b : Reg) (k : BitVec 14)
  /-- BR_GE (R169): Branches if signed greater or equal. -/
  | peBrGe (e : Nat) (a b : Reg) (k : BitVec 14)
  /-- BR_LTU (R169): Branches if unsigned less. -/
  | peBrLtu (e : Nat) (a b : Reg) (k : BitVec 14)
  /-- BR_GEU (R169): Branches if unsigned greater or equal. -/
  | peBrGeu (e : Nat) (a b : Reg) (k : BitVec 14)
  /-- GOTO (R169): Relative jump. -/
  | peGoto (e : Nat) (k : BitVec 24)
  /-- CALL (R169): Pushes the return address and jumps. -/
  | peCall (e : Nat) (k : BitVec 24)
  /-- RET (R169): Pops the return stack into PC. -/
  | peRet (e : Nat)
  /-- GOTOI (R169): Indirect jump to G[a]. -/
  | peGotoi (e : Nat) (a : Reg)
  /-- END (R157): Ends a PE copy. -/
  | peEnd (e : Nat)
  /-- MFS (R170): Reads STATUS. -/
  | peMfs (e : Nat) (d : Reg)
  /-- MTS (R170): Writes STATUS flags. -/
  | peMts (e : Nat) (a : Reg)
  /-- TRAP (R170): Raises TRAP with a code. -/
  | peTrap (e : Nat) (k : BitVec 14)
  /-- ILLEGAL_ENCODING (R161): An undefined or malformed encoding raises ILLEGAL. -/
  | peIllegalEncoding (e : Nat)
  /-- LS_LD (R192): ACC = bit. -/
  | lsLd (e : Nat) (sp : Fin 4) (i : Fin 1024)
  /-- LS_LDN (R192): ACC = NOT bit. -/
  | lsLdn (e : Nat) (sp : Fin 4) (i : Fin 1024)
  /-- LS_AND (R192): ACC AND bit. -/
  | lsAnd (e : Nat) (sp : Fin 4) (i : Fin 1024)
  /-- LS_ANDN (R192): ACC AND NOT bit. -/
  | lsAndn (e : Nat) (sp : Fin 4) (i : Fin 1024)
  /-- LS_OR (R192): ACC OR bit. -/
  | lsOr (e : Nat) (sp : Fin 4) (i : Fin 1024)
  /-- LS_ORN (R192): ACC OR NOT bit. -/
  | lsOrn (e : Nat) (sp : Fin 4) (i : Fin 1024)
  /-- LS_XOR (R192): ACC XOR bit. -/
  | lsXor (e : Nat) (sp : Fin 4) (i : Fin 1024)
  /-- LS_ST (R192): bit = ACC. -/
  | lsSt (e : Nat) (sp : Fin 4) (i : Fin 1024)
  /-- LS_STN (R192): bit = NOT ACC. -/
  | lsStn (e : Nat) (sp : Fin 4) (i : Fin 1024)
  /-- LS_SET (R192): Sets the bit if ACC is 1. -/
  | lsSet (e : Nat) (sp : Fin 4) (i : Fin 1024)
  /-- LS_RST (R192): Clears the bit if ACC is 1. -/
  | lsRst (e : Nat) (sp : Fin 4) (i : Fin 1024)
  /-- EDGE_RISE (R196): Rising-edge detection through an M bit. -/
  | lsEdgeRise (e : Nat) (i : Fin 1024)
  /-- EDGE_FALL (R196): Falling-edge detection through an M bit. -/
  | lsEdgeFall (e : Nat) (i : Fin 1024)
  /-- TON (R197): On-delay timer. -/
  | lsTon (e : Nat) (n : Fin 128)
  /-- TOF (R197): Off-delay timer. -/
  | lsTof (e : Nat) (n : Fin 128)
  /-- TP (R197): Pulse timer. -/
  | lsTp (e : Nat) (n : Fin 128)
  /-- CTU (R198): Up counter. -/
  | lsCtu (e : Nat) (n : Fin 128)
  /-- CTD (R198): Down counter. -/
  | lsCtd (e : Nat) (n : Fin 128)
  /-- CRST (R198): Counter reset. -/
  | lsCrst (e : Nat) (n : Fin 128)
  /-- CLD (R198): Counter load. -/
  | lsCld (e : Nat) (n : Fin 128)
  /-- LS_AND_OPEN (R194): Pushes (ACC, AND). -/
  | lsAndOpen (e : Nat)
  /-- LS_ANDN_OPEN (R194): Pushes (ACC, ANDN). -/
  | lsAndnOpen (e : Nat)
  /-- LS_OR_OPEN (R194): Pushes (ACC, OR). -/
  | lsOrOpen (e : Nat)
  /-- LS_ORN_OPEN (R194): Pushes (ACC, ORN). -/
  | lsOrnOpen (e : Nat)
  /-- LS_XOR_OPEN (R194): Pushes (ACC, XOR). -/
  | lsXorOpen (e : Nat)
  /-- LS_CLOSE (R194): Pops and combines with ACC. -/
  | lsClose (e : Nat)
  /-- LS_NOT (R193): ACC = NOT ACC. -/
  | lsNot (e : Nat)
  /-- LS_END (R193): Ends an LS copy at DEPTH 0. -/
  | lsEnd (e : Nat)
  /-- LS_NOP (R193): Does nothing. -/
  | lsNop (e : Nat)
  /-- JMP (R195): Forward jump. -/
  | lsJmp (e : Nat) (n : BitVec 8)
  /-- JC (R195): Forward jump if ACC is 1. -/
  | lsJc (e : Nat) (n : BitVec 8)
  /-- JNC (R195): Forward jump if ACC is 0. -/
  | lsJnc (e : Nat) (n : BitVec 8)
  /-- LS_ILLEGAL_ENCODING (R191): An undefined LS encoding raises ILLEGAL. -/
  | lsIllegalEncoding (e : Nat)
  /-- MODULE_RESET_BEGIN (R60): 1 ms after the reply to a MODULE-type RESET is posted, the module reset begins and the boot sequence starts with cause 3. -/
  | moduleResetBegin (dt : Nat) (b : BootScan)
  /-- OPERATING_SECOND (R484): At each whole operating second OPERATING_SECONDS is written through and the temperature and core-voltage histograms take their sample. -/
  | operatingSecond (dt vin vaux : Nat) (temps : List Int)
  /-- VAUX_RESTORED (R391): VAUX returns while VIN is present and TB3 restarts from 0. -/
  | vauxRestored (dt : Nat)
  /-- PDELAY_RESPONSE (R353): A Pdelay_Resp or its follow-up received on a port updates that port's measured meanLinkDelay. -/
  | pdelayResponse (dt port t1 t2 t3 t4 : Nat) (corr : Int)
  /-- LINK_DELAY_MEASUREMENT (R334): A Stratus link-delay measurement exchange on the reverse direction of a ring cable completes and updates the link delay, raising LINK_DELAY_EXCEEDED if it exceeds LINK_DELAY. -/
  | linkDelayMeasurement (dt port rtt : Nat)
  /-- TAP_RESET (R473): The JTAG TAP returns to Test-Logic-Reset by TRST_N or five TCK cycles with TMS high, and Halo leaves phase TEST. -/
  | tapReset (dt : Nat)
  /-- UART_TX_COMPLETE (R507): A UART finishes transmitting a character, and a pending SET_UART takes effect for the bytes still queued. -/
  | uartTxComplete (dt n : Nat)
  /-- WORKER_STATE_REPORT (R333): A worker sends its placement-state report to the manager when 100 ms have passed since its last report. -/
  | workerStateReport (dt : Nat)
  /-- MANAGER_LISTEN_TIMEOUT (R516): A MANAGER enabled on Stratus that has heard no poll frame for 2 ms stops listening and polls with EPOCH 1 once a schedule is active. -/
  | managerListenTimeout (dt : Nat)
  /-- TB2_DELTA_MEASUREMENT (R364): At each tick boundary of protection time Horizon measures Δ = TB2 − protection time and raises TB2_DIVERGED when |Δ| exceeds 1 µs. -/
  | tb2DeltaMeasurement (dt : Nat)
  deriving DecidableEq, Repr

end Sys2Proof
end

