-- ==== Sys2Proof/WellFormed.lean ====
section
/-! DEFINITION. Which commands are well formed: every field of a packet fits the bits its header gives it (02 R32, R34),
and its parameters fill whole words up to the largest LENGTH. -/
namespace Sys2Proof

/-- Channels: the PCIe rings of VI00 to VI63, UART0 (64), Ethernet (65), and the model's own numbers for the partner (66)
and the manager (67) (02 R37). -/
def Cmd.chanOk (c : Cmd) : Bool := decide (c.chan ≤ 67)

/-- The header fields fit (02 R32, R34). -/
def Cmd.headerOk (c : Cmd) : Bool :=
  decide (c.opcode < 2 ^ 16) && decide (c.flags < 2 ^ 8) && decide (c.inst < 2 ^ 8) && decide (c.tag < 2 ^ 16) &&
    decide (c.seq < 2 ^ 32)

/-- The parameters are whole words and at most 1 024 of them (02 R32). -/
def Cmd.paramsOk (c : Cmd) : Bool := c.params.length % 4 == 0 && decide (c.params.length ≤ 4096)

def Cmd.wf (c : Cmd) : Bool := c.chanOk && c.headerOk && c.paramsOk

end Sys2Proof
end

