-- ==== Sys2Proof/Config.lean ====
section
/-! DEFINITION. What an individual part or its implementation fixes, and the free values: constants without a body, so
that nothing can be proved of their values. -/
namespace Sys2Proof.Config

/-- Module serial number, 64 bits (02 GET_IDENTITY, 21 R500). -/
opaque serial : BitVec 64

/-- Assembly lot, eight characters (02 GET_IDENTITY). -/
opaque lot : Fin 8 → Byte

/-- Boot ROM version (02 GET_FIRMWARE_INFO, 23 R519). -/
opaque romVersion : Byte

/-- Silicon stepping of this part: letter and digit (00 R4). -/
opaque stepLetter : Byte
opaque stepDigit : Byte

/-- The 28-byte identity fuse image of each chiplet, its fused CRC (21 R500). -/
opaque fuse : Nat → Fin 28 → Byte
opaque fuseCrc : Nat → BitVec 32

/-- Amolivo's public key in the boot ROM, a point of P-384 (23 R519). -/
opaque romKeyX : BitVec 384
opaque romKeyY : BitVec 384

/-- The slot-integrity key fused in chiplet Z, 256 bits (20 R470). -/
opaque integrityKey : Fin 32 → Byte

/-- Free values (log entry 5): the n-th value drawn from the random source of chiplet Z (20, 21 R494), a byte of it. -/
opaque randomByte : Nat → Byte

/-- Free values (log entry 5): a number the chapters leave open, of the n-th draw. -/
opaque freeNat : Nat → BitVec 64

/-- Amolivo's JEDEC manufacturer code (24 R540). -/
opaque jedec : BitVec 11

/-- Source MAC address of the frames an unpaired module originates (09, 16; the chapters give none). -/
opaque sourceMac : BitVec 48

/-- The bucket of the forwarding table in which a (MAC, VID) key is kept (16 R398). -/
opaque fdbBucket : Nat → Nat → BitVec 12

end Sys2Proof.Config
end

