-- ==== Sys2Proof/Machine/Bytes.lean ====
section
/-! DEFINITION. Byte strings: little-endian and big-endian fields (00 R6), the two CRCs of chapter 02 (R33, R35)
and the field checks that checks 12 and 13 of R41 use. -/
namespace Sys2Proof.Machine

/-- The byte at offset `o`, as a number; 0 past the end. -/
def byteAt (p : Bytes) (o : Nat) : Nat := (p.getD o 0).toNat

/-- The number a little-endian byte string holds (R6). -/
def leNat : Bytes → Nat
  | [] => 0
  | b :: bs => b.toNat + 256 * leNat bs

/-- The number a big-endian byte string holds (R6, fields on the wire). -/
def beNat (p : Bytes) : Nat := p.foldl (fun a b => 256 * a + b.toNat) 0

/-- The `n` bytes at offset `o`. -/
def slice (p : Bytes) (o n : Nat) : Bytes := (p.drop o).take n

/-- A little-endian field of `n` bytes at offset `o`. -/
def uN (p : Bytes) (o n : Nat) : Nat := leNat (slice p o n)

def u16 (p : Bytes) (o : Nat) : Nat := uN p o 2
def u32 (p : Bytes) (o : Nat) : Nat := uN p o 4
def u64 (p : Bytes) (o : Nat) : Nat := uN p o 8

/-- A number of `bits` bits read as two's complement. -/
def toSigned (bits v : Nat) : Int :=
  if v % 2 ^ bits < 2 ^ (bits - 1) then (v % 2 ^ bits : Nat) else ((v % 2 ^ bits : Nat) : Int) - (2 ^ bits : Nat)

/-- Two's complement of an integer in `bits` bits. -/
def ofSigned (bits : Nat) (i : Int) : Nat := (i % ((2 ^ bits : Nat) : Int)).toNat

def s16 (p : Bytes) (o : Nat) : Int := toSigned 16 (u16 p o)
def s32 (p : Bytes) (o : Nat) : Int := toSigned 32 (u32 p o)
def s64 (p : Bytes) (o : Nat) : Int := toSigned 64 (u64 p o)

/-- `v` as `n` little-endian bytes. -/
def le : Nat → Nat → Bytes
  | 0, _ => []
  | n + 1, v => BitVec.ofNat 8 v :: le n (v / 256)

/-- `v` as `n` big-endian bytes. -/
def be (n v : Nat) : Bytes := (le n v).reverse

/-- A signed field of `n` little-endian bytes. -/
def leS (n : Nat) (i : Int) : Bytes := le n (ofSigned (8 * n) i)

/-- `n` zero bytes. -/
def zeros (n : Nat) : Bytes := List.replicate n 0

/-- `p` cut or zero-padded to `n` bytes. -/
def padTo (n : Nat) (p : Bytes) : Bytes := p.take n ++ zeros (n - p.length)

/-- `p` zero-padded to whole 32-bit words. -/
def padWord (p : Bytes) : Bytes := p ++ zeros ((4 - p.length % 4) % 4)

def boolNat (b : Bool) : Nat := if b then 1 else 0

/-- A list of truth values as a bit mask, bit 0 first. -/
def bitsNat : List Bool → Nat
  | [] => 0
  | b :: bs => boolNat b + 2 * bitsNat bs

/-- Bit `i` of `v`. -/
def bit (v i : Nat) : Bool := v / 2 ^ i % 2 == 1

/-- The indices below `n` whose bit is 1 in `v`, ascending. -/
def bitList (n v : Nat) : List Nat := (List.range n).filter (bit v)

/-- Ceiling division. -/
def ceilDiv (a b : Nat) : Nat := (a + b - 1) / b

/-- One bit of the CRC-16 of R33 (polynomial 0x1021, not reflected). -/
def crc16Bit (c : Nat) : Nat :=
  if c ≥ 0x8000 then (2 * c) % 0x10000 ^^^ 0x1021 else 2 * c

def crc16Byte (c : Nat) (b : Byte) : Nat :=
  crc16Bit (crc16Bit (crc16Bit (crc16Bit (crc16Bit (crc16Bit (crc16Bit (crc16Bit (c ^^^ (b.toNat * 256)))))))))

/-- HCRC (R33): initial value 0xFFFF, no reflection, no final XOR. -/
def crc16 (p : Bytes) : Nat := p.foldl crc16Byte 0xFFFF

/-- One bit of CRC-32C (R35, RFC 3720 form: reflected 0x1EDC6F41). -/
def crc32cBit (c : Nat) : Nat := if c % 2 = 1 then c / 2 ^^^ 0x82F63B78 else c / 2

def crc32cByte (c : Nat) (b : Byte) : Nat :=
  crc32cBit (crc32cBit (crc32cBit (crc32cBit (crc32cBit (crc32cBit (crc32cBit (crc32cBit (c ^^^ b.toNat))))))))

/-- The running register of CRC-32C over `p` from `c`, without the final inversion (06 R158 uses it). -/
def crc32cRun (c : Nat) (p : Bytes) : Nat := p.foldl crc32cByte c

/-- CRC-32C (R35): initial value and final XOR all ones. -/
def crc32c (p : Bytes) : Nat := crc32cRun 0xFFFFFFFF p ^^^ 0xFFFFFFFF

/-- The offset of the first byte that is not zero among the given (offset, size) ranges (check 12, R11). -/
def firstNonzero (p : Bytes) : List (Nat × Nat) → Option Nat
  | [] => none
  | (o, n) :: rs =>
    match (slice p o n).findIdx? (· != 0) with
    | some i => some (o + i)
    | none => firstNonzero p rs

/-- The offset of the first byte with a reserved bit set, the reserved bits given as (offset, mask). -/
def reservedBits (p : Bytes) : List (Nat × Nat) → Option Nat
  | [] => none
  | (o, m) :: rs => if byteAt p o &&& m ≠ 0 then some o else reservedBits p rs

/-- The offset of the first field whose check fails (check 13 of R41): fields as (offset, is it in range). -/
def firstBad : List (Nat × Bool) → Option Nat
  | [] => none
  | (o, ok) :: rs => if ok then firstBad rs else some o

/-- The lesser of two optional offsets. -/
def minOpt : Option Nat → Option Nat → Option Nat
  | some a, some b => some (min a b)
  | some a, none => some a
  | none, b => b

/-- Checks one after the other: the first that fails. -/
def orElseOpt (a b : Option Nat) : Option Nat := match a with | some x => some x | none => b

/-- A field of bits `lo` to `lo + n - 1` of `v`. -/
def bitsOf (v lo n : Nat) : Nat := v / 2 ^ lo % 2 ^ n

/-- A counter of `bits` bits that saturates at all ones (R10). -/
def satAdd (bits c n : Nat) : Nat := min (c + n) (2 ^ bits - 1)

/-- A 32-bit event counter takes one event (R10). -/
def inc32 (c : Nat) : Nat := satAdd 32 c 1

/-- The signed difference a - b of two counters of `bits` bits (R45, R349). -/
def sdiff (bits a b : Nat) : Int := toSigned bits (ofSigned bits ((a : Int) - (b : Int)))

/-- Clamp an integer between two bounds. -/
def clampInt (lo hi x : Int) : Int := if x < lo then lo else if x > hi then hi else x

/-- Integer division rounded toward zero. -/
def divToZero (a b : Int) : Int := a.tdiv b

/-- Division of an integer by a positive natural number, rounded toward minus infinity. -/
def divFloor (a : Int) (b : Nat) : Int := a.fdiv (b : Int)

/-- ASCII codes as bytes. -/
def ascii (cs : List Nat) : Bytes := cs.map (BitVec.ofNat 8)

end Sys2Proof.Machine
end

