-- ==== Sys2Proof/Machine/Table.lean ====
section
/-! DEFINITION. Sparse tables: lists of (key, value) pairs with strictly rising keys, the one canonical form in which
every table and memory of State is held. -/
namespace Sys2Proof.Machine

/-- A table from numbers to values, keys strictly rising. -/
abbrev Tab (α : Type) := List (Nat × α)

/-- The value under `k`, if any. -/
def Tab.get {α : Type} : Tab α → Nat → Option α
  | [], _ => none
  | (k', v) :: t, k => if k' = k then some v else Tab.get t k

/-- The value under `k`, or `d`. -/
def Tab.getD {α : Type} (t : Tab α) (k : Nat) (d : α) : α := (Tab.get t k).getD d

/-- Puts `v` under `k`, keeping the keys rising. -/
def Tab.put {α : Type} : Tab α → Nat → α → Tab α
  | [], k, v => [(k, v)]
  | (k', w) :: t, k, v =>
    if k < k' then (k, v) :: (k', w) :: t
    else if k = k' then (k, v) :: t
    else (k', w) :: Tab.put t k v

/-- Removes the entry under `k`. -/
def Tab.del {α : Type} : Tab α → Nat → Tab α
  | [], _ => []
  | (k', w) :: t, k => if k = k' then t else (k', w) :: Tab.del t k

/-- Changes the entry under `k`, if there is one. -/
def Tab.upd {α : Type} : Tab α → Nat → (α → α) → Tab α
  | [], _, _ => []
  | (k', w) :: t, k, f => if k = k' then (k', f w) :: t else (k', w) :: Tab.upd t k f

/-- Changes the entry under `k`, taking `d` for one that is absent. -/
def Tab.modD {α : Type} (t : Tab α) (k : Nat) (d : α) (f : α → α) : Tab α := t.put k (f (t.getD k d))

/-- Is there an entry under `k`? -/
def Tab.has {α : Type} (t : Tab α) (k : Nat) : Bool := (Tab.get t k).isSome

/-- Keeps the entries that satisfy `p`. -/
def Tab.keep {α : Type} (t : Tab α) (p : Nat → α → Bool) : Tab α := t.filter (fun e => p e.1 e.2)

/-- Every value changed by `f`. -/
def Tab.mapV {α : Type} (t : Tab α) (f : Nat → α → α) : Tab α := t.map (fun e => (e.1, f e.1 e.2))

/-- Replaces element `i` of a list, where there is one. -/
def setAt {α : Type} : List α → Nat → α → List α
  | [], _, _ => []
  | _ :: t, 0, v => v :: t
  | x :: t, i + 1, v => x :: setAt t i v

/-- Changes element `i` of a list, where there is one. -/
def modAt {α : Type} : List α → Nat → (α → α) → List α
  | [], _, _ => []
  | x :: t, 0, f => f x :: t
  | x :: t, i + 1, f => x :: modAt t i f

/-- Inserts into a list sorted by `before`, after elements that come before it. -/
def insertBy {α : Type} (before : α → α → Bool) (x : α) : List α → List α
  | [] => [x]
  | y :: t => if before x y then x :: y :: t else y :: insertBy before x t

/-- Sorts a list by `before`, keeping the order of equals. -/
def sortBy {α : Type} (before : α → α → Bool) : List α → List α
  | [] => []
  | x :: t => insertBy before x (sortBy before t)

/-- The stored byte of a sparse memory; an unlisted address reads as 0 (log entry 4). -/
def memRead (m : Tab Byte) (a : Nat) : Byte := m.getD a 0

/-- Writes one byte of a sparse memory, keeping the canonical form: writing the value that an unlisted address
reads as removes the entry. -/
def memWrite (m : Tab Byte) (a : Nat) (v : Byte) : Tab Byte := if v = 0 then m.del a else m.put a v

/-- The `n` bytes from `a` up of cells that all lie at `a` or above. -/
def readCells : Nat → Nat → Tab Byte → List Byte
  | 0, _, _ => []
  | n + 1, a, [] => 0 :: readCells n (a + 1) []
  | n + 1, a, (k, v) :: t => if k = a then v :: readCells n (a + 1) t else 0 :: readCells n (a + 1) ((k, v) :: t)

/-- Reads `n` bytes from `a` up. -/
def memReadN (m : Tab Byte) (a n : Nat) : List Byte := readCells n a (m.filter (fun e => a ≤ e.1))

/-- A byte string as the listed cells of a sparse memory from `a` up. -/
def cellsOf : Nat → List Byte → Tab Byte
  | _, [] => []
  | a, b :: bs => if b = 0 then cellsOf (a + 1) bs else (a, b) :: cellsOf (a + 1) bs

/-- Writes a byte string from `a` up: what lies below, the string, what lies above. -/
def memWriteN (m : Tab Byte) (a : Nat) (p : List Byte) : Tab Byte :=
  m.filter (fun e => e.1 < a) ++ (cellsOf a p ++ m.filter (fun e => a + p.length ≤ e.1))

/-- A byte string listed whole from `a` up, zeros too, over what a table lists there: coverage of a container in chunks. -/
def putChunk (m : Tab Byte) (a : Nat) (p : List Byte) : Tab Byte :=
  m.filter (fun e => e.1 < a) ++ ((List.range p.length).zipWith (fun i b => (a + i, b)) p ++ m.filter (fun e => a + p.length ≤ e.1))

/-- Clears `n` bytes from `a` up. -/
def memClear (m : Tab Byte) (a n : Nat) : Tab Byte := m.filter (fun e => e.1 < a || a + n ≤ e.1)

/-- The canonical form of a sparse memory: addresses strictly rising, no entry equal to 0. -/
def Memory.wf : Tab Byte → Bool
  | [] => true
  | [(_, v)] => v != 0
  | (a, v) :: (b, w) :: t => v != 0 && a < b && Memory.wf ((b, w) :: t)

end Sys2Proof.Machine
end

