-- ==== Sys2Proof/Machine/State.lean ====
section
/-! DEFINITION. The state of the G5128 as plain data: every register, table, queue, counter, mode and pin the chapters
give it, and the queue of waiting commands. Field defaults are the reset values; INVENTORY.md lists each with its rule. -/
namespace Sys2Proof.Machine

/-- Why a command could stop with a fault. The part has no such command: every row has an effect (NOTES.md, Stops). -/
inductive Fault where
  deriving DecidableEq, Repr

/-- Why a command is refused. -/
inductive Refusal where
  /-- Raised by the dispatch for a row that has no meaning yet. Safe: nothing can be proved about the row. -/
  | notModelled (mnemonic : String)
  deriving DecidableEq, Repr

/-- What leaves the module, oldest first (the model's own record of outputs). -/
inductive Sent where
  /-- A reply or completion report on a command channel (02 R36). -/
  | reply (chan dest : Nat) (bytes : Bytes)
  /-- A frame or fragment on the wire of a port: its start in 1/589824 ns of protection time, its bytes without FCS, and
  whether it ends with a good FCS (16, 17). -/
  | frame (port start : Nat) (bytes : Bytes) (good : Bool)
  /-- A verify (SMD-V, 0x07) or response (SMD-R, 0x19) packet of the MAC merge sublayer (17 R433). -/
  | mpacket (port smd : Nat)
  /-- A record on a pair link (12 R307). -/
  | pair (link : Nat) (bytes : Bytes)
  /-- A Stratus poll frame sent by ring port, its PDU from the subheader, and whether it ends with a good FCS (13 R327, R331). -/
  | stratus (port : Nat) (bytes : Bytes) (good : Bool)
  /-- Bytes written to host memory of a VI by DMA (18 R444). -/
  | dma (vi addr : Nat) (bytes : Bytes)
  /-- A DMA read asked of host memory (18 R446): VI, tag, address, bytes. -/
  | dmaRead (vi tag addr len : Nat)
  /-- An MSI-X message (19 R462). -/
  | msix (vi vec : Nat)
  /-- The completion of a host read of a BAR (18 R450, R452): status 0 successful, 1 Unsupported Request, 2 with EP set. -/
  | completion (vi status : Nat) (bytes : Bytes)
  /-- A host write of a BAR that completes with Unsupported Request (18 R450). -/
  | unsupported (vi : Nat)
  /-- A character on a UART (22). -/
  | uart (n ch : Nat)
  /-- A transfer on an I2C master (17 R435). -/
  | i2c (master : Nat) (bytes : Bytes)
  /-- A pulse on a TPO pin at an instant of its base (14 R367). -/
  | pulse (pin : Nat) (start : Nat) (width : Nat)
  /-- A PTP message (14 R353). -/
  | ptp (port : Nat) (bytes : Bytes)
  /-- A Stratus management message by its OUT port: SRC, DST, MSG_SEQ, what it carries (13 R333). -/
  | mgmt (port src dst mseq : Nat) (body : MgmtBody)
  deriving DecidableEq, Repr

/-! ### Command channels and Zenith (02) -/

/-- The stored reply of a channel (R45, R46). -/
inductive StoredReply where
  | none
  | unsent
  | suppressed
  | sent (bytes : Bytes)
  deriving DecidableEq, Repr

/-- A queued packet with its arrival number. -/
structure Queued where
  arrival : Nat
  urgent  : Bool
  cmd     : Cmd
  deriving DecidableEq, Repr

/-- One command channel (R37): binding, sequence state, stored reply, queue and counters. -/
structure Channel where
  enabled  : Bool := false
  binding  : Nat := 0
  last     : Option Bytes := Option.none
  reply    : StoredReply := .none
  busyK    : Nat := 0
  queue    : List Queued := []
  hdrErrs  : Nat := 0
  gaps     : Nat := 0
  framing  : Nat := 0
  dropped  : Nat := 0
  deriving DecidableEq, Repr

/-- What an accepted command waits for (R53). -/
inductive Wait where
  | place
  | image
  | settings (fi tick : Nat)
  | stage
  | switch
  | segment
  | worker (node mseq : Nat)
  | instReset (vi : Nat)
  | i2c (master : Nat)
  | schedule
  | handover
  | switchover (tick : Nat)
  | record
  | firmware
  deriving DecidableEq, Repr

/-- A command that replied ACCEPTED (R53): what it waits for, whether it passed its commit point (R50), and its final
status, detail and result words once known; `quiet` where its plain reply is only deferred (08 WRITE_SETTINGS). -/
structure Accepted where
  cmd       : Cmd
  wait      : Wait
  committed : Bool
  result    : Option (Nat × Nat × Bytes)
  quiet     : Bool := false
  deriving DecidableEq, Repr

/-- The management state machine (R56). -/
inductive Mgmt where
  | running
  | restarting
  | lost
  deriving DecidableEq, Repr

/-- Zenith and the command channels. `after` is a command whose effect begins once its reply has left (R60, R61); `expiries` are
the watchdog expiries of the last 60 s (TB3); `resetDue` the TB3 of the reply to a MODULE reset, and its FORCE; `remote` the last answer to
a command of the partner; `load` in 0.01 %. -/
structure CmdState where
  channels     : Tab Channel := []
  ethPort      : Nat := 0
  ethVlan      : Nat := 0
  ethMac       : Nat := 0
  arrivals     : Nat := 0
  rrNext       : Nat := 0
  accepted     : List Accepted := []
  mgmt         : Mgmt := .running
  expiries     : List Nat := []
  restarts     : Nat := 0
  load         : Nat := 0
  busy         : Bool := false
  busyReplies  : Nat := 0
  loadUpdates  : Nat := 0
  lostAtStatus : Nat := 0
  resetDue     : Option (Nat × Bool) := Option.none
  after        : Option Cmd := Option.none
  remote       : Option (Nat × Nat × Bytes) := Option.none
  deriving DecidableEq, Repr

/-! ### Placement (03) -/

/-- An engine: PE cc.no or LS cc.no. -/
structure Eng where
  ls : Bool
  cc : Nat
  no : Nat
  deriving DecidableEq, Repr

/-- Placement state of an instance (03, GET_PLACEMENT). -/
inductive PlState where
  | declared
  | placed
  | simplexTemp
  | duplexTemp
  | degraded
  | shed
  | unassigned
  | assigned
  deriving DecidableEq, Repr

/-- State of one copy (03, GET_PLACEMENT byte 2). -/
inductive CopySt where
  | running
  | loading
  | lost
  deriving DecidableEq, Repr

/-- Physical areas of a copy on its engine (06 R151). -/
structure Areas where
  codeBase  : Nat := 0
  codeBytes : Nat := 0
  entry     : Nat := 0
  dataBase  : Nat := 0
  dataBytes : Nat := 0
  inBase    : Nat := 0
  inBytes   : Nat := 0
  outBase   : Nat := 0
  outWords  : Nat := 0
  deriving DecidableEq, Repr

/-- One copy of a placed instance: its engine, span, areas, whether its code is loaded while its data are not (R81),
its copy-table counters (06 R151), the areas and span of a staged image (08 R222), the areas
of the image before a switch until the change completes (08 R227),
whether it moved here and has not run its first cycle (21 R489), and the engine and areas on which a lagging copy runs until then (11 R290). -/
structure Copy where
  eng       : Option Eng
  st        : CopySt
  span      : Nat
  areas     : Areas := {}
  codeIn    : Bool := false
  lastIc    : Nat := 0
  maxIc     : Nat := 0
  frozen    : Nat := 0
  was       : Option Eng := Option.none
  newAreas  : Option Areas := Option.none
  oldAreas  : Option Areas := Option.none
  newSpan   : Nat := 0
  moved     : Bool := false
  lag       : Option (Eng × Areas) := Option.none
  deriving DecidableEq, Repr

/-- Run state of an instance (08 R213). -/
inductive RunSt where
  | ready
  | starting
  | running
  | stopping
  | stopped
  | faulted
  deriving DecidableEq, Repr

/-- Start modes (08 R217). -/
inductive StartMode where
  | cold
  | warm
  | resume
  deriving DecidableEq, Repr

/-- A retained record (08 R218); `seq` is the SEQ of its copy (21 R495). -/
structure Retained where
  hash  : Nat
  image : Nat
  cycle : Nat
  tick  : Nat
  data  : Bytes
  seq   : Nat := 0
  deriving DecidableEq, Repr

/-- What one copy posted for a cycle (11 R273): latch tick, signature, CRC of its outputs, exception record if any, its
OUTPUT words and retain region as they stood then, and whether an injection acted on it. -/
structure Posted where
  tick   : Nat
  sig    : Nat
  outCrc : Nat
  exc    : Option Bytes
  outs   : List Nat
  data   : Bytes := []
  inj    : Bool := false
  deriving DecidableEq, Repr

/-- The verdict of a cycle (11 R280). -/
inductive Verdict where
  | released (outs : List Nat)
  | withheld
  | faulted
  deriving DecidableEq, Repr

/-- A copy that takes part in a cycle, with the engine, areas and span it runs on. -/
structure Part where
  k     : Nat
  eng   : Eng
  areas : Areas
  span  : Nat
  deriving DecidableEq, Repr

/-- One cycle in the pipeline between latch and publication: its tick, whether it ran, CYCLE of its header, the image
it runs, the copies that take part, those that gave up their slot (11 R282), IMAGE_CRC (12 R307), the posts of copies 1 to
3, the verdict once known and the copy accepted. -/
structure Cycle where
  tick    : Nat
  ran     : Bool
  cyc     : Nat
  image   : Nat
  who     : List Part
  displaced : List Nat
  imgCrc  : Nat
  posts   : List (Option Posted)
  verdict : Option Verdict
  accepted : Nat := 0
  deriving DecidableEq, Repr

/-- A setting write waiting for its latch (08 R219), and the VI of its command. -/
structure SetWrite where
  offset : Nat
  value  : Bytes
  tick   : Nat
  origin : Nat
  deriving DecidableEq, Repr

/-- Where an output word or bit of an instance goes (09 R232). -/
structure OutBind where
  signal : Nat
  word   : Nat
  bit    : Nat
  deriving DecidableEq, Repr

/-- A function instance: declaration (03), placement (03), program and run state (08), output bindings (09) and
containment counters (11). `warmAfter` is B_d of a transient restart that is due at the first latch after it (11 R284);
`lastTick` and `lastPub` are the latches of the last cycle begun and of the last publication instant; `everOut` and
`published` whether it has published since it was placed and since it was started (08 R215, R210); `snapDue` the latch
from which the next accepted cycle is snapshot (08 R218); `outs` the output words last published;
`firstNew` its switch latch and `newOut` whether it has published since (08 R227). -/
structure Inst where
  owner      : Nat
  cls        : Nat
  cycle      : Nat
  phaseDecl  : Nat
  kind       : Nat
  shedPrio   : Nat
  image      : Nat
  wcic       : Nat
  codeBytes  : Nat
  dataBytes  : Nat
  imageBytes : Nat
  nodeMask   : Nat
  channels   : List Nat
  declNo     : Nat
  place      : PlState := .declared
  phase      : Nat := 0xFF
  node       : Nat := 0xFF
  copies     : List Copy := []
  run        : RunSt := .ready
  prevRun    : RunSt := .ready
  lastMode   : Option StartMode := Option.none
  mode       : StartMode := .cold
  pubDelay   : Nat := 0
  cycleNo    : Nat := 0
  nextTick   : Nat := 0
  lastTick   : Option Nat := Option.none
  lastPub    : Option Nat := Option.none
  restart    : Bool := false
  coldNext   : Bool := false
  warmAfter  : Option Nat := Option.none
  faultCode  : Nat := 0
  faultNext  : Bool := false
  bindN      : Nat := 0
  binds      : Tab Nat := []
  published  : Bool := false
  everOut    : Bool := false
  safe       : Bool := true
  safeFrom   : Option Nat := Option.none
  changed    : Bool := false
  setWrites  : List SetWrite := []
  snapDue    : Option Nat := Option.none
  snapSecond : Nat := 0
  cycles     : List Cycle := []
  outs       : List Nat := []
  outBinds   : List OutBind := []
  cmp        : Option (Nat × Nat) := Option.none
  compared   : Nat := 0
  withheld   : Nat := 0
  mismatches : Nat := 0
  masked     : Nat := 0
  transients : Nat := 0
  displaced  : Nat := 0
  lastFault  : Nat := 0
  lastFaultTick : Nat := 0
  removeNext : Bool := false
  firstNew   : Option Nat := Option.none
  newOut     : Bool := false
  lastGood   : Option Retained := Option.none
  newImage   : Option Nat := Option.none
  deriving DecidableEq, Repr

/-- Engine states (03, GET_ENGINE). -/
inductive EngSt where
  | inService
  | spare
  | failed
  | slow
  deriving DecidableEq, Repr

/-- Copy state machine of an engine (06 R159). -/
inductive Phase where
  | idle
  | running
  | signing
  | done
  | exception
  deriving DecidableEq, Repr

/-- The registers of a PE (06 R148). -/
structure PeRegs where
  g      : List Word := List.replicate 32 0
  a      : List Acc := List.replicate 4 0
  sat    : Bool := false
  nv     : Bool := false
  dz     : Bool := false
  ovf    : Bool := false
  fz     : Bool := false
  nx     : Bool := false
  rs     : List Word := []
  deriving DecidableEq, Repr

/-- The registers of an LS (07 R186): ACC and the nesting stack, newest first. -/
structure LsRegs where
  acc   : Bool := false
  stack : List (Bool × Nat) := []
  deriving DecidableEq, Repr

/-- The copy an engine is running in this cycle (06 R159): instance, copy number, latch tick, ENTRY_FLAGS, the areas
it runs on, the frozen half, WCIC, cycle class in ticks, PC, ICOUNT and the store bytes that enter the signature (R158). -/
structure Exec where
  fi     : Nat
  copy   : Nat
  tick   : Nat
  flags  : Nat
  areas  : Areas
  frozen : Nat
  wcic   : Nat
  cycle  : Nat
  span   : Nat
  pc     : Nat
  ic     : Nat
  log    : Bytes
  exc    : Option Bytes
  deriving DecidableEq, Repr

/-- An engine, PE or LS: state, canary measurements, local memory, registers and running copy; its
transients of the last 60 s (boundaries B_d), the boundary B_d of a diagnosis due, and whether one runs (11 R281, R282). -/
structure Engine where
  st       : EngSt := .inService
  canary   : Nat := 0
  canaries : List (Nat × Nat) := []
  lostSince : Option Nat := Option.none
  goodSince : Option Nat := Option.none
  mem      : Tab Byte := []
  pe       : PeRegs := {}
  lsr      : LsRegs := {}
  phase    : Phase := .idle
  exec     : Option Exec := Option.none
  transients : List Nat := []
  diagDue  : Option Nat := Option.none
  diagOn   : Bool := false
  deriving DecidableEq, Repr

/-- A channel ring (04 R112, R114): cluster, depth, address and slots not yet forgotten. -/
structure Ring where
  cc    : Nat
  depth : Nat
  addr  : Nat
  bytes : Nat
  units : Nat
  deriving DecidableEq, Repr

/-- Placement tables (03), and the bytes of the cluster sample memories, keyed by cluster × 0x20_0000 + offset (04 R114). -/
structure PlaceState where
  insts     : Tab Inst := []
  nextDecl  : Nat := 1
  pes       : Tab Engine := []
  lss       : Tab Engine := []
  point     : Nat := 0
  extra     : Nat := 0
  exhausted : Bool := false
  rings     : Tab Ring := []
  samples   : Tab Byte := []
  noRing    : List Nat := []
  ringWait  : List Nat := []
  begun     : Bool := false
  badFilter : List Nat := []
  placing   : Bool := false
  failing   : List (Eng × Nat) := []
  deriving DecidableEq, Repr

/-! ### Ingest (04) -/

/-- Stream states (R105). -/
inductive StreamSt where
  | disabled
  | waiting
  | learning
  | running
  | lost
  deriving DecidableEq, Repr

/-- An open position of a stream's channels (R103): filed value and SQW per data-set entry, or a pending cause. -/
structure Slot where
  filed : Option (List (Int × Nat)) := Option.none
  cause : Nat := 0
  deriving DecidableEq, Repr

/-- The anchor of an unsynchronised stream (R107): position, the smpCnt paired with it (SV) or the time of the block's last
sample in 1/589824 ns (travelling wave), and the smpSynch then. -/
structure Anchor where
  n0    : Int
  count : Nat
  synch : Nat
  deriving DecidableEq, Repr

/-- A stream definition (DEFINE_STREAM). -/
structure StreamDef where
  fmt       : Nat
  rate      : Nat
  nAsdu     : Nat
  nEntries  : Nat
  auth      : Nat
  syncReq   : Nat
  portMask  : Nat
  destMac   : Nat
  appid     : Nat
  vlan      : Nat
  keySlot   : Nat
  confRev   : Nat
  ringSpan  : Nat
  lossTime  : Nat
  svid      : Bytes
  acceptSim : Bool
  channels  : List Nat
  deriving DecidableEq, Repr

/-- A position closed for the capture store (10 R256, R258): what its slot held at close, and the first late sample for it
with its ingress timestamp in 1/589824 ns. -/
structure Kept where
  held : Option (List (Int × Nat)) := Option.none
  late : Option (List (Int × Nat) × Nat) := Option.none
  deriving DecidableEq, Repr

/-- A stream: definition, alignment (R105), open positions and counters. X and D are in ns, every other time in units of
1/589824 ns. `closedTo` is the first open position; `kept` the closed positions that the capture store has not taken yet; `margins` are (t_a, cutoff − t_a) of the samples filed in the last
second. -/
structure Stream where
  cfg        : StreamDef
  owner      : Nat
  st         : StreamSt := .disabled
  margin     : Nat := 4600
  fixedDelay : Nat := 0
  x          : Option Int := Option.none
  d          : Option Int := Option.none
  meas       : List Int := []
  anchor     : Option Anchor := Option.none
  lastSynch  : Nat := 2
  lastFrame  : Nat := 0
  slots      : Tab Slot := []
  kept       : Tab Kept := []
  closedTo   : Nat := 0
  margins    : List (Nat × Int) := []
  frames     : Nat := 0
  late       : Nat := 0
  missing    : Nat := 0
  duplicate  : Nat := 0
  dupDiffer  : Nat := 0
  authFail   : Nat := 0
  rejected   : Nat := 0
  early      : Nat := 0
  unsync     : Nat := 0
  lossEvents : Nat := 0
  dupRecAt   : Option Nat := Option.none
  dupSince   : Nat := 0
  key        : Option Bytes := Option.none
  deriving DecidableEq, Repr

/-- Ingest (04): streams, which channel belongs to which entry, module totals. -/
structure IngestState where
  streams       : Tab Stream := []
  chanOf        : Tab (Nat × Nat) := []
  unmatched     : Nat := 0
  disabledDrops : Nat := 0
  deriving DecidableEq, Repr

/-! ### Filter chains (05) -/

/-- A coefficient bank (R126). -/
structure Bank where
  owner : Nat
  taps  : List Int
  firR  : Nat
  cicR  : Nat
  rates : Nat
  deriving DecidableEq, Repr

/-- A pending change of a channel (R131): reference changes carry the TPI arming that made them, if one did. -/
inductive Change where
  | setting (at_ : Nat) (bank : Nat) (gain : Int) (offset : Int) (single : Bool) (first : Nat) (count : Nat)
  | reference (at_ : Nat) (nRef : Nat) (tpi : Option Nat) (first : Nat) (count : Nat)
  deriving DecidableEq, Repr

/-- Detector kinds (R142 to R144) and their settings (R146). -/
structure Detector where
  enabled : Bool := false
  window  : Nat := 1
  thresh  : Nat := 0
  hyst    : Nat := 0
  signal  : Option Nat := Option.none
  level   : Bool := false
  env     : Nat := 0
  word    : Nat := 0
  outsSince : Nat := 0
  deriving DecidableEq, Repr

/-- What the chain remembers of an input position (R136 to R139): low half of the SQW, substituted, scale saturation,
taken under the settings in force since (a change number). -/
structure InPos where
  sqw   : Nat
  subst : Bool
  sat   : Bool
  epoch : Nat
  deriving DecidableEq, Repr

/-- One output record (R141): position, value, quality word, PEAK, RMS, ENVELOPE. -/
structure OutRec where
  pos     : Nat
  value   : Int
  sqw     : Nat
  peak    : Int
  rms     : Nat
  env     : Nat
  deriving DecidableEq, Repr

/-- The settings of a chain that were in force before position `at_` (10 R269): whether a setting change ended them (else a
reference change), bank, gain, offset, N_REF. -/
structure PastSetting where
  at_    : Nat
  setting : Bool
  bank   : Nat
  gain   : Int
  offset : Int
  nRef   : Nat
  deriving DecidableEq, Repr

/-- A channel's chain (R116 to R146): settings in force, pending changes, arithmetic state, the positions behind it
(newest first), the next position to take, output values with their MISSING mark for the detectors (newest first), the
output records (newest first), detectors and counters. -/
structure Chain where
  bank      : Nat
  gain      : Int := 0x40000000
  offset    : Int := 0
  single    : Bool := false
  nRef      : Nat := 0
  changes   : List Change := []
  past      : List PastSetting := []
  armed     : Option (Nat × Bool) := Option.none
  armList   : Nat × Nat := (0, 0)
  hist      : List Int := []
  cicInt    : List Int := [0, 0, 0]
  cicComb   : List Int := [0, 0, 0]
  hold      : Int := 0
  haveHold  : Bool := false
  inputs    : Nat := 0
  missRun   : Nat := 0
  needStart : Bool := true
  started   : Bool := false
  epoch     : Nat := 0
  window    : List InPos := []
  phaseCh   : Bool := false
  next      : Option Nat := Option.none
  outWin    : List (Int × Bool) := []
  outs      : List OutRec := []
  det       : List Detector := [{}, {}, {}]
  scaleSat  : Nat := 0
  outSat    : Nat := 0
  substituted : Nat := 0
  restarts  : Nat := 0
  deriving DecidableEq, Repr

/-- The filter-chain blocks (05): loaded banks, chains by channel. -/
structure FilterState where
  banks  : Tab Bank := []
  chains : Tab Chain := []
  deriving DecidableEq, Repr

/-! ### Programs (08) -/

/-- A function image in the store (R211, R212): owner, declared total, the bytes received by offset (zeros listed too), and
the container once loaded. -/
structure FnImage where
  owner   : Nat
  total   : Nat
  got     : Tab Byte
  loaded  : Bool
  bytes   : Bytes
  deriving DecidableEq, Repr

/-- On-line change states (GET_CHANGE). -/
inductive ChangeSt where
  | none
  | open_
  | staging
  | staged
  deriving DecidableEq, Repr

/-- An entry of a change set (R221). -/
inductive ChangeEntry where
  | replace (fi image : Nat)
  | add (fi : Nat)
  | remove (fi : Nat)
  | setting (fi offset : Nat) (value : Bytes)
  deriving DecidableEq, Repr

/-- The on-line change (R221 to R227). -/
structure OnLine where
  st       : ChangeSt := .none
  entries  : List ChangeEntry := []
  tick     : Nat := 0
  failFi   : Nat := 0
  failSt   : Nat := 0
  faultCls : Nat := 0
  deriving DecidableEq, Repr

/-- What drives a signal (09 R231). -/
inductive SigSrc where
  | none
  | output (fi : Nat)
  | detector (chan det : Nat)
  | subscription (sub : Nat)
  | stratus (slot : Nat)
  | binaryIn (n : Nat)
  deriving DecidableEq, Repr

/-- A signal (08 R206, R208): source, the values with the protection-time instants (units of 1/589824 ns) from which
they are visible, newest first, with their status bits; age for Stratus. -/
structure Signal where
  src    : SigSrc := .none
  vals   : List (Nat × Nat × Nat) := []
  deriving DecidableEq, Repr

/-- Programs and signals (08, 09). `retained` holds the current copies of the retained records, `retPrev` the other copies (21
R495). -/
structure ProgState where
  images   : Tab FnImage := []
  retained : Tab Retained := []
  retPrev  : Tab Retained := []
  change   : OnLine := {}
  signals  : Tab Signal := []
  deriving DecidableEq, Repr

/-! ### Publications and subscriptions (09) -/

/-- A pending route change (R244): the latch tick of its first cycle, the new port mask, the new entries. -/
structure Route where
  tick    : Nat
  mask    : Option Nat
  entries : Option (List (Nat × Nat))
  deriving DecidableEq, Repr

/-- A GOOSE publication (R233 to R244). Entries are (signal, TYPE). `first` and `nextDue` are latch ticks, `lastChange` an
instant in 1/589824 ns, `state` the encoded values last sent. -/
structure Publication where
  owner      : Nat
  driver     : Nat
  cls        : Nat
  auth       : Nat
  keySlot    : Nat
  mask       : Nat
  destMac    : Nat
  appid      : Nat
  vlan       : Nat
  pcp        : Nat
  sim        : Bool
  confRev    : Nat
  minI       : Nat
  maxI       : Nat
  gocb       : Bytes
  datset     : Bytes
  goid       : Bytes
  entries    : List (Nat × Nat)
  frameBytes : Nat
  enabled    : Bool := false
  first      : Option Nat := Option.none
  stNum      : Nat := 0
  sqNum      : Nat := 0
  state      : List Nat := []
  lastChange : Nat := 0
  j          : Nat := 0
  nextDue    : Nat := 0
  frames     : Nat := 0
  withheld   : Nat := 0
  routes     : List Route := []
  key        : Option Bytes := Option.none
  deriving DecidableEq, Repr

/-- Subscription states (R249). -/
inductive SubSt where
  | disabled
  | waiting
  | healthy
  | stale
  deriving DecidableEq, Repr

/-- A GOOSE subscription (R245 to R249). `arrivals` holds (t_a, end of timeAllowedtoLive) newest first; counters are in
the order of GET_SUBSCRIPTION. Instants in 1/589824 ns. -/
structure Subscription where
  owner    : Nat
  auth     : Nat
  accSim   : Bool
  accTest  : Bool
  mask     : Nat
  destMac  : Nat
  appid    : Nat
  vlan     : Nat
  keySlot  : Nat
  confRev  : Nat
  gocb     : Bytes
  entries  : List (Nat × Nat)
  st       : SubSt := .disabled
  last     : Option (Nat × Nat) := Option.none
  values   : List Nat := []
  arrivals : List (Nat × Nat) := []
  counters : List Nat := [0, 0, 0, 0, 0, 0, 0, 0, 0]
  key      : Option Bytes := Option.none
  deriving DecidableEq, Repr

/-- The publisher and the subscriptions (09). -/
structure PubState where
  pubs : Tab Publication := []
  subs : Tab Subscription := []
  deriving DecidableEq, Repr

/-! ### Disturbance capture (10) -/

/-- Recorder states (R260). -/
inductive RecSt where
  | disabled
  | armed
  | post
  | stopped
  | full
  deriving DecidableEq, Repr

/-- States of a segment (R267). `closing` is a segment past END whose CRC is not written yet (R261); it lists as RECORDING.
LOCKED is COMPLETE while a read or an archive copy holds it. -/
inductive SegSt where
  | free
  | recording
  | closing
  | complete
  deriving DecidableEq, Repr

/-- A segment: its state, SEGMENT_SEQ and whether it is STOP-set. -/
structure Seg where
  st   : SegSt := .free
  seq  : Nat := 0
  stop : Bool := false
  deriving DecidableEq, Repr

/-- A channel lane (R253, R254): channel, TAP, stream format and rate, capacity in entries. -/
structure Lane where
  chan : Nat
  tap  : Nat
  fmt  : Nat
  rate : Nat
  cap  : Nat
  deriving DecidableEq, Repr

/-- A trigger condition (SET_TRIGGER). `level` is signed, `ref` in ns. -/
structure Cond where
  type   : Nat
  mode   : Nat
  source : Nat
  stop   : Bool
  mask   : Nat
  level  : Int
  ref    : Nat
  deriving DecidableEq, Repr

/-- What a condition remembers of the previous position (R262): its truth, and the value and status (or quality bits). -/
structure CondMem where
  truth : Bool := false
  prev  : Option (Nat × Nat) := Option.none
  deriving DecidableEq, Repr

/-- An entry of a lane: position (or tick), its bytes, its capture quality (0 for signals). -/
structure Ent where
  pos   : Nat
  bytes : Bytes
  q     : Nat
  deriving DecidableEq, Repr

/-- A trigger acted on (R259, R268): T_trig, START and END in 1/589824 ns, the sources, EXTRA_TRIGGERS, what the header
says of the clocks at T_trig, HOLDOFF_SUPPRESSED. -/
structure Trig where
  seq     : Nat
  t       : Nat
  sources : Nat
  extra   : Nat := 0
  start   : Nat
  stop    : Nat
  follow1 : Bool
  tb0     : Option Nat
  heldOff : Nat
  deriving DecidableEq, Repr

/-- A segment being recorded (R256, R259): its index, H and A in 1/589824 ns; per lane the next position and the entries,
newest first; the signal lane likewise in ticks, with the snapshots of its boundaries not yet written; the conditions'
memory; TPI captures (pin, time) and forced times waiting for their horizon; the trigger acted on; stop pending;
truncated. -/
structure Run where
  seg    : Nat
  h      : Nat
  a      : Nat
  next   : List Nat
  ents   : List (List Ent)
  nextSig : Nat
  sigs   : List Ent := []
  snapTo : Nat
  snaps  : Tab (List (Nat × Nat)) := []
  mems   : List CondMem := List.replicate 8 {}
  tpi    : List (Nat × Nat) := []
  forced : List Nat := []
  trig   : Option Trig := Option.none
  stopPending : Bool := false
  trunc  : Bool := false
  deriving DecidableEq, Repr

/-- A recorder (R253, R260, R265). `run` records; `drains` are truncated segments of a recorder disabled in POST that still
wait for their horizon. `first` is its first block, `rate` its write rate in bytes/s; hold-off runs to the instant `holdTo`
or for `holdN` events; `heldOff` counts the suppressed since the last segment. Counters are in the order of
GET_RECORDER. -/
structure Recorder where
  owner    : Nat
  overwrite : Bool
  pre      : Nat
  post     : Nat
  grace    : Nat
  holdMode : Nat
  holdoff  : Nat
  archive  : Bool
  lanes    : List Lane
  signals  : List Nat
  first    : Nat
  segBytes : Nat
  rate     : Nat
  st       : RecSt := .disabled
  conds    : List (Option Cond) := List.replicate 8 Option.none
  h        : Nat := 0
  run      : Option Run := Option.none
  drains   : List Run := []
  segs     : List Seg
  seq      : Nat := 1
  holdTo   : Nat := 0
  holdN    : Nat := 0
  heldOff  : Nat := 0
  counters : List Nat := [0, 0, 0, 0, 0, 0]
  deriving DecidableEq, Repr

/-- A mask (R264, LOAD_MASK): M, its first block and the points loaded (LOWER, UPPER). -/
structure Mask where
  owner  : Nat
  m      : Nat
  first  : Nat
  points : Tab (Int × Int) := []
  deriving DecidableEq, Repr

/-- A segment in the NAND archive (R271). -/
structure Archived where
  cap   : Nat
  seq   : Nat
  bytes : Bytes
  deriving DecidableEq, Repr

/-- The capture store (10): recorders, masks, the bytes of the 32 MB store by offset, segments whose CRC is due and
archive copies that wait (recorder, segment), in completion order, and the archive, oldest first. -/
structure CaptureState where
  recs    : Tab Recorder := []
  masks   : Tab Mask := []
  store   : Tab Byte := []
  closing : List (Nat × Nat) := []
  copies  : List (Nat × Nat) := []
  archive : List Archived := []
  deriving DecidableEq, Repr

/-! ### Anvil (11) -/

/-- Hub states (R292). -/
inductive HubSt where
  | normal
  | fatal
  deriving DecidableEq, Repr

/-- Comparator states (R277, R288). -/
inductive CmpSt where
  | inService
  | spare
  | failed
  deriving DecidableEq, Repr

/-- A diagnosis called for by one verdict (R282, R283): instance, latch tick of the cycle, class of the instance then,
the engines diagnosed, B_d, the outcomes so far (true: passed), and the copy of an agreeing pair, if there was one, with
the dissenting copy, the engines of copies 1 to 3 for the record, and whether an injection made it. -/
structure Diag where
  fi      : Nat
  tick    : Nat
  engs    : List Eng
  due     : Nat
  results : List (Eng × Bool)
  good    : Option (Nat × Nat)
  cps     : List (Option Eng)
  injected : Bool
  deriving DecidableEq, Repr

/-- Memory health of one region and cluster (R294, GET_MEMORY_HEALTH). -/
structure MemHealth where
  corrData  : Nat := 0
  corrCheck : Nat := 0
  uncorr    : Nat := 0
  poisonReads : Nat := 0
  flagCorr  : Nat := 0
  passes    : Nat := 0
  lastMs    : Nat := 0
  deriving DecidableEq, Repr

/-- An armed injection (INJECT_FAULT): type, copy, target, the latch tick in which it acts (0: the next of its object). -/
structure Injection where
  type   : Nat
  copy   : Nat
  target : Nat
  tick   : Nat
  deriving DecidableEq, Repr

/-- Anvil (R273 to R299). Memory health is keyed by 32 × region + cluster. `poison` holds the POISONED lines, as internal
address / 32; `errs` the lines with bits flipped (true: two bits); `uncorrAt` the lines that became uncorrectable in the
last second with TB3, and whether within 10 s of a rewrite; `rewritten` the lines rewritten after poison with the TB3 of
the rewrite (R295). -/
structure AnvilState where
  hub       : HubSt := .normal
  cmps      : List CmpSt := List.replicate 40 .inService ++ List.replicate 8 .spare
  retired   : List (Nat × Nat) := []
  diags     : List Diag := []
  selfTest  : Bool := true
  passDone  : Bool := true
  lastPassMs : Nat := 0
  counters  : List Nat := List.replicate 13 0
  health    : Tab MemHealth := []
  poison    : List Nat := []
  errs      : Tab Bool := []
  uncorrAt  : List (Nat × Nat × Bool) := []
  rewritten : Tab Nat := []
  injections : List Injection := []
  deriving DecidableEq, Repr
/-! ### Module pairs (12) -/

/-- Pair states (R309). -/
inductive PairSt where
  | unpaired
  | waiting
  | standbySync
  | standby
  | activeAlone
  | active
  | givenUp
  deriving DecidableEq, Repr


/-- A PUB instant held by the standby's publisher (R314): publication, instant tick, its instant in 1/589824 ns, the
built frames (port, traffic class, bytes) and the SENT flag received. -/
structure Held where
  pub    : Nat
  tick   : Nat
  at_    : Nat
  frames : List (Nat × Nat × Bytes)
  sent   : Bool
  deriving DecidableEq, Repr

/-- A result of one cycle as RESULT records compare it (R313): verdict, signature, OUT_CRC, IMAGE_CRC. -/
structure ShadowResult where
  tick   : Nat
  held   : Bool
  sig    : Nat
  outCrc : Nat
  imgCrc : Nat
  deriving DecidableEq, Repr

/-- The pair unit (R306 to R320). Instants are TB3 values in 2^-40 ns unless they are ticks. `seqRx` is the FRAME_SEQ and
the record in it taken last; `lastA` and `lastB` the last frames on the links; `unfit` a standby that resynchronises when a
link returns (R320); `lapsed` a takeover condition met while STANDBY_SYNC; `toAt` is T_o in 1/589824 ns; `needData` the
instances whose DATA are to go to a partner that synchronises; `agreed` the tick since when an instance agrees (R319). -/
structure PairState where
  st         : PairSt := .unpaired
  configured : Bool := false
  linkA      : Nat := 0
  linkB      : Nat := 0
  keySlot    : Nat := 0
  mac        : Nat := 0
  node       : Nat := 0xFF
  pubEnable  : Bool := true
  pairOk     : Bool := false
  okSince    : Nat := 0
  partner    : Option (Nat × Nat) := Option.none
  lastA      : Option Nat := Option.none
  lastB      : Option Nat := Option.none
  silentA    : Bool := true
  silentB    : Bool := true
  unfit      : Bool := false
  lapsed     : Bool := false
  toAt       : Nat := 0
  wiring     : Bool := false
  lastCause  : Nat := 0
  counters   : List Nat := [0, 0, 0, 0, 0, 0, 0]
  seqTx      : Nat := 0
  seqRx      : Option (Nat × Nat) := Option.none
  mirrorTx   : Nat := 0
  mirrorRx   : Option Nat := Option.none
  mirrorLog  : List Bytes := []
  phases     : Tab Nat := []
  mismatches : List Nat := []
  agreed     : Tab Nat := []
  results    : Tab (List ShadowResult) := []
  held       : List Held := []
  lastTickRx : Option Nat := Option.none
  lastTickTx : Option Nat := Option.none
  waitSince  : Nat := 0
  switchTick : Option Nat := Option.none
  needData   : List Nat := []
  deriving DecidableEq, Repr
/-! ### Stratus (13) -/

/-- The settings of SET_STRATUS (R346). -/
structure StratusCfg where
  node      : Nat
  enable    : Bool
  ports     : List Nat
  keySlot   : Nat
  linkDelay : Nat
  devices   : Nat
  groupMac  : Nat
  deriving DecidableEq, Repr

/-- STATE of GET_STRATUS_STATUS. -/
inductive StratusSt where
  | disabled
  | joining
  | running
  deriving DecidableEq, Repr

/-- A schedule container as it arrives in chunks (LOAD_SCHEDULE): its TOTAL and every byte received. -/
structure SchedLoad where
  total : Nat
  got   : Tab Byte
  deriving DecidableEq, Repr

/-- A signal of a slot record: VALUE and FLAGS (R326). -/
structure SlotSig where
  value : Nat
  flags : Nat
  deriving DecidableEq, Repr

/-- A receive binding (BIND_RECEIVE) and what the slot has committed: per signal value, SAFE, AGE and whether a fresh
commit has been; the five counters of GET_SLOT. -/
structure SlotBind where
  ageLimit : Nat
  signals  : List Nat
  values   : List Nat
  safes    : List Bool
  ages     : List Nat
  ever     : List Bool
  counters : List Nat
  deriving DecidableEq, Repr

/-- What a round brought of one slot on one ring (R331): the record taken with its SOURCE's signals, whether it was the
manager's, whether a record failed its CRC, whether one came after C_r. -/
structure SlotSeen where
  taken   : Option (List SlotSig) := Option.none
  ready   : Bool := false
  crcBad  : Bool := false
  late    : Bool := false
  deriving DecidableEq, Repr

/-- A poll frame that a manager holds between its laps (R328): index, ring, PDU. -/
structure HeldPoll where
  index : Nat
  ring  : Nat
  pdu   : Bytes
  deriving DecidableEq, Repr

/-- A management message in the outbox (R333): destination, MSG_SEQ, what it carries, times sent, TB3 ns of the last sending. -/
structure MgmtMsg where
  dst   : Nat
  mseq  : Nat
  body  : MgmtBody
  tries : Nat
  at_   : Nat
  deriving DecidableEq, Repr

/-- A command of the manager that several workers carry out (03 R90, 08 R228): the instances placed (FI, node, phase, whether
the worker holds it already), the messages still unanswered (MSG_SEQ, node, FI), and the first refusal with its node. -/
structure Group where
  places : List (Nat × Nat × Nat × Bool)
  waits  : List (Nat × Nat × Nat)
  failed : Option (Nat × Nat × Nat × Bytes)
  deriving DecidableEq, Repr

/-- A schedule activation or handover under way (R340, ACTIVATE_SCHEDULE): the nodes that have confirmed, when it was asked
for (TB3 ns), and the round it takes effect once known. -/
structure Activation where
  version  : Nat
  waiting  : List Nat
  since    : Nat
  round    : Option Nat
  deriving DecidableEq, Repr

/-- STATUS of GET_SYNC (R335). -/
inductive SyncSt where
  | lost
  | degraded
  | fta
  deriving DecidableEq, Repr

/-- A command the manager keeps (R93): the worker that holds its instance, the instance, the packet as forwarded. -/
structure Forwarded where
  fi  : Nat
  pkt : Bytes
  deriving DecidableEq, Repr

/-- An instance that a manager moves to another worker (R93): its new node, the MSG_SEQ of its replayed commands still
unanswered, and whether it is then started. -/
structure Moving where
  fi    : Nat
  node  : Nat
  wait  : List Nat
  start : Bool
  deriving DecidableEq, Repr

/-- The Stratus bus (R323 to R347). `manager` and `backup` are the nodes in those roles now; `ownEpoch` is the epoch with
which this module polls; `listenAt` the TB3 ns from which a manager listens (23 R516); `tables` the schedules held by VERSION;
`round` the last round committed and `started` the last begun; `lap2` and `polled` whether a lap-2 copy of frame 0, and any
poll frame, came in the round that runs; `quiet` the rounds without one; `seen` is keyed by 2 × slot + ring; `frames` the
(index, ring) of frames verified; `latched` the own slots' values at R_r; `inserted` the (index, ring) already written; `nodes`,
`nodeNew`, `nodeGone` and `nodeLast` the node entries committed, those of this round, the rounds since each was written, the
last written; `meas` the (node, ring, d) of this round in 2^-16 ns; `linkDelay` of A_IN and B_IN in 2^-16 ns; `rate` in ppb; `reports` the workers' last reports, `lastReport` and `reportAt` the own one and its TB3 ns;
`changeNodes` the workers that have a part in the on-line change. -/
structure StratusState where
  cfg       : Option StratusCfg := Option.none
  st        : StratusSt := .disabled
  level     : Nat := 1
  manager   : Nat := 0xFF
  backup    : Nat := 0xFF
  isBackup  : Bool := false
  epoch     : Nat := 0
  ownEpoch  : Nat := 0
  polling   : Bool := false
  listenAt  : Option Nat := Option.none
  loads     : Tab SchedLoad := []
  tables    : Tab Bytes := []
  version   : Nat := 0
  round     : Nat := 0
  started   : Option Nat := Option.none
  lap2      : Bool := false
  polled    : Bool := false
  quiet     : Nat := 0
  counters  : List Nat := [0, 0, 0]
  binds     : Tab SlotBind := []
  seen      : Tab SlotSeen := []
  frames    : List (Nat × Nat) := []
  latched   : Tab (List SlotSig) := []
  inserted  : List (Nat × Nat) := []
  held      : List HeldPoll := []
  nodes     : Tab Bytes := []
  nodeNew   : Tab Bytes := []
  nodeGone  : Tab Nat := []
  nodeLast  : Tab Bytes := []
  sync      : SyncSt := .lost
  measured  : Nat := 0
  rate      : Int := 0
  lastC     : Int := 0
  steps     : Nat := 0
  syncRun   : Nat := 0
  meas      : List (Nat × Nat × Int) := []
  linkDelay : List Nat := [0, 0]
  exceeded  : Bool := false
  tb2Commit : Nat := 0
  mgmtSeq   : Nat := 0
  outbox    : List MgmtMsg := []
  mgmtSeen  : List (Nat × Nat) := []
  activation : Option Activation := Option.none
  handover  : Option Nat := Option.none
  forwarded : List Forwarded := []
  moving    : List Moving := []
  reports   : Tab WorkerReport := []
  reportAt  : Nat := 0
  lastReport : Option WorkerReport := Option.none
  group     : Option Group := Option.none
  changeNodes : List Nat := []
  deriving DecidableEq, Repr

/-! ### Horizon (14) -/

/-- PTP base states (R358). -/
inductive BaseSt where
  | disabled
  | listening
  | acquiring
  | locked
  | holdover
  deriving DecidableEq, Repr

/-- A master heard in Announce messages (R352): port, the BMCA data set in comparison order, grandmaster identity,
UTC offset, leap flag (1 insert, 2 delete) and the UTC second at which it acts, last Announce instant (TB3, 2^-40 ns) and its
interval in ns. -/
structure Master where
  port     : Nat
  dataset  : List Nat
  sender   : Nat
  gmId     : Nat
  utc      : Option Int
  leap     : Nat
  leapEnd  : Nat
  lastAnn  : Nat
  annIntNs : Nat
  deriving DecidableEq, Repr

/-- A PTP base, TB0 or TB1 (R356 to R358). Offsets in 2^-16 ns, rates in 2^-16 ppb, values in 2^-40 ns. `segs` holds what was
spent in LOCKED, newest first, as (TB3 2^-40 ns, rate), and `segAt` when the present rate began; `twoStep` a Sync that waits
for its Follow_Up: sender, sequenceId, t2, correction. -/
structure PtpBase where
  value    : Nat := 0
  enable   : Bool := false
  profile  : Nat := 0
  domain   : Nat := 0
  ports    : Nat := 0
  vlan     : Nat := 0
  bw       : Nat := 1
  lockNs   : Nat := 100
  st       : BaseSt := .disabled
  integ    : Int := 0
  rate     : Int := 0
  lastO    : Int := 0
  absLast  : List Nat := []
  outRun   : Nat := 0
  lockRun  : Nat := 0
  bigRun   : Nat := 0
  segs     : List (Nat × Int) := []
  segAt    : Nat := 0
  masters  : List Master := []
  selected : Option (Nat × Nat) := Option.none
  twoStep  : Option (Nat × Nat × Nat × Int) := Option.none
  lastSync : Nat := 0
  syncIntNs : Nat := 1000000000
  holdAt   : Nat := 0
  steps    : Nat := 0
  outliers : Nat := 0
  arbRej   : Nat := 0
  deriving DecidableEq, Repr

/-- Protection-time states (R360). -/
inductive PtSt where
  | invalid
  | synced
  | holdover
  deriving DecidableEq, Repr

/-- A pulse programme (SET_PULSE). Times in 2^-16 ns of the base. -/
structure PulseCfg where
  mode   : Nat := 0
  base   : Nat := 0
  invert : Bool := false
  gated  : Bool := false
  start  : Nat := 0
  period : Nat := 0
  width  : Nat := 0
  count  : Nat := 0
  deriving DecidableEq, Repr

/-- A pulse output pin (R367, R368): its programme, the next instant in 2^-16 ns of the base, the pulses given, the TB3 at which the
pulse in progress ends, a programme with its first instant that waits for that, SKIPPED. -/
structure Pulse where
  cfg      : PulseCfg := {}
  next     : Nat := 0
  fired    : Nat := 0
  busyTo   : Nat := 0
  waiting  : Option (PulseCfg × Nat) := Option.none
  skipped  : Nat := 0
  deriving DecidableEq, Repr

/-- A captured edge (READ_CAPTURES). -/
structure Capture where
  pt     : Nat
  rising : Bool
  valid  : Bool
  hold   : Bool
  seq    : Nat
  tb3    : Nat
  deriving DecidableEq, Repr

/-- A capture input pin (R370, R371). -/
structure Tpi where
  edges    : Nat := 0
  minWidth : Nat := 0
  queue    : List Capture := []
  overflow : Nat := 0
  tooFast  : Nat := 0
  seq      : Nat := 0
  lastEdge : Option Nat := Option.none
  level    : Bool := false
  deriving DecidableEq, Repr

/-- Port timing corrections (R355) and the measured meanLinkDelay (R353) in 2^-16 ns. -/
structure PortTiming where
  ingressPs : Int := 0
  egressPs  : Int := 0
  asymPs    : Int := 0
  linkDelay : Int := 0
  deriving DecidableEq, Repr

/-- Horizon: the four bases and protection time (R350), in 2^-40 ns modulo 2^104. `mgmtDrop` counts PTP
management messages (R352). -/
structure HorizonState where
  tb0      : PtpBase := {}
  tb1      : PtpBase := {}
  tb2      : Nat := 0
  tb2Rate  : Int := 0
  tb3      : Nat := 0
  pt       : Nat := 0
  ptSt     : PtSt := .invalid
  follow1  : Bool := false
  auto     : Bool := false
  revert   : Bool := false
  revertS  : Nat := 1
  slewPpm  : Nat := 10
  diverged : Bool := false
  tb2Div   : Bool := false
  delta    : Int := 0
  tb0LockAt : Nat := 0
  pllLock  : Bool := true
  utcSet   : Int := 37
  utcFixed : Bool := false
  leap     : Nat := 0
  leapEnd  : Nat := 0
  timing   : Tab PortTiming := []
  pulses   : Tab Pulse := []
  tpis     : Tab Tpi := []
  mgmtDrop : Nat := 0
  deriving DecidableEq, Repr

/-! ### Clocks and supplies (15) -/

/-- Supply states (R389). -/
inductive SupplySt where
  | off
  | running
  | warning
  deriving DecidableEq, Repr

/-- Clock source states (R378). -/
inductive SrcSt where
  | disabled
  | absent
  | qualifying
  | qualified
  | failed
  deriving DecidableEq, Repr

/-- A clock source (R376 to R380), XO, SYNC, RCV0 or RCV1: state, PRIORITY, level (0 COARSE, 1 CHECKED, 2 FINE), DEFERRED
latched; its window's reference (a source, or none for IRO) and when it opened; since when it is QUALIFIED and when last refined;
since when a FAILED source shows edges; its offset at the last refinement in ppb; its ratios to IRO in parts per 10^9 over the
last 100 µs intervals, newest first. Instants are TB3 values. -/
structure ClkSource where
  st       : SrcSt := .disabled
  prio     : Nat := 1
  level    : Nat := 0
  deferred : Bool := false
  ref      : Option Nat := Option.none
  winAt    : Nat := 0
  qualAt   : Nat := 0
  fineAt   : Nat := 0
  edgeAt   : Option Nat := Option.none
  offset   : Int := 0
  ratios   : List Nat := []
  deriving DecidableEq, Repr

/-- States of the system reference (R382). -/
inductive RefSt where
  | unreferenced
  | locked
  | holdover
  deriving DecidableEq, Repr

/-- The reference of a clocked domain (R383), 0 to 3 a source, 4 HOLDOVER, 5 IRO, and that of the switch in progress. -/
structure ClkDomain where
  ref  : Nat := 0
  next : Option Nat := Option.none
  deriving DecidableEq, Repr

/-- The CKU (R375 to R384). Domains 0 to 31 are Q00 to Q31, 32 is HZN. `holdRatio` is the ratio of the lost source to IRO in
parts per 10^9; `iroGood` since when a faulty IRO tracks a QUALIFIED source; `hznLost` the Horizon periods reported lost by the
last switch, `hznSlip` whether the Horizon PLL lost lock in the switch that runs. -/
structure ClockState where
  srcs      : List ClkSource := [{ st := .qualified }, {}, {}, {}]
  refSt     : RefSt := .locked
  selected  : Option Nat := some 0
  holdAt    : Nat := 0
  holdRatio : Nat := 1000000000
  switches  : Nat := 0
  iroFaults : Nat := 0
  iroFault  : Bool := false
  iroGood   : Option Nat := Option.none
  revertive : Bool := false
  sync25    : Bool := false
  rcv0      : Nat := 0
  rcv1      : Nat := 1
  restoreS  : Nat := 300
  retryS    : Nat := 10
  doms      : List ClkDomain := List.replicate 33 {}
  hznLost   : Nat := 0
  hznSlip   : Bool := false
  quadLock  : List Bool := List.replicate 32 true
  pcieLock  : Bool := true
  quadLosses : Nat := 0
  hznLosses : Nat := 0
  deriving DecidableEq, Repr

/-- Supplies, temperatures and core rails (R388, R389). Voltages in mV, temperatures in °C in the order C0 to C3, N, Z. `raising`
chiplets have an engine that lost its margin; `ceilAt` is since when a rail stands at 0.90 V (TB3). -/
structure PowerState where
  supply   : SupplySt := .running
  vaux     : Bool := true
  vinMv    : Nat := 12000
  vauxMv   : Nat := 3300
  vinWarn  : Nat := 2600
  temps    : List Int := [25, 25, 25, 25, 25, 25]
  warnings : Nat := 0
  coreMv   : List Nat := [750, 750, 750, 750]
  raising  : List Bool := [false, false, false, false]
  ceilAt   : List (Option Nat) := [Option.none, Option.none, Option.none, Option.none]
  deriving DecidableEq, Repr
/-! ### Switch core (16) and ports (17) -/

/-- A frame in an egress queue or on the wire: its number in the shared buffer, its bytes without FCS as this port sends
them, the cells charged, whether the module originated it, when it was admitted and the earliest start (1/589824 ns of
protection time), whether its hold was counted, and the bytes of it already sent. -/
structure QFrame where
  id    : Nat
  bytes : Bytes
  charge : Nat
  local_ : Bool
  tc    : Nat
  at_   : Nat
  ready : Nat
  held  : Bool := false
  sent  : Nat := 0
  sof   : Option (Nat × Nat) := Option.none
  deriving DecidableEq, Repr

/-- An egress queue (R402, R405). Counters are in the order of GET_QUEUE_COUNTERS; `green` and `yellow` are MIN, MAX,
MAXP. -/
structure Queue where
  alpha    : Int := 0
  reserved : Nat
  green    : Nat × Nat × Nat := (0, 0, 0)
  yellow   : Nat × Nat × Nat := (0, 0, 0)
  frames   : List QFrame := []
  peak     : Nat := 0
  counters : List Nat := [0, 0, 0, 0, 0, 0, 0, 0, 0]
  deriving DecidableEq, Repr

/-- A meter of RFC 2698 (R401): rates in kb/s, bucket contents in 1/8000000 byte, TB3 ns of the last frame. -/
structure Meter where
  enable : Bool := false
  cir    : Nat := 0
  pir    : Nat := 0
  cbs    : Nat := 0
  pbs    : Nat := 0
  tc     : Nat := 0
  tp     : Nat := 0
  last   : Nat := 0
  deriving DecidableEq, Repr

/-- A gate list (R410): entries are (GATES, INTERVAL_NS). -/
structure GateList where
  enable  : Bool := false
  cycle   : Nat := 1
  phase   : Nat := 0
  entries : List (Nat × Nat) := []
  deriving DecidableEq, Repr

/-- The switch settings of a port (R395 to R410) and its seven ingress counters. -/
structure SwPort where
  learn    : Bool := false
  floodU   : Bool := true
  floodM   : Bool := false
  filter   : Bool := false
  pvid     : Nat := 1
  dpcp     : Nat := 0
  preempt  : Nat := 0x3F
  ct       : Nat := 0x80
  pcpMap   : Nat := 0x76543210
  residenceUs : Nat := 10000
  queues   : List Queue :=
    List.replicate 7 { reserved := 8 } ++ [{ reserved := 32 }]
  meters   : List Meter := List.replicate 8 {}
  gate     : GateList := {}
  nextGate : Option (Nat × GateList) := Option.none
  rng      : Nat
  counters : List Nat := [0, 0, 0, 0, 0, 0, 0]
  deriving DecidableEq, Repr

/-- An entry of the forwarding table (R397, R398): static or learned, and the TB3 ns of its last refresh. -/
structure FdbEntry where
  mac   : Nat
  vid   : Nat
  static_ : Bool
  ports : Nat
  at_   : Nat
  deriving DecidableEq, Repr

/-- A duplicate window (R414): H and the 256 bits below it, bit d for H − d; none before the first number. -/
structure SeqWin where
  h    : Nat := 0
  bits : Nat := 0
  any  : Bool := false
  deriving DecidableEq, Repr

/-- A source entry of the resequencer (R414): forward and consumer windows, the two ring directions of HSR (R417), the
TB3 ns of the last refresh, and the next number due for ordered delivery to the translation and to the subscriptions. -/
structure SrcEntry where
  fwd   : SeqWin := {}
  cons  : SeqWin := {}
  ringA : SeqWin := {}
  ringB : SeqWin := {}
  at_   : Nat := 0
  nextF : Option Nat := Option.none
  nextC : Option Nat := Option.none
  deriving DecidableEq, Repr

/-- A frame held behind a gap (R416): for the subscriptions or for the translation, with its port, number, ingress
timestamp and the TB3 ns from which it is held. -/
structure HeldFrame where
  goose : Bool
  port  : Nat
  seq   : Nat
  src   : Nat
  bytes : Bytes
  ta    : Nat
  at_   : Nat
  deriving DecidableEq, Repr

/-- A redundancy entity (R412, R413). Counters are in the order of GET_REDUNDANCY_STATUS. -/
structure Entity where
  mode     : Nat := 0
  a        : Nat := 0
  b        : Nat := 1
  mac      : Nat := 0
  ageMs    : Nat := 400
  holdNs   : Nat := 0
  supMs    : Nat := 0
  supAt    : Nat := 0
  counters : List Nat := [0, 0, 0, 0, 0, 0, 0, 0, 0, 0]
  sources  : Tab SrcEntry := []
  tx       : Tab Nat := []
  held     : List HeldFrame := []
  deriving DecidableEq, Repr

/-- The switch core. VLANs are (MEMBER, UNTAG) by VID; `cells` maps the number of each frame in the buffer to the cells
it occupies. The Ethertype map is (ETHERTYPE, class, ENABLE). `residence` holds the corrections of two-step Sync messages
that wait for their Follow_Up: egress port, identity of the message, correction in 2^-16 ns (14 R353). -/
structure SwitchState where
  vlans    : Tab (Nat × Nat) := []
  fdb      : List FdbEntry := []
  ageS     : Nat := 300
  etypes   : List (Nat × Nat × Bool) := [(0x88BA, 7, true), (0x88B5, 7, true), (0x88B8, 7, true), (0x88F7, 6, true)]
  ports    : Tab SwPort := []
  cells    : Tab (List Nat) := []
  nextId   : Nat := 0
  peak     : Nat := 0
  entities : Tab Entity := []
  residence : List (Nat × Bytes × Int) := []
  deriving DecidableEq, Repr

/-- Port states (R425). -/
inductive PortStt where
  | disabled
  | down
  | up
  | linkFault
  deriving DecidableEq, Repr

/-- PREEMPT_STATE (GET_PORT_STATUS). -/
inductive PreemptSt where
  | off
  | verifying
  | active
  | failed
  deriving DecidableEq, Repr

/-- What a port has on the wire: the frame, the start and end instants (1/589824 ns), the bytes of the frame that end
then, and whether it may be preempted. -/
structure TxNow where
  frame  : QFrame
  start  : Nat
  stop   : Nat
  until_ : Nat
  preemptable : Bool
  deriving DecidableEq, Repr

/-- A port and its MAC (17). Counters are the twenty-four of GET_PORT_COUNTERS; `thresh` is the step of START_THRESHOLD, 0
for 256 bytes to 4 for whole frame; TB3 values are in 2^-40 ns. -/
structure Port where
  st       : PortStt := .disabled
  enable   : Bool := false
  phy      : Nat
  fec      : Nat
  maxFrame : Nat := 1522
  pauseRx  : Bool := false
  pauseTx  : Bool := false
  rxForce  : Bool := false
  txForce  : Bool := false
  preempt  : Bool := false
  verifyOff : Bool := false
  addFrag  : Nat := 0
  xoff     : Nat := 0
  xon      : Nat := 0
  verify   : PreemptSt := .off
  attempts : Nat := 0
  verifyAt : Nat := 0
  mismatch : Bool := false
  remote   : Bool := false
  pauseTo  : Option Nat := Option.none
  pausing  : Bool := false
  thresh   : Nat := 0
  threshAt : Nat := 0
  tx       : Option TxNow := Option.none
  cut      : List QFrame := []
  rxOctets : Nat := 0
  txOctets : Nat := 0
  counters : List Nat := List.replicate 24 0
  deriving DecidableEq, Repr

/-- An I2C master (R435): the transfers given to it, by channel and sequence of their commands, oldest first, and the
multiplexer bytes as they were left. -/
structure I2cMaster where
  queue : List (Nat × Nat) := []
  deriving DecidableEq, Repr

/-! ### Host interface (18) -/

/-- What becomes of the completion of a read (R455): used; discarded and counted (squashed, or its tag retired); taken without
effect. -/
inductive ReadLife where
  | live
  | late
  | silent
  deriving DecidableEq, Repr

/-- An outstanding DMA read (R446, R455): its tag, the generation it carries, when it was issued (TB3), the ring index it is
for, the descriptor whose packet it reads (none while it reads the descriptor itself), and host memory as it finds it. -/
structure HostRead where
  tag   : Nat
  gen   : Nat
  at_   : Nat
  life  : ReadLife := .live
  index : Nat
  desc  : Option Bytes
  data  : Bytes
  deriving DecidableEq, Repr

/-- The host interface of one virtual instance: HIF_ registers (R440), delivery reservations (R445), resources (R456),
reset progress (R454) and counters (GET_HOST_COUNTERS). -/
structure Hif where
  cmdBase   : Nat := 0
  cmdLog2   : Nat := 0
  cmdHead   : Nat := 0
  cmdTail   : Nat := 0
  dlvBase   : Nat := 0
  dlvLog2   : Nat := 0
  dlvTail   : Nat := 0
  dlvPhase  : Bool := true
  dlvHead   : Nat := 0
  enable    : Bool := false
  generMode : Bool := false
  shadowEn  : Bool := false
  ringError : Bool := false
  resetting : Bool := false
  generation : Nat := 0
  errorCode : Nat := 0
  errorIndex : Nat := 0
  shadow    : Nat := 0
  hdrErrors : Nat := 0
  lateDiscards : Nat := 0
  reserved  : Nat := 0
  weight    : Nat := 4
  maxReads  : Nat := 32
  reads     : List HostRead := []
  resetAt   : Nat := 0
  commands  : Nat := 0
  deliveries : Nat := 0
  ringErrors : Nat := 0
  resets    : Nat := 0
  timeouts  : Nat := 0
  lateCount : Nat := 0
  tuFaultCount : Nat := 0
  writeIgnored : Nat := 0
  deriving DecidableEq, Repr

/-- The translation unit of one instance (R448, R449). -/
structure Tu where
  root    : Nat := 0
  mode    : Nat := 0
  dirtyEn : Bool := false
  active  : Bool := false
  swapBusy : Bool := false
  dirtyA  : Nat := 0
  dirtyB  : Nat := 0
  span    : Nat := 0
  faults  : Nat := 0
  faultAddr : Nat := 0
  deriving DecidableEq, Repr

/-- A translation cache entry (R448): instance, IOVA page, 2 MB or 4 KB, bus page, writable. -/
structure TuEntry where
  vi    : Nat
  page  : Nat
  big   : Bool
  bus   : Nat
  write : Bool
  deriving DecidableEq, Repr

/-- A bridge window and its BRG_ status (R450, R452). -/
structure Window where
  enabled   : Bool := false
  write     : Bool := false
  ack       : Bool := false
  dataInv   : Bool := false
  element   : Nat := 0
  log2      : Nat := 0
  aperture  : Nat := 0
  internal  : Nat := 0
  writeFailed : Bool := false
  poisonRead  : Bool := false
  lastCause : Nat := 0
  writeErrors : Nat := 0
  poisonReads : Nat := 0
  deriving DecidableEq, Repr

/-- The host side: interfaces, translation, windows (by 8 × VI + window), how many VFs are enabled, the TU_INV under way
(VI, ALL), and the host's memory by bus address as the module finds it (log entry 12). -/
structure HostState where
  numVfs  : Nat := 0
  hifs    : Tab Hif := []
  tus     : Tab Tu := []
  cache   : List TuEntry := []
  inv     : List (Nat × Bool) := []
  windows : Tab Window := []
  mem     : Tab Byte := []
  deriving DecidableEq, Repr
/-! ### Interrupt controller (19) -/

/-- Whether a source is masked and by what (R463, R464). -/
inductive MaskSt where
  | none
  | squall
  | stuck
  deriving DecidableEq, Repr

/-- An interrupt source (R459 to R465). Instants are TB3 values in 2^-40 ns. Modes: 0 LEVEL_HIGH, 1 LEVEL_LOW,
2 EDGE_RISING, 3 EDGE_FALLING, 4 EDGE_BOTH, 0xFF for message sources. -/
structure Source where
  hostVi    : Nat := 0xFF
  vector    : Nat := 0
  prio      : Nat := 0
  mode      : Nat := 0xFF
  limit     : Nat := 32
  windowUs  : Nat := 1000
  releaseUs : Nat := 0
  maxUs     : Nat := 0
  masked    : MaskSt := .none
  zPending  : Bool := false
  hPending  : Bool := false
  core      : Nat := 0xFF
  hist      : List Nat := []
  line      : Bool := false
  activeAt  : Nat := 0
  idleAt    : Nat := 0
  lastEvent : Nat := 0
  events    : Nat := 0
  messages  : Nat := 0
  suppressed : Nat := 0
  maskings  : Nat := 0
  deriving DecidableEq, Repr

/-- One Zenith core as the ICU sees it (R461): priority stack (source, priority), newest first; sources delivered and
not yet acknowledged; whether it is restarting. -/
structure Core where
  stack      : List (Nat × Nat) := []
  delivered  : List Nat := []
  restarting : Bool := false
  deriving DecidableEq, Repr

/-- MSI-X of one host function (R462) and its two RC counters (R466). -/
structure MsixFn where
  enabled    : Bool := false
  fnMask     : Bool := false
  vecMask    : List Nat := []
  vecPend    : List Nat := []
  messages   : Nat := 0
  suppressed : Nat := 0
  deriving DecidableEq, Repr

/-- The interrupt controller. `inbox` holds the message events posted and not yet taken, `wired` the changes of wired lines
(source, level), both oldest first (R460); `lines` the levels of the wired lines. -/
structure IcuState where
  sources : Tab Source := []
  inbox   : List Nat := []
  lines   : Tab Bool := []
  wired   : List (Nat × Bool) := []
  cores   : List Core := [{}, {}, {}, {}]
  fns     : Tab MsixFn := []
  deriving DecidableEq, Repr
/-! ### Halo (20) -/

/-- States of a key slot (R468). -/
inductive KeySt where
  | empty
  | valid
  | unusable
  | zeroised
  deriving DecidableEq, Repr

/-- A key slot (R468, R472). `word` is the key XOR the mask, byte 0 the lowest byte; TAG is 8 bytes. -/
structure KeySlot where
  st      : KeySt := .empty
  type    : Nat := 0
  usage   : Nat := 0
  owner   : Nat := 0
  version : Nat := 0
  bits    : Nat := 0
  word    : Nat := 0
  mask    : Nat := 0
  tag     : Nat := 0
  deriving DecidableEq, Repr

/-- An entry of the derived-key cache (R475): parent slot, label, L, key. -/
structure CacheKey where
  slot  : Nat
  label : Bytes
  bits  : Nat
  key   : Bytes
  deriving DecidableEq, Repr

/-- The working-key registers of one MACsec link (R477): association number, the current key, the previous key and the
TB3 of its replacement, and the next packet numbers accepted under each (log entry 31). -/
structure MacKey where
  an     : Nat := 0
  cur    : Option Bytes := Option.none
  prev   : Option Bytes := Option.none
  prevAt : Nat := 0
  rxPn   : Nat := 0
  prevPn : Nat := 0
  deriving DecidableEq, Repr

/-- Halo. `macsec` holds 0 and 1000, LINK_A and LINK_B of the pair, and 1 + 32 × ring + transmitting node, the Stratus links; `counters` are
INTEGRITY_FAILS, TAMPER_EVENTS, DERIVATIONS, REMASK_PASSES. `tamperCause` 0 is no tamper latched. -/
structure KeyState where
  slots       : Tab KeySlot := []
  cache       : List CacheKey := []
  tamperCause : Nat := 0
  tamperLow   : Bool := false
  tamperTb3   : Nat := 0
  counters    : List Nat := [0, 0, 0, 0]
  macsec      : Tab MacKey := []
  deriving DecidableEq, Repr

/-! ### Boundary scan (24 R540) -/

/-- Instructions of the JTAG TAP (R540). -/
inductive TapInstr where
  | bypass
  | idcode
  | samplePreload
  | extest
  | extestPulse
  | extestTrain
  | clamp
  | highz
  | intest
  deriving DecidableEq, Repr

/-- The TAP: the instruction it holds. Test-Logic-Reset selects IDCODE (IEEE 1149.1, log entry 32). -/
structure TapState where
  instr : TapInstr := .idcode
  deriving DecidableEq, Repr

/-! ### Contrail (21) -/

/-- An event posted to Contrail, before it is committed (R30, R482); the POST_RECORD (channel, SEQUENCE) that waits for it. -/
structure Event where
  code     : Nat
  chiplet  : Nat := 5
  origin   : Nat := 0xFF
  injected : Bool := false
  tb0Valid : Bool
  tb0Hold  : Bool
  tb0      : Nat
  tb3Ns    : Nat
  data     : Bytes
  asked    : Option (Nat × Nat) := Option.none
  deriving DecidableEq, Repr

/-- A committed record (R482): its first 60 bytes and the CRC as stored (R492). -/
structure Record where
  body : Bytes
  crc  : Nat
  deriving DecidableEq, Repr

/-- An A/B cell of a 64-bit counter or bin (R495, R497): update number, value and validity of each copy, which copy is
current, and the flags of the last recovery. -/
structure Cell where
  seqA  : Nat := 1
  valA  : Nat := 0
  okA   : Bool := true
  seqB  : Nat := 0
  valB  : Nat := 0
  okB   : Bool := true
  curB  : Bool := false
  recovered : Bool := false
  lost  : Bool := false
  deriving DecidableEq, Repr

/-- Contrail. -/
structure RecorderState where
  queue    : List Event := []
  lost     : Nat := 0
  lostUp   : Nat := 0
  log      : Tab Record := []
  oldest   : Nat := 1
  next     : Nat := 1
  badReads : Nat := 0
  lastClear : Nat := 0
  nonce    : Option (Bytes × Nat) := Option.none
  cells    : Tab Cell := []
  deriving DecidableEq, Repr

/-! ### UARTs and binary I/O (22) -/

/-- A UART (R502, R506): settings in force, those of a SET_UART that wait for the character in transmission (R507), buffers,
bytes lost since the last overflow record and when that was (TB3), and the counters of GET_UART_STATUS in order. UART0's
receive buffer is the frame that its command channel unstuffs (02 R38). -/
structure Uart where
  enable  : Bool := false
  rate    : Nat := 0
  format  : Nat := 0
  owner   : Nat := 0
  next    : Option (Bool × Nat × Nat × Nat) := Option.none
  sending : Option Nat := Option.none
  rx      : Bytes := []
  tx      : Bytes := []
  lost    : Nat := 0
  lostAt  : Option Nat := Option.none
  counters : List Nat := [0, 0, 0, 0, 0, 0]
  deriving DecidableEq, Repr

/-- The unstuffing of UART0 (02 R38): bytes of the frame so far, whether 0x7D came last, whether a flag byte has opened a frame
and the frame is not given up. -/
structure Unstuff where
  bytes : Bytes := []
  esc   : Bool := false
  open_ : Bool := false
  deriving DecidableEq, Repr

/-- States of a binary input (R508). -/
inductive BinSt where
  | disabled
  | normal
  | chatter
  | stuck
  deriving DecidableEq, Repr

/-- A binary input (R508, SET_BINARY_INPUT): settings, state, VALUE, the accepted changes of the last CHATTER_WINDOW and since
when VALUE is 1 (TB3 values), and whether it still takes its first VALUE. -/
structure BinIn where
  st       : BinSt := .disabled
  invert   : Bool := false
  signal   : Nat := 0
  debounce : Nat := 0
  count    : Nat := 1
  windowMs : Nat := 10
  release  : Nat := 100
  stuckMs  : Nat := 0
  value    : Bool := false
  changes  : List Nat := []
  oneAt    : Nat := 0
  first    : Bool := false
  deriving DecidableEq, Repr

/-- A binary output (R510, R511, SET_BINARY_OUTPUT). Its ball follows from these and the signal at every instant
(`State.binBall`). -/
structure BinOut where
  enable : Bool := false
  safe   : Bool := false
  onInvalid : Bool := false
  signal : Nat := 0
  deriving DecidableEq, Repr

/-- UARTs 0 to 3, the unstuffing of UART0, binary inputs and outputs. -/
structure SerialState where
  uarts : List Uart := [{ enable := true, rate := 4 }, {}, {}, {}]
  frame : Unstuff := {}
  ins   : Tab BinIn := []
  outs  : Tab BinOut := []
  deriving DecidableEq, Repr
/-! ### Start-up (23) -/

/-- Where the boot stands (R517, R521). -/
inductive BootPhase where
  | off
  | held
  | booting
  | ready
  | recovery
  deriving DecidableEq, Repr

/-- A firmware slot (R519, R522): its state, VERSION and LEVEL of a valid image, TOTAL and the container bytes received. -/
structure FwSlot where
  valid   : Bool := false
  empty   : Bool := true
  version : Nat := 0
  level   : Nat := 1
  total   : Nat := 0
  chunks  : Tab Byte := []
  deriving DecidableEq, Repr

/-- The boot record (R520). -/
structure BootRecord where
  next    : Bool := false
  trial   : Bool := false
  started : Bool := false
  deriving DecidableEq, Repr

/-- Boot phase, the straps latched (R516), role and side resolved, boot report (R525), the current boot record and its other copy
(R520), the image running, the firmware slots, whether VAUX was lost while VIN was absent, and the level of RESET_N. -/
structure BootState where
  phase    : BootPhase := .ready
  cause    : Nat := 1
  role     : Nat := 0
  pairStrap : Nat := 0
  strapRes : Bool := false
  straps   : Nat := 0
  reverted : Bool := false
  fallback : Bool := false
  recovery : Bool := false
  fatal    : Nat := 0
  peRepaired : Nat := 0
  peFailed : Nat := 0
  lsFailed : Nat := 0
  cmpFailed : Nat := 0
  rows     : Nat := 0
  msAuth   : Nat := 0
  msReady  : Nat := 0
  msSelf   : Nat := 0
  record   : BootRecord := {}
  recPrev  : BootRecord := {}
  running  : Bool := false
  slotA    : FwSlot := { valid := true, empty := false }
  slotB    : FwSlot := {}
  vauxSeen : Bool := false
  resetPin : Bool := true
  deriving DecidableEq, Repr

/-- The state of the G5128. `pending` is the queue of waiting commands, first in first out; `sent` records what has left
the module; `free` counts the free values taken (log entry 5); `origin` and `injected` mark the events posted by the
command now executing (21 R482). -/
structure State where
  pending  : List Instr := []
  sent     : List Sent := []
  free     : Nat := 0
  origin   : Nat := 0xFF
  injected : Bool := false
  cmd      : CmdState := {}
  place    : PlaceState := {}
  ingest   : IngestState := {}
  filter   : FilterState := {}
  prog     : ProgState := {}
  pub      : PubState := {}
  cap      : CaptureState := {}
  anvil    : AnvilState := {}
  pair     : PairState := {}
  horizon  : HorizonState := {}
  power    : PowerState := {}
  clocks   : ClockState := {}
  serial   : SerialState := {}
  host     : HostState := {}
  icu      : IcuState := {}
  recorder : RecorderState := {}
  boot     : BootState := {}
  stratus  : StratusState := {}
  keys     : KeyState := {}
  tap      : TapState := {}
  sw       : SwitchState := {}
  ports    : Tab Port := []
  i2c      : Tab I2cMaster := []
  deriving DecidableEq, Repr

/-- The module right after reset: powered, booted for the first time, command-ready, straps STANDALONE and UNPAIRED
(log entry 2). No command waits. -/
def State.reset : State := {}

end Sys2Proof.Machine
end

