-- ==== Sys2Proof/Machine/Ops.lean ====
section
/-! DEFINITION. The named operations every meaning uses: the advance of time (14 R350, R351, R361), lifetime cells
(21 R495, R496), events (01 R30, 21 R482), interrupt sources (19 R458) and what leaves the module. -/
namespace Sys2Proof.Machine

/-! ### Exact time units -/

/-- Units of 1/589824 ns in one nanosecond: the exact unit in which ticks, sampling times and 2^-16 ns all are whole. -/
def qNs : Nat := 589824

/-- One tick, 31250/3 ns (08 R203), in that unit. -/
def qTick : Nat := 6144000000

/-- Modulus of a base held in 2^-40 ns: the 80-bit value of R348 with 24 more fractional bits. -/
def timeMod : Nat := 2 ^ 104

/-- A base value as the 80-bit quantity in 2^-16 ns (R348). -/
def vis (t : Nat) : Nat := t / 2 ^ 24

/-- A base value in whole ns (R348, rounded down). -/
def visNs (t : Nat) : Nat := t / 2 ^ 40

/-- The signed difference of two base values (R349). -/
def tDiff (a b : Nat) : Int := sdiff 104 a b

/-- The increment of a base per Horizon period in 2^-40 ns: 1.6 ns times 1 + rate, rate in 2^-16 ppb (R351). -/
def hInc (rate : Int) : Nat := ((17592186044416 * (65536000000000 + rate)) / 655360000000000).toNat

/-- Free-running value after `n` periods. -/
def advVal (v : Nat) (rate : Int) (n : Nat) : Nat := (v + n * hInc rate) % timeMod

/-- Protection time now, in units of 1/589824 ns, as Horizon shows it (R348). -/
def State.now (s : State) : Nat := 9 * vis s.horizon.pt

/-- Protection time now, in whole ns. -/
def State.nowNs (s : State) : Nat := visNs s.horizon.pt

/-- TB3 now in 2^-40 ns: the clock of the rules that run whether or not protection time is valid. -/
def State.tb3 (s : State) : Nat := s.horizon.tb3

/-- The base that protection time follows (R362). -/
def State.followed (s : State) : PtpBase := if s.horizon.follow1 then s.horizon.tb1 else s.horizon.tb0

/-- e of R361: protection time minus the followed base, in 2^-40 ns. -/
def State.slewE (s : State) : Int := tDiff s.horizon.pt s.followed.value

/-- Protection time has become valid since power-up (R359). -/
def State.ptValid (s : State) : Bool := s.horizon.ptSt != .invalid

/-- A base is valid in LOCKED and HOLDOVER (R358). -/
def PtpBase.valid (b : PtpBase) : Bool := b.st == .locked || b.st == .holdover

/-- What is left of `e` after `n` periods of slew (R361): it falls by at most `n` times the slew and ends at 0. -/
def slewLeft (e : Int) (rate : Int) (ppm n : Nat) : Int :=
  let d : Int := (n * (hInc rate * ppm / 1000000) : Nat)
  if e > 0 then max 0 (e - d) else min 0 (e + d)

/-- `n` Horizon periods pass (R351): every base counts on, protection time follows its base and slews. While VIN is
absent only TB3 counts, and only while VAUX is present (R350). -/
def State.advance (n : Nat) (s : State) : State :=
  if n = 0 then s
  else
    let h := s.horizon
    let t3 := if s.power.vaux then advVal h.tb3 0 n else h.tb3
    if s.power.supply = .off then { s with horizon := { h with tb3 := t3 } }
    else
      let b0 := advVal h.tb0.value h.tb0.rate n
      let b1 := advVal h.tb1.value h.tb1.rate n
      let bf := if h.follow1 then b1 else b0
      let r := if h.follow1 then h.tb1.rate else h.tb0.rate
      let p :=
        if h.ptSt = .invalid then advVal h.pt 0 n
        else ofSigned 104 ((bf : Int) + slewLeft s.slewE r h.slewPpm n)
      { s with horizon := { h with
          tb0 := { h.tb0 with value := b0 }, tb1 := { h.tb1 with value := b1 },
          tb2 := advVal h.tb2 h.tb2Rate n, tb3 := t3, pt := p } }

/-- The protection-time instant of tick boundary `n` in 1/589824 ns (08 R203). -/
def boundaryQ (n : Nat) : Nat := n * qTick

/-- The first tick boundary number at or after an instant. -/
def tickAtOrAfter (q : Nat) : Nat := ceilDiv q qTick

/-- The last tick boundary number at or before an instant. -/
def tickAtOrBefore (q : Nat) : Nat := q / qTick

/-- Has `us` microseconds passed on TB3 since the TB3 value `t`? -/
def State.tb3Passed (s : State) (t us : Nat) : Bool := decide (tDiff s.tb3 t ≥ (us * 1000 * 2 ^ 40 : Nat))

/-! ### Lifetime cells (21 R495 to R498) -/

def Cell.value (c : Cell) : Nat := if c.curB then c.valB else c.valA
def Cell.seq (c : Cell) : Nat := if c.curB then c.seqB else c.seqA

/-- An update writes the other copy with the next SEQ, and that copy becomes current (R496). -/
def Cell.write (c : Cell) (v : Nat) : Cell :=
  if c.curB then { c with seqA := (c.seqB + 1) % 2 ^ 32, valA := v, okA := true, curB := false }
  else { c with seqB := (c.seqA + 1) % 2 ^ 32, valB := v, okB := true, curB := true }

/-- Recovery of a cell at power-up (R497): the recovered cell and the counted outcome, 0 where it is not counted. -/
def Cell.recover (c : Cell) : Cell × Nat :=
  match c.okA, c.okB with
  | true, true =>
    if c.seqA = c.seqB then ({ c with curB := false, recovered := true, lost := false }, 1)
    else ({ c with curB := decide (sdiff 32 c.seqB c.seqA > 0), recovered := false, lost := false }, 0)
  | true, false => ({ c with curB := false, recovered := true, lost := false }, 2)
  | false, true => ({ c with curB := true, recovered := true, lost := false }, 2)
  | false, false =>
    ({ c with valA := 0, seqA := 0, okA := true, curB := false, recovered := true, lost := true }, 3)

/-- The value of lifetime counter or bin `id` (R498, R499). -/
def State.life (s : State) (id : Nat) : Nat := (s.recorder.cells.getD id {}).value

/-- Adds `n` to lifetime counter or bin `id`, saturating at all ones (R496). -/
def State.bumpN (s : State) (id n : Nat) : State :=
  { s with recorder.cells := s.recorder.cells.modD id {} (fun c => c.write (satAdd 64 c.value n)) }

def State.bump (s : State) (id : Nat) : State := s.bumpN id 1

/-! ### Events (01 R30, 21 R482 to R485) -/

/-- An event as the posting block takes it: its instants now, ORIGIN and INJECTED as the running command sets them. -/
def State.mkEvent (s : State) (code : Nat) (data : Bytes) (chiplet : Nat) : Event :=
  { code := code, chiplet := chiplet, origin := s.origin, injected := s.injected,
    tb0Valid := s.horizon.tb0.valid, tb0Hold := s.horizon.tb0.st == .holdover,
    tb0 := if s.horizon.tb0.valid then vis s.horizon.tb0.value else 0,
    tb3Ns := visNs s.horizon.tb3, data := data }

/-- Puts an event in the queue of 1024, or counts it lost (R30). -/
def State.postEvent (s : State) (e : Event) : State :=
  if s.recorder.queue.length ≥ 1024 then
    ({ s with recorder.lost := s.recorder.lost + 1, recorder.lostUp := inc32 s.recorder.lostUp }).bump 0x003
  else { s with recorder.queue := s.recorder.queue ++ [e] }

/-- Posts an event from a chiplet (0 to 3 C0 to C3, 4 N, 5 Z). -/
def State.postC (s : State) (code chiplet : Nat) (data : Bytes) : State := s.postEvent (s.mkEvent code data chiplet)

/-- Posts an event from chiplet Z. -/
def State.post (s : State) (code : Nat) (data : Bytes) : State := s.postC code 5 data

/-! ### Interrupt sources and outputs -/

/-- A block posts one event of a message source to the ICU (19 R458). -/
def State.raiseInt (s : State) (src : Nat) : State := { s with icu.inbox := s.icu.inbox ++ [src] }

/-- A wired line takes a level; a change waits for the ICU (19 R458). -/
def State.setLine (s : State) (src : Nat) (level : Bool) : State :=
  if s.icu.lines.getD src false = level then s
  else { s with icu.lines := s.icu.lines.put src level, icu.wired := s.icu.wired ++ [(src, level)] }

/-- Something leaves the module. -/
def State.emit (s : State) (x : Sent) : State := { s with sent := s.sent ++ [x] }

/-- The next free value (log entry 5), as a number of `bits` bits. -/
def State.freeVal (s : State) (bits : Nat) : Nat × State :=
  ((Config.freeNat s.free).toNat % 2 ^ bits, { s with free := s.free + 1 })

/-- The next `n` random bytes (20, 21 R494). -/
def State.randomBytes (s : State) (n : Nat) : Bytes × State :=
  ((List.range n).map (fun i => Config.randomByte (s.free + i)), { s with free := s.free + n })

/-- Chiplet of a cluster (00, Construction). -/
def chipletOf (cc : Nat) : Nat := cc / 8

end Sys2Proof.Machine
end

