-- ==== Sys2Proof/Machine/EccOps.lean ====
section
/-! DEFINITION. Memory lines under Anvil's ECC: correction, uncorrectable lines, poison (11 R293 to R296). A line is named
by its internal address / 32; lines of the switch buffer stand above every internal address. -/
namespace Sys2Proof.Machine

/-- First line of the switch buffer in the model's numbering. -/
def bufferLine : Nat := 2 ^ 40

/-- The region of GET_MEMORY_HEALTH a line belongs to, and its cluster (0 where the region has none). -/
def lineRegion (l : Nat) : Nat × Nat :=
  let a := l * 32
  if l ≥ bufferLine then (4, 0)
  else if a < 0x80000000 then (0, a / 0x40000 / 17)
  else if a < 0x0100000000 then (1, (a - 0x80000000) / 0x8000 / 2)
  else if a < 0x0200000000 then (2, (a - 0x0100000000) / 0x200000)
  else (3, 0)

/-- The memory that fails as a whole with a line (R295): the engine of a local memory, the cluster of a sample memory. -/
def lineUnit (l : Nat) : Nat :=
  let a := l * 32
  if l ≥ bufferLine then 0 else if a < 0x80000000 then a / 0x40000 else if a < 0x0100000000 then a / 0x8000
  else if a < 0x0200000000 then a / 0x200000 else 0

/-- Health counters of a region and cluster, changed by `f` (R294). -/
def State.modHealth (s : State) (region cc : Nat) (f : MemHealth → MemHealth) : State :=
  { s with anvil.health := s.anvil.health.modD (32 * region + cc) {} f }

def State.lineHealth (s : State) (l : Nat) (f : MemHealth → MemHealth) : State :=
  s.modHealth (lineRegion l).1 (lineRegion l).2 f

/-- Units of 2^-40 ns in a second. -/
def tbSec : Nat := 1000000000 * 2 ^ 40

/-- A line with flipped bits is met by a read or a partial write: one bit is corrected and written back, two make the line
uncorrectable and so POISONED (R294, R295). -/
def State.meetErr (s : State) (l : Nat) : State :=
  match s.anvil.errs.get l with
  | none => s
  | some false =>
    { s with anvil.errs := s.anvil.errs.del l }.lineHealth l (fun h => { h with corrData := inc32 h.corrData })
  | some true =>
    let again := match s.anvil.rewritten.get l with
      | some t => decide (tDiff s.tb3 t < (10 * tbSec : Nat))
      | none => false
    let recent := s.anvil.uncorrAt.filter (fun u => decide (tDiff s.tb3 u.2.1 < (tbSec : Nat)))
    { s with
      anvil.errs := s.anvil.errs.del l
      anvil.poison := if s.anvil.poison.contains l then s.anvil.poison else l :: s.anvil.poison
      anvil.uncorrAt := (l, s.tb3, again) :: recent }.lineHealth l (fun h => { h with uncorr := inc32 h.uncorr })

/-- The lines of a range of bytes that carry an error or poison. -/
def State.markedLines (s : State) (a n : Nat) : List Nat :=
  let here (l : Nat) : Bool := decide (a < l * 32 + 32) && decide (l * 32 < a + n)
  ((s.anvil.errs.map (·.1)).filter here ++ s.anvil.poison.filter here).eraseDups

/-- Bytes of an internal address range are read: whether they meet poison, and the counts (R294, R296). -/
def State.readRange (s : State) (a n : Nat) : Bool × State :=
  let s := (s.markedLines a n).foldl (fun s l => s.meetErr l) s
  match (s.markedLines a n).filter s.anvil.poison.contains with
  | [] => (false, s)
  | l :: _ => (true, s.lineHealth l (fun h => { h with poisonReads := inc32 h.poisonReads }))

/-- Bytes of an internal address range are written (R295): a line written whole is good again, one written in part is
merged onto its corrected data or stays POISONED. -/
def State.wroteRange (s : State) (a n : Nat) : State :=
  (s.markedLines a n).foldl (fun s l =>
    if a ≤ l * 32 ∧ l * 32 + 32 ≤ a + n then
      let bad := s.anvil.poison.contains l
      { s with
        anvil.errs := s.anvil.errs.del l
        anvil.poison := s.anvil.poison.filter (· != l)
        anvil.rewritten := if bad then s.anvil.rewritten.put l s.tb3 else s.anvil.rewritten }
    else s.meetErr l) s

end Sys2Proof.Machine
end

