-- ==== Sys2Proof/Machine/ImageFmt.lean ====
section
/-! DEFINITION. Function image containers (08 R211, R212). -/
namespace Sys2Proof.Machine

/-! Fields of a container (R211). -/
def imgId (b : Bytes) : Nat := u32 b 0x00
def imgKind (b : Bytes) : Nat := byteAt b 0x04
def imgLevels (b : Bytes) : Nat := u16 b 0x06
def imgHash (b : Bytes) : Nat := u64 b 0x08
def imgWcic (b : Bytes) : Nat := u32 b 0x10
def imgCode (b : Bytes) : Nat := u32 b 0x14
def imgData (b : Bytes) : Nat := u32 b 0x18
def imgEntry (b : Bytes) : Nat := u32 b 0x1C
def imgIn (b : Bytes) : Nat := u32 b 0x20
def imgNChan (b : Bytes) : Nat := u16 b 0x24
def imgNSig (b : Bytes) : Nat := u16 b 0x26
def imgOutWords (b : Bytes) : Nat := u16 b 0x28
def imgNSettings (b : Bytes) : Nat := u16 b 0x2A
def imgRetainOff (b : Bytes) : Nat := u32 b 0x2C
def imgRetainBytes (b : Bytes) : Nat := u32 b 0x30
def imgTotal (b : Bytes) : Nat := u32 b 0x34

/-- Bytes of DEPTHS, padded to 4. -/
def imgDepthBytes (b : Bytes) : Nat := (2 * imgNChan b + 3) / 4 * 4
def imgSettingsAt (b : Bytes) : Nat := 0x40 + imgDepthBytes b
def imgSafeAt (b : Bytes) : Nat := imgSettingsAt b + 4 * imgNSettings b
def imgInitAt (b : Bytes) : Nat := imgSafeAt b + 4 * imgOutWords b
def imgCodeAt (b : Bytes) : Nat := imgInitAt b + (imgData b - 32)
def imgCrcAt (b : Bytes) : Nat := imgCodeAt b + imgCode b

/-- K of declared channel `i` (R205). -/
def imgDepth (b : Bytes) (i : Nat) : Nat := u16 b (0x40 + 2 * i)

/-- The settings: DATA offset and size of each. -/
def imgSettings (b : Bytes) : List (Nat × Nat) :=
  (List.range (imgNSettings b)).map (fun i => (u16 b (imgSettingsAt b + 4 * i), u16 b (imgSettingsAt b + 4 * i + 2)))

/-- Safe values of the output words (R215). -/
def imgSafe (b : Bytes) : List Nat := (List.range (imgOutWords b)).map (fun i => u32 b (imgSafeAt b + 4 * i))

/-- Initial DATA from offset 0x20. -/
def imgInit (b : Bytes) : Bytes := slice b (imgInitAt b) (imgData b - 32)

/-- The CODE bytes. -/
def imgCodeBytes (b : Bytes) : Bytes := slice b (imgCodeAt b) (imgCode b)

/-- IN_BYTES that R207 and R209 give for a container. -/
def imgInExpected (b : Bytes) : Nat :=
  if imgKind b = 1 then 128
  else
    let sumK := ((List.range (imgNChan b)).map (imgDepth b)).foldl (· + ·) 0
    (0x40 + 20 * sumK + 8 * imgNSig b + 31) / 32 * 32

/-- IMAGE_BYTES that a declaration of the image must give (R212). -/
def imgImageBytes (b : Bytes) : Nat := (2 * imgIn b + 4 * imgOutWords b + 31) / 32 * 32

/-- The size of the container that its fields give. -/
def imgSizeExpected (b : Bytes) : Nat := imgCrcAt b + 4

/-- Do two settings overlap anywhere in the list? -/
def settingsOverlap : List (Nat × Nat) → Bool
  | [] => false
  | (o, n) :: t => t.any (fun x => decide (o < x.1 + x.2) && decide (x.1 < o + n)) || settingsOverlap t

/-- The container offset of the first field that fails R212, once the CRC holds. Fields are judged in ascending offset
(log entry 20). -/
def imgFault (b : Bytes) (id total : Nat) : Option Nat :=
  let k := imgKind b
  firstBad [
    (0x00, decide (1 ≤ imgId b) && decide (imgId b ≤ 0xFFFFFFFE) && imgId b == id),
    (0x04, decide (k ≤ 1)),
    (0x05, byteAt b 0x05 == 0),
    (0x06, imgLevels b != 0),
    (0x14, imgCode b % 32 == 0),
    (0x18, imgData b % 32 == 0 && decide (imgData b ≥ 32)),
    (0x1C, decide (imgEntry b < imgCode b) && imgEntry b % (if k = 1 then 2 else 4) == 0),
    (0x20, imgIn b == imgInExpected b),
    (0x24, if k = 1 then imgNChan b == 0 else decide (imgNChan b ≤ 2000)),
    (0x26, decide (imgNSig b ≤ (if k = 1 then 512 else 4096))),
    (0x28, decide (imgOutWords b ≤ (if k = 1 then 32 else 1024))),
    (0x2A, decide (imgNSettings b ≤ 1024)),
    (0x2C, decide (imgRetainOff b ≥ 0x20)),
    (0x30, decide (imgRetainBytes b ≤ 4096) && decide (imgRetainOff b + imgRetainBytes b ≤ imgData b)),
    (0x34, imgTotal b == total && imgSizeExpected b == total),
    (0x38, u64 b 0x38 == 0),
    (0x40, (List.range (imgNChan b)).all (fun i => decide (1 ≤ imgDepth b i) && decide (imgDepth b i ≤ 256)) &&
      (imgNChan b % 2 == 0 || u16 b (0x40 + 2 * imgNChan b) == 0)),
    (imgSettingsAt b, (imgSettings b).all (fun x => decide (1 ≤ x.2) && decide (x.2 ≤ 64) &&
      decide (imgRetainOff b ≤ x.1) && decide (x.1 + x.2 ≤ imgRetainOff b + imgRetainBytes b)) &&
      !settingsOverlap (imgSettings b))]

/-- The container of a loaded image. -/
def State.image (s : State) (id : Nat) : Option Bytes :=
  match s.prog.images.get id with
  | some i => if i.loaded then some i.bytes else none
  | none => none

def State.imageD (s : State) (id : Nat) : Bytes := (s.image id).getD []

end Sys2Proof.Machine
end

