-- ==== Sys2Proof/Machine/Crypto.lean ====
section
/-! DEFINITION. SHA-256 and HMAC (FIPS 180-4, 198-1), AES (FIPS 197) and GMAC (SP 800-38D), in terms of which chapters 04
(R101), 20 (R470, R474, R478) and 21 (R494) state tags, derived keys, check values and tokens. PRESUMED: these are the
published algorithms (log entry 30). -/
namespace Sys2Proof.Machine

/-! ### SHA-256 -/

def w32 (n : Nat) : Nat := n % 0x100000000
def ror32 (x k : Nat) : Nat := w32 (x / 2 ^ k ||| (x * 2 ^ (32 - k)))

def shaK : List Nat := [
  0x428a2f98, 0x71374491, 0xb5c0fbcf, 0xe9b5dba5, 0x3956c25b, 0x59f111f1, 0x923f82a4, 0xab1c5ed5,
  0xd807aa98, 0x12835b01, 0x243185be, 0x550c7dc3, 0x72be5d74, 0x80deb1fe, 0x9bdc06a7, 0xc19bf174,
  0xe49b69c1, 0xefbe4786, 0x0fc19dc6, 0x240ca1cc, 0x2de92c6f, 0x4a7484aa, 0x5cb0a9dc, 0x76f988da,
  0x983e5152, 0xa831c66d, 0xb00327c8, 0xbf597fc7, 0xc6e00bf3, 0xd5a79147, 0x06ca6351, 0x14292967] ++ [
  0x27b70a85, 0x2e1b2138, 0x4d2c6dfc, 0x53380d13, 0x650a7354, 0x766a0abb, 0x81c2c92e, 0x92722c85,
  0xa2bfe8a1, 0xa81a664b, 0xc24b8b70, 0xc76c51a3, 0xd192e819, 0xd6990624, 0xf40e3585, 0x106aa070,
  0x19a4c116, 0x1e376c08, 0x2748774c, 0x34b0bcb5, 0x391c0cb3, 0x4ed8aa4a, 0x5b9cca4f, 0x682e6ff3,
  0x748f82ee, 0x78a5636f, 0x84c87814, 0x8cc70208, 0x90befffa, 0xa4506ceb, 0xbef9a3f7, 0xc67178f2]

def shaInit : List Nat := [
  0x6a09e667, 0xbb67ae85, 0x3c6ef372, 0xa54ff53a, 0x510e527f, 0x9b05688c, 0x1f83d9ab, 0x5be0cd19]

/-- Big-endian words of a byte string. -/
def beWords : Nat → Bytes → List Nat
  | 0, _ => []
  | n + 1, p => beNat (p.take 4) :: beWords n (p.drop 4)

/-- The 48 further words of the message schedule; `w` holds the words so far, newest first. -/
def shaSchedule : Nat → List Nat → List Nat
  | 0, w => w
  | n + 1, w =>
    let g (i : Nat) : Nat := w.getD (i - 1) 0
    let s0 := ror32 (g 15) 7 ^^^ ror32 (g 15) 18 ^^^ g 15 / 8
    let s1 := ror32 (g 2) 17 ^^^ ror32 (g 2) 19 ^^^ g 2 / 1024
    shaSchedule n (w32 (g 16 + s0 + g 7 + s1) :: w)

def shaRound (h : List Nat) (kw : Nat × Nat) : List Nat :=
  match h with
  | [a, b, c, d, e, f, g, hh] =>
    let s1 := ror32 e 6 ^^^ ror32 e 11 ^^^ ror32 e 25
    let ch := (e &&& f) ^^^ ((0xFFFFFFFF ^^^ e) &&& g)
    let t1 := hh + s1 + ch + kw.1 + kw.2
    let s0 := ror32 a 2 ^^^ ror32 a 13 ^^^ ror32 a 22
    let mj := (a &&& b) ^^^ (a &&& c) ^^^ (b &&& c)
    [w32 (t1 + s0 + mj), a, b, c, w32 (d + t1), e, f, g]
  | _ => h

def shaBlock (h : List Nat) (p : Bytes) : List Nat :=
  let w := (shaSchedule 48 (beWords 16 p).reverse).reverse
  List.zipWith (fun a b => w32 (a + b)) h ((shaK.zip w).foldl shaRound h)

def shaBlocks : Nat → List Nat → Bytes → List Nat
  | 0, h, _ => h
  | n + 1, h, p => shaBlocks n (shaBlock h (p.take 64)) (p.drop 64)

def sha256 (p : Bytes) : Bytes :=
  let z := (119 - p.length % 64) % 64
  let m := p ++ [0x80#8] ++ zeros z ++ be 8 (8 * p.length)
  (shaBlocks (m.length / 64) shaInit m).flatMap (be 4)

/-- HMAC-SHA256. -/
def hmac (key data : Bytes) : Bytes :=
  let k := padTo 64 (if key.length > 64 then sha256 key else key)
  sha256 (k.map (· ^^^ 0x5c) ++ sha256 (k.map (· ^^^ 0x36) ++ data))

/-! ### AES -/

/-- Multiplication in GF(2^8) by x. -/
def xtime (a : Nat) : Nat := if a ≥ 128 then (2 * a ^^^ 0x11B) % 256 else 2 * a

def gfMul8 : Nat → Nat → Nat → Nat
  | 0, _, _ => 0
  | n + 1, a, b => (if b % 2 = 1 then a else 0) ^^^ gfMul8 n (xtime a) (b / 2)

def gfMul (a b : Nat) : Nat := gfMul8 8 a b

/-- The inverse in GF(2^8), as the 254th power; 0 for 0. -/
def gfInv (a : Nat) : Nat :=
  let a2 := gfMul a a
  let a4 := gfMul a2 a2
  let a8 := gfMul a4 a4
  let a16 := gfMul a8 a8
  let a32 := gfMul a16 a16
  let a64 := gfMul a32 a32
  let a128 := gfMul a64 a64
  gfMul a128 (gfMul a64 (gfMul a32 (gfMul a16 (gfMul a8 (gfMul a4 a2)))))

def rol8 (x k : Nat) : Nat := (x * 2 ^ k ||| x / 2 ^ (8 - k)) % 256

def aesSbox (b : Nat) : Nat :=
  let x := gfInv b
  x ^^^ rol8 x 1 ^^^ rol8 x 2 ^^^ rol8 x 3 ^^^ rol8 x 4 ^^^ 0x63

/-- The key schedule: words of four bytes, newest first; `i` is the number of the next word, `nk` the key's words. -/
def aesExpand : Nat → Nat → Nat → List (List Nat) → Nat → List (List Nat)
  | 0, _, _, w, _ => w
  | n + 1, i, nk, w, rc =>
    let t := w.headD []
    let t := if i % nk = 0 then (t.drop 1 ++ t.take 1).map aesSbox
      else if nk > 6 ∧ i % nk = 4 then t.map aesSbox else t
    let t := if i % nk = 0 then (t.headD 0 ^^^ rc) :: t.drop 1 else t
    aesExpand n (i + 1) nk (List.zipWith (· ^^^ ·) (w.getD (nk - 1) []) t :: w) (if i % nk = 0 then xtime rc else rc)

def nats4 (p : Bytes) : List (List Nat) :=
  (List.range (p.length / 4)).map (fun i => (slice p (4 * i) 4).map (·.toNat))

/-- The round keys, sixteen bytes each. -/
def aesKeys (key : Bytes) : List (List Nat) :=
  let nk := key.length / 4
  let n := 4 * (nk + 7)
  let w := (aesExpand (n - nk) nk nk (nats4 key).reverse 1).reverse
  (List.range (nk + 7)).map (fun i => ((w.drop (4 * i)).take 4).flatten)

def aesShift (s : List Nat) : List Nat :=
  (List.range 16).map (fun i => s.getD ((i + 4 * (i % 4)) % 16) 0)

def aesMix (s : List Nat) : List Nat :=
  (List.range 16).map (fun i =>
    let c := 4 * (i / 4)
    let g (k : Nat) : Nat := s.getD (c + (i + k) % 4) 0
    gfMul 2 (g 0) ^^^ gfMul 3 (g 1) ^^^ g 2 ^^^ g 3)

def xorL (a b : List Nat) : List Nat := List.zipWith (· ^^^ ·) a b

/-- AES encryption of one 16-byte block. -/
def aesEncrypt (key : Bytes) (block : Bytes) : Bytes :=
  let ks := aesKeys key
  let s := xorL (block.map (·.toNat)) (ks.headD [])
  let s := (ks.tail.dropLast).foldl (fun s k => xorL (aesMix (aesShift (s.map aesSbox))) k) s
  (xorL (aesShift (s.map aesSbox)) (ks.getLastD [])).map (BitVec.ofNat 8)

/-! ### GMAC -/

/-- Multiplication in GF(2^128) as GHASH counts bits: bit 0 is the most significant. -/
def ghashMul : Nat → Nat → Nat → Nat → Nat
  | 0, _, _, z => z
  | n + 1, v, y, z =>
    let z := if bit y n then z ^^^ v else z
    ghashMul n (if v % 2 = 1 then v / 2 ^^^ (0xE1 * 2 ^ 120) else v / 2) y z

def ghash : Nat → Nat → Bytes → Nat → Nat
  | 0, _, _, y => y
  | n + 1, h, p, y => ghash n h (p.drop 16) (ghashMul 128 h (y ^^^ beNat (padTo 16 (p.take 16))) 0)

/-- The GMAC tag of authenticated data under a 12-byte initialisation vector. -/
def gmac (key iv aad : Bytes) : Bytes :=
  let h := beNat (aesEncrypt key (zeros 16))
  let n := ceilDiv aad.length 16
  let y := ghash (n + 1) h (padTo (16 * n) aad ++ be 8 (8 * aad.length) ++ zeros 8) 0
  be 16 (y ^^^ beNat (aesEncrypt key (iv ++ be 4 1)))

/-- The IEC 62351-6 tag of a kind of R101. -/
def tagOf (kind : Nat) (key iv data : Bytes) : Bytes :=
  if kind = 1 then (hmac key data).take 16 else if kind = 2 then hmac key data else gmac key iv data

/-- Bytes of a tag of R101. -/
def tagBytes (kind : Nat) : Nat := if kind = 0 then 0 else if kind = 2 then 32 else 16

end Sys2Proof.Machine
end

