-- ==== Sys2Proof/Machine/KeyOps.lean ====
section
/-! DEFINITION. Halo's slots, integrity tags, uses, derived keys and working copies (20 R468 to R480). -/
namespace Sys2Proof.Machine

def tHmac := 1
def tAes128 := 2
def tAes256 := 3
def tParent := 4

/-- Phases of Halo (R473). -/
inductive HaloPhase where
  | startUp
  | service
  | test
  | recovery
  deriving DecidableEq, Repr

/-- The phase Halo runs in: RECOVERY ends only with a reset, so it comes before TEST (R473). -/
def State.haloPhase (s : State) : HaloPhase :=
  if s.boot.phase == .recovery || s.anvil.hub == .fatal then .recovery
  else if s.tap.instr != .bypass && s.tap.instr != .idcode then .test
  else if s.boot.phase == .ready then .service
  else .startUp

def State.slot (s : State) (n : Nat) : KeySlot := s.keys.slots.getD n {}
def State.setSlot (s : State) (n : Nat) (k : KeySlot) : State := { s with keys.slots := s.keys.slots.put n k }

/-- The unmasked key bytes of a slot (R472). -/
def KeySlot.key (k : KeySlot) : Bytes := le (k.bits / 8) (k.word ^^^ k.mask)

/-- The TAG of a slot (R470). -/
def slotTag (n : Nat) (k : KeySlot) (key : Bytes) : Nat :=
  leNat ((hmac (List.ofFn Config.integrityKey)
    (le 1 n ++ le 1 k.type ++ le 1 k.usage ++ le 1 k.owner ++ le 1 k.version ++ le 2 k.bits ++ key)).take 8)

def KeySlot.tagOk (n : Nat) (k : KeySlot) : Bool := k.tag == slotTag n k k.key

/-- Counts one of the four Halo counters. -/
def State.haloCount (s : State) (i : Nat) : State := { s with keys.counters := modAt s.keys.counters i inc32 }

/-- Drops the derived keys of a slot (R475). -/
def State.dropDerived (s : State) (n : Nat) : State :=
  { s with keys.cache := s.keys.cache.filter (fun e => e.slot != n) }

/-- A slot whose TAG failed becomes UNUSABLE (R471). -/
def State.slotUnusable (s : State) (n : Nat) : State :=
  (((s.setSlot n { s.slot n with st := .unusable }).dropDerived n).haloCount 0).post 0x0F01 (le 2 n)

/-- What a use of a slot gives (R470, R471, R473): the key; no use (the slot is not VALID, or the phase allows none); or
the slot's TAG failed. -/
inductive KeyUse where
  | ok (key : Bytes)
  | refused
  | integrity (s : State)

/-- A use of a slot: TAG is checked first (R470). -/
def State.useSlot (s : State) (n : Nat) : KeyUse :=
  let k := s.slot n
  if k.st != .valid || s.haloPhase != .service then .refused
  else if !k.tagOk n then .integrity (s.slotUnusable n)
  else .ok k.key

/-! ### What consumers require (R469) -/

/-- TYPE that an AUTH value needs. -/
def authType (auth : Nat) : Nat := if auth = 3 then tAes128 else if auth = 4 then tAes256 else tHmac

def KeySlot.fits (k : KeySlot) (need : Nat × Nat) : Bool := k.type == need.1 && (k.usage &&& need.2 == need.2)

/-- May an instance's definition name the slot for a consumer (R469)? -/
def State.slotFits (s : State) (vi n : Nat) (need : Nat × Nat) : Bool :=
  let k := s.slot n
  k.st == .valid && k.fits need && (vi == 0 || k.owner == vi || k.owner == 0xFF)

def needVerify (auth : Nat) : Nat × Nat := (authType auth, 0x01)
def needGenerate (auth : Nat) : Nat × Nat := (authType auth, 0x02)
def needPair : Nat × Nat := (tAes256, 0x04)
def needStratus : Nat × Nat := (tParent, 0x14)
def needClear : Nat × Nat := (tHmac, 0x08)

/-- What each definition and setting that names a slot requires of it (R469, R477). -/
def State.slotUsers (s : State) (n : Nat) : List (Nat × Nat) :=
  (s.ingest.streams.filter (fun p => p.2.cfg.auth != 0 && p.2.cfg.keySlot == n)).map (fun p => needVerify p.2.cfg.auth) ++
  (s.pub.subs.filter (fun p => p.2.auth != 0 && p.2.keySlot == n)).map (fun p => needVerify p.2.auth) ++
  (s.pub.pubs.filter (fun p => p.2.auth != 0 && p.2.keySlot == n)).map (fun p => needGenerate p.2.auth) ++
  (if s.pair.configured && s.pair.keySlot == n then [needPair] else []) ++
  (match s.stratus.cfg with
   | some c => if c.keySlot == n then [needStratus] else []
   | none => [])

/-! ### Derived keys (R474, R475) -/

/-- The PRF input of block `i` (R474). -/
def kdfInput (i : Nat) (label : Bytes) (bits : Nat) : Bytes := be 4 i ++ label ++ zeros 1 ++ be 4 bits

/-- The derived key: one block of HMAC-SHA256 gives up to 256 bits (R474). -/
def kdf (parent label : Bytes) (bits : Nat) : Bytes := (hmac parent (kdfInput 1 label bits)).take (bits / 8)

/-- A derived key through the cache (R475): a miss checks the parent's TAG and computes. -/
def State.derive (s : State) (n : Nat) (label : Bytes) (bits : Nat) : KeyUse × State :=
  let hit (e : CacheKey) : Bool := e.slot == n && e.label == label && e.bits == bits
  let keep (s : State) (e : CacheKey) : State :=
    { s with keys.cache := (e :: s.keys.cache.filter (fun x => !hit x)).take 1024 }
  if (s.slot n).st != .valid || s.haloPhase != .service then (.refused, s)
  else
    match s.keys.cache.find? hit with
    | some e => (.ok e.key, keep s e)
    | none =>
      match s.useSlot n with
      | .ok parent =>
        let e : CacheKey := { slot := n, label := label, bits := bits, key := kdf parent label bits }
        (.ok e.key, (keep s e).haloCount 2)
      | .refused => (.refused, s)
      | .integrity t => (.integrity t, t)

/-! ### Working copies (R29, R477) -/

def macPair : Nat := 0
def macPairB : Nat := 1000
def macStratus (ring node : Nat) : Nat := 1 + 32 * ring + node

/-- The label of a Stratus link (R475). -/
def stratusLabel (ring node : Nat) : Bytes := ascii [0x53, 0x54, 0x52, 0x41, 0x54, 0x55, 0x53, ring, node]

/-- Loads the key of a MACsec link: a reload advances the association number and keeps the previous key (R477). -/
def State.loadMac (s : State) (link : Nat) (key : Bytes) : State :=
  let k : MacKey :=
    match s.keys.macsec.get link with
    | some k => { an := (k.an + 1) % 4, cur := some key, prev := k.cur, prevAt := s.tb3, rxPn := 0, prevPn := k.rxPn }
    | none => { cur := some key }
  { s with keys.macsec := s.keys.macsec.put link k }

/-- Loads the derived key of one Stratus link. -/
def State.loadStratus (s : State) (ring node : Nat) : State :=
  match s.stratus.cfg with
  | none => s
  | some c =>
    match s.derive c.keySlot (stratusLabel ring node) 256 with
    | (.ok k, t) => t.loadMac (macStratus ring node) k
    | (_, t) => t

/-- Every working copy taken from slot `n`, or derived from it, is loaded again (R477). -/
def State.reloadUsers (s : State) (n : Nat) (key : Bytes) : State :=
  let s := { s with
    ingest.streams := s.ingest.streams.mapV (fun _ x =>
      if x.cfg.auth != 0 && x.cfg.keySlot == n then { x with key := some key } else x),
    pub.pubs := s.pub.pubs.mapV (fun _ x => if x.auth != 0 && x.keySlot == n then { x with key := some key } else x),
    pub.subs := s.pub.subs.mapV (fun _ x => if x.auth != 0 && x.keySlot == n then { x with key := some key } else x) }
  let s := if s.pair.configured && s.pair.keySlot == n then (s.loadMac macPair key).loadMac macPairB key else s
  match s.stratus.cfg with
  | some c =>
    if c.keySlot == n then
      ((s.keys.macsec.map (·.1)).filter (fun l => l ≥ 1 && l != macPairB)).foldl (fun s l => s.loadStratus ((l - 1) / 32) ((l - 1) % 32)) s
    else s
  | none => s

/-- Is a frame that its sender protected under `key` with packet number `pn` accepted on a link: under the current key,
or under the previous one for 1 s, and not replayed (R345, R477)? The state after it, if so. -/
def State.macOpen (s : State) (link : Nat) (key : Bytes) (pn : Nat) : Option State :=
  match s.keys.macsec.get link with
  | none => none
  | some k =>
    if k.cur = some key then
      if pn ≥ k.rxPn then some { s with keys.macsec := s.keys.macsec.put link { k with rxPn := pn + 1 } } else none
    else if k.prev = some key && !s.tb3Passed k.prevAt 1000000 then
      if pn ≥ k.prevPn then some { s with keys.macsec := s.keys.macsec.put link { k with prevPn := pn + 1 } } else none
    else none

/-- May frames leave on a link: its transmit key is loaded? -/
def State.macReady (s : State) (link : Nat) : Bool :=
  match s.keys.macsec.get link with
  | some k => k.cur.isSome
  | none => false

/-! ### Check values, masks, zeroisation -/

/-- The check value of a key (R478). -/
def checkValue (type : Nat) (key : Bytes) : Bytes :=
  if type = tAes128 ∨ type = tAes256 then (aesEncrypt key (zeros 16)).take 3
  else (hmac key (ascii [0x4B, 0x43, 0x56])).take 3

/-- Stores a key under a mask newly drawn (R472). -/
def State.maskSlot (s : State) (n : Nat) (k : KeySlot) (key : Bytes) : State :=
  let (r, s) := s.randomBytes 64
  let m := leNat r
  s.setSlot n { k with word := leNat key ^^^ m, mask := m }

/-- One slot re-masked after its TAG check (R472). A pass counts with the last slot that is not EMPTY. -/
def State.remask (s : State) (n : Nat) : State :=
  let k := s.slot n
  if k.st != .valid then s
  else if !k.tagOk n then s.slotUnusable n
  else s.maskSlot n k k.key

/-- The check of a slot's TAG, with the bits of `flip` of its stored key word found flipped (R470, R471). -/
def State.tagCheck (s : State) (n flip : Nat) : State :=
  if (s.slot n).st != .valid then s
  else
    let k := { s.slot n with word := ((s.slot n).word ^^^ flip) % 2 ^ 512 }
    if k.tagOk n then s.setSlot n k else (s.setSlot n k).slotUnusable n

/-- Zeroisation on a tamper event with its cause (R479): every slot, the cache and the working keys; the latch and the
record. -/
def State.zeroise (s : State) (cause : Nat) : State :=
  let s := { s with
    keys.slots := s.keys.slots.mapV (fun _ (k : KeySlot) =>
      if k.st == KeySt.empty then k else { k with st := .zeroised, word := 0, mask := 0, tag := 0 }),
    keys.cache := [],
    keys.macsec := s.keys.macsec.mapV (fun _ k => { k with cur := none, prev := none }),
    keys.tamperCause := cause,
    keys.tamperTb3 := visNs s.horizon.tb3,
    ingest.streams := s.ingest.streams.mapV (fun _ x => { x with key := none }),
    pub.pubs := s.pub.pubs.mapV (fun _ x => { x with key := none }),
    pub.subs := s.pub.subs.mapV (fun _ x => { x with key := none }) }
  ((s.haloCount 1).bump 0x008).post 0x0F02 (le 1 cause)

/-- The wired line of source 769: TAMPER_N asserted, or VAUX lost (19 R459). -/
def State.tamperLine (s : State) : State :=
  if s.power.supply = .off then s else s.setLine 769 (s.keys.tamperLow || !s.power.vaux)

end Sys2Proof.Machine
end

