-- ==== Sys2Proof/Machine/Frames.lean ====
section
/-! DEFINITION. Ethernet frames on the wire: header and VLAN tag, PRP trailer and HSR tag (16 R412, R413), the BER
structures of sampled values and GOOSE (04 R96, 09 R234; log entry 34), travelling-wave blocks (04 R110). A frame is the
bytes from the destination address up to the FCS. -/
namespace Sys2Proof.Machine

/-- A parsed frame: addresses, the VLAN tag's 16 bits if there is one, Ethertype and what follows it. -/
structure Eth where
  dst     : Nat
  src     : Nat
  tci     : Option Nat
  etype   : Nat
  payload : Bytes
  deriving DecidableEq, Repr

def be16 (p : Bytes) (o : Nat) : Nat := beNat (slice p o 2)
def be32 (p : Bytes) (o : Nat) : Nat := beNat (slice p o 4)

def ethParse (f : Bytes) : Eth :=
  let dst := beNat (slice f 0 6)
  let src := beNat (slice f 6 6)
  if be16 f 12 = 0x8100 then
    { dst := dst, src := src, tci := some (be16 f 14), etype := be16 f 16, payload := f.drop 18 }
  else { dst := dst, src := src, tci := none, etype := be16 f 12, payload := f.drop 14 }

def ethBuild (e : Eth) : Bytes :=
  be 6 e.dst ++ be 6 e.src ++ (match e.tci with
    | some t => be 2 0x8100 ++ be 2 t
    | none => []) ++ be 2 e.etype ++ e.payload

/-- Bit 0 of the first octet marks a group address. -/
def isMulticast (mac : Nat) : Bool := bit mac 40

/-- Pads a frame to the 60 bytes that precede the FCS of the shortest frame. -/
def padFrame (f : Bytes) : Bytes := f ++ zeros (60 - f.length)

/-! ### Redundancy tags -/

/-- The RCT of a PRP frame: sequence number and LanId, if the last two bytes are its suffix (R413). -/
def rctOf (f : Bytes) : Option (Nat × Nat) :=
  let r := f.drop (f.length - 6)
  let lan := beNat (slice r 2 2) / 4096
  if f.length ≥ 20 ∧ beNat (slice r 4 2) = 0x88FB ∧ (lan = 0xA ∨ lan = 0xB) then some (beNat (slice r 0 2), lan) else none

def dropRct (f : Bytes) : Bytes := f.take (f.length - 6)

/-- A frame with an RCT: number, LanId, size of the LSDU with the RCT, suffix. -/
def addRct (f : Bytes) (seq lan : Nat) : Bytes :=
  let f := padFrame f
  let e := ethParse f
  f ++ be 2 seq ++ be 2 (lan * 4096 + (e.payload.length + 6) % 4096) ++ be 2 0x88FB

/-- The HSR tag: sequence number and path, and the frame without it. -/
def hsrOf (f : Bytes) : Option (Nat × Nat × Bytes) :=
  let e := ethParse f
  if e.etype = 0x892F then
    some (be16 e.payload 2, be16 e.payload 0 / 4096,
      ethBuild { e with etype := be16 e.payload 4, payload := e.payload.drop 6 })
  else none

def addHsr (f : Bytes) (seq path : Nat) : Bytes :=
  let e := ethParse (padFrame f)
  ethBuild { e with etype := 0x892F,
                    payload := be 2 (path * 4096 + (e.payload.length + 6) % 4096) ++ be 2 seq ++ be 2 e.etype ++ e.payload }

/-! ### BER -/

/-- A definite length: its value and what follows, if it can be read. -/
def berLen : Bytes → Option (Nat × Bytes)
  | [] => none
  | b :: t =>
    if b.toNat < 128 then some (b.toNat, t)
    else
      let n := b.toNat - 128
      if n = 0 ∨ n > 4 ∨ t.length < n then none else some (beNat (t.take n), t.drop n)

/-- The elements of a BER string, as (tag, content), if it decodes whole. Tags are single octets. -/
def berSeq : Nat → Bytes → Option (List (Nat × Bytes))
  | 0, p => if p = [] then some [] else none
  | _ + 1, [] => some []
  | fuel + 1, t :: p =>
    match berLen p with
    | none => none
    | some (n, q) =>
      if q.length < n then none
      else (berSeq fuel (q.drop n)).map (fun l => (t.toNat, q.take n) :: l)

def berAll (p : Bytes) : Option (List (Nat × Bytes)) := berSeq p.length p

/-- The content of the first element with a tag. -/
def berGet (l : List (Nat × Bytes)) (tag : Nat) : Option Bytes := (l.find? (fun e => e.1 == tag)).map (·.2)

/-- A BER element. -/
def berPut (tag : Nat) (p : Bytes) : Bytes :=
  le 1 tag ++ (if p.length < 128 then le 1 p.length
    else if p.length < 256 then le 1 0x81 ++ le 1 p.length
    else le 1 0x82 ++ be 2 p.length) ++ p

/-- What precedes the APDU of an SV or GOOSE frame: APPID, Length, the simulation bit, the APDU with its tag, and the
bytes covered by the authentication extension with the tag that ends it (IEC 62351-6, log entry 34). -/
structure IecPdu where
  appid  : Nat
  sim    : Bool
  apdu   : Bytes
  ext    : Bytes
  body   : Bytes
  deriving DecidableEq, Repr

def iecParse (p : Bytes) : Option IecPdu :=
  let n := be16 p 2
  let extLen := be16 p 4 % 0x1000
  if p.length < 8 ∨ n < 8 ∨ p.length < n + extLen then none
  else some { appid := be16 p 0, sim := bit (be16 p 4) 15, apdu := slice p 8 (n - 8), ext := slice p n extLen,
              body := p.take (n + extLen) }

/-- The tag of a frame and the bytes it covers, if the extension is long enough to hold it. -/
def IecPdu.tag (u : IecPdu) (n : Nat) : Option (Bytes × Bytes) :=
  if n = 0 ∨ u.ext.length < n then none
  else some (u.body.drop (u.body.length - n), u.body.take (u.body.length - n))

/-! ### Sampled values (04 R96, R97) -/

/-- One ASDU: svID, smpCnt, confRev, smpSynch and the data set. -/
structure Asdu where
  svid  : Bytes
  cnt   : Nat
  rev   : Nat
  synch : Nat
  data  : Bytes
  deriving DecidableEq, Repr

def asduParse (p : Bytes) : Option Asdu :=
  match berAll p with
  | none => none
  | some l =>
    match berGet l 0x80, berGet l 0x82, berGet l 0x83, berGet l 0x85, berGet l 0x87 with
    | some svid, some cnt, some rev, some synch, some data =>
      if cnt.length = 2 ∧ rev.length = 4 ∧ synch.length = 1 then
        some { svid := svid, cnt := beNat cnt, rev := beNat rev, synch := beNat synch, data := data }
      else none
    | _, _, _, _, _ => none

def asduList : List (Nat × Bytes) → Option (List Asdu)
  | [] => some []
  | (tag, p) :: t =>
    if tag ≠ 0x30 then none
    else
      match asduParse p, asduList t with
      | some a, some l => some (a :: l)
      | _, _ => none

/-- The ASDUs of an SV APDU, if it decodes and their number is noASDU. -/
def svParse (apdu : Bytes) : Option (List Asdu) :=
  match berAll apdu with
  | some [(0x60, q)] =>
    match berAll q with
    | none => none
    | some l =>
      match berGet l 0x80, berGet l 0xA2 with
      | some n, some s =>
        match berAll s with
        | none => none
        | some e =>
          match asduList e with
          | some as_ => if beNat n = as_.length then some as_ else none
          | none => none
      | _, _ => none
  | _ => none

/-- The svID of the first ASDU, for the match of R98, as far as the frame can be read. -/
def svFirstId (apdu : Bytes) : Option Bytes :=
  match berLen (apdu.drop 1) with
  | none => none
  | some (_, q) =>
    match berAll q with
    | none => none
    | some l =>
      match berGet l 0xA2 with
      | none => none
      | some s =>
        match berLen (s.drop 1) with
        | none => none
        | some (n, r) => (berAll (r.take n)).bind (fun l => berGet l 0x80)

/-! ### Travelling-wave blocks (04 R110) -/

/-- A block with the fields of its subheader. `body` runs to the end of SAMPLES. -/
structure TwBlock where
  version : Nat
  flags   : Nat
  stream  : Nat
  seq     : Nat
  first   : Nat
  frac    : Nat
  count   : Nat
  nch     : Nat
  rate    : Nat
  quality : Nat
  samples : Bytes
  body    : Bytes
  tag     : Option Bytes
  deriving DecidableEq, Repr

def twParse (p : Bytes) : Option TwBlock :=
  let count := be16 p 0x12
  let nch := byteAt p 0x14
  let n := 2 * count * nch
  let auth := bit (byteAt p 1) 2
  if p.length < 0x18 + n + (if auth then 16 else 0) then none
  else some {
    version := byteAt p 0, flags := byteAt p 1, stream := be16 p 2, seq := be32 p 4, first := beNat (slice p 8 8),
    frac := be16 p 0x10, count := count, nch := nch, rate := byteAt p 0x15, quality := be16 p 0x16,
    samples := slice p 0x18 n, body := p.take (0x18 + n), tag := if auth then some (slice p (0x18 + n) 16) else none }

/-- The initialisation vector of a block's GMAC (R111). -/
def TwBlock.iv (b : TwBlock) : Bytes := be 2 b.stream ++ zeros 2 ++ be 4 b.seq ++ zeros 4

end Sys2Proof.Machine
end

