-- ==== Sys2Proof/Machine/SwitchOps.lean ====
section
/-! DEFINITION. Ports, queues, the shared buffer, gate lists and the transmitter (16 R402 to R411, 17 R426 to R434). -/
namespace Sys2Proof.Machine

/-! ### Ports and roles -/

/-- A port after power-up and RESET_N (17 R423). -/
def Port.init (n : Nat) : Port := if n ≥ 96 then { phy := 4, fec := 2 } else { phy := 3, fec := 0 }
def SwPort.init (n : Nat) : SwPort := { rng := 0x51280000 + n }

def State.port (s : State) (n : Nat) : Port := s.ports.getD n (Port.init n)
def State.setPort (s : State) (n : Nat) (p : Port) : State := { s with ports := s.ports.put n p }
def State.modPort (s : State) (n : Nat) (f : Port → Port) : State := s.setPort n (f (s.port n))
def State.swp (s : State) (n : Nat) : SwPort := s.sw.ports.getD n (SwPort.init n)
def State.setSwp (s : State) (n : Nat) (p : SwPort) : State := { s with sw.ports := s.sw.ports.put n p }
def State.modSwp (s : State) (n : Nat) (f : SwPort → SwPort) : State := s.setSwp n (f (s.swp n))

/-- ROLE of a port: 0 switch port, 1 Stratus, 2 pair link (R393). -/
def State.portRole (s : State) (n : Nat) : Nat :=
  let st := match s.stratus.cfg with
    | some c => c.ports.contains n
    | none => false
  if st then 1 else if s.pair.configured && (s.pair.linkA == n || s.pair.linkB == n) then 2 else 0

def State.isSwitchPort (s : State) (n : Nat) : Bool := decide (n < 128) && s.portRole n == 0
def State.portUp (s : State) (n : Nat) : Bool := (s.port n).st == .up

/-- Counts entry `i` of the 24 port counters. -/
def State.portCountN (s : State) (n i k : Nat) : State :=
  s.modPort n (fun p => { p with counters := modAt p.counters i (fun c => satAdd 32 c k) })
def State.portCount (s : State) (n i : Nat) : State := s.portCountN n i 1

/-- Counts entry `i` of a port's ingress counters (GET_SWITCH_COUNTERS). -/
def State.swCount (s : State) (n i : Nat) : State :=
  s.modSwp n (fun p => { p with counters := modAt p.counters i inc32 })

/-- Counts entry `i` of a queue's counters (GET_QUEUE_COUNTERS). -/
def State.qCount (s : State) (n tc i : Nat) : State :=
  s.modSwp n (fun p => { p with queues := modAt p.queues tc (fun q => { q with counters := modAt q.counters i inc32 }) })

/-- Data rate of a PHY in units of 0.1 Gb/s (17 R421). -/
def rate10 (phy : Nat) : Nat := if phy ≤ 1 then 10 else if phy = 2 then 25 else if phy = 3 then 100 else 250

/-- Line-rate class of a PHY: ports of one quad share it (17 R421). -/
def lineRate (phy : Nat) : Nat := if phy ≤ 1 then 1 else phy

/-- Time of `n` bytes on the wire in 1/589824 ns, rounded up. -/
def byteTime (phy n : Nat) : Nat := ceilDiv (qNs * n * 80) (rate10 phy)

/-- Transmission time of a frame or fragment of `b` bytes (17 R432). -/
def wireTime (phy b : Nat) : Nat := byteTime phy (b + 20)

/-- Does the MAC pass a good frame of these bytes: the port UP, the length in range (17 R427)? -/
def State.rxGood (s : State) (n : Nat) (f : Bytes) : Bool :=
  s.portUp n && decide (64 ≤ f.length + 4) && decide (f.length + 4 ≤ (s.port n).maxFrame)

/-- VLAN ID of a frame received on a port (R395). -/
def State.frameVid (s : State) (n : Nat) (e : Eth) : Nat :=
  match e.tci with
  | some t => if t % 4096 = 0 then (s.swp n).pvid else t % 4096
  | none => (s.swp n).pvid

/-! ### The shared buffer (R402, R403) -/

def bufferCells := 98304

/-- The `n` lowest cell numbers from `cur` up that are not in the rising list `used` (log entry 35). -/
def freeCells : Nat → Nat → Nat → List Nat → List Nat
  | 0, _, _, _ => []
  | fuel + 1, n, cur, used =>
    if n = 0 then []
    else
      match used with
      | [] => cur :: freeCells fuel (n - 1) (cur + 1) []
      | u :: t => if cur < u then cur :: freeCells fuel (n - 1) (cur + 1) (u :: t) else freeCells fuel n (max cur (u + 1)) t

def State.usedCells (s : State) : List Nat := sortBy (fun a b => decide (a ≤ b)) (s.sw.cells.flatMap (·.2))

def State.occupiedCells (s : State) : Nat := (s.sw.cells.map (fun p => p.2.length)).foldl (· + ·) 0

/-- Frames a port holds beside its queues: on the wire, and cut by preemption or a gate. -/
def Port.aside (p : Port) : List QFrame := (match p.tx with
  | some t => [t.frame]
  | none => []) ++ p.cut

/-- Charge of a queue: its frames, and those of it that are on the wire. -/
def State.queueUsed (s : State) (n tc : Nat) : Nat :=
  let q := match (s.swp n).queues[tc]? with
    | some q => (q.frames.map (·.charge)).foldl (· + ·) 0
    | none => 0
  q + (((s.port n).aside.filter (fun f => f.tc == tc)).map (·.charge)).foldl (· + ·) 0

/-- Σ RESERVED over all queues. -/
def State.reservedTotal (s : State) : Nat :=
  88 * (128 - s.sw.ports.length) + (s.sw.ports.flatMap (fun p => p.2.queues.map (·.reserved))).foldl (· + ·) 0

/-- Σ max(0, used − reserved) over all queues. -/
def State.sharedCharged (s : State) : Nat :=
  (s.sw.ports.flatMap (fun p => (List.range 8).map (fun tc =>
    s.queueUsed p.1 tc - ((p.2.queues[tc]?).map (·.reserved)).getD 0))).foldl (· + ·) 0

/-- The free shared pool. -/
def State.sharedFree (s : State) : Nat := bufferCells - s.reservedTotal - s.sharedCharged

/-- PAUSE frames as the pool crosses XOFF_CELLS and XON_CELLS (17 R430). -/
def State.checkPause (s : State) : State :=
  s.ports.foldl (fun s e =>
    let p := e.2
    if !p.txForce || p.st != .up then s
    else
      let frame (quanta : Nat) : Bytes :=
        padFrame (be 6 0x0180C2000001 ++ be 6 Config.sourceMac.toNat ++ be 2 0x8808 ++ be 2 1 ++ be 2 quanta)
      if !p.pausing && decide (s.sharedFree < p.xoff) then
        ((s.modPort e.1 (fun p => { p with pausing := true })).portCount e.1 17).emit (.frame e.1 s.now (frame 0xFFFF) true)
      else if p.pausing && decide (s.sharedFree ≥ p.xon) then
        ((s.modPort e.1 (fun p => { p with pausing := false })).portCount e.1 17).emit (.frame e.1 s.now (frame 0) true)
      else s) s

/-- Frees the cells of a frame that no port holds any longer. -/
def State.releaseId (s : State) (id : Nat) : State :=
  let inQ := s.sw.ports.any (fun p => p.2.queues.any (fun q => q.frames.any (fun f => f.id == id)))
  let aside := s.ports.any (fun p => p.2.aside.any (fun f => f.id == id))
  (if inQ || aside then s else { s with sw.cells := s.sw.cells.del id }).checkPause

/-- The cells of a frame, kept once however many ports it leaves by (R402). -/
def State.storeCells (s : State) (id bytes : Nat) : State :=
  if s.sw.cells.has id then s
  else
    let used := s.usedCells
    let n := ceilDiv bytes 256
    let s := { s with sw.cells := s.sw.cells.put id (freeCells (n + used.length + 1) n 0 used) }
    { s with sw.peak := max s.sw.peak s.occupiedCells }

/-- Scaled by a power of two, rounded down. -/
def scale2 (x : Nat) (e : Int) : Nat := if e ≥ 0 then x * 2 ^ e.toNat else x / 2 ^ (-e).toNat

/-- One draw of a port's generator (R405). -/
def xorshift (x : Nat) : Nat :=
  let x := (x ^^^ (x * 2 ^ 13)) % 2 ^ 32
  let x := x ^^^ (x / 2 ^ 17)
  (x ^^^ (x * 2 ^ 5)) % 2 ^ 32

/-- What an admission decides (R403, R405, R426). -/
inductive Admit where
  | yes
  | down
  | tail
  | localDrop
  | red
  deriving DecidableEq, Repr

/-- The admission rule of R403 for a frame that needs `need` cells in queue `tc` of a port. -/
def State.admits (s : State) (n tc need : Nat) (local_ : Bool) : Admit :=
  match (s.swp n).queues[tc]? with
  | none => .tail
  | some q =>
    let used := s.queueUsed n tc
    let over_ := (used + need - q.reserved) - (used - q.reserved)
    let free := s.sharedFree
    if over_ = 0 then .yes
    else if local_ then (if over_ > free then .localDrop else .yes)
    else if over_ ≤ free ∧ used + need - q.reserved ≤ scale2 (free - over_) q.alpha then .yes
    else .tail

/-- The profile of R405: whether the frame is dropped, and whether a draw was taken. -/
def profileDrop (prof : Nat × Nat × Nat) (depth x : Nat) : Bool × Bool :=
  let (mn, mx, mp) := prof
  if mx = 0 || depth < mn then (false, false)
  else if depth ≥ mx then (true, false)
  else (decide (x % 65536 < mp * (depth - mn) / (mx - mn)), true)

/-- Offers a frame to its queue: admission, then the profile (R403, R405). Whether it was taken. -/
def State.enqueue (s : State) (n : Nat) (f : QFrame) (need : Nat) (yellow : Bool) : Bool × State :=
  if !s.portUp n then (false, s.portCount n 16)
  else
    match s.admits n f.tc need f.local_ with
    | .tail => (false, s.qCount n f.tc 3)
    | .localDrop => (false, (s.qCount n f.tc 8).raiseInt 143)
    | _ =>
      let p := s.swp n
      let prof := match p.queues[f.tc]? with
        | some q => if yellow then q.yellow else q.green
        | none => (0, 0, 0)
      let x := xorshift p.rng
      let (drop, drew) := if f.local_ || f.tc ≥ 6 then (false, false) else profileDrop prof (s.queueUsed n f.tc) x
      let s := if drew then s.setSwp n { p with rng := x } else s
      if drop then (false, s.qCount n f.tc 4)
      else
        let s := s.storeCells f.id (f.bytes.length + 4)
        let s := s.modSwp n (fun p => { p with queues := modAt p.queues f.tc (fun q =>
          { q with frames := q.frames ++ [f], counters := modAt q.counters 0 inc32 }) })
        let u := s.queueUsed n f.tc
        let s := s.modSwp n (fun p => { p with queues := modAt p.queues f.tc (fun q => { q with peak := max q.peak u }) })
        (true, s.checkPause)

/-- A frame that the module originates goes to a port's queue, not to start before `ready` (R396, R400, R403). -/
def State.originate (s : State) (n tc : Nat) (bytes : Bytes) (ready : Nat) : State :=
  let b := padFrame bytes
  let id := s.sw.nextId
  let cells := ceilDiv (b.length + 4) 256
  let f : QFrame := { id := id, bytes := b, charge := cells, local_ := true, tc := tc, at_ := s.now, ready := ready }
  ({ s with sw.nextId := id + 1 }.enqueue n f cells false).2

/-! ### Gate lists (R410, R411) -/

/-- The segments of one cycle from instant `t`: start and GATES of each entry. -/
def gateSegs (t : Nat) : List (Nat × Nat) → List (Nat × Nat)
  | [] => []
  | (g, ns) :: l => (t, g) :: gateSegs (t + ns * qNs) l

/-- Start of the cycle of a list that contains instant `t`. -/
def GateList.cycleStart (g : GateList) (t : Nat) : Nat :=
  let c := max g.cycle 1
  let n := t / qTick
  (n - (n + c - g.phase % c) % c) * qTick

/-- The gates of a list at an instant: all open while it is disabled. -/
def GateList.gates (g : GateList) (t : Nat) : Nat :=
  if !g.enable then 0xFF
  else (((gateSegs (g.cycleStart t) g.entries).filter (fun e => decide (e.1 ≤ t))).getLast?.map (·.2)).getD 0xFF

/-- The first instant after `t` at which the gate of a class closes under a list. -/
def GateList.closes (g : GateList) (tc t : Nat) : Option Nat :=
  if !g.enable then none
  else
    let c0 := g.cycleStart t
    let len := max g.cycle 1 * qTick
    ((gateSegs c0 g.entries ++ gateSegs (c0 + len) g.entries).find? (fun e => decide (e.1 > t) && !bit e.2 tc)).map (·.1)

/-- The gates of a port at an instant: the pending list counts from its switch tick on (R411). -/
def SwPort.gatesAt (p : SwPort) (t : Nat) : Nat :=
  match p.nextGate with
  | some (sw, g) => if t ≥ sw * qTick then g.gates t else p.gate.gates t
  | none => p.gate.gates t

/-- The next close of a class after an instant, across a pending list's switch tick (R411, 17 R432). -/
def SwPort.closeAfter (p : SwPort) (tc t : Nat) : Option Nat :=
  match p.nextGate with
  | none => p.gate.closes tc t
  | some (sw, g) =>
    let b := sw * qTick
    if t ≥ b then g.closes tc t
    else
      let later := if bit (g.gates b) tc then g.closes tc b else some b
      match p.gate.closes tc t with
      | some c => if c < b then some c else later
      | none => later

/-! ### The transmitter (17 R431 to R434) -/

/-- Steps of START_THRESHOLD in bytes; 0xFFFF is whole frame (17 R431). -/
def threshSteps : List Nat := [256, 512, 1024, 2048, 0xFFFF]
def Port.threshold (p : Port) : Nat := (threshSteps[p.thresh]?).getD 0xFFFF

/-- Identity by which a Follow_Up belongs to its Sync: domain, sourcePortIdentity, sequenceId (IEEE 1588). -/
def ptpIdentity (m : Bytes) : Bytes := slice m 4 1 ++ slice m 20 12

/-- Adds to the correctionField of a PTP message. -/
def ptpCorrect (f : Bytes) (d : Int) : Bytes :=
  let e := ethParse f
  let m := e.payload
  let c := toSigned 64 (beNat (slice m 8 8)) + d
  ethBuild { e with payload := m.take 8 ++ be 8 (ofSigned 64 c) ++ m.drop 16 }

/-- The module as transparent clock (14 R353): a PTP event message leaves with the link delay of its ingress port and its
residence time added; for a two-step Sync they go into its Follow_Up. -/
def State.transparent (s : State) (n : Nat) (f : QFrame) (start : Nat) : QFrame × State :=
  match f.sof with
  | none => (f, s)
  | some (i, sof) =>
    let m := (ethParse f.bytes).payload
    let d : Int := ((s.horizon.timing.getD i {}).linkDelay) + (((start : Int) - (sof : Int)) / 9)
    let ty := byteAt m 0 % 16
    if ty = 0 ∧ bit (byteAt m 6) 1 then
      (f, { s with sw.residence := (n, ptpIdentity m, d) :: s.sw.residence })
    else if ty < 4 then ({ f with bytes := ptpCorrect f.bytes d }, s)
    else if ty = 8 then
      match s.sw.residence.find? (fun r => r.1 == n && r.2.1 == ptpIdentity m) with
      | some r =>
        ({ f with bytes := ptpCorrect f.bytes r.2.2 }, { s with sw.residence := s.sw.residence.filter (· != r) })
      | none => (f, s)
    else (f, s)

/-- What is on the wire has ended by now: the frame counts, or the fragment leaves its remainder (17 R433). -/
def State.settleTx (s : State) (n : Nat) : State :=
  let p := s.port n
  match p.tx with
  | none => s
  | some t =>
    if t.stop > s.now then s
    else
      let part := slice t.frame.bytes t.frame.sent (t.until_ - t.frame.sent)
      let s := s.emit (.frame n t.start part true)
      if t.until_ < t.frame.bytes.length then
        s.setPort n { p with tx := none, cut := p.cut ++ [{ t.frame with sent := t.until_ }] }
      else
        let s := s.setPort n { p with tx := none, txOctets := satAdd 64 p.txOctets (t.frame.bytes.length + 4) }
        (((s.portCount n 12).qCount n t.frame.tc 1).releaseId t.frame.id)

/-- Is a class preemptable on a port now (17 R433)? -/
def State.preemptable (s : State) (n tc : Nat) : Bool :=
  (s.port n).preempt && (s.port n).verify == .active && decide (tc ≤ 5) && bit (s.swp n).preempt tc

/-- Transmission of a class is held by a received PAUSE (17 R429). -/
def State.pauseHeld (s : State) (n tc : Nat) : Bool :=
  (match (s.port n).pauseTo with
   | some t => decide (s.now < t)
   | none => false) && decide (tc ≤ 5) && bit (s.swp n).preempt tc

/-- How much of a frame may start at `t`: the bytes after which it stops, under the guard band (17 R432, R433). -/
def State.fits (s : State) (n : Nat) (f : QFrame) (t : Nat) : Option Nat :=
  let phy := (s.port n).phy
  let whole := f.bytes.length + 4
  match (s.swp n).closeAfter f.tc t with
  | none => some f.bytes.length
  | some c =>
    if t + wireTime phy (whole - f.sent) ≤ c then some f.bytes.length
    else if !s.preemptable n f.tc || whole ≤ 127 then none
    else
      let avail := (c - t) * rate10 phy / (qNs * 80) - 24
      let most := whole - f.sent - 64
      let d := min avail most / 8 * 8
      if d + 4 ≥ 64 * (1 + (s.port n).addFrag) then some (f.sent + d) else none

/-- Removes the head of a queue. -/
def State.popQueue (s : State) (n tc : Nat) : State :=
  s.modSwp n (fun p => { p with queues := modAt p.queues tc (fun q => { q with frames := q.frames.drop 1 }) })

/-- Does a frame lie on a POISONED line of the buffer (R406)? Buffer lines are marked by `bufferLine` + line number. -/
def State.framePoisoned (s : State) (f : QFrame) : Bool :=
  let cells := s.sw.cells.getD f.id []
  s.anvil.poison.any (fun l => decide (l ≥ bufferLine) && cells.contains ((l - bufferLine) / 8))

/-- Drops the heads of a queue that are too old or poisoned (R406). -/
def State.dropHeads : Nat → State → Nat → Nat → State
  | 0, s, _, _ => s
  | fuel + 1, s, n, tc =>
    match ((s.swp n).queues[tc]?).bind (·.frames.head?) with
    | none => s
    | some f =>
      if s.now > f.at_ + (s.swp n).residenceUs * 1000 * qNs then
        State.dropHeads fuel (((s.popQueue n tc).qCount n tc 5).releaseId f.id) n tc
      else if s.framePoisoned f then State.dropHeads fuel (((s.popQueue n tc).qCount n tc 6).releaseId f.id) n tc
      else s

/-- The frame a class offers to the wire: the one cut, else the head of the queue unless another preemptable frame is
cut. -/
def State.offer (s : State) (n tc : Nat) : Option (QFrame × Bool) :=
  let p := s.port n
  match p.cut.head? with
  | some c =>
    if c.tc = tc then some (c, true)
    else if s.preemptable n tc then none
    else (((s.swp n).queues[tc]?).bind (·.frames.head?)).map (fun f => (f, false))
  | none => (((s.swp n).queues[tc]?).bind (·.frames.head?)).map (fun f => (f, false))

/-- Counts a frame once that the guard band holds (17 R432). -/
def State.guardHeld (s : State) (n : Nat) (f : QFrame) (cut : Bool) : State :=
  if f.held then s
  else
    let s := s.portCount n 20
    if cut then s.modPort n (fun p => { p with cut := modAt p.cut 0 (fun f => { f with held := true }) })
    else s.modSwp n (fun p => { p with queues := modAt p.queues f.tc (fun q =>
      { q with frames := modAt q.frames 0 (fun f => { f with held := true }) }) })

/-- The highest class that may start a frame at `t` (R400, 17 R432): the frame, whether it was cut, and where it stops. -/
def State.select (s : State) (n t : Nat) (express : Bool) : List Nat → Option (QFrame × Bool × Nat) × State
  | [] => (none, s)
  | tc :: l =>
    let s := s.dropHeads 1024 n tc
    match s.offer n tc with
    | none => s.select n t express l
    | some (f, cut) =>
      if !bit ((s.swp n).gatesAt t) tc || s.pauseHeld n tc || decide (f.ready > t) || (express && s.preemptable n tc) then
        s.select n t express l
      else
        match s.fits n f t with
        | some b => (some (f, cut, b), s)
        | none => (s.guardHeld n f cut).select n t express l

/-- Ends the preemptable frame on the wire at the first boundary of R433, if there is one before its end. -/
def State.preemptNow (s : State) (n : Nat) : Option State :=
  let p := s.port n
  match p.tx with
  | none => none
  | some t =>
    let whole := t.frame.bytes.length + 4
    if !t.preemptable || whole ≤ 127 then none
    else
      let gone := (s.now - t.start) * rate10 p.phy / (qNs * 80) - 8
      let d := max (ceilDiv gone 8 * 8) (ceilDiv (64 * (1 + p.addFrag) - 4) 8 * 8)
      if whole - t.frame.sent < d + 64 then none
      else
        let stop := t.start + wireTime p.phy (d + 4)
        let s := s.emit (.frame n t.start (slice t.frame.bytes t.frame.sent d) true)
        let s := s.setPort n { p with tx := some { t with stop := stop, until_ := t.frame.sent + d } }
        some ((s.portCount n 18).portCount n 19)

/-- Starts a frame on the wire. -/
def State.startTx (s : State) (n : Nat) (f : QFrame) (cut : Bool) (until_ start : Nat) : State :=
  let s := if cut then s.modPort n (fun p => { p with cut := p.cut.drop 1 }) else s.popQueue n f.tc
  let (f, s) := if f.sent = 0 then s.transparent n f start else (f, s)
  let p := s.port n
  let part := until_ < f.bytes.length
  let b := if part then until_ - f.sent + 4 else f.bytes.length + 4 - f.sent
  let s := s.setPort n { p with tx := some {
    frame := f, start := start, stop := start + wireTime p.phy b, until_ := until_, preemptable := s.preemptable n f.tc } }
  if part then s.portCount n 18 else s

/-- The FIFO of a store-and-forward frame runs empty (17 R431, R434). -/
def State.underrun (s : State) (n : Nat) : State :=
  let p := s.port n
  match p.tx with
  | none => s
  | some t =>
    if t.frame.local_ || t.frame.bytes.length + 4 ≤ p.threshold then s
    else
      let s := s.emit (.frame n t.start (slice t.frame.bytes t.frame.sent p.threshold) false)
      let s := s.setPort n { p with tx := none, thresh := min (p.thresh + 1) 4, threshAt := s.tb3 }
      let s := ((s.portCount n 13).portCount n 21).releaseId t.frame.id
      s.postC 0x0C02 4 (le 2 n ++ le 2 (s.port n).threshold)

/-- The classes from TC7 down. -/
def classesDown : List Nat := [7, 6, 5, 4, 3, 2, 1, 0]

/-- The egress port starts its next eligible frame; an express frame preempts (17 R432, R433). -/
def State.transmit (s : State) (n : Nat) (under : Bool) : State :=
  let s := s.settleTx n
  if !s.portUp n then s
  else
    match (s.port n).tx with
    | none =>
      match s.select n s.now false classesDown with
      | (none, s) => s
      | (some (f, cut, b), s) =>
        let s := s.startTx n f cut b s.now
        if under then s.underrun n else s
    | some t =>
      if !t.preemptable then s
      else
        match s.select n s.now true classesDown with
        | (none, s) => s
        | (some (f, cut, b), s) =>
          match s.preemptNow n with
          | none => s
          | some s =>
            let p := s.port n
            match p.tx with
            | none => s
            | some t =>
              let s := s.setPort n { p with tx := none, cut := p.cut ++ [{ t.frame with sent := t.until_ }] }
              s.startTx n f cut b t.stop

/-- What a port holds is lost as it leaves UP (17 R426; R384 where its PLL loses lock). -/
def State.flushPort (s : State) (n : Nat) (lock receiving : Bool) : State :=
  let s := s.settleTx n
  let p := s.port n
  let s := match p.tx with
    | some t =>
      let s := s.emit (.frame n t.start (slice t.frame.bytes t.frame.sent (t.until_ - t.frame.sent)) false)
      (s.setPort n { p with tx := none }).portCount n (if lock then 14 else 15)
    | none => s
  let s := if receiving then s.portCount n (if lock then 5 else 6) else s
  let queued := (s.swp n).queues.flatMap (·.frames) ++ p.cut
  let s := s.modSwp n (fun q => { q with queues := q.queues.map (fun q => { q with frames := [] }) })
  let s := s.modPort n (fun p => { p with cut := [], pausing := false, pauseTo := none })
  let ids := queued.map (·.id) ++ (match p.tx with
    | some t => [t.frame.id]
    | none => [])
  ids.foldl State.releaseId (s.portCountN n 16 queued.length)

end Sys2Proof.Machine
end

