-- ==== Sys2Proof/Machine/Outputs.lean ====
section
/-! DEFINITION. Publications end with the right to publish (12 R316). -/
namespace Sys2Proof.Machine

/-- A module that gives up starts no publication after F; a frame that would still be on the wire `d` units of 1/589824 ns
after now is truncated with a stomped FCS (12 R316). Publications and held frames are the module's frames in TC7 and TC5
(16 R400). -/
def State.truncateAfter (s : State) (d : Nat) : State :=
  let mine (f : QFrame) : Bool := f.local_ && (f.tc == 7 || f.tc == 5)
  s.ports.foldl (fun s e =>
    let n := e.1
    let s := s.settleTx n
    let s := match (s.port n).tx with
      | some t =>
        if t.stop > s.now + d then
          ((s.emit (.frame n t.start (slice t.frame.bytes t.frame.sent (t.until_ - t.frame.sent)) false)).modPort n
            (fun p => { p with tx := none })).releaseId t.frame.id
        else s
      | none => s
    let gone := (((s.swp n).queues.flatMap (·.frames)) ++ (s.port n).cut).filter mine
    let s := s.modSwp n (fun p => { p with queues := p.queues.map (fun q =>
      { q with frames := q.frames.filter (fun f => !mine f) }) })
    let s := s.modPort n (fun p => { p with cut := p.cut.filter (fun f => !mine f) })
    gone.foldl (fun s f => s.releaseId f.id) s) s

end Sys2Proof.Machine
end

