-- ==== Sys2Proof/Machine/PairOps.lean ====
section
/-! DEFINITION. What a module tells its pair partner (12 R306, R307, R311) and its workers (13 R333), and giving up
control (12 R316). -/
namespace Sys2Proof.Machine

/-- PAIR_STATE code of a pair state (R309). -/
def PairSt.code : PairSt → Nat
  | .unpaired => 0
  | .waiting => 1
  | .standbySync => 2
  | .standby => 3
  | .activeAlone => 4
  | .active => 5
  | .givenUp => 6

/-- In control: ACTIVE_ALONE or ACTIVE. -/
def State.inControl (s : State) : Bool := s.pair.st == .activeAlone || s.pair.st == .active

/-- PAIR_ACT is driven while a paired module holds publish enable (R308). -/
def State.pairAct (s : State) : Bool := s.pair.pubEnable && s.pair.st != .unpaired

/-- Sends records in one pair frame, on both links (R306): subheader, FRAME_SEQ, records. -/
def State.pairSend (s : State) (recs : Bytes) : State :=
  if !s.pair.configured then s
  else
    let b := ascii [2, 1, 0, 0] ++ le 4 s.pair.seqTx ++ recs
    let s := { s with pair.seqTx := (s.pair.seqTx + 1) % 2 ^ 32 }
    (s.emit (.pair s.pair.linkA b)).emit (.pair s.pair.linkB b)

/-! Records of R307. -/
def recTick (st mirrorSeq tick : Nat) : Bytes := le 1 1 ++ le 1 0 ++ le 1 st ++ le 1 0 ++ le 4 mirrorSeq ++ le 8 tick
def recResult (fi : Nat) (r : ShadowResult) : Bytes :=
  le 1 2 ++ le 1 0 ++ le 2 fi ++ le 1 (boolNat r.held) ++ zeros 3 ++ le 8 r.tick ++ le 4 r.sig ++ le 4 r.outCrc ++
    le 4 r.imgCrc ++ zeros 4
def recPub (pub : Nat) (sent : Bool) (tick stNum sqNum : Nat) : Bytes :=
  le 1 3 ++ le 1 0 ++ le 2 pub ++ le 2 (boolNat sent) ++ le 8 tick ++ le 4 stNum ++ le 4 sqNum ++ zeros 2
def recGiveUp (cause tick : Nat) : Bytes := le 1 4 ++ le 1 0 ++ le 2 cause ++ zeros 4 ++ le 8 tick
def recMirror (sq : Nat) (pkt : Bytes) : Bytes := le 1 5 ++ le 1 0 ++ le 4 sq ++ le 2 (ceilDiv pkt.length 4) ++ padWord pkt
def recData (fi tick off : Nat) (p : Bytes) : Bytes :=
  le 1 6 ++ le 1 0 ++ le 2 fi ++ zeros 2 ++ le 8 tick ++ le 2 off ++ padWord p

/-! ### Packets (02 R32 to R35) -/

/-- Bytes 0x00 to 0x0D of a header (R32). -/
def hdr14 (opcode flags inst tag len seq : Nat) : Bytes :=
  le 2 opcode ++ le 1 flags ++ le 1 inst ++ le 2 tag ++ le 2 len ++ le 4 seq ++ zeros 2

/-- A whole packet: header with HCRC, parameters, and the trailer where FLAGS says so (R32, R33, R35). -/
def packet (opcode flags inst tag seq : Nat) (params : Bytes) : Bytes :=
  let h := hdr14 opcode flags inst tag (params.length / 4) seq
  let b := h ++ le 2 (crc16 h) ++ params
  if bit flags 2 then b ++ le 4 (crc32c b) else b

/-- The packet in which a command travels to the partner, a worker or the backup manager: as it came, its parameters
absolute, without a trailer (12 R311, 13 R333). -/
def carried (c : Cmd) (p : Bytes) : Bytes := packet c.opcode (c.flags % 4) c.inst c.tag c.seq p

/-- One MIRROR record, kept for the replay of R319. -/
def State.mirrorPacket (s : State) (pkt : Bytes) : State :=
  if !s.inControl then s
  else
    let s := s.pairSend (recMirror s.pair.mirrorTx pkt)
    { s with pair.mirrorTx := (s.pair.mirrorTx + 1) % 2 ^ 32, pair.mirrorLog := s.pair.mirrorLog ++ [pkt] }

/-- A committed command of the ACTIVE (R311). The commands of families 0x01 and 0x08 act on one module (a standby takes them
on its own channels) and are not mirrored; nor are those of Contrail, whose nonces are one module's. -/
def State.mirror (s : State) (c : Cmd) (p : Bytes) : State :=
  let fam := c.opcode / 256
  if fam == 1 || fam == 8 || fam == 0x10 then s else s.mirrorPacket (carried c p)

/-- Opcodes of the model's own for the two MIRROR records that are no command (log entry 22): the phase an instance was
placed with, and a fault re-placement. They lie in the reserved family 0x00. -/
def opMirrorPhase := 0x0001
def opMirrorMoved := 0x0002

def State.mirrorPhase (s : State) (fi phase : Nat) : State :=
  s.mirrorPacket (packet opMirrorPhase 0 0 0 0 (le 2 fi ++ le 2 phase))
def State.mirrorMoved (s : State) (fi k cc no : Nat) : State :=
  s.mirrorPacket (packet opMirrorMoved 0 0 0 0 (le 2 fi ++ le 2 k ++ le 2 cc ++ le 2 no))

/-- The learned D of a stream, as the SET_ALIGNMENT that makes it the standby's FIXED_DELAY (R311, 04). -/
def State.mirrorDelay (s : State) (stream margin dNs : Nat) : State :=
  s.mirrorPacket (packet 0x0404 0 0 0 0 (le 2 stream ++ le 2 margin ++ le 4 dNs))

/-- A Contrail record of a pair state change (R309). -/
def State.postPair (s : State) (old new : PairSt) : State := s.post 0x0810 (le 1 old.code ++ le 1 new.code)

/-- An ACTIVE gives up control (R316). Causes 6 and 7 apply in ACTIVE only. The 0.20 µs to the drop is a bound: the
module drops at F (log entry 3). -/
def State.giveUp (s : State) (cause : Nat) : State :=
  if s.pair.st == .active || (s.pair.st == .activeAlone && decide (cause ≤ 5)) then
    let tick := tickAtOrBefore s.now
    let s := if cause = 5 then s else s.pairSend (recGiveUp cause tick)
    let s := { s with pair.st := .givenUp, pair.pubEnable := false, pair.lastCause := cause }
    (s.truncateAfter (4000 * qNs)).post 0x0811 (le 2 cause ++ le 8 tick)
  else s

/-- SWITCHOVER reaches its tick: an ACTIVE gives up with CAUSE 7, any other state does not (R316, R320). The outcome of the
command waits for its completion report. -/
def State.switchover (s : State) : State :=
  match s.pair.switchTick with
  | none => s
  | some n =>
    if boundaryQ n > s.now then s
    else
      let r := if s.pair.st == .active then (0, 0, le 8 n) else (0x0300, 3, [])
      let s := { s with pair.switchTick := none }.giveUp 7
      { s with pair.switchTick := none, cmd.accepted := s.cmd.accepted.map (fun a =>
          if a.wait == Wait.switchover n && a.result.isNone then { a with result := some r } else a) }

/-- Counts one of the seven counters of GET_PAIR_STATUS. -/
def State.pairCount (s : State) (i n : Nat) : State :=
  { s with pair.counters := modAt s.pair.counters i (fun c => satAdd 32 c n) }

/-! ### Stratus frames (13 R324, R333) -/

/-- This module's Stratus node, 0xFF if none. -/
def State.ownNode (s : State) : Nat := (s.stratus.cfg.map (·.node)).getD 0xFF

/-- The schedule container in force (13). -/
def State.schedule (s : State) : Bytes := s.stratus.tables.getD s.stratus.version []

/-- The nodes of a schedule container other than this one. -/
def State.otherNodes (s : State) : List Nat := (bitList 32 (u32 s.schedule 0x14)).filter (· != s.ownNode)

/-- The OUT port of a ring, or that of the other ring while its link is down; with its ring (R324). -/
def State.outPort (s : State) (ring : Nat) : Option (Nat × Nat) :=
  match s.stratus.cfg with
  | none => none
  | some c =>
    let a := c.ports.getD 1 0
    let b := c.ports.getD 3 0
    if ring = 0 then (if s.portUp a then some (a, 0) else if s.portUp b then some (b, 1) else none)
    else if s.portUp b then some (b, 1)
    else if s.portUp a then some (a, 0)
    else none

/-- The OUT port by which a frame of a ring leaves, if its link key is loaded (R345). -/
def State.keyedOut (s : State) (ring : Nat) : Option Nat :=
  match s.outPort ring with
  | some (p, r) => if s.macReady (macStratus r s.ownNode) then some p else none
  | none => none

/-- A module of a pair that is not in control: its partner speaks for the node (12 R310). -/
def State.mute (s : State) : Bool := s.pair.st != .unpaired && !s.inControl

/-- Sends a management message, on ring A, and keeps it until it is acknowledged; its start within the round is timing (log
entry 3). -/
def State.sendMgmt (s : State) (dst : Nat) (body : MgmtBody) : Nat × State :=
  let m := s.stratus.mgmtSeq
  if s.mute then (m, s) else
  let msg : MgmtMsg := { dst := dst, mseq := m, body := body, tries := 1, at_ := visNs s.tb3 }
  let s := { s with stratus.mgmtSeq := (m + 1) % 2 ^ 16, stratus.outbox := s.stratus.outbox ++ [msg] }
  (m, match s.keyedOut 0 with
    | some p => s.emit (.mgmt p s.ownNode dst m body)
    | none => s)

/-- Forwards a command to a worker, numbered by MSG_SEQ. -/
def State.sendForward (s : State) (node : Nat) (c : Cmd) (p : Bytes) : Nat × State := s.sendMgmt node (.forward (carried c p))

/-- Where the answer to a message goes, as a command carries it: the sender's node and MSG_SEQ. -/
def mgmtFrom (src mseq : Nat) : Nat := src * 2 ^ 16 + mseq

/-- A worker's answer to a forwarded command travels back to the manager (13 R333). -/
def State.sendWorkerReply (s : State) (c : Cmd) (completion : Bool) (status detail : Nat) (data : Bytes) : State :=
  (s.sendMgmt (c.replyTo / 2 ^ 16) (.answer (c.replyTo % 2 ^ 16) completion status detail data)).2

/-- A manager tells its backup of a command that changes manager state (R337). -/
def State.tellBackup (s : State) (body : MgmtBody) : State :=
  if s.boot.role == 1 && s.stratus.backup != 0xFF && s.stratus.backup != s.ownNode && s.stratus.polling then
    (s.sendMgmt s.stratus.backup body).2
  else s

end Sys2Proof.Machine
end

