-- ==== Sys2Proof/Machine/EngineOps.lean ====
section
/-! DEFINITION. Engines, their local memory and the copies on them (03 R63 to R67, 06 R150 to R152, 07 R189). -/
namespace Sys2Proof.Machine

def Engine.init (ls : Bool) (no : Nat) : Engine := { st := if !ls && no == 16 then .spare else .inService }

def Eng.key (e : Eng) : Nat := if e.ls then 2 * e.cc + e.no else 17 * e.cc + e.no

/-- The engine of a number of the PE or LS table. -/
def engOfKey (ls : Bool) (k : Nat) : Eng :=
  if ls then { ls := true, cc := k / 2, no := k % 2 } else { ls := false, cc := k / 17, no := k % 17 }

def State.eng (s : State) (e : Eng) : Engine :=
  if e.ls then s.place.lss.getD e.key (Engine.init true e.no) else s.place.pes.getD e.key (Engine.init false e.no)

def State.setEng (s : State) (e : Eng) (g : Engine) : State :=
  if e.ls then { s with place.lss := s.place.lss.put e.key g } else { s with place.pes := s.place.pes.put e.key g }

def State.modEng (s : State) (e : Eng) (f : Engine → Engine) : State := s.setEng e (f (s.eng e))

/-- Every engine of a kind, in ascending (cluster, engine) order. -/
def allEngs (ls : Bool) : List Eng := (List.range (if ls then 64 else 544)).map (engOfKey ls)

def State.inst (s : State) (fi : Nat) : Option Inst := s.place.insts.get fi
def State.setInst (s : State) (fi : Nat) (x : Inst) : State := { s with place.insts := s.place.insts.put fi x }
def State.modInst (s : State) (fi : Nat) (f : Inst → Inst) : State :=
  { s with place.insts := s.place.insts.upd fi f }

/-- An instance is running in STARTING, RUNNING or STOPPING (08 R214). -/
def Inst.isRunning (x : Inst) : Bool := x.run == .starting || x.run == .running || x.run == .stopping

/-- An instance that placement has placed (03, state table). -/
def Inst.isPlaced (x : Inst) : Bool :=
  x.place == .placed || x.place == .simplexTemp || x.place == .duplexTemp || x.place == .degraded

def Inst.ls (x : Inst) : Bool := x.kind == 1

/-- Copies of a class (R63). -/
def copiesOf (cls : Nat) : Nat := if cls = 2 then 3 else if cls = 1 then 2 else 1

/-- Start offset s of copy `k` (1 to 3) in units of 0.1 µs (R63, 06 R151 OFFSET). -/
def startOffset (cls k : Nat) : Nat := if k = 1 then 1 else if cls = 1 then 11 else if k = 2 then 6 else 11

/-- Admission rates in instructions per second (R66, 07 R199). -/
def admitRate (ls : Bool) (point : Nat) : Nat :=
  if ls then (if point = 0 then 1600000000 else if point = 1 then 1800000000 else 2000000000)
  else (if point = 0 then 1100000000 else if point = 1 then 1250000000 else 1380000000)

/-- Largest admissible WCIC of a cycle class (R67, 07 R199). -/
def wcicLimit (ls : Bool) (point cycle : Nat) : Nat := 85 * cycle * admitRate ls point / 9600000

/-- Span n: the smallest n with n × tick ≥ s + WCIC / r (R67), in exact arithmetic. -/
def spanOf (ls : Bool) (point off wcic : Nat) : Nat :=
  let r := admitRate ls point
  ceilDiv (300 * off * r + 3000000000 * wcic) (31250 * r)

/-- The tick slots of a copy in the 20-tick frame (R67). -/
def slotsOf (phase cycle span : Nat) : List Nat :=
  (List.range (20 / cycle)).flatMap (fun i => (List.range span).map (fun j => (phase + j) % cycle + cycle * i))

/-- Copy `k` of an instance, 1 to 3. -/
def Inst.copy (x : Inst) (k : Nat) : Option Copy := if k = 0 then none else x.copies[k - 1]?
def Inst.modCopy (x : Inst) (k : Nat) (f : Copy → Copy) : Inst := { x with copies := modAt x.copies (k - 1) f }

/-- Numbers of the copies of an instance that stand on an engine. -/
def Inst.copiesAt (x : Inst) (e : Eng) : List Nat :=
  (List.range x.copies.length).filterMap (fun i =>
    match x.copies[i]? with
    | some c => if c.eng = some e then some (i + 1) else none
    | none => none)

/-- The copies on an engine: (FI, copy number), in ascending FI. -/
def State.copiesOn (s : State) (e : Eng) : List (Nat × Nat) :=
  s.place.insts.flatMap (fun p => (p.2.copiesAt e).map (fun k => (p.1, k)))

/-- Where a copy runs: its engine once it is running, else the engine of a copy that lags there (11 R290). -/
def Copy.live (c : Copy) : Option (Eng × Areas) :=
  if c.st = .running then c.eng.map (fun e => (e, c.areas)) else c.lag

/-- The slots a copy holds, those of a staged new span included (08 R222). -/
def Inst.slotsHeld (x : Inst) (k : Nat) : List Nat :=
  match x.copy k with
  | some c => slotsOf x.phase x.cycle (max c.span c.newSpan)
  | none => []

/-- Numbers of the copies of an instance that lag on an engine (11 R290). -/
def Inst.lagsAt (x : Inst) (e : Eng) : List Nat :=
  (List.range x.copies.length).filter (fun i => ((x.copies[i]?).bind (·.lag)).map (·.1) == some e) |>.map (· + 1)

def State.lagsOn (s : State) (e : Eng) : List (Nat × Nat) :=
  s.place.insts.flatMap (fun p => (p.2.lagsAt e).map (fun k => (p.1, k)))

/-- Occupied slots of an engine. -/
def State.occupied (s : State) (e : Eng) : List Nat :=
  (List.range 20).filter (fun t => (s.copiesOn e ++ s.lagsOn e).any (fun p =>
    match s.inst p.1 with
    | some x => (x.slotsHeld p.2).contains t
    | none => false))

/-- User region of an engine in bytes (R64, 07 R189). -/
def userBytes (ls : Bool) : Nat := if ls then 30720 else 155648

/-- The areas in use on an engine: (base, bytes) of the CODE, DATA and IMAGE areas, staged ones included. A CODE area
shared by several copies stands once (R64). -/
def State.areasOn (s : State) (e : Eng) : List (Nat × Nat) :=
  let cs := (s.copiesOn e).filterMap (fun p => match s.inst p.1 with
    | some x => x.copy p.2
    | none => none)
  let lag := (s.lagsOn e).filterMap (fun p => ((s.inst p.1).bind (fun x => x.copy p.2)).bind (fun c => c.lag.map (·.2)))
  let ofA (a : Areas) : List (Nat × Nat) :=
    [(a.codeBase, a.codeBytes), (a.inBase, (2 * a.inBytes + 4 * a.outWords + 31) / 32 * 32)]
  let ds := (cs.map (·.areas) ++ lag).map (fun a => (a.dataBase, a.dataBytes))
  (ds ++ lag.flatMap ofA ++ cs.flatMap (fun c => ofA c.areas) ++ cs.flatMap (fun c =>
    (c.newAreas.toList ++ c.oldAreas.toList).flatMap ofA)).eraseDups.filter (fun a => a.2 != 0)

/-- Free bytes of an engine's user region. -/
def State.memFree (s : State) (e : Eng) : Nat :=
  userBytes e.ls - ((s.areasOn e).map (·.2)).foldl (· + ·) 0

/-- Where the engine holds the CODE of an image: of a copy that runs it or that is staged to run it (R64, 08 R222). -/
def State.codeOn (s : State) (e : Eng) (image : Nat) : Option Nat :=
  (s.copiesOn e).findSome? (fun p => match s.inst p.1 with
    | some x => (x.copy p.2).bind (fun c =>
        if x.image = image then some c.areas.codeBase
        else if x.newImage = some image then c.newAreas.map (·.codeBase) else none)
    | none => none)

/-- Is the range free of every used area? -/
def rangeFree (used : List (Nat × Nat)) (base n : Nat) : Bool :=
  used.all (fun a => decide (base + n ≤ a.1) || decide (a.1 + a.2 ≤ base))

/-- The lowest base for `n` bytes among the ends of the used areas; past them all when no gap is large enough (log
entry 21: which base an area gets is the model's choice). -/
def allocLow (used : List (Nat × Nat)) (n cap : Nat) : Nat :=
  let ends := sortBy (fun a b => decide (a ≤ b)) (0 :: used.map (fun a => a.1 + a.2))
  match ends.find? (fun b => rangeFree used b n && decide (b + n ≤ cap)) with
  | some b => b
  | none => ends.getLastD 0

/-- Bytes a staged image needs beside the one in force (08 R222). -/
def State.stagedNeeded (s : State) (e : Eng) (image : Nat) : Nat :=
  (if (s.codeOn e image).isSome then 0 else imgCode (s.imageD image)) + imgImageBytes (s.imageD image)

/-- Bytes an instance needs on an engine: CODE unless the engine already holds it, DATA and IMAGE (R64), and those of its
staged image. -/
def State.bytesNeeded (s : State) (e : Eng) (x : Inst) : Nat :=
  (if (s.codeOn e x.image).isSome then 0 else x.codeBytes) + x.dataBytes + x.imageBytes +
    (match x.newImage with
     | some im => s.stagedNeeded e im
     | none => 0)

/-- The areas of an image on an engine beside the used ones, its DATA at `data`. -/
def State.allocImage (s : State) (e : Eng) (image : Nat) (used : List (Nat × Nat)) (data dataBytes : Nat) : Areas :=
  let b := s.imageD image
  let cap := userBytes e.ls
  let code := (s.codeOn e image).getD (allocLow used (imgCode b) cap)
  let inb := allocLow ((code, imgCode b) :: used) (imgImageBytes b) cap
  { codeBase := code, codeBytes := imgCode b, entry := imgEntry b, dataBase := data, dataBytes := dataBytes,
    inBase := inb, inBytes := imgIn b, outBase := inb + 2 * imgIn b, outWords := imgOutWords b }

/-- The areas of a copy of `x` on an engine, and those of its staged image. -/
def State.allocCopy (s : State) (e : Eng) (x : Inst) : Areas × Option Areas :=
  let used := s.areasOn e
  let data := allocLow used x.dataBytes (userBytes e.ls)
  let used := (data, x.dataBytes) :: used
  let a := s.allocImage e x.image used data x.dataBytes
  let used := (a.codeBase, a.codeBytes) :: (a.inBase, (2 * a.inBytes + 4 * a.outWords + 31) / 32 * 32) :: used
  (a, x.newImage.map (fun im => s.allocImage e im used data x.dataBytes))

/-- Internal address of an engine's local memory (06 R150, 07 R189). -/
def Eng.base (e : Eng) : Nat := if e.ls then 0x80000000 + e.key * 0x8000 else e.key * 0x40000

/-- The runtime writes bytes of local memory; whole lines lose their poison (11 R295). -/
def State.engWrite (s : State) (e : Eng) (a : Nat) (p : Bytes) : State :=
  (s.wroteRange (e.base + a) p.length).modEng e (fun g => { g with mem := memWriteN g.mem a p })

/-- Loads the CODE of a copy on its engine (R81). -/
def State.loadCode (s : State) (e : Eng) (a : Areas) (image : Nat) : State :=
  s.engWrite e a.codeBase (imgCodeBytes (s.imageD image))

/-- DATA of a copy, from its engine's memory. -/
def State.copyData (s : State) (c : Copy) : Bytes :=
  match c.eng with
  | some e => memReadN (s.eng e).mem c.areas.dataBase c.areas.dataBytes
  | none => []

/-- Writes into the DATA of a copy at an offset, where it runs. -/
def State.writeData (s : State) (c : Copy) (off : Nat) (p : Bytes) : State :=
  match c.eng with
  | some e => s.engWrite e (c.areas.dataBase + off) p
  | none => s

/-- Writes into the DATA of every copy of an instance (08 R219), a lagging one where it runs. -/
def State.writeDataAll (s : State) (x : Inst) (off : Nat) (p : Bytes) : State :=
  x.copies.foldl (fun s c =>
    let s := s.writeData c off p
    match c.lag with
    | some (e, a) => s.engWrite e (a.dataBase + off) p
    | none => s) s

/-- Rank for sorting: T 0, D 1, S 2 (R72). -/
def classRank (cls : Nat) : Nat := 2 - cls

/-- R72's order: cycle class, class rank, declaration number. -/
def placeBefore (a b : Inst) : Bool :=
  decide (a.cycle < b.cycle) || (a.cycle == b.cycle &&
    (decide (classRank a.cls < classRank b.cls) || (classRank a.cls == classRank b.cls && decide (a.declNo ≤ b.declNo))))

/-- Instances in placement order (R72). -/
def State.inOrder (s : State) (p : Inst → Bool) : List Nat :=
  ((sortBy (fun a b => placeBefore a.2 b.2) (s.place.insts.filter (fun e => p e.2))).map (·.1))

/-- The copies on an engine in placement order (R79). -/
def State.copiesOnOrdered (s : State) (e : Eng) : List (Nat × Nat) :=
  (s.inOrder (fun x => !(x.copiesAt e).isEmpty)).flatMap (fun fi => match s.inst fi with
    | some x => (x.copiesAt e).map (fun k => (fi, k))
    | none => [])

/-- PEs in state SPARE (R80). -/
def State.sparesLeft (s : State) : Nat := ((allEngs false).filter (fun e => (s.eng e).st == .spare)).length

/-- Any instance running (08 R214)? MODULE_STATE PROTECTING (02 GET_STATUS). -/
def State.anyRunning (s : State) : Bool := s.place.insts.any (fun p => p.2.isRunning)

/-- Is a declared instance reading a channel running? -/
def State.readerRunning (s : State) (ch : Nat) : Bool :=
  s.place.insts.any (fun p => p.2.isRunning && p.2.channels.contains ch)

end Sys2Proof.Machine
end

