-- ==== Sys2Proof/Machine/Placement.lean ====
section
/-! DEFINITION. The placement algorithm, rings, spares, shedding (03 R72 to R91). -/
namespace Sys2Proof.Machine

/-! ### Resource codes (R95) -/
def rcEngineTime := 1
def rcLocalMemory := 2
def rcChainUnits := 3
def rcChannelSlots := 4
def rcSampleMemory := 5
def rcClusters := 6
def rcWorker := 7

/-! ### Rings (R77, 04 R112 to R114) -/

/-- Input rate in samples per second of a RATE code (04 R110, DEFINE_STREAM). -/
def rateHz (r : Nat) : Nat :=
  if r = 0 then 4800 else if r = 1 then 14400 else if r = 2 then 96000
  else if r = 3 then 1000000 else if r = 4 then 2000000 else 4000000

/-- Chain units of a channel (04 R112). -/
def unitsOf (rate : Nat) : Nat := ceilDiv (rateHz rate) 4800

/-- The smallest power of two that is at least `n`, up to 2^24. -/
def pow2AtLeast (n : Nat) : Nat :=
  match (List.range 25).find? (fun k => decide (2 ^ k ≥ n)) with
  | some k => 2 ^ k
  | none => 2 ^ 25

/-- Ring depth (04 R112). -/
def ringDepth (rate spanUs : Nat) : Nat := pow2AtLeast (max 64 (ceilDiv (rateHz rate * spanUs) 1000000 + 1))

/-- The stream and data-set entry a channel belongs to. -/
def State.chanStream (s : State) (ch : Nat) : Option (Nat × Stream) :=
  match s.ingest.chanOf.get ch with
  | some (st, _) => (s.ingest.streams.get st).map (fun x => (st, x))
  | none => none

def State.ringsIn (s : State) (cc : Nat) : List Ring := ((s.place.rings.map (·.2)).filter (fun r => r.cc == cc))

def sampleBytes : Nat := 1572864

/-- The lowest free address in a cluster's sample memory that is a multiple of the ring's size (04 R114). -/
def State.ringAddr (s : State) (cc bytes : Nat) : Option Nat :=
  let used := (s.ringsIn cc).map (fun r => (r.addr, r.bytes))
  ((List.range (sampleBytes / max bytes 1)).map (· * bytes)).find? (fun a => rangeFree used a bytes)

def State.slotsFree (s : State) (cc : Nat) : Nat := 512 - (s.ringsIn cc).length
def State.unitsFree (s : State) (cc : Nat) : Nat := 2048 - ((s.ringsIn cc).map (·.units)).foldl (· + ·) 0
def State.sampleFree (s : State) (cc : Nat) : Nat := sampleBytes - ((s.ringsIn cc).map (·.bytes)).foldl (· + ·) 0

/-- A ring for a channel of the given size in a cluster, if it fits there (R77). A failed cluster takes none (R88). -/
def State.ringFits (s : State) (cc units bytes depth : Nat) : Option Ring :=
  if s.place.badFilter.contains cc || s.slotsFree cc == 0 || decide (s.unitsFree cc < units) then none
  else (s.ringAddr cc bytes).map (fun a => { cc := cc, depth := depth, addr := a, bytes := bytes, units := units })

/-- What is short in a cluster, in the order of R77. -/
def State.ringShort (s : State) (cc units : Nat) : Nat :=
  if s.slotsFree cc = 0 then rcChannelSlots else if s.unitsFree cc < units then rcChainUnits else rcSampleMemory

/-- The clusters in the order of R77, from c0. -/
def ringOrder (c0 : Nat) : List Nat :=
  let own := (List.range 8).map (fun i => 8 * chipletOf c0 + i)
  c0 :: own.filter (· != c0) ++ (List.range 32).filter (fun c => !own.contains c)

/-- Sampling period of a RATE code in 1/589824 ns: 10^9 × 589824 / f, exact at every rate. -/
def periodQ (r : Nat) : Nat := 589824000000000 / rateHz r

/-- D of a stream in ns (04 R102, R105): fixed, learned, or the provisional D0. -/
def Stream.delay (x : Stream) : Int :=
  if x.fixedDelay ≠ 0 then x.fixedDelay else x.d.getD ((2000 + x.margin : Nat) : Int)

/-- The boundary B of position `n` in 1/589824 ns: the first tick boundary at or after T + D (04 R102). -/
def Stream.boundary (x : Stream) (n : Nat) : Nat :=
  boundaryQ (tickAtOrAfter ((n * periodQ x.cfg.rate : Nat) + x.delay * (qNs : Int)).toNat)

/-- The cutoff of position `n`: B − 2.00 µs (04 R102). -/
def Stream.cutoff (x : Stream) (n : Nat) : Nat := x.boundary n - 2000 * qNs

/-- The first position whose cutoff lies after an instant. -/
def Stream.firstOpen (x : Stream) (now : Nat) : Nat :=
  (((boundaryQ (tickAtOrBefore (now + 2000 * qNs)) : Nat) - x.delay * (qNs : Int)).fdiv (periodQ x.cfg.rate) + 1).toNat

/-- The first position of a new ring: the first that is open (04 R103). -/
def Stream.firstOpenAfter (x : Stream) (now : Nat) : Nat := max x.closedTo (x.firstOpen now)

/-- Sample memory lines are marked by `sampleLine` in the set of poisoned lines. -/
def sampleLine (cc off : Nat) : Nat := (0x0100000000 + cc * 0x200000 + off) / 32

/-- Creates the ring of a channel, its chain starting afresh (R77, 05 R128, R130). Its slots read MISSING, NOT_RECEIVED
(04 R109). -/
def State.makeRing (s : State) (ch c0 : Nat) : Except Nat State :=
  match s.chanStream ch with
  | none => .ok s
  | some (_, st) =>
    let units := unitsOf st.cfg.rate
    let depth := ringDepth st.cfg.rate st.cfg.ringSpan
    let bytes := depth * (if st.cfg.fmt = 0 then 8 else 4)
    match (ringOrder c0).findSome? (fun cc => s.ringFits cc units bytes depth) with
    | none => .error (s.ringShort c0 units)
    | some r =>
      let fill := (List.replicate depth (if st.cfg.fmt = 0 then [0, 0, 0, 0, 3, 0, 0, 0] else [0, 0, 3, 0])).flatten
      let s := s.wroteRange (32 * sampleLine r.cc r.addr) bytes
      .ok { s with
        place.rings := s.place.rings.put ch r,
        place.samples := memWriteN s.place.samples (r.cc * 0x200000 + r.addr) fill,
        place.noRing := s.place.noRing.filter (· != ch), place.ringWait := s.place.ringWait.filter (· != ch),
        filter.chains := s.filter.chains.upd ch (fun k =>
          { k with needStart := true, started := false, inputs := 0, next := some (st.firstOpenAfter s.now), outs := [] }) }

/-- Rings for each channel of an instance that has none, in declared order (R77). -/
def State.placeRings (s : State) (x : Inst) (c0 : Nat) : Except Nat State :=
  x.channels.foldl (fun r ch =>
    match r with
    | .error e => .error e
    | .ok s => if s.place.rings.has ch then .ok s else s.makeRing ch c0) (.ok s)

/-- Frees every ring that no placed instance reads (R78). -/
def State.dropRings (s : State) : State :=
  let used (ch : Nat) : Bool := s.place.insts.any (fun p => p.2.isPlaced && p.2.channels.contains ch)
  { s with place.rings := s.place.rings.keep (fun ch _ => used ch),
           place.noRing := s.place.noRing.filter used, place.ringWait := s.place.ringWait.filter used }

/-! ### The algorithm (R72, R73) -/

/-- Engines of a kind in a cluster that hold at least one copy (R73). -/
def State.enginesInUse (s : State) (ls : Bool) (cc : Nat) : Nat :=
  ((allEngs ls).filter (fun e => e.cc == cc && !(s.copiesOn e).isEmpty)).length

def State.score (s : State) (e : Eng) : Nat := 32 * (s.occupied e).length + s.enginesInUse e.ls e.cc

/-- Does copy `k` at phase `p` fit the free slots of an engine (R67)? -/
def State.slotsFit (s : State) (e : Eng) (x : Inst) (p k : Nat) : Bool :=
  let n := spanOf x.ls s.place.point (startOffset x.cls k) x.wcic
  let occ := s.occupied e
  (slotsOf p x.cycle n).all (fun t => !occ.contains t)

/-- The member with the smallest (score, cluster, engine): the first in ascending order with the least score. -/
def State.bestEng (s : State) (es : List Eng) : Option Eng :=
  es.foldl (fun b e => match b with
    | none => some e
    | some f => if s.score e < s.score f then some e else some f) none

/-- The engine for copy `k` of `x` at phase `p`, avoiding clusters and preferring chiplets, by the filters of R72. -/
def State.pickEngine (s : State) (x : Inst) (p k : Nat) (clusters chiplets : List Nat) : Except Nat Eng :=
  let a := (allEngs x.ls).filter (fun e => (s.eng e).st == .inService && !clusters.contains e.cc)
  if a = [] then .error rcClusters
  else
    let a := a.filter (fun e => s.slotsFit e x p k)
    if a = [] then .error rcEngineTime
    else
      let a := a.filter (fun e => decide (s.bytesNeeded e x ≤ s.memFree e))
      if a = [] then .error rcLocalMemory
      else
        let b := a.filter (fun e => !chiplets.contains (chipletOf e.cc))
        match s.bestEng (if b = [] then a else b) with
        | some e => .ok e
        | none => .error rcClusters

def noCopy : Copy := { eng := none, st := .lost, span := 0 }

/-- Loads the CODE of a copy and of its staged image. -/
def State.loadCodes (s : State) (e : Eng) (c : Copy) (x : Inst) : State :=
  let s := s.loadCode e c.areas x.image
  match c.newAreas, x.newImage with
  | some a, some im => s.loadCode e a im
  | _, _ => s

/-- Puts copy `k` of an instance on an engine: span and areas; its code is loaded at once (placement) or later (a
moved copy, R81). -/
def State.putCopy (s : State) (fi : Nat) (k : Nat) (e : Eng) (st : CopySt) : State :=
  match s.inst fi with
  | none => s
  | some x =>
    let n := match x.copy k with
      | some c => if c.span = 0 then spanOf x.ls s.place.point (startOffset x.cls k) x.wcic else c.span
      | none => spanOf x.ls s.place.point (startOffset x.cls k) x.wcic
    let (a, na) := s.allocCopy e x
    let c : Copy := { (x.copy k).getD noCopy with
      eng := some e, st := st, span := n, areas := a, codeIn := st == .running, was := some e, newAreas := na,
      moved := st == .loading }
    let s := s.setInst fi { x with copies := setAt x.copies (k - 1) c }
    if st = .running then s.loadCodes e c x else s

/-- try_copies from copy `k` on (R72). -/
def State.tryCopies : Nat → State → Nat → Inst → Nat → Nat → List Nat → List Nat → Except Nat State
  | 0, s, _, _, _, _, _, _ => .ok s
  | fuel + 1, s, fi, x, p, k, cl, ch =>
    match s.pickEngine x p k cl ch with
    | .error r => .error r
    | .ok e =>
      State.tryCopies fuel (s.putCopy fi k e .running) fi x p (k + 1) (e.cc :: cl) (chipletOf e.cc :: ch)

/-- One phase tried: copies, then rings (R72). The inner result is the reason to try the next phase; the outer one a
failure of the rings. -/
def State.tryPhase (s : State) (fi : Nat) (x : Inst) (p : Nat) : Except Nat (Except Nat State) :=
  let x := { x with phase := p, place := .placed, copies := List.replicate (copiesOf x.cls) noCopy }
  match (s.setInst fi x).tryCopies (copiesOf x.cls) fi x p 1 [] [] with
  | .error r => .ok (.error r)
  | .ok s =>
    let c0 := match (s.inst fi).bind (fun x => (x.copy 1).bind (·.eng)) with
      | some e => e.cc
      | none => 0
    match s.placeRings x c0 with
    | .error r => .error r
    | .ok s => .ok (.ok s)

def State.tryPhases (s : State) (fi : Nat) (x : Inst) : List Nat → Nat → Except Nat State
  | [], r => .error r
  | p :: ps, _ =>
    match s.tryPhase fi x p with
    | .error r => .error r
    | .ok (.ok t) => .ok t
    | .ok (.error r) => State.tryPhases s fi x ps r

/-- place_instance (R72). A standby places with the phase its partner chose (12 R311). -/
def State.placeInstance (s : State) (fi : Nat) (x : Inst) : Except Nat State :=
  let ps := match s.pair.phases.get fi with
    | some p => [p]
    | none => if x.phaseDecl = 0xFF then List.range x.cycle else [x.phaseDecl]
  s.tryPhases fi x ps rcEngineTime

/-- place_all over a list already in R72's order: the state with all placed, or the first that failed and why. -/
def State.placeAll (s : State) : List Nat → Except (Nat × Nat) State
  | [] => .ok s
  | fi :: t =>
    match s.inst fi with
    | none => State.placeAll s t
    | some x =>
      match s.placeInstance fi x with
      | .error r => .error (fi, r)
      | .ok u => State.placeAll u t

/-! ### Lanes of Anvil (11 R277) -/

/-- Is lane (c, l) free: not retired, and no instance holds it? -/
def State.laneFree (s : State) (l : Nat × Nat) : Bool :=
  !s.anvil.retired.contains l && !s.place.insts.any (fun p => p.2.cmp == some l)

/-- The lanes of the comparators IN_SERVICE, in order of comparator number, then lane number. -/
def State.laneOrder (s : State) : List (Nat × Nat) :=
  ((List.range 48).filter (fun c => s.anvil.cmps[c]? == some .inService)).flatMap (fun c =>
    (List.range 128).map (fun l => (c, l)))

/-- The lowest free lane. -/
def State.freeLane (s : State) : Option (Nat × Nat) := s.laneOrder.find? s.laneFree

/-- An instance takes the lowest free lane. -/
def State.takeLane (s : State) (fi : Nat) : State := s.modInst fi (fun x => { x with cmp := s.freeLane })

/-! ### The pair link's capacity (12 R315) -/

/-- Twenty times the bytes per tick that the placed instances and enabled publications need. -/
def State.pairLoad (s : State) : Nat :=
  320 + ((s.place.insts.filter (fun p => p.2.isPlaced)).map (fun p => 640 / max p.2.cycle 1)).foldl (· + ·) 0 +
    ((s.pub.pubs.filter (fun p => p.2.enabled)).map (fun p => match s.inst p.2.driver with
      | some x => 480 / max x.cycle 1
      | none => 0)).foldl (· + ·) 0

/-- Would a paired module exceed 24 576 bytes per tick? -/
def State.pairOver (s : State) : Bool := s.pair.st != .unpaired && decide (s.pairLoad > 24576 * 20)

/-- c0 for a ring placed again (R88): the first consumer in placement order with a copy on an engine, and the cluster of
its lowest-numbered such copy. -/
def State.ringHome (s : State) (ch : Nat) : Option Nat :=
  (s.inOrder (fun x => x.isPlaced && x.channels.contains ch)).findSome? (fun fi =>
    (s.inst fi).bind (fun x => (x.copies.findSome? (·.eng)).map (·.cc)))

/-- Places one ring again, or leaves it absent with a record (R88). -/
def State.ringAgain (s : State) (ch : Nat) : State :=
  match s.ringHome ch with
  | none => { s with place.ringWait := s.place.ringWait.filter (· != ch) ++ [ch] }
  | some c0 =>
    match s.makeRing ch c0 with
    | .ok t => t
    | .error _ => ({ s with
        place.noRing := s.place.noRing.filter (· != ch) ++ [ch],
        place.ringWait := s.place.ringWait.filter (· != ch) }).post 0x020A (le 2 ch)

/-- A copy has received an engine: the rings its instance's channels were waiting for are placed (R88). -/
def State.ringsForCopy (s : State) (fi : Nat) : State :=
  match s.inst fi with
  | none => s
  | some x => (s.place.ringWait.filter (fun ch => x.channels.contains ch)).foldl State.ringAgain s

/-- A later PLACE tries again every ring that found no cluster (R88). -/
def State.retryRings (s : State) : State :=
  s.place.noRing.foldl (fun s ch =>
    match s.ringHome ch with
    | none => s
    | some c0 => match s.makeRing ch c0 with
      | .ok t => t
      | .error _ => s) s

/-! ### Spares (R79, R80) -/

/-- SPARES_EXHAUSTED follows the number of PEs in state SPARE (R80). -/
def State.checkSpares (s : State) : State :=
  if s.sparesLeft = 0 then
    if s.place.exhausted then s
    else (({ s with place.exhausted := true }.post 0x0204 []).raiseInt 128).giveUp 6
  else { s with place.exhausted := false }

/-- Clusters of the other copies of an instance that stand on an engine. -/
def Inst.otherEngs (x : Inst) (k : Nat) : List Eng :=
  (List.range x.copies.length).filterMap (fun i => if i + 1 = k then none else (x.copies[i]?).bind (·.eng))

/-- spare_for (R79): the engine that failed and the copies moved together. -/
def State.spareFor (s : State) (f : Eng) (moved : List (Nat × Nat)) : Option Eng :=
  if f.ls then none
  else
    let spares := (allEngs false).filter (fun e => (s.eng e).st == .spare)
    match spares.find? (fun e => e.cc == f.cc) with
    | some t => some t
    | none =>
      let others := moved.flatMap (fun m => match s.inst m.1 with
        | some x => x.otherEngs m.2
        | none => [])
      let a := spares.filter (fun e => others.all (fun o => o.cc != e.cc))
      let b := a.filter (fun e => others.all (fun o => chipletOf o.cc != chipletOf e.cc))
      (if b = [] then a else b).head?

/-- A copy moves to an engine, which becomes IN_SERVICE if it was a spare (R80); it loads its code first (R81). -/
def State.moveCopy (s : State) (fi k : Nat) (e : Eng) : State :=
  let s := s.modEng e (fun g => if g.st == .spare then { g with st := .inService } else g)
  (((s.putCopy fi k e .loading).mirrorMoved fi k e.cc e.no).ringsForCopy fi).checkSpares

/-- Is copy `k` healthy: on an engine that is not FAILED, and running or loading? -/
def State.copyHealthy (s : State) (x : Inst) (k : Nat) : Bool :=
  match x.copy k with
  | some c => (match c.eng with
    | some e => (s.eng e).st != .failed && c.st == .running
    | none => false)
  | none => false

/-- Copies of an instance other than `k` that are healthy. -/
def State.survivors (s : State) (x : Inst) (k : Nat) : List Nat :=
  (List.range x.copies.length).filterMap (fun i => if i + 1 != k && s.copyHealthy x (i + 1) then some (i + 1) else none)

/-! ### Shedding (R83 to R85) -/

/-- Does `a` rank below `b` (R84)? -/
def ranksBelow (a b : Inst) : Bool :=
  decide (a.cls < b.cls) || (a.cls == b.cls &&
    (decide (a.shedPrio < b.shedPrio) || (a.shedPrio == b.shedPrio && decide (a.declNo > b.declNo))))

/-- The first latch of an instance at or after a tick (R68). -/
def Inst.latchFrom (x : Inst) (t : Nat) : Nat :=
  let c := max x.cycle 1
  t + (x.phase + c - t % c) % c

/-- The tick after which the instance's present cycle stands: its next latch. -/
def State.nextLatch (s : State) (x : Inst) : Nat :=
  x.latchFrom (tickAtOrBefore s.now + 1)

/-- The retained record takes the last accepted cycle (08 R218). -/
def State.commitRetained (s : State) (fi : Nat) : State :=
  match (s.inst fi).bind (·.lastGood) with
  | none => s
  | some r =>
    let old := s.prog.retained.get fi
    { s with
      prog.retained := s.prog.retained.put fi { r with seq := (((old.map (·.seq)).getD 0) + 1) % 2 ^ 32 }
      prog.retPrev := match old with
        | some o => s.prog.retPrev.put fi o
        | none => s.prog.retPrev.del fi }

/-- An instance is shed (R85): it stops at its next cycle boundary, its engines, slots and memory become free, its
declaration stays, and it starts again WARM with a later placement if it was RUNNING (08 R213). -/
def State.shed (s : State) (fi rescued : Nat) : State :=
  match s.inst fi with
  | none => s
  | some x =>
    let latch := s.nextLatch x
    let s := if x.isRunning then s.commitRetained fi else s
    let y : Inst := { x with
      place := .shed, copies := [], cmp := none,
      run := if x.isRunning then .stopped else x.run,
      restart := x.run == .running,
      nextTick := 0,
      safeFrom := if x.isRunning then some latch else x.safeFrom }
    ((((s.setInst fi y).dropRings).post 0x0206 (le 2 fi ++ le 2 rescued)).raiseInt 129).giveUp 6

/-- The state with a set of instances taken off their engines, for the question of R83 only. -/
def State.without (s : State) (fis : List Nat) : State :=
  fis.foldl (fun s fi => s.modInst fi (fun x => { x with copies := [], place := .shed })) s

/-- The engine for the last copy of an instance after exhaustion, by the filters and score of R72 with its phase
unchanged (R83). -/
def State.fitCopy (s : State) (fi k : Nat) : Option Eng :=
  match s.inst fi with
  | none => none
  | some x =>
    let o := x.otherEngs k
    match s.pickEngine x x.phase k (o.map (·.cc)) (o.map (fun e => chipletOf e.cc)) with
    | .ok e => some e
    | .error _ => none

/-- Sheds instances of lower rank, in shed order, until the copy fits (R83). -/
def State.shedUntil : List Nat → State → Nat → Nat → State
  | [], s, fi, k => match s.fitCopy fi k with
    | some e => s.moveCopy fi k e
    | none => s
  | v :: vs, s, fi, k =>
    match s.fitCopy fi k with
    | some e => s.moveCopy fi k e
    | none => State.shedUntil vs (s.shed v fi) fi k

/-- A copy that cannot be moved to a spare (R83): the instance goes on degraded, or its last copy is placed on an engine
in service, with or without shedding, or the instance is shed. -/
def State.afterExhaustion (s : State) (fi k : Nat) : State :=
  match s.inst fi with
  | none => s
  | some x =>
    if !(s.survivors x k).isEmpty then
      let y := x.modCopy k (fun c => { c with eng := none, st := .lost })
      (((s.setInst fi { y with place := .degraded }).post 0x0205 (le 2 fi ++ le 1 k)).raiseInt 129).giveUp 6
    else
      let s := s.modInst fi (fun x => x.modCopy k (fun c => { c with eng := none, st := .lost }))
      match s.fitCopy fi k with
      | some e => (s.moveCopy fi k e).post 0x0208 (le 2 fi)
      | none =>
        let lower := (sortBy (fun a b => ranksBelow a.2 b.2)
          (s.place.insts.filter (fun p => p.2.isPlaced && p.2.ls == x.ls && p.1 != fi && ranksBelow p.2 x))).map (·.1)
        if ((s.without lower).fitCopy fi k).isSome then (s.shedUntil lower fi k).post 0x0208 (le 2 fi)
        else s.shed fi 0

/-- The temporary state of an instance that lost a copy (R81, R283). -/
def Inst.tempState (x : Inst) (left : Nat) : PlState :=
  if x.place = .degraded then .degraded
  else if x.cls = 2 ∧ left = 2 then .duplexTemp
  else if left = 1 ∧ x.cls ≥ 1 then .simplexTemp
  else x.place

/-- Copy `k` loses its engine: it reads LOST and the instance takes its temporary state. -/
def State.loseCopy (s : State) (fi k : Nat) : State :=
  match s.inst fi with
  | none => s
  | some x =>
    let y := x.modCopy k (fun c => { c with eng := none, st := .lost, codeIn := false })
    s.setInst fi { y with place := x.tempState (s.survivors x k).length }

/-- A lagging copy moves to a spare and keeps running on its engine until the moved copy takes over (11 R290); with no
spare it stays. -/
def State.moveLag (s : State) (fi k : Nat) : State :=
  match (s.inst fi).bind (fun x => (x.copy k).bind (fun c => c.eng.map (fun e => (e, c.areas)))) with
  | none => s
  | some (f, a) =>
    match s.spareFor f [(fi, k)] with
    | none => s
    | some e => (s.moveCopy fi k e).modInst fi (fun x => x.modCopy k (fun c => { c with lag := some (f, a) }))

/-- Moves one lost copy: to a spare, or by R83. An instance without any survivor starts cold and is recorded (R87). -/
def State.restoreOne (s : State) (f : Eng) (fi k : Nat) : State :=
  match s.inst fi with
  | none => s
  | some x =>
    let cold := (s.survivors x k).isEmpty
    if s.copyHealthy x k then s.moveLag fi k
    else
    match s.spareFor f [(fi, k)] with
    | some e =>
      let s := s.moveCopy fi k e
      if cold then s.post 0x0208 (le 2 fi) else s
    | none => s.afterExhaustion fi k

/-- The copies of a failed engine move together to one spare if one takes them all, else one at a time (R79). -/
def State.restoreAll (s : State) (f : Eng) (moved : List (Nat × Nat)) : State :=
  match s.spareFor f moved with
  | some e =>
    moved.foldl (fun s m =>
      match s.inst m.1 with
      | none => s
      | some x =>
        let cold := (s.survivors x m.2).isEmpty
        let s := s.moveCopy m.1 m.2 e
        if cold then s.post 0x0208 (le 2 m.1) else s) s
  | none => moved.foldl (fun s m => s.restoreOne f m.1 m.2) s

/-- The three bytes that name an engine in a record (21 R489). -/
def engBytes (e : Eng) : Bytes := le 1 e.cc ++ le 1 e.no ++ le 1 (boolNat e.ls)

/-- Counts a fault of a class of 11 R303. -/
def State.countFault (s : State) (cls : Nat) : State :=
  { s with anvil.counters := modAt s.anvil.counters (cls - 1) inc32 }

/-- Lost copies are restored now, when Zenith returns to RUNNING, or never (R82). -/
def State.restore (s : State) (e : Eng) (moved : List (Nat × Nat)) : State :=
  match s.cmd.mgmt with
  | .running => s.restoreAll e moved
  | .restarting => { s with place.failing := s.place.failing ++ moved.map (fun m => (e, 4 * m.1 + m.2)) }
  | .lost => s

/-- A lagging copy on an engine that fails no longer runs there (11 R290). -/
def State.dropLag (s : State) (e : Eng) : State :=
  { s with place.insts := s.place.insts.mapV (fun _ x => { x with copies := x.copies.map (fun c =>
      if (c.lag.map (·.1)) = some e then { c with lag := none } else c) }) }

/-- An engine becomes FAILED for good and its copies move (R79, R83). -/
def State.failEngine (s : State) (e : Eng) (cls : Nat) : State :=
  if (s.eng e).st = .failed then s
  else
    let moved := s.copiesOnOrdered e
    let s := (s.modEng e (fun g =>
      { g with st := .failed, phase := .idle, exec := none, diagDue := none, diagOn := false })).dropLag e
    let s := ((s.post 0x0203 (engBytes e ++ le 2 cls)).bump 0x009).countFault cls
    (moved.foldl (fun s m => s.loseCopy m.1 m.2) s).checkSpares.restore e moved

/-- Restorations that waited for Zenith (R82). -/
def State.restoreWaiting (s : State) : State :=
  let w := s.place.failing
  w.foldl (fun s p => s.restoreOne p.1 (p.2 / 4) (p.2 % 4)) { s with place.failing := [] }

/-- A cluster's sample memory or filter block fails (R88): its engines FAIL, its rings are placed again or stay absent. -/
def State.failCluster (s : State) (cc : Nat) (cls : Nat) : State :=
  let s := { s with place.badFilter := cc :: s.place.badFilter.filter (· != cc) }
  let lostRings := (s.place.rings.filter (fun p => p.2.cc == cc)).map (·.1)
  let s := { s with place.rings := s.place.rings.keep (fun _ r => r.cc != cc) }
  let es := (allEngs false ++ allEngs true).filter (fun e => e.cc == cc)
  let s := es.foldl (fun s e => s.failEngine e cls) s
  lostRings.foldl State.ringAgain s

/-- Missing copies of DEGRADED instances go to spares, in the order of R72 (R86). -/
def State.restoreDegraded (s : State) : State :=
  (s.inOrder (fun x => x.place == .degraded)).foldl (fun s fi =>
    match s.inst fi with
    | none => s
    | some x =>
      (List.range x.copies.length).foldl (fun s i =>
        match (s.inst fi).bind (fun x => x.copy (i + 1)) with
        | some c =>
          if c.eng = none then
            match s.spareFor (c.was.getD { ls := x.ls, cc := 0, no := 0 }) [(fi, i + 1)] with
            | some e => s.moveCopy fi (i + 1) e
            | none => s
          else s
        | none => s) s) s

/-- An instance with all its copies running returns to PLACED (R81, R86). -/
def Inst.settle (x : Inst) : Inst :=
  if x.isPlaced && x.copies.all (fun c => c.st == .running && c.eng.isSome) then { x with place := .placed } else x

/-! ### Margin (R69 to R71) -/

/-- 300 × the time of a copy in ns that R69 divides by. -/
def marginTime (cls cycle span k : Nat) : Nat := min (85 * cycle * 31250) (100 * (span * 31250) - 30000 * startOffset cls k)

/-- Has copy `k` of `x` lost its margin at a canary rate `m` (R69)? -/
def copyMarginLost (x : Inst) (k span m : Nat) : Bool :=
  decide (m * marginTime x.cls x.cycle span k < x.wcic * 300000000000)

/-- The required rate q of an engine in units of 10^6 instructions/s, rounded up (R69, GET_ENGINE). -/
def State.requiredRate (s : State) (e : Eng) : Nat :=
  ((s.copiesOn e).map (fun p => match s.inst p.1 with
    | some x => (match x.copy p.2 with
      | some c => ceilDiv (x.wcic * 300000) (max 1 (marginTime x.cls x.cycle c.span p.2))
      | none => 0)
    | none => 0)).foldl max 0

/-- Copies of an engine whose margin is lost. -/
def State.lostMargins (s : State) (e : Eng) (m : Nat) : List (Nat × Nat) :=
  (s.copiesOnOrdered e).filter (fun p => match s.inst p.1 with
    | some x => (match x.copy p.2 with
      | some c => copyMarginLost x p.2 c.span m
      | none => false)
    | none => false)

end Sys2Proof.Machine
end

