-- ==== Sys2Proof/Machine/SignalOps.lean ====
section
/-! DEFINITION. Signals: sources and values (08 R206, R208, 09 R231). -/
namespace Sys2Proof.Machine

def State.signal (s : State) (sig : Nat) : Signal := s.prog.signals.getD sig {}

/-- Status bits of R208. -/
def sbValid := 1
def sbRemote := 2
def sbSafe := 4

/-- A source gives its signal a value, visible in images latched at `at_` or later. Values older than 1 ms are kept only
as far as the newest of them. -/
def State.setSignal (s : State) (sig at_ value status : Nat) : State :=
  let g := s.signal sig
  let vals := (at_, value, status) :: g.vals.filter (fun v => decide (v.1 ≤ at_))
  let fresh := vals.filter (fun v => decide (v.1 + 1000000 * qNs > s.now))
  let old := vals.filter (fun v => !decide (v.1 + 1000000 * qNs > s.now))
  { s with prog.signals := s.prog.signals.put sig { g with vals := fresh ++ old.take 1 } }

/-- The value and status in force at an instant; 0 and 0 before the first. -/
def Signal.at_ (g : Signal) (t : Nat) : Nat × Nat :=
  match g.vals.find? (fun v => decide (v.1 ≤ t)) with
  | some v => v.2
  | none => (0, 0)

/-- Binds a signal to a source, its values starting afresh. -/
def State.bindSignal (s : State) (sig : Nat) (src : SigSrc) : State :=
  { s with prog.signals := s.prog.signals.put sig { src := src } }

/-- Releases every signal a source drives: it reads 0 with VALID 0. -/
def State.releaseSignals (s : State) (p : SigSrc → Bool) : State :=
  { s with prog.signals := s.prog.signals.filter (fun e => !p e.2.src) }

/-- Is a signal driven by a source other than the given one (09 R231)? -/
def State.drivenByOther (s : State) (sig : Nat) (src : SigSrc) : Bool :=
  let x := (s.signal sig).src
  x != SigSrc.none && x != src

end Sys2Proof.Machine
end

