-- ==== Sys2Proof/Machine/ChainOps.lean ====
section
/-! DEFINITION. The arithmetic of a filter chain: presets, CIC, FIR, grading and detectors (05 R116 to R146). -/
namespace Sys2Proof.Machine

/-! ### Banks (R123 to R127) -/

/-- Binomial coefficient. -/
def binom : Nat → Nat → Nat
  | _, 0 => 1
  | 0, _ + 1 => 0
  | n + 1, k + 1 => binom n k + binom n (k + 1)

/-- Taps of an N-tap binomial bank (R125). -/
def binomialTaps (n : Nat) : List Int := (List.range n).map (fun k => ((binom (n - 1) k * 2 ^ (22 - (n - 1)) : Nat) : Int))

/-- The frequency-sampled banks, first half and centre, worked out from the expression of R125. -/
def mirrorTaps (h : List Int) : List Int := h ++ h.dropLast.reverse

def taps7 : List Int := mirrorTaps
  [18321, 26826, 35850, 33507, 10505, -33676, -87654, -129711, -133991, -79432, 41623, 218305, 421740, 611474, 746088,
   794754]
def taps10 : List Int := mirrorTaps
  [59483, 49241, 30046, 4345, -24495, -52530, -75631, -89906, -92106, -79968, -52478, -10016, 45633, 111389, 183117,
   255966, 324777, 384527, 430764, 459996, 469996]
def taps11 : List Int := mirrorTaps
  [-7200, -6819, -6059, -4925, -3424, -1566, 638, 3173, 6024, 9172, 12598, 16281, 20195, 24318, 28623, 33083, 37669,
   42352, 47103, 51893, 56690, 61464, 66185, 70823, 75350, 79735, 83952, 87974, 91776, 95333, 98623, 101625, 104320,
   106691, 108724, 110404, 111723, 112671, 113242, 113436]
def taps14 : List Int := mirrorTaps [-171394, 158472, 233207, -167384, -414886, 180482, 1323189, 1910932]

/-- The ROM presets (R123, R124): taps, FIR_R, CIC_R, RATES. -/
def romBank (b : Nat) : Bank :=
  let mk (t : List Int) (fr cr rates : Nat) : Bank := { owner := 0, taps := t, firR := fr, cicR := cr, rates := rates }
  match b with
  | 0 => mk (binomialTaps 1) 1 0 0x01
  | 1 => mk (binomialTaps 3) 1 0 0x01
  | 2 => mk (binomialTaps 5) 1 0 0x01
  | 3 => mk (binomialTaps 9) 1 0 0x01
  | 4 => mk (binomialTaps 1) 1 0 0x02
  | 5 => mk (binomialTaps 5) 1 0 0x02
  | 6 => mk (binomialTaps 9) 1 0 0x02
  | 7 => mk taps7 3 0 0x02
  | 8 => mk (binomialTaps 3) 1 0 0x04
  | 9 => mk (binomialTaps 11) 1 0 0x04
  | 10 => mk taps10 4 0 0x04
  | 11 => mk taps11 20 0 0x04
  | 12 => mk (binomialTaps 1) 1 0 0x38
  | 13 => mk (binomialTaps 5) 1 0 0x38
  | 14 => mk taps14 1 4 0x38
  | _ => mk taps14 1 16 0x38

/-- A bank by number: ROM, or loaded. -/
def State.bank (s : State) (b : Nat) : Option Bank := if b < 16 then some (romBank b) else s.filter.banks.get b

def Bank.decim (b : Bank) : Nat := b.firR * max b.cicR 1

/-- L: the length of the impulse response in input positions (R123, R124). -/
def Bank.span (b : Bank) : Nat :=
  if b.cicR = 0 then b.taps.length else 3 * (b.cicR - 1) + 1 + (b.taps.length - 1) * b.cicR

/-- Twice the group delay in input samples. -/
def Bank.gdHalf (b : Bank) : Nat :=
  if b.cicR = 0 then b.taps.length - 1 else 3 * (b.cicR - 1) + (b.taps.length - 1) * b.cicR

/-- Hold window of OVR and OVR_IN: L + ⌈group delay⌉ (R137, R139). -/
def Bank.hold (b : Bank) : Nat := b.span + (b.gdHalf + 1) / 2

/-- Preset 0 of a RATE (R130): the CLEAR bank. -/
def clearBank (rate : Nat) : Nat := if rate = 0 then 0 else if rate = 1 then 4 else if rate = 2 then 8 else 12

/-! ### Arithmetic (R119 to R121) -/

def sat32 (x : Int) : Int := clampInt (-2147483648) 2147483647 x
def sat40 (x : Int) : Int := clampInt (-549755813888) 549755813887 x
def wrap40 (x : Int) : Int := toSigned 40 (ofSigned 40 x)

/-- Scale: the value and whether it saturated (R119). -/
def scaleValue (x gain offset : Int) : Int × Bool :=
  let y := divFloor (x * gain + 536870912) 1073741824 + offset
  (sat32 y, sat32 y != y)

/-- The FIR sum (R121): value, and whether it saturated. -/
def firValue (hist taps : List Int) : Int × Bool :=
  let acc := (List.zip hist taps).foldl (fun a p => sat40 (a + divFloor (p.1 * p.2 + 2097152) 4194304)) 0
  (sat32 acc, sat32 acc != acc)

/-- One input into the CIC's integrators (R120). -/
def cicStep (ints : List Int) (x : Int) : List Int :=
  match ints with
  | [a, b, c] =>
    let a := wrap40 (a + x)
    let b := wrap40 (b + a)
    [a, b, wrap40 (c + b)]
  | l => l

/-- One emission of the CIC: the combs after the integrators, and the value passed on (R120). -/
def cicEmit (ints combs : List Int) (r : Nat) : Int × List Int :=
  match ints, combs with
  | [_, _, c], [d1, d2, d3] =>
    let k := if r = 4 then 6 else if r = 8 then 9 else 12
    let c1 := wrap40 (c - d1)
    let c2 := wrap40 (c1 - d2)
    let c3 := wrap40 (c2 - d3)
    (divFloor (c3 + 2 ^ (k - 1)) (2 ^ k), [c, c1, c2])
  | _, l => (0, l)

/-- The CIC after `n` further positions from `pos` that all carry `v`, as SINGLE_CYCLE prefills it (R129). -/
def cicFill : Nat → Nat → Nat → Int → Nat → List Int × List Int → List Int × List Int
  | 0, _, _, _, _, st => st
  | n + 1, pos, nRef, v, r, (ints, combs) =>
    let ints := cicStep ints v
    let combs := if ((pos : Int) - (nRef : Int)) % (r : Int) = 0 then (cicEmit ints combs r).2 else combs
    cicFill n (pos + 1) nRef v r (ints, combs)

/-- Is `n` on the grid of reference `nRef` and step `r` (R133)? -/
def onGrid (n nRef r : Nat) : Bool := ((n : Int) - (nRef : Int)) % (max r 1 : Int) == 0

/-! ### Restart (R128, R129) -/

def Chain.restart (k : Chain) (b : Bank) (tw : Bool) (pos : Nat) (x : Int) : Chain :=
  let wide := if tw then x * 65536 else x
  let y := (scaleValue wide k.gain k.offset).1
  let cic := if k.single && b.cicR != 0 then
      cicFill (4 * b.cicR) (pos - 4 * b.cicR) k.nRef x b.cicR ([0, 0, 0], [0, 0, 0])
    else ([0, 0, 0], [0, 0, 0])
  { k with
    hist := if k.single then List.replicate 128 y else [], cicInt := cic.1, cicComb := cic.2,
    haveHold := false, hold := 0, inputs := 0, needStart := false, started := true, outWin := [],
    det := k.det.map (fun d => { d with env := 0, word := 0, outsSince := 0 }), restarts := inc32 k.restarts }

/-! ### Detectors (R142 to R146) -/

/-- Integer square root, bit by bit. -/
def isqrtGo : Nat → Nat → Nat → Nat
  | 0, _, r => r
  | k + 1, n, r => if (r + 2 ^ k) * (r + 2 ^ k) ≤ n then isqrtGo k n (r + 2 ^ k) else isqrtGo k n r
def isqrt (n : Nat) : Nat := isqrtGo 40 n 0

/-- The value of largest magnitude, the most recent of equals, values newest first (R142). -/
def peakOf (ys : List Int) : Int := ys.foldl (fun m y => if y.natAbs > m.natAbs then y else m) 0

/-- A detector that is off. -/
def noDet : Detector := {}

/-- One detector at an output of value `y`, the outputs of its window newest first (R142 to R145). -/
def Detector.step (d : Detector) (which : Nat) (y : Int) (win : List (Int × Bool)) : Detector :=
  if !d.enabled then { d with word := 0 }
  else
    let n := d.outsSince + 1
    let ys := (win.take (min n d.window)).map (·.1)
    let d := { d with outsSince := min n 4096 }
    match which with
    | 0 => { d with word := ofSigned 32 (peakOf ys) }
    | 1 => { d with word := isqrt ((ys.map (fun y => y.natAbs * y.natAbs)).foldl (· + ·) 0 / max d.window 1) }
    | _ =>
      let e := max y.natAbs (d.env - d.env / 2 ^ d.window)
      { d with env := e, word := e }

/-- Does a windowed detector's window hold positions before a restart, or MISSING outputs (R145)? -/
def Detector.incomplete (d : Detector) (win : List (Int × Bool)) : Bool :=
  d.enabled && (decide (d.outsSince < d.window) || (win.take d.window).any (·.2))

/-- The detector's word as it is compared: PEAK by absolute value (R146). -/
def Detector.level_ (d : Detector) (which : Nat) : Bool :=
  let w := if which = 0 then (toSigned 32 d.word).natAbs else d.word
  if w ≥ d.thresh then true else if w ≤ d.thresh - d.hyst then false else d.level

/-! ### One position (R116, R131, R136 to R139) -/

/-- An input position as the chain takes it from its ring: value, SQW low half. -/
structure Input where
  pos   : Nat
  value : Int
  sqw   : Nat

/-- OR of SQW bits over positions; a MISSING input contributes 0 (R137). -/
def orSqw (ps : List InPos) (mask : Nat) : Nat :=
  ps.foldl (fun a p => if bit p.sqw 0 then a else a ||| (p.sqw &&& mask)) 0

/-- The quality word of an output (R136 to R139). -/
def Chain.grade (k : Chain) (b : Bank) (bankNo : Nat) (newest : InPos) (outSat settling detInc : Bool) : Nat :=
  let w := k.window.take b.span
  let h := k.window.take b.hold
  let gaps := (w.filter (·.subst)).length
  let low := (newest.sqw &&& 0xF) ||| orSqw w 0x7FB0 ||| orSqw h 0x40
  let low := if settling then low ||| 1 else low
  low ||| 2 ^ 16 * boolNat (outSat || h.any (·.sat)) ||| 2 ^ 17 * boolNat settling |||
    2 ^ 18 * boolNat (k.single && k.started && decide (k.inputs < b.span)) |||
    2 ^ 19 * boolNat (decide (gaps > 0)) ||| 2 ^ 20 * min gaps 15 |||
    2 ^ 24 * boolNat (decide (bankNo ≥ 16)) ||| 2 ^ 25 * (if bankNo < 16 then bankNo % 4 else 0) |||
    2 ^ 27 * boolNat detInc ||| 2 ^ 28 * boolNat k.phaseCh ||| 2 ^ 29 * boolNat (w.any (fun p => p.epoch != k.epoch))

/-- Is the chain settled (R128, R129): restarted, and in NORMAL mode past L inputs? -/
def Chain.settled (k : Chain) (b : Bank) : Bool := k.started && !k.needStart && (k.single || decide (k.inputs ≥ b.span))

/-- The output of an output position, detectors included (R116 stages 5 to 7). -/
def Chain.output (k : Chain) (b : Bank) (newest : InPos) (n : Nat) : Chain :=
  let (y, osat) := firValue k.hist b.taps
  let settling := !k.single && (!k.started || decide (k.inputs < b.span))
  let missing := bit newest.sqw 0 || settling
  let v := if missing then 0 else y
  let win := ((v, missing) :: k.outWin).take 4096
  let det := (List.range 3).map (fun i => (k.det.getD i noDet).step i v win)
  let inc := (det.take 2).any (fun d => d.incomplete win)
  let onlyEnv := !(det.take 2).any (·.enabled) && (det.getD 2 noDet).enabled && missing
  let q := k.grade b k.bank newest osat settling (inc || onlyEnv)
  let word (i : Nat) : Nat := (det.getD i noDet).word
  let r : OutRec := { pos := n, value := v, sqw := q, peak := toSigned 32 (word 0), rms := word 1, env := word 2 }
  { k with outWin := win, det := det, outs := (r :: k.outs).take 131072, phaseCh := false,
           outSat := if osat then inc32 k.outSat else k.outSat }

/-- One input through stages 1 to 7, changes already applied (R116, R118, R128). -/
def Chain.take (k : Chain) (b : Bank) (tw : Bool) (i : Input) : Chain :=
  let missing := bit i.sqw 0
  let k := if !missing && k.needStart then k.restart b tw i.pos i.value else k
  let x := if missing then (if k.haveHold then k.hold else 0) else i.value
  let k := if missing then
      { k with missRun := k.missRun + 1, substituted := inc32 k.substituted,
               needStart := k.needStart || decide (k.missRun + 1 ≥ b.span) }
    else { k with missRun := 0, hold := x, haveHold := true }
  let ints := if b.cicR = 0 then k.cicInt else cicStep k.cicInt x
  let emits := b.cicR == 0 || onGrid i.pos k.nRef b.cicR
  let (c, combs) := if b.cicR = 0 then (x, k.cicComb) else if emits then cicEmit ints k.cicComb b.cicR else (0, k.cicComb)
  let wide := if tw then c * 65536 else c
  let (y, sat) := if emits then scaleValue wide k.gain k.offset else (0, false)
  let here : InPos := { sqw := i.sqw, subst := missing, sat := sat, epoch := k.epoch }
  let k := { k with
    cicInt := ints, cicComb := combs, hist := if emits then (y :: k.hist).take 128 else k.hist,
    inputs := k.inputs + 1, window := (here :: k.window).take 4096,
    scaleSat := if sat then inc32 k.scaleSat else k.scaleSat, next := some (i.pos + 1) }
  if onGrid i.pos k.nRef b.decim then k.output b here i.pos else k

end Sys2Proof.Machine
end

