-- ==== Sys2Proof/Machine/FilterOps.lean ====
section
/-! DEFINITION. Chains taking positions: pending changes, ring entries, detector signals, TPI captures (05 R117, R131 to
R135, R146). -/
namespace Sys2Proof.Machine

/-- Bytes of a ring entry (04 R112). -/
def entryBytes (fmt : Nat) : Nat := if fmt = 0 then 8 else 4

/-- Offset of slot `n` of a ring in its cluster's sample memory (04 R114). -/
def Ring.slotOff (r : Ring) (fmt n : Nat) : Nat := r.addr + n % max r.depth 1 * entryBytes fmt

/-- Key of an internal sample-memory address in `place.samples`. -/
def sampleKey (cc off : Nat) : Nat := cc * 0x200000 + off

/-- The ring entry of position `n`; a POISONED line reads MISSING, NOT_RECEIVED (11 R296). -/
def State.ringEntry (s : State) (r : Ring) (fmt n : Nat) : Input × State :=
  let off := r.slotOff fmt n
  match s.readRange (32 * sampleLine r.cc off) 32 with
  | (true, s) => ({ pos := n, value := 0, sqw := 3 }, s)
  | (false, s) =>
    let p := memReadN s.place.samples (sampleKey r.cc off) (entryBytes fmt)
    (if fmt = 0 then { pos := n, value := s32 p 0, sqw := u16 p 4 } else { pos := n, value := s16 p 0, sqw := u16 p 2 }, s)

/-- Writes a ring entry. Where it is the first of its line, the whole line is reopened, which clears its poison (11 R296). -/
def State.putEntry (s : State) (r : Ring) (fmt n : Nat) (value : Int) (sqw : Nat) : State :=
  let off := r.slotOff fmt n
  let p := if fmt = 0 then leS 4 value ++ le 4 sqw else leS 2 value ++ le 2 sqw
  let s := { s with place.samples := memWriteN s.place.samples (sampleKey r.cc off) p }
  let a := 0x0100000000 + r.cc * 0x200000 + off
  if off % 32 = 0 then s.wroteRange a 32 else s.wroteRange a p.length

def Change.at_ : Change → Nat
  | .setting a _ _ _ _ _ _ => a
  | .reference a _ _ _ _ => a
def Change.isRef : Change → Bool
  | .reference .. => true
  | _ => false

/-- The record of an applied change, written with the first channel of its command (R132, R134). -/
def chainRecord (s : State) (ch first count pos : Nat) : State :=
  if ch = first then s.post 0x0501 (le 2 first ++ le 2 count ++ le 8 pos) else s

/-- The settings in force until now, as capture remembers them: those of the last 2^26 positions (16 s at 4 MS/s) and the
newest before (10 R269). -/
def Chain.remember (k : Chain) (a : Nat) (setting : Bool) : List PastSetting :=
  let p : PastSetting := { at_ := a, setting := setting, bank := k.bank, gain := k.gain, offset := k.offset, nRef := k.nRef }
  p :: (k.past.filter (fun q => decide (q.at_ + 2 ^ 26 > a)) ++ (k.past.filter (fun q => !decide (q.at_ + 2 ^ 26 > a))).take 1)

/-- One pending change takes effect (R132, R134). -/
def State.applyChange (s : State) (ch : Nat) (k : Chain) (c : Change) : Chain × State :=
  let b := (s.bank k.bank).getD (romBank 0)
  match c with
  | .reference a nRef _ first count =>
    if onGrid nRef k.nRef b.decim then (k, s)
    else ({ k with nRef := nRef, phaseCh := true, needStart := k.needStart || b.cicR != 0, past := k.remember a false },
          chainRecord s ch first count a)
  | .setting a bank gain offset single first count =>
    let b' := (s.bank bank).getD b
    ({ k with bank := bank, gain := gain, offset := offset, single := single, epoch := k.epoch + 1, past := k.remember a true,
              needStart := k.needStart || b'.decim != b.decim || b'.cicR != b.cicR },
     chainRecord s ch first count a)

/-- The changes due at position `n`: references first, then settings (R131). -/
def State.applyChanges (s : State) (ch n : Nat) (k : Chain) : Chain × State :=
  let due := k.changes.filter (fun c => decide (c.at_ ≤ n))
  let k := { k with changes := k.changes.filter (fun c => !decide (c.at_ ≤ n)) }
  (due.filter (·.isRef) ++ due.filter (fun c => !c.isRef)).foldl (fun p c => State.applyChange p.2 ch p.1 c) (k, s)

/-- Detector signals follow an output; a change is seen from the output's boundary on (R146). -/
def State.detSignals (s : State) (x : Stream) (k : Chain) (n : Nat) : List Nat → Chain × State
  | [] => (k, s)
  | i :: l =>
    let d := k.det.getD i noDet
    let lv := d.enabled && d.level_ i
    let k' := { k with det := setAt k.det i { d with level := lv } }
    let s := match d.signal with
      | some g => if lv != d.level then s.setSignal g (x.boundary n) (boolNat lv) sbValid else s
      | none => s
    s.detSignals x k' n l

/-- A chain takes its next position, if the slot is filed or closed (R117). -/
def State.takePosition (s : State) (ch : Nat) : State :=
  match s.place.rings.get ch, s.chanStream ch, s.filter.chains.get ch with
  | some r, some (_, x), some k =>
    match k.next with
    | none => s
    | some n =>
      let filed := match x.slots.get n with
        | some t => t.filed.isSome
        | none => false
      if !(decide (n < x.closedTo) || filed) then s
      else
        let (i, s) := s.ringEntry r x.cfg.fmt n
        let (k, s) := s.applyChanges ch n k
        let b := (s.bank k.bank).getD (romBank 0)
        let k := k.take b (x.cfg.fmt != 0) i
        let (k, s) := if onGrid n k.nRef b.decim then s.detSignals x k n [0, 1, 2] else (k, s)
        { s with filter.chains := s.filter.chains.put ch k }
  | _, _, _ => s

/-- CHAIN is RUNNING (GET_CHAIN STATE 2, 08 R210). -/
def State.chainRunning (s : State) (ch : Nat) : Bool :=
  match s.filter.chains.get ch with
  | some k => s.place.rings.has ch && k.settled ((s.bank k.bank).getD (romBank 0))
  | none => false

/-- Queues a change in order of apply position. -/
def Chain.queue (k : Chain) (c : Change) : Chain :=
  { k with changes := insertBy (fun a b => decide (a.at_ < b.at_)) c k.changes }

/-! ### TPI captures (R135) -/

/-- What a capture does to one armed channel: the change queued, refused, and whether the second term decided. -/
def State.tpiOne (s : State) (tpi tc ch : Nat) (k : Chain) : Chain × Bool × Bool :=
  match s.chanStream ch, k.armed with
  | some (_, x), some (_, every) =>
    let per := periodQ x.cfg.rate
    let nRef := ceilDiv (9 * tc) per
    let first := ceilDiv (9 * tc + 100000 * qNs) per
    let at_ := max first (k.next.getD 0)
    let late := decide ((k.next.getD 0) > first)
    let k := if every then k else { k with armed := none }
    let rest := k.changes.filter (fun c => match c with
      | .reference a _ (some t) _ _ => !(t == tpi && decide (at_ ≤ a))
      | _ => true)
    if rest.length ≥ 4 || rest.any (fun c => c.isRef && c.at_ == at_) then (k, true, late)
    else
      (({ k with changes := rest }).queue (.reference at_ nRef (some tpi) k.armList.1 k.armList.2), false, late)
  | _, _ => (k, false, false)

/-- A capture on a TPI input, at `tc` in 2^-16 ns of protection time, reaches the chains armed with it (R135). -/
def State.tpiSync (s : State) (tpi tc : Nat) : State :=
  let armed := s.filter.chains.filter (fun p => (p.2.armed.map (·.1)) == some tpi)
  let groups := (armed.map (fun p => p.2.armList)).eraseDups
  groups.foldl (fun s g =>
    let mine := armed.filter (fun p => p.2.armList == g)
    let res := mine.map (fun p => (p.1, s.tpiOne tpi tc p.1 p.2))
    let s := res.foldl (fun s p => { s with filter.chains := s.filter.chains.put p.1 p.2.1 }) s
    let late := res.filter (fun p => p.2.2.2)
    let gone := (res.filter (fun p => p.2.2.1)).map (·.1)
    let ns := tc / 65536
    let s := if late = [] then s else s.post 0x0502 (le 1 tpi ++ le 2 late.length ++ le 8 ns)
    match gone with
    | [] => s
    | c :: _ => s.post 0x0503 (le 1 tpi ++ le 2 c ++ le 2 gone.length ++ le 8 ns)) s

end Sys2Proof.Machine
end

