-- ==== Sys2Proof/Machine/RunOps.lean ====
section
/-! DEFINITION. Start and stop latches, start modes and retained records (08 R216 to R218). -/
namespace Sys2Proof.Machine

/-- 200 µs in 1/589824 ns (R216). -/
def lead200 : Nat := 200000 * qNs

/-- The first latch of an instance at least 200 µs after now (R216). -/
def State.soonLatch (s : State) (x : Inst) : Nat := x.latchFrom (tickAtOrAfter (s.now + lead200))

/-- The latch that a tick operand selects (R216): 0 the first at least 200 µs ahead, else the first at or after it, which
must lie 200 µs ahead. A tick that a partner or manager resolved has only to lie ahead (12 R311, 03 R92). -/
def State.resolveLatch (s : State) (x : Inst) (tick : Nat) (own : Bool) : Option Nat :=
  if tick = 0 then some (s.soonLatch x)
  else
    let l := x.latchFrom tick
    if boundaryQ l ≥ s.now + (if own then lead200 else 1) then some l else none

/-- The retained record that lets an instance start WARM under an image (R217). -/
def State.warmRecord (s : State) (fi image : Nat) : Option Retained :=
  match s.prog.retained.get fi with
  | some r => if r.hash = imgHash (s.imageD image) then some r else none
  | none => none

/-- Bytes of all retain regions in records (R218). -/
def State.retainTotal (s : State) : Nat := (s.prog.retained.map (fun r => r.2.data.length)).foldl (· + ·) 0

/-- START_INSTANCE takes effect (R213): STARTING with its latch. WARM without a record starts COLD and is recorded. -/
def State.beginStart (s : State) (fi : Nat) (mode : StartMode) (latch : Nat) : State :=
  match s.inst fi with
  | none => s
  | some x =>
    let fb := mode == .warm && (s.warmRecord fi x.image).isNone
    let s := s.setInst fi { x with
      prevRun := x.run, run := .starting, lastMode := some mode, mode := if fb then .cold else mode,
      nextTick := latch, restart := false }
    if fb then s.post 0x0302 (le 2 fi) else s

/-- A shed instance that was RUNNING starts WARM with FALLBACK_COLD once it is placed again (R213). -/
def State.autoStart (s : State) (fi : Nat) : State :=
  match s.inst fi with
  | some x => if x.restart then s.beginStart fi .warm (s.soonLatch x) else s
  | none => s

end Sys2Proof.Machine
end

