-- ==== Sys2Proof/Machine/ImageOps.lean ====
section
/-! DEFINITION. Process images: signal records, channel records, the frozen half (08 R205 to R210), and the output words
that drive signals (09 R232, 08 R215). -/
namespace Sys2Proof.Machine

/-- The last tick boundary that Horizon has reached (08 R203: a boundary acts at its instant rounded down to 2^-16 ns). -/
def State.tickNow (s : State) : Nat := (s.now + 6) / qTick

/-- Has the instant `q` come, as Horizon shows it? -/
def State.reached (s : State) (q : Nat) : Bool := decide (q ≤ s.now + 6)

/-! ### Signals in images -/

/-- Was a subscription HEALTHY at an instant (09 R248, R249)? -/
def Subscription.healthyAt (x : Subscription) (t : Nat) : Bool :=
  (x.st == .healthy || x.st == .stale) && (match x.arrivals.find? (fun a => decide (a.1 ≤ t)) with
    | some a => decide (t ≤ a.2)
    | none => false)

/-- VALID of an instance's outputs (08 R210): RUNNING or STOPPING, published since its start, not in safe values. -/
def Inst.outputsValid (x : Inst) : Bool := (x.run == .running || x.run == .stopping) && x.published

/-- The record of a signal in an image latched at `l`: value and status word (R206, R208, R210). -/
def State.sigRecord (s : State) (sig l : Nat) : Nat × Nat :=
  let g := s.signal sig
  let (v, st) := g.at_ l
  match g.src with
  | .none => (0, 0)
  | .output fi =>
    if bit st 2 then (v, sbSafe)
    else (v, if ((s.inst fi).map (·.outputsValid)).getD false then sbValid else 0)
  | .detector ch _ => (v, if s.chainRunning ch then sbValid else 0)
  | .subscription n =>
    let ok := ((s.pub.subs.get n).map (fun x => x.healthyAt (l - 2000 * qNs))).getD false
    (v, if ok && bit st 0 then sbValid else 0)
  | .stratus _ => (v, st)
  | .binaryIn _ => (v, st)

/-! ### Channels in images -/

/-- The five words of R141. -/
def OutRec.bytes (r : OutRec) : Bytes := leS 4 r.value ++ le 4 r.sqw ++ leS 4 r.peak ++ le 4 r.rms ++ le 4 r.env

/-- What stands for an output that the chain never produced (R205). -/
def recMissing : Bytes := zeros 4 ++ le 4 3 ++ zeros 12

/-- The K newest outputs of a channel whose boundary is at or before `l` (R205). -/
def State.chanRecords (s : State) (ch k l : Nat) : Bytes :=
  let outs := match s.chanStream ch, s.filter.chains.get ch with
    | some (_, x), some c => if s.place.rings.has ch then (c.outs.filter (fun (r : OutRec) => decide (x.boundary r.pos ≤ l))).take k else []
    | _, _ => []
  outs.flatMap OutRec.bytes ++ (List.replicate (k - outs.length) recMissing).flatten

/-! ### The image half -/

/-- LATCH_FRAC (R207). -/
def tickFrac (n : Nat) : Nat := n * 31250 % 3 * 65536 / 3

/-- A PE image half (R207). -/
def State.peImage (s : State) (x : Inst) (b : Bytes) (n : Nat) : Bytes :=
  let l := boundaryQ n
  let flags := boolNat (s.horizon.ptSt == .holdover) + 2 * boolNat s.horizon.follow1
  let chans := (List.range x.channels.length).flatMap (fun i => s.chanRecords (x.channels.getD i 0) (imgDepth b i) l)
  let sigs := (List.range (imgNSig b)).flatMap (fun i =>
    let (v, st) := match x.binds.get i with
      | some g => s.sigRecord g l
      | none => (0, 0)
    le 4 v ++ le 4 st)
  padTo (imgIn b) (le 8 n ++ le 8 (n * 31250 / 3) ++ le 2 (tickFrac n) ++ le 2 flags ++ le 2 (imgNChan b) ++ le 2 (imgNSig b) ++
    zeros 40 ++ chans ++ sigs)

/-- An LS image half (R209). -/
def State.lsImage (s : State) (x : Inst) (b : Bytes) (n : Nat) : Bytes :=
  let rs := (List.range 512).map (fun i =>
    if i < imgNSig b then
      match x.binds.get i with
      | some g => s.sigRecord g (boundaryQ n)
      | none => (0, 0)
    else (0, 0))
  le 64 (bitsNat (rs.map (fun r => r.1 != 0))) ++ le 64 (bitsNat (rs.map (fun r => bit r.2 0)))

def State.imageHalf (s : State) (x : Inst) (n : Nat) : Bytes :=
  let b := s.imageD x.image
  if x.ls then s.lsImage x b n else s.peImage x b n

/-! ### Outputs as signals -/

/-- The value of an output binding (09 R232). -/
def OutBind.value (b : OutBind) (words : List Nat) : Nat :=
  let w : Nat := words.getD b.word 0
  if b.bit = 0x3F then w else boolNat (Machine.bit w b.bit)

/-- The signals of an instance take output words from an instant on. -/
def State.driveOutputs (s : State) (fi at_ : Nat) (words : List Nat) (status : Nat) : State :=
  match s.inst fi with
  | none => s
  | some x => x.outBinds.foldl (fun s b => s.setSignal b.signal at_ (b.value words) status) s

/-- The safe values of an instance's image (08 R215). -/
def State.safeWords (s : State) (x : Inst) : List Nat := imgSafe (s.imageD x.image)

/-- An instance's signals take what its outputs hold now: safe values, or what it last published. -/
def State.redriveOutputs (s : State) (fi : Nat) : State :=
  match s.inst fi with
  | none => s
  | some x => if x.safe then s.driveOutputs fi s.now (s.safeWords x) sbSafe else s.driveOutputs fi s.now x.outs 0

/-- A placed instance holds its safe values until it first publishes (08 R215). -/
def State.holdSafe (s : State) (fi : Nat) : State :=
  (s.modInst fi (fun x => { x with safe := true, everOut := false, safeFrom := none })).redriveOutputs fi

/-! ### What an accepted command waits for (02 R53) -/

/-- The outcome of the accepted commands that wait for `w`: COMMAND_COMPLETION reports it. -/
def State.finishWait (s : State) (w : Wait) (r : Nat × Nat × Bytes) : State :=
  { s with cmd.accepted := s.cmd.accepted.map (fun a =>
      if a.wait == w && a.result.isNone then { a with result := some r } else a) }

end Sys2Proof.Machine
end

