-- ==== Sys2Proof/Machine/RegionOps.lean ====
section
/-! DEFINITION. A memory that fails as a whole (11 R295), exception records and the results copies post (06 R158, R159,
R180; 11 R273, R276). -/
namespace Sys2Proof.Machine

/-- Does an uncorrectable line fail its memory (R295)? -/
def State.lineFails (s : State) (u : Nat × Nat × Bool) : Bool :=
  let r := (lineRegion u.1).1
  let same := (s.anvil.uncorrAt.filter (fun v => (lineRegion v.1).1 == r && lineUnit v.1 == lineUnit u.1)).length
  decide (r ≤ 2) && (u.2.2 || decide (same > if r = 2 then 16 else 4))

/-- The memories with failing lines fail: an engine's makes it FAILED, a cluster's sample memory is handled by 03 R88. -/
def State.regionFail (s : State) : State :=
  match s.anvil.uncorrAt.find? s.lineFails with
  | none => s
  | some u =>
    let r := (lineRegion u.1).1
    let n := lineUnit u.1
    let s := { s with anvil.uncorrAt := s.anvil.uncorrAt.filter (fun v =>
      !((lineRegion v.1).1 == r && lineUnit v.1 == n)) }
    let cc := (lineRegion u.1).2
    if r = 2 then (s.post 0x0806 (le 1 r ++ le 1 cc ++ le 1 0xFF)).failCluster cc 0x0B
    else
      let e := engOfKey (r == 1) (if r = 1 then n - 0x10000 else n)
      (s.post 0x0806 (le 1 r ++ le 1 cc ++ le 1 e.no)).failEngine e 0x0B

/-! ### Results (06 R159, R180) -/

/-- Exception codes of 06 R181. -/
def xHardware := 0x01
def xDeadline := 0x02
def xFetchAccess := 0x03
def xFetchAlign := 0x04
def xFetchPoison := 0x05
def xIllegal := 0x06
def xWcic := 0x07
def xAlign := 0x08
def xAccess := 0x09
def xPoison := 0x0A
def xArg := 0x0B
def xTrap := 0x0C
def xStack := 0x0D

/-- The exception record of R180. -/
def excRecord (code trap pc ic detail : Nat) : Bytes := le 1 code ++ zeros 1 ++ le 2 trap ++ le 4 pc ++ le 4 ic ++ le 4 detail

/-- A result with an exception record (R180, 11 R273). -/
def excPosted (tick : Nat) (r : Bytes) : Posted := { tick := tick, sig := crc32c r, outCrc := 0, exc := some r, outs := [] }

/-- An armed injection that acts on a cycle: type, copy (0: any) and target. -/
def Injection.acts (j : Injection) (type copy target tick : Nat) : Bool :=
  j.type == type && (copy == 0 || j.copy == copy) && j.target == target && decide (j.tick ≤ tick)

/-- A copy posts its result for a cycle. What comes after the verdict, or after the verdict deadline judged the copy, is
discarded (11 R276). An injection of type 1 inverts bit 0 of the signature (11 INJECT_FAULT). -/
def State.postResult (s : State) (fi k : Nat) (p : Posted) : State :=
  let hit := s.anvil.injections.any (·.acts 1 k fi p.tick)
  let s := if hit then { s with anvil.injections := s.anvil.injections.filter (fun j => !j.acts 1 k fi p.tick) } else s
  let p := if hit then { p with sig := p.sig ^^^ 1, inj := true } else p
  s.modInst fi (fun x => { x with cycles := x.cycles.map (fun c =>
    if c.tick = p.tick ∧ c.verdict = none ∧ (c.posts.getD (k - 1) none).isNone then
      { c with posts := setAt c.posts (k - 1) (some p) }
    else c) })

/-- LAST_ICOUNT and MAX_ICOUNT of the copy (R151). -/
def State.noteIcount (s : State) (x : Exec) : State :=
  s.modInst x.fi (fun i => i.modCopy x.copy (fun c => { c with lastIc := x.ic, maxIc := max c.maxIc x.ic }))

/-- An exception stops the copy (R159, R180): its record and signature are posted. -/
def State.raiseExc (s : State) (e : Eng) (x : Exec) (code trap detail : Nat) : State :=
  let r := excRecord code trap x.pc x.ic detail
  ((s.modEng e (fun g => { g with phase := .exception, exec := some { x with exc := some r } })).postResult x.fi x.copy
    (excPosted x.tick r)).noteIcount x

/-- END: ICOUNT is final and the copy is SIGNING (R157, R159). -/
def State.endCopy (s : State) (e : Eng) (x : Exec) : State :=
  s.modEng e (fun g => { g with phase := .signing, exec := some x })

/-- The OUTPUT window of a copy as words (R157). -/
def State.outputWords (s : State) (e : Eng) (a : Areas) : List Nat :=
  let p := memReadN (s.eng e).mem a.outBase (4 * a.outWords)
  (List.range a.outWords).map (fun i => u32 p (4 * i))

/-- The signature is formed and posted with EXCEPTION flag 0 and OUT_CRC (R158, R159, 11 R273). -/
def State.postSignature (s : State) (e : Eng) (x : Exec) : State :=
  let outs := s.outputWords e x.areas
  let b := s.imageD (((s.inst x.fi).map (·.image)).getD 0)
  let p : Posted := { tick := x.tick, sig := crc32c (x.log ++ le 4 x.ic), outCrc := crc32c (outs.flatMap (le 4))
                      exc := none, outs := outs
                      data := memReadN (s.eng e).mem (x.areas.dataBase + imgRetainOff b) (imgRetainBytes b) }
  ((s.modEng e (fun g => { g with phase := .done })).postResult x.fi x.copy p).noteIcount x

end Sys2Proof.Machine
end

