-- ==== Sys2Proof/Machine/CycleOps.lean ====
section
/-! DEFINITION. What happens at a latch (08 R224) and how copies run through their span (06 R155 to R159). -/
namespace Sys2Proof.Machine

/-- The latest latch of an instance, if there has been one. -/
def State.latchNow (s : State) (x : Inst) : Option Nat :=
  let c := max x.cycle 1
  let t := s.tickNow
  let d := (t + c - x.phase % c) % c
  if t < d then none else some (t - d)

/-! ### Step 2: the on-line switch (R223 to R225) -/

def ChangeEntry.fi : ChangeEntry → Nat
  | .replace fi _ => fi
  | .add fi => fi
  | .remove fi => fi
  | .setting fi _ _ => fi

/-- Is `n` a latch at or after the switch instant? -/
def State.switched (s : State) (n : Nat) : Bool :=
  s.prog.change.st == .staged && s.prog.change.tick != 0 && decide (s.prog.change.tick ≤ n)

/-- The SETTING entries of an instance. -/
def State.changeSettings (s : State) (fi : Nat) : List (Nat × Bytes) :=
  s.prog.change.entries.filterMap (fun e => match e with
    | .setting f o v => if f = fi then some (o, v) else none
    | _ => none)

/-- Tables of one copy take the staged image. -/
def Copy.switchTo (c : Copy) : Copy :=
  match c.newAreas with
  | some a =>
    { c with areas := a, span := if c.newSpan = 0 then c.span else c.newSpan, newAreas := none, newSpan := 0,
             oldAreas := some c.areas }
  | none => c

/-- The switch latch of an instance: a REPLACE takes its new image, with CHANGED where it runs; a REMOVE stops; an ADD starts
by its start latch. The answer says whether this is the switch latch (its SETTING entries are due). -/
def State.switchLatch (s : State) (fi n : Nat) (x : Inst) : Inst × Bool :=
  if !s.switched n || x.firstNew.isSome then (x, false)
  else
    match s.prog.change.entries.find? (fun e => match e with
      | .setting .. => false
      | e => e.fi == fi) with
    | some (.replace _ image) =>
      let runs := x.run == .running || x.run == .stopping
      ({ x with image := image, wcic := imgWcic (s.imageD image), codeBytes := imgCode (s.imageD image),
                imageBytes := imgImageBytes (s.imageD image), newImage := none,
                copies := x.copies.map Copy.switchTo, changed := runs, firstNew := some n }, true)
    | some (.add _) => ({ x with firstNew := some n }, true)
    | some (.remove _) =>
      ({ x with run := if x.isRunning then .stopped else x.run, nextTick := 0, removeNext := true, firstNew := some n }, false)
    | _ => (x, false)

/-! ### Step 3: run state and initialisation (R213, R217) -/

/-- Run state at latch `n`, and the initialisation due. -/
def Inst.runLatch (x : Inst) (n : Nat) : Inst × Option StartMode :=
  if x.faultNext then
    ({ x with run := if x.isRunning then .faulted else x.run, faultNext := false, nextTick := 0, warmAfter := none,
              coldNext := false }, none)
  else if x.run == .starting && decide (x.nextTick ≤ n) then
    ({ x with run := .running, nextTick := 0, published := false, warmAfter := none, coldNext := false, faultCode := 0,
              snapSecond := ceilDiv (boundaryQ n) (1000000000 * qNs) - 1 }, some x.mode)
  else if x.run == .stopping && decide (x.nextTick ≤ n) then ({ x with run := .stopped, nextTick := 0 }, none)
  else if x.run == .running || x.run == .stopping then
    if x.coldNext then ({ x with coldNext := false, warmAfter := none }, some .cold)
    else
      match x.warmAfter with
      | some b => if b < n then ({ x with warmAfter := none }, some .warm) else (x, none)
      | none => (x, none)
  else (x, none)

/-- The retain region laid over initial DATA (from offset 0x20). -/
def overlay (init retain : Bytes) (off : Nat) : Bytes :=
  init.take (off - 0x20) ++ retain ++ init.drop (off - 0x20 + retain.length)

/-- What an initialisation writes from DATA offset 0x20 of every copy, CYCLE before the first cycle, ENTRY_FLAGS (R217). -/
def State.initOf (s : State) (fi : Nat) (x : Inst) (m : StartMode) : Option Bytes × Nat × Nat :=
  let b := s.imageD x.image
  match m with
  | .resume => (none, x.cycleNo, 0)
  | .cold => (some (imgInit b), 0, 1)
  | .warm =>
    match s.warmRecord fi x.image with
    | some r => (some (overlay (imgInit b) r.data (imgRetainOff b)), r.cycle, 2)
    | none => (some (imgInit b), 0, 1)

/-! ### Settings (R219) -/

/-- Writes the settings due at latch `n` (all of them where `all`) into every copy, records them and lets their commands
finish. -/
def State.writeSettings (s : State) (fi n : Nat) (all : Bool) : State :=
  match s.inst fi with
  | none => s
  | some x =>
    let due := x.setWrites.filter (fun w => all || decide (w.tick ≤ n))
    let s := s.setInst fi { x with setWrites := x.setWrites.filter (fun w => !(all || decide (w.tick ≤ n)))
                                   snapDue := if due = [] then x.snapDue else some n }
    due.foldl (fun s w =>
      let s := s.writeDataAll x w.offset w.value
      let s := { s with origin := w.origin }.post 0x0303 (le 2 fi ++ le 2 w.offset ++ le 2 w.value.length ++ le 8 w.tick)
      { s with origin := 0xFF }.finishWait (.settings fi w.tick) (0, 0, [])) s

/-! ### Step 6 and the cycle -/

/-- The instance data header (06 R156). -/
def dataHeader (fi image hash cycle flags : Nat) : Bytes :=
  le 2 fi ++ zeros 2 ++ le 4 image ++ le 8 hash ++ le 8 cycle ++ le 4 flags ++ zeros 4

/-- The copies that take part in a cycle. -/
def State.partsOf (s : State) (x : Inst) : List Part :=
  (List.range x.copies.length).filterMap (fun i => (x.copies[i]?).bind (fun c =>
    c.live.bind (fun p => if (s.eng p.1).st = .failed then none else some { k := i + 1, eng := p.1, areas := p.2, span := c.span })))

/-- Freezes the half that holds this latch's image on every copy (R224 step 1). -/
def State.freeze (s : State) (fi : Nat) (half : Bytes) : State :=
  match s.inst fi with
  | none => s
  | some x =>
    (List.range x.copies.length).foldl (fun s i =>
      match (x.copies[i]?).bind (fun c => c.live.map (fun p => (c, p))) with
      | none => s
      | some (c, (e, a)) =>
        let f := 1 - min c.frozen 1
        (s.engWrite e (a.inBase + a.inBytes * f) half).modInst fi (fun x => x.modCopy (i + 1) (fun c => { c with frozen := f }))) s

/-- Copies that moved and now run their first cycle are recorded (21 R489). -/
def State.noteMoved (s : State) (fi : Nat) (ps : List Part) : State :=
  ps.foldl (fun s p =>
    match (s.inst fi).bind (fun x => x.copy p.k) with
    | some c =>
      if c.moved && c.st == .running then
        (s.modInst fi (fun x => x.modCopy p.k (fun c => { c with moved := false }))).post 0x0207
          (le 2 fi ++ le 1 p.k ++ engBytes p.eng)
      else s
    | none => s) s

/-- Keeps the cycles that can still be judged or published, and adds one. -/
def Inst.addCycle (x : Inst) (c : Cycle) : Inst :=
  { x with cycles := x.cycles.drop (x.cycles.length - 7) ++ [c], lastTick := some c.tick }

/-- The cycle of latch `n` begins, or does not run (R213, R215). -/
def State.beginCycle (s : State) (fi n : Nat) (flags : Nat) : State :=
  match s.inst fi with
  | none => s
  | some x =>
    let half := s.imageHalf x n
    let ps := s.partsOf x
    let s := s.freeze fi half
    if (x.run == .running || x.run == .stopping) && ps != [] then
      let b := s.imageD x.image
      let flags := flags + 4 * boolNat x.changed
      let hdr := dataHeader fi x.image (imgHash b) (x.cycleNo + 1) flags
      let s := ps.foldl (fun s p => s.engWrite p.eng p.areas.dataBase hdr) s
      let c : Cycle := { tick := n, ran := true, cyc := x.cycleNo + 1, image := x.image, who := ps, displaced := [],
                         imgCrc := crc32c half, posts := [none, none, none], verdict := none }
      let s := s.modInst fi (fun x => { x.addCycle c with cycleNo := x.cycleNo + 1, changed := false }.settle)
      s.noteMoved fi ps
    else
      let c : Cycle := { tick := n, ran := false, cyc := x.cycleNo, image := x.image, who := [], displaced := [], imgCrc := 0,
                         posts := [], verdict := some .withheld }
      s.modInst fi (fun x => { x.addCycle c with safeFrom := some (x.safeFrom.getD n) }.settle)

/-- Latch `n` of an instance, in the order of R224. -/
def State.latch (s : State) (fi n : Nat) : State :=
  match s.inst fi with
  | none => s
  | some x0 =>
    let (x1, due) := s.switchLatch fi n x0
    let (x, mode) := x1.runLatch n
    let s := s.setInst fi x
    let s := if x0.run == .stopping && x.run == .stopped && !x.removeNext then s.commitRetained fi else s
    let s := if !x.isRunning then s.writeSettings fi n true else s
    let (s, flags) := match mode with
      | none => (s, 0)
      | some m =>
        let (data, cyc, flags) := s.initOf fi x m
        let s := match data with
          | some p => s.writeDataAll x 0x20 p
          | none => s
        let s := if m == StartMode.warm && x0.warmAfter.isSome then s.post 0x0305 (le 2 fi ++ le 8 n) else s
        let s := if m == StartMode.warm && flags == 1 then s.post 0x0302 (le 2 fi) else s
        (s.modInst fi (fun x => { x with cycleNo := cyc }), flags)
    let s := if due then (s.changeSettings fi).foldl (fun (s : State) w => s.writeDataAll x w.1 w.2) s else s
    let s := s.writeSettings fi n false
    s.beginCycle fi n flags

/-! ### Copies (06 R155 to R159) -/

/-- The registers of a PE at entry (06 R155). -/
def entryPe (flags : Nat) : PeRegs :=
  { g := [0, BitVec.ofNat 32 flags, 0x10000000, 0x20000000, 0x30000000] ++ List.replicate 27 0 }

/-- ENTRY_FLAGS as the header in DATA holds them. -/
def State.entryFlags (s : State) (p : Part) : Nat := u32 (memReadN (s.eng p.eng).mem (p.areas.dataBase + 0x18) 4) 0

/-- A copy gives up its slot (11 R282). -/
def Cycle.displace (c : Cycle) (k : Nat) : Cycle :=
  if c.displaced.contains k || (c.posts.getD (k - 1) none).isSome || c.verdict.isSome then c
  else { c with displaced := k :: c.displaced }

def State.modCycle (s : State) (fi n : Nat) (f : Cycle → Cycle) : State :=
  s.modInst fi (fun x => { x with cycles := x.cycles.map (fun c => if c.tick = n then f c else c) })

/-- A copy starts on its engine (06 R159): entry state, OUTPUT window cleared whole, IMAGE window on the frozen half. -/
def State.startCopy (s : State) (fi : Nat) (x : Inst) (c : Cycle) (p : Part) : State :=
  let flags := s.entryFlags p
  let frozen := ((x.copy p.k).map (·.frozen)).getD 0
  let b := s.imageD c.image
  let run : Exec := { fi := fi, copy := p.k, tick := c.tick, flags := flags, areas := p.areas, frozen := frozen, wcic := x.wcic,
                      cycle := x.cycle, span := p.span, pc := imgEntry b, ic := 0, log := [], exc := none }
  (s.engWrite p.eng p.areas.outBase (zeros ((4 * p.areas.outWords + 31) / 32 * 32))).modEng p.eng (fun g =>
    { g with phase := .running, exec := some run, pe := entryPe flags, lsr := {} })

/-- The start of copy `k` in the latest cycle of an instance, if its instant has come and its engine is free. -/
def State.copyStart (s : State) (fi k : Nat) : State :=
  match s.inst fi with
  | none => s
  | some x =>
    match x.cycles.getLast? with
    | none => s
    | some c =>
      match c.who.find? (fun p => p.k == k) with
      | none => s
      | some p =>
        let g := s.eng p.eng
        let at_ := boundaryQ c.tick + startOffset x.cls k * 100 * qNs
        let used := c.displaced.contains k || (c.posts.getD (k - 1) none).isSome || c.verdict.isSome
        if used || !s.reached at_ || g.phase != .idle || g.st == .failed then s
        else if (g.diagDue.map (fun b => decide (c.tick ≤ b) && decide (b < c.tick + p.span))).getD false then
          s.modCycle fi c.tick (fun c => c.displace k)
        else s.startCopy fi x c p

/-- The span of the copy on an engine ends (06 R159, R548). -/
def State.spanEnd (s : State) (e : Eng) : State :=
  match (s.eng e).exec with
  | none => s
  | some x =>
    if !s.reached (boundaryQ (x.tick + x.span)) then s
    else
      let late := (s.eng e).phase == .running || (s.eng e).phase == .signing
      let s := if late then s.raiseExc e x xDeadline 0 0 else s
      s.modEng e (fun g => { g with phase := .idle, exec := none })

end Sys2Proof.Machine
end

