-- ==== Sys2Proof/Machine/AnvilOps.lean ====
section
/-! DEFINITION. Anvil: agreement, release, faults and what follows them (11 R273 to R292). -/
namespace Sys2Proof.Machine

/-! ### Fault classes (R303) -/
def fcEngine := 1
def fcHardware := 2
def fcDeadline := 3
def fcTransient := 4
def fcPoison := 5
def fcInstance := 6
def fcComparator := 7
def fcDelay := 8
def fcCross := 9
def fcLatent := 10
def fcDisplaced := 12
def fcOutput := 13

/-! ### Results (R273, R182) -/

/-- CODE of a result's exception record; 0 without exception. -/
def Posted.code (p : Posted) : Nat := (p.exc.map (fun r => byteAt r 0)).getD 0

/-- HARDWARE or DEADLINE. -/
def Posted.hard (p : Posted) : Bool := p.code == xHardware || p.code == xDeadline
def Posted.poison (p : Posted) : Bool := p.code == xPoison || p.code == xFetchPoison

/-- Two results agree (R273, R182). -/
def Posted.agrees (a b : Posted) : Bool :=
  !a.hard && !b.hard && a.exc.isSome == b.exc.isSome && a.sig == b.sig && a.outCrc == b.outCrc

/-- The result of copy `k`. -/
def Cycle.post (c : Cycle) (k : Nat) : Option Posted := c.posts.getD (k - 1) none

/-- The copies with results, in copy order; a copy that gave up its slot has none (R282). -/
def Cycle.live (c : Cycle) : List (Part × Posted) :=
  c.who.filterMap (fun p => if c.displaced.contains p.k then none else (c.post p.k).map (fun r => (p, r)))

/-- The lowest copy that agrees with another, with every copy that agrees with it. -/
def agreeing (l : List (Part × Posted)) : Option (List (Part × Posted)) :=
  l.findSome? (fun a =>
    let g := l.filter (fun b => a.2.agrees b.2)
    if g.length ≥ 2 then some g else none)

/-! ### Records -/

/-- The engines of copies 1 to 3 in a VERDICT record (21 R489). -/
def cpsBytes (cps : List (Option Eng)) : Bytes :=
  (List.range 3).flatMap (fun i => match cps.getD i none with
    | some e => engBytes e
    | none => le 3 0xFFFFFF)

def Cycle.cps (c : Cycle) : List (Option Eng) := (List.range 3).map (fun i => (c.who.find? (fun p => p.k == i + 1)).map (·.eng))

/-- A record that an injection may have caused (21 R482). -/
def State.postInj (s : State) (inj : Bool) (code : Nat) (data : Bytes) : State :=
  { { s with injected := inj }.post code data with injected := false }

/-- The class of a cycle's fault: the instance's last fault, the VERDICT record, and the class counter where no engine's
failure counts it (R280, R303). An instance fault in the first cycle after an on-line switch is kept for its report (08
R227). -/
def State.verdictFault (s : State) (fi tick : Nat) (cps : List (Option Eng)) (cls : Nat) (inj : Bool) : State :=
  let s := s.modInst fi (fun x => { x with lastFault := cls, lastFaultTick := tick })
  let s := s.postInj inj 0x0801 (le 2 fi ++ le 2 cls ++ le 8 tick ++ cpsBytes cps)
  let first := ((s.inst fi).bind (·.firstNew)) == some tick
  let s := if cls == fcInstance && first then { s with prog.change.faultCls := cls } else s
  if cls ≤ 3 || cls == fcDisplaced then s else s.countFault cls

/-- The cycle's result as the pair compares it (12 R307). -/
def State.noteResult (s : State) (fi : Nat) (c : Cycle) (held : Bool) (r : Option Posted) : State :=
  let sr : ShadowResult := { tick := c.tick, held := held, sig := (r.map (·.sig)).getD 0, outCrc := (r.map (·.outCrc)).getD 0,
                             imgCrc := c.imgCrc }
  if s.inControl then s.pairSend (recResult fi sr)
  else if s.pair.st == .unpaired then s
  else { s with pair.results := s.pair.results.put fi (sr :: ((s.pair.results.getD fi []).take 31)) }

/-- The cycle is withheld (R274, R280). -/
def State.withhold (s : State) (fi : Nat) (c : Cycle) : State :=
  (((s.modCycle fi c.tick (fun c => { c with verdict := some .withheld })).modInst fi (fun x =>
    { x with withheld := inc32 x.withheld })).bump 0x00C).noteResult fi c true none

/-- An instance fault (06 R183): record, interrupt, FAULTED from the next latch. -/
def State.instanceFault (s : State) (fi : Nat) (r : Posted) : State :=
  match s.inst fi with
  | none => s
  | some x =>
    if !x.isRunning || x.faultNext then s
    else
      (((s.setInst fi { x with faultNext := true, faultCode := r.code }).post 0x0301
        (le 2 fi ++ zeros 2 ++ r.exc.getD (zeros 16))).bump 0x00B).raiseInt 130

/-! ### Release (R274, R275, 08 R218) -/

/-- The publisher reads the OUTPUT window of a released copy and checks it (R275). A copy that has begun its next cycle was
read before. -/
def State.outputOk (s : State) (fi : Nat) (c : Cycle) (p : Part) (r : Posted) : Bool × State :=
  let g := s.eng p.eng
  let later := (g.exec.map (fun x => x.fi == fi && x.copy == p.k && decide (x.tick > c.tick))).getD false
  if later then (true, s)
  else
    match s.readRange (p.eng.base + p.areas.outBase) (4 * p.areas.outWords) with
    | (true, s) => (false, s)
    | (false, s) => (crc32c (memReadN (s.eng p.eng).mem p.areas.outBase (4 * p.areas.outWords)) == r.outCrc, s)

/-- The snapshot of an accepted cycle, and its commit where one is due (08 R218). -/
def State.snapshot (s : State) (fi : Nat) (c : Cycle) (r : Posted) : State :=
  match s.inst fi with
  | none => s
  | some x =>
    let rec_ : Retained := { hash := imgHash (s.imageD c.image), image := c.image, cycle := c.cyc, tick := c.tick, data := r.data }
    let sec := boundaryQ c.tick / (1000000000 * qNs)
    let second := x.run == .running && decide (sec > x.snapSecond)
    let asked := (x.snapDue.map (fun n => decide (n ≤ c.tick))).getD false
    let s := s.setInst fi { x with
      lastGood := some rec_, snapSecond := if second then sec else x.snapSecond,
      snapDue := if asked then none else x.snapDue }
    if second || asked || x.run == .stopped then s.commitRetained fi else s

/-- Instance data for a partner that synchronises, in DATA records of 350 words; OFFSET counts words (12 R307, R319). -/
def State.sendData (s : State) (fi tick : Nat) (e : Eng) (a : Areas) : State :=
  let b := memReadN (s.eng e).mem a.dataBase a.dataBytes
  (List.range (ceilDiv b.length 1400)).foldl (fun s i => s.pairSend (recData fi tick (350 * i) (slice b (1400 * i) 1400)))
    { s with pair.needData := s.pair.needData.filter (· != fi) }

/-- The data of a released copy go to a partner that asked for them by synchronising (12 R319). -/
def State.dataFor (s : State) (fi : Nat) (c : Cycle) (p : Part) : State :=
  if s.inControl && s.pair.needData.contains fi then s.sendData fi c.tick p.eng p.areas else s

/-- The first copy whose OUTPUT window passes is released (R274, R275); with none, the cycle is withheld. -/
def State.release (s : State) (fi : Nat) (c : Cycle) (inj : Bool) : List (Part × Posted) → State
  | [] => (s.withhold fi c).verdictFault fi c.tick c.cps fcOutput inj
  | (p, r) :: l =>
    match s.outputOk fi c p r with
    | (false, s) => State.release s fi c inj l
    | (true, s) =>
      (((s.modCycle fi c.tick (fun c => { c with verdict := some (.released r.outs), accepted := p.k })).snapshot fi c r).noteResult
        fi c false (some r)).dataFor fi c p

/-! ### Engines and data after a verdict -/

/-- Engines reported together are taken in ascending (cluster, engine) order (03 R87). -/
def engBefore (a b : Eng) : Bool := decide (a.cc < b.cc) || (a.cc == b.cc && (decide (a.no < b.no) || (a.no == b.no && !a.ls)))

def State.failEngines (s : State) (l : List (Eng × Nat)) : State :=
  (sortBy (fun a b => engBefore a.1 b.1) l).foldl (fun s e => s.failEngine e.1 e.2) s

/-- A copy takes its instance data again from another (R284, R285); a poisoned one is loaded again in full lines. The
instance runs on its other copies until then. -/
def State.reload (s : State) (fi k : Nat) (codeIn : Bool) : State :=
  match s.inst fi with
  | none => s
  | some x =>
    if !s.copyHealthy x k then s
    else
      let y := x.modCopy k (fun c => { c with st := .loading, codeIn := codeIn, moved := false, lag := none })
      s.setInst fi { y with place := x.tempState (s.survivors x k).length }

/-- Self-diagnosis of engines is called for (R282): at the first tick boundary after the verdict. -/
def State.diagnose (s : State) (fi : Nat) (c : Cycle) (ps : List Part) (good : Option (Nat × Nat)) (inj : Bool) : State :=
  let due := s.tickNow + 1
  let es := (ps.map (·.eng)).filter (fun e => (s.eng e).st != .failed)
  let s := es.foldl (fun s e => s.modEng e (fun g => { g with diagDue := some (g.diagDue.getD due) })) s
  { s with anvil.diags := s.anvil.diags ++
      [{ fi := fi, tick := c.tick, engs := es, due := due, results := [], good := good, cps := c.cps, injected := inj }] }

/-! ### Lanes (R288 to R290) -/

/-- The instance of lowest rank among those placed (03 R84). -/
def State.lowestPlaced (s : State) : Option Nat :=
  ((sortBy (fun a b => ranksBelow a.2 b.2) (s.place.insts.filter (fun p => p.2.isPlaced))).map (·.1)).head?

/-- Instances without a lane take the lowest free one, in order; while there is none, the instance of lowest rank is shed
(R289). -/
def State.giveLanes : Nat → State → List Nat → State
  | 0, s, _ => s
  | _ + 1, s, [] => s
  | fuel + 1, s, fi :: l =>
    if !((s.inst fi).map (·.isPlaced)).getD false then State.giveLanes fuel s l
    else
      match s.freeLane with
      | some _ => State.giveLanes fuel (s.takeLane fi) l
      | none =>
        match s.lowestPlaced with
        | none => s
        | some v => State.giveLanes fuel (s.shed v fi) (fi :: l)

/-- Instances on a comparator, in lane order. -/
def State.onCmp (s : State) (c : Nat) : List (Nat × Nat) :=
  sortBy (fun a b => decide (a.1 ≤ b.1)) (s.place.insts.filterMap (fun p => match p.2.cmp with
    | some (d, l) => if d = c then some (l, p.1) else none
    | none => none))

/-- A comparator fails (R288, R289): its lanes move to the lowest spare, which comes into service, else each to the lowest
free lane. The two ticks are a bound: the move is done at once. -/
def State.comparatorFault (s : State) (c : Nat) (inj : Bool) : State :=
  let ms := s.onCmp c
  let s := { s with anvil.cmps := setAt s.anvil.cmps c .failed }
  match (List.range 48).find? (fun i => s.anvil.cmps[i]? == some .spare) with
  | some n =>
    let s := { s with anvil.cmps := setAt s.anvil.cmps n .inService }
    let s := (s.postInj inj 0x0802 (le 1 c ++ le 1 n)).bump 0x00A
    let s := ms.foldl (fun s m => s.modInst m.2 (fun x =>
      { x with cmp := if s.anvil.retired.contains (n, m.1) then none else some (n, m.1) })) s
    State.giveLanes (2 * ms.length) s ((ms.filter (fun m => s.anvil.retired.contains (n, m.1))).map (·.2))
  | none =>
    let s := (s.postInj inj 0x0802 (le 1 c ++ le 1 0xFF)).bump 0x00A
    let s := ms.foldl (fun s m => s.modInst m.2 (fun x => { x with cmp := none })) s
    State.giveLanes (ms.length + s.place.insts.length + 1) s (ms.map (·.2))

/-- The lagging copy moves to a spare while Zenith can move it (R290, 03 R82). -/
def State.moveLagging (s : State) (fi : Nat) : State :=
  match s.inst fi with
  | none => s
  | some x =>
    let k := x.copies.length
    match (x.copy k).bind (·.eng) with
    | none => s
    | some e =>
      if x.ls || !s.copyHealthy x k then s
      else
        match s.cmd.mgmt with
        | .running => s.moveLag fi k
        | .restarting => { s with place.failing := s.place.failing ++ [(e, 4 * fi + k)] }
        | .lost => s

/-- What a delay-buffer fault does beside the verdict (R290): record, the lane retired, a new lane, the lagging copy moved. -/
def State.bufferFault (s : State) (fi : Nat) (inj : Bool) : State :=
  match (s.inst fi).bind (·.cmp) with
  | none => s
  | some (c, l) =>
    let s := s.postInj inj 0x0803 (le 2 fi ++ le 1 c ++ le 1 l)
    let s := { s with anvil.retired := (c, l) :: s.anvil.retired }.modInst fi (fun x => { x with cmp := none })
    (State.giveLanes (s.place.insts.length + 2) s [fi]).moveLagging fi

/-! ### FATAL_CONTAINMENT (R291, R292) -/

/-- The two halves of the hub disagree. -/
def State.fatalContainment (s : State) (inj : Bool) : State :=
  if s.anvil.hub = .fatal then s
  else
    let s := s.giveUp 1
    let s := { s with anvil.hub := .fatal }.countFault fcCross
    ((s.postInj inj 0x0804 []).bump 0x00E).setLine 770 true

/-! ### The verdict (R274, R279, R280) -/

/-- Class of a result that is HARDWARE or DEADLINE. -/
def Posted.hardClass (p : Posted) : Nat := if p.code = xHardware then fcHardware else fcDeadline

/-- One copy only: S, or what runs on its survivor (R274, R280). -/
def State.judgeOne (s : State) (fi : Nat) (c : Cycle) (inj : Bool) : State :=
  match c.live with
  | [] => (s.withhold fi c).verdictFault fi c.tick c.cps fcDisplaced inj
  | (p, r) :: _ =>
    if r.exc.isNone then s.release fi c inj [(p, r)]
    else if r.hard then
      ((s.withhold fi c).verdictFault fi c.tick c.cps r.hardClass inj).failEngines [(p.eng, r.hardClass)]
    else ((s.withhold fi c).verdictFault fi c.tick c.cps fcInstance inj).instanceFault fi r

/-- The copy that an agreeing pair outvotes (R280). -/
def State.dissent (s : State) (fi : Nat) (c : Cycle) (good : Nat) (p : Part) (r : Posted) (inj : Bool) : State :=
  let s := s.modInst fi (fun x => { x with masked := inc32 x.masked })
  if r.hard then (s.verdictFault fi c.tick c.cps r.hardClass inj).failEngines [(p.eng, r.hardClass)]
  else if r.poison then (s.verdictFault fi c.tick c.cps fcPoison inj).reload fi p.k false
  else s.diagnose fi c [p] (some (good, p.k)) inj

/-- No two copies agree (R280): HARDWARE and DEADLINE fail their engines; a poisoned copy takes the data of one without
poison; the other engines are diagnosed, but not the survivor of a pair. -/
def State.disagree (s : State) (fi : Nat) (c : Cycle) (inj : Bool) : State :=
  let live := c.live
  let hard := live.filter (fun a => a.2.hard)
  let rest := live.filter (fun a => !a.2.hard)
  let pois := rest.filter (fun a => a.2.poison)
  let clean := rest.filter (fun a => !a.2.poison)
  let s := (s.withhold fi c).modInst fi (fun x => { x with mismatches := inc32 x.mismatches })
  let repair := pois != [] && clean != []
  let s := match hard with
    | (_, r) :: _ => s.verdictFault fi c.tick c.cps r.hardClass inj
    | [] => if repair then s.verdictFault fi c.tick c.cps fcPoison inj else s
  let s := s.failEngines (hard.map (fun a => (a.1.eng, a.2.hardClass)))
  let s := if repair then pois.foldl (fun s a => s.reload fi a.1.k false) s else s
  let todo := if repair then clean else rest
  if todo = [] || (c.who.length == 2 && (hard != [] || repair)) then s
  else s.diagnose fi c (todo.map (·.1)) none inj

/-- The vote or comparison on two or three results (R274, R280, R282). -/
def State.judgeMany (s : State) (fi : Nat) (c : Cycle) (inj : Bool) : State :=
  let live := c.live
  match agreeing live with
  | some ((p, r) :: g) =>
    if r.exc.isSome then ((s.withhold fi c).verdictFault fi c.tick c.cps fcInstance inj).instanceFault fi r
    else
      let s := s.release fi c inj ((p, r) :: g)
      match live.find? (fun a => !(a.1.k == p.k || g.any (fun b => b.1.k == a.1.k))) with
      | some (q, u) => s.dissent fi c p.k q u inj
      | none => s
  | _ =>
    if live.length < 2 && !live.any (fun a => a.2.hard) then
      (s.withhold fi c).verdictFault fi c.tick c.cps fcDisplaced inj
    else s.disagree fi c inj

/-- A verdict whose delay buffer failed (R290): withheld, but where one entry of three failed and the other two agree. -/
def State.judgeBuffer (s : State) (fi : Nat) (c : Cycle) (bad : List Nat) (inj : Bool) : State :=
  let rest := c.live.filter (fun a => !bad.contains a.1.k)
  let s := match agreeing rest with
    | some ((p, r) :: g) =>
      if r.exc.isSome then (s.withhold fi c).instanceFault fi r else s.release fi c inj ((p, r) :: g)
    | _ => s.withhold fi c
  (s.verdictFault fi c.tick c.cps fcDelay inj).bufferFault fi inj

/-- Takes an armed injection, if one acts. -/
def State.takeInjection (s : State) (type target tick : Nat) : Bool × State :=
  if s.anvil.injections.any (·.acts type 0 target tick) then
    (true, { s with anvil.injections := s.anvil.injections.filter (fun j => !j.acts type 0 target tick) })
  else (false, s)

/-- The verdict of a cycle whose copies have all posted or given up their slots. `probe` says whether the lane's probe
passed, `bad` which waiting entries of the delay buffer failed. -/
def State.judge (s : State) (fi : Nat) (c : Cycle) (probe : Bool) (bad : List Nat) : State :=
  match s.inst fi with
  | none => s
  | some x =>
    let inj := c.live.any (fun a => a.2.inj)
    let s := s.setInst fi { x with compared := inc32 x.compared, displaced := satAdd 32 x.displaced c.displaced.length }
    let s := if c.displaced = [] then s else c.displaced.foldl (fun s _ => s.countFault fcDisplaced) s
    if s.anvil.hub = .fatal then s.withhold fi c
    else
      let cmp := (x.cmp.map (·.1)).getD 0xFF
      let (hitP, s) := s.takeInjection 3 cmp c.tick
      if x.cmp.isSome && (!probe || hitP) then
        ((s.withhold fi c).verdictFault fi c.tick c.cps fcComparator hitP).comparatorFault cmp hitP
      else
        let waiting := (c.live.map (fun a => a.1.k)).dropLast
        let (hitB, s) := if waiting = [] then (false, s) else s.takeInjection 4 fi c.tick
        let bad := bad.filter waiting.contains ++ (if hitB then waiting.take 1 else [])
        if bad ≠ [] then s.judgeBuffer fi c bad hitB
        else if c.who.length ≤ 1 then s.judgeOne fi c inj
        else s.judgeMany fi c inj

/-- Is every result of a cycle in? -/
def Cycle.complete (c : Cycle) : Bool :=
  c.ran && c.verdict.isNone && c.who.all (fun p => c.displaced.contains p.k || (c.post p.k).isSome)

/-! ### Outcomes of diagnosis (R283, R284) -/

/-- An engine counts the transient of its run at boundary `due`, once; the third within 60 s (5 760 000 ticks) makes it
FAILED. -/
def State.countTransient (s : State) (due : Nat) (e : Eng) : State :=
  let g := s.eng e
  if g.transients.contains due then s
  else
    let ts := due :: g.transients.filter (fun t => decide (due < t + 5760000))
    let s := s.setEng e { g with transients := ts }
    if ts.length ≥ 3 then s.failEngine e fcEngine else s

/-- A diagnosis that has all its results is concluded. -/
def State.conclude (s : State) (d : Diag) : State :=
  let bad := d.engs.filter (fun e => d.results.any (fun r => r.1 == e && !r.2))
  if bad ≠ [] || d.engs = [] then
    (s.verdictFault d.fi d.tick d.cps fcEngine d.injected).failEngines (bad.map (fun e => (e, fcEngine)))
  else
    let s := s.verdictFault d.fi d.tick d.cps fcTransient d.injected
    let s := s.modInst d.fi (fun x => { x with transients := inc32 x.transients })
    let s := match d.good with
      | some (_, k) => s.reload d.fi k true
      | none => s.modInst d.fi (fun x => { x with warmAfter := some d.due })
    (sortBy engBefore d.engs).foldl (fun s e => s.countTransient d.due e) s

/-- The result of one engine's run enters every diagnosis that waits for it (R282). -/
def State.diagResult (s : State) (e : Eng) (pass : Bool) : State :=
  let ds := s.anvil.diags.map (fun d =>
    if d.engs.contains e && !d.results.any (fun r => r.1 == e) then { d with results := d.results ++ [(e, pass)] } else d)
  let done (d : Diag) : Bool := d.results.length ≥ d.engs.length
  let s := { s with anvil.diags := ds.filter (fun d => !done d) }
  (ds.filter done).foldl State.conclude s

end Sys2Proof.Machine
end

