-- ==== Sys2Proof/Machine/HostDma.lean ====
section
/-! DEFINITION. Bus-master DMA (18 R446 to R449): translation by the tables in host memory, the translation cache, dirty
logging, and the delivery of replies (R444). -/
namespace Sys2Proof.Machine

def State.hif (s : State) (vi : Nat) : Hif := s.host.hifs.getD vi {}
def State.tu (s : State) (vi : Nat) : Tu := s.host.tus.getD vi {}
def State.setHif (s : State) (vi : Nat) (h : Hif) : State := { s with host.hifs := s.host.hifs.put vi h }
def State.setTu (s : State) (vi : Nat) (t : Tu) : State := { s with host.tus := s.host.tus.put vi t }

/-- Is the function of a VI there: VI00 always, VI01 to VI63 as far as VF Enable has enabled them (R437). -/
def State.viPresent (s : State) (vi : Nat) : Bool := vi == 0 || (decide (vi ≤ s.host.numVfs) && decide (vi ≤ 63))

/-- A 64-bit table entry in host memory, by bus address. -/
def State.hostQword (s : State) (a : Nat) : Nat := leNat (memReadN s.host.mem a 8)

/-- A translation fault counts and latches the IOVA (R448). -/
def State.tuFault (s : State) (vi iova : Nat) : State :=
  let t := s.tu vi
  let s := s.setTu vi { t with faults := inc32 t.faults, faultAddr := iova }
  s.setHif vi { s.hif vi with tuFaultCount := inc32 (s.hif vi).tuFaultCount }

/-- Reserved bits of a table entry are 0 (R447). -/
def entryOk (e : Nat) : Bool := bit e 0 && bitsOf e 3 9 == 0 && bitsOf e 52 12 == 0

/-- The table walk of R447: the page's bus address, whether it is a 2 MB page, whether it may be written. -/
def State.walk (s : State) (root iova : Nat) : Option (Nat × Bool × Bool) :=
  let e1 := s.hostQword (root + 8 * bitsOf iova 30 9)
  if !entryOk e1 || bit e1 2 then none
  else
    let e2 := s.hostQword (bitsOf e1 12 40 * 4096 + 8 * bitsOf iova 21 9)
    if !entryOk e2 then none
    else if bit e2 2 then
      if bitsOf e2 12 9 = 0 then some (bitsOf e2 12 40 * 4096, true, bit e1 1 && bit e2 1) else none
    else
      let e3 := s.hostQword (bitsOf e2 12 40 * 4096 + 8 * bitsOf iova 12 9)
      if entryOk e3 && bit e3 2 then some (bitsOf e3 12 40 * 4096, false, bit e1 1 && bit e2 1 && bit e3 1) else none

def TuEntry.hits (e : TuEntry) (vi iova : Nat) : Bool :=
  e.vi == vi && (if e.big then e.page == iova / 2 ^ 21 else e.page == iova / 2 ^ 12)

/-- Translates an IOVA of a VI for a read or a write, through the cache (R448, least recently used last), and logs the
page of a write when dirty logging is on (R449). -/
def State.translate (s : State) (vi iova : Nat) (write : Bool) : Option Nat × State :=
  let t := s.tu vi
  if t.mode = 2 ∧ vi = 0 then (some iova, s)
  else if t.mode ≠ 1 ∨ iova ≥ 2 ^ 39 then (none, s.tuFault vi iova)
  else
    let found :=
      match s.host.cache.find? (fun e => e.hits vi iova) with
      | some e => some e
      | none => (s.walk t.root iova).map (fun (x : Nat × Bool × Bool) =>
          ({ vi := vi, page := if x.2.1 then iova / 2 ^ 21 else iova / 2 ^ 12, big := x.2.1, bus := x.1,
             write := x.2.2 } : TuEntry))
    match found with
    | none => (none, s.tuFault vi iova)
    | some e =>
      let s := { s with host.cache := (e :: s.host.cache.filter (fun x => !x.hits vi iova)).take 4096 }
      if write && !e.write then (none, s.tuFault vi iova)
      else if write && t.dirtyEn && decide (iova / 4096 ≥ t.span) then (none, s.tuFault vi iova)
      else
        let off := if e.big then iova % 2 ^ 21 else iova % 2 ^ 12
        let s :=
          if write && t.dirtyEn then
            let a := (if t.active != t.swapBusy then t.dirtyB else t.dirtyA) + iova / 4096 / 8
            let v := BitVec.ofNat 8 ((memRead s.host.mem a).toNat ||| 2 ^ (iova / 4096 % 8))
            { s with host.mem := memWrite s.host.mem a v }
          else s
        (some (e.bus + off), s)

/-- A device write of an instance, page by page; false once a page faults (R446: a request that faults is not issued). -/
def State.dmaPages : Nat → State → Nat → Nat → Bytes → Bool × State
  | 0, s, _, _, _ => (true, s)
  | fuel + 1, s, vi, iova, p =>
    if p = [] then (true, s)
    else
      let n := min p.length (4096 - iova % 4096)
      match s.translate vi iova true with
      | (none, s) => (false, s)
      | (some bus, s) =>
        State.dmaPages fuel { s with host.mem := memWriteN s.host.mem bus (p.take n) } vi (iova + n) (p.drop n)

def State.dmaWrite (s : State) (vi iova : Nat) (p : Bytes) : Bool × State :=
  match s.dmaPages (p.length + 1) vi iova p with
  | (true, s) => (true, s.emit (.dma vi iova p))
  | (false, s) => (false, s)

/-- A device read, page by page: the bytes, or none once a page faults. -/
def State.dmaReadPages : Nat → State → Nat → Nat → Nat → Option Bytes × State
  | 0, s, _, _, _ => (some [], s)
  | fuel + 1, s, vi, iova, len =>
    if len = 0 then (some [], s)
    else
      let n := min len (4096 - iova % 4096)
      match s.translate vi iova false with
      | (none, s) => (none, s)
      | (some bus, s) =>
        match State.dmaReadPages fuel s vi (iova + n) (len - n) with
        | (some rest, s) => (some (memReadN s.host.mem bus n ++ rest), s)
        | (none, s) => (none, s)

def State.dmaRead (s : State) (vi iova len : Nat) : Option Bytes × State := s.dmaReadPages (len / 4096 + 2) vi iova len

/-- A ring error stops the rings and raises its source (R443). -/
def State.ringErr (s : State) (vi code index : Nat) : State :=
  let h := s.hif vi
  (s.setHif vi { h with ringError := true, errorCode := code, errorIndex := index,
                        ringErrors := inc32 h.ringErrors }).raiseInt (256 + vi)

/-- The reply and its delivery entry are written to host memory (R444). Nothing is delivered into another life of the
interface: the ring must be enabled, not resetting, and of the generation the command was taken in (R441, R454). -/
def State.deliver (s : State) (c : Cmd) (status detail : Nat) (reply : Bytes) : State :=
  let vi := c.chan
  let h := s.hif vi
  if !h.enable || h.resetting || h.generation != c.gen then s
  else
    let (ok, s) := s.dmaWrite vi c.replyTo reply
    let h := s.hif vi
    let final := status != 1
    let fl := boolNat h.dlvPhase + 2 * boolNat final + 4 * boolNat (!ok)
    let entry := le 2 c.index ++ le 2 (if ok then c.tag else 0) ++ le 2 status ++ le 2 detail ++
      le 2 (if ok then reply.length else 0) ++ le 1 fl ++ le 1 c.gen ++ le 4 c.user
    let n := 2 ^ h.dlvLog2
    match s.dmaWrite vi (h.dlvBase + 16 * h.dlvTail) entry with
    | (false, s) => s.ringErr vi 0x06 h.dlvTail
    | (true, s) =>
      let h := s.hif vi
      let tail := (h.dlvTail + 1) % n
      (s.setHif vi { h with dlvTail := tail, dlvPhase := if tail = 0 then !h.dlvPhase else h.dlvPhase,
                            reserved := if final then h.reserved - 1 else h.reserved,
                            deliveries := inc32 h.deliveries }).raiseInt (384 + vi)

/-- With NO_REPLY an OK outcome releases the reservation without an entry (R445). -/
def State.releaseReservation (s : State) (c : Cmd) : State :=
  if c.chan < 64 then s.setHif c.chan { s.hif c.chan with reserved := (s.hif c.chan).reserved - 1 } else s

end Sys2Proof.Machine
end

