-- ==== Sys2Proof/Machine/Card.lean ====
section
/-! DEFINITION. How a command packet is judged and answered (02 R34 to R54): the card of an opcode, checks 7 to 13 of
R41 as one shared operation, replies, completion reports and the stored reply. -/
namespace Sys2Proof

/-! ### The FLAGS byte (R34) -/

def Cmd.urgent (c : Cmd) : Bool := Machine.bit c.flags 0
def Cmd.noReply (c : Cmd) : Bool := Machine.bit c.flags 1
def Cmd.trailer (c : Cmd) : Bool := Machine.bit c.flags 2

/-- The command came on one of the module's own channels (R37), not from its partner or its manager. -/
def Cmd.own (c : Cmd) : Bool := decide (c.chan ≤ 65)

/-- LENGTH of the packet: words of parameters. -/
def Cmd.len (c : Cmd) : Nat := Machine.ceilDiv c.params.length 4

end Sys2Proof

namespace Sys2Proof.Machine

/-! ### Status codes (R54) -/

def stOk := 0x0000
def stAccepted := 0x0001
def stBusyRetry := 0x0100
def stQueueFull := 0x0101
def stRestarting := 0x0102
def stBadOpcode := 0x0200
def stBadLength := 0x0201
def stBadParameter := 0x0202
def stBadReserved := 0x0203
def stBadFlags := 0x0204
def stBadInstance := 0x0205
def stStaleSequence := 0x0206
def stWrongState := 0x0300
def stWrongRole := 0x0301
def stNoResource := 0x0400
def stSparesExhausted := 0x0401
def stTooManyPending := 0x0402
def stAuthRequired := 0x0500
def stIntegrity := 0x0501
def stPrivilege := 0x0502
def stFault := 0x0600
def stManagementLost := 0x0601
def stVersionLevel := 0x0700

/-- Fault class CROSS_CHECK of 11 R303. -/
def fcCrossCheck := 0x09

/-- A reply or completion report as it leaves (R36, R44, R53). -/
def replyPacket (c : Cmd) (completion : Bool) (status detail : Nat) (data : Bytes) : Bytes :=
  let t := decide (c.chan ≥ 64) || c.trailer
  packet c.opcode (8 + 16 * boolNat completion + 4 * boolNat t) c.inst c.tag c.seq
    (le 2 status ++ le 2 detail ++ padWord data)

/-- The channel's record; the rings of VI00 to VI63 are bound to their own VI (R37, R43). -/
def Channel.init (n : Nat) : Channel := { enabled := decide (n ≤ 64), binding := if n < 64 then n else 0 }
def State.chan (s : State) (n : Nat) : Channel := s.cmd.channels.getD n (Channel.init n)
def State.setChan (s : State) (n : Nat) (c : Channel) : State := { s with cmd.channels := s.cmd.channels.put n c }

/-- The SEQUENCE of the last packet accepted on a channel (R45). -/
def Channel.lastSeq (c : Channel) : Option Nat := c.last.map (fun h => u32 h 8)

/-- Stores the reply of a channel when it answers the last accepted packet (R45, R46). -/
def State.storeReply (s : State) (c : Cmd) (r : StoredReply) : State :=
  let ch := s.chan c.chan
  s.setChan c.chan (if ch.lastSeq = some c.seq then { ch with reply := r } else ch)

/-- Follows the consecutive BUSY_RETRY replies sent on a channel (R51). -/
def State.followBusy (s : State) (chan status : Nat) : State :=
  let ch := s.chan chan
  s.setChan chan { ch with busyK := if status = stBusyRetry then ch.busyK + 1 else 0 }

/-- Sends a reply or completion report on the channel of the command, or suppresses it under NO_REPLY (R34, R36, R53).
The answer to a command of the partner (channel 66) stays in `remote`; that to a manager's command (67) goes to it. -/
def State.answer (s : State) (c : Cmd) (completion : Bool) (status detail : Nat) (data : Bytes) : State :=
  if c.chan ≥ 66 then
    let s := { s with cmd.remote := some (status, detail, data) }
    if c.chan = 67 then s.sendWorkerReply c completion status detail data else s
  else if c.noReply && (status == stOk || status == stAccepted) then
    let s := s.storeReply c .suppressed
    if status == stOk then s.releaseReservation c else s
  else
    let b := replyPacket c completion status detail data
    let s := (s.followBusy c.chan status).storeReply c (.sent b)
    let s := if status = stBusyRetry then { s with cmd.busyReplies := inc32 s.cmd.busyReplies } else s
    if c.chan < 64 then s.deliver c status detail b else s.emit (.reply c.chan c.replyTo b)

/-- A reply to a command. -/
def State.reply (s : State) (c : Cmd) (status detail : Nat) (data : Bytes := []) : State :=
  s.answer c false status detail data

/-! ### Cards -/

/-- Privilege levels (R47). -/
inductive Level where
  | m
  | o
  | r
  deriving DecidableEq, Repr

/-- What LENGTH a card allows (R547). -/
inductive LenRule where
  | exact (n : Nat)
  | range (lo hi : Nat)
  | form (least most : Nat) (f : Bytes → Nat)
  | walk (most : Nat) (f : Bytes → Option Nat)

/-- The outcome of a card's own part: done with results, refused without effect, refused with an effect the card names,
accepted with what it waits for (R53), or committed with its plain reply to follow. -/
inductive CardOut where
  | ok (s : State) (data : Bytes)
  | err (status detail : Nat) (data : Bytes)
  | errWith (s : State) (status detail : Nat) (data : Bytes)
  | accepted (s : State) (wait : Wait) (committed : Bool) (result : Option (Nat × Nat × Bytes))
  | later (s : State) (wait : Wait)

/-- An opcode's card: number, privilege, class, LENGTH, largest reply, reserved fields, field ranges, owner of the
object named, the instance it would change (03 R92), and its own part. `absolute` gives the parameters with every tick
resolved (12 R311, 03 R92). -/
structure Card where
  opcode   : Nat
  level    : Level
  urgent   : Bool := false
  changes  : Bool := true
  len      : LenRule
  most     : State → Cmd → Nat := fun _ _ => 1
  reserved : Bytes → Option Nat := fun _ => none
  params   : State → Cmd → Option Nat := fun _ _ => none
  owner    : State → Bytes → Option Nat := fun _ _ => none
  absolute : State → State → Cmd → Bytes := fun _ _ c => c.params
  target   : State → Bytes → Option Nat := fun _ _ => none
  run      : State → Cmd → CardOut

/-- Check 11 on LENGTH: the DETAIL of BAD_LENGTH, if it fails (R547). -/
def LenRule.bad (r : LenRule) (c : Cmd) : Option Nat :=
  match r with
  | .exact n => if c.len = n then none else some n
  | .range lo hi => if lo ≤ c.len ∧ c.len ≤ hi then none else some hi
  | .form least most f =>
    if c.len < least then some most else if c.len = f c.params then none else some (min (f c.params) 1019)
  | .walk most f =>
    match f c.params with
    | none => some most
    | some n => if c.len = n then none else some (min n 1019)

/-- Check 10 (R47). -/
def Card.allowed (k : Card) (s : State) (c : Cmd) : Bool :=
  match k.level with
  | .m => c.inst == 0
  | .o => c.inst == 0 || (decide (c.inst < 64) &&
      match k.owner s c.params with
      | none => true
      | some o => o == c.inst)
  | .r => true

/-- Opcodes the boot ROM answers in RECOVERY (23 R521). -/
def recoveryOpcodes : List Nat := [0x0101, 0x0104, 0x0103, 0x0108, 0x0109, 0x010B]

/-- Checks 8 to 13 of R41, in order: the first that fails gives status and DETAIL. -/
def Card.check (k : Card) (s : State) (c : Cmd) : Option (Nat × Nat) :=
  if bitsOf c.flags 3 5 ≠ 0 || (c.urgent && !k.urgent) then some (stBadFlags, 0)
  else if s.cmd.busy && !c.urgent && c.own then some (stBusyRetry, 10 * 2 ^ min (s.chan c.chan).busyK 6)
  else if !k.allowed s c then some (stPrivilege, match k.level with | .m => 1 | _ => 2)
  else
    match k.len.bad c with
    | some d => some (stBadLength, d)
    | none =>
      if k.most s c > c.replyLimit then some (stBadLength, c.replyLimit)
      else
        match k.reserved c.params with
        | some d => some (stBadReserved, d)
        | none =>
          match k.params s c with
          | some d => some (stBadParameter, d)
          | none => none

/-- The refusals that the state of the whole module gives after check 13: FATAL_CONTAINMENT (11 R292) and STANDBY
(12 R311). -/
def Card.gate (k : Card) (s : State) (c : Cmd) : Option (Nat × Nat) :=
  let fam := c.opcode / 256
  if s.anvil.hub = .fatal && k.changes && (fam == 2 || fam == 3 || fam == 6) then some (stFault, fcCrossCheck)
  else if (s.pair.st == .standby || s.pair.st == .standbySync) && c.own && fam != 1 && fam != 8 && k.level != .r then
    some (stWrongState, 0x00F0)
  else none

/-- WRONG_STATE and WRONG_ROLE refusals of a card. -/
def CardOut.wrong (detail : Nat) : CardOut := .err stWrongState detail []
def State.wrongRole (s : State) : CardOut := .err stWrongRole s.boot.role []
def CardOut.noRes (detail : Nat) : CardOut := .err stNoResource detail []

/-- Owner of a function instance named in the first two bytes (R47). -/
def fiOwner (s : State) (p : Bytes) : Option Nat := (s.place.insts.get (u16 p 0)).map (·.owner)

/-- A range check of check 13 whose field is FI, 1 to 4095, at offset 0. -/
def fiRange (p : Bytes) : Nat × Bool := (0, decide (1 ≤ u16 p 0) && decide (u16 p 0 ≤ 4095))

/-- A command that replied ACCEPTED waits for its completion (R53). -/
def State.accept (s : State) (c : Cmd) (w : Wait) (committed : Bool) (r : Option (Nat × Nat × Bytes)) : State :=
  { s with cmd.accepted := s.cmd.accepted ++ [{ cmd := c, wait := w, committed := committed, result := r }] }

/-- How many accepted commands a channel holds (R53). -/
def State.pendingOn (s : State) (chan : Nat) : Nat :=
  (s.cmd.accepted.filter (fun a => a.cmd.chan == chan && !a.quiet)).length

/-- A committed command that changes manager state goes to the backup: the placement family and schedule loads (R337). -/
def State.backupCmd (s : State) (c : Cmd) (p : Bytes) : State :=
  if c.own && (c.opcode / 256 == 2 || c.opcode == 0x0902) then s.tellBackup (.managerState (carried c p)) else s

/-- A command's card executed: what leaves as its reply, and the state after it. A fresh record of its cause stands in
`origin` while it runs (21 R489). -/
def Card.finish (k : Card) (s : State) (c : Cmd) : State :=
  match k.run { s with origin := c.inst } c with
  | .ok t d =>
    let t := { t with origin := 0xFF }
    let t := if k.changes then (t.mirror c (k.absolute s t c)).backupCmd c (k.absolute s t c) else t
    t.reply c stOk 0 d
  | .err st d data => s.reply c st d data
  | .errWith t st d data => { t with origin := 0xFF }.reply c st d data
  | .accepted t w committed r =>
    if s.pendingOn c.chan ≥ 32 then s.reply c stTooManyPending 0
    else
      let t := { t with origin := 0xFF }
      let t := if k.changes && committed then t.mirror c (k.absolute s t c) else t
      let t := if c.chan < 64 && !c.noReply then
          t.setHif c.chan { t.hif c.chan with reserved := (t.hif c.chan).reserved + 1 } else t
      (t.accept c w committed r).reply c stAccepted 0
  | .later t w =>
    let t := { t with origin := 0xFF }
    let t := if k.changes then t.mirror c (k.absolute s t c) else t
    { t with cmd.accepted := t.cmd.accepted ++ [{ cmd := c, wait := w, committed := true, result := none, quiet := true }] }

/-- Who answers for the instance a command would change (03 R92): a worker refuses it on its own channels (inner none),
a manager forwards it to the worker that holds an ASSIGNED instance. -/
def Card.holder (k : Card) (s : State) (c : Cmd) : Option (Option (Nat × Nat)) :=
  match k.target s c.params with
  | none => none
  | some fi =>
    match s.place.insts.get fi with
    | none => none
    | some x =>
      if s.boot.role = 2 && c.own then some none
      else if s.boot.role = 1 && x.place == .assigned then some (some (x.node, fi))
      else none

/-- The manager keeps and forwards a command with every tick absolute, and replies ACCEPTED (03 R92, R93); its standby only keeps
it (12 R311). The first entry of an
on-line change for a worker opens its part (08 R228). -/
def Card.forward (k : Card) (s : State) (c : Cmd) (node fi : Nat) : State :=
  if c.opcode = 0x0307 ∧ s.prog.change.st ≠ .open_ then s.reply c stWrongState 0x000A
  else if s.pendingOn c.chan ≥ 32 then s.reply c stTooManyPending 0
  else
    let p := k.absolute s s c
    let s := s.mirror c p
    let s :=
      if c.opcode = 0x0307 && !s.stratus.changeNodes.contains node then
        let s := (s.sendForward node c (zeros 12)).2
        { s with stratus.changeNodes := s.stratus.changeNodes ++ [node] }
      else { s with stratus.forwarded := s.stratus.forwarded ++ [{ fi := fi, pkt := carried c p }] }
    let s := if c.opcode = 0x0307 then s else s.tellBackup (.managerState (carried c p))
    if c.chan = 66 then s.reply c stAccepted 0
    else
      let (m, s) := s.sendForward node c p
      (s.accept c (.worker node m) true none).reply c stAccepted 0

/-- Checks 8 to 13, the module's gates, then the card (R41). The command is answered exactly once. -/
def Card.exec (k : Card) (s : State) (c : Cmd) : State :=
  if s.boot.phase = .recovery && !(recoveryOpcodes.contains c.opcode) then s.reply c stWrongState 0x00F1
  else
    match k.check s c with
    | some (st, d) => s.reply c st d
    | none =>
      match k.gate s c with
      | some (st, d) => s.reply c st d
      | none =>
        match k.holder s c with
        | some none => s.reply c stWrongRole 2
        | some (some (node, fi)) => k.forward s c node fi
        | none => k.finish s c

/-- Can Zenith execute commands: command-ready or in RECOVERY, and RUNNING (R40, R56, 23 R517, R521). -/
def State.zenithUp (s : State) : Bool :=
  (s.boot.phase == .ready || s.boot.phase == .recovery) && s.cmd.mgmt == .running

/-- The step of a card's row: time passes, and Zenith, if it is up, executes the command, whose packet passed checks 1
to 6. Otherwise nothing is read from the channel. -/
def runCard (k : Card) (dt : Nat) (c : Cmd) (s : State) : Host.Outcome State Fault Refusal :=
  let s := s.advance dt
  if s.zenithUp then .next (k.exec s { c with opcode := k.opcode }) else .next s

end Sys2Proof.Machine
end

