-- ==== Sys2Proof/Machine/Anvil.lean ====
section
/-! DEFINITION. The Anvil part of family 0x08 (11 R304, R305). -/
namespace Sys2Proof.Machine

def State.lanesFree (s : State) : Nat := (s.laneOrder.filter s.laneFree).length

/-- VIN, VAUX and every chiplet temperature lie within the operating ratings (24 R532). -/
def State.withinRatings (s : State) : Bool :=
  decide (2700 ≤ s.power.vinMv) && decide (s.power.vinMv ≤ 16000) && decide (2500 ≤ s.power.vauxMv) &&
    decide (s.power.vauxMv ≤ 5500) && s.power.temps.all (fun t => decide (-40 ≤ t) && decide (t ≤ 125))

/-- GUARANTEE bits 0 to 3 and whether all hold (24 R532, GET_ANVIL_STATUS). -/
def State.guarantee (s : State) : Nat :=
  let bs := [s.withinRatings, s.anvil.selfTest && s.anvil.passDone, !s.place.exhausted, s.cmd.mgmt != .lost]
  bitsNat (bs ++ [bs.all id])

/-- GET_ANVIL_STATUS (0x0801). -/
def cardGetAnvilStatus : Card where
  opcode := 0x0801
  level := .r
  changes := false
  len := .exact 0
  most _ _ := 18
  run s _ :=
    let n (st : CmpSt) : Nat := (s.anvil.cmps.filter (· == st)).length
    .ok s (le 1 (boolNat (s.anvil.hub == .fatal)) ++ le 1 (boolNat s.anvil.selfTest) ++ le 1 (n .inService) ++ le 1 (n .spare) ++
      le 2 s.lanesFree ++ le 2 s.anvil.retired.length ++ le 2 s.guarantee ++ zeros 2 ++ le 4 s.anvil.lastPassMs ++
      s.anvil.counters.flatMap (le 4))

def execGetAnvilStatus (dt : Nat) (c : Cmd) (s : State) : Host.Outcome State Fault Refusal := runCard cardGetAnvilStatus dt c s

/-- GET_CONTAINMENT (0x0802). -/
def cardGetContainment : Card where
  opcode := 0x0802
  level := .r
  changes := false
  len := .exact 1
  most s c := if ((s.inst (u16 c.params 0)).map (·.isPlaced)).getD false then 11 else 1
  reserved p := orElseOpt (reservedBits p [(2, 0xFE)]) (firstNonzero p [(3, 1)])
  params _ c := firstBad [fiRange c.params]
  run s c :=
    let fi := u16 c.params 0
    match s.inst fi with
    | none => .wrong 1
    | some x =>
      if !x.isPlaced then .wrong 1
      else
        let (cm, l) := x.cmp.getD (0xFF, 0xFF)
        let t := if bit (byteAt c.params 2) 0 then
            s.setInst fi { x with compared := 0, withheld := 0, mismatches := 0, masked := 0, transients := 0, displaced := 0 }
          else s
        .ok t (le 2 fi ++ le 1 x.cls ++ le 1 (match x.place with
            | .declared => 0 | .placed => 1 | .simplexTemp => 2 | .duplexTemp => 3 | .degraded => 4 | .shed => 5
            | .unassigned => 6 | .assigned => 7) ++
          le 1 cm ++ le 1 l ++ le 2 x.lastFault ++ le 8 x.lastFaultTick ++
          [x.compared, x.withheld, x.mismatches, x.masked, x.transients, x.displaced].flatMap (le 4))

def execGetContainment (dt : Nat) (c : Cmd) (s : State) : Host.Outcome State Fault Refusal := runCard cardGetContainment dt c s

/-- The health entries that a region and CLUSTER of GET_MEMORY_HEALTH name. -/
def healthKeys (region cc : Nat) : List Nat :=
  if region > 2 then [32 * region] else if cc = 0xFF then (List.range 32).map (fun i => 32 * region + i) else [32 * region + cc]

/-- GET_MEMORY_HEALTH (0x0803). Over all clusters the counts are sums, the passes those that every cluster has had, and
the duration the longest. -/
def cardGetMemoryHealth : Card where
  opcode := 0x0803
  level := .r
  changes := false
  len := .exact 1
  most _ _ := 9
  reserved p := orElseOpt (reservedBits p [(2, 0xFE)]) (firstNonzero p [(3, 1)])
  params _ c := firstBad [
    (0, decide (byteAt c.params 0 ≤ 6)),
    (1, byteAt c.params 1 == 0xFF || (decide (byteAt c.params 0 ≤ 2) && decide (byteAt c.params 1 ≤ 31)))]
  run s c :=
    let ks := healthKeys (byteAt c.params 0) (byteAt c.params 1)
    let hs := ks.map (fun k => s.anvil.health.getD k {})
    let sum (f : MemHealth → Nat) : Nat := min ((hs.map f).foldl (· + ·) 0) 0xFFFFFFFF
    let now := (s.anvil.poison.filter (fun l => ks.contains (32 * (lineRegion l).1 + (lineRegion l).2))).length
    let passes := (hs.map (·.passes)).foldl min 0xFFFFFFFF
    let ms := (hs.map (·.lastMs)).foldl max 0
    let t := if bit (byteAt c.params 2) 0 then
        { s with anvil.health := ks.foldl (fun h k => h.upd k (fun m =>
            { m with corrData := 0, corrCheck := 0, uncorr := 0, poisonReads := 0, flagCorr := 0 })) s.anvil.health }
      else s
    .ok t (le 4 (sum (·.corrData)) ++ le 4 (sum (·.corrCheck)) ++ le 4 (sum (·.uncorr)) ++ le 4 now ++
      le 4 (sum (·.poisonReads)) ++ le 4 (sum (·.flagCorr)) ++ le 4 passes ++ le 4 ms)

def execGetMemoryHealth (dt : Nat) (c : Cmd) (s : State) : Host.Outcome State Fault Refusal :=
  runCard cardGetMemoryHealth dt c s

/-- SET_SELF_TEST (0x0804). -/
def cardSetSelfTest : Card where
  opcode := 0x0804
  level := .m
  len := .exact 1
  reserved p := firstNonzero p [(1, 1)]
  params _ c := firstBad [(0, decide (byteAt c.params 0 ≤ 1)), (2, u16 c.params 2 == 0x5128)]
  run s c :=
    let on := byteAt c.params 0 == 1
    .ok { s with anvil.selfTest := on, anvil.passDone := on && s.anvil.selfTest && s.anvil.passDone } []

def execSetSelfTest (dt : Nat) (c : Cmd) (s : State) : Host.Outcome State Fault Refusal := runCard cardSetSelfTest dt c s

/-! ### INJECT_FAULT (0x0805) -/

/-- An internal address of a line in PE local memory, sample memory or the capture store. -/
def injectAddress (a : Nat) : Bool :=
  a % 32 == 0 &&
    ((decide (a < 544 * 0x40000) && decide (a % 0x40000 < 0x28000)) ||
     (decide (0x0100000000 ≤ a) && decide (a < 0x0104000000) && decide (a % 0x200000 < 1572864)) ||
     (decide (0x0200000000 ≤ a) && decide (a < 0x0202000000)))

def injectRanges (p : Bytes) : Option Nat :=
  let t := byteAt p 0
  let tgt := u16 p 4
  firstBad [
    (0, decide (1 ≤ t) && decide (t ≤ 7)),
    (1, if t = 1 then decide (1 ≤ byteAt p 1) && decide (byteAt p 1 ≤ 3) else byteAt p 1 == 0),
    (2, u16 p 2 == 0x5128),
    (4, if t = 1 || t = 4 then decide (1 ≤ tgt) && decide (tgt ≤ 4095)
        else if t = 2 then decide (tgt / 256 ≤ 31) && decide (tgt % 256 ≤ 16)
        else if t = 3 then decide (tgt ≤ 47) else tgt == 0),
    (8, if t = 5 || t = 6 then injectAddress (u64 p 8) else u64 p 8 == 0)]

def State.injectPending (s : State) (type target : Nat) : Bool :=
  s.anvil.injections.any (fun j => j.type == type && j.target == target)

/-- Types 1 to 4 are armed; 5 to 7 act at once. -/
def injectRun (s : State) (c : Cmd) : CardOut :=
  let p := c.params
  let t := byteAt p 0
  let tgt := u16 p 4
  let line := u64 p 8 / 32
  let fatal := s.anvil.hub == .fatal
  let arm (tick : Nat) : CardOut :=
    .ok { s with anvil.injections := s.anvil.injections ++ [{ type := t, copy := byteAt p 1, target := tgt, tick := tick }] } (le 8 tick)
  if t = 1 || t = 4 then
    match s.inst tgt with
    | none => .wrong 1
    | some x =>
      if !x.isPlaced then .wrong 1
      else if x.cls = 0 then .wrong 4
      else if s.injectPending t tgt then .wrong 5
      else if fatal then .wrong 6
      else if t = 1 && byteAt p 1 > copiesOf x.cls then .err stBadParameter 1 []
      else arm (s.nextLatch x)
  else if t = 2 then
    let st := (s.eng { ls := false, cc := tgt / 256, no := tgt % 256 }).st
    if st != .inService && st != .spare then .wrong 2
    else if s.injectPending t tgt then .wrong 5
    else if fatal then .wrong 6
    else arm 0
  else if t = 3 then
    if s.anvil.cmps[tgt]? != some CmpSt.inService then .wrong 3
    else if s.injectPending t tgt then .wrong 5
    else if fatal then .wrong 6
    else arm 0
  else if t ≤ 6 then
    if s.anvil.errs.has line then .wrong 5
    else if fatal then .wrong 6
    else if s.anvil.poison.contains line then .ok s (le 8 0)
    else .ok { s with anvil.errs := s.anvil.errs.put line (t == 6) } (le 8 0)
  else if fatal then .wrong 6
  else .ok (s.fatalContainment true) (le 8 0)

/-- INJECT_FAULT (0x0805). -/
def cardInjectFault : Card where
  opcode := 0x0805
  level := .m
  len := .exact 4
  most _ _ := 3
  reserved p := firstNonzero p [(6, 2)]
  params _ c := injectRanges c.params
  run := injectRun

def execInjectFault (dt : Nat) (c : Cmd) (s : State) : Host.Outcome State Fault Refusal := runCard cardInjectFault dt c s

end Sys2Proof.Machine
end

