-- ==== Sys2Proof/Machine/IcuOps.lean ====
section
/-! DEFINITION. The interrupt controller at work (19 R458 to R465): events of the sources, delivery to Zenith's cores and to
the host, Squall and stuck levels. -/
namespace Sys2Proof.Machine

/-! ### Sources (R459, R462, R465) -/

/-- The numbers assigned in R459. -/
def srcDefined (n : Nat) : Bool :=
  decide (n ≤ 65) || (decide (128 ≤ n) && decide (n ≤ 130)) || (decide (132 ≤ n) && decide (n ≤ 143)) || n == 148 || n == 149 ||
    (decide (256 ≤ n) && decide (n ≤ 447)) || (decide (768 ≤ n) && decide (n ≤ 772)) || (decide (800 ≤ n) && decide (n ≤ 839))

/-- The sources whose MODE SET_SOURCE sets (R459). -/
def srcModal (n : Nat) : Bool := decide (800 ≤ n) && decide (n ≤ 839)

/-- The mode in which a wired source works: fixed but for 800 to 839 (R459). -/
def srcMode (n set : Nat) : Nat :=
  if n = 768 ∨ n = 769 then 2 else if n = 770 ∨ n = 771 then 0 else if n = 772 then 4 else if srcModal n then set else 0xFF

/-- A wired source in a level mode (R458). -/
def srcLevel (n set : Nat) : Bool := decide (768 ≤ n) && decide (srcMode n set ≤ 1)

/-- A source after power-up and RESET_N (R462, R465). PRIORITY 0 and, for sources 800 to 839, MODE LEVEL_HIGH are the model's
(log entry 2). -/
def Source.init (n : Nat) : Source :=
  let lvl := srcLevel n 0
  let own (v : Nat) (x : Source) : Source := { x with hostVi := n % 64, vector := v }
  let x : Source := { mode := if srcModal n then 0 else 0xFF, limit := if lvl then 0 else 32, windowUs := if lvl then 0 else 1000,
                      maxUs := if lvl then 100000 else 0 }
  if n ≤ 65 then { x with limit := 64, windowUs := 100, releaseUs := 10000 }
  else if 384 ≤ n ∧ n ≤ 447 then own 0 { x with limit := 0 }
  else if 256 ≤ n ∧ n ≤ 383 then own 1 x
  else if (128 ≤ n ∧ n ≤ 149) ∨ (768 ≤ n ∧ n ≤ 772) then { x with hostVi := 0, vector := 2 }
  else x

def State.src (s : State) (n : Nat) : Source := s.icu.sources.getD n (Source.init n)
def State.setSrc (s : State) (n : Nat) (x : Source) : State := { s with icu.sources := s.icu.sources.put n x }

/-- Vectors of a function (R437, R462). -/
def vectorsOf (vi : Nat) : Nat := if vi = 0 then 256 else 16

/-- MSI-X of a function after a reset of its configuration: disabled, every vector masked (PCIe Base 5.0, log entry 42). -/
def MsixFn.init (vi : Nat) : MsixFn := { vecMask := List.range (vectorsOf vi) }
def State.msix (s : State) (vi : Nat) : MsixFn := s.icu.fns.getD vi (MsixFn.init vi)
def State.setMsix (s : State) (vi : Nat) (f : MsixFn) : State := { s with icu.fns := s.icu.fns.put vi f }

/-- Is the line of a level source at its active level? -/
def Source.active (x : Source) (n : Nat) : Bool := srcLevel n x.mode && (x.line == (srcMode n x.mode == 0))

/-! ### Delivery to Zenith (R461) -/

/-- The running level of a core plus 1: 0 with an empty stack. -/
def Core.level (c : Core) : Nat :=
  match c.stack with
  | [] => 0
  | (_, p) :: _ => p + 1

/-- The core that receives a source of priority `p`: the lowest running level below it, then the lowest number. -/
def pickCore (p : Nat) (cores : List Core) : Option Nat :=
  let idx := (List.range cores.length).filterMap (fun i =>
    match cores[i]? with
    | some c => if !c.restarting && decide (c.level ≤ p) then some (c.level, i) else none
    | none => none)
  ((sortBy (fun (a b : Nat × Nat) => decide (a.1 < b.1)) idx).head?).map (·.2)

/-- Every pending source that some core can take is delivered, the highest PRIORITY first, then the lowest number. -/
def State.deliverZenith (s : State) : State :=
  let waiting := s.icu.sources.filter (fun e => e.2.zPending)
  let order := sortBy (fun (a b : Nat × Source) => decide (a.2.prio > b.2.prio)) waiting
  order.foldl (fun (s : State) (e : Nat × Source) =>
    match pickCore e.2.prio s.icu.cores with
    | none => s
    | some k =>
      let s := s.setSrc e.1 { s.src e.1 with zPending := false, core := k }
      { s with icu.cores := modAt s.icu.cores k (fun (c : Core) => { c with delivered := c.delivered ++ [e.1] }) }) s

/-- A Zenith restart empties every stack and keeps every pending source (R461): what was delivered and not acknowledged is pending
again. -/
def State.icuRestart (s : State) : State :=
  let back := s.icu.cores.flatMap (·.delivered)
  let s := back.foldl (fun s n => s.setSrc n { s.src n with zPending := true }) s
  { s with icu.cores := s.icu.cores.map (fun (_ : Core) => { restarting := true }) }

/-- The cores take deliveries again. -/
def State.icuRecovered (s : State) : State :=
  { s with icu.cores := s.icu.cores.map (fun (c : Core) => { c with restarting := false }) }.deliverZenith

/-! ### Delivery to the host (R462) -/

/-- One MSI-X message of a source, or the vector's pending bit while it is masked. -/
def State.msixSend (s : State) (n : Nat) : State :=
  let x := s.src n
  let vi := x.hostVi
  let f := s.msix vi
  if !f.enabled then s
  else if f.fnMask || f.vecMask.contains x.vector then
    s.setMsix vi { f with vecPend := if f.vecPend.contains x.vector then f.vecPend else f.vecPend ++ [x.vector] }
  else
    ((s.setMsix vi { f with messages := inc32 f.messages }).setSrc n { x with messages := inc32 x.messages }).emit (.msix vi x.vector)

/-- An event of a routed source: PENDING, and the message where it was 0. -/
def State.hostEvent (s : State) (n : Nat) : State :=
  let x := s.src n
  if x.hostVi = 0xFF ∨ x.hPending then s else (s.setSrc n { x with hPending := true }).msixSend n

/-- The messages of the vectors whose mask has been lifted follow. -/
def State.msixFlush (s : State) (vi : Nat) : State :=
  let f := s.msix vi
  if !f.enabled || f.fnMask then s
  else
    let due := f.vecPend.filter (fun v => !f.vecMask.contains v)
    let s := s.setMsix vi { f with vecPend := f.vecPend.filter (fun v => f.vecMask.contains v),
                                   messages := satAdd 32 f.messages due.length }
    due.foldl (fun s v => s.emit (.msix vi v)) s

/-! ### Squall and stuck levels (R463 to R465) -/

/-- An event is counted and not delivered. -/
def State.suppress (s : State) (n : Nat) : State :=
  let x := s.src n
  let s := s.setSrc n { x with suppressed := inc32 x.suppressed }
  if x.hostVi = 0xFF then s
  else s.setMsix x.hostVi { s.msix x.hostVi with suppressed := inc32 (s.msix x.hostVi).suppressed }

/-- A source is masked: source 148 or 149 and the record. -/
def State.maskSource (s : State) (n : Nat) (m : MaskSt) : State :=
  let x := s.src n
  let s := s.setSrc n { x with masked := m, maskings := inc32 x.maskings }
  if m = .stuck then (s.post 0x0E02 (le 2 n)).raiseInt 149 else (s.post 0x0E01 (le 2 n)).raiseInt 148

/-- One event of a source is taken (R460 to R463). -/
def State.takeEvent (s : State) (n : Nat) : State :=
  let x := s.src n
  let x := { x with events := inc32 x.events, lastEvent := s.tb3 }
  let lvl := srcLevel n x.mode
  if x.masked != .none then (s.setSrc n x).suppress n
  else
    let recent := x.hist.filter (fun t =>
      decide (tDiff s.tb3 t < ((x.windowUs * 1000 * 2 ^ 40 : Nat) : Int)) && decide (tDiff s.tb3 t > 0))
    let watched := !lvl && n != 148 && x.limit != 0
    if watched && decide (recent.length ≥ x.limit) then ((s.setSrc n x).maskSource n .squall).suppress n
    else
      let kept := x.hist.filter (fun t => decide (tDiff s.tb3 t < ((x.windowUs * 1000 * 2 ^ 40 : Nat) : Int)))
      let hist := if watched then kept ++ [s.tb3] else []
      ((s.setSrc n { x with hist := hist, zPending := true }).hostEvent n).deliverZenith

/-- A source returns to service (R465). -/
def State.unmask (s : State) (n : Nat) : State :=
  let x := s.src n
  if x.masked = .none then s else s.setSrc n { x with masked := .none, hist := [], activeAt := s.tb3 }

/-- A change of a wired line is taken: an edge of the selected kind is an event, and so is a level source becoming active. -/
def State.takeLine (s : State) (n : Nat) (level : Bool) : State :=
  let x := s.src n
  let was := x.active n
  let x := { x with line := level }
  let now := x.active n
  let x := if now && !was then { x with activeAt := s.tb3 } else if was && !now then { x with idleAt := s.tb3 } else x
  let s := s.setSrc n x
  let m := srcMode n x.mode
  let event := if m ≤ 1 then now && !was else m == 4 || (m == 2 && level) || (m == 3 && !level)
  if event then s.takeEvent n else s

/-- A reset of an instance clears PENDING of the sources routed to it (R462). -/
def State.icuResetVi (s : State) (vi : Nat) : State :=
  { s with icu.sources := s.icu.sources.mapV (fun _ x => if x.hostVi = vi then { x with hPending := false } else x) }

/-! ### Registers (R466) -/

/-- The bits of one word of ICU_PENDING or ICU_MASKED as a function sees them. -/
def State.icuWord (s : State) (vi w : Nat) (f : Source → Bool) : Nat :=
  bitsNat ((List.range 32).map (fun b =>
    let x := s.src (32 * w + b)
    srcDefined (32 * w + b) && x.hostVi == vi && f x))

/-- A W1C write of ICU_PENDING: a level source keeps its bit while its line is active. -/
def State.icuClear (s : State) (vi w v : Nat) : State :=
  (bitList 32 v).foldl (fun s b =>
    let n := 32 * w + b
    let x := s.src n
    if x.hostVi = vi ∧ x.hPending ∧ !x.active n then s.setSrc n { x with hPending := false } else s) s

/-- A write of ICU_UNMASK. -/
def State.icuUnmask (s : State) (vi n : Nat) : State :=
  if srcDefined n ∧ (s.src n).hostVi = vi then s.unmask n else s

end Sys2Proof.Machine
end

