-- ==== Sys2Proof/Machine/FrontOps.lean ====
section
/-! DEFINITION. The channel front ends (02 R37 to R49) and the supervision of Zenith (R56 to R58). -/
namespace Sys2Proof.Machine

/-- How a packet came: its reply address, and for a PCIe ring the capacity of the reply buffer, the index of the descriptor and its
USER word (R37, 18 R442). -/
structure Via where
  replyTo    : Nat := 0
  replyBytes : Nat := 0
  index      : Nat := 0
  user       : Nat := 0

/-- The largest reply LENGTH that the channel can carry (R42, 18 R442). -/
def State.replyLimit (s : State) (chan : Nat) (v : Via) (trailer : Bool) : Nat :=
  if chan < 64 then (v.replyBytes - 16 - 4 * boolNat trailer) / 4
  else if chan = 65 then
    ((s.port s.cmd.ethPort).maxFrame - 18 - (if s.cmd.ethVlan = 0 then 0 else 4) - 4 - 16 - 4) / 4
  else 1019

/-- The command of a packet whose header is whole. -/
def State.parsed (s : State) (chan : Nat) (v : Via) (pkt : Bytes) : Cmd :=
  let t := bit (byteAt pkt 2) 2
  { chan := chan, opcode := u16 pkt 0, flags := byteAt pkt 2, inst := byteAt pkt 3, tag := u16 pkt 4, seq := u32 pkt 8,
    replyLimit := s.replyLimit chan v t, replyTo := v.replyTo, index := v.index, user := v.user,
    gen := if chan < 64 then (s.hif chan).generation else 0, params := slice pkt 16 (4 * u16 pkt 6) }

/-- Checks 2 and 3 of R41: status and DETAIL of the first that fails. -/
def badPacket (chan : Nat) (pkt : Bytes) : Option (Nat × Nat) :=
  let len := u16 pkt 6
  let t := bit (byteAt pkt 2) 2
  let n := pkt.length
  let over_ := if chan < 64 then 16 + 4 * boolNat t else 20
  let fits := if chan = 65 then decide (16 + 4 * len + 4 ≤ n) else n == over_ + 4 * len
  if len > 1019 ∨ !fits then some (stBadLength, min 1019 ((n - over_) / 4))
  else if decide (chan ≥ 64) && !t then some (stBadFlags, 0)
  else if t && u32 pkt (16 + 4 * len) != crc32c (pkt.take (16 + 4 * len)) then some (stIntegrity, 0)
  else none

/-- An answer of the front end to a packet that is not the last accepted one: it is not stored. -/
def State.frontReply (s : State) (c : Cmd) (status detail : Nat) : State :=
  let s := s.followBusy c.chan status
  let b := replyPacket c false status detail []
  if c.chan < 64 then s.deliver c status detail b else s.emit (.reply c.chan c.replyTo b)

/-- A stored reply is sent again (R45, R46); a duplicate without one is dropped. On a ring the reply goes to the buffer of the
duplicate's own descriptor. -/
def State.resend (s : State) (c : Cmd) : State :=
  match (s.chan c.chan).reply with
  | .sent b => if c.chan < 64 then s.deliver c (u16 b 16) (u16 b 18) b else s.emit (.reply c.chan c.replyTo b)
  | _ => s.releaseReservation c

/-- Commands that the front end itself executes in MANAGEMENT_LOST: RESET of type MODULE from VI00 (R58). -/
def isModuleReset (c : Cmd) : Bool :=
  c.opcode == 0x0103 && c.inst == 0 && c.len == 1 && byteAt c.params 0 == 2 && byteAt c.params 1 ≤ 1 && u16 c.params 2 == 0x5128

/-- RESET begins 1 ms after the reply (R60): FORCE, and the TB3 value of the reply. -/
def State.moduleReset (s : State) (c : Cmd) : State :=
  { s with cmd.resetDue := some (s.tb3, bit (byteAt c.params 1) 0) }

/-- Room in a channel's queue (R49). -/
def Channel.room (ch : Channel) (urgent : Bool) : Bool :=
  decide (ch.queue.length < 256) && (urgent || decide ((ch.queue.filter (fun q => !q.urgent)).length < 240))

/-- A packet that passed checks 1 to 5: it is the last accepted one (R45); then check 6, or what the state of Zenith answers
(R57, R58). -/
def State.takeIn (s : State) (c : Cmd) (hdr : Bytes) : State :=
  let ch := s.chan c.chan
  let gap := match ch.lastSeq with
    | some l => decide (sdiff 32 c.seq l > 1)
    | none => false
  let s := s.setChan c.chan { ch with last := some hdr, reply := .unsent, gaps := if gap then inc32 ch.gaps else ch.gaps }
  match s.cmd.mgmt with
  | .restarting => s.reply c stRestarting 0
  | .lost => if isModuleReset c then (s.moduleReset c).reply c stOk 0 else s.reply c stManagementLost 0
  | .running =>
    let ch := s.chan c.chan
    if !ch.room c.urgent then s.reply c stQueueFull 0
    else
      let s := s.setChan c.chan { ch with
        queue := ch.queue ++ [{ arrival := s.cmd.arrivals, urgent := c.urgent, cmd := c }] }
      let s := { s with cmd.arrivals := s.cmd.arrivals + 1 }
      if c.chan = 64 then s.raiseInt 64 else if c.chan = 65 then s.raiseInt 65 else s

/-- A packet of a ring takes its delivery reservation (18 R445) and counts. -/
def State.takeReservation (s : State) (chan : Nat) : State :=
  if chan ≥ 64 then s
  else
    let h := s.hif chan
    s.setHif chan { h with reserved := h.reserved + 1, commands := inc32 h.commands }

/-- A whole packet at a front end: checks 1 to 6 (R41). Check 1 drops in silence. -/
def State.arrive (s : State) (chan : Nat) (v : Via) (pkt : Bytes) : State :=
  let ch := s.chan chan
  if pkt.length < 16 ∨ crc16 (pkt.take 14) ≠ u16 pkt 14 then
    let s := s.setChan chan { ch with hdrErrs := inc32 ch.hdrErrs }
    if chan < 64 then s.setHif chan { s.hif chan with hdrErrors := inc32 (s.hif chan).hdrErrors } else s
  else
    let c := s.parsed chan v pkt
    let s := s.takeReservation chan
    match badPacket chan pkt with
    | some (st, d) => s.frontReply c st d
    | none =>
      if c.inst ≠ ch.binding then s.frontReply c stBadInstance ch.binding
      else
        let hdr := pkt.take 14
        match ch.last with
        | none => s.takeIn c hdr
        | some h =>
          if sdiff 32 c.seq (u32 h 8) > 0 then s.takeIn c hdr
          else if hdr = h then s.resend c
          else s.frontReply c stStaleSequence (u32 h 8 % 2 ^ 16)

/-! ### Zenith (R56 to R58) -/

/-- Every channel's queue is emptied, its packets answered. -/
def State.answerQueues (s : State) (status : Nat) : State :=
  s.cmd.channels.foldl (fun (s : State) (e : Nat × Channel) =>
    let s := s.setChan e.1 { s.chan e.1 with queue := [] }
    e.2.queue.foldl (fun s q => s.reply q.cmd status 0) s) s

/-- What an accepted command that had not passed its commit point leaves behind is taken back (R57). -/
def State.cancelWait (s : State) (a : Accepted) : State :=
  match a.wait with
  | .place => { s with place.placing := false, stratus.group := none }
  | .stage => { s with prog.change.st := .open_ }
  | .i2c m => { s with i2c := s.i2c.upd m (fun q =>
      { q with queue := q.queue.filter (fun x => !(x.1 == a.cmd.chan && x.2 == a.cmd.seq)) }) }
  | _ => s

/-- The commands still running are answered as Zenith leaves RUNNING. In a restart those past their commit point go on (R57); in
MANAGEMENT_LOST every one is answered, with the commit indication (R58). -/
def State.endCommands (s : State) (lost : Bool) : State :=
  let gone := s.cmd.accepted.filter (fun a => lost || !a.committed)
  let s := { s with cmd.accepted := s.cmd.accepted.filter (fun a => !lost && a.committed) }
  gone.foldl (fun (s : State) (a : Accepted) =>
    let s := if a.committed then s else s.cancelWait a
    if lost then s.answer a.cmd (!a.quiet) stManagementLost (boolNat a.committed) []
    else s.answer a.cmd (!a.quiet) stRestarting 0 []) s

/-- OPCODE and TAG of up to five commands running (21 R489). -/
def State.runningList (s : State) : Bytes :=
  le 1 s.cmd.accepted.length ++ (s.cmd.accepted.take 5).flatMap (fun a => le 2 a.cmd.opcode ++ le 2 a.cmd.tag)

/-- Zenith enters RESTARTING (R56, R57). -/
def State.zenithRestart (s : State) : State :=
  let s := { s with cmd.mgmt := .restarting, cmd.restarts := inc32 s.cmd.restarts }
  ((s.answerQueues stRestarting).endCommands false).icuRestart

/-- Zenith enters MANAGEMENT_LOST (R58): its module gives up control (12 R316). -/
def State.managementLost (s : State) : State :=
  let s := { s with cmd.mgmt := .lost }
  ((((s.answerQueues stManagementLost).endCommands true).icuRestart).setLine 771 true).giveUp 2

/-- Units of 2^-40 ns in 60 s. -/
def tbMinute : Nat := 60000000000 * 2 ^ 40

/-- The watchdog of a core expires (R56). -/
def State.watchdog (s : State) (core : Nat) : State :=
  let recent := s.cmd.expiries.filter (fun t => decide (tDiff s.tb3 t < (tbMinute : Int))) ++ [s.tb3]
  let s := { s with cmd.expiries := recent }.bump 0x005
  match s.cmd.mgmt with
  | .lost => s
  | .restarting => (s.post 0x0104 (le 1 recent.length)).managementLost
  | .running =>
    if recent.length ≥ 3 then (s.post 0x0104 (le 1 recent.length)).managementLost
    else (s.post 0x0102 (le 1 core ++ s.runningList)).zenithRestart

end Sys2Proof.Machine
end

