-- ==== Sys2Proof/Machine/HostOps.lean ====
section
/-! DEFINITION. Rings, outstanding reads, resets of an instance and bridge windows at work (18 R438 to R455). -/
namespace Sys2Proof.Machine

/-! ### Rings (R440 to R445) -/

def Hif.cmdSize (h : Hif) : Nat := 2 ^ h.cmdLog2
def Hif.dlvSize (h : Hif) : Nat := 2 ^ h.dlvLog2

/-- Entries from `a` up to `b` on a ring of `n`. -/
def ringDist (n a b : Nat) : Nat := (b + n - a % n) % n

/-- Room for two more delivery entries beyond those reserved (R445). -/
def Hif.dlvRoom (h : Hif) : Bool :=
  decide (h.reserved + 2 ≤ h.dlvSize - 1 - ringDist h.dlvSize h.dlvHead h.dlvTail)

/-- DELIVERY_FULL (R445). -/
def Hif.dlvFull (h : Hif) : Bool := h.enable && !h.dlvRoom

/-- RUNNING (R440). -/
def Hif.running (h : Hif) : Bool := h.enable && !h.ringError

/-- A doorbell write of CMD_TAIL (R440, R443): event 0 to 63, and the new tail unless it lies outside the ring or moves back past
descriptors not yet taken. Ignored in a reset, and while the rings are off. -/
def State.cmdTail (s : State) (vi tail : Nat) : State :=
  let h := s.hif vi
  if h.resetting then s
  else
    let s := s.raiseInt vi
    if !h.enable then s
    else if tail ≥ h.cmdSize ∨ ringDist h.cmdSize h.cmdHead tail < ringDist h.cmdSize h.cmdHead h.cmdTail then s.ringErr vi 5 tail
    else s.setHif vi { h with cmdTail := tail }

/-- A doorbell write of DLV_HEAD (R440, R443). -/
def State.dlvHead (s : State) (vi head : Nat) : State :=
  let h := s.hif vi
  if h.resetting ∨ !h.enable then s
  else if head ≥ h.dlvSize ∨ ringDist h.dlvSize h.dlvHead head > ringDist h.dlvSize h.dlvHead h.dlvTail then s.ringErr vi 5 head
  else s.setHif vi { h with dlvHead := head }

/-- Packets of a ring not yet started are discarded, and what is still to come of its commands is not delivered (R441, R454
step 2): no delivery bears generation 256. -/
def State.dropTaken (s : State) (vi : Nat) : State :=
  let s := s.setChan vi { s.chan vi with queue := [] }
  { s with cmd.accepted := s.cmd.accepted.map (fun (a : Accepted) =>
      if a.cmd.chan = vi then { a with cmd := { a.cmd with gen := 256 } } else a) }

/-- A write of HIF_CONTROL (R440, R441). -/
def State.hifControl (s : State) (vi v : Nat) : State :=
  let h := s.hif vi
  if h.resetting then s
  else
    let on := bit v 0
    let h := { h with generMode := bit v 1, shadowEn := bit v 2 }
    if on && !h.enable then
      let s := s.setHif vi { h with
        enable := true, cmdHead := 0, cmdTail := 0, dlvTail := 0, dlvHead := 0, dlvPhase := true, reserved := 0 }
      s.setChan vi { s.chan vi with last := none, reply := .none, busyK := 0 }
    else if !on && h.enable then
      (s.setHif vi { h with enable := false, reads := h.reads.map (fun (r : HostRead) =>
        { r with life := if r.life = .live then .silent else r.life }) }).dropTaken vi
    else s.setHif vi h

/-- RING_ERROR is cleared: the rings resume from CMD_HEAD (R443). -/
def State.ringClear (s : State) (vi : Nat) : State :=
  let h := s.hif vi
  if h.resetting then s else s.setHif vi { h with ringError := false }

/-! ### Reads (R442, R443, R446) -/

def State.readsOut (s : State) : Nat := (s.host.hifs.map (fun e => e.2.reads.length)).foldl (· + ·) 0

/-- A tag that no outstanding read holds (R455). -/
def State.freeTag (s : State) : Nat :=
  let used := s.host.hifs.flatMap (fun e => e.2.reads.map (·.tag))
  ((List.range 1024).find? (fun t => !used.contains t)).getD 1024

/-- May the instance issue one more read (R446, R456)? -/
def State.mayRead (s : State) (vi : Nat) : Bool :=
  decide ((s.hif vi).reads.length < (s.hif vi).maxReads) && decide (s.readsOut < 768)

/-- A read is issued; a request that faults in translation is not (R446): ring error 3. -/
def State.issueRead (s : State) (vi index iova len : Nat) (desc : Option Bytes) : State :=
  match s.dmaRead vi iova len with
  | (none, s) => s.ringErr vi 3 index
  | (some d, s) =>
    let tag := s.freeTag
    let h := s.hif vi
    (s.setHif vi { h with reads := h.reads ++ [{ tag := tag, gen := h.generation, at_ := s.tb3, index := index, desc := desc, data := d }] }).emit
      (.dmaRead vi tag iova len)

/-- A take of the ring's next descriptor is under way. -/
def Hif.taking (h : Hif) : Bool := h.reads.any (·.life == .live)

/-- DESCRIPTOR_TAKE: the descriptor at CMD_HEAD is read, where both conditions of R445 hold. -/
def State.takeDescriptor (s : State) (vi : Nat) : State :=
  let h := s.hif vi
  if !s.viPresent vi || !h.running || h.resetting || h.taking || h.cmdHead == h.cmdTail || !h.dlvRoom || !s.mayRead vi ||
      !(s.chan vi).room true then s
  else s.issueRead vi h.cmdHead (h.cmdBase + 32 * h.cmdHead) 32 none

/-- The checks of R443 on a descriptor. -/
def descOk (d : Bytes) : Bool :=
  let pb := u16 d 8
  let rb := u16 d 0xA
  u32 d 0xC == 0 && u32 d 0x18 == 0 && u64 d 0 % 4 == 0 && u64 d 0x10 % 4 == 0 &&
    decide (16 ≤ pb) && decide (pb ≤ 4096) && pb % 4 == 0 && decide (20 ≤ rb) && decide (rb ≤ 4096) && rb % 4 == 0

/-- The packet of a descriptor has come: the descriptor is taken, CMD_HEAD moves on, with its shadow, and the packet meets the
front end (R440, R442). Where the queue has no entry of its kind free the descriptor stays in its ring (R49). -/
def State.takePacket (s : State) (vi index : Nat) (d pkt : Bytes) : State :=
  if !(s.chan vi).room (bit (byteAt pkt 2) 0) then s
  else
    let h := s.hif vi
    let head := (index + 1) % h.cmdSize
    let s := s.setHif vi { h with cmdHead := head }
    let s := if h.shadowEn then
        match s.dmaWrite vi h.shadow (le 4 head) with
        | (true, s) => s
        | (false, s) => s.ringErr vi 6 head
      else s
    s.arrive vi { replyTo := u64 d 0x10, replyBytes := u16 d 0xA, index := index, user := u32 d 0x1C } pkt

/-- A completion arrives for tag `tag` (R455). A live one serves its descriptor; `err` is a completion error (R443). -/
def State.readDone (s : State) (vi tag gen : Nat) (err : Bool) : State :=
  let h := s.hif vi
  match h.reads.find? (fun (r : HostRead) => r.tag == tag) with
  | none => s
  | some r =>
    let h := { h with reads := h.reads.filter (fun (x : HostRead) => x.tag != tag) }
    let dead := { h with lateDiscards := inc32 h.lateDiscards, lateCount := inc32 h.lateCount }
    match r.life with
    | .late => s.setHif vi dead
    | .silent => s.setHif vi h
    | .live =>
      if gen ≠ h.generation then s.setHif vi dead
      else
        let s := s.setHif vi h
        if h.ringError || !h.enable then s
        else if err then s.ringErr vi 4 r.index
        else
          match r.desc with
          | some d => s.takePacket vi r.index d r.data
          | none =>
            if !descOk r.data then s.ringErr vi 2 r.index
            else s.issueRead vi r.index (u64 r.data 0) (u16 r.data 8) (some r.data)

/-- A read is not completed within 50 ms (R446). -/
def State.readTimeout (s : State) (vi tag : Nat) : State :=
  let h := s.hif vi
  match h.reads.find? (fun (r : HostRead) => r.tag == tag) with
  | none => s
  | some r =>
    if !s.tb3Passed r.at_ 50000 then s
    else
      let s := s.setHif vi { h with reads := h.reads.filter (fun (x : HostRead) => x.tag != tag), timeouts := inc32 h.timeouts }
      if r.life = .live ∧ h.running then s.ringErr vi 4 r.index else s

/-! ### Resetting an instance (R454, R455) -/

/-- A reset starts. -/
def State.startReset (s : State) (vi : Nat) : State :=
  let h := s.hif vi
  if h.resetting then s
  else
    let end_ (r : HostRead) : HostRead :=
      { r with life := if r.life = .late then .late else if h.generMode then .late else .silent }
    let s := s.setHif vi { h with
      resetting := true, resetAt := s.tb3, resets := inc32 h.resets, reads := h.reads.map end_,
      generation := if h.generMode then (h.generation + 1) % 256 else h.generation }
    (s.dropTaken vi).icuResetVi vi

/-- DRAIN: after 200 µs every read still outstanding is squashed. -/
def State.drainTimeout (s : State) (vi : Nat) : State :=
  let h := s.hif vi
  if !h.resetting || h.generMode || !s.tb3Passed h.resetAt 200 then s
  else s.setHif vi { h with reads := h.reads.map (fun (r : HostRead) => { r with life := .late }) }

/-- The reset completes: the registers take their reset values, the instance's cache entries go. In DRAIN no read may still be
awaited. -/
def State.finishReset (s : State) (vi : Nat) : State :=
  let h := s.hif vi
  if !h.resetting || h.reads.any (·.life == .silent) then s
  else
    let fresh : Hif := { generation := h.generation, generMode := h.generMode, lateDiscards := h.lateDiscards, weight := h.weight,
                         maxReads := h.maxReads, reads := h.reads, commands := h.commands, deliveries := h.deliveries,
                         ringErrors := h.ringErrors, resets := h.resets, timeouts := h.timeouts, lateCount := h.lateCount,
                         tuFaultCount := h.tuFaultCount, writeIgnored := h.writeIgnored }
    let s := s.setHif vi fresh
    { s with
      host.cache := s.host.cache.filter (fun e => e.vi != vi)
      cmd.accepted := s.cmd.accepted.map (fun (a : Accepted) =>
        if a.wait == Wait.instReset vi && a.result.isNone then { a with result := some (stOk, 0, []) } else a) }

/-- The configuration of a function is reset (PCIe Base 5.0, log entry 42). -/
def State.resetConfig (s : State) (vi : Nat) : State :=
  s.setMsix vi { MsixFn.init vi with messages := (s.msix vi).messages, suppressed := (s.msix vi).suppressed }

def State.vfs (s : State) : List Nat := (List.range 64).filter (fun v => v != 0 && s.viPresent v)

/-- VF Enable is cleared: every VF resets (R454). -/
def State.clearVfs (s : State) : State :=
  let l := s.vfs
  { l.foldl (fun s v => (s.startReset v).resetConfig v) s with host.numVfs := 0 }

/-- FLR of a function; of the PF, every VF too. -/
def State.flr (s : State) (vi : Nat) : State :=
  let s := if vi = 0 then s.clearVfs else s
  (s.startReset vi).resetConfig vi

/-- PERST_N, or the loss of the link, resets the host interface of every instance (R438). -/
def State.linkReset (s : State) : State := s.flr 0

/-! ### Translation registers (R448, R449) -/

/-- An invalidation ends. -/
def State.finishInv (s : State) : State :=
  let gone (e : TuEntry) : Bool := s.host.inv.any (fun i => i.2 || i.1 == e.vi)
  { s with host.cache := s.host.cache.filter (fun e => !gone e), host.inv := [] }

/-! ### Internal memory (R450, 06 R150, 07 R189, 04 R114, 10 R252) -/

/-- The copy-table entry of a copy (06 R151). -/
def State.copyEntry (s : State) (fi k : Nat) : Bytes :=
  match s.inst fi with
  | none => zeros 64
  | some x =>
    match x.copy k with
    | none => zeros 64
    | some c =>
      let a := c.areas
      le 2 fi ++ le 1 k ++ le 1 (if c.st = .running then 2 else 1) ++ le 1 x.phase ++ le 1 x.cycle ++ le 1 c.span ++
        le 1 (startOffset x.cls k) ++ le 4 a.codeBase ++ le 4 a.codeBytes ++ le 4 a.entry ++ le 4 a.dataBase ++ le 4 a.dataBytes ++
        le 4 a.inBase ++ le 4 a.inBytes ++ le 4 a.outBase ++ le 4 a.outWords ++ le 4 x.wcic ++ le 4 c.lastIc ++ le 4 c.maxIc ++ zeros 8

/-- A byte of an engine's local memory as a window shows it. -/
def State.engByte (s : State) (e : Eng) (o : Nat) : Byte :=
  let user := if e.ls then 0x7800 else 0x26000
  let table := if e.ls then 0x7B00 else 0x27800
  let top := if e.ls then 0x8000 else 0x28000
  if o < user then memRead (s.eng e).mem o
  else if table ≤ o ∧ o < top then
    match (s.copiesOn e)[(o - table) / 64]? with
    | some (fi, k) => (s.copyEntry fi k).getD ((o - table) % 64) 0
    | none => 0
  else 0

/-- The engine and local address of an internal address below 0x01_0000_0000. -/
def engOfAddr (a : Nat) : Option (Eng × Nat) :=
  if a ≤ 0x087FFFFF then some (engOfKey false (a / 0x40000), a % 0x40000)
  else if 0x80000000 ≤ a ∧ a ≤ 0x801FFFFF then some (engOfKey true ((a - 0x80000000) / 0x8000), (a - 0x80000000) % 0x8000)
  else none

/-- A byte of internal memory. -/
def State.internalByte (s : State) (a : Nat) : Byte :=
  match engOfAddr a with
  | some (e, o) => s.engByte e o
  | none =>
    if 0x0100000000 ≤ a ∧ a ≤ 0x013FFFFFFF then
      let o := a - 0x0100000000
      if o / 0x200000 < 32 ∧ o % 0x200000 < 0x180000 then memRead s.place.samples o else 0
    else if 0x0200000000 ≤ a ∧ a ≤ 0x0201FFFFFF then memRead s.cap.store (a - 0x0200000000)
    else 0

/-- The areas of a copy as (base, bytes). -/
def Areas.ranges (a : Areas) : List (Nat × Nat) :=
  [(a.codeBase, a.codeBytes), (a.dataBase, a.dataBytes), (a.inBase, 2 * a.inBytes), (a.outBase, 4 * a.outWords)]

/-- Is the line of a local address allocated to a copy of a running instance (R450)? -/
def State.lineHeld (s : State) (e : Eng) (o : Nat) : Bool :=
  let l := o / 32 * 32
  (s.copiesOn e).any (fun (p : Nat × Nat) =>
    match s.inst p.1 with
    | some x => x.isRunning && (match x.copy p.2 with
      | some c => c.areas.ranges.any (fun r => decide (l < r.1 + r.2) && decide (r.1 < l + 32))
      | none => false)
    | none => false)

/-- May a window write reach an internal byte (R450)? -/
def State.writable (s : State) (a : Nat) : Bool :=
  match engOfAddr a with
  | some (e, o) => decide (o < if e.ls then 0x7800 else 0x26000) && !s.lineHeld e o
  | none => false

/-! ### Windows (R450 to R452) -/

def State.window (s : State) (vi w : Nat) : Window := s.host.windows.getD (8 * vi + w) {}
def State.setWindow (s : State) (vi w : Nat) (x : Window) : State := { s with host.windows := s.host.windows.put (8 * vi + w) x }

/-- The window of a function that covers a whole request. -/
def State.windowOf (s : State) (vi addr len : Nat) : Option (Nat × Window) :=
  ((List.range 8).map (fun w => (w, s.window vi w))).find? (fun (p : Nat × Window) =>
    p.2.enabled && decide (p.2.aperture ≤ addr) && decide (addr + len ≤ p.2.aperture + 2 ^ p.2.log2))

/-- ELEMENT in bytes. -/
def Window.elem (w : Window) : Nat := if w.dataInv then 2 ^ (w.element + 1) else 1

/-- The internal address of byte `k` of a window (R451): k XOR (ELEMENT − 1) mirrors the byte within its element. -/
def Window.addrOf (w : Window) (k : Nat) : Nat := w.internal + (k / w.elem * w.elem + (w.elem - 1 - k % w.elem))

/-- The internal addresses of a request, byte by byte. -/
def Window.addrs (w : Window) (addr len : Nat) : List Nat := (List.range len).map (fun i => w.addrOf (addr - w.aperture + i))

/-- A host read through the aperture (R450, R452): status and data of the completion. -/
def State.bridgeRead (s : State) (vi addr len : Nat) : State :=
  match if (s.hif vi).resetting || !s.viPresent vi then none else s.windowOf vi addr len with
  | none => s.emit (.completion vi 1 [])
  | some (w, x) =>
    let al := x.addrs addr len
    let lo := al.foldl min (al.headD 0)
    let hi := al.foldl max 0
    let (bad, s) := s.readRange lo (hi + 1 - lo)
    let data := al.map (fun a => if bad && s.anvil.poison.contains (a / 32) then (0 : Byte) else s.internalByte a)
    let s := if bad then s.setWindow vi w { x with poisonRead := true, lastCause := 2, poisonReads := inc32 x.poisonReads } else s
    s.emit (.completion vi (if bad then 2 else 0) data)

/-- A failed write (R452): counted, latched, and in ACKNOWLEDGED raised. -/
def State.writeFailed (s : State) (vi w cause : Nat) : State :=
  let x := s.window vi w
  let s := s.setWindow vi w { x with writeFailed := true, lastCause := cause, writeErrors := inc32 x.writeErrors }
  if x.ack then s.raiseInt (320 + vi) else s

/-- A write that the region ignores (R450). -/
def State.writeIgnored (s : State) (vi w : Nat) : State :=
  let x := s.window vi w
  let s := s.setWindow vi w { x with lastCause := 1, writeErrors := inc32 x.writeErrors }
  s.setHif vi { s.hif vi with writeIgnored := inc32 (s.hif vi).writeIgnored }

/-- One internal byte is written. -/
def State.putInternal (s : State) (a : Nat) (b : Byte) : State :=
  match engOfAddr a with
  | some (e, o) => s.modEng e (fun g => { g with mem := memWrite g.mem o b })
  | none => s

/-- The lines that a write covers in part while they are POISONED: such a write fails on them. -/
def State.poisonedPart (s : State) (al : List Nat) (l : Nat) : Bool :=
  s.anvil.poison.contains l && decide ((al.filter (fun a => a / 32 == l)).length < 32)

/-- A host write through the aperture; `fault` an internal error (R452). -/
def State.bridgeWrite (s : State) (vi addr : Nat) (data : Bytes) (fault : Bool) : State :=
  match if (s.hif vi).resetting || !s.viPresent vi then none else s.windowOf vi addr data.length with
  | none => s.emit (.unsupported vi)
  | some (w, x) =>
    if fault then s.writeFailed vi w 3
    else
      let al := x.addrs addr data.length
      let ok (a : Nat) : Bool := x.write && s.writable a
      let s := (al.map (· / 32)).eraseDups.foldl (fun s l => if s.poisonedPart al l then s else
        let mine := al.filter (fun a => a / 32 == l && ok a)
        if mine = [] then s else s.wroteRange (mine.foldl min (mine.headD 0)) mine.length) s
      let bad := (al.map (· / 32)).eraseDups.filter (fun l => s.poisonedPart al l && ok (l * 32))
      let s := (List.zip al data).foldl (fun s p =>
        if ok p.1 && !bad.contains (p.1 / 32) then s.putInternal p.1 p.2 else s) s
      let s := if bad ≠ [] then s.writeFailed vi w 2 else s
      if al.all ok then s else s.writeIgnored vi w

end Sys2Proof.Machine
end

