-- ==== Sys2Proof/Machine/Cluster.lean ====
section
/-! DEFINITION. What a manager knows of its workers and how it assigns instances to them (03 R89 to R93, 13 R341). -/
namespace Sys2Proof.Machine

/-! ### State reports (R89, R92) -/

/-- A placed instance as a worker reports it. -/
def reportInst (fi : Nat) (x : Inst) : ReportInst :=
  { fi := fi, cls := x.cls, cycle := x.cycle, kind := x.kind, phase := x.phase, image := x.image, wcic := x.wcic
    code := x.codeBytes, data := x.dataBytes, imgBytes := x.imageBytes, channels := x.channels, running := x.isRunning
    copies := x.copies.map (fun c => (c.eng.map (fun e => (e.ls, e.cc, e.no)), c.span,
      [(c.areas.codeBase, c.areas.codeBytes), (c.areas.dataBase, c.areas.dataBytes), (c.areas.inBase, c.areas.inBytes)])) }

/-- The worker's state report. -/
def State.makeReport (s : State) : WorkerReport :=
  { images := (s.prog.images.filter (fun e => e.2.loaded)).map (·.1)
    engines := ((allEngs false ++ allEngs true).filter (fun e => (s.eng e).st != .inService)).map (fun e =>
      (e.ls, e.cc, e.no, (s.eng e).st == .failed))
    insts := (s.place.insts.filter (fun e => e.2.isPlaced)).map (fun e => reportInst e.1 e.2)
    chans := s.ingest.chanOf.filterMap (fun e => (s.ingest.streams.get e.2.1).map (fun x =>
      (e.1, x.cfg.fmt, x.cfg.rate, x.cfg.ringSpan)))
    rings := s.place.rings.map (fun e => (e.1, e.2.cc, e.2.depth, e.2.addr, e.2.bytes, e.2.units)) }

/-- A copy of a reported instance. -/
def copyOfReport (c : Option (Bool × Nat × Nat) × Nat × List (Nat × Nat)) : Copy :=
  let a (i : Nat) : Nat × Nat := c.2.2.getD i (0, 0)
  { eng := c.1.map (fun e => { ls := e.1, cc := e.2.1, no := e.2.2 }), st := if c.1.isSome then .running else .lost, span := c.2.1
    areas := { codeBase := (a 0).1, codeBytes := (a 0).2, dataBase := (a 1).1, dataBytes := (a 1).2, inBase := (a 2).1
               inBytes := (a 2).2 } }

/-- A reported instance as a placed one. -/
def instOfReport (r : ReportInst) : Inst :=
  { owner := 0, cls := r.cls, cycle := r.cycle, phaseDecl := r.phase, kind := r.kind, shedPrio := 0, image := r.image
    wcic := r.wcic, codeBytes := r.code, dataBytes := r.data, imageBytes := r.imgBytes, nodeMask := 0, channels := r.channels
    declNo := 0, place := .placed, phase := r.phase, copies := r.copies.map copyOfReport }

/-- A stream of one channel that gives the ring of a reported channel its size. -/
def chanStreamOf (c : Nat × Nat × Nat × Nat) : Stream :=
  { cfg := { fmt := c.2.1, rate := c.2.2.1, nAsdu := 1, nEntries := 1, auth := 0, syncReq := 0, portMask := 0, destMac := 0
             appid := 0, vlan := 0, keySlot := 0xFFFF, confRev := 0, ringSpan := c.2.2.2, lossTime := 0, svid := []
             acceptSim := false, channels := [c.1] }
    owner := 0 }

/-- The worker as its report describes it, for the question of R89 only. -/
def stateOfReport (r : WorkerReport) : State :=
  let insts : Tab Inst := r.insts.foldl (fun (t : Tab Inst) x => t.put x.fi (instOfReport x)) []
  let streams : Tab Stream := r.chans.foldl (fun (t : Tab Stream) c => t.put c.1 (chanStreamOf c)) []
  let chanOf : Tab (Nat × Nat) := r.chans.foldl (fun (t : Tab (Nat × Nat)) c => t.put c.1 (c.1, 0)) []
  let rings : Tab Ring := r.rings.foldl (fun (t : Tab Ring) x =>
    t.put x.1 { cc := x.2.1, depth := x.2.2.1, addr := x.2.2.2.1, bytes := x.2.2.2.2.1, units := x.2.2.2.2.2 }) []
  let s : State := { place := { insts := insts, rings := rings }, ingest := { streams := streams, chanOf := chanOf } }
  r.engines.foldl (fun s e =>
    s.setEng { ls := e.1, cc := e.2.1, no := e.2.2.1 } { st := if e.2.2.2 then .failed else .spare }) s

/-- A node of a cluster with the images it holds, as its report (or this module itself) shows it. -/
structure NodeView where
  node   : Nat
  images : List Nat
  view   : State

/-- The manager's view of every candidate: the workers that have reported, and itself. -/
def State.nodeViews (s : State) : List NodeView :=
  let own : NodeView := { node := s.ownNode, images := (s.prog.images.filter (fun e => e.2.loaded)).map (·.1), view := s }
  sortBy (fun a b => decide (a.node < b.node))
    (own :: (s.stratus.reports.filter (fun e => e.1 != s.ownNode)).map (fun e =>
      { node := e.1, images := e.2.images, view := stateOfReport e.2 }))

/-! ### Assignment (R89, R90) -/

/-- The worker score: occupied slots over the worker's IN_SERVICE PEs. -/
def NodeView.score (v : NodeView) : Nat :=
  (((allEngs false).filter (fun e => (v.view.eng e).st == .inService)).map (fun e => (v.view.occupied e).length)).foldl (· + ·) 0

/-- The worker's own placement by R72 of one instance; none where the image is missing or it does not fit. -/
def NodeView.tryInst (v : NodeView) (fi : Nat) (x : Inst) : Except Nat NodeView :=
  if !bit x.nodeMask v.node || !v.images.contains x.image then .error 7
  else
    match (v.view.setInst fi x).placeInstance fi x with
    | .ok t => .ok { v with view := t }
    | .error r => .error r

/-- The feasible worker with the lowest score, ties to the lowest node. -/
def bestNode (fi : Nat) (x : Inst) (vs : List NodeView) : Except Nat (NodeView) :=
  let ok := vs.filterMap (fun v => match v.tryInst fi x with
    | .ok w => some (v.score, w)
    | .error _ => none)
  match ok with
  | [] =>
    let rs := vs.filterMap (fun v => match v.tryInst fi x with
      | .error r => if bit x.nodeMask v.node then some r else none
      | .ok _ => none)
    .error (rs.headD 7)
  | p :: l => .ok (l.foldl (fun (b : Nat × NodeView) q => if q.1 < b.1 then q else b) p).2

/-- A worker that reports the very instance keeps it at its phase (13 R341). -/
def State.adopter (s : State) (fi : Nat) (x : Inst) : Option (Nat × Nat) :=
  s.stratus.reports.findSome? (fun e => (e.2.insts.find? (fun r => r.fi == fi && r.image == x.image && r.cls == x.cls &&
    r.cycle == x.cycle)).map (fun r => (e.1, r.phase)))

/-- Assigns the pending instances in sorted order (R89): FI, node, phase, whether the worker holds it already. -/
def State.assignAll (s : State) : List Nat → List NodeView → Except (Nat × Nat) (List (Nat × Nat × Nat × Bool))
  | [], _ => .ok []
  | fi :: l, vs =>
    match s.inst fi with
    | none => State.assignAll s l vs
    | some x =>
      match s.adopter fi x with
      | some (n, ph) =>
        match State.assignAll s l vs with
        | .ok r => .ok ((fi, n, ph, true) :: r)
        | .error e => .error e
      | none =>
        match bestNode fi x vs with
        | .error r => .error (fi, r)
        | .ok w =>
          let ph := ((w.view.inst fi).map (·.phase)).getD 0
          match State.assignAll s l (vs.map (fun v => if v.node = w.node then w else v)) with
          | .ok r => .ok ((fi, w.node, ph, false) :: r)
          | .error e => .error e

/-- The DECLARE_INSTANCE parameters of an instance with a fixed phase, for the worker it is assigned to (R92). -/
def declareParams (fi : Nat) (x : Inst) (phase : Nat) : Bytes :=
  padWord (le 2 fi ++ le 1 x.cls ++ le 1 x.cycle ++ le 1 phase ++ le 1 x.kind ++ le 2 x.shedPrio ++ le 4 x.image ++ le 4 x.wcic ++
    le 4 x.codeBytes ++ le 4 x.dataBytes ++ le 4 x.imageBytes ++ zeros 4 ++ le 2 x.channels.length ++ zeros 2 ++
    x.channels.flatMap (le 2))

/-- The assignment of an instance as it travels to its worker. -/
def State.assignPacket (s : State) (fi phase : Nat) : Bytes :=
  match s.inst fi with
  | some x => packet 0x0201 0 x.owner 0 0 (declareParams fi x phase)
  | none => []

/-- Sends an assignment; what waits for its answer. -/
def State.sendAssign (s : State) (fi node phase : Nat) : Nat × State := s.sendMgmt node (.assign (s.assignPacket fi phase))

/-- PLACE on a manager: every worker gets its instances in sorted order (R90). -/
def State.beginAssign (s : State) (places : List (Nat × Nat × Nat × Bool)) : State :=
  let (waits, s) := places.foldl (fun (a : List (Nat × Nat × Nat) × State) p =>
    if p.2.1 = s.ownNode || p.2.2.2 then a
    else
      let (m, t) := a.2.sendAssign p.1 p.2.1 p.2.2.1
      (a.1 ++ [(m, p.2.1, p.1)], t)) (([], s) : List (Nat × Nat × Nat) × State)
  { s with stratus.group := some { places := places, waits := if s.mute then [] else waits, failed := none } }

/-- A plain packet of the manager's own making to a worker: REMOVE_INSTANCE, START_INSTANCE, changes. -/
def State.sendCommand (s : State) (node opcode : Nat) (p : Bytes) : Nat × State :=
  s.sendMgmt node (.forward (packet opcode 0 0 0 0 (padWord p)))

/-- A manager forwards the removal of an ASSIGNED instance, and keeps none of its commands. -/
def State.managerRemove (s : State) (fi : Nat) : State :=
  match s.inst fi with
  | none => s
  | some x =>
    let s := (s.sendCommand x.node 0x0202 (le 2 fi)).2
    { s with stratus.forwarded := s.stratus.forwarded.filter (fun f => f.fi != fi) }

/-- Does a worker of the mask hold the image (R92)? -/
def State.maskHolds (s : State) (mask image : Nat) : Bool :=
  s.nodeViews.any (fun v => bit mask v.node && v.images.contains image)

/-- An instance is now on a worker. -/
def State.setAssigned (s : State) (fi node phase : Nat) : State :=
  (s.modInst fi (fun x => { x with place := .assigned, node := node, phase := phase })).tellBackup (.assigned fi node phase)

end Sys2Proof.Machine
end

