-- ==== Sys2Proof/Machine/Place.lean ====
section
/-! DEFINITION. The placement family (03 R94) and the events of placement. -/
namespace Sys2Proof.Machine

/-- Cycle classes (02, DECLARE_INSTANCE). -/
def cycleClass (c : Nat) : Bool := [1, 2, 4, 5, 10, 20].contains c

/-- Refusals common to DECLARE, REMOVE, PLACE and SET_PLACEMENT_LIMITS (R94, 08 R222). -/
def State.placementShut (s : State) (c : Cmd) : Option CardOut :=
  if s.boot.role = 2 && c.own then some s.wrongRole
  else if s.place.placing then some (.wrong 3)
  else if s.prog.change.st != .none then some (.wrong 7)
  else none

/-- Channel `i` of a declaration. -/
def declChannel (p : Bytes) (i : Nat) : Nat := u16 p (0x24 + 2 * i)
def declChannels (p : Bytes) : List Nat := (List.range (u16 p 0x20)).map (declChannel p)

/-- The first channel that is out of range or repeats an earlier one. -/
def badChannel (p : Bytes) : List Nat → List Nat → Nat → Option Nat
  | [], _, _ => none
  | ch :: t, seen, i =>
    if ch > 16383 || seen.contains ch then some (0x24 + 2 * i) else badChannel p t (ch :: seen) (i + 1)

def declareRanges (s : State) (p : Bytes) : Option Nat :=
  orElseOpt (firstBad [
    fiRange p,
    (0x02, decide (byteAt p 2 ≤ 2)),
    (0x03, cycleClass (byteAt p 3)),
    (0x04, decide (byteAt p 4 < byteAt p 3) || byteAt p 4 == 0xFF),
    (0x05, decide (byteAt p 5 ≤ 1)),
    (0x10, u32 p 0x10 % 32 == 0),
    (0x14, u32 p 0x14 % 32 == 0),
    (0x18, u32 p 0x18 % 32 == 0),
    (0x1C, if s.boot.role = 1 then u32 p 0x1C != 0 else u32 p 0x1C == 0),
    (0x20, decide (u16 p 0x20 ≤ 2000))]) (badChannel p (declChannels p) [] 0)

/-- The first field of a declaration that differs from its loaded image (08 R212). -/
def declareDiffers (p img : Bytes) : Option Nat :=
  firstBad [
    (0x05, byteAt p 5 == imgKind img),
    (0x10, u32 p 0x10 == imgCode img),
    (0x14, u32 p 0x14 == imgData img),
    (0x18, u32 p 0x18 == imgImageBytes img),
    (0x20, u16 p 0x20 == imgNChan img)]

def declareRun (s : State) (c : Cmd) : CardOut :=
  let p := c.params
  let fi := u16 p 0
  let x : Inst := {
    owner := c.inst, cls := byteAt p 2, cycle := byteAt p 3, phaseDecl := byteAt p 4, kind := byteAt p 5,
    shedPrio := u16 p 6, image := u32 p 8, wcic := u32 p 0xC, codeBytes := u32 p 0x10, dataBytes := u32 p 0x14,
    imageBytes := u32 p 0x18, nodeMask := u32 p 0x1C, channels := declChannels p, declNo := s.place.nextDecl }
  match s.placementShut c with
  | some r => r
  | none =>
    if (s.inst fi).isSome then .wrong 1
    else if s.boot.role != 1 && !x.channels.all s.ingest.chanOf.has then .wrong 2
    else if (s.image x.image).isNone then .wrong 2
    else if s.boot.role = 1 && !s.maskHolds x.nodeMask x.image then .wrong 2
    else
      match declareDiffers p (s.imageD x.image) with
      | some d => .err stBadParameter d []
      | none =>
        if x.wcic > wcicLimit x.ls s.place.point x.cycle then .noRes 1
        else if x.codeBytes + x.dataBytes + x.imageBytes > userBytes x.ls then .noRes 2
        else .ok { s.setInst fi x with place.nextDecl := s.place.nextDecl + 1 } (le 4 s.place.nextDecl)

/-- DECLARE_INSTANCE (0x0201). -/
def cardDeclareInstance : Card where
  opcode := 0x0201
  level := .o
  len := .form 9 1009 (fun p => 9 + ceilDiv (u16 p 0x20) 2)
  most _ _ := 2
  reserved p := firstNonzero p [(0x22, 2), (0x24 + 2 * u16 p 0x20, if u16 p 0x20 % 2 = 1 then 2 else 0)]
  params s c := declareRanges s c.params
  owner := fiOwner
  run := declareRun

def execDeclareInstance (dt : Nat) (c : Cmd) (s : State) : Host.Outcome State Fault Refusal :=
  runCard cardDeclareInstance dt c s

/-- An instance and everything it holds is removed (R94, 08 R213): resources, rings, output bindings, record. -/
def State.removeInst (s : State) (fi : Nat) : State :=
  { s with
    place.insts := s.place.insts.del fi
    prog.retained := s.prog.retained.del fi
    prog.signals := s.prog.signals.mapV (fun _ g => if g.src == SigSrc.output fi then { g with src := .none, vals := [] } else g)
    }.dropRings

/-- REMOVE_INSTANCE (0x0202). -/
def cardRemoveInstance : Card where
  opcode := 0x0202
  level := .o
  len := .exact 1
  reserved p := firstNonzero p [(2, 2)]
  params _ c := firstBad [fiRange c.params]
  owner := fiOwner
  run s c :=
    let fi := u16 c.params 0
    match s.placementShut c with
    | some r => r
    | none =>
      match s.inst fi with
      | none => .wrong 1
      | some x =>
        if x.isRunning then .wrong 4
        else .ok ((if x.place = .assigned then s.managerRemove fi else s).removeInst fi) []

def execRemoveInstance (dt : Nat) (c : Cmd) (s : State) : Host.Outcome State Fault Refusal :=
  runCard cardRemoveInstance dt c s

/-- The instances that PLACE takes, in the order of R72. -/
def State.pendingPlace (s : State) : List Nat :=
  s.inOrder (fun x => x.place == .declared || x.place == .shed || x.place == .unassigned)

/-- PLACE (0x0203): the reply is ACCEPTED; the placement is computed and committed at its completion (R87). -/
def cardPlace : Card where
  opcode := 0x0203
  level := .m
  len := .exact 0
  most _ _ := 3
  run s c :=
    match s.placementShut c with
    | some r => r
    | none =>
      let s := { s with place.placing := true }
      if s.boot.role = 1 then
        match s.assignAll s.pendingPlace s.nodeViews with
        | .error (fi, r) => .accepted s .place false (some (stNoResource, r, le 2 fi ++ le 2 0))
        | .ok ps => .accepted (s.beginAssign ps) .place false none
      else .accepted s .place false none

def execPlace (dt : Nat) (c : Cmd) (s : State) : Host.Outcome State Fault Refusal := runCard cardPlace dt c s

/-- A newly placed instance takes its lane (11 R277) and run state READY (08 R213), or starts again after shedding. -/
def State.commitPlaced (s : State) (fi : Nat) : State :=
  match s.inst fi with
  | none => s
  | some x =>
    if !x.isPlaced then s
    else
      let s := ((s.takeLane fi).holdSafe fi).autoStart fi
      if x.phaseDecl = 0xFF then s.mirrorPhase fi x.phase else s

/-- The first instance whose addition takes the pair link past its capacity (12 R315). -/
def State.firstOver (s : State) (t : State) : List Nat → Nat
  | [] => 0
  | fi :: l =>
    let u := match t.inst fi with
      | some x => s.setInst fi x
      | none => s
    if u.pairOver then fi else State.firstOver u t l

/-- Placement on this module at the commit of a PLACE (R72, R75, R87, R88): status, DETAIL, results. -/
def State.placeHere (s : State) (pending : List Nat) : (Nat × Nat × Bytes) × State :=
  match s.placeAll pending with
  | .error (fi, r) => ((stNoResource, r, le 2 fi ++ le 2 0), s)
  | .ok t =>
    if t.pairOver then ((stNoResource, 0x000C, le 2 (s.firstOver t pending) ++ le 2 0), s)
    else
      let t := pending.foldl State.commitPlaced { t with place.begun := true }
      ((stOk, 0, le 2 pending.length ++ le 2 0), t.retryRings)

/-- The outcome of a PLACE, once every worker of a manager has answered (R75, R90); until then none. A refusal of a worker
takes what the others placed back. -/
def State.placeNow (s : State) : Option ((Nat × Nat × Bytes) × State) :=
  if s.boot.role ≠ 1 then some ({ s with place.placing := false }.placeHere s.pendingPlace)
  else
    match s.stratus.group with
    | none => some ((stOk, 0, le 2 0 ++ le 2 0), { s with place.placing := false })
    | some g =>
      if g.waits ≠ [] then none
      else
        let s := { s with place.placing := false, stratus.group := none }
        let remote := g.places.filter (fun p => p.2.1 != s.ownNode && !p.2.2.2)
        let undo (s : State) : State := remote.foldl (fun s p => (s.sendCommand p.2.1 0x0202 (le 2 p.1)).2) s
        match g.failed with
        | some (_, fi, _, _) => some ((stNoResource, 7, le 2 fi ++ le 2 0), undo s)
        | none =>
          match s.placeHere ((g.places.filter (fun p => p.2.1 == s.ownNode)).map (·.1)) with
          | ((0, _, _), t) =>
            let t := (g.places.filter (fun p => p.2.1 != s.ownNode)).foldl (fun t p => t.setAssigned p.1 p.2.1 p.2.2.1) t
            some ((stOk, 0, le 2 g.places.length ++ le 2 0), t)
          | (r, t) => some (r, undo t)

/-! ### Reading placement -/

/-- STATE of GET_PLACEMENT. -/
def PlState.code : PlState → Nat
  | .declared => 0
  | .placed => 1
  | .simplexTemp => 2
  | .duplexTemp => 3
  | .degraded => 4
  | .shed => 5
  | .unassigned => 6
  | .assigned => 7

/-- The three COPIES entries of GET_PLACEMENT. -/
def copyEntry (x : Inst) (k : Nat) : Bytes :=
  if !x.isPlaced then le 4 0xFFFFFFFF
  else
    match x.copy k with
    | none => le 4 0xFFFFFFFF
    | some c =>
      match c.eng with
      | none => le 2 0xFFFF ++ le 1 2 ++ le 1 c.span
      | some e => le 1 e.cc ++ le 1 e.no ++ le 1 (match c.st with | .running => 0 | .loading => 1 | .lost => 2) ++ le 1 c.span

/-- GET_PLACEMENT (0x0204). -/
def cardGetPlacement : Card where
  opcode := 0x0204
  level := .r
  changes := false
  len := .exact 1
  most s c := if (s.inst (u16 c.params 0)).isSome then 7 else 1
  reserved p := firstNonzero p [(2, 2)]
  run s c :=
    let fi := u16 c.params 0
    match s.inst fi with
    | none => .wrong 1
    | some x =>
      .ok s (le 2 fi ++ le 1 x.place.code ++ le 1 x.cls ++ le 1 x.cycle ++
        le 1 (if x.isPlaced || x.place == .assigned then x.phase else 0xFF) ++ le 1 x.kind ++ le 1 x.node ++ le 4 x.declNo ++
        copyEntry x 1 ++ copyEntry x 2 ++ copyEntry x 3)

def execGetPlacement (dt : Nat) (c : Cmd) (s : State) : Host.Outcome State Fault Refusal :=
  runCard cardGetPlacement dt c s

def EngSt.code : EngSt → Nat
  | .inService => 0
  | .spare => 1
  | .failed => 2
  | .slow => 3

/-- An engine named by cluster, number and KIND in three bytes (GET_ENGINE). -/
def engOf (p : Bytes) (o : Nat) : Eng := { ls := byteAt p (o + 2) == 1, cc := byteAt p o, no := byteAt p (o + 1) }

/-- GET_ENGINE (0x0205). -/
def cardGetEngine : Card where
  opcode := 0x0205
  level := .r
  changes := false
  len := .exact 1
  most _ _ := 6
  reserved p := firstNonzero p [(3, 1)]
  params _ c := firstBad [
    (0, decide (byteAt c.params 0 ≤ 31)),
    (1, decide (byteAt c.params 1 ≤ (if byteAt c.params 2 = 1 then 1 else 16))),
    (2, decide (byteAt c.params 2 ≤ 1))]
  run s c :=
    let e := engOf c.params 0
    let g := s.eng e
    let lowest := (g.canaries.map (·.2)).foldl min g.canary
    .ok s (le 1 g.st.code ++ le 1 (s.copiesOn e).length ++ le 2 (s.power.coreMv.getD (chipletOf e.cc) 0) ++
      le 4 (((s.occupied e).map (fun t => 2 ^ t)).foldl (· + ·) 0) ++ le 4 (s.memFree e) ++ le 4 (lowest / 1000000) ++
      le 4 (s.requiredRate e))

def execGetEngine (dt : Nat) (c : Cmd) (s : State) : Host.Outcome State Fault Refusal := runCard cardGetEngine dt c s

/-- The designated spare positions: PE cc.16 and the first `n` of cc.15, cc.14, cc.13, cc.12. -/
def sparePos (n no : Nat) : Bool := decide (16 - n ≤ no)

/-- Applies EXTRA_SPARES: released engines become IN_SERVICE, designated ones SPARE; FAILED and SLOW stay (0x0206). -/
def State.setExtra (s : State) (n : Nat) : State :=
  (allEngs false).foldl (fun s e =>
    if e.no = 16 || e.no < 12 then s
    else
      let g := s.eng e
      if sparePos n e.no then (if g.st = .inService then s.setEng e { g with st := .spare } else s)
      else if g.st = .spare then s.setEng e { g with st := .inService } else s) { s with place.extra := n }

/-- SET_PLACEMENT_LIMITS (0x0206). -/
def cardSetPlacementLimits : Card where
  opcode := 0x0206
  level := .m
  len := .exact 1
  reserved p := firstNonzero p [(2, 2)]
  params _ c := firstBad [(0, decide (byteAt c.params 0 ≤ 2)), (1, decide (byteAt c.params 1 ≤ 4))]
  run s c :=
    let point := byteAt c.params 0
    let n := byteAt c.params 1
    match s.placementShut c with
    | some r => r
    | none =>
      if point != s.place.point && s.place.insts.any (fun p => p.2.isPlaced) then .wrong 5
      else if (allEngs false).any (fun e => decide (12 ≤ e.no) && decide (e.no < 16) && sparePos n e.no &&
          (s.eng e).st != .spare && !(s.copiesOn e).isEmpty) then .wrong 6
      else .ok ((({ s with place.point := point }).setExtra n).checkSpares.restoreDegraded) []

def execSetPlacementLimits (dt : Nat) (c : Cmd) (s : State) : Host.Outcome State Fault Refusal :=
  runCard cardSetPlacementLimits dt c s

/-- GET_PLACEMENT_LIMITS (0x0207). -/
def cardGetPlacementLimits : Card where
  opcode := 0x0207
  level := .r
  changes := false
  len := .exact 0
  most _ _ := 2
  run s _ := .ok s (le 1 s.place.point ++ le 1 s.place.extra ++ le 2 s.sparesLeft)

def execGetPlacementLimits (dt : Nat) (c : Cmd) (s : State) : Host.Outcome State Fault Refusal :=
  runCard cardGetPlacementLimits dt c s

/-- GET_CLUSTER (0x0208). -/
def cardGetCluster : Card where
  opcode := 0x0208
  level := .r
  changes := false
  len := .exact 1
  most _ _ := 4
  reserved p := firstNonzero p [(1, 3)]
  params _ c := firstBad [(0, decide (byteAt c.params 0 ≤ 31))]
  run s c :=
    let cc := byteAt c.params 0
    let es := (allEngs false ++ allEngs true).filter (fun e => e.cc == cc)
    .ok s (le 2 (s.slotsFree cc) ++ le 2 (s.unitsFree cc) ++ le 4 (s.sampleFree cc) ++
      le 1 (s.enginesInUse false cc) ++ le 1 (s.enginesInUse true cc) ++
      le 1 ((es.filter (fun e => (s.eng e).st == .spare)).length) ++
      le 1 ((es.filter (fun e => (s.eng e).st == .failed || (s.eng e).st == .slow)).length))

def execGetCluster (dt : Nat) (c : Cmd) (s : State) : Host.Outcome State Fault Refusal := runCard cardGetCluster dt c s

/-! ### Events -/

/-- ENGINE_FAILED: Anvil reports an engine faulty, with its fault class (R79, R83, R87). -/
def execEngineFailed (dt : Nat) (ls : Bool) (cc no cls : Nat) (s : State) : Host.Outcome State Fault Refusal :=
  let s := s.advance dt
  let e : Eng := { ls := ls, cc := cc % 32, no := if ls then no % 2 else no % 17 }
  .next (s.failEngine e cls)

/-- COPY_LOAD_COMPLETE: a moved copy's code and image map are loaded (R81.1). -/
def execCopyLoadComplete (dt fi k : Nat) (s : State) : Host.Outcome State Fault Refusal :=
  let s := s.advance dt
  match s.inst fi with
  | none => .next s
  | some x =>
    match x.copy k with
    | none => .next s
    | some c =>
      match c.eng with
      | none => .next s
      | some e =>
        if c.st != .loading || c.codeIn then .next s
        else .next ((s.loadCodes e c x).setInst fi (x.modCopy k (fun c => { c with codeIn := true })))

/-- Is a copy of the instance on this engine between its entry and its post (06 R159)? -/
def State.copyBusy (s : State) (fi : Nat) (c : Copy) : Bool :=
  match c.eng with
  | some e => (match (s.eng e).exec with
    | some r => r.fi == fi && ((s.eng e).phase == .running || (s.eng e).phase == .signing)
    | none => false)
  | none => false

/-- COPY_DATA_TRANSFER: at a cycle boundary after the load, the instance data are copied from a surviving copy whose
cycle is complete, and the new copy runs from the next latch (R81). Without a survivor it starts cold (R87). -/
def execCopyDataTransfer (dt fi k : Nat) (s : State) : Host.Outcome State Fault Refusal :=
  let s := s.advance dt
  match s.inst fi with
  | none => .next s
  | some x =>
    match x.copy k with
    | none => .next s
    | some c =>
      if c.st != .loading || !c.codeIn || c.eng.isNone then .next s
      else
        let live (y : Inst) : Inst := y.modCopy k (fun c => { c with st := .running, lag := none })
        match (s.survivors x k).filterMap x.copy with
        | [] => .next (s.setInst fi { live x with coldNext := x.coldNext || x.isRunning })
        | d :: _ =>
          if s.copyBusy fi d then .next s
          else .next ((s.writeData c 0 (s.copyData d)).setInst fi (live x))

/-- CLUSTER_MEMORY_FAILED: a cluster's sample memory or filter block fails (R88). -/
def execClusterMemoryFailed (dt cc : Nat) (s : State) : Host.Outcome State Fault Refusal :=
  .next ((s.advance dt).failCluster (cc % 32) 0x000B)

/-- One engine's canary measurement, in instructions per second (R69): the lowest of the last second, the loss of its
margin, and since when it has had 1.25 q (15 R388). -/
def State.canary (s : State) (e : Eng) (m : Nat) : State :=
  let lost := (s.eng e).st != .failed && !(s.lostMargins e m).isEmpty
  let good := (s.copiesOn e).all (fun p => match s.inst p.1 with
    | some x => (match x.copy p.2 with
      | some c => !copyMarginLost x p.2 c.span (4 * m / 5)
      | none => true)
    | none => true)
  let keep (t : Nat) : Bool := !s.tb3Passed t 1000000
  s.modEng e (fun g => { g with
    canary := m, canaries := (s.tb3, m) :: g.canaries.filter (fun p => keep p.1),
    lostSince := if lost then some (g.lostSince.getD s.tb3) else none,
    goodSince := if good then some (g.goodSince.getD s.tb3) else none })

/-- CANARY_CHECK: the rates measured on the engines of one 100 µs check (R69, R70). A loss of margin starts the raising
of the chiplet's core voltage. -/
def execCanaryCheck (dt : Nat) (rates : List (Bool × Nat × Nat × Nat)) (s : State) : Host.Outcome State Fault Refusal :=
  let s := s.advance dt
  .next (rates.foldl (fun s (r : Bool × Nat × Nat × Nat) =>
    let e : Eng := { ls := r.1, cc := r.2.1 % 32, no := if r.1 then r.2.2.1 % 2 else r.2.2.1 % 17 }
    let s := s.canary e r.2.2.2
    if (s.eng e).lostSince.isSome then
      { s with power.raising := setAt s.power.raising (chipletOf e.cc) true }
    else s) s)

/-- MARGIN_LOST_TIMEOUT: an engine whose margin is still lost 1 ms after its chiplet reached 0.90 V becomes SLOW, and the
copies that lost their margin move as in R79 and R83 (R70, R71). -/
def execMarginLostTimeout (dt : Nat) (ls : Bool) (cc no : Nat) (s : State) : Host.Outcome State Fault Refusal :=
  let s := s.advance dt
  let e : Eng := { ls := ls, cc := cc % 32, no := if ls then no % 2 else no % 17 }
  let g := s.eng e
  let due := match s.power.ceilAt.getD (chipletOf e.cc) none with
    | some t => s.tb3Passed t 1000
    | none => false
  if g.lostSince.isNone || !due || g.st == .failed || g.st == .slow then .next s
  else
    let moved := s.lostMargins e g.canary
    let s := (s.setEng e { g with st := .slow }).post 0x0202
      (engBytes e ++ le 4 (g.canary / 1000000) ++ le 4 (s.requiredRate e))
    .next ((moved.foldl (fun s m => s.loseCopy m.1 m.2) s).checkSpares.restore e moved)

end Sys2Proof.Machine
end

