-- ==== Sys2Proof/Machine/Match.lean ====
section
/-! DEFINITION. Which internal consumer a received frame belongs to (04 R98, 09 R245, 02 R39, 16 R394). -/
namespace Sys2Proof.Machine

def etSv := 0x88BA
def etTw := 0x88B5
def etGoose := 0x88B8
def etPtp := 0x88F7
def etG5128 := 0x88B6

/-- Does a frame match a stream (04 R98)? -/
def State.streamMatches (s : State) (port : Nat) (e : Eth) (x : StreamDef) : Bool :=
  bit x.portMask port && e.dst == x.destMac && (x.vlan == 0 || s.frameVid port e == x.vlan) &&
  (if x.fmt = 0 then
     e.etype == etSv && (match iecParse e.payload with
       | some u => u.appid == x.appid && svFirstId u.apdu == some x.svid
       | none => false)
   else e.etype == etTw && be16 e.payload 2 == x.appid)

/-- The stream a frame matches, if any. -/
def State.findStream (s : State) (port : Nat) (e : Eth) : Option Nat :=
  (s.ingest.streams.find? (fun p => s.streamMatches port e p.2.cfg)).map (·.1)

/-- gocbRef of a GOOSE APDU, for the match of 09 R245. -/
def gooseRef (apdu : Bytes) : Option Bytes :=
  match berLen (apdu.drop 1) with
  | none => none
  | some (n, q) => if byteAt apdu 0 != 0x61 then none else (berAll (q.take n)).bind (fun l => berGet l 0x80)

/-- Does a frame match a subscription (09 R245)? -/
def State.subMatches (s : State) (port : Nat) (e : Eth) (x : Subscription) : Bool :=
  e.etype == etGoose && bit x.mask port && e.dst == x.destMac && (x.vlan == 0 || s.frameVid port e == x.vlan) &&
  (match iecParse e.payload with
   | some u => u.appid == x.appid && gooseRef u.apdu == some x.gocb
   | none => false)

def State.findSub (s : State) (port : Nat) (e : Eth) : Option Nat :=
  (s.pub.subs.find? (fun p => s.subMatches port e p.2)).map (·.1)

/-- Does a frame belong to the management Ethernet channel (02 R39)? -/
def State.mgmtMatches (s : State) (port : Nat) (e : Eth) : Bool :=
  (s.cmd.channels.getD 65 {}).enabled && port == s.cmd.ethPort && e.dst == s.cmd.ethMac && e.etype == etG5128 &&
  (match e.tci with
   | some t => s.cmd.ethVlan != 0 && t % 4096 == s.cmd.ethVlan
   | none => s.cmd.ethVlan == 0)

/-- The management channel accepts, and so consumes, a matched frame of its subtype and version (02 R39, R394). -/
def State.mgmtTakes (s : State) (port : Nat) (e : Eth) : Bool :=
  s.mgmtMatches port e && byteAt e.payload 0 == 1 && byteAt e.payload 1 == 1

/-- Does PTP of a base or Pdelay run on a port (14 R352, R353)? -/
def State.ptpPort (s : State) (port : Nat) : Bool := bit s.horizon.tb0.ports port || bit s.horizon.tb1.ports port

/-- Does an internal consumer take a frame (R394)? -/
def State.consumerTakes (s : State) (port : Nat) (e : Eth) : Bool :=
  (s.findStream port e).isSome || (s.findSub port e).isSome || (e.etype == etPtp && s.ptpPort port) || s.mgmtTakes port e

end Sys2Proof.Machine
end

