-- ==== Sys2Proof/Machine/RedOps.lean ====
section
/-! DEFINITION. PRP and HSR: entities, sequence windows, tags, ordered delivery (16 R412 to R418). -/
namespace Sys2Proof.Machine

/-! ### Windows (R414) -/

/-- How a number is judged against a window. -/
inductive SeqVerdict where
  | fresh
  | duplicate
  | late
  | outside
  deriving DecidableEq, Repr

def SeqWin.judge (w : SeqWin) (q : Nat) : SeqVerdict :=
  if !w.any then .fresh
  else
    let d := sdiff 16 q w.h
    if d > 0 then .fresh
    else if d > -256 then (if bit w.bits (-d).toNat then .duplicate else .late)
    else .outside

/-- Marks a number in a window. -/
def SeqWin.mark (w : SeqWin) (q : Nat) : SeqWin :=
  match w.judge q with
  | .duplicate => w
  | .late => { w with bits := w.bits ||| 2 ^ (-(sdiff 16 q w.h)).toNat }
  | .outside => { h := q, bits := 1, any := true }
  | .fresh =>
    if !w.any then { h := q, bits := 1, any := true }
    else { h := q, bits := (w.bits * 2 ^ (sdiff 16 q w.h).toNat + 1) % 2 ^ 256, any := true }

/-! ### Entities (R412) -/

def State.entity (s : State) (n : Nat) : Entity := s.sw.entities.getD n {}
def State.setEntity (s : State) (n : Nat) (e : Entity) : State := { s with sw.entities := s.sw.entities.put n e }
def State.modEntity (s : State) (n : Nat) (f : Entity → Entity) : State := s.setEntity n (f (s.entity n))
def State.entCount (s : State) (n i : Nat) : State :=
  s.modEntity n (fun e => { e with counters := modAt e.counters i inc32 })

def Entity.prp (e : Entity) : Bool := e.mode == 1 || e.mode == 2
def Entity.hsr (e : Entity) : Bool := e.mode == 3 || e.mode == 4
def Entity.redbox (e : Entity) : Bool := e.mode == 2 || e.mode == 4

/-- The entity a port belongs to. -/
def State.portEntity (s : State) (port : Nat) : Option Nat :=
  (s.sw.entities.find? (fun p => p.2.mode != 0 && (p.2.a == port || p.2.b == port))).map (·.1)

/-- What a port's frame carries of redundancy: entity, source and sequence number, if tagged, and the frame without the
tag (R412, R413). -/
structure Stripped where
  frame : Bytes
  ent   : Option Nat := none
  src   : Nat := 0
  seq   : Option Nat := none
  lan   : Nat := 0
  deriving DecidableEq, Repr

def State.redStrip (s : State) (port : Nat) (f : Bytes) : Stripped :=
  match s.portEntity port with
  | none => { frame := f }
  | some n =>
    let src := (ethParse f).src
    if (s.entity n).prp then
      match rctOf f with
      | some (q, lan) => { frame := dropRct f, ent := some n, src := src, seq := some q, lan := lan }
      | none => { frame := f, ent := some n, src := src }
    else
      match hsrOf f with
      | some (q, path, g) => { frame := g, ent := some n, src := src, seq := some q, lan := path }
      | none => { frame := f, ent := some n, src := src }

/-- The 4 096 source entries are shared by all entities (R414). -/
def State.sourceCount (s : State) : Nat := (s.sw.entities.map (fun p => p.2.sources.length)).foldl (· + ·) 0

/-- The window entry of a source, made if there is room; refreshed now. -/
def State.touchSource (s : State) (n src : Nat) : Option SrcEntry × State :=
  match (s.entity n).sources.get src with
  | some e => (some e, s.modEntity n (fun t => { t with sources := t.sources.put src { e with at_ := visNs s.tb3 } }))
  | none =>
    if s.sourceCount ≥ 4096 then (none, s.entCount n 4)
    else
      let e : SrcEntry := { at_ := visNs s.tb3 }
      (some e, s.modEntity n (fun t => { t with sources := t.sources.put src e }))

def State.modSource (s : State) (n src : Nat) (f : SrcEntry → SrcEntry) : State :=
  s.modEntity n (fun t => { t with sources := t.sources.upd src f })

/-- Consumer window: is the copy's number marked already (R415)? -/
def State.consumerSeen (s : State) (r : Stripped) : Bool :=
  match r.ent, r.seq with
  | some n, some q =>
    (match (s.entity n).sources.get r.src with
     | some e => e.cons.judge q == .duplicate
     | none => false)
  | _, _ => false

/-- A consumer accepted the copy: its number is marked (R415). -/
def State.consumerMark (s : State) (r : Stripped) : State :=
  match r.ent, r.seq with
  | some n, some q =>
    (match s.touchSource n r.src with
     | (some _, s) => s.modSource n r.src (fun e => { e with cons := e.cons.mark q })
     | (none, s) => s)
  | _, _ => s

/-! ### Sending through an entity (R413) -/

/-- The next transmit number of a source. -/
def State.nextTx (s : State) (n src : Nat) : Nat × State :=
  let q := (s.entity n).tx.getD src 0
  (q, s.modEntity n (fun t => { t with tx := t.tx.put src ((q + 1) % 65536) }))

/-- A frame as it leaves by port A (`second` false) or B of an entity. -/
def Entity.tagged (e : Entity) (f : Bytes) (seq : Nat) (second : Bool) : Bytes :=
  if e.prp then addRct f seq (if second then 0xB else 0xA) else addHsr f seq (if second then 1 else 0)

/-- A frame of the module leaves by a port; one that belongs to an entity sends it on A and B under one number. -/
def State.originateOn (s : State) (port tc : Nat) (f : Bytes) (ready : Nat) (seq : Option Nat) : State :=
  match s.portEntity port with
  | none => s.originate port tc f ready
  | some n =>
    let e := s.entity n
    let (q, s) := match seq with
      | some q => (q, s)
      | none => s.nextTx n (ethParse f).src
    (s.originate e.a tc (e.tagged f q false) ready).originate e.b tc (e.tagged f q true) ready

/-- The ports of a mask, with the two ports of an entity standing once. -/
def State.maskPorts (s : State) (mask : Nat) : List Nat :=
  (bitList 128 mask).filter (fun p => s.isSwitchPort p &&
    (match s.portEntity p with
     | some n => p == (s.entity n).a || !bit mask (s.entity n).a
     | none => true))

/-- Source address of the frames this module originates (12 R310). -/
def State.ownMac (s : State) : Nat := if s.pair.configured then s.pair.mac else Config.sourceMac.toNat

end Sys2Proof.Machine
end

