-- ==== Sys2Proof/Machine/PubCheck.lean ====
section
/-! DEFINITION. Publication instants (08 R204) and the fit of express frames to their gate windows (09 R241 to R243). -/
namespace Sys2Proof.Machine

/-- The minimum PUB_DELAY of a cycle class in 1/589824 ns: 0.85 × c × tick + 2.15 µs (01 R17, 08 R204). -/
def dMin (c : Nat) : Nat := 5222400000 * c + 2150 * qNs

/-- PUB_DELAY of an instance: 0 selects the minimum exactly. -/
def Inst.pubQ (x : Inst) : Nat := if x.pubDelay = 0 then dMin x.cycle else x.pubDelay * qNs

/-- The phase by which an instance's instants are known: the one placed, else the one declared. -/
def Inst.knownPhase (x : Inst) : Option Nat :=
  if x.phase != 0xFF then some x.phase else if x.phaseDecl != 0xFF then some x.phaseDecl else none

def raLatency := 0x0010
def raGateWindow := 0x0011

/-- An enabled EXPRESS publication on a port as the check sees it: driver, PUB, cycle, phase, delay, FRAME_BYTES. -/
structure ExpressPub where
  fi    : Nat
  pub   : Nat
  cycle : Nat
  phase : Nat
  delay : Nat
  bytes : Nat
  deriving DecidableEq, Repr

/-- The ports a publication uses, under its mask and the pending ones. -/
def Publication.allPorts (x : Publication) : Nat := (x.routes.filterMap (·.mask)).foldl (· ||| ·) x.mask

def expressOf (s : State) (port : Nat) (pub : Nat) (x : Publication) : Option ExpressPub :=
  let ports := x.allPorts
  if !x.enabled || x.cls != 0 || !bit ports port then none
  else
    match s.inst x.driver with
    | none => none
    | some d => d.knownPhase.map (fun ph =>
        { fi := x.driver, pub := pub, cycle := d.cycle, phase := ph, delay := d.pubQ, bytes := x.frameBytes })

/-- The order of R241. -/
def expressBefore (a b : ExpressPub) : Bool := decide (a.fi < b.fi) || (a.fi == b.fi && decide (a.pub ≤ b.pub))

/-- One instant's frames, one after the other; time in 1/25 of 1/589824 ns, in which every byte time is whole (R242). -/
def fitFrames (gateOpen : Nat → Nat → Bool) (phy t : Nat) : Nat → List ExpressPub → Option (Nat × Nat)
  | _, [] => none
  | start, x :: l =>
    let stop := start + qNs * (x.bytes + 20) * 2000 / rate10 phy
    if !gateOpen t stop then some (raGateWindow, x.pub)
    else if x.cycle = 1 && decide (24020 * qNs * 25 + (x.delay - dMin 1) * 25 + (start - t * 25 - 600 * qNs * 25) > 25000 * qNs * 25)
    then some (raLatency, x.pub)
    else fitFrames gateOpen phy t stop l

/-- The instants of one publication over a common period of `period` ticks. -/
def expressInstants (period : Nat) (x : ExpressPub) : List Nat :=
  (List.range (period / max x.cycle 1)).map (fun i => (x.phase + i * x.cycle) * qTick + x.delay)

/-- Distinct values of a rising list. -/
def distinct : List Nat → List Nat
  | [] => []
  | a :: l => match distinct l with
    | [] => [a]
    | b :: t => if a = b then b :: t else a :: b :: t

/-- The check of R242 on one port under a gate list and a PHY: the code and the PUB of the first failure. -/
def State.expressFailOn (s : State) (port : Nat) (gate : GateList) (phy : Nat) : Option (Nat × Nat) :=
  let xs := s.pub.pubs.filterMap (fun p => expressOf s port p.1 p.2)
  if xs = [] then none
  else
    let period := if gate.enable then Nat.lcm 20 (max gate.cycle 1) else 20
    let gateOpen (t stop : Nat) : Bool := bit (gate.gates t) 7 && (match gate.closes 7 t with
      | some c => decide (c * 25 > stop)
      | none => true)
    let ts := distinct (sortBy (fun a b => decide (a ≤ b)) (xs.flatMap (expressInstants period)))
    ts.findSome? (fun t =>
      let due := sortBy expressBefore (xs.filter (fun x => (expressInstants period x).contains t))
      fitFrames gateOpen phy t ((t + 600 * qNs) * 25) due)

/-- The list a port will run, once a pending one has taken over. -/
def SwPort.lastGate (p : SwPort) : GateList := match p.nextGate with
  | some (_, g) => g
  | none => p.gate

/-- The check over every port, as R243 runs it: under the list in force, and under a pending one. -/
def State.expressFail (s : State) : Option (Nat × Nat) :=
  let mask := (s.pub.pubs.map (fun p => p.2.allPorts)).foldl (· ||| ·) 0
  (bitList 128 mask).findSome? (fun n =>
    match s.expressFailOn n (s.swp n).gate (s.port n).phy with
    | some r => some r
    | none => if (s.swp n).nextGate.isSome then s.expressFailOn n (s.swp n).lastGate (s.port n).phy else none)

end Sys2Proof.Machine
end

