-- ==== Sys2Proof/Machine/PubOps.lean ====
section
/-! DEFINITION. The publisher: encoding of GOOSE frames (09 R234, R236, R240), state changes and retransmissions (R235 to
R239), publication instants and what leaves at them (R233, R241, R244, 12 R314). -/
namespace Sys2Proof.Machine

/-! ### UTC (14 R366) -/

/-- The master that a base follows. -/
def PtpBase.master (b : PtpBase) : Option Master :=
  b.selected.bind (fun k => b.masters.find? (fun m => m.port == k.1 && m.sender == k.2))

/-- UTC_OFFSET in force, in seconds. -/
def State.utcOffset (s : State) : Int :=
  match if s.horizon.utcFixed then none else s.followed.master.bind (·.utc) with
  | some u => u
  | none => s.horizon.utcSet

/-- The UtcTime of an instant, with its time quality (R234). -/
def State.gooseTime (s : State) (q : Nat) : Bytes :=
  let ns : Int := (q / qNs : Nat) - s.utcOffset * 1000000000
  let sec := ns.fdiv 1000000000
  let frac := (ns - sec * 1000000000).toNat * 2 ^ 24 / 1000000000
  be 4 (ofSigned 32 sec) ++ be 3 frac ++ le 1 (0x80 + 0x20 * boolNat (s.horizon.ptSt == .holdover) + 20)

/-! ### Entries (R236) -/

/-- The encoded value of an entry as a number: 0 or 1, the 32-bit value, or the 13-bit quality in 16 bits, first bit on top. -/
def entryCode (type value status : Nat) : Nat :=
  match type with
  | 1 => boolNat (value != 0)
  | 4 => (if bit status 0 then 0 else 0x4000) + (if bit status 2 then 0x0200 else 0)
  | _ => value

/-- The element of an entry in the data set (fixed-length encoding, log entry 34). -/
def entryElem (type code : Nat) : Bytes :=
  match type with
  | 1 => berPut 0x83 (le 1 code)
  | 2 => berPut 0x85 (be 4 code)
  | 3 => berPut 0x87 (le 1 8 ++ be 4 code)
  | _ => berPut 0x84 (le 1 3 ++ be 2 code)

/-! ### Frames (R234, R240) -/

/-- A 32-bit unsigned field of fixed length. -/
def fixed32 (tag v : Nat) : Bytes := berPut tag (be 5 v)

/-- The GOOSE APDU of a publication. -/
def Publication.apdu (p : Publication) (tal : Nat) (t : Bytes) : Bytes :=
  let data := (List.zip p.entries p.state).flatMap (fun e => entryElem e.1.2 e.2)
  berPut 0x61 (berPut 0x80 p.gocb ++ fixed32 0x81 tal ++ berPut 0x82 p.datset ++ berPut 0x83 p.goid ++ berPut 0x84 t ++
    fixed32 0x85 p.stNum ++ fixed32 0x86 p.sqNum ++ berPut 0x87 (le 1 (boolNat p.sim)) ++ fixed32 0x88 p.confRev ++
    berPut 0x89 (zeros 1) ++ fixed32 0x8A p.entries.length ++ berPut 0xAB data)

/-- What ends a frame with AUTH: the extension's own header, then the tag over all that precedes it (log entry 34). -/
def authExt (auth : Nat) (key : Option Bytes) (body : Bytes) : Bytes :=
  if auth = 0 then []
  else
    let d := body ++ le 1 0xAC ++ le 1 (tagBytes auth)
    let tag := match key with
      | some k =>
        if auth ≤ 2 then tagOf auth k [] d else tagOf auth k (d.drop (d.length - 12)) (d.take (d.length - 12))
      | none => []
    le 1 0xAC ++ le 1 (tagBytes auth) ++ padTo (tagBytes auth) tag

/-- The frame up to its FCS (R234). -/
def Publication.frame (p : Publication) (mac tal : Nat) (t : Bytes) : Bytes :=
  let a := p.apdu tal t
  let ext := if p.auth = 0 then 0 else 2 + tagBytes p.auth
  let body := be 2 p.appid ++ be 2 (8 + a.length) ++ be 2 (0x8000 * boolNat p.sim + ext) ++ zeros 2 ++ a
  ethBuild { dst := p.destMac, src := mac, tci := if p.vlan = 0 then none else some (p.pcp * 8192 + p.vlan),
             etype := etGoose, payload := body ++ authExt p.auth p.key body }

/-- FRAME_BYTES: from the destination address to the FCS; the shortest frame is 64 bytes (R234). -/
def Publication.frameLen (p : Publication) : Nat :=
  max 64 (({ p with state := p.entries.map (fun _ => 0) }.frame 0 0 (zeros 8)).length + 4)

/-! ### The schedule (R237, R238) -/

/-- I_j in driver cycles. -/
def Publication.interval (p : Publication) (j : Nat) : Nat := min (p.minI * 2 ^ min j 32) p.maxI

/-- timeAllowedtoLive of frame `j` in ms. -/
def Publication.tal (p : Publication) (cycle : Nat) : Nat :=
  max 1 (ceilDiv (2 * p.interval p.j * cycle * qTick) (1000000 * qNs))

/-- stNum and sqNum continue at 1 after their last value. -/
def numNext (v : Nat) : Nat := if v ≥ 0xFFFFFFFF then 1 else v + 1

/-- A new state at the instant `at_` of latch `n`. -/
def Publication.newState (p : Publication) (st : List Nat) (n at_ cycle : Nat) : Publication :=
  { p with state := st, stNum := numNext p.stNum, sqNum := 0, j := 0, lastChange := at_, nextDue := n + p.interval 0 * cycle }

/-- A retransmission at latch `n`. -/
def Publication.again (p : Publication) (n cycle : Nat) : Publication :=
  { p with sqNum := numNext p.sqNum, j := min (p.j + 1) 32, nextDue := n + p.interval (p.j + 1) * cycle }

/-- The route changes that apply from latch `n` on (R244). -/
def Publication.applyRoutes (p : Publication) (n : Nat) : Publication :=
  let due := p.routes.filter (fun r => decide (r.tick ≤ n))
  { due.foldl (fun (p : Publication) r => { p with mask := r.mask.getD p.mask, entries := r.entries.getD p.entries }) p with
    routes := p.routes.filter (fun r => !decide (r.tick ≤ n)) }

/-! ### An instant -/

/-- What a driver's instant brings: its cycle was accepted, was withheld, or did not run. -/
inductive PubTurn where
  | accepted
  | withheld
  | still
  deriving DecidableEq, Repr

/-- The encoded data set at an instant: the driver's own signals as they stand at P, any other as the image of latch `n`
sees it (R235). The driver's accepted result is VALID. -/
def State.pubState (s : State) (p : Publication) (n at_ : Nat) (turn : PubTurn) : List Nat :=
  p.entries.map (fun e =>
    let own := (s.signal e.1).src == SigSrc.output p.driver
    let (v, st) := s.sigRecord e.1 (if own then at_ else boundaryQ n)
    entryCode e.2 v (if own && turn == .accepted then sbValid else st))

/-- The copies of a frame by port, through redundancy entities, with their sequence numbers taken (R241, 16 R413). -/
def State.pubCopies (s : State) (mask : Nat) (f : Bytes) : List (Nat × Bytes) × State :=
  (s.maskPorts mask).foldl (fun (r : List (Nat × Bytes) × State) p =>
    match r.2.portEntity p with
    | none => (r.1 ++ [(p, f)], r.2)
    | some n =>
      let e := r.2.entity n
      let (q, s) := r.2.nextTx n (ethParse f).src
      (r.1 ++ [(e.a, e.tagged f q false), (e.b, e.tagged f q true)], s)) ([], s)

/-- May the module start publication frames (12 R316, 11 R292)? -/
def State.mayPublish (s : State) : Bool := s.pair.pubEnable && s.anvil.hub != .fatal

/-- One publication at its driver's instant of latch `n`, at `at_` (R237 to R239, 12 R307, R314). A standby holds what it built;
instants older than 20 µs can no longer be unconfirmed at a takeover (12 R317). What was due before T_o leaves at T_o in the
preemptable class (12 R318). -/
def State.pubInstant (s : State) (num n at_ cycle : Nat) (turn : PubTurn) : State :=
  match s.pub.pubs.get num with
  | none => s
  | some p0 =>
    if !p0.enabled || !decide ((p0.first.getD 0) ≤ n) then s
    else
      let p1 := p0.applyRoutes n
      let p := if turn = .withheld then { p1 with withheld := inc32 p1.withheld } else p1
      let st := s.pubState p n at_ turn
      let fresh := turn != .withheld && (p.stNum == 0 || st != p.state)
      let due := fresh || (p.stNum != 0 && decide (p.nextDue ≤ n))
      let p := if fresh then p.newState st n at_ cycle else if due then p.again n cycle else p
      let s := { s with pub.pubs := s.pub.pubs.put num p }
      let (copies, s) := if due then s.pubCopies p.mask (p.frame s.ownMac (p.tal cycle) (s.gooseTime p.lastChange)) else ([], s)
      let tc := if p.cls = 0 then 7 else 5
      if s.mayPublish then
        let sent := copies.any (fun c => s.portUp c.1)
        let s := copies.foldl (fun s c =>
          if at_ < s.pair.toAt then s.originate c.1 5 c.2 s.pair.toAt else s.originate c.1 tc c.2 at_) s
        let s := if due then { s with pub.pubs := s.pub.pubs.put num { p with frames := inc32 p.frames } } else s
        if s.inControl then s.pairSend (recPub num sent n p.stNum p.sqNum) else s
      else if due && s.pair.st == .standby then
        { s with pair.held := (s.pair.held.filter (fun h => decide (h.at_ + 20000 * qNs ≥ at_))) ++
            [{ pub := num, tick := n, at_ := at_, frames := copies.map (fun c => (c.1, 5, c.2)), sent := false }] }
      else s

/-- The latch whose publication instant an instance has reached last, if it has not been taken yet (R233, 08 R204). -/
def State.instantDue (s : State) (x : Inst) : Option Nat :=
  match x.knownPhase with
  | none => none
  | some ph =>
    let c := max x.cycle 1
    if !s.ptValid || s.now + 6 < x.pubQ then none
    else
      let m := (s.now + 6 - x.pubQ) / qTick
      let d := (m + c - ph % c) % c
      if m < d || x.lastPub == some (m - d) then none else some (m - d)

/-- The instance's outputs at the instant of latch `n` (08 R215, 09 R232): what became of the cycle, and the state with its
signals. -/
def State.outputInstant (s : State) (fi n at_ : Nat) (x : Inst) : PubTurn × State :=
  let c := x.cycles.find? (fun c => c.tick == n)
  let x := { x with lastPub := some n, cycles := x.cycles.filter (fun c => decide (n < c.tick)) }
  let isNew := (x.firstNew.map (fun m => decide (m ≤ n))).getD false
  match c with
  | none => (.still, s.setInst fi x)
  | some c =>
    if !c.ran then
      if (x.safeFrom.map (fun m => decide (m ≤ n))).getD false && !x.safe then
        (.still, (s.setInst fi { x with safe := true }).driveOutputs fi at_ (s.safeWords x) sbSafe)
      else (.still, s.setInst fi x)
    else
      match c.verdict with
      | some (.released outs) =>
        (.accepted, (s.setInst fi { x with
            outs := outs, safe := false, safeFrom := none, published := true, everOut := true,
            newOut := x.newOut || isNew }).driveOutputs fi at_ outs 0)
      | _ =>
        if x.safe && x.everOut then
          (.withheld, (s.setInst fi { x with safe := false, safeFrom := none }).driveOutputs fi at_ x.outs 0)
        else (.withheld, s.setInst fi { x with safeFrom := none })

/-- The publication instant of an instance. Without a cycle of its own the instant still exists (R233). -/
def State.instantOf (s : State) (fi : Nat) : State :=
  match s.inst fi with
  | none => s
  | some x =>
    match s.instantDue x with
    | none => s
    | some n =>
      let at_ := boundaryQ n + x.pubQ
      let (turn, s) := s.outputInstant fi n at_ x
      if s.anvil.hub = .fatal then s
      else
        let nums := (s.pub.pubs.filter (fun p => p.2.driver == fi)).map (·.1)
        nums.foldl (fun s num => s.pubInstant num n at_ x.cycle turn) s

end Sys2Proof.Machine
end

