-- ==== Sys2Proof/Machine/TimeOps.lean ====
section
/-! DEFINITION. Horizon: best master, servo, states of the bases and of protection time (14 R352 to R366). -/
namespace Sys2Proof.Machine

def State.ptp (s : State) (b : Nat) : PtpBase := if b = 0 then s.horizon.tb0 else s.horizon.tb1
def State.setPtp (s : State) (b : Nat) (x : PtpBase) : State :=
  if b = 0 then { s with horizon.tb0 := x } else { s with horizon.tb1 := x }

def BaseSt.code : BaseSt → Nat
  | .disabled => 0
  | .listening => 1
  | .acquiring => 2
  | .locked => 3
  | .holdover => 4

def PtSt.code : PtSt → Nat
  | .invalid => 0
  | .synced => 1
  | .holdover => 2

/-- The number of the followed base. -/
def State.followNo (s : State) : Nat := if s.horizon.follow1 then 1 else 0

/-- Picoseconds in 2^-16 ns. -/
def psUnits (ps : Int) : Int := divToZero (ps * 65536) 1000

/-- Corrections of a port (R355). -/
def State.timingOf (s : State) (port : Nat) : PortTiming := s.horizon.timing.getD port {}

/-! ### Protection time (R359 to R362) -/

/-- |e| against 1 ms: TIME_DIVERGED is recorded and raised when it first exceeds it (R361). -/
def State.checkDiverged (s : State) : State :=
  let big := decide (s.slewE.natAbs > 1000000 * 2 ^ 40)
  if !s.ptValid || big == s.horizon.diverged then s
  else
    let s := { s with horizon.diverged := big }
    if big then (s.post 0x0A04 (leS 8 (divFloor s.slewE (2 ^ 24)))).raiseInt 138 else s

/-- Protection time becomes valid on base `b` (R359). -/
def State.ptStart (s : State) (b : Nat) : State :=
  { s with horizon.pt := (s.ptp b).value, horizon.ptSt := .synced, horizon.follow1 := b == 1,
           horizon.tb0LockAt := s.tb3 }

/-- Protection time follows base `b` from now on (R362). -/
def State.switchTime (s : State) (b : Nat) : State :=
  let s := { s with horizon.follow1 := b == 1, horizon.tb0LockAt := s.tb3 }
  (s.post 0x0A03 (le 1 b ++ leS 8 (divFloor s.slewE (2 ^ 24)))).checkDiverged

/-- Protection time where base `b` has reached LOCKED (R359, R360). -/
def State.baseLocked (s : State) (b : Nat) : State :=
  let s := if b = 0 then { s with horizon.tb0LockAt := s.tb3 } else s
  match s.horizon.ptSt with
  | .invalid => if b = s.followNo || s.horizon.auto then s.ptStart b else s
  | .holdover => if b = s.followNo && s.horizon.pllLock then { s with horizon.ptSt := .synced }.checkDiverged else s
  | .synced => s

/-- Protection time where base `b` has left LOCKED (R360, R362). -/
def State.baseLost (s : State) (b : Nat) : State :=
  if s.horizon.ptSt != .synced || b ≠ s.followNo then s
  else if s.horizon.auto && (s.ptp (1 - b)).st == .locked then s.switchTime (1 - b)
  else { s with horizon.ptSt := .holdover }

/-! ### States of a base (R358) -/

/-- The time at the present rate joins the last 60 s spent in LOCKED (R356). -/
def PtpBase.closeSeg (x : PtpBase) (now : Nat) : PtpBase :=
  if x.st != .locked then x
  else
    let add := (tDiff now x.segAt).toNat
    let keep := ((x.segs.foldl (fun (r : Nat × List (Nat × Int)) g =>
      if r.1 ≥ 60 * 10 ^ 9 * 2 ^ 40 then r
      else
        let d := min g.1 (60 * 10 ^ 9 * 2 ^ 40 - r.1)
        (r.1 + d, r.2 ++ [(d, g.2)])) (min add (60 * 10 ^ 9 * 2 ^ 40), [])).2)
    { x with segs := (min add (60 * 10 ^ 9 * 2 ^ 40), x.rate) :: keep, segAt := now }

/-- HOLDOVER_RATE (R356). -/
def PtpBase.holdRate (x : PtpBase) : Int :=
  let total : Nat := (x.segs.map (·.1)).foldl (· + ·) 0
  if total < 60 * 10 ^ 9 * 2 ^ 40 then x.rate
  else divToZero ((x.segs.map (fun g => (g.1 : Int) * g.2)).foldl (· + ·) 0) total

/-- A base changes state, with its record and what that does to protection time. -/
def State.baseTo (s : State) (b : Nat) (st : BaseSt) (record : Bool) : State :=
  let x := (s.ptp b).closeSeg s.tb3
  let old := x.st
  let s := s.setPtp b { x with st := st, segAt := s.tb3, lockRun := 0, bigRun := 0, outRun := 0 }
  let s := if record then s.post 0x0A02 (le 1 b ++ le 1 old.code ++ le 1 st.code) else s
  if st = .locked then s.baseLocked b else if old = .locked then s.baseLost b else s

/-- A base enters HOLDOVER (R358). -/
def State.toHoldover (s : State) (b : Nat) : State :=
  let x := (s.ptp b).closeSeg s.tb3
  if x.st != .acquiring && x.st != .locked then s
  else
    let s := s.setPtp b { x with rate := x.holdRate, holdAt := s.tb3, twoStep := none }
    (s.baseTo b .holdover true).raiseInt 137

/-- The Horizon PLL loses lock (R358, R360, R365). -/
def State.hznUnlocked (s : State) : State :=
  let s := { s with horizon.pllLock := false }
  let s := if s.horizon.ptSt = .synced then { s with horizon.ptSt := .holdover } else s
  (s.toHoldover 0).toHoldover 1

/-- The Horizon PLL locks again (R360). -/
def State.hznLocked (s : State) : State :=
  let s := { s with horizon.pllLock := true }
  if s.horizon.ptSt == .holdover && (s.ptp s.followNo).st == .locked then
    { s with horizon.ptSt := .synced }.checkDiverged else s

/-! ### Best master (R352) -/

def listBefore : List Nat → List Nat → Bool
  | [], _ => true
  | _, [] => false
  | a :: l, b :: m => decide (a < b) || (a == b && listBefore l m)

/-- The best of the masters heard whose Announce messages have not ceased for three intervals (log entry 41). -/
def bestMaster (now : Nat) (l : List Master) : Option (Nat × Nat) :=
  let live := l.filter (fun m => decide (tDiff now m.lastAnn ≤ (3 * m.annIntNs * 2 ^ 40 : Nat)))
  ((sortBy (fun a b => listBefore a.dataset b.dataset) live).head?).map (fun m => (m.port, m.sender))

/-- The base selects again; a change of master passes through ACQUIRING (R358). -/
def State.selectMaster (s : State) (b : Nat) : State :=
  let x := s.ptp b
  let best := bestMaster s.tb3 x.masters
  if best = x.selected then s
  else
    let s := s.setPtp b { x with selected := best, twoStep := none }
    if x.st = .locked && best.isSome then s.baseTo b .acquiring true else s

/-- The base that takes PTP of a domain on a port, if any. -/
def State.ptpBaseOf (s : State) (port domain vlan : Nat) : Option Nat :=
  [0, 1].find? (fun b =>
    let x := s.ptp b
    x.enable && bit x.ports port && x.domain == domain && x.vlan == vlan)

/-! ### The servo (R356, R357) -/

def kp (bw : Nat) : Int := if bw = 0 then 8886 else if bw = 1 then 26660 else 88860
def ki (bw : Nat) : Int := if bw = 0 then 3948 else if bw = 1 then 35530 else 394800

/-- 200 000 ppb in 2^-16 ppb. -/
def rateMax : Int := 13107200000

/-- KI × o × Ts in 2^-16 ppb, Ts = 2^log s. -/
def kiTerm (bw : Nat) (o log : Int) : Int :=
  divToZero (ki bw * o * 2 ^ log.toNat) (1000000 * 2 ^ (-log).toNat)

/-- One used Sync: I and rate. -/
def PtpBase.servo (x : PtpBase) (o log : Int) : PtpBase :=
  let i := clampInt (-rateMax) rateMax (x.integ + kiTerm x.bw o log)
  { x with integ := i, rate := clampInt (-rateMax) rateMax (divToZero (-(kp x.bw * o + i * 100000)) 100000),
           absLast := (o.natAbs :: x.absLast).take 16, outRun := 0 }

/-- Is an offset an outlier (R356)? -/
def PtpBase.outlier (x : PtpBase) (o : Int) : Bool :=
  x.st == .locked && decide (o.natAbs * x.absLast.length > 16 * (x.absLast.foldl (· + ·) 0)) && decide (x.outRun < 3)

/-- The base of a Sync that the servo accepts, with offset `o` in 2^-16 ns (R356, R358). -/
def State.acceptSync (s : State) (b : Nat) (o log : Int) : State :=
  let x := s.ptp b
  let s := match x.st with
    | .listening => (s.setPtp b { x with integ := 0 }).baseTo b .acquiring false
    | .holdover => s.baseTo b .acquiring false
    | _ => s
  let x := s.ptp b
  let x := { x with lastO := o, lastSync := s.tb3, syncIntNs := 1000000000 * 2 ^ log.toNat / 2 ^ (-log).toNat,
                    bigRun := if o.natAbs > 1000 * 65536 then x.bigRun + 1 else 0 }
  if x.st = .acquiring && decide (o.natAbs > 1000 * 65536) then
    let v := ofSigned 104 ((x.value : Int) - o * 2 ^ 24)
    ((s.setPtp b { x with value := v, steps := inc32 x.steps, lockRun := 0 }).post 0x0A01
      (le 1 b ++ leS 8 (divToZero (-o) 65536))).checkDiverged
  else
    let used := !x.outlier o
    let x := if used then (x.closeSeg s.tb3).servo o log else { x with outliers := inc32 x.outliers, outRun := x.outRun + 1 }
    let x := { x with lockRun := if o.natAbs ≤ x.lockNs * 65536 then x.lockRun + 1 else 0 }
    let s := s.setPtp b x
    if x.st = .acquiring && x.lockRun ≥ 16 then s.baseTo b .locked true
    else if x.st = .locked && x.bigRun ≥ 4 then s.baseTo b .acquiring true
    else s

/-- offsetFromMaster of a Sync on a port, in 2^-16 ns (R355, R356): the ingress latency of an external PHY, the link delay and
its asymmetry are taken off. -/
def State.syncOffset (s : State) (port t2 origin : Nat) (corr : Int) : Int :=
  let t := s.timingOf port
  sdiff 80 t2 origin - psUnits t.ingressPs - corr - t.linkDelay - psUnits t.asymPs

/-! ### The other bases -/

/-- TB2 is valid while Stratus is synchronised (R367). -/
def State.tb2Valid (s : State) : Bool := s.stratus.sync != .lost

/-- Value and validity of the base of a pulse pin: 0 protection time, 1 TB0, 2 TB1, 3 TB2, 4 TB3. -/
def State.pulseBase (s : State) (b : Nat) : Nat × Bool :=
  match b with
  | 0 => (vis s.horizon.pt, s.ptValid)
  | 1 => (vis s.horizon.tb0.value, s.horizon.tb0.valid)
  | 2 => (vis s.horizon.tb1.value, s.horizon.tb1.valid)
  | 3 => (vis s.horizon.tb2, s.tb2Valid)
  | _ => (vis s.horizon.tb3, true)

end Sys2Proof.Machine
end

