-- ==== Sys2Proof/Machine/ClockOps.lean ====
section
/-! DEFINITION. The clock unit and the core rails at work (15 R375 to R388). -/
namespace Sys2Proof.Machine

def SrcSt.code : SrcSt → Nat
  | .disabled => 0
  | .absent => 1
  | .qualifying => 2
  | .qualified => 3
  | .failed => 4

def RefSt.code : RefSt → Nat
  | .unreferenced => 0
  | .locked => 1
  | .holdover => 2

def State.clk (s : State) (i : Nat) : ClkSource := s.clocks.srcs.getD i {}
def State.setClk (s : State) (i : Nat) (x : ClkSource) : State := { s with clocks.srcs := setAt s.clocks.srcs i x }

/-- The port of a recovered clock (R376). -/
def State.rcvPort (s : State) (i : Nat) : Nat := if i = 2 then s.clocks.rcv0 else s.clocks.rcv1

/-! ### Selection (R381 to R383) -/

/-- The reference code of the system reference (ClkDomain). -/
def State.refCode (s : State) : Nat :=
  match s.clocks.refSt with
  | .locked => s.clocks.selected.getD 5
  | .holdover => 4
  | .unreferenced => 5

/-- A domain's reference changes to `r`: at once, or after the switch in progress (R383). -/
def ClkDomain.want (d : ClkDomain) (r : Nat) : ClkDomain :=
  match d.next with
  | some _ => d
  | none => if d.ref = r then d else { d with next := some r }

/-- The last known ratio of a source to IRO (R382): the mean over the 1 ms that ends 100 µs before now. -/
def ClkSource.lastRatio (x : ClkSource) : Nat :=
  let l := (x.ratios.drop 1).take 10
  if l = [] then 1000000000 else l.foldl (· + ·) 0 / l.length

/-- The system reference follows `sel`, or enters HOLDOVER; the domains switch (R381 to R383). -/
def State.selectSource (s : State) (sel : Option Nat) : State :=
  let c := s.clocks
  let old := c.refSt
  let new : RefSt := match sel with
    | some _ => .locked
    | none => if old = .unreferenced then .unreferenced else .holdover
  if new = old ∧ sel = c.selected then s
  else
    let ratio := match c.selected with
      | some i => (s.clk i).lastRatio
      | none => c.holdRatio
    let s := { s with clocks := { c with
      refSt := new, selected := sel, switches := inc32 c.switches,
      holdAt := if new = RefSt.holdover ∧ old ≠ RefSt.holdover then s.tb3 else c.holdAt,
      holdRatio := if new = RefSt.holdover ∧ old ≠ RefSt.holdover then ratio else c.holdRatio } }
    let s := { s with clocks.doms := s.clocks.doms.map (fun (d : ClkDomain) => d.want s.refCode) }
    let s := s.post 0x0B04 (le 1 old.code ++ le 1 new.code ++ le 1 (sel.getD 0xFF))
    if (new == RefSt.holdover) != (old == RefSt.holdover) then s.raiseInt 140 else s

/-- The best of the QUALIFIED sources that satisfy `p`: the lowest PRIORITY, then the order of R381. -/
def State.bestSource (s : State) (p : Nat → Bool) : Option Nat :=
  let l := (List.range 4).filter (fun i => (s.clk i).st == .qualified && p i)
  (sortBy (fun (a b : Nat) => decide ((s.clk a).prio < (s.clk b).prio)) l).head?

/-- R381 after a change of the sources: the selected one stays while it is QUALIFIED. -/
def State.reselect (s : State) : State :=
  match s.clocks.selected with
  | some i => if (s.clk i).st = .qualified then s else s.selectSource (s.bestSource (fun _ => true))
  | none => s.selectSource (s.bestSource (fun _ => true))

/-! ### Qualification (R377 to R380) -/

/-- A window opens: its reference is a QUALIFIED recovered clock other than the source, or IRO (R377). -/
def State.openWindow (s : State) (i : Nat) : State :=
  let ref := [2, 3].find? (fun r => r != i && (s.clk r).st == .qualified)
  s.setClk i { s.clk i with st := .qualifying, deferred := false, ref := ref, winAt := s.tb3, edgeAt := none, level := 0 }

/-- Tolerance of a window in ppb, and its length in µs (R377). -/
def ClkSource.tol (x : ClkSource) : Nat := if x.ref.isSome then 100000 else 30000000
def ClkSource.winUs (x : ClkSource) : Nat := if x.ref.isSome then 1000 else 10

/-- A source's change of state is recorded (R378). -/
def State.srcRecord (s : State) (i : Nat) (old new : SrcSt) : State :=
  s.post 0x0B01 (le 1 i ++ le 1 old.code ++ le 1 new.code ++ le 1 (s.clk i).level)

/-- A source becomes FAILED; `edges` whether it still shows edges (R378). -/
def State.srcFail (s : State) (i : Nat) (edges : Bool) : State :=
  let x := s.clk i
  let s := s.setClk i { x with st := .failed, deferred := false, level := 0, edgeAt := if edges then some s.tb3 else none }
  (s.srcRecord i x.st .failed).raiseInt 139

/-- A source becomes QUALIFIED. -/
def State.srcPass (s : State) (i level : Nat) : State :=
  s.setClk i { s.clk i with st := .qualified, deferred := false, level := level, qualAt := s.tb3 }

/-- A window ends: `off` is the source's mean offset over it, `half` over its second half, `iro` against IRO over its last 10 µs,
in ppb (R378, R380). A judgement that needs a faulty IRO is not made, and the window opens again (R379). -/
def State.windowEnd (s : State) (i : Nat) (off half iro : Int) : State :=
  let x := s.clk i
  let refUp := match x.ref with
    | some r => (s.clk r).st == .qualified
    | none => false
  let byIro := x.ref.isNone || (x.deferred && !refUp)
  if byIro && s.clocks.iroFault then s.openWindow i
  else if !x.deferred then
    if off.natAbs ≤ x.tol then ((s.srcPass i (boolNat x.ref.isSome)).srcRecord i .qualifying .qualified).reselect
    else s.srcFail i true
  else
    let ok := if refUp then decide (half.natAbs ≤ 100000) else decide (iro.natAbs ≤ 30000000)
    let s := s.post 0x0B02 (le 1 i ++ le 1 (if ok then 1 else 2))
    if ok then (s.srcPass i (boolNat refUp)).reselect else s.srcFail i true

/-- Is there a refinement reference for a source (R377)? -/
def State.canRefine (s : State) (i : Nat) : Bool :=
  s.horizon.tb0.st == .locked || s.horizon.tb1.st == .locked ||
    [2, 3].any (fun r => r != i && (s.clk r).st == .qualified && (s.clk r).level == 2)

/-! ### The core rails (R66, R70, R388) -/

/-- The core-voltage floor of the operating point, in mV (03 R66). -/
def State.coreFloor (s : State) : Nat := if s.place.point = 0 then 650 else if s.place.point = 1 then 700 else 750

/-- The engines of a compute chiplet. -/
def chipletEngs (n : Nat) : List Eng := (allEngs false ++ allEngs true).filter (fun e => chipletOf e.cc == n)

/-- A chiplet is occupied when it holds a copy or a channel ring. -/
def State.chipletOccupied (s : State) (n : Nat) : Bool :=
  s.place.rings.any (fun r => chipletOf r.2.cc == n) ||
    s.place.insts.any (fun x => x.2.copies.any (fun c => (c.eng.map (fun e => chipletOf e.cc == n)).getD false))

/-- One 100 µs step of a rail (R388). A raise goes on until every engine of the chiplet has 1.05 q, or to the ceiling (R70). -/
def State.railStep (s : State) (n : Nat) : State :=
  let v := s.power.coreMv.getD n 750
  let engs := (chipletEngs n).filter (fun e => s.copiesOn e != [])
  let lost := engs.any (fun e => (s.eng e).lostSince.isSome)
  let met := engs.all (fun e => decide (100 * (s.eng e).canary ≥ 105 * s.requiredRate e))
  let raising := lost || (s.power.raising.getD n false && !met)
  let calm := engs.all (fun e =>
    match (s.eng e).goodSince with
    | some t => s.tb3Passed t 1000000
    | none => false)
  let w := if !s.chipletOccupied n then 550
    else max s.coreFloor (if raising then min 900 (v + 10) else if calm && decide (v > s.coreFloor) then v - 10 else v)
  let top := decide (w = 900)
  let s := { s with power := { s.power with
    coreMv := setAt s.power.coreMv n w
    raising := setAt s.power.raising n (raising && !top)
    ceilAt := setAt s.power.ceilAt n (if top then some ((s.power.ceilAt.getD n none).getD s.tb3) else none) } }
  if top && raising && decide (v < 900) then s.postC 0x0201 n (le 1 n) else s

end Sys2Proof.Machine
end

