-- ==== Sys2Proof/Machine/PortOps.lean ====
section
/-! DEFINITION. Ports taken by the pair link and Stratus (17 R424), and links going up and down (17 R425, R426). -/
namespace Sys2Proof.Machine

def PortStt.code : PortStt → Nat
  | .disabled => 0
  | .down => 1
  | .up => 2
  | .linkFault => 3

/-- The ports of the quad of a port. -/
def quadPorts (n : Nat) : List Nat := (List.range 4).map (fun i => n / 4 * 4 + i)

/-- A port leaves UP (17 R426): what it holds is lost; preemption is verified again when it returns. -/
def State.leaveUp (s : State) (n : Nat) (to_ : PortStt) (lock receiving : Bool) : State :=
  let s := if s.portUp n then s.flushPort n lock receiving else s
  s.modPort n (fun p => { p with
    st := to_, verify := if p.preempt then (if p.verifyOff then .active else .verifying) else .off,
    rxForce := p.pauseRx, txForce := p.pauseTx })

/-- Verification starts on a port that is UP (17 R433). -/
def State.startVerify (s : State) (n : Nat) : State :=
  let p := s.port n
  if !p.preempt then s.setPort n { p with verify := .off }
  else if p.verifyOff then s.setPort n { p with verify := .active }
  else (s.setPort n { p with verify := .verifying, attempts := 1, verifyAt := s.tb3 }).emit (.mpacket n 0x07)

/-- Would a protocol that takes these ports meet an enabled port of their quads at another line rate (17 R424)? -/
def State.quadConflict (s : State) (ports : List Nat) : Bool :=
  ports.any (fun n => (quadPorts n).any (fun q => !ports.contains q && (s.port q).enable && lineRate (s.port q).phy != 4))

/-- The pair link or Stratus takes ports: 25GBASE-R with RS, and so the disabled ports of their quads (17 R423, R424). -/
def State.takePorts (s : State) (ports : List Nat) : State :=
  let s := ports.foldl (fun s n =>
    let p := s.port n
    let same := p.enable && p.phy == 4 && p.fec == 2
    let s := if same then s else s.leaveUp n .down false false
    s.modPort n (fun p => { p with enable := true, phy := 4, fec := 2, pauseRx := false, pauseTx := false, preempt := false,
                                   rxForce := false, txForce := false })) s
  (ports.flatMap quadPorts).foldl (fun s q =>
    if ports.contains q || (s.port q).enable then s else s.modPort q (fun p => { p with phy := 4, fec := 2 })) s

/-- Sets the final status of an accepted command (02 R53). -/
def State.setResult (s : State) (chan seq : Nat) (r : Nat × Nat × Bytes) : State :=
  { s with cmd.accepted := s.cmd.accepted.map (fun a =>
      if a.cmd.chan == chan && a.cmd.seq == seq then { a with result := some r, committed := true } else a) }

end Sys2Proof.Machine
end

