-- ==== Sys2Proof/Machine/Pair.lean ====
section
/-! DEFINITION. Module pairs: state machine, records received, takeover (12 R306 to R320), and the pair part of family 0x08
(R322). -/
namespace Sys2Proof.Machine

/-! ### State machine (R309) -/

def State.pairTo (s : State) (st : PairSt) : State := { s with pair.st := st }

/-- Both links silent (R320). -/
def State.linksSilent (s : State) : Bool := s.pair.silentA && s.pair.silentB

/-- The configuration that mirrored commands built is dropped: a module that synchronises builds it again from the replay
(R319). What belongs to the module itself stays: engines, ports, keys, time. -/
def State.dropConfig (s : State) : State :=
  let idle (_ : Nat) (g : Engine) : Engine := { g with phase := .idle, exec := none }
  { s with
    place := { pes := s.place.pes.mapV idle, lss := s.place.lss.mapV idle, point := s.place.point, extra := s.place.extra,
               exhausted := s.place.exhausted, samples := s.place.samples }
    ingest := {}, filter := {}, prog := {}, pub := {}, cap := { archive := s.cap.archive } }

/-- Resynchronisation begins (R319). -/
def State.enterSync (s : State) : State :=
  let s := s.dropConfig
  { s with pair := { s.pair with st := .standbySync, mirrorRx := none, mirrorLog := [], phases := [], mismatches := [],
                                 agreed := [], results := [], held := [], unfit := false, lapsed := false } }

/-- A standby becomes unfit (R309, R311, R313). -/
def State.pairUnfit (s : State) : State := if s.pair.st == .standby then s.enterSync else s

/-- T_o: publish enable, the held frames of the last 4.00 µs that are not marked SENT, and ACTIVE_ALONE (R317, R318). -/
def State.takeover (s : State) : State :=
  let to_ := s.now + 200 * qNs
  let open_ := s.pair.held.filter (fun h => !h.sent)
  let due := open_.filter (fun h => decide (h.at_ + 4000 * qNs ≥ to_))
  let lost := open_.length - due.length
  let driver (h : Held) : Nat := ((s.pub.pubs.get h.pub).map (·.driver)).getD 0
  let before (a b : Held) : Bool := decide (driver a < driver b) || (driver a == driver b && decide (a.pub ≤ b.pub))
  let s := { s with pair := { s.pair with st := .activeAlone, pubEnable := true, held := [], toAt := to_, results := [],
                                          mirrorTx := s.pair.mirrorRx.getD 0, mismatches := [], agreed := [] } }
  let s := (sortBy before due).foldl (fun s h => h.frames.foldl (fun s f => s.originate f.1 f.2.1 f.2.2 to_) s) s
  ((((s.pairCount 6 1).pairCount 5 lost).bump 0x00D).post 0x0812 (le 8 (to_ / qNs) ++ le 2 due.length ++ le 2 lost))

/-- The takeover condition of R317 in any state (R309). -/
def State.takeoverCondition (s : State) : State :=
  match s.pair.st with
  | .standby => s.takeover
  | .standbySync =>
    if s.pair.lapsed then s else ({ s with pair.lapsed := true }.post 0x0813 []).raiseInt 135
  | _ => s

/-! ### Arrivals (R306, R307) -/

/-- Is a partner frame taken: its link up and configured, protected under the link's key (R306)? The frame and record numbers
decide whether it is the first copy. The answer says so; the state notes that the link is not silent (R320). -/
def State.pairTake (s : State) (rx : PairRx) : Bool × State :=
  let port := if rx.link = 0 then s.pair.linkA else s.pair.linkB
  if !s.pair.configured || rx.link ≥ 2 || !s.portUp port then (false, s)
  else
    match s.macOpen (if rx.link = 0 then macPair else macPairB) rx.key rx.pn with
    | none => (false, s)
    | some s =>
      let s := if rx.link = 0 then { s with pair.silentA := false, pair.lastA := some s.tb3 }
        else { s with pair.silentB := false, pair.lastB := some s.tb3 }
      let first := match s.pair.seqRx with
        | none => true
        | some (f, i) => decide (sdiff 32 rx.fseq f > 0) || (rx.fseq == f && decide (rx.idx > i))
      if first then
        let s := { s with pair.seqRx := some (rx.fseq, rx.idx) }
        (true, if s.pair.unfit then s.pairUnfit else s)
      else (false, s)

/-- A record of the partner acts in a paired module only. -/
def State.onRecord (s : State) (rx : PairRx) (f : State → State) : State :=
  if s.pair.st == .unpaired then s
  else
    match s.pairTake rx with
    | (true, s) => f s
    | (false, s) => s

/-! ### TICK (R307 to R309) -/

/-- The tick boundary whose TICK record is due, `after` ns behind it. -/
def State.tickDue (s : State) (after : Nat) : Option Nat :=
  if !s.ptValid || s.now < after * qNs then none else some ((s.now + 6 - after * qNs) / qTick)

/-- What MIRROR_SEQ of a TICK record carries: the number of the next MIRROR record. -/
def State.mirrorSeq (s : State) : Nat := if s.inControl then s.pair.mirrorTx else s.pair.mirrorRx.getD 0

/-- PAIR_TICK_SEND: the record of the latest boundary with B + 1.00 µs reached leaves, once. -/
def execPairTickSend (dt : Nat) (s : State) : Host.Outcome State Fault Refusal :=
  let s := (s.advance dt).switchover
  match s.tickDue 1000 with
  | none => .next s
  | some b =>
    if s.pair.st == .unpaired || s.pair.lastTickTx == some b then .next s
    else .next ({ s with pair.lastTickTx := some b }.pairSend (recTick s.pair.st.code s.mirrorSeq b))

/-- PAIR_TICK_LATE: the own record of the boundary with B + 3.00 µs reached has not been sent (R308). -/
def execPairTickLate (dt : Nat) (s : State) : Host.Outcome State Fault Refusal :=
  let s := s.advance dt
  match s.tickDue 3000 with
  | none => .next s
  | some b =>
    let sent := (s.pair.lastTickTx.map (fun n => decide (b ≤ n))).getD false
    .next (if sent then s else s.giveUp 5)

/-- Results the standby has had no RESULT record for, a tick after their publication instant, count as LINK_GAP (R313). -/
def State.linkGaps (s : State) : State :=
  let old (fi : Nat) (r : ShadowResult) : Bool := match s.inst fi with
    | some x => decide (boundaryQ (r.tick + 1) + x.pubQ < s.now)
    | none => true
  let n : Nat := ((s.pair.results.map (fun p => (p.2.filter (old p.1)).length)).foldl (· + ·) 0)
  if n = 0 then s
  else { s with pair.results := s.pair.results.mapV (fun fi l => l.filter (fun r => !old fi r)) }.pairCount 3 n

/-- Has every running instance agreed for 96 ticks, and every MIRROR record come (R319)? -/
def State.syncDone (s : State) (mseq : Nat) : Bool :=
  s.pair.mirrorRx == some mseq && s.place.insts.all (fun p =>
    !(p.2.run == .running || p.2.run == .stopping) || (match s.pair.agreed.get p.1 with
      | some t => decide (t + 96 ≤ s.tickNow)
      | none => false))

/-- The replay of R319: every mirrored command, then the data of every placed instance, of those that run after their next
released cycle. -/
def State.replay (s : State) : State :=
  let pkts := s.pair.mirrorLog
  let s := pkts.foldl (fun s pkt =>
    let t := s.pairSend (recMirror s.pair.mirrorTx pkt)
    { t with pair.mirrorTx := (t.pair.mirrorTx + 1) % 2 ^ 32 }) s
  let all := s.inOrder Inst.isPlaced
  let s := { s with pair.needData := all }
  all.foldl (fun s fi =>
    match s.inst fi with
    | none => s
    | some x =>
      if x.run == .running || x.run == .stopping then s
      else
        match x.copies.findSome? (fun c => if c.st = .running then c.eng.map (fun e => (e, c.areas)) else none) with
        | some (e, a) => s.sendData fi s.tickNow e a
        | none => s) s

/-- A TICK record of the partner (R309, R313, R319, R320). -/
def State.pairTick (s : State) (st mseq tick : Nat) : State :=
  let prev := s.pair.partner.map (·.1)
  let inControl := st == 4 || st == 5
  let s := { s with pair.partner := some (st, s.tb3), pair.lastTickRx := some tick, pair.lapsed := false }
  let s := if inControl && !s.pair.pairOk && !s.pair.wiring then { s with pair.wiring := true }.post 0x0814 [] else s
  match s.pair.st with
  | .waiting => if inControl then s.enterSync else { s with pair.waitSince := s.tb3 }
  | .activeAlone =>
    let s := if st = 2 && prev != some 2 then s.replay else s
    if st = 3 then s.pairTo .active else s
  | .active =>
    if st = 3 then s
    else
      let s := (s.pairTo .activeAlone).postPair .active .activeAlone
      if st = 2 then s.replay else s
  | .standby =>
    if !inControl then s
    else if s.pair.mirrorRx != some mseq then s.pairUnfit
    else s.linkGaps
  | .standbySync =>
    if !inControl then s
    else
      let s := s.linkGaps
      if s.syncDone mseq then (s.pairTo .standby).postPair .standbySync .standby else s
  | _ => s

def execPairTickReceived (dt : Nat) (rx : PairRx) (st mseq tick : Nat) (s : State) : Host.Outcome State Fault Refusal :=
  .next ((s.advance dt).onRecord rx (fun s => s.pairTick st mseq tick))

/-! ### RESULT, PUB, DATA, GIVE_UP -/

/-- How a RESULT record compares (R313). -/
inductive Compared where
  | agree
  | divergence
  | mismatch
  | differ
  deriving DecidableEq, Repr

def compareResults (own theirs : ShadowResult) : Compared :=
  if own.imgCrc ≠ theirs.imgCrc then .divergence
  else if own.held ≠ theirs.held then .differ
  else if own.held || (own.sig == theirs.sig && own.outCrc == theirs.outCrc) then .agree
  else .mismatch

/-- A SHADOW_MISMATCH: the engines that ran the copies are diagnosed; three within 60 s make the standby unfit. -/
def State.shadowMismatch (s : State) (fi tick : Nat) : State :=
  let recent := s.tb3 :: s.pair.mismatches.filter (fun t => !s.tb3Passed t 60000000)
  let s := { s with pair.mismatches := recent }.pairCount 1 1
  let s := match (s.inst fi).bind (fun x => x.cycles.find? (fun c => c.tick == tick)) with
    | some c => s.diagnose fi c (c.who.filter (fun p => !c.displaced.contains p.k)) none false
    | none => s
  if recent.length ≥ 3 then s.pairUnfit else s

/-- The ACTIVE withheld a cycle that the standby released: the shadow publisher follows (R313, R314). -/
def State.followWithheld (s : State) (fi tick : Nat) : State :=
  s.modCycle fi tick (fun c => { c with verdict := some .withheld })

def State.pairResult (s : State) (fi : Nat) (r : ShadowResult) : State :=
  if s.pair.st != .standby && s.pair.st != .standbySync then s
  else
    match (s.pair.results.getD fi []).find? (fun o => o.tick == r.tick) with
    | none => s
    | some own =>
      let s := { s with pair.results := s.pair.results.put fi ((s.pair.results.getD fi []).filter (fun o => o.tick != r.tick)) }
      match compareResults own r with
      | .agree =>
        if (s.pair.agreed.get fi).isSome then s else { s with pair.agreed := s.pair.agreed.put fi r.tick }
      | k =>
        let s := { s with pair.agreed := s.pair.agreed.del fi }
        match k with
        | .divergence => s.pairCount 0 1
        | .differ =>
          let s := s.pairCount 2 1
          if r.held then s.followWithheld fi r.tick else s
        | _ => s.shadowMismatch fi r.tick

def execPairResultReceived (dt : Nat) (rx : PairRx) (fi : Nat) (held : Bool) (tick sig outCrc imgCrc : Nat) (s : State) :
    Host.Outcome State Fault Refusal :=
  .next ((s.advance dt).onRecord rx (fun s =>
    s.pairResult fi { tick := tick, held := held, sig := sig, outCrc := outCrc, imgCrc := imgCrc }))

/-- A PUB record (R314): the standby continues the ACTIVE's numbers and marks the held frame. -/
def State.pairPub (s : State) (pub : Nat) (sent : Bool) (tick stNum sqNum : Nat) : State :=
  if s.pair.st != .standby && s.pair.st != .standbySync then s
  else
    { s with
      pub.pubs := s.pub.pubs.upd pub (fun p => { p with stNum := stNum, sqNum := sqNum })
      pair.held := s.pair.held.map (fun h => if h.pub == pub && h.tick == tick then { h with sent := h.sent || sent } else h) }

def execPairPubReceived (dt : Nat) (rx : PairRx) (pub : Nat) (sent : Bool) (tick stNum sqNum : Nat) (s : State) :
    Host.Outcome State Fault Refusal :=
  .next ((s.advance dt).onRecord rx (fun s => s.pairPub pub sent tick stNum sqNum))

/-- A DATA record (R313, R319): the bytes go into every copy of the instance; those of the header give its cycle number. -/
def State.pairData (s : State) (fi off : Nat) (data : Bytes) : State :=
  if s.pair.st != .standby && s.pair.st != .standbySync then s
  else
    match s.inst fi with
    | none => s
    | some x =>
      let s := s.writeDataAll x (4 * off) (data.take (x.dataBytes - 4 * off))
      if off = 0 && data.length ≥ 0x18 then s.modInst fi (fun x => { x with cycleNo := u64 data 0x10 }) else s

def execPairDataReceived (dt : Nat) (rx : PairRx) (fi _tick off : Nat) (data : Bytes) (s : State) :
    Host.Outcome State Fault Refusal :=
  .next ((s.advance dt).onRecord rx (fun s => s.pairData fi off data))

/-- A GIVE_UP record (R317). -/
def execPairGiveUpReceived (dt : Nat) (rx : PairRx) (_cause _tick : Nat) (s : State) : Host.Outcome State Fault Refusal :=
  .next ((s.advance dt).onRecord rx State.takeoverCondition)

/-! ### PAIR_OK, silence, waiting -/

/-- TAKEOVER_TIMEOUT: PAIR_OK low for 1.00 µs, and no TICK record of the latest boundary by B + 5.00 µs (R317). -/
def execTakeoverTimeout (dt : Nat) (s : State) : Host.Outcome State Fault Refusal :=
  let s := s.advance dt
  match s.tickDue 5000 with
  | none => .next s
  | some b =>
    let came := (s.pair.lastTickRx.map (fun n => decide (b ≤ n))).getD false
    .next (if came || s.pair.pairOk || !s.tb3Passed s.pair.okSince 1 then s else s.takeoverCondition)

/-- PAIR_OK_CHANGE: a level on the ball PAIR_OK (R308, R309). -/
def execPairOkChange (dt : Nat) (level : Bool) (s : State) : Host.Outcome State Fault Refusal :=
  let s := s.advance dt
  if level == s.pair.pairOk then .next s
  else
    let s := { s with pair.pairOk := level, pair.okSince := s.tb3, pair.wiring := s.pair.wiring && !level }
    let s := s.setLine 772 level
    .next (if level && s.pair.st == .waiting then s.enterSync else s)

/-- PAIR_WAIT_TIMEOUT: 100 ms on side A, 150 ms on side B, with PAIR_OK low and no TICK record (R309). -/
def execPairWaitTimeout (dt : Nat) (s : State) : Host.Outcome State Fault Refusal :=
  let s := s.advance dt
  let wait := if s.boot.pairStrap = 2 then 150000 else 100000
  if s.pair.st != .waiting || s.pair.pairOk || !s.tb3Passed s.pair.waitSince wait then .next s
  else .next ({ s with pair.st := .activeAlone, pair.pubEnable := true })

/-- PAIR_LINK_SILENT: no frame has come on a link for 5 µs (R320). -/
def execPairLinkSilent (dt link : Nat) (s : State) : Host.Outcome State Fault Refusal :=
  let s := s.advance dt
  let last := if link = 0 then s.pair.lastA else s.pair.lastB
  let silent := if link = 0 then s.pair.silentA else s.pair.silentB
  let quiet := (last.map (fun t => s.tb3Passed t 5)).getD true
  if link ≥ 2 || silent || !quiet then .next s
  else
    let s := (if link = 0 then { s with pair.silentA := true } else { s with pair.silentB := true }).pairCount 4 1
    if !s.linksSilent then .next s
    else
      match s.pair.st with
      | .active => .next ((s.pairTo .activeAlone).postPair .active .activeAlone)
      | .standby => .next (if s.pair.pairOk then { s with pair.unfit := true } else s)
      | _ => .next s

/-! ### Opcodes (R322) -/

/-- SET_PAIR (0x0810). -/
def cardSetPair : Card where
  opcode := 0x0810
  level := .m
  len := .exact 5
  reserved p := firstNonzero p [(0x0B, 9)]
  params _ c :=
    let p := c.params
    let link (v : Nat) : Bool := decide (96 ≤ v) && decide (v ≤ 127)
    firstBad [(0, link (byteAt p 0)), (1, link (byteAt p 1) && byteAt p 1 != byteAt p 0), (2, decide (u16 p 2 ≤ 255)),
      (0x0A, decide (byteAt p 0x0A ≤ 31) || byteAt p 0x0A == 0xFF)]
  run s c :=
    let p := c.params
    let (a, b, slot) := (byteAt p 0, byteAt p 1, u16 p 2)
    if s.pair.st == .unpaired || s.place.insts.any (fun q => q.2.isPlaced) then .wrong 3
    else if !s.slotFits c.inst slot needPair then .wrong 4
    else if s.quadConflict [a, b] then .wrong 5
    else
      match s.useSlot slot with
      | .refused => .wrong 4
      | .integrity t => .errWith t stIntegrity slot []
      | .ok key =>
        let s := { s with pair := { s.pair with configured := true, linkA := a, linkB := b, keySlot := slot,
                                                mac := beNat (slice p 4 6), node := byteAt p 0x0A } }
        .ok (((s.takePorts [a, b]).loadMac macPair key).loadMac macPairB key) []

def execSetPair (dt : Nat) (c : Cmd) (s : State) : Host.Outcome State Fault Refusal := runCard cardSetPair dt c s

/-- PARTNER of GET_PAIR_STATUS: the last reported state, 0xFF if none for 5 µs. -/
def State.partnerCode (s : State) : Nat :=
  match s.pair.partner with
  | some (st, t) => if s.tb3Passed t 5 then 0xFF else st
  | none => 0xFF

/-- GET_PAIR_STATUS (0x0811). -/
def cardGetPairStatus : Card where
  opcode := 0x0811
  level := .r
  changes := false
  len := .exact 1
  most _ _ := 9
  reserved p := orElseOpt (reservedBits p [(0, 0xFE)]) (firstNonzero p [(1, 3)])
  run s c :=
    let up (port : Nat) : Bool := s.pair.configured && s.portUp port
    let d := le 1 s.pair.st.code ++ le 1 s.partnerCode ++
      le 1 (bitsNat [up s.pair.linkA, up s.pair.linkB, s.pair.pairOk, s.pair.wiring]) ++ le 1 s.pair.lastCause ++
      s.pair.counters.flatMap (le 4)
    .ok (if bit (byteAt c.params 0) 0 then { s with pair.counters := List.replicate 7 0 } else s) d

def execGetPairStatus (dt : Nat) (c : Cmd) (s : State) : Host.Outcome State Fault Refusal := runCard cardGetPairStatus dt c s

/-- SWITCHOVER (0x0812). -/
def cardSwitchover : Card where
  opcode := 0x0812
  level := .m
  urgent := true
  len := .exact 2
  most _ _ := 3
  run s c :=
    if s.pair.st != .active then .wrong 3
    else
      let n := if u64 c.params 0 = 0 then tickAtOrAfter (s.now + 1000000 * qNs) else u64 c.params 0
      .accepted { s with pair.switchTick := some n } (.switchover n) true none

def execSwitchover (dt : Nat) (c : Cmd) (s : State) : Host.Outcome State Fault Refusal := runCard cardSwitchover dt c s

/-- RESYNC (0x0813). -/
def cardResync : Card where
  opcode := 0x0813
  level := .m
  len := .exact 0
  run s _ := if s.pair.st == .standby then .ok s.enterSync [] else .wrong 3

def execResync (dt : Nat) (c : Cmd) (s : State) : Host.Outcome State Fault Refusal := runCard cardResync dt c s

end Sys2Proof.Machine
end

