-- ==== Sys2Proof/Machine/RecOps.lean ====
section
/-! DEFINITION. Contrail (21): what a record holds, its commit, the clear. -/
namespace Sys2Proof.Machine

/-- CAPACITY (R487). -/
def recCapacity : Nat := 245760

/-- FLAGS of a record (R482). -/
def State.eventFlags (s : State) (e : Event) : Nat :=
  boolNat e.tb0Valid + 2 * boolNat e.tb0Hold + 4 * boolNat e.injected + 8 * boolNat (s.power.supply == .off)

/-- The first 60 bytes of the record of an event, committed now as SEQUENCE `n` (R482). -/
def State.recordBody (s : State) (n : Nat) (e : Event) : Bytes :=
  le 6 n ++ le 2 e.code ++ le 4 (s.life 0x000) ++ le 3 (s.life 0x001) ++ le 1 (s.eventFlags e) ++
    le 8 (e.tb0 / 2 ^ 16) ++ le 2 e.tb0 ++ le 1 e.origin ++ le 1 e.chiplet ++ le 8 e.tb3Ns ++ padTo 24 e.data

/-- A record as it is written. -/
def State.mkRecord (s : State) (n : Nat) (e : Event) : Record :=
  let b := s.recordBody n e
  { body := b, crc := crc32c b }

/-- The 64 bytes of a record (R482). -/
def Record.bytes (r : Record) : Bytes := r.body ++ le 4 r.crc

def Record.bad (r : Record) : Bool := r.crc != crc32c r.body

/-- A commit (R486, R487): OLDEST advances first when the ring is full. A POST_RECORD that waits for it gets its SEQUENCE. -/
def State.commitEvent (s : State) (e : Event) : State :=
  let n := s.recorder.next
  let r := s.mkRecord n e
  let full := decide (n - s.recorder.oldest ≥ recCapacity)
  let old := if full then s.recorder.oldest + 1 else s.recorder.oldest
  let log := if full then s.recorder.log.del s.recorder.oldest else s.recorder.log
  let s := { s with recorder.log := log.put n r, recorder.oldest := old, recorder.next := n + 1 }.bump 0x002
  match e.asked with
  | some (chan, seq) => s.setResult chan seq (0, 0, le 8 n)
  | none => s

/-- Contrail takes the head of its queue (R486). Space for an event returns with it, and the lost ones are recorded (R30). -/
def State.commitHead (s : State) : State :=
  match s.recorder.queue with
  | [] => s
  | e :: q =>
    let s := { s with recorder.queue := q }
    let s := if s.recorder.lost > 0 then
        let n := s.recorder.lost
        { s with recorder.lost := 0 }.post 0x0108 (le 4 n)
      else s
    s.commitEvent e

/-- Commits `n` records of the queue. -/
def State.commitN : Nat → State → State
  | 0, s => s
  | n + 1, s => if s.recorder.queue = [] then s else commitN n s.commitHead

/-- Every queued record is committed, with the lost-event record that may follow (15 R390). -/
def State.commitAll (s : State) : State := State.commitN (s.recorder.queue.length + 1) s

/-- The ASCII bytes "CONTRAIL-CLEAR" (R494). -/
def clearLabel : Bytes :=
  ascii [0x43, 0x4F, 0x4E, 0x54, 0x52, 0x41, 0x49, 0x4C, 0x2D, 0x43, 0x4C, 0x45, 0x41, 0x52]

/-- The token that authorises a clear (R494). -/
def clearToken (key nonce : Bytes) : Bytes := hmac key (clearLabel ++ nonce ++ le 8 Config.serial.toNat)

/-- The clear as one step (R493): every record goes, CLEARED is committed and is the new OLDEST. -/
def State.clearLog (s : State) (slot : Nat) : State :=
  let n := s.recorder.next
  let e := s.mkEvent 0x1001 (le 8 s.recorder.oldest ++ le 8 (n - 1) ++ le 1 slot) 5
  let r := s.mkRecord n e
  ({ s with recorder.log := [(n, r)], recorder.oldest := n, recorder.next := n + 1, recorder.lastClear := n }.bump 0x002).bump
    0x00F

/-! ### Counters and histograms (R498, R499) -/

/-- Bins of a histogram (R499). -/
def histBins (id : Nat) : Nat := if id ≤ 6 then 16 else if id ≤ 10 then 8 else 0

/-- The lifetime cell of bin `b` of histogram `id`. -/
def binId (id b : Nat) : Nat := 0x400 + 16 * id + b

/-- IDs that READ_COUNTERS takes. -/
def counterId (n : Nat) : Bool :=
  decide (n ≤ 0x010) || (decide (0x400 ≤ n) && decide ((n - 0x400) % 16 < histBins ((n - 0x400) / 16)))

/-- A counter as READ_COUNTERS returns it. -/
def Cell.bytes (c : Cell) : Bytes :=
  le 8 c.value ++ le 4 c.seq ++ le 4 (boolNat c.recovered + 2 * boolNat c.lost + 4 * boolNat c.curB)

/-! ### Identity (R500) -/

/-- The identity fuse image of a chiplet as read. -/
def fuseImage (n : Nat) : Bytes := (List.finRange 28).map (Config.fuse n)

def fuseBad (n : Nat) : Bool := crc32c (fuseImage n) != (Config.fuseCrc n).toNat

end Sys2Proof.Machine
end

