-- ==== Sys2Proof/Machine/Signature.lean ====
section
/-! DEFINITION. SHA-384 (FIPS 180-4) and the verification of an ECDSA signature over NIST P-384 (FIPS 186-5), in which 23 R519
states the validity of a firmware image. PRESUMED: these are the published algorithms (log entry 30). -/
namespace Sys2Proof.Machine

/-! ### SHA-384 -/

def w64 (n : Nat) : Nat := n % 2 ^ 64
def ror64 (x k : Nat) : Nat := w64 (x / 2 ^ k ||| (x * 2 ^ (64 - k)))

def sha512K : List Nat := [
  0x428a2f98d728ae22, 0x7137449123ef65cd, 0xb5c0fbcfec4d3b2f, 0xe9b5dba58189dbbc,
  0x3956c25bf348b538, 0x59f111f1b605d019, 0x923f82a4af194f9b, 0xab1c5ed5da6d8118,
  0xd807aa98a3030242, 0x12835b0145706fbe, 0x243185be4ee4b28c, 0x550c7dc3d5ffb4e2,
  0x72be5d74f27b896f, 0x80deb1fe3b1696b1, 0x9bdc06a725c71235, 0xc19bf174cf692694,
  0xe49b69c19ef14ad2, 0xefbe4786384f25e3, 0x0fc19dc68b8cd5b5, 0x240ca1cc77ac9c65,
  0x2de92c6f592b0275, 0x4a7484aa6ea6e483, 0x5cb0a9dcbd41fbd4, 0x76f988da831153b5,
  0x983e5152ee66dfab, 0xa831c66d2db43210, 0xb00327c898fb213f, 0xbf597fc7beef0ee4,
  0xc6e00bf33da88fc2, 0xd5a79147930aa725, 0x06ca6351e003826f, 0x142929670a0e6e70] ++ [
  0x27b70a8546d22ffc, 0x2e1b21385c26c926, 0x4d2c6dfc5ac42aed, 0x53380d139d95b3df,
  0x650a73548baf63de, 0x766a0abb3c77b2a8, 0x81c2c92e47edaee6, 0x92722c851482353b,
  0xa2bfe8a14cf10364, 0xa81a664bbc423001, 0xc24b8b70d0f89791, 0xc76c51a30654be30,
  0xd192e819d6ef5218, 0xd69906245565a910, 0xf40e35855771202a, 0x106aa07032bbd1b8,
  0x19a4c116b8d2d0c8, 0x1e376c085141ab53, 0x2748774cdf8eeb99, 0x34b0bcb5e19b48a8,
  0x391c0cb3c5c95a63, 0x4ed8aa4ae3418acb, 0x5b9cca4f7763e373, 0x682e6ff3d6b2b8a3,
  0x748f82ee5defb2fc, 0x78a5636f43172f60, 0x84c87814a1f0ab72, 0x8cc702081a6439ec,
  0x90befffa23631e28, 0xa4506cebde82bde9, 0xbef9a3f7b2c67915, 0xc67178f2e372532b] ++ [
  0xca273eceea26619c, 0xd186b8c721c0c207, 0xeada7dd6cde0eb1e, 0xf57d4f7fee6ed178,
  0x06f067aa72176fba, 0x0a637dc5a2c898a6, 0x113f9804bef90dae, 0x1b710b35131c471b,
  0x28db77f523047d84, 0x32caab7b40c72493, 0x3c9ebe0a15c9bebc, 0x431d67c49c100d4c,
  0x4cc5d4becb3e42b6, 0x597f299cfc657e2a, 0x5fcb6fab3ad6faec, 0x6c44198c4a475817]

def sha384Init : List Nat := [
  0xcbbb9d5dc1059ed8, 0x629a292a367cd507, 0x9159015a3070dd17, 0x152fecd8f70e5939,
  0x67332667ffc00b31, 0x8eb44a8768581511, 0xdb0c2e0d64f98fa7, 0x47b5481dbefa4fa4]

/-- Big-endian 64-bit words of a byte string. -/
def beWords64 : Nat → Bytes → List Nat
  | 0, _ => []
  | n + 1, p => beNat (p.take 8) :: beWords64 n (p.drop 8)

/-- The 64 further words of the message schedule; `w` holds the words so far, newest first. -/
def sha512Schedule : Nat → List Nat → List Nat
  | 0, w => w
  | n + 1, w =>
    let g (i : Nat) : Nat := w.getD (i - 1) 0
    let s0 := ror64 (g 15) 1 ^^^ ror64 (g 15) 8 ^^^ g 15 / 2 ^ 7
    let s1 := ror64 (g 2) 19 ^^^ ror64 (g 2) 61 ^^^ g 2 / 2 ^ 6
    sha512Schedule n (w64 (g 16 + s0 + g 7 + s1) :: w)

def sha512Round (h : List Nat) (kw : Nat × Nat) : List Nat :=
  match h with
  | [a, b, c, d, e, f, g, hh] =>
    let s1 := ror64 e 14 ^^^ ror64 e 18 ^^^ ror64 e 41
    let ch := (e &&& f) ^^^ ((2 ^ 64 - 1 ^^^ e) &&& g)
    let t1 := hh + s1 + ch + kw.1 + kw.2
    let s0 := ror64 a 28 ^^^ ror64 a 34 ^^^ ror64 a 39
    let mj := (a &&& b) ^^^ (a &&& c) ^^^ (b &&& c)
    [w64 (t1 + s0 + mj), a, b, c, w64 (d + t1), e, f, g]
  | _ => h

def sha512Block (h : List Nat) (p : Bytes) : List Nat :=
  let w := (sha512Schedule 64 (beWords64 16 p).reverse).reverse
  List.zipWith (fun a b => w64 (a + b)) h ((sha512K.zip w).foldl sha512Round h)

def sha512Blocks : Nat → List Nat → Bytes → List Nat
  | 0, h, _ => h
  | n + 1, h, p => sha512Blocks n (sha512Block h (p.take 128)) (p.drop 128)

def sha384 (p : Bytes) : Bytes :=
  let z := (239 - p.length % 128) % 128
  let m := p ++ [0x80#8] ++ zeros z ++ be 16 (8 * p.length)
  ((sha512Blocks (m.length / 128) sha384Init m).flatMap (be 8)).take 48

/-! ### ECDSA over P-384 -/

def p384P : Nat := 2 ^ 384 - 2 ^ 128 - 2 ^ 96 + 2 ^ 32 - 1
def p384N : Nat := 0xffffffffffffffffffffffffffffffffffffffffffffffffc7634d81f4372ddf581a0db248b0a77aecec196accc52973
def p384Gx : Nat := 0xaa87ca22be8b05378eb1c71ef320ad746e1d3b628ba79b9859f741e082542a385502f25dbf55296c3a545e3872760ab7
def p384Gy : Nat := 0x3617de4a96262c6f5d9e98bf9292dc29f8f41dbd289a147ce9da3113b5f0b8c00a60b1ce1d7e819d7a431d7c90ea0e5f

/-- `b ^ e` modulo `m` for an exponent of at most `k` bits. -/
def powMod (m : Nat) : Nat → Nat → Nat → Nat
  | 0, _, _ => 1
  | k + 1, b, e => (if e % 2 = 1 then b else 1) * powMod m k (b * b % m) (e / 2) % m

/-- The inverse modulo a prime of 384 bits. -/
def invMod (m b : Nat) : Nat := powMod m 384 (b % m) (m - 2)

/-- The sum of two points of P-384; `none` is the point at infinity. -/
def ecAdd (a b : Option (Nat × Nat)) : Option (Nat × Nat) :=
  match a, b with
  | none, b => b
  | a, none => a
  | some (x1, y1), some (x2, y2) =>
    let m := p384P
    if x1 = x2 ∧ (y1 + y2) % m = 0 then none
    else
      let l := if x1 = x2 then (3 * x1 * x1 + (m - 3)) * invMod m (2 * y1) % m
        else (y2 + m - y1) * invMod m (x2 + m - x1) % m
      let x := (l * l + 2 * m - x1 - x2) % m
      some (x, (l * (x1 + m - x) + m - y1) % m)

/-- `k` times a point, `k` of at most `n` bits. -/
def ecMul : Nat → Nat → Option (Nat × Nat) → Option (Nat × Nat)
  | 0, _, _ => none
  | n + 1, k, a =>
    let r := ecMul n (k / 2) (ecAdd a a)
    if k % 2 = 1 then ecAdd a r else r

/-- Does (r, s) sign the hash `e` under the public key (qx, qy)? -/
def ecdsaOk (qx qy e r s : Nat) : Bool :=
  let n := p384N
  if r = 0 || r ≥ n || s = 0 || s ≥ n then false
  else
    let w := invMod n s
    match ecAdd (ecMul 384 (e * w % n) (some (p384Gx, p384Gy))) (ecMul 384 (r * w % n) (some (qx, qy))) with
    | some (x, _) => x % n == r
    | none => false

end Sys2Proof.Machine
end

