-- ==== Sys2Proof/Machine/BootOps.lean ====
section
/-! DEFINITION. Reset and the boot sequence (23 R514 to R521), firmware images (R519, R522), and the supplies (15 R389 to R391). -/
namespace Sys2Proof.Machine

/-! ### Slots (R519, R522) -/

/-- The state INVALID of a slot. -/
def FwSlot.invalid (f : FwSlot) : FwSlot := { f with valid := false, empty := false }

/-- A slot is being written: begun and not complete. -/
def FwSlot.writing (f : FwSlot) : Bool := f.total != 0 && decide (f.chunks.length < f.total)

/-- An incomplete slot stays INVALID and its chunks count no more (R522). -/
def FwSlot.abandon (f : FwSlot) : FwSlot := if f.writing then { f.invalid with total := 0, chunks := [] } else f

/-! ### What a reset keeps (R515) -/

/-- The module in reset: what R515 keeps, the levels at its balls, the host's own memory and the model's bookkeeping; all else at
its reset value. Events already posted are committed with the log while VAUX stands. -/
def State.inReset (s : State) (phase : BootPhase) : State :=
  let s := if s.power.vaux then s.commitAll else s
  let r := s.recorder
  { State.reset with
    pending := s.pending, sent := s.sent, free := s.free
    keys := { slots := s.keys.slots, tamperCause := s.keys.tamperCause, tamperLow := s.keys.tamperLow, tamperTb3 := s.keys.tamperTb3 }
    recorder := { queue := r.queue, log := r.log, oldest := r.oldest, next := r.next, lastClear := r.lastClear, cells := r.cells }
    prog := { retained := s.prog.retained, retPrev := s.prog.retPrev }
    cap := { archive := s.cap.archive }
    horizon := { tb3 := s.horizon.tb3 }
    power := { supply := s.power.supply, vaux := s.power.vaux, vinMv := s.power.vinMv, vauxMv := s.power.vauxMv, temps := s.power.temps }
    pair := { pairOk := s.pair.pairOk, okSince := s.pair.okSince }
    host := { mem := s.host.mem }
    tap := s.tap
    boot := { phase := phase, record := s.boot.record, recPrev := s.boot.recPrev, slotA := s.boot.slotA.abandon,
              slotB := s.boot.slotB.abandon, vauxSeen := s.boot.vauxSeen, resetPin := s.boot.resetPin, cause := s.boot.cause } }

/-! ### Image selection (R520) -/

def BootState.slot (b : BootState) (x : Bool) : FwSlot := if x then b.slotB else b.slotA
def BootState.setSlot (b : BootState) (x : Bool) (f : FwSlot) : BootState := if x then { b with slotB := f } else { b with slotA := f }

/-- The boot record takes a value, written to its other copy (R520, 21 R496). -/
def BootState.setRecord (b : BootState) (r : BootRecord) : BootState :=
  if r = b.record then b else { b with record := r, recPrev := b.record }

/-- The boot record as found (21 R497): `torn` bit 0 the current copy, bit 1 the other. Without a valid copy it holds what it held
when new. -/
def BootState.recover (b : BootState) (torn : Nat) : BootState :=
  if bit torn 0 && bit torn 1 then { b with record := {}, recPrev := {} }
  else if bit torn 0 then { b with record := b.recPrev }
  else b

/-- The choice of R520; `bad` are the images that fail R519 although their slots are VALID. -/
def BootState.chooseImage (b : BootState) (bad : Bool → Bool) : BootState :=
  let ok (b : BootState) (x : Bool) : Bool := (b.slot x).valid && !bad x
  let r := b.record
  let (x, r, rev) :=
    if r.trial && r.started then (!r.next, { next := !r.next : BootRecord }, true)
    else if r.trial then (r.next, { r with started := true }, false)
    else (r.next, r, false)
  let b := { b with reverted := rev, fallback := false, recovery := false }
  if ok b x then { b.setRecord r with running := x, phase := .booting }
  else
    let b := { b.setSlot x (b.slot x).invalid with fallback := true }.setRecord { next := !x }
    if ok b (!x) then { b with running := !x, phase := .booting }
    else { b.setSlot (!x) (b.slot (!x)).invalid with recovery := true, phase := .recovery }

/-- Role and pair role of the straps (R516). -/
def BootState.latch (b : BootState) (straps : Nat) : BootState :=
  let role := straps % 4
  let pair := straps / 4 % 4
  { b with straps := straps % 16, role := if role = 3 then 0 else role, pairStrap := if pair = 3 then 0 else pair
           strapRes := role == 3 || pair == 3 }

/-- Halo's entry re-mask of every slot (20 R473). -/
def State.entryRemask (s : State) : State :=
  (s.keys.slots.foldl (fun s e => s.remask e.1) s).haloCount 3

/-- The sequence begins (R514, R517): only out of reset and with VAUX valid (15 R391). Otherwise the module stays held. -/
def State.startBoot (s : State) (cause : Nat) (b : BootScan) : State :=
  let s := { s with boot := { s.boot with cause := cause, phase := .held } }
  if !s.boot.resetPin || !s.power.vaux || s.power.supply == .off then s
  else
    let bad (x : Bool) : Bool := if x then b.badB else b.badA
    let t := { s with boot := ((s.boot.recover b.record).latch b.straps).chooseImage bad }
    t.entryRemask.tamperLine

/-! ### Self-test and repair (R518) -/

/-- The physical PEs of a cluster that fail. -/
def failingPes (f : BootFindings) (cc : Nat) : List Nat :=
  (List.range 17).filter (fun n => f.clusters.contains cc || f.pes.contains (cc, n))

/-- The logical PE of a cluster that its spare replaces. -/
def mappedPe (f : BootFindings) (cc : Nat) : Option Nat :=
  let bad := failingPes f cc
  if bad.contains 16 then none else bad.head?

/-- The logical PEs of a cluster that end FAILED: those that fail but the mapped one; after a mapping the spare's number too. -/
def failedPes (f : BootFindings) (cc : Nat) : List Nat :=
  match mappedPe f cc with
  | some n => (failingPes f cc).filter (· != n) ++ [16]
  | none => failingPes f cc

def failedLss (f : BootFindings) (cc : Nat) : List Nat :=
  (List.range 2).filter (fun n => f.clusters.contains cc || f.lss.contains (cc, n))

/-- Comparators after the test: a failing one in service gives its number to the lowest passing spare. -/
def bootCmps (bad : List Nat) : List CmpSt :=
  let spares := (List.range 8).filter (fun i => !bad.contains (40 + i))
  let hit := (List.range 40).filter bad.contains
  let used := spares.take hit.length
  (List.range 48).map (fun n =>
    if n < 40 then (if hit.idxOf n < hit.length && hit.idxOf n ≥ used.length then CmpSt.failed else .inService)
    else if used.contains (n - 40) || bad.contains n then .failed else .spare)

/-- Step 2 of R517. -/
def State.selfTest (s : State) (f : BootFindings) : State :=
  let ccs := List.range 32
  let fail (s : State) (ls : Bool) (cc n : Nat) : State := s.modEng ⟨ls, cc, n⟩ (fun g => { g with st := .failed })
  let s := ccs.foldl (fun s cc => (failedPes f cc).foldl (fun s n => fail s false cc n) s) s
  let s := ccs.foldl (fun s cc => (failedLss f cc).foldl (fun s n => fail s true cc n) s) s
  let pe := (ccs.map (fun cc => (failingPes f cc).length - (if (mappedPe f cc).isSome then 1 else 0))).foldl (· + ·) 0
  let s := { s with anvil.cmps := bootCmps f.cmps, place.badFilter := f.clusters }
  { s with boot := { s.boot with
      peRepaired := (ccs.filter (fun cc => (mappedPe f cc).isSome)).length, peFailed := pe
      lsFailed := (ccs.map (fun cc => (failedLss f cc).length)).foldl (· + ·) 0
      cmpFailed := f.cmps.length, rows := f.rows, fatal := f.fatal, msAuth := f.msAuth, msReady := f.msReady, msSelf := f.msSelf } }

/-- Step 3: XO alone is enabled at reset (15 R377, R378, R382). -/
def State.bootClocks (s : State) (xo : Bool) : State :=
  let doms := List.replicate 33 { ref := if xo then 0 else 5 : ClkDomain }
  let x : ClkSource := { st := if xo then .qualified else .failed, qualAt := s.tb3 }
  let s := { s.setClk 0 x with clocks.refSt := if xo then .locked else .unreferenced, clocks.selected := if xo then some 0 else none }
  let s := { s with clocks.doms := doms }.post 0x0B01 (le 1 0 ++ le 1 2 ++ le 1 (if xo then 3 else 4) ++ le 1 0)
  if xo then s.post 0x0B04 (le 1 0 ++ le 1 1 ++ le 1 0) else s

/-! ### Recovery of cells (21 R497) -/

/-- A recovery that counts. -/
def State.cellRecovered (s : State) (id outcome : Nat) : State := (s.bump 0x004).post 0x1003 (le 2 id ++ le 1 outcome)

/-- The retained record of an instance as found. -/
def State.recoverRetained (s : State) (id bad : Nat) : State :=
  let fi := id - 0x1000
  match s.prog.retained.get fi, s.prog.retPrev.get fi with
  | some _, some o =>
    if bit bad 0 && bit bad 1 then
      { s with prog.retained := s.prog.retained.del fi, prog.retPrev := s.prog.retPrev.del fi }.cellRecovered id 3
    else if bit bad 0 then
      { s with prog.retained := s.prog.retained.put fi o, prog.retPrev := s.prog.retPrev.del fi }.cellRecovered id 2
    else if bit bad 1 then { s with prog.retPrev := s.prog.retPrev.del fi }.cellRecovered id 2
    else if bit bad 2 then s.cellRecovered id 1
    else s
  | some _, none =>
    if bit bad 0 then { s with prog.retained := s.prog.retained.del fi }.cellRecovered id 3 else s
  | none, _ => s

/-- A counter or bin as found: `bad` of BootFindings. -/
def Cell.found (c : Cell) (bad : Nat) : Cell :=
  let c := { c with okA := c.okA && !bit bad 0, okB := c.okB && !bit bad 1 }
  if bit bad 2 then { c with seqB := c.seqA } else c

/-- The recovery of every cell. -/
def State.recoverCells (s : State) (damaged : List (Nat × Nat)) : State :=
  let s := { s with recorder.cells := s.recorder.cells.mapV (fun _ c => { c with recovered := false, lost := false }) }
  damaged.foldl (fun s d =>
    if d.1 ≥ 0x1000 then s.recoverRetained d.1 d.2
    else
      let (c, n) := ((s.recorder.cells.getD d.1 {}).found d.2).recover
      let s := { s with recorder.cells := s.recorder.cells.put d.1 c }
      if n = 0 then s else s.cellRecovered d.1 n) s

/-! ### Command-ready (R517, steps 2 to 7) -/

/-- A paired module waits (12 R309); PAIR_OK high already tells of a partner in control. -/
def State.startPair (s : State) : State :=
  if s.boot.pairStrap = 0 then s
  else
    let s := { s with pair := { s.pair with st := .waiting, pubEnable := false, waitSince := s.tb3 } }
    if s.pair.pairOk then s.enterSync else s

/-- The POWER_UP record (21 R489). -/
def State.postPowerUp (s : State) : State :=
  s.post 0x0101 (le 1 s.boot.cause ++ le 1 (boolNat s.boot.running) ++ le 1 Config.romVersion.toNat ++ le 1 (boolNat s.boot.vauxSeen))

/-- The stored data that the boot checks as it finds it: Halo's slots, the log, the counters (20 R473, 21 R497). -/
def State.checkStored (s : State) (f : BootFindings) : State :=
  let s := f.slots.foldl (fun s x => s.tagCheck x.1 x.2) s
  let s := { s with recorder.log := s.recorder.log.mapV (fun n (r : Record) => { r with crc := Tab.getD f.records n r.crc }) }
  s.recoverCells f.cells

/-- The steps after the image runs, but for the POWER_UP record. -/
def State.bootSteps (s : State) (f : BootFindings) : State :=
  let s := (s.selfTest f).bootClocks f.xo
  let s := { s with horizon := { s.horizon with
    tb0 := { s.horizon.tb0 with value := s.horizon.tb3 }, tb1 := { s.horizon.tb1 with value := s.horizon.tb3 }, tb2 := s.horizon.tb3 } }
  let s := s.checkStored f
  let s := (List.range 6).foldl (fun s n => if fuseBad n then s.post 0x1004 (le 1 n) else s) s
  let s := { s with boot.phase := .ready }.startPair
  let s := if f.fatal ≠ 0 then s.fatalContainment false else s
  s.checkSpares

/-- The steps after the image runs. POWER_UP is the first record of them (21 R489). -/
def State.finishBoot (s : State) (f : BootFindings) : State :=
  let t := s.bootSteps f
  let news := t.recorder.queue.drop s.recorder.queue.length
  let t := { t with recorder.queue := s.recorder.queue }.postPowerUp
  { news.foldl State.postEvent t with boot.vauxSeen := false }

/-! ### Firmware containers (R519) -/

/-- What the validation of a complete container finds: 0 valid, 1 the container fails, 2 MIN_ROM is above the boot ROM. -/
def fwVerdict (b : Bytes) : Nat :=
  let ok := u32 b 0 == 0x5128F1A0 && decide (byteAt b 8 < 16) && u16 b 0x0A == 0 && u32 b 0x0C + 0xA0 == b.length &&
    slice b 0x10 48 == sha384 (b.drop 0xA0) &&
    ecdsaOk Config.romKeyX.toNat Config.romKeyY.toNat (beNat (sha384 (b.take 0x40))) (beNat (slice b 0x40 48)) (beNat (slice b 0x70 48))
  if !ok then 1 else if byteAt b 9 > Config.romVersion.toNat then 2 else 0

/-! ### Supplies (15 R389 to R391) -/

/-- The actions of a VIN-fail warning (15 R390, 12 R316, 08 R218, 21 R488, 23 R522). -/
def State.vinWarning (s : State) (vin : Nat) : State :=
  let s := { s with power := { s.power with supply := .warning, vinMv := vin, warnings := inc32 s.power.warnings } }
  let s := ((s.bump 0x006).setLine 768 true).giveUp 4
  let s := s.post 0x0106 (le 2 vin ++ le 2 s.power.vinWarn)
  let s := { s with
    place.insts := s.place.insts.mapV (fun _ (x : Inst) => if x.run == RunSt.running then { x with snapDue := some 0 } else x)
    boot := { s.boot with slotA := s.boot.slotA.abandon, slotB := s.boot.slotB.abandon } }
  if s.power.vaux then s.commitAll else s

/-- The bin of a junction temperature (21 R499). -/
def tempBin (t : Int) : Nat := (clampInt 0 15 (divFloor (t + 40) 10)).toNat

/-- The bin of a core voltage in mV (21 R499). -/
def coreBin (mv : Nat) : Nat := min 7 ((mv - 550) / 50)

/-- One operating second (21 R484, R499). -/
def State.operatingSecond (s : State) : State :=
  let s := s.bump 0x000
  let s := (List.range 6).foldl (fun s i => s.bump (binId (1 + i) (tempBin (s.power.temps.getD i 25)))) s
  (List.range 4).foldl (fun s i => s.bump (binId (7 + i) (coreBin (s.power.coreMv.getD i 750)))) s

end Sys2Proof.Machine
end

