-- ==== Sys2Proof/Machine/Keys.lean ====
section
/-! DEFINITION. The keys family (20 R481) and Halo's events. -/
namespace Sys2Proof.Machine

/-- Key lengths a TYPE allows (R468). -/
def keyBitsOk (type bits : Nat) : Bool :=
  match type with
  | 1 => decide (128 ≤ bits) && decide (bits ≤ 512) && bits % 64 == 0
  | 2 => bits == 128
  | 3 => bits == 256
  | _ => decide (256 ≤ bits) && decide (bits ≤ 512) && bits % 64 == 0

/-- WRITE_KEY (0x0F01). -/
def cardWriteKey : Card where
  opcode := 0x0F01
  level := .m
  len := .exact 18
  most _ _ := 2
  reserved p := firstNonzero p [(6, 2)]
  params _ c :=
    let p := c.params
    orElseOpt (firstBad [
      (0x01, decide (1 ≤ byteAt p 1) && decide (byteAt p 1 ≤ 4)),
      (0x02, byteAt p 2 != 0 && decide (byteAt p 2 < 32)),
      (0x03, decide (byteAt p 3 ≤ 0x3F) || byteAt p 3 == 0xFF),
      (0x04, keyBitsOk (byteAt p 1) (u16 p 4))])
      (let n := u16 p 4 / 8
       firstNonzero p [(8 + n, 64 - n)])
  run s c :=
    let p := c.params
    let n := byteAt p 0
    let old := s.slot n
    let k : KeySlot := {
      st := .valid, type := byteAt p 1, usage := byteAt p 2, owner := byteAt p 3, version := (old.version + 1) % 256,
      bits := u16 p 4 }
    if !(s.slotUsers n).all k.fits then .wrong 2
    else if s.keys.tamperCause != 0 then .wrong 3
    else if s.haloPhase != .service then .wrong 4
    else
      let key := slice p 8 (u16 p 4 / 8)
      let s := (s.maskSlot n { k with tag := slotTag n k key } key).dropDerived n
      .ok (s.reloadUsers n key) (checkValue k.type key ++ le 1 k.version)

def execWriteKey (dt : Nat) (c : Cmd) (s : State) : Host.Outcome State Fault Refusal := runCard cardWriteKey dt c s

/-- A slot named in byte 0, the other bytes reserved. -/
def slotReserved (p : Bytes) : Option Nat := firstNonzero p [(1, 3)]

/-- ERASE_KEY (0x0F02): a VALID slot that a definition names would break its user. The slot is zeroed, VERSION with it. -/
def cardEraseKey : Card where
  opcode := 0x0F02
  level := .m
  len := .exact 1
  reserved := slotReserved
  run s c :=
    let n := byteAt c.params 0
    if (s.slot n).st == .valid && s.slotUsers n != [] then .wrong 2
    else if s.haloPhase != .service then .wrong 4
    else .ok ((s.setSlot n {}).dropDerived n) []

def execEraseKey (dt : Nat) (c : Cmd) (s : State) : Host.Outcome State Fault Refusal := runCard cardEraseKey dt c s

def KeySt.code : KeySt → Nat
  | .empty => 0
  | .valid => 1
  | .unusable => 2
  | .zeroised => 3

/-- GET_KEY_INFO (0x0F03). -/
def cardGetKeyInfo : Card where
  opcode := 0x0F03
  level := .r
  changes := false
  len := .exact 1
  most _ _ := 3
  reserved := slotReserved
  run s c :=
    let n := byteAt c.params 0
    let k := s.slot n
    let e := k.st == .empty
    .ok s (le 1 k.st.code ++ le 1 (if e then 0 else k.type) ++ le 1 k.usage ++ le 1 k.owner ++
      le 2 (if e then 0 else k.bits) ++ le 1 k.version ++ le 1 (min (s.slotUsers n).length 255))

def execGetKeyInfo (dt : Nat) (c : Cmd) (s : State) : Host.Outcome State Fault Refusal := runCard cardGetKeyInfo dt c s

/-- LIST_KEYS (0x0F04). -/
def cardListKeys : Card where
  opcode := 0x0F04
  level := .r
  changes := false
  len := .exact 0
  most _ _ := 65
  run s _ := .ok s ((List.range 256).flatMap (fun n => le 1 (s.slot n).st.code))

def execListKeys (dt : Nat) (c : Cmd) (s : State) : Host.Outcome State Fault Refusal := runCard cardListKeys dt c s

/-- VERIFY_KEY (0x0F05). A derived key takes the check value of its TYPE (R478): AES_128 for L = 128, and for L = 256
AES_256 when its USAGE serves MACsec, else HMAC_SHA256 (log entry 33). -/
def cardVerifyKey : Card where
  opcode := 0x0F05
  level := .m
  changes := false
  len := .exact 18
  most _ _ := 2
  reserved p := firstNonzero p [(4, 4)]
  params _ c :=
    let p := c.params
    let n := byteAt p 1
    orElseOpt (firstBad [
      (0x01, decide (n ≤ 64)),
      (0x02, if n = 0 then u16 p 2 == 0 else u16 p 2 == 128 || u16 p 2 == 256)])
      (firstNonzero p [(8 + n, 64 - n)])
  run s c :=
    let p := c.params
    let n := byteAt p 0
    let lab := byteAt p 1
    let k := s.slot n
    if k.st != .valid then .wrong 1
    else if s.haloPhase != .service then .wrong 4
    else if lab != 0 && !(k.type == tParent && bit k.usage 4) then .wrong 6
    else if lab = 0 then
      match s.useSlot n with
      | .ok key => .ok s (checkValue k.type key ++ zeros 1)
      | .refused => .wrong 1
      | .integrity t => .errWith t stIntegrity n []
    else
      match s.derive n (slice p 8 lab) (u16 p 2) with
      | (.ok key, t) =>
        .ok t (checkValue (if u16 p 2 = 128 then tAes128 else if bit k.usage 2 then tAes256 else tHmac) key ++ zeros 1)
      | (.refused, _) => .wrong 1
      | (.integrity t, _) => .errWith t stIntegrity n []

def execVerifyKey (dt : Nat) (c : Cmd) (s : State) : Host.Outcome State Fault Refusal := runCard cardVerifyKey dt c s

/-- ACK_TAMPER (0x0F06): with no latch set it changes nothing. -/
def cardAckTamper : Card where
  opcode := 0x0F06
  level := .m
  urgent := true
  len := .exact 0
  run s _ :=
    if s.keys.tamperCause = 0 then .ok s []
    else if s.keys.tamperLow then .wrong 5
    else .ok { s with keys.tamperCause := 0 } []

def execAckTamper (dt : Nat) (c : Cmd) (s : State) : Host.Outcome State Fault Refusal := runCard cardAckTamper dt c s

def HaloPhase.code : HaloPhase → Nat
  | .startUp => 0
  | .service => 1
  | .test => 2
  | .recovery => 3

/-- GET_HALO_STATUS (0x0F07). CLEAR reads and clears the counters (00 R8). -/
def cardGetHaloStatus : Card where
  opcode := 0x0F07
  level := .r
  changes := false
  len := .exact 1
  most _ _ := 8
  reserved p := orElseOpt (reservedBits p [(0, 0xFE)]) (firstNonzero p [(1, 3)])
  run s c :=
    let d := le 1 s.haloPhase.code ++ le 1 (boolNat (s.keys.tamperCause != 0) + 2 * s.keys.tamperCause) ++
      le 2 s.keys.cache.length ++ le 8 s.keys.tamperTb3 ++ s.keys.counters.flatMap (le 4)
    .ok (if bit (byteAt c.params 0) 0 then { s with keys.counters := [0, 0, 0, 0] } else s) d

def execGetHaloStatus (dt : Nat) (c : Cmd) (s : State) : Host.Outcome State Fault Refusal :=
  runCard cardGetHaloStatus dt c s

/-! ### Events -/

/-- TAMPER (R479): the level of TAMPER_N. Low for at least 100 ns is a tamper event; high again permits ACK_TAMPER. The
path needs VAUX alone. -/
def execTamper (dt : Nat) (low : Bool) (s : State) : Host.Outcome State Fault Refusal :=
  let s := s.advance dt
  if !s.power.vaux then .next { s with keys.tamperLow := low }.tamperLine
  else
    let was := s.keys.tamperLow
    let s := { s with keys.tamperLow := low }.tamperLine
    .next (if low && !was then s.zeroise 1 else s)

/-- REMASK (R472): outside SERVICE every slot is re-masked every 100 ms (R473), one slot with each of these. -/
def execRemask (dt slot : Nat) (s : State) : Host.Outcome State Fault Refusal :=
  let s := s.advance dt
  if s.haloPhase == .service || s.power.supply == .off then .next s
  else
    let s := s.remask slot
    .next (if (s.keys.slots.filter (fun p => p.2.st != .empty)).getLast?.map (·.1) == some slot then s.haloCount 3 else s)

/-- TAG_CHECK (R470): the background check of a slot, in which the bits of `flip` of its stored key word have been found
flipped. -/
def execTagCheck (dt slot flip : Nat) (s : State) : Host.Outcome State Fault Refusal :=
  .next ((s.advance dt).tagCheck slot flip)

/-- OLD_KEY_EXPIRY (R477): 1 s after a reload the previous key of a MACsec link is dropped. -/
def execOldKeyExpiry (dt link : Nat) (s : State) : Host.Outcome State Fault Refusal :=
  let s := s.advance dt
  match s.keys.macsec.get link with
  | some k =>
    .next (if k.prev.isSome && s.tb3Passed k.prevAt 1000000 then
        { s with keys.macsec := s.keys.macsec.put link { k with prev := none } } else s)
  | none => .next s

/-- Does the TAP take an instruction now as given (24 R540)? Those that drive the balls only while RESET_N is low. -/
def TapInstr.drives (i : TapInstr) : Bool := i != .bypass && i != .idcode && i != .samplePreload

/-- TAP_INSTRUCTION (24 R540): an instruction is loaded; one that may not be taken acts as BYPASS. -/
def execTapInstruction (dt : Nat) (i : Nat) (s : State) : Host.Outcome State Fault Refusal :=
  let s := s.advance dt
  let t : TapInstr :=
    match i with
    | 1 => .idcode
    | 2 => .samplePreload
    | 3 => .extest
    | 4 => .extestPulse
    | 5 => .extestTrain
    | 6 => .clamp
    | 7 => .highz
    | 8 => .intest
    | _ => .bypass
  .next { s with tap.instr := if t.drives && s.boot.resetPin then .bypass else t }

/-- TAP_RESET (R473): Test-Logic-Reset. -/
def execTapReset (dt : Nat) (s : State) : Host.Outcome State Fault Refusal :=
  .next { s.advance dt with tap.instr := .idcode }

end Sys2Proof.Machine
end

