-- ==== Sys2Proof/Machine/ProgOps.lean ====
section
/-! DEFINITION. What the program family rests on: retained records, settings, staging and cancelling an on-line change
(08 R218 to R227). -/
namespace Sys2Proof.Machine

def RunSt.code : RunSt → Nat
  | .ready => 0
  | .starting => 1
  | .running => 2
  | .stopping => 3
  | .stopped => 4
  | .faulted => 5

def StartMode.code : StartMode → Nat
  | .cold => 0
  | .warm => 1
  | .resume => 2

/-- MODE of START_INSTANCE. -/
def startMode (m : Nat) : StartMode := if m = 0 then .cold else if m = 1 then .warm else .resume

/-- Is an FI named in the open or staged change (R222)? -/
def State.inChange (s : State) (fi : Nat) : Bool := s.prog.change.st != .none && s.prog.change.entries.any (fun e => e.fi == fi)

/-- Bytes of retain regions that all records take beside that of `fi` (R218): those committed, and those of instances that
were started and have committed nothing yet. -/
def State.retainOthers (s : State) (fi : Nat) : Nat :=
  let done := (s.prog.retained.filter (fun p => p.1 != fi)).map (fun p => p.2.data.length)
  let begun := (s.place.insts.filter (fun p => p.1 != fi && p.2.lastMode.isSome && !s.prog.retained.has p.1)).map (fun p =>
    imgRetainBytes (s.imageD p.2.image))
  (done ++ begun).foldl (· + ·) 0

/-- Would the record of `fi` under an image exceed R218? -/
def State.retainFull (s : State) (fi image : Nat) : Bool :=
  !s.prog.retained.has fi && ((s.inst fi).map (fun x => x.lastMode.isNone)).getD false &&
    decide (s.retainOthers fi + imgRetainBytes (s.imageD image) > 262144)

/-- The snapshot of an instance that is not running, after its settings were written (R218 point 3): it owns a record once it
has been started. Its tick is the next boundary. -/
def State.snapStill (s : State) (fi : Nat) : State :=
  match s.inst fi with
  | none => s
  | some x =>
    if x.lastMode.isNone then s
    else
      let b := s.imageD x.image
      match x.copies.find? (fun c => c.live.isSome) with
      | none => s
      | some c =>
        match c.live with
        | none => s
        | some (e, a) =>
          let r : Retained := { hash := imgHash b, image := x.image, cycle := x.cycleNo, tick := tickAtOrAfter s.now,
                                data := memReadN (s.eng e).mem (a.dataBase + imgRetainOff b) (imgRetainBytes b) }
          (s.setInst fi { x with lastGood := some r }).commitRetained fi

/-! ### WRITE_SETTINGS entries -/

/-- The entries from offset `o` on: (offset of the entry, DATA offset, size); none where the parameters end too soon. -/
def settingEntries (p : Bytes) : Nat → Nat → Option (List (Nat × Nat × Nat) × Nat)
  | 0, o => some ([], o)
  | n + 1, o =>
    if o + 4 > p.length then none
    else
      match settingEntries p n (o + 4 + (u16 p (o + 2) + 3) / 4 * 4) with
      | none => none
      | some (l, e) => some ((o, u16 p o, u16 p (o + 2)) :: l, e)

def settingsOf (p : Bytes) : List (Nat × Nat × Nat) := ((settingEntries p (min (u16 p 2) 1024) 0x0C).map (·.1)).getD []

/-- Padding of the entries' values. -/
def settingPad (p : Bytes) : List (Nat × Nat) :=
  (settingsOf p).map (fun e => (e.1 + 4 + e.2.2, (4 - e.2.2 % 4) % 4))

/-! ### Staging (R222) -/

/-- A check of staging that fails: status, DETAIL and the FI concerned. -/
abbrev StageErr := Nat × Nat × Nat

/-- Stages one copy of a REPLACE: span, then memory. -/
def State.stageCopy (s : State) (fi k image : Nat) : Except StageErr State :=
  match s.inst fi with
  | none => .ok s
  | some x =>
    match x.copy k with
    | none => .ok s
    | some c =>
      match c.eng with
      | none => .ok s
      | some e =>
        let b := s.imageD image
        let n := spanOf x.ls s.place.point (startOffset x.cls k) (imgWcic b)
        let mine := slotsOf x.phase x.cycle c.span
        let occ := s.occupied e
        if !(slotsOf x.phase x.cycle n).all (fun t => mine.contains t || !occ.contains t) then .error (stNoResource, 1, fi)
        else if s.stagedNeeded e image > s.memFree e then .error (stNoResource, 2, fi)
        else
          let a := s.allocImage e image (s.areasOn e) c.areas.dataBase c.areas.dataBytes
          let s := s.modInst fi (fun x => x.modCopy k (fun c => { c with newAreas := some a, newSpan := n }))
          .ok (if c.st = .running then s.loadCode e a image else s)

def State.stageCopies (s : State) (fi image : Nat) : List Nat → Except StageErr State
  | [] => .ok s
  | k :: ks =>
    match s.stageCopy fi k image with
    | .error e => .error e
    | .ok s => State.stageCopies s fi image ks

/-- Firmware protocol level of the running image (23 R519). -/
def State.level (s : State) : Nat := if s.boot.running then s.boot.slotB.level else s.boot.slotA.level

/-- Stages a REPLACE (R222, R228). -/
def State.stageReplace (s : State) (fi image : Nat) : Except StageErr State :=
  match s.inst fi, s.image image with
  | none, _ => .error (stWrongState, 1, fi)
  | some _, none => .error (stWrongState, 2, fi)
  | some x, some b =>
    let o := s.imageD x.image
    if !x.isPlaced then .error (stWrongState, 0x0F, fi)
    else if imgHash b ≠ imgHash o || imgData b != imgData o then .error (stWrongState, 6, fi)
    else if imgKind b ≠ imgKind o || imgNChan b != imgNChan o || imgNSig b != imgNSig o || imgOutWords b != imgOutWords o then
      .error (stWrongState, 7, fi)
    else if s.boot.role == 2 && !bit (imgLevels b) s.level then .error (stVersionLevel, 0, fi)
    else if imgWcic b > wcicLimit x.ls s.place.point x.cycle then .error (stNoResource, 1, fi)
    else
      match s.stageCopies fi image (List.range (x.copies.length + 1)) with
      | .error e => .error e
      | .ok t => .ok (t.modInst fi (fun x => { x with newImage := some image }))

/-- The image that an FI runs after the switch: that of its REPLACE entry, or that of an ADD instance. -/
def State.imageAfter (s : State) (fi : Nat) : Option Nat :=
  s.prog.change.entries.findSome? (fun e => match e with
    | .replace f i => if f = fi then some i else none
    | .add f => if f = fi then (s.inst fi).map (·.image) else none
    | _ => none)

/-- Checks or stages one entry. -/
def State.stageEntry (s : State) : ChangeEntry → Except StageErr State
  | .replace fi image => s.stageReplace fi image
  | .add fi =>
    match s.inst fi with
    | none => .error (stWrongState, 1, fi)
    | some x =>
      if x.place != .declared then .error (stWrongState, 3, fi)
      else if s.retainFull fi x.image then .error (stNoResource, 0x0A, fi) else .ok s
  | .remove fi =>
    match s.inst fi with
    | none => .error (stWrongState, 1, fi)
    | some x => if !x.isPlaced then .error (stWrongState, 0x0F, fi) else .ok s
  | .setting fi off v =>
    match (s.imageAfter fi).bind s.image with
    | some b => if (imgSettings b).contains (off, v.length) then .ok s else .error (stWrongState, 8, fi)
    | none => .error (stWrongState, 8, fi)

def State.stageEntries (s : State) : List ChangeEntry → Except StageErr State
  | [] => .ok s
  | e :: es =>
    match s.stageEntry e with
    | .error r => .error r
    | .ok s => State.stageEntries s es

/-- The instances of the ADD entries. -/
def State.added (s : State) : List Nat :=
  s.prog.change.entries.filterMap (fun e => match e with
    | .add fi => some fi
    | _ => none)

/-- Staging at CLOSE (R222): all entries or none; the ADD instances are placed by R72 as one placement. -/
def State.stageAll (s : State) : Except StageErr State :=
  match s.stageEntries s.prog.change.entries with
  | .error r => .error r
  | .ok t =>
    let adds := (t.inOrder (fun _ => true)).filter s.added.contains
    match t.placeAll adds with
    | .error (fi, r) => .error (stNoResource, r, fi)
    | .ok t => .ok (adds.foldl State.commitPlaced t)

/-! ### The workers' parts (R228) -/

/-- A command to every worker that has a part in the change, whose answers the manager then waits for. -/
def State.tellNodes (s : State) (opcode : Nat) (p : Bytes) : State :=
  let (waits, s) := s.stratus.changeNodes.foldl (fun (a : List (Nat × Nat × Nat) × State) n =>
    let (m, t) := a.2.sendCommand n opcode p
    (a.1 ++ [(m, n, 0)], t)) (([], s) : List (Nat × Nat × Nat) × State)
  if waits = [] || s.mute then s else { s with stratus.group := some { places := [], waits := waits, failed := none } }

/-- The workers drop their parts. -/
def State.dropParts (s : State) : State :=
  let s := s.stratus.changeNodes.foldl (fun (s : State) n => (s.sendCommand n 0x0309 []).2) s
  if s.stratus.changeNodes = [] then s else { s with stratus.changeNodes := [], stratus.group := none }

/-- Do workers still have to answer? -/
def State.partsOut (s : State) : Bool :=
  s.stratus.changeNodes != [] && ((s.stratus.group.map (fun g => g.waits != [])).getD false)

/-- The first refusal of a worker. -/
def State.partFailed (s : State) : Option (Nat × Nat × Nat × Bytes) :=
  if s.stratus.changeNodes = [] then none else s.stratus.group.bind (·.failed)

/-- The outcome of a CLOSE once every worker concerned has answered: status, DETAIL, results. A refused change is discarded. -/
def State.stageNow (s : State) : Option ((Nat × Nat × Bytes) × State) :=
  let refuse (st d fi : Nat) (data : Bytes) : Option ((Nat × Nat × Bytes) × State) :=
    some ((st, d, data), { s with prog.change := { failFi := fi, failSt := st } }.dropParts)
  if s.partsOut then none
  else
    match s.partFailed with
    | some (st, _, d, data) => refuse st d (u16 data 0) data
    | none =>
      match s.stageAll with
      | .ok t => some ((stOk, 0, []), { t with prog.change.st := .staged })
      | .error (st, d, fi) => refuse st d fi (le 2 fi ++ zeros 2)

/-- An instance leaves its engines and is DECLARED again. -/
def State.unplace (s : State) (fi : Nat) : State :=
  s.modInst fi (fun x =>
    { x with place := .declared, copies := [], cmp := none, run := .ready, nextTick := 0, phase := 0xFF, safe := true,
             safeFrom := none, cycles := [] })

/-- Staged resources are freed (R226, R227). -/
def State.unstage (s : State) : State :=
  let s := s.added.foldl State.unplace s
  let clear (c : Copy) : Copy := { c with newAreas := none, newSpan := 0 }
  let insts := s.place.insts.mapV (fun _ x => { x with newImage := none, copies := x.copies.map clear })
  let ch : OnLine := { failFi := s.prog.change.failFi, failSt := s.prog.change.failSt }
  State.dropRings { s with place.insts := insts, prog.change := ch }

/-! ### Completion (R227) -/

/-- The REMOVE instances whose safe values have taken effect go. -/
def State.removeDone (s : State) : State :=
  ((s.place.insts.filter (fun p => p.2.removeNext && p.2.safe && !p.2.isRunning)).map (·.1)).foldl State.removeInst s

/-- Has every instance of the change published its first new cycle or been removed? -/
def State.changeDone (s : State) : Bool :=
  s.prog.change.entries.all (fun e => match e with
    | .replace fi _ | .add fi => ((s.inst fi).map (fun x => x.firstNew.isSome && (x.newOut || !x.isRunning))).getD true
    | .remove fi => (s.inst fi).isNone
    | .setting .. => true)

/-- The change completes: the old areas are freed, it is recorded and reported. -/
def State.completeChange (s : State) : State :=
  let ch := s.prog.change
  let (st, d) := match s.partFailed with
    | some (st, _, d, _) => (st, d)
    | none => if ch.faultCls = 0 then (stOk, 0) else (stFault, ch.faultCls)
  let drop (c : Copy) : Copy := { c with oldAreas := none }
  let insts := s.place.insts.mapV (fun _ x => { x with firstNew := none, newOut := false, copies := x.copies.map drop })
  let ch2 : OnLine := { failFi := ch.failFi, failSt := ch.failSt }
  let s := State.dropRings { s with place.insts := insts, prog.change := ch2 }
  let s := if s.stratus.changeNodes = [] then s else { s with stratus.changeNodes := [], stratus.group := none }
  (s.post 0x0304 (le 2 ch.entries.length ++ le 2 st ++ le 2 d ++ le 8 ch.tick)).finishWait .switch (st, d, le 8 ch.tick)

end Sys2Proof.Machine
end

