-- ==== Sys2Proof/Machine/Boot.lean ====
section
/-! DEFINITION. The firmware opcodes of the system family (23 R525), resets, the boot sequence and the supplies as events. -/
namespace Sys2Proof.Machine

/-! ### Firmware opcodes -/

/-- No image runs in RECOVERY (R521). -/
def State.runs (s : State) (x : Bool) : Bool := s.boot.phase == .ready && s.boot.running == x

/-- Stores a chunk of a container (R522): the first one erases the slot. -/
def State.storeChunk (s : State) (x : Bool) (total off : Nat) (d : Bytes) : State :=
  let b := s.boot.setSlot (!x) (s.boot.slot (!x)).abandon
  let f := b.slot x
  let b := if f.writing then b else
    let b := b.setSlot x { empty := false, total := total }
    if b.record.next = x ∧ s.boot.phase = .ready then b.setRecord { next := b.running } else b
  let f := b.slot x
  { s with boot := b.setSlot x { f with chunks := putChunk f.chunks off d } }

/-- WRITE_FIRMWARE (0x0108). -/
def cardWriteFirmware : Card where
  opcode := 0x0108
  level := .m
  len := .range 4 1003
  reserved p := firstNonzero p [(1, 3)]
  params s c :=
    let p := c.params
    let f := s.boot.slot (byteAt p 0 == 1)
    let total := u32 p 8
    firstBad [
      (0, decide (byteAt p 0 ≤ 1)),
      (4, u32 p 4 % 4 == 0 && decide (u32 p 4 + (p.length - 12) ≤ total)),
      (8, decide (0xA4 ≤ total) && decide (total ≤ 0xA0 + 2621440) && total % 4 == 0 && (!f.writing || f.total == total))]
  run s c :=
    let p := c.params
    let x := byteAt p 0 == 1
    if s.runs x then .wrong 0x10
    else if s.power.supply = .warning then .wrong 0x13
    else
      let s := s.storeChunk x (u32 p 8) (u32 p 4) (p.drop 12)
      let f := s.boot.slot x
      if f.writing then .ok s []
      else
        let b := memReadN f.chunks 0 f.total
        match fwVerdict b with
        | 0 =>
          let g : FwSlot := { f with valid := true, version := u32 b 4, level := byteAt b 8 }
          .accepted ({ s with boot := s.boot.setSlot x g }.bump 0x010) .firmware true (some (stOk, 0, []))
        | 1 => .accepted s .firmware true (some (stIntegrity, 2, []))
        | _ => .accepted s .firmware true (some (stVersionLevel, s.level, []))

def execWriteFirmware (dt : Nat) (c : Cmd) (s : State) : Host.Outcome State Fault Refusal := runCard cardWriteFirmware dt c s

/-- SELECT_IMAGE (0x0109). -/
def cardSelectImage : Card where
  opcode := 0x0109
  level := .m
  len := .exact 1
  reserved p := firstNonzero p [(2, 2)]
  params s c :=
    let p := c.params
    firstBad [(0, decide (byteAt p 0 ≤ 1)),
      (1, byteAt p 1 == 0 || (byteAt p 1 == 1 && !s.runs (byteAt p 0 == 1)))]
  run s c :=
    let x := byteAt c.params 0 == 1
    if !(s.boot.slot x).valid then .wrong 0x11
    else .ok { s with boot := s.boot.setRecord { next := x, trial := byteAt c.params 1 == 1 } } []

def execSelectImage (dt : Nat) (c : Cmd) (s : State) : Host.Outcome State Fault Refusal := runCard cardSelectImage dt c s

/-- CONFIRM_IMAGE (0x010A). -/
def cardConfirmImage : Card where
  opcode := 0x010A
  level := .m
  len := .exact 0
  run s _ :=
    if s.boot.record.trial && s.runs s.boot.record.next then
      .ok { s with boot := s.boot.setRecord { next := s.boot.record.next } } []
    else .wrong 0x12

def execConfirmImage (dt : Nat) (c : Cmd) (s : State) : Host.Outcome State Fault Refusal := runCard cardConfirmImage dt c s

/-- GET_BOOT_REPORT (0x010B). -/
def cardGetBootReport : Card where
  opcode := 0x010B
  level := .r
  changes := false
  len := .exact 0
  most _ _ := 7
  run s _ :=
    let b := s.boot
    .ok s (le 1 b.cause ++ le 1 (bitsNat [b.reverted, b.fallback, b.strapRes, b.recovery]) ++ le 1 b.straps ++ le 1 b.fatal ++
      le 2 b.peRepaired ++ le 2 b.peFailed ++ le 1 b.lsFailed ++ le 1 b.cmpFailed ++ zeros 2 ++ le 4 b.rows ++ le 2 b.msAuth ++
      le 2 b.msReady ++ le 4 b.msSelf)

def execGetBootReport (dt : Nat) (c : Cmd) (s : State) : Host.Outcome State Fault Refusal := runCard cardGetBootReport dt c s

/-! ### Resets and the boot sequence -/

/-- POWER_UP (15 R389, R517): VIN and VAUX in mV as they become valid. A loss of VAUX while the module was unpowered shows now
(20 R479). -/
def execPowerUp (dt vin vaux : Nat) (b : BootScan) (s : State) : Host.Outcome State Fault Refusal :=
  let s := s.advance dt
  if s.power.supply != .off || vin < 2700 || vaux < 2500 then .next s
  else
    let s := if s.power.vaux then s else { s with horizon.tb3 := 0 }
    let s := { s with power := { s.power with supply := .running, vaux := true, vinMv := vin, vauxMv := vaux } }
    let s := if s.boot.vauxSeen then s.zeroise 2 else s
    .next ((s.bump 0x001).startBoot 1 b)

/-- COMMAND_READY (R517): the rest of the sequence, with what it finds. -/
def execCommandReady (dt : Nat) (f : BootFindings) (s : State) : Host.Outcome State Fault Refusal :=
  let s := s.advance dt
  .next (if s.boot.phase == .booting then s.finishBoot f else s)

/-- RESET_N (R514): the ball falls for at least 1 µs, or rises. While it is low the module is held in reset. -/
def execResetN (dt : Nat) (level : Bool) (b : BootScan) (s : State) : Host.Outcome State Fault Refusal :=
  let s := s.advance dt
  if level = s.boot.resetPin then .next s
  else
    let s := { s with boot.resetPin := level }
    if s.power.supply == .off then .next s
    else if !level then
      let cause := if s.anvil.hub = .fatal then 4 else 2
      .next { s.inReset .held with boot.cause := cause }
    else
      let s := { s with tap.instr := if s.tap.instr.drives then .bypass else s.tap.instr }
      .next (s.startBoot (if s.boot.cause = 4 then 4 else 2) b)

/-- MODULE_RESET_BEGIN (02 R60, R514): 1 ms after the reply. A module in control gives up first. -/
def execModuleResetBegin (dt : Nat) (b : BootScan) (s : State) : Host.Outcome State Fault Refusal :=
  let s := s.advance dt
  match s.cmd.resetDue with
  | none => .next s
  | some (t, force) =>
    if !s.tb3Passed t 1000 then .next s
    else
      let s := (s.giveUp 3).post 0x0105 (le 1 (boolNat force))
      let cause := if s.anvil.hub = .fatal then 4 else 3
      .next ((s.inReset .held).startBoot cause b)

/-! ### Supplies (15 R389 to R391) -/

/-- VIN_WARNING: VIN falls below VIN_WARN. -/
def execVinWarning (dt vin : Nat) (s : State) : Host.Outcome State Fault Refusal :=
  let s := s.advance dt
  .next (if s.power.supply = .running ∧ vin < s.power.vinWarn then s.vinWarning vin else s)

/-- VIN_RECOVERED: VIN has stood at VIN_WARN + 0.10 V or above for 10 ms. -/
def execVinRecovered (dt vin : Nat) (s : State) : Host.Outcome State Fault Refusal :=
  let s := s.advance dt
  if s.power.supply = .warning ∧ vin ≥ s.power.vinWarn + 100 then
    let s := { s with power := { s.power with supply := .running, vinMv := vin } }
    .next ((s.setLine 768 false).post 0x0107 (le 2 vin))
  else .next s

/-- VIN_LOSS: VIN falls below 2.30 V. Queued events are lost, and without a warning the loss counts. -/
def execVinLoss (dt vin : Nat) (s : State) : Host.Outcome State Fault Refusal :=
  let s := s.advance dt
  if s.power.supply == .off || vin ≥ 2300 then .next s
  else
    let s := if s.power.supply = .running then s.bump 0x007 else s
    let s := { s with recorder.queue := [], recorder.lost := 0 }
    let s := { s with power := { s.power with supply := .off, vinMv := vin }, tap.instr := .idcode }
    .next (s.inReset .off)

/-- VAUX_LOSS: a tamper event while VIN is present (20 R479); without VIN it shows at the next power-up. -/
def execVauxLoss (dt : Nat) (s : State) : Host.Outcome State Fault Refusal :=
  let s := s.advance dt
  if !s.power.vaux then .next s
  else
    let s := { s with power.vaux := false }
    .next (if s.power.supply == .off then { s with boot.vauxSeen := true } else s.tamperLine.zeroise 2)

/-- VAUX_RESTORED: TB3 restarts from 0. -/
def execVauxRestored (dt : Nat) (s : State) : Host.Outcome State Fault Refusal :=
  let s := s.advance dt
  if s.power.vaux then .next s
  else .next { s with power.vaux := true, horizon.tb3 := 0 }.tamperLine

/-- OPERATING_SECOND (21 R484, R499): the hottest sensor of C0 to C3, N and Z in °C, VIN and VAUX in mV as measured. -/
def execOperatingSecond (dt vin vaux : Nat) (temps : List Int) (s : State) : Host.Outcome State Fault Refusal :=
  let s := s.advance dt
  if s.power.supply == .off then .next s
  else
    let s := { s with power := { s.power with vinMv := vin, vauxMv := vaux, temps := temps } }
    .next s.operatingSecond

end Sys2Proof.Machine
end

