-- ==== Sys2Proof/Machine/CapTap.lean ====
section
/-! DEFINITION. What the capture store taps from ingest: positions as they close, and late samples (10 R256 to R258). -/
namespace Sys2Proof.Machine

def State.recd (s : State) (n : Nat) : Option Recorder := s.cap.recs.get n
def State.setRec (s : State) (n : Nat) (r : Recorder) : State := { s with cap.recs := s.cap.recs.put n r }

/-- The segments a recorder is filling. -/
def Recorder.runs (r : Recorder) : List Run := r.drains ++ r.run.toList

/-- Has a recorder a RAW lane on a channel of the stream? -/
def Recorder.taps (r : Recorder) (x : Stream) : Bool := r.lanes.any (fun l => l.tap == 0 && x.cfg.channels.contains l.chan)

/-- Does a recorder that records need the closed positions of a stream? -/
def State.capWants (s : State) (x : Stream) : Bool := s.cap.recs.any (fun e => !e.2.runs.isEmpty && e.2.taps x)

/-- Counters of GET_RECORDER. -/
def Recorder.count (r : Recorder) (i n : Nat) : Recorder := { r with counters := modAt r.counters i (fun c => satAdd 32 c n) }

/-- A late sample of position `p`, at `ta` (R258): held for the recorders whose horizon has not passed, counted in LATE_DROPPED
by those whose horizon has. One sample of a stream counts once in a recorder, as in the worked example. -/
def State.capLate (s : State) (x : Stream) (p : Nat) (es : List (Int × Nat)) (ta : Nat) : Stream × State :=
  let t := p * periodQ x.cfg.rate
  let after (u : Run) : Bool := decide (u.a ≤ t) && decide (ta > t + u.h)
  let inTime (u : Run) : Bool := decide (u.a ≤ t) && decide (ta ≤ t + u.h)
  let mine := s.cap.recs.filter (fun e => e.2.taps x)
  let keep := mine.any (fun e => e.2.runs.any inTime)
  let x := if keep then
      { x with kept := x.kept.modD p {} (fun k => if k.late.isSome then k else { k with late := some (es, ta) }) }
    else x
  (x, (mine.filter (fun e => e.2.runs.any after)).foldl (fun s e =>
    { s with cap.recs := s.cap.recs.upd e.1 (fun r => r.count 5 1) }) s)

/-- The settings of a channel's chain at position `n` (R269). -/
def Chain.settingAt (k : Chain) (n : Nat) : PastSetting :=
  let now : PastSetting := { at_ := 0, setting := false, bank := k.bank, gain := k.gain, offset := k.offset, nRef := k.nRef }
  (k.past.takeWhile (fun q => decide (n < q.at_))).getLast?.getD now

/-- Did a setting change apply at a position in [lo, hi) (R269, TRANSITION)? -/
def Chain.changedIn (k : Chain) (lo hi : Nat) : Bool :=
  k.past.any (fun q => q.setting && decide (lo ≤ q.at_) && decide (q.at_ < hi))

end Sys2Proof.Machine
end

