-- ==== Sys2Proof/Machine/IngestOps.lean ====
section
/-! DEFINITION. Filing of samples: decoding, checks, positions, anchors, alignment (04 R96 to R109). -/
namespace Sys2Proof.Machine

def State.stream (s : State) (n : Nat) : Option Stream := s.ingest.streams.get n
def State.setStream (s : State) (n : Nat) (x : Stream) : State := { s with ingest.streams := s.ingest.streams.put n x }
def State.modStream (s : State) (n : Nat) (f : Stream → Stream) : State :=
  { s with ingest.streams := s.ingest.streams.upd n f }

def StreamSt.code : StreamSt → Nat
  | .disabled => 0
  | .waiting => 1
  | .learning => 2
  | .running => 3
  | .lost => 4

/-- Missing causes of R109. -/
def mcNotReceived := 1
def mcRejected := 2
def mcEarly := 3
def mcUnsync := 4
def mcDisabled := 5
def mcLearning := 6
def mcNoTime := 7

/-- SQW bits [11:4] of an IEC 61850-9-2 quality (R109; bit places of the quality, log entry 34). -/
def qualityBits (q : Nat) : Nat :=
  let v := q % 4
  let detail := [4, 5, 7, 8, 9, 12, 13].any (bit q)
  2 ^ 4 * boolNat (v == 1 || v == 2) + 2 ^ 5 * boolNat (v == 3) + 2 ^ 6 * boolNat (bit q 2) + 2 ^ 7 * boolNat (bit q 3) +
    2 ^ 8 * boolNat (bit q 6) + 2 ^ 9 * boolNat detail + 2 ^ 10 * boolNat (bit q 10) + 2 ^ 11 * boolNat (bit q 11)

/-- Grade of smpSynch (R106): 2 global, 1 local, 0 unsynchronised. -/
def synchGrade (v : Nat) : Nat := if v = 2 then 2 else if v = 1 ∨ (5 ≤ v ∧ v ≤ 254) then 1 else 0

/-- What a SYNC_REQ does with a grade (R106): none is not filed, else the SQW bits it sets. -/
def syncOutcome (req grade : Nat) : Option Nat :=
  if grade = 2 then some 0
  else if req = 0 then none
  else if grade = 1 then some (2 ^ 12)
  else if req = 2 then some (2 ^ 13)
  else none

/-- One position a frame carries: its entries, how it is placed, and the SQW bits of its synchronisation. -/
structure Carried where
  entries : List (Int × Nat)
  pos     : Int
  sync    : Nat
  deriving DecidableEq, Repr

/-- The arrival offset X in 1/589824 ns, 0 until learned (R102). -/
def Stream.xQ (x : Stream) : Int := (x.x.getD 0) * (qNs : Int)

/-- X as the anchor takes it: D − 6.60 µs in FIXED mode (R107). -/
def Stream.anchorX (x : Stream) : Int :=
  if x.fixedDelay ≠ 0 then ((x.fixedDelay : Int) - 6600) * (qNs : Int) else x.xQ

/-- Units of 1/589824 ns in a second. -/
def qSec : Nat := 589824000000000

/-- The position of a synchronised sample: the second nearest to t_a − X, the later of two equally near (R102). -/
def Stream.resolve (x : Stream) (cnt ta : Nat) : Int :=
  let off := (cnt * periodQ x.cfg.rate : Nat)
  let sec := (((ta : Int) - x.xQ - (off : Int)) + (qSec / 2 : Nat)).fdiv (qSec : Int)
  sec * (rateHz x.cfg.rate : Int) + (cnt : Int)

/-- Signed difference of two smpCnt values modulo the rate (R102). -/
def cntDiff (rate a b : Nat) : Int :=
  let d := ((a : Int) - (b : Int)) % (rate : Int)
  if 2 * d > (rate : Int) then d - (rate : Int) else d

/-- The anchored position of a count, or of a time for travelling wave, rounded to the nearest position (R107). -/
def Stream.anchored (x : Stream) (a : Anchor) (v : Nat) : Int :=
  if x.cfg.fmt = 0 then a.n0 + cntDiff (rateHz x.cfg.rate) v a.count
  else
    let per : Int := (periodQ x.cfg.rate : Nat)
    a.n0 + (2 * ((v : Int) - (a.count : Int)) + per).fdiv (2 * per)

/-- Sets or retakes the anchor for a frame whose newest unsynchronised sample has count or time `v` and smpSynch `sy`
(R107). -/
def State.takeAnchor (s : State) (n : Nat) (x : Stream) (ta v sy : Nat) : Stream × State :=
  let per : Int := (periodQ x.cfg.rate : Nat)
  let at_ : Int := (ta : Int) - x.anchorX
  let fresh : Anchor := { n0 := at_.fdiv per, count := v, synch := sy }
  match x.anchor with
  | none => ({ x with anchor := some fresh, lastSynch := sy }, s)
  | some a =>
    let off := (at_ - x.anchored a v * per).natAbs
    let moved := decide (off > 100000 * qNs) || (x.cfg.fmt == 0 && x.lastSynch != sy)
    if moved then
      ({ x with anchor := some fresh, lastSynch := sy },
        s.post 0x0405 (le 2 n ++ leS 8 a.n0 ++ leS 8 fresh.n0))
    else ({ x with lastSynch := sy }, s)

/-- Sets a pending cause on a position if it is open and nothing is filed there (R99, R103, R104). -/
def Stream.pend (x : Stream) (now : Nat) (n : Int) (cause : Nat) : Stream :=
  if n < 0 ∨ n.toNat < x.closedTo ∨ x.cutoff n.toNat ≤ now then x
  else
    let t := x.slots.getD n.toNat {}
    if t.filed.isSome then x else { x with slots := x.slots.put n.toNat { t with cause := cause } }

/-- Writes the filed entries of a position into the rings of the stream's channels. -/
def State.fileRings (s : State) (x : Stream) (n : Nat) (es : List (Int × Nat)) : State :=
  (List.zip x.cfg.channels es).foldl (fun s p =>
    match s.place.rings.get p.1 with
    | some r => s.putEntry r x.cfg.fmt n p.2.1 p.2.2
    | none => s) s

/-- At most one DUP_DIFFER record a second, with the count since the last (R104). -/
def State.dupDiffer (s : State) (n : Nat) (x : Stream) : Stream × State :=
  let now := visNs s.tb3
  let x := { x with dupDiffer := inc32 x.dupDiffer, dupSince := x.dupSince + 1 }
  let due := match x.dupRecAt with
    | some t => decide (now ≥ t + 1000000000)
    | none => true
  if due then ({ x with dupRecAt := some now, dupSince := 0 }, s.post 0x0404 (le 2 n ++ le 4 x.dupSince)) else (x, s)

/-- One valid position met by its slot's state (R103): EARLY, LATE, DUPLICATE or filed. -/
def State.filePosition (s : State) (n : Nat) (x : Stream) (ta : Nat) (c : Carried) : Stream × State :=
  if c.pos < 0 then (x, s)
  else
    let p := c.pos.toNat
    let cut := x.cutoff p
    let hold := if s.horizon.ptSt = .holdover then 2 ^ 14 else 0
    let es := c.entries.map (fun e => (e.1, e.2 ||| c.sync ||| hold))
    if cut > ta + x.cfg.ringSpan * 1000 * qNs then
      ({ x with early := inc32 x.early }.pend ta c.pos mcEarly, s)
    else if p < x.closedTo ∨ ta > cut then
      s.capLate { x with late := inc32 x.late } p es ta
    else
      match (x.slots.getD p {}).filed with
      | some old =>
        let x := { x with duplicate := inc32 x.duplicate }
        let same := old.map (fun e => (e.1, e.2 &&& 0xFF0)) == es.map (fun e => (e.1, e.2 &&& 0xFF0))
        if same then (x, s) else s.dupDiffer n x
      | none =>
        let margins := (ta, (cut : Int) - (ta : Int)) :: x.margins.filter (fun m => decide (m.1 + qSec > ta))
        ({ x with slots := x.slots.put p { filed := some es }, margins := margins }, s.fileRings x p es)

def State.fileAll (s : State) (n : Nat) (x : Stream) (ta : Nat) : List Carried → Stream × State
  | [] => (x, s)
  | c :: l =>
    let (x, s) := s.filePosition n x ta c
    s.fileAll n x ta l

/-- LEARNING ends: X is the 128th smallest of 256 measurements, rounded up to 1 ns (R105). -/
def Stream.learned (x : Stream) : Stream :=
  let m := sortBy (fun a b => decide (a ≤ b)) x.meas
  let v := m.getD 127 0
  let xn := -((-v).fdiv (qNs : Int))
  { x with x := some xn, d := some (xn + 2000 + (x.margin : Int)), meas := [], st := .running }

/-- What a frame that passed checks 1 to 6 does to the stream's state, and whether its samples are filed (R105). `m` is
t_a − T of its newest sample. -/
def State.passSix (s : State) (n : Nat) (x : Stream) (m : Int) : Bool × Stream × State :=
  match x.st with
  | .waiting =>
    if x.fixedDelay = 0 && x.d.isNone then (false, { x with st := .learning, meas := [m] }, s)
    else (true, { x with st := .running }, s)
  | .learning =>
    let x := { x with meas := m :: x.meas }
    if x.meas.length < 256 then (false, x, s)
    else
      let x := x.learned
      let xn := x.x.getD 0
      let dn := x.d.getD 0
      let s := s.post 0x0401 (le 2 n ++ leS 4 xn ++ leS 4 dn)
      (false, x, s.mirrorDelay n x.margin dn.toNat)
  | .running => (true, x, s)
  | _ => (false, x, s)

/-- A frame passed checks 1 to 5: it counts against loss, and ends LOST (R105). -/
def State.passFive (s : State) (n : Nat) (x : Stream) (ta : Nat) : Stream × State :=
  let x := { x with lastFrame := ta }
  if x.st = .lost then ({ x with st := .running }, s.post 0x0403 (le 2 n)) else (x, s)

/-! ### Sampled values -/

/-- The entries of an ASDU's data set. -/
def asduEntries (n : Nat) (d : Bytes) : List (Int × Nat) :=
  (List.range n).map (fun i => (toSigned 32 (be32 d (8 * i)), qualityBits (be32 d (8 * i + 4))))

/-- Check 3 on an SV or GOOSE frame (R101): no tag, or a wrong one, fails; so does a missing working key. -/
def tagPasses (auth : Nat) (key : Option Bytes) (u : IecPdu) : Bool :=
  auth == 0 || (match key, u.tag (tagBytes auth) with
    | some k, some (t, d) =>
      (if auth ≤ 2 then tagOf auth k [] d
       else if d.length < 12 then [] else tagOf auth k (d.drop (d.length - 12)) (d.take (d.length - 12))) == t
    | _, _ => false)

/-- Where an ASDU would be filed, for a pending cause (R99). -/
def Stream.named (x : Stream) (a : Asdu) (ta : Nat) : Option Int :=
  if a.cnt ≥ rateHz x.cfg.rate then none
  else if synchGrade a.synch = 0 then x.anchor.map (fun an => x.anchored an a.cnt)
  else some (x.resolve a.cnt ta)

def Stream.pendAll (x : Stream) (now : Nat) (ps : List (Option Int)) (cause : Nat) : Stream :=
  ps.foldl (fun x p => match p with
    | some n => x.pend now n cause
    | none => x) x

/-- Checks 5 and 6 on one ASDU: the frame's ASDUs that may be filed, counters and causes (R99, R106). -/
def Stream.asduChecks (x : Stream) (ta : Nat) : List Asdu → List Asdu × Bool × Stream
  | [] => ([], false, x)
  | a :: l =>
    if a.data.length ≠ 8 * x.cfg.nEntries ∨ a.cnt ≥ rateHz x.cfg.rate then
      ({ x with rejected := inc32 x.rejected }.pendAll ta [x.named a ta] mcRejected).asduChecks ta l
    else
      match syncOutcome x.cfg.syncReq (synchGrade a.synch) with
      | none =>
        let r := ({ x with unsync := inc32 x.unsync }.pendAll ta [x.named a ta] mcUnsync).asduChecks ta l
        (r.1, true, r.2.2)
      | some _ =>
        let r := x.asduChecks ta l
        (a :: r.1, true, r.2.2)

/-- An enabled SV stream's frame after check 2 (R99 to R107). The `Bool` says that it passed checks 1 to 4. -/
def State.svChecked (s : State) (n : Nat) (x : Stream) (u : IecPdu) (as_ : List Asdu) (ta : Nat) : Bool × State :=
  let names := as_.map (fun a => x.named a ta)
  if !tagPasses x.cfg.auth x.key u then
    (false, s.setStream n ({ x with authFail := inc32 x.authFail }.pendAll ta names mcRejected))
  else if as_.any (fun a => a.rev != x.cfg.confRev) then
    (false, s.setStream n ({ x with rejected := inc32 x.rejected }.pendAll ta names mcRejected))
  else
    let (good, five, x) := x.asduChecks ta as_
    if !five then (true, s.setStream n x)
    else
      let (x, s) := s.passFive n x ta
      match good.getLast? with
      | none => (true, s.setStream n x)
      | some last =>
        if !s.ptValid then (true, s.setStream n x)
        else
          let grade0 := good.filter (fun a => synchGrade a.synch == 0)
          let (x, s) := match grade0.getLast? with
            | some a => s.takeAnchor n x ta a.cnt a.synch
            | none => ({ x with lastSynch := last.synch }, s)
          let place (a : Asdu) : Int := match synchGrade a.synch, x.anchor with
            | 0, some an => x.anchored an a.cnt
            | _, _ => x.resolve a.cnt ta
          let m : Int := (ta : Int) - place last * (periodQ x.cfg.rate : Nat)
          let (files, x, s) := s.passSix n x m
          let cs := good.map (fun a => ({
            entries := asduEntries x.cfg.nEntries a.data, pos := place a,
            sync := (syncOutcome x.cfg.syncReq (synchGrade a.synch)).getD 0 } : Carried))
          let (x, s) := if files then s.fileAll n x ta cs else (x, s)
          (true, s.setStream n x)

/-! ### Travelling wave -/

/-- FIRST_TIME and FIRST_FRAC in 1/589824 ns. -/
def TwBlock.firstQ (b : TwBlock) : Nat := b.first * qNs + b.frac * 9

/-- A sample's value and SQW. -/
def TwBlock.entries (b : TwBlock) (i : Nat) : List (Int × Nat) :=
  (List.range b.nch).map (fun c =>
    (toSigned 16 (be16 b.samples (2 * (i * b.nch + c))),
     2 ^ 4 * boolNat (bit b.quality 0) + 2 ^ 5 * boolNat (bit b.quality 1) + 2 ^ 6 * boolNat (bit b.quality 2) +
       2 ^ 11 * boolNat (bit b.flags 1)))

/-- Position of a block's first sample when it is synchronised: its time to the nearest period. -/
def Stream.twFirst (x : Stream) (b : TwBlock) : Int :=
  let per := periodQ x.cfg.rate
  (((2 * b.firstQ + per) / (2 * per) : Nat) : Int)

/-- Check 5 on a block (R111). -/
def Stream.twLimits (x : Stream) (b : TwBlock) : Bool :=
  let per := periodQ x.cfg.rate
  decide (1 ≤ b.count) && decide (b.count ≤ 720) && decide (b.count * b.nch ≤ 720) &&
    (!bit b.flags 0 || decide (b.firstQ % per ≤ qNs) || decide (per - b.firstQ % per ≤ qNs))

/-- The positions a block names. -/
def Stream.twPlaces (x : Stream) (b : TwBlock) : List (Option Int) :=
  let per := periodQ x.cfg.rate
  let count := min b.count 720
  (List.range count).map (fun (i : Nat) =>
    if bit b.flags 0 then some (x.twFirst b + (i : Int))
    else x.anchor.map (fun a => x.anchored a (b.firstQ + i * per)))

/-- An enabled travelling-wave stream's block after check 2. -/
def State.twChecked (s : State) (n : Nat) (x : Stream) (b : TwBlock) (ta : Nat) : Bool × State :=
  let tagOk := x.cfg.auth = 0 || (match x.key, b.tag with
    | some k, some t => tagOf 4 k b.iv b.body == t
    | _, _ => false)
  let grade := if bit b.flags 0 then 2 else 0
  let per := periodQ x.cfg.rate
  if !tagOk then (false, s.setStream n ({ x with authFail := inc32 x.authFail }.pendAll ta (x.twPlaces b) mcRejected))
  else if !x.twLimits b then
    (true, s.setStream n ({ x with rejected := inc32 x.rejected }.pendAll ta (x.twPlaces b) mcRejected))
  else
    let (x, s) := s.passFive n x ta
    match syncOutcome x.cfg.syncReq grade with
    | none => (true, s.setStream n ({ x with unsync := inc32 x.unsync }.pendAll ta (x.twPlaces b) mcUnsync))
    | some sy =>
      if !s.ptValid then (true, s.setStream n x)
      else
        let lastT := b.firstQ + (b.count - 1) * per
        let (x, s) := if grade = 0 then s.takeAnchor n x ta lastT 0 else (x, s)
        let places := x.twPlaces b
        let lastP := (places.getLast?.join).getD 0
        let (files, x, s) := s.passSix n x ((ta : Int) - lastP * (per : Int))
        let cs := (List.range b.count).filterMap (fun i => (places.getD i none).map (fun p =>
          ({ entries := b.entries i, pos := p, sync := sy } : Carried)))
        let (x, s) := if files then s.fileAll n x ta cs else (x, s)
        (true, s.setStream n x)

/-! ### The frame (R98, R99) -/

/-- Does a block decode (check 2, R110, R111)? -/
def Stream.twDecodes (x : Stream) (b : TwBlock) : Bool :=
  b.version == 1 && decide (b.flags < 8) && decide (b.quality < 8) && b.nch == x.cfg.nEntries && b.rate == x.cfg.rate

/-- A matched frame through checks 1 to 7, `ta` in 1/589824 ns. The `Bool` says that it passed checks 1 to 4. -/
def State.ingestFrame (s : State) (n : Nat) (x : Stream) (e : Eth) (ta : Nat) : Bool × State :=
  if x.st = .disabled then (false, { s with ingest.disabledDrops := inc32 s.ingest.disabledDrops })
  else
    let x := { x with frames := inc32 x.frames }
    let reject : Bool × State := (false, s.setStream n { x with rejected := inc32 x.rejected })
    if x.cfg.fmt = 0 then
      match iecParse e.payload with
      | none => reject
      | some u =>
        match svParse u.apdu with
        | none => reject
        | some as_ =>
          if as_.length ≠ x.cfg.nAsdu ∨ (u.sim && !x.cfg.acceptSim) then reject else s.svChecked n x u as_ ta
    else
      match twParse e.payload with
      | none => reject
      | some b => if x.twDecodes b then s.twChecked n x b ta else reject

/-- An SV or travelling-wave frame as the ports offer it (R98, 16 R394, R415). -/
def State.svFrame (s : State) (port ta : Nat) (frame : Bytes) : State :=
  if !s.rxGood port frame || !s.isSwitchPort port then s
  else
    let r := s.redStrip port frame
    let e := ethParse r.frame
    if e.etype != etSv && e.etype != etTw then s
    else if s.consumerSeen r then (match r.ent with
      | some n => s.entCount n 1
      | none => s)
    else
      match s.findStream port e with
      | none => { s with ingest.unmatched := inc32 s.ingest.unmatched }
      | some n =>
        match s.stream n with
        | none => s
        | some x =>
          match s.ingestFrame n x e (9 * ta) with
          | (true, s) => s.consumerMark r
          | (false, s) => s

/-! ### Slots closing (R103, R104) -/

/-- Has the stream a channel with a ring? -/
def State.hasRing (s : State) (x : Stream) : Bool := x.cfg.channels.any (fun c => s.place.rings.has c)

/-- The cause with which an unfilled slot closes (R104, R105, R108). -/
def State.closeCause (s : State) (x : Stream) (pending : Nat) : Nat :=
  if !s.ptValid then mcNoTime
  else
    match x.st with
    | .disabled => mcDisabled
    | .learning => mcLearning
    | .waiting => mcNotReceived
    | _ => if pending = 0 then mcNotReceived else pending

/-- The first open position of a stream closes, if its cutoff has passed (R103, R104). -/
def State.closeSlot (s : State) (n : Nat) (x : Stream) : State :=
  let p := x.closedTo
  if x.cutoff p > s.now then s
  else
    let t := x.slots.getD p {}
    let x' := { x with closedTo := p + 1, slots := x.slots.del p }
    let wants := s.capWants x
    let keep (es : List (Int × Nat)) (y : Stream) : Stream :=
      if wants then { y with kept := y.kept.modD p {} (fun k => { k with held := some es }) } else y
    if t.filed.isSome then s.setStream n (keep (t.filed.getD []) x')
    else
      let counts := x.st != .disabled || s.hasRing x
      let x' := if counts then { x' with missing := inc32 x'.missing } else x'
      let q := 1 + 2 * s.closeCause x t.cause
      let es : List (Int × Nat) := x.cfg.channels.map (fun _ => (0, q))
      (s.setStream n (keep es x')).fileRings x p es

/-- LOSS_TIME of a stream in 1/589824 ns (R105). -/
def Stream.lossQ (x : Stream) : Nat :=
  if x.cfg.lossTime ≠ 0 then x.cfg.lossTime * 1000 * qNs
  else if x.cfg.fmt = 0 then max (1000000 * qNs) (4 * x.cfg.nAsdu * periodQ x.cfg.rate)
  else 1000000 * qNs

end Sys2Proof.Machine
end

