-- ==== Sys2Proof/Machine/CapOps.lean ====
section
/-! DEFINITION. The capture store at work: entries, triggers, windows and segments (10 R252 to R271). -/
namespace Sys2Proof.Machine

def RecSt.code : RecSt → Nat
  | .disabled => 0
  | .armed => 1
  | .post => 2
  | .stopped => 3
  | .full => 4

/-! ### Blocks (R252) -/

/-- Internal address of the capture store. -/
def capBase : Nat := 0x0200000000

/-- Blocks of `n` bytes. -/
def blocksOf (n : Nat) : Nat := ceilDiv n 4096

def Recorder.segBlocks (r : Recorder) : Nat := blocksOf r.segBytes
def Recorder.blocks (r : Recorder) : Nat := r.segs.length * r.segBlocks

/-- Runs of blocks in use: (first, number), rising. -/
def State.capRuns (s : State) : List (Nat × Nat) :=
  sortBy (fun a b => decide (a.1 ≤ b.1)) (s.cap.recs.map (fun e => (e.2.first, e.2.blocks)) ++
    s.cap.masks.map (fun e => (e.2.first, blocksOf (8 * e.2.m))))

/-- The lowest run of `n` free blocks from `cur` up. -/
def lowestRun (n : Nat) : Nat → List (Nat × Nat) → Option Nat
  | cur, [] => if cur + n ≤ 8192 then some cur else none
  | cur, (f, k) :: l => if cur + n ≤ f then some cur else lowestRun n (max cur (f + k)) l

def State.capFree (s : State) : Nat := 8192 - (s.capRuns.map (·.2)).foldl (· + ·) 0

/-- Bytes written into the store, through Anvil's ECC (11 R294). -/
def State.capWrite (s : State) (off : Nat) (p : Bytes) : State :=
  ({ s with cap.store := memWriteN s.cap.store off p }).wroteRange (capBase + off) p.length

/-- Bytes of the store for a capture read: a POISONED line reads as zeros and is counted (R270). -/
def State.capReadLines : Nat → State → Nat → Nat → Bytes × Nat × State
  | 0, s, _, _ => ([], 0, s)
  | fuel + 1, s, off, n =>
    if n = 0 then ([], 0, s)
    else
      let k := min n (32 - off % 32)
      let (bad, s) := s.readRange (32 * ((capBase + off) / 32)) 32
      let (rest, c, s) := State.capReadLines fuel s (off + k) (n - k)
      ((if bad then zeros k else memReadN s.cap.store off k) ++ rest, c + boolNat bad, s)

def State.capRead (s : State) (off n : Nat) : Bytes × Nat × State := s.capReadLines (n / 32 + 2) off n

/-! ### Sizes (R254, R255) -/

/-- Entry bytes of a lane (R253). -/
def laneBytes (fmt tap : Nat) : Nat := if tap = 1 then 20 else if fmt = 0 then 8 else 4
def Lane.bytes (l : Lane) : Nat := laneBytes l.fmt l.tap

def align32 (n : Nat) : Nat := (n + 31) / 32 * 32

/-- Offsets of lanes of the given sizes from `o` up, and the end of the last. -/
def laneOffsets : Nat → List Nat → List Nat × Nat
  | o, [] => ([], o)
  | o, n :: l =>
    let r := laneOffsets (align32 o + n) l
    (align32 o :: r.1, r.2)

/-- Sizes of a recorder's lanes, the signal lane last. -/
def laneSizes (lanes : List Lane) (nSig ticks : Nat) : List Nat :=
  lanes.map (fun l => l.cap * l.bytes) ++ (if nSig = 0 then [] else [ticks * 8 * nSig])

/-- Header and directory bytes. -/
def dirEnd (nLanes : Nat) : Nat := 256 + 32 * nLanes

def Recorder.nLanes (r : Recorder) : Nat := r.lanes.length + boolNat (!r.signals.isEmpty)
def Recorder.layout (r : Recorder) : List Nat × Nat :=
  laneOffsets (dirEnd r.nLanes) (laneSizes r.lanes r.signals.length (r.pre + r.post))

/-! ### Locks and choosing a segment (R267, R271) -/

/-- A segment is LOCKED while a read or its archive copy holds it. -/
def State.segLocked (s : State) (n i : Nat) : Bool :=
  s.cap.copies.contains (n, i) || s.cmd.accepted.any (fun a => a.wait == Wait.segment && !bit (byteAt a.cmd.params 2) 1 &&
    byteAt a.cmd.params 0 == n && byteAt a.cmd.params 1 == i)

/-- The segment to use next, and whether that overwrites it (R267). -/
def State.pickSeg (s : State) (n : Nat) (r : Recorder) : Option (Nat × Bool) :=
  let idx := List.range r.segs.length
  let seg (i : Nat) : Seg := r.segs.getD i {}
  match idx.find? (fun i => (seg i).st == .free) with
  | some i => some (i, false)
  | none =>
    if !r.overwrite then none
    else
      let c := idx.filter (fun i => (seg i).st == .complete && !(seg i).stop && !s.segLocked n i)
      ((sortBy (fun a b => decide ((seg a).seq ≤ (seg b).seq)) c).head?).map (fun i => (i, true))

/-! ### A run -/

/-- First position of a lane at or after an instant. -/
def Lane.firstAt (l : Lane) (q : Nat) : Nat := ceilDiv q (periodQ l.rate)

/-- A segment starts to record at A (R260). -/
def Recorder.begin (r : Recorder) (i a : Nat) : Run :=
  { seg := i, h := r.h, a := a, next := r.lanes.map (fun l => l.firstAt a), ents := r.lanes.map (fun _ => [])
    nextSig := tickAtOrAfter a, snapTo := tickAtOrAfter a }

/-- The recorder takes a segment: it is RECORDING. -/
def Recorder.take (r : Recorder) (i : Nat) (over_ : Bool) : Recorder :=
  { r with segs := setAt r.segs i { st := .recording } }.count 3 (boolNat over_)

/-- ARMED with A at the first tick boundary at or after now; FULL where no segment is available (R260, R267). -/
def State.armRec (s : State) (n : Nat) (r : Recorder) : State :=
  match s.pickSeg n r with
  | some (i, over_) =>
    let r := r.take i over_
    s.setRec n { r with st := .armed, run := some (r.begin i (boundaryQ (tickAtOrAfter s.now))) }
  | none => ({ s with cap.recs := s.cap.recs.put n { r with st := .full, run := none } }).post 0x0702 (le 1 n)

/-- A recorder that is FULL goes on once a segment is FREE, or under OVERWRITE free to be reused (R260, R267). -/
def State.capAvail (s : State) (n : Nat) : State :=
  match s.recd n with
  | some r => if r.st = .full && (s.pickSeg n r).isSome then s.armRec n r else s
  | none => s

/-! ### Entries (R253, R256 to R258) -/

/-- What a lane writes at a position: value, capture quality, bytes; whether a late sample filled it, whether its slot was
not closed. -/
structure Written where
  value : Int
  q     : Nat
  bytes : Bytes
  late  : Bool := false
  open_ : Bool := false

/-- A RAW entry. -/
def rawEntry (fmt : Nat) (v : Int) (q : Nat) (late open_ : Bool) : Written :=
  { value := v, q := q, bytes := if fmt = 0 then leS 4 v ++ le 4 q else leS 2 v ++ le 2 q, late := late, open_ := open_ }

/-- The entry of a RAW lane for position `p`, written at T + H = `due`. -/
def State.rawAt (s : State) (l : Lane) (p due : Nat) : Written :=
  match s.ingest.chanOf.get l.chan with
  | none => rawEntry l.fmt 0 3 false true
  | some (n, i) =>
    match (s.stream n).bind (fun x => x.kept.get p) with
    | none => rawEntry l.fmt 0 3 false true
    | some k =>
      match k.held with
      | none => rawEntry l.fmt 0 3 false true
      | some es =>
        let e := es.getD i (0, 3)
        let late := match k.late with
          | some (ls, ta) => if bit e.2 0 && decide (ta ≤ due) then some (ls.getD i (0, 0)) else none
          | none => none
        match late with
        | some (v, q) => rawEntry l.fmt v (q % 2 ^ 15 / 16 * 16 + 2 ^ 15) true false
        | none => rawEntry l.fmt e.1 (e.2 % 2 ^ 15) false false

/-- The decimation of a lane at a position, and its N_REF (R264, R269). -/
def State.laneR (s : State) (l : Lane) (p : Nat) : Nat × Nat :=
  if l.tap = 0 then (1, 0)
  else
    match s.filter.chains.get l.chan with
    | none => (1, 0)
    | some k =>
      let w := k.settingAt p
      (((s.bank w.bank).getD (romBank 0)).decim, w.nRef)

/-- The entry of a FILTERED lane: none off the output grid; an output the chain never gave is MISSING, NOT_RECEIVED. -/
def State.filtAt (s : State) (l : Lane) (p : Nat) : Option Written :=
  let out := match s.filter.chains.get l.chan with
    | some k => k.outs.find? (fun (r : OutRec) => r.pos == p)
    | none => none
  match out with
  | some r => some { value := r.value, q := r.sqw, bytes := r.bytes }
  | none =>
    let (d, ref) := s.laneR l p
    if onGrid p ref d then some { value := 0, q := 3, bytes := recMissing } else none

/-! ### Conditions (R262, R264) -/

/-- The point of a mask an entry is compared with, and whether it violates it. -/
def State.maskBroken (s : State) (l : Lane) (c : Cond) (p : Nat) (w : Written) : Bool :=
  match s.cap.masks.get c.mask with
  | none => false
  | some m =>
    let nref : Int := (ceilDiv (c.ref * qNs) (periodQ l.rate) : Nat)
    let i := ((((p : Nat) : Int) - nref).fdiv ((max (s.laneR l p).1 1 : Nat) : Int)).emod ((max m.m 1 : Nat) : Int)
    match m.points.get i.toNat with
    | some (lo, hi) => !bit w.q 0 && (decide (w.value < lo) || decide (w.value > hi))
    | none => false

/-- A condition on a channel entry: the event, and what it remembers. -/
def State.chanCond (s : State) (l : Lane) (c : Cond) (m : CondMem) (p : Nat) (w : Written) : Bool × CondMem :=
  let missing := bit w.q 0
  if c.type = 3 then
    let t := s.maskBroken l c p w
    (t && !m.truth, { m with truth := t })
  else if c.mode = 3 then
    let named := ofSigned 32 c.level % 2 ^ 16
    let was := (m.prev.map (·.1)).getD 0
    let now := w.q % 2 ^ 16
    ((bitList 16 named).any (fun i => bit now i && !bit was i), { m with prev := some (now, 0) })
  else
    let t := !missing && (match c.mode with
      | 0 => decide (w.value > c.level)
      | 1 => decide (w.value < c.level)
      | _ => decide ((w.value.natAbs : Int) > c.level))
    (t && !m.truth, { m with truth := t })

/-- A condition on a signal (value, status). -/
def sigCond (c : Cond) (m : CondMem) (v st : Nat) : Bool × CondMem :=
  let was := m.prev
  let m' : CondMem := { m with prev := some (v, st) }
  match c.mode with
  | 0 => ((match was with
      | some (w, _) => w == 0 && v != 0
      | none => false), m')
  | 1 => ((match was with
      | some (w, _) => w != 0 && v == 0
      | none => false), m')
  | 4 => ((match was with
      | some (_, w) => bit w 0 && !bit st 0
      | none => false), m')
  | k =>
    let t := if k = 2 then decide (toSigned 32 v > c.level) else decide (toSigned 32 v < c.level)
    (t && !m.truth, { m' with truth := t })

/-! ### Events (R263, R265) -/

/-- An event at T_trig `t` raised by `src`, STOP-set if `stop`. -/
def State.capEvent (s : State) (r : Recorder) (u : Run) (t src : Nat) (stop : Bool) : Recorder × Run :=
  let heldN := decide (r.holdN > 0)
  let held := (r.holdMode == 1 && decide (t < r.holdTo)) || (r.holdMode == 2 && heldN)
  let r' := if heldN then { r with holdN := r.holdN - 1 } else r
  match u.trig with
  | some g => (r'.count 1 1, { u with trig := some { g with extra := inc32 g.extra }, stopPending := u.stopPending || stop })
  | none =>
    if held && !stop && !bit src 8 then
      ({ r' with heldOff := inc32 r'.heldOff }.count 2 1, u)
    else
      let b := tickAtOrBefore t
      let tb0 : Int := (9 * vis s.horizon.tb0.value : Nat) - ((s.now : Int) - (t : Int))
      let g : Trig := { seq := r.seq, t := t, sources := src, start := max (boundaryQ (b - r.pre)) u.a
                        stop := boundaryQ (b + r.post), follow1 := s.horizon.follow1
                        tb0 := if s.horizon.tb0.valid then some tb0.toNat else none, heldOff := r.heldOff }
      let r := { r' with seq := r.seq + 1, heldOff := 0, st := if r.st = RecSt.armed then RecSt.post else r.st
                         segs := modAt r.segs u.seg (fun x => { x with seq := r.seq })
                         holdTo := t + r.holdoff * 1000 * qNs, holdN := if r.holdMode = 2 then r.holdoff else 0 }
      (r.count 0 1, { u with trig := some g, stopPending := u.stopPending || stop })

/-! ### One instant of a run (R256, R263) -/

/-- The next instant at which a run has something to do. -/
def Run.nextT (r : Recorder) (u : Run) : Option Nat :=
  let lanes := (List.range r.lanes.length).filterMap (fun i =>
    match r.lanes[i]?, u.next[i]? with
    | some l, some p => some (p * periodQ l.rate)
    | _, _ => none)
  let sig := if r.signals.isEmpty then [] else [boundaryQ u.nextSig]
  (lanes ++ sig ++ u.tpi.map (·.2) ++ u.forced).foldl (fun o t => minOpt o (some t)) none

/-- All that happens at sample time `t`: entries are written, conditions evaluated, their events taken as one. -/
def State.runAt (s : State) (r : Recorder) (u : Run) (t : Nat) : Recorder × Run :=
  let due := t + u.h
  let here : List (Nat × Lane × Nat × Option Written) := (List.range r.lanes.length).filterMap (fun i =>
    match r.lanes[i]?, u.next[i]? with
    | some l, some p =>
      if p * periodQ l.rate = t then some (i, l, p, if l.tap = 0 then some (s.rawAt l p due) else s.filtAt l p) else none
    | _, _ => none)
  let u1 := here.foldl (fun (u : Run) e =>
    let ents := match e.2.2.2 with
      | some w => modAt u.ents e.1 (fun l => ({ pos := e.2.2.1, bytes := w.bytes, q := w.q } : Ent) :: l)
      | none => u.ents
    { u with ents := ents, next := modAt u.next e.1 (· + 1) }) u
  let lateOf := (here.filter (fun e => (e.2.2.2.map (·.late)).getD false)).map (fun e =>
    ((s.ingest.chanOf.getD e.2.1.chan (0, 0)).1, e.2.2.1))
  let opened := (here.filter (fun e => (e.2.2.2.map (·.open_)).getD false)).length
  let r1 := (r.count 4 lateOf.eraseDups.length).count 5 opened
  let sigNow := !r.signals.isEmpty && decide (boundaryQ u.nextSig = t)
  let vals := (u.snaps.getD u.nextSig [])
  let u2 := if sigNow then
      { u1 with sigs := { pos := u.nextSig, bytes := vals.flatMap (fun v => le 4 v.1 ++ le 4 v.2), q := 0 } :: u1.sigs
                nextSig := u1.nextSig + 1, snaps := u1.snaps.del u.nextSig }
    else u1
  let step (c : Cond) (m : CondMem) : Bool × CondMem :=
    if c.type = 1 then
      match sigNow, r.signals.findIdx? (· == c.source) with
      | true, some k => sigCond c m (vals.getD k (0, 0)).1 (vals.getD k (0, 0)).2
      | _, _ => (false, m)
    else if c.type = 4 then (u.tpi.any (fun e => e.1 == c.source && e.2 == t), m)
    else
      match here.find? (fun e => e.1 == c.source) with
      | some (_, l, p, some w) => s.chanCond l c m p w
      | _ => (false, m)
  let res := (List.range 8).map (fun i => match r.conds.getD i none with
    | some c => step c (u.mems.getD i {})
    | none => (false, u.mems.getD i {}))
  let forced := u.forced.contains t
  let src := bitsNat (res.map (·.1)) + 256 * boolNat forced
  let stop := (List.range 8).any (fun i => (res.getD i (false, {})).1 && (match r.conds.getD i none with
    | some c => c.stop
    | none => false))
  let u3 := { u2 with mems := res.map (·.2), tpi := u2.tpi.filter (fun e => e.2 != t), forced := u2.forced.filter (· != t) }
  if src = 0 then (r1, u3) else s.capEvent r1 u3 t src stop

/-- A run goes on through sample time up to `lim`, or to its END, whichever is first; true at END. -/
def State.runTo (s : State) : Nat → Recorder → Run → Nat → Bool × Recorder × Run
  | 0, r, u, _ => (false, r, u)
  | fuel + 1, r, u, lim =>
    let stop := u.trig.map (·.stop)
    match u.nextT r with
    | none => (match stop with
        | some e => decide (e ≤ lim)
        | none => false, r, u)
    | some t =>
      match stop with
      | some e =>
        if e ≤ t then (decide (e ≤ lim), r, u)
        else if t ≤ lim then
          let (r, u) := s.runAt r u t
          State.runTo s fuel r u lim
        else (false, r, u)
      | none =>
        if t ≤ lim then
          let (r, u) := s.runAt r u t
          State.runTo s fuel r u lim
        else (false, r, u)

/-- How many instants a run can pass up to `lim`. -/
def Run.steps (r : Recorder) (u : Run) (lim : Nat) : Nat :=
  let lanes := (List.range r.lanes.length).map (fun i =>
    match r.lanes[i]?, u.next[i]? with
    | some l, some p => lim / periodQ l.rate + 1 - p
    | _, _ => 0)
  lanes.foldl (· + ·) 0 + (lim / qTick + 1 - u.nextSig) + u.tpi.length + u.forced.length + 1

/-! ### Segments (R268, R269) -/

/-- Whole ns and the 16-bit fraction of an instant (R266). -/
def nsField (q : Nat) : Bytes := le 8 (q / qNs)
def fracField (q : Nat) : Bytes := le 2 (q % qNs / 9)

/-- The entries of a lane in [START, END), oldest first. -/
def inWindow (per : Nat) (g : Trig) (es : List Ent) : List Ent :=
  (es.filter (fun e => decide (g.start ≤ e.pos * per) && decide (e.pos * per < g.stop))).reverse

/-- Directory entry of a channel lane. -/
def State.laneDir (s : State) (l : Lane) (off : Nat) (g : Trig) (es : List Ent) : Bytes :=
  let per := periodQ l.rate
  let p0 := ceilDiv g.start per
  let k := s.filter.chains.getD l.chan { bank := clearBank l.rate }
  let w := k.settingAt p0
  let tr := k.changedIn p0 (ceilDiv g.stop per)
  le 2 l.chan ++ le 1 (l.tap + 128 * boolNat tr) ++ le 1 l.rate ++ le 2 l.bytes ++ le 1 w.bank ++
    le 1 (if l.tap = 1 then ((s.bank w.bank).getD (romBank 0)).decim else 1) ++ le 4 off ++ le 4 es.length ++
    le 8 ((es.head?.map (·.pos)).getD p0) ++ leS 4 w.gain ++ leS 4 w.offset

/-- Directory entry of the signal lane. -/
def sigDir (r : Recorder) (off : Nat) (g : Trig) (es : List Ent) : Bytes :=
  le 2 0xFFFF ++ le 1 2 ++ le 1 0xFF ++ le 2 (8 * r.signals.length) ++ le 1 0 ++ le 1 1 ++ le 4 off ++ le 4 es.length ++
    le 8 ((es.head?.map (·.pos)).getD (tickAtOrAfter g.start)) ++ zeros 8

/-- The header, CRC still 0 (R268). -/
def State.segHeader (s : State) (n : Nat) (r : Recorder) (u : Run) (g : Trig) (hold : Bool) : Bytes :=
  let b := tickAtOrBefore g.t
  let flags := bitsNat [u.stopPending, decide (tickAtOrAfter g.start + r.pre > b), u.trunc, hold,
    g.follow1, g.tb0.isSome, bit g.sources 8]
  le 1 1 ++ le 1 n ++ le 2 flags ++ le 4 g.seq ++ nsField g.t ++ fracField g.t ++ le 2 g.sources ++ le 4 g.extra ++
    nsField g.start ++ nsField g.stop ++ le 8 b ++ le 4 (b - tickAtOrAfter g.start) ++ le 4 r.post ++
    (match g.tb0 with
      | some t => nsField t ++ fracField t
      | none => zeros 10) ++
    le 2 r.nLanes ++ le 4 r.segBytes ++ le 4 g.heldOff ++ le 4 (ceilDiv u.h qNs) ++ le 8 Config.serial.toNat ++
    le 1 ((s.stratus.cfg.map (·.node)).getD 0xFF) ++ zeros 163 ++ zeros 4

/-- Bytes that a segment leaves open: free values (log entry 5). -/
def State.freeBytes (s : State) (n : Nat) : Bytes × State :=
  ((List.range n).map (fun i => BitVec.ofNat 8 (Config.freeNat (s.free + i)).toNat), { s with free := s.free + n })

/-- The whole segment is in the store, its CRC still 0: header, directory, lanes; what no entry fills is left open. -/
def State.writeSegment (s : State) (n : Nat) (r : Recorder) (u : Run) (g : Trig) : State :=
  let offs := r.layout.1
  let lanes : List (Lane × Nat × List Ent) := (List.range r.lanes.length).filterMap (fun i =>
    (r.lanes[i]?).map (fun l => (l, offs.getD i 0, (inWindow (periodQ l.rate) g (u.ents.getD i [])).take l.cap)))
  let sigs := inWindow qTick g u.sigs
  let sigOff := offs.getD r.lanes.length 0
  let hold := lanes.any (fun e => e.2.2.any (fun x => bit x.q 14))
  let head := s.segHeader n r u g hold ++ lanes.flatMap (fun e => s.laneDir e.1 e.2.1 g e.2.2) ++
    (if r.signals.isEmpty then [] else sigDir r sigOff g sigs)
  let base := (r.first + u.seg * r.segBlocks) * 4096
  let (junk, s) := s.freeBytes r.segBytes
  let m := memWriteN [] 0 junk
  let m := memWriteN m 0 head
  let m := lanes.foldl (fun m e => memWriteN m e.2.1 (e.2.2.flatMap (·.bytes))) m
  let m := if r.signals.isEmpty then m else memWriteN m sigOff (sigs.flatMap (·.bytes))
  s.capWrite base (memReadN m 0 r.segBytes)

/-- END is reached (R260): the segment closes, and the recorder re-arms, stops or goes FULL. -/
def State.endRun (s : State) (n : Nat) (r : Recorder) (u : Run) (live : Bool) : State :=
  match u.trig with
  | none => s.setRec n r
  | some g =>
    let r := { r with segs := modAt r.segs u.seg (fun x => { x with st := .closing, stop := u.stopPending }) }
    let s := (s.setRec n r).writeSegment n r u g
    let s := { s with cap.closing := s.cap.closing ++ [(n, u.seg)] }
    if !live then s.setRec n { r with drains := r.drains.filter (· != u) }
    else if u.stopPending then (s.setRec n { r with st := .stopped, run := none }).post 0x0701 (le 1 n ++ le 4 g.seq)
    else
      match s.pickSeg n r with
      | none => (s.setRec n { r with st := .full, run := none }).post 0x0702 (le 1 n)
      | some (i, over_) =>
        let r := r.take i over_
        let a := max g.stop u.a
        let v := { u with seg := i, a := a, trig := none, stopPending := false,
                          ents := u.ents.map (fun _ => []), sigs := [] }
        s.setRec n { r with st := .armed, run := some v }

/-- A run passes as many segments as its horizon allows. -/
def State.passRun : Nat → State → Nat → State
  | 0, s, _ => s
  | fuel + 1, s, n =>
    match s.recd n with
    | none => s
    | some r =>
      match r.run with
      | none => s
      | some u =>
        if s.now < u.h then s
        else
          let lim := s.now - u.h
          match s.runTo (u.steps r lim + 1) r u lim with
          | (false, r, u) =>
            let lo := tickAtOrBefore lim - r.pre
            let u := if u.trig.isSome then u
              else { u with ents := (List.range u.ents.length).map (fun i => (u.ents.getD i []).filter (fun e =>
                              decide (boundaryQ lo ≤ e.pos * periodQ ((r.lanes.map (·.rate)).getD i 0)))),
                            sigs := u.sigs.filter (fun e => decide (lo ≤ e.pos)) }
            s.setRec n { r with run := some u }
          | (true, r, u) => State.passRun fuel (s.endRun n r u true) n

/-- A truncated segment of a disabled recorder goes on to its END. -/
def State.passDrain (s : State) (n : Nat) (u : Run) : State :=
  match s.recd n with
  | none => s
  | some r =>
    if s.now < u.h then s
    else
      let lim := s.now - u.h
      match s.runTo (u.steps r lim + 1) r u lim with
      | (false, r, v) => s.setRec n { r with drains := r.drains.map (fun w => if w == u then v else w) }
      | (true, r, v) => s.endRun n { r with drains := r.drains.map (fun w => if w == u then v else w) } v false

/-- The signal lane takes the values that an image latched at each new boundary sees (R256). -/
def State.snapRun (s : State) (r : Recorder) (u : Run) : Run :=
  if r.signals.isEmpty then u
  else
    let upTo := tickAtOrBefore s.now + 1
    let ticks := (List.range (upTo - u.snapTo)).map (u.snapTo + ·)
    { u with snapTo := max u.snapTo upTo
             snaps := u.snaps ++ ticks.map (fun b => (b, r.signals.map (fun g => s.sigRecord g (boundaryQ b)))) }

/-- Closed positions that no recorder needs any longer are forgotten. -/
def State.pruneKept (s : State) : State :=
  { s with ingest.streams := s.ingest.streams.mapV (fun _ x =>
      if x.kept.isEmpty then x
      else
        let lows := s.cap.recs.flatMap (fun e => e.2.runs.flatMap (fun u =>
          (List.range e.2.lanes.length).filterMap (fun i => match e.2.lanes[i]?, u.next[i]? with
            | some l, some p => if l.tap == 0 && x.cfg.channels.contains l.chan then some p else none
            | _, _ => none)))
        match lows.foldl (fun o p => minOpt o (some p)) none with
        | none => { x with kept := [] }
        | some lo => { x with kept := x.kept.filter (fun k => decide (lo ≤ k.1)) }) }

/-- The horizon of a recorder passes (R256): snapshots, then everything whose sample time is H behind. -/
def State.capHorizon (s : State) (n : Nat) : State :=
  match s.recd n with
  | none => s
  | some r =>
    let r := { r with run := r.run.map (s.snapRun r), drains := r.drains.map (s.snapRun r) }
    let s := s.setRec n r
    let s := r.drains.foldl (fun s u => s.passDrain n u) s
    let fuel := match r.run with
      | some u => tickAtOrBefore s.now - tickAtOrBefore u.a + 2
      | none => 0
    (s.passRun fuel n).pruneKept

/-- A segment past END gets its CRC (R261, R268): COMPLETE, its interrupt, and its copy to the archive if one is due. -/
def State.completeSegment (s : State) : State :=
  match s.cap.closing with
  | [] => s
  | (n, i) :: rest =>
    let s := { s with cap.closing := rest }
    match s.recd n with
    | none => s
    | some r =>
      let base := (r.first + i * r.segBlocks) * 4096
      let b := memReadN s.cap.store base r.segBytes
      let s := s.capWrite (base + 0xFC) (le 4 (crc32c b))
      let s := s.setRec n { r with segs := modAt r.segs i (fun x => { x with st := .complete }) }
      let s := if r.archive then { s with cap.copies := s.cap.copies ++ [(n, i)] } else s
      (s.raiseInt 134).capAvail n

/-- Bytes of the archive (R271): a ring of 7 680 MB. -/
def archiveBytes : Nat := 7680 * 2 ^ 20

/-- The oldest segments of the archive give way until the rest fits. -/
def trimArchive : List Archived → List Archived
  | [] => []
  | a :: l => if ((a :: l).map (fun x => x.bytes.length)).foldl (· + ·) 0 ≤ archiveBytes then a :: l else trimArchive l

/-- The oldest pending archive copy ends (R271). Archiving pauses under a power warning (15 R390). -/
def State.archiveOne (s : State) : State :=
  if s.power.supply != .running then s
  else
    match s.cap.copies with
    | [] => s
    | (n, i) :: rest =>
      let s := { s with cap.copies := rest }
      match s.recd n with
      | none => s
      | some r =>
        let (b, _, s) := s.capRead ((r.first + i * r.segBlocks) * 4096) r.segBytes
        let a : Archived := { cap := n, seq := (r.segs.getD i {}).seq, bytes := b }
        { s with cap.archive := trimArchive (s.cap.archive ++ [a]) }.capAvail n

/-- A TPI capture reaches the recorders with a condition on the pin (14 R371). -/
def State.capTpi (s : State) (pin t : Nat) : State :=
  { s with cap.recs := s.cap.recs.mapV (fun _ r =>
      let wants := r.conds.any (fun c => match c with
        | some c => c.type == 4 && c.source == pin
        | none => false)
      let add (u : Run) : Run := if decide (u.a ≤ t) then { u with tpi := u.tpi ++ [(pin, t)] } else u
      if wants then { r with run := r.run.map add, drains := r.drains.map add } else r) }

end Sys2Proof.Machine
end

