-- ==== Sys2Proof/Machine/Capture.lean ====
section
/-! DEFINITION. The capture family (10 R272), its events, and the edges of the capture inputs (14 R370 to R372). -/
namespace Sys2Proof.Machine

def recOwner (s : State) (p : Bytes) : Option Nat := (s.recd (byteAt p 0)).map (·.owner)
def recRange (p : Bytes) : Nat × Bool := (0, decide (byteAt p 0 ≤ 63))

/-! ### Recorders -/

/-- Offset of the signal list of a DEFINE_RECORDER. -/
def defSigOff (p : Bytes) : Nat := 0x18 + 4 * byteAt p 2

/-- The first lane out of range or repeated, and the first repeated signal. -/
def badLane (p : Bytes) : List Nat → List (Nat × Nat) → Option Nat
  | [], _ => none
  | i :: l, seen =>
    let o := 0x18 + 4 * i
    let e := (u16 p o, byteAt p (o + 2))
    if e.1 > 16383 then some o else if e.2 > 1 then some (o + 2) else if seen.contains e then some o else badLane p l (e :: seen)

def badRecSig (p : Bytes) : List Nat → List Nat → Option Nat
  | [], _ => none
  | i :: l, seen =>
    let o := defSigOff p + 2 * i
    if seen.contains (u16 p o) then some o else badRecSig p l (u16 p o :: seen)

/-- The lane of a DEFINE_RECORDER entry: its capacity is ⌈W × f⌉ (R254). -/
def State.laneOf (s : State) (ticks ch tap : Nat) : Lane :=
  let x := (s.chanStream ch).map (·.2)
  let rate := (x.map (fun y => y.cfg.rate)).getD 0
  let r := if tap = 1 then max ((match s.filter.chains.get ch with
    | some k => (s.bank k.bank).getD (romBank 0)
    | none => romBank 0).decim) 1 else 1
  { chan := ch, tap := tap, fmt := (x.map (fun y => y.cfg.fmt)).getD 0, rate := rate
    cap := ceilDiv (ticks * rateHz rate) (96000 * r) }

/-- Write rate of a lane in bytes/s, rounded up (R255). -/
def State.laneRate (s : State) (l : Lane) : Nat :=
  let r := match s.filter.chains.get l.chan with
    | some k => max ((s.bank k.bank).getD (romBank 0)).decim 1
    | none => 1
  ceilDiv (l.bytes * rateHz l.rate) (if l.tap = 1 then r else 1)

def State.capRate (s : State) : Nat := (s.cap.recs.map (·.2.rate)).foldl (· + ·) 0

/-- DEFINE_RECORDER (0x0701). -/
def cardDefineRecorder : Card where
  opcode := 0x0701
  level := .o
  len := .form 6 198 (fun p => 6 + byteAt p 2 + ceilDiv (u16 p 0x14) 2)
  most _ _ := 3
  owner := recOwner
  reserved p :=
    minOpt (reservedBits p [(0x0F, 0xFE)]) (firstNonzero p ([(0x16, 2)] ++
      (List.range (byteAt p 2)).map (fun i => (0x18 + 4 * i + 3, 1)) ++
      [(defSigOff p + 2 * u16 p 0x14, 2 * (u16 p 0x14 % 2))]))
  params _ c :=
    let p := c.params
    orElseOpt (firstBad [recRange p, (1, byteAt p 1 != 0), (2, decide (byteAt p 2 ≤ 64)), (3, decide (byteAt p 3 ≤ 1)),
      (4, decide (u32 p 4 ≤ 960000)), (8, decide (1 ≤ u32 p 8) && decide (u32 p 8 + u32 p 4 ≤ 960000)),
      (0x0C, decide (u16 p 0x0C ≤ 1000)), (0x0E, decide (byteAt p 0x0E ≤ 2)),
      (0x10, match byteAt p 0x0E with
        | 0 => u32 p 0x10 == 0
        | 1 => decide (1 ≤ u32 p 0x10) && decide (u32 p 0x10 ≤ 60000000)
        | _ => decide (1 ≤ u32 p 0x10) && decide (u32 p 0x10 ≤ 65535)),
      (0x14, decide (u16 p 0x14 ≤ 256) && decide (byteAt p 2 + u16 p 0x14 ≠ 0))])
      (orElseOpt (badLane p (List.range (byteAt p 2)) []) (badRecSig p (List.range (u16 p 0x14)) []))
  run s c :=
    let p := c.params
    let n := byteAt p 0
    let ticks := u32 p 4 + u32 p 8
    let chans := (List.range (byteAt p 2)).map (fun i => (u16 p (0x18 + 4 * i), byteAt p (0x18 + 4 * i + 2)))
    let sigs := (List.range (u16 p 0x14)).map (fun i => u16 p (defSigOff p + 2 * i))
    let lanes := chans.map (fun e => s.laneOf ticks e.1 e.2)
    let rate := (lanes.map s.laneRate).foldl (· + ·) 0 + (if sigs.isEmpty then 0 else 8 * sigs.length * 96000)
    let size := (laneOffsets (dirEnd (lanes.length + boolNat (!sigs.isEmpty))) (laneSizes lanes sigs.length ticks)).2
    if (s.recd n).isSome then .wrong 1
    else if chans.any (fun e => !s.ingest.chanOf.has e.1) then .wrong 2
    else
      match lowestRun (byteAt p 1 * blocksOf size) 0 s.capRuns with
      | none => .noRes 1
      | some first =>
        if s.capRate + rate > 2400000000 then .noRes 2
        else
          let r : Recorder :=
            { owner := c.inst, overwrite := byteAt p 3 == 1, pre := u32 p 4, post := u32 p 8, grace := u16 p 0x0C
              holdMode := byteAt p 0x0E, holdoff := u32 p 0x10, archive := bit (byteAt p 0x0F) 0, lanes := lanes
              signals := sigs, first := first, segBytes := size, rate := rate, segs := List.replicate (byteAt p 1) {} }
          .ok (s.setRec n r) (le 4 size ++ le 4 (rate / 1000))

def execDefineRecorder (dt : Nat) (c : Cmd) (s : State) : Host.Outcome State Fault Refusal := runCard cardDefineRecorder dt c s

def State.anyLocked (s : State) (n : Nat) (r : Recorder) : Bool :=
  (List.range r.segs.length).any (fun i => (r.segs.getD i {}).st == .complete && s.segLocked n i)

/-- REMOVE_RECORDER (0x0702). -/
def cardRemoveRecorder : Card where
  opcode := 0x0702
  level := .o
  len := .exact 1
  owner := recOwner
  reserved p := firstNonzero p [(1, 3)]
  params _ c := firstBad [recRange c.params]
  run s c :=
    let n := byteAt c.params 0
    match s.recd n with
    | none => .wrong 1
    | some r =>
      if !(r.st == .disabled || r.st == .stopped) then .wrong 3
      else if s.anyLocked n r then .wrong 4
      else .ok { s with cap.recs := s.cap.recs.del n, cap.closing := s.cap.closing.filter (fun e => e.1 != n) } []

def execRemoveRecorder (dt : Nat) (c : Cmd) (s : State) : Host.Outcome State Fault Refusal := runCard cardRemoveRecorder dt c s

/-! ### Triggers and masks -/

/-- Highest MODE of a condition TYPE (R262). -/
def condModes (t : Nat) : Nat := if t = 1 then 4 else if t = 2 then 3 else 0

def State.maskLoaded (s : State) (m : Nat) : Bool := (s.cap.masks.get m).any (fun x => x.points.length == x.m)

/-- SET_TRIGGER (0x0703). -/
def cardSetTrigger : Card where
  opcode := 0x0703
  level := .o
  len := .exact 5
  owner := recOwner
  reserved p := reservedBits p [(6, 0xFE)]
  params _ c :=
    let p := c.params
    let t := byteAt p 2
    let m := byteAt p 3
    firstBad [recRange p, (1, decide (byteAt p 1 ≤ 7)), (2, decide (t ≤ 4)), (3, t == 0 || decide (m ≤ condModes t)),
      (4, t != 4 || decide (u16 p 4 ≤ 7)), (7, if t = 3 then decide (byteAt p 7 ≤ 63) else byteAt p 7 == 0),
      (8, t == 2 || (t == 1 && (m == 2 || m == 3)) || u32 p 8 == 0), (0x0C, t == 3 || u64 p 0x0C == 0)]
  run s c :=
    let p := c.params
    let n := byteAt p 0
    let t := byteAt p 2
    match s.recd n with
    | none => .wrong 1
    | some r =>
      if !(r.st == .disabled || r.st == .stopped) then .wrong 3
      else if t == 3 && !s.maskLoaded (byteAt p 7) then .wrong 5
      else if (t == 1 && !r.signals.contains (u16 p 4)) || ((t == 2 || t == 3) && decide (r.lanes.length ≤ u16 p 4)) then .wrong 6
      else
        let k : Cond := { type := t, mode := byteAt p 3, source := u16 p 4, stop := bit (byteAt p 6) 0, mask := byteAt p 7
                          level := s32 p 8, ref := u64 p 0x0C }
        .ok (s.setRec n { r with conds := setAt r.conds (byteAt p 1) (if t = 0 then none else some k) }) []

def execSetTrigger (dt : Nat) (c : Cmd) (s : State) : Host.Outcome State Fault Refusal := runCard cardSetTrigger dt c s

/-- Is a mask named by a condition of a recorder that is armed? -/
def State.maskInUse (s : State) (m : Nat) : Bool :=
  s.cap.recs.any (fun e => !(e.2.st == .disabled || e.2.st == .stopped) && e.2.conds.any (fun c => match c with
    | some c => c.type == 3 && c.mask == m
    | none => false))

def maskPoints (p : Bytes) : List (Nat × Int × Int) :=
  (List.range (u16 p 6)).map (fun i => (u16 p 4 + i, s32 p (8 + 8 * i), s32 p (12 + 8 * i)))

/-- LOAD_MASK (0x0704). -/
def cardLoadMask : Card where
  opcode := 0x0704
  level := .o
  len := .form 2 1002 (fun p => 2 + 2 * u16 p 6)
  owner s p := (s.cap.masks.get (byteAt p 0)).map (·.owner)
  reserved p := firstNonzero p [(1, 1)]
  params s c :=
    let p := c.params
    let m := u16 p 2
    orElseOpt (firstBad [(0, decide (byteAt p 0 ≤ 63)),
      (2, decide (m ≤ 4096) && (m == 0 || (match s.cap.masks.get (byteAt p 0) with
        | some x => x.m == m
        | none => true))),
      (4, m == 0 || decide (u16 p 4 + u16 p 6 ≤ m)),
      (6, if m = 0 then u16 p 6 == 0 else decide (1 ≤ u16 p 6) && decide (u16 p 6 ≤ 500))])
      (((List.range (u16 p 6)).find? (fun i => decide (s32 p (8 + 8 * i) > s32 p (12 + 8 * i)))).map (fun i => 8 + 8 * i))
  run s c :=
    let p := c.params
    let n := byteAt p 0
    if s.maskInUse n then .wrong 5
    else if u16 p 2 = 0 then
      (if s.cap.masks.has n then .ok { s with cap.masks := s.cap.masks.del n } [] else .wrong 5)
    else
      let fill (x : Mask) : CardOut :=
        let x := { x with points := (maskPoints p).foldl (fun (t : Tab (Int × Int)) e => t.put e.1 e.2) x.points }
        .ok ({ s with cap.masks := s.cap.masks.put n x }.capWrite (x.first * 4096 + 8 * u16 p 4) (slice p 8 (8 * u16 p 6))) []
      match s.cap.masks.get n with
      | some x => fill x
      | none =>
        match lowestRun (blocksOf (8 * u16 p 2)) 0 s.capRuns with
        | none => .noRes 1
        | some first => fill { owner := c.inst, m := u16 p 2, first := first }

def execLoadMask (dt : Nat) (c : Cmd) (s : State) : Host.Outcome State Fault Refusal := runCard cardLoadMask dt c s

/-! ### Arming and forcing -/

/-- H of a recorder armed now (R256). -/
def State.horizonOf (s : State) (r : Recorder) : Nat :=
  let ds := r.lanes.filterMap (fun l => (s.chanStream l.chan).map (fun e => e.2.delay))
  let d := ds.foldl (fun (a b : Int) => max a b) 0
  (ceilDiv (((r.grace * 1000 : Nat) + d).toNat * qNs) qTick + 1) * qTick

/-- ENABLE 0 (R260). -/
def State.disarmRec (s : State) (n : Nat) (r : Recorder) : State :=
  match r.st, r.run with
  | .armed, some u => s.setRec n { r with st := .disabled, run := none, segs := setAt r.segs u.seg {} }
  | .full, _ => s.setRec n { r with st := .disabled, run := none }
  | .post, some u =>
    let e := boundaryQ (tickAtOrBefore s.now + 1)
    let u := { u with trunc := true, trig := u.trig.map (fun g => { g with stop := min g.stop e }) }
    s.setRec n { r with st := .disabled, run := none, drains := r.drains ++ [u] }
  | _, _ => s

/-- ARM_RECORDER (0x0705). -/
def cardArmRecorder : Card where
  opcode := 0x0705
  level := .o
  len := .exact 1
  most _ _ := 3
  owner := recOwner
  reserved p := firstNonzero p [(2, 2)]
  params _ c := firstBad [recRange c.params, (1, decide (byteAt c.params 1 ≤ 1))]
  run s c :=
    let n := byteAt c.params 0
    let tickOf (t : State) : Bytes := le 8 (((t.recd n).bind (·.run)).elim (tickAtOrAfter s.now) (fun u => tickAtOrAfter u.a))
    match s.recd n with
    | none => .wrong 1
    | some r =>
      if byteAt c.params 1 = 0 then .ok (s.disarmRec n r) []
      else if r.st == .disabled || r.st == .stopped then
        if r.conds.any (fun k => match k with
          | some k => k.type == 3 && !s.maskLoaded k.mask
          | none => false) then .wrong 5
        else
          let t := s.armRec n { r with h := s.horizonOf r }
          .ok t (tickOf t)
      else .ok s (tickOf s)

def execArmRecorder (dt : Nat) (c : Cmd) (s : State) : Host.Outcome State Fault Refusal := runCard cardArmRecorder dt c s

/-- FORCE_TRIGGER (0x0706). With BROADCAST every worker gets the same command for itself, with the same TIME. -/
def cardForceTrigger : Card where
  opcode := 0x0706
  level := .o
  len := .exact 3
  most _ _ := 3
  owner := recOwner
  reserved p := minOpt (reservedBits p [(1, 0xFE)]) (firstNonzero p [(2, 2)])
  params s c :=
    firstBad [recRange c.params, (4, !bit (byteAt c.params 1) 0 || decide (u64 c.params 4 * qNs ≥ s.now + 2000000 * qNs))]
  run s c :=
    let p := c.params
    let n := byteAt p 0
    let t := if u64 p 4 = 0 then s.now else u64 p 4 * qNs
    match s.recd n with
    | none => .wrong 1
    | some r =>
      match r.run with
      | none => .wrong 3
      | some u =>
        if bit (byteAt p 1) 0 && s.boot.role != 1 then s.wrongRole
        else if t + u.h < s.now then .wrong 7
        else
          let s := s.setRec n { r with run := some { u with forced := u.forced ++ [t] } }
          let s := if bit (byteAt p 1) 0 then
              s.otherNodes.foldl (fun s node => (s.sendForward node c (le 1 n ++ zeros 3 ++ le 8 (u64 p 4))).2) s
            else s
          .ok s (le 8 (tickAtOrBefore t))

def execForceTrigger (dt : Nat) (c : Cmd) (s : State) : Host.Outcome State Fault Refusal := runCard cardForceTrigger dt c s

/-! ### Reading -/

/-- GET_RECORDER (0x0707). -/
def cardGetRecorder : Card where
  opcode := 0x0707
  level := .r
  changes := false
  len := .exact 1
  most _ _ := 9
  reserved p := minOpt (reservedBits p [(1, 0xFE)]) (firstNonzero p [(2, 2)])
  params _ c := firstBad [recRange c.params]
  run s c :=
    let n := byteAt c.params 0
    match s.recd n with
    | none => .wrong 1
    | some r =>
      let d := le 1 r.st.code ++ le 1 (r.segs.filter (fun x => x.st == .complete)).length ++ le 2 r.first ++
        le 4 (ceilDiv r.h qNs) ++ r.counters.flatMap (le 4)
      .ok (if bit (byteAt c.params 1) 0 then s.setRec n { r with counters := [0, 0, 0, 0, 0, 0] } else s) d

def execGetRecorder (dt : Nat) (c : Cmd) (s : State) : Host.Outcome State Fault Refusal := runCard cardGetRecorder dt c s

/-- STATE of a segment in LIST_SEGMENTS. -/
def State.segCode (s : State) (n i : Nat) (x : Seg) : Nat :=
  match x.st with
  | .free => 0
  | .recording => 1
  | .closing => 1
  | .complete => if s.segLocked n i then 3 else 2

/-- LIST_SEGMENTS (0x0708). -/
def cardListSegments : Card where
  opcode := 0x0708
  level := .r
  changes := false
  len := .exact 1
  most s c := match s.recd (byteAt c.params 0) with
    | some r => 2 + 2 * r.segs.length
    | none => 1
  reserved p := firstNonzero p [(1, 3)]
  params _ c := firstBad [recRange c.params]
  run s c :=
    let n := byteAt c.params 0
    match s.recd n with
    | none => .wrong 1
    | some r => .ok s (le 4 r.segs.length ++ (List.range r.segs.length).flatMap (fun i =>
        let x := r.segs.getD i {}
        le 1 (s.segCode n i x) ++ zeros 3 ++ le 4 x.seq))

def execListSegments (dt : Nat) (c : Cmd) (s : State) : Host.Outcome State Fault Refusal := runCard cardListSegments dt c s

/-- The archived segment a READ_SEGMENT names, the newest of that name (R271). -/
def State.archived (s : State) (n sq : Nat) : Option Archived := s.cap.archive.reverse.find? (fun a => a.cap == n && a.seq == sq)

/-- SEGMENT_BYTES of what a READ_SEGMENT names, where there is such a thing. -/
def State.readSize (s : State) (p : Bytes) : Option Nat :=
  if bit (byteAt p 2) 1 then (s.archived (byteAt p 0) (u32 p 0x14)).map (fun a => a.bytes.length)
  else (s.recd (byteAt p 0)).map (·.segBytes)

/-- The bytes a READ_SEGMENT reads, its CRC flag and its poisoned lines (R270). -/
def State.readSegment (s : State) (p : Bytes) : Bytes × Bytes × State :=
  let off := u32 p 4
  let len := u32 p 8
  let size := (s.readSize p).getD 0
  let (b, bad, s) :=
    if bit (byteAt p 2) 1 then
      (slice (((s.archived (byteAt p 0) (u32 p 0x14)).map (·.bytes)).getD []) off len, 0, s)
    else
      match s.recd (byteAt p 0) with
      | some r => s.capRead ((r.first + byteAt p 1 * r.segBlocks) * 4096 + off) len
      | none => (zeros len, 0, s)
  let whole := off == 0 && len == size
  let mismatch := whole && u32 b 0xFC != crc32c (b.take 0xFC ++ zeros 4 ++ b.drop 0x100)
  (b, le 4 (boolNat mismatch) ++ le 4 bad, s)

/-- READ_SEGMENT (0x0709). -/
def cardReadSegment : Card where
  opcode := 0x0709
  level := .o
  changes := false
  len := .exact 6
  most _ c := if bit (byteAt c.params 2) 0 then 3 + u32 c.params 8 / 4 else 3
  owner := recOwner
  reserved p := minOpt (reservedBits p [(2, 0xFC)]) (firstNonzero p [(3, 1)])
  params s c :=
    let p := c.params
    let inline := bit (byteAt p 2) 0
    let arch := bit (byteAt p 2) 1
    let size := s.readSize p
    firstBad [recRange p,
      (1, if arch then byteAt p 1 == 0 else match s.recd (byteAt p 0) with
        | some r => decide (byteAt p 1 < r.segs.length)
        | none => true),
      (4, u32 p 4 % 4 == 0 && (match size with
        | some n => decide (u32 p 4 < n)
        | none => true)),
      (8, u32 p 8 % 4 == 0 && (!inline || decide (u32 p 8 ≤ 4000)) && (match size with
        | some n => decide (u32 p 4 + u32 p 8 ≤ n)
        | none => true)),
      (0x0C, !inline || u64 p 0x0C == 0), (0x14, arch || u32 p 0x14 == 0)]
  run s c :=
    let p := c.params
    let arch := bit (byteAt p 2) 1
    if !arch && (s.recd (byteAt p 0)).isNone then .wrong 1
    else if (if arch then (s.archived (byteAt p 0) (u32 p 0x14)).isNone
             else match s.recd (byteAt p 0) with
               | some r => (r.segs.getD (byteAt p 1) {}).st != .complete
               | none => true) then .wrong 8
    else if bit (byteAt p 2) 0 then
      let (b, d, s) := s.readSegment p
      .ok s (d ++ b)
    else if c.chan ≥ 64 then .wrong 9
    else .accepted s .segment false none

def execReadSegment (dt : Nat) (c : Cmd) (s : State) : Host.Outcome State Fault Refusal := runCard cardReadSegment dt c s

/-- A DMA read ends (R270): the data are in host memory, or the buffer is not mapped; status, DETAIL, results. -/
def State.finishSegment (s : State) (c : Cmd) : Nat × Nat × Bytes × State :=
  let (b, d, s) := s.readSegment c.params
  match s.dmaWrite c.chan (u64 c.params 0x0C) b with
  | (true, s) => (stOk, 0, d, s)
  | (false, s) => (stWrongState, 0x000A, [], s)

/-- RELEASE_SEGMENT (0x070A). -/
def cardReleaseSegment : Card where
  opcode := 0x070A
  level := .o
  len := .exact 1
  owner := recOwner
  reserved p := firstNonzero p [(2, 2)]
  params s c :=
    firstBad [recRange c.params, (1, match s.recd (byteAt c.params 0) with
      | some r => decide (byteAt c.params 1 < r.segs.length)
      | none => true)]
  run s c :=
    let n := byteAt c.params 0
    let i := byteAt c.params 1
    match s.recd n with
    | none => .wrong 1
    | some r =>
      if (r.segs.getD i {}).st != .complete then .wrong 8
      else
        let s := s.setRec n { r with segs := setAt r.segs i {} }
        .ok ({ s with cap.copies := s.cap.copies.filter (fun e => e != (n, i)) }.capAvail n) []

def execReleaseSegment (dt : Nat) (c : Cmd) (s : State) : Host.Outcome State Fault Refusal := runCard cardReleaseSegment dt c s

/-- GET_CAPTURE_TOTALS (0x070B). -/
def cardGetCaptureTotals : Card where
  opcode := 0x070B
  level := .r
  changes := false
  len := .exact 0
  most _ _ := 4
  run s _ :=
    let used := (s.cap.archive.map (fun a => a.bytes.length)).foldl (· + ·) 0
    .ok s (le 2 s.capFree ++ le 1 s.cap.recs.length ++ zeros 1 ++ le 4 (s.capRate / 1000) ++ le 4 (ceilDiv used (2 ^ 20)))

def execGetCaptureTotals (dt : Nat) (c : Cmd) (s : State) : Host.Outcome State Fault Refusal := runCard cardGetCaptureTotals dt c s

/-! ### Events -/

/-- CAPTURE_HORIZON (R256): the horizon of recorder `cap` passes. -/
def execCaptureHorizon (dt cap : Nat) (s : State) : Host.Outcome State Fault Refusal := .next ((s.advance dt).capHorizon cap)

/-- SEGMENT_COMPLETE (R261): the oldest segment past END is finished. -/
def execSegmentComplete (dt : Nat) (s : State) : Host.Outcome State Fault Refusal := .next (s.advance dt).completeSegment

/-- ARCHIVE_COPY_COMPLETE (R271). -/
def execArchiveCopyComplete (dt : Nat) (s : State) : Host.Outcome State Fault Refusal := .next (s.advance dt).archiveOne

/-- MIN_WIDTH in ns (14 SET_CAPTURE_INPUT). -/
def minWidthNs (n : Nat) : Nat := [0, 20, 100, 1000].getD n 0

/-- TPI_EDGE (14 R370 to R372): an edge at `pt` in 2^-16 ns of protection time, after which the level held for `width` ns. -/
def State.tpiEdge (s : State) (pin : Nat) (rising : Bool) (pt width : Nat) : State :=
  let x := s.horizon.tpis.getD pin {}
  let x := { x with level := rising }
  let chosen := bit x.edges (if rising then 0 else 1)
  let put (y : Tpi) (s : State) : State := { s with horizon.tpis := s.horizon.tpis.put pin y }.setLine (832 + pin) rising
  if pin > 7 then s
  else if !chosen || width < minWidthNs x.minWidth then put x s
  else if (match x.lastEdge with
    | some t => decide (t ≤ pt) && decide (pt < t + 100 * 65536)
    | none => false) then put { x with tooFast := inc32 x.tooFast } s
  else
    let sq := (x.seq + 1) % 2 ^ 32
    let e : Capture := { pt := pt, rising := rising, valid := s.ptValid, hold := s.horizon.ptSt == .holdover, seq := sq
                         tb3 := visNs s.tb3 }
    let x := { x with lastEdge := some pt, seq := sq }
    let x := if x.queue.length ≥ 64 then { x with overflow := inc32 x.overflow } else { x with queue := x.queue ++ [e] }
    let s := put x s
    if s.ptValid then (s.tpiSync pin pt).capTpi pin (9 * pt) else s

def execTpiEdge (dt pin : Nat) (rising : Bool) (pt width : Nat) (s : State) : Host.Outcome State Fault Refusal :=
  .next ((s.advance dt).tpiEdge pin rising pt width)

end Sys2Proof.Machine
end

