-- ==== Sys2Proof/Machine/Clocks.lean ====
section
/-! DEFINITION. Family 0x0B, clocks and power (15 R392), and the events of the clock unit and the core rails. -/
namespace Sys2Proof.Machine

/-! ### Cards -/

/-- The source of `p` takes part anew or not at all after SET_CLOCK_SOURCES (R378). -/
def State.enableSource (s : State) (i : Nat) (on changed : Bool) : State :=
  let x := s.clk i
  if !on then s.setClk i { x with st := .disabled, deferred := false, level := 0, edgeAt := none }
  else if x.st = .disabled ∨ changed then s.setClk i { x with st := .absent, deferred := false, level := 0, edgeAt := none }
  else s

/-- SET_CLOCK_SOURCES (0x0B01). -/
def cardSetClockSources : Card where
  opcode := 0x0B01
  level := .m
  len := .exact 4
  reserved p := orElseOpt (reservedBits p [(0, 0xF0), (1, 0xFC)]) (firstNonzero p [(0xC, 4)])
  params _ c :=
    let p := c.params
    firstBad ([(2, decide (byteAt p 2 ≤ 127)), (3, decide (byteAt p 3 ≤ 127))] ++
      (List.range 4).map (fun i => (4 + i, byteAt p (4 + i) != 0)) ++
      [(8, decide (u16 p 8 ≤ 720)), (0xA, decide (1 ≤ u16 p 0xA) && decide (u16 p 0xA ≤ 600))])
  run s c :=
    let p := c.params
    let en := byteAt p 0
    if en = 0 then .wrong 1
    else if byteAt p 2 = byteAt p 3 then .wrong 2
    else
      let old := s.clocks
      let s := { s with clocks := { s.clocks with
        revertive := bit (byteAt p 1) 0, sync25 := bit (byteAt p 1) 1, rcv0 := byteAt p 2, rcv1 := byteAt p 3, restoreS := u16 p 8,
        retryS := u16 p 0xA } }
      let s := (List.range 4).foldl (fun s i => s.setClk i { s.clk i with prio := byteAt p (4 + i) }) s
      let moved (i : Nat) : Bool := (i == 2 && old.rcv0 != byteAt p 2) || (i == 3 && old.rcv1 != byteAt p 3)
      .ok ((List.range 4).foldl (fun s i => s.enableSource i (bit en i) (moved i)) s).reselect []

def execSetClockSources (dt : Nat) (c : Cmd) (s : State) : Host.Outcome State Fault Refusal := runCard cardSetClockSources dt c s

/-- LENGTH 1 with OPTIONS CLEAR alone. -/
def clearOnly (p : Bytes) : Option Nat := orElseOpt (reservedBits p [(0, 0xFE)]) (firstNonzero p [(1, 3)])

/-- GET_CLOCK_STATUS (0x0B02). -/
def cardGetClockStatus : Card where
  opcode := 0x0B02
  level := .r
  changes := false
  len := .exact 1
  most _ _ := 7
  reserved := clearOnly
  run s c :=
    let k := s.clocks
    let ms := if k.refSt = .holdover then ((tDiff s.tb3 k.holdAt).toNat / (1000000 * 2 ^ 40)) % 2 ^ 32 else 0
    let off := match k.selected with
      | some i => (s.clk i).offset
      | none => 0
    .ok (if bit (byteAt c.params 0) 0 then { s with clocks.switches := 0, clocks.iroFaults := 0 } else s)
      (le 1 k.refSt.code ++ le 1 (k.selected.getD 0xFF) ++ zeros 2 ++
        k.srcs.flatMap (fun x => le 1 (x.st.code + 8 * x.level + 32 * boolNat x.deferred)) ++ le 4 ms ++ leS 4 off ++
        le 4 k.switches ++ le 4 k.iroFaults)

def execGetClockStatus (dt : Nat) (c : Cmd) (s : State) : Host.Outcome State Fault Refusal := runCard cardGetClockStatus dt c s

/-- GET_PLL_STATUS (0x0B03). -/
def cardGetPllStatus : Card where
  opcode := 0x0B03
  level := .r
  changes := false
  len := .exact 1
  most _ _ := 5
  reserved := clearOnly
  run s c :=
    let k := s.clocks
    .ok (if bit (byteAt c.params 0) 0 then { s with clocks.quadLosses := 0, clocks.hznLosses := 0 } else s)
      (le 4 (bitsNat k.quadLock) ++ le 1 (bitsNat [s.horizon.pllLock, k.pcieLock]) ++ zeros 3 ++ le 4 k.quadLosses ++ le 4 k.hznLosses)

def execGetPllStatus (dt : Nat) (c : Cmd) (s : State) : Host.Outcome State Fault Refusal := runCard cardGetPllStatus dt c s

/-- SET_POWER (0x0B04). -/
def cardSetPower : Card where
  opcode := 0x0B04
  level := .m
  len := .exact 1
  params _ c := firstBad [(0, decide (2600 ≤ u16 c.params 0) && decide (u16 c.params 0 ≤ 15000)), (2, u16 c.params 2 == 0x5128)]
  run s c := if s.power.supply = .warning then .wrong 3 else .ok { s with power.vinWarn := u16 c.params 0 } []

def execSetPower (dt : Nat) (c : Cmd) (s : State) : Host.Outcome State Fault Refusal := runCard cardSetPower dt c s

/-- GET_POWER_STATUS (0x0B05). -/
def cardGetPowerStatus : Card where
  opcode := 0x0B05
  level := .r
  changes := false
  len := .exact 0
  most _ _ := 8
  run s _ :=
    let w := s.power
    .ok s (le 2 w.vinMv ++ le 2 w.vauxMv ++ w.coreMv.flatMap (le 2) ++ le 1 (if w.supply = .warning then 2 else 1) ++ zeros 1 ++
      le 2 w.vinWarn ++ w.temps.flatMap (leS 1) ++ zeros 2 ++ le 4 w.warnings)

def execGetPowerStatus (dt : Nat) (c : Cmd) (s : State) : Host.Outcome State Fault Refusal := runCard cardGetPowerStatus dt c s

/-! ### Events of the sources (R378 to R381) -/

/-- SOURCE_ACTIVITY: 16 edges in 1 µs. A port whose link is down provides no recovered clock (R376). -/
def execSourceActivity (dt src : Nat) (s : State) : Host.Outcome State Fault Refusal :=
  let s := s.advance dt
  let x := s.clk src
  if src ≥ 4 ∨ (src ≥ 2 ∧ !s.portUp (s.rcvPort src)) then .next s
  else
    match x.st with
    | .absent => .next (s.openWindow src)
    | .failed => .next (s.setClk src { x with edgeAt := some (x.edgeAt.getD s.tb3) })
    | _ => .next s

/-- QUALIFICATION_WINDOW_END with the offsets measured, in ppb: over the window and its second half against its reference, and over
its last 10 µs against IRO. -/
def execQualificationWindowEnd (dt src : Nat) (off half iro : Int) (s : State) : Host.Outcome State Fault Refusal :=
  let s := s.advance dt
  let x := s.clk src
  .next (if decide (src < 4) && x.st == .qualifying && s.tb3Passed x.winAt x.winUs then s.windowEnd src off half iro else s)

/-- SOURCE_LOSS_OF_ACTIVITY (R379). -/
def execSourceLossOfActivity (dt src : Nat) (s : State) : Host.Outcome State Fault Refusal :=
  let s := s.advance dt
  let x := s.clk src
  match x.st with
  | .qualifying => .next (s.srcFail src false)
  | .qualified => .next (s.srcFail src false).reselect
  | .failed => .next (s.setClk src { x with edgeAt := none })
  | _ => .next s

/-- A ratio trip of a source: its ratio to IRO changed by more than 200 ppm between two intervals, or the comparison of its window
left its tolerance (R379). -/
def ClkSource.trips (x : ClkSource) (ratio : Nat) (off : Int) : Bool :=
  let before := x.ratios.headD 0
  let far := ((ratio : Int) - before).natAbs
  (ratio != 0 && before != 0 && decide (far * 1000000 > 200 * before)) || (x.st == .qualifying && decide (off.natAbs > x.tol))

/-- RATIO_CHECK with the sources' ratios to IRO over the 100 µs interval that ends, in parts per 10^9 (0: no edges), and the present
offsets of their windows in ppb (R379). If every live source trips, IRO is at fault and no source trips. -/
def execRatioCheck (dt : Nat) (ratios : List Nat) (offs : List Int) (s : State) : Host.Outcome State Fault Refusal :=
  let s := s.advance dt
  let live := (List.range 4).filter (fun i => (s.clk i).st != .disabled && (s.clk i).st != .absent)
  let trip (i : Nat) : Bool := (s.clk i).trips (ratios.getD i 0) (offs.getD i 0)
  let tripped := live.filter trip
  let iro := live != [] && tripped == live
  let t :=
    if iro then ({ s with clocks.iroFault := true, clocks.iroGood := none, clocks.iroFaults := inc32 s.clocks.iroFaults }).post 0x0B03 []
    else
      (tripped.foldl (fun s i =>
        let x := s.clk i
        match x.st with
        | .qualifying => if x.deferred then s else (s.setClk i { x with deferred := true }).post 0x0B02 (le 1 i ++ le 1 0)
        | .qualified => s.srcFail i true
        | _ => s) s).reselect
  let t := (List.range 4).foldl (fun t i =>
    let r := ratios.getD i 0
    let x := t.clk i
    t.setClk i { x with ratios := if r = 0 then [] else (r :: x.ratios).take 12 }) t
  let tracks := (List.range 4).any (fun i =>
    (t.clk i).st == .qualified && decide (970000000 ≤ ratios.getD i 0) && decide (ratios.getD i 0 ≤ 1030000000))
  if !t.clocks.iroFault then .next t
  else if !tracks || iro then .next { t with clocks.iroGood := none }
  else
    let since := t.clocks.iroGood.getD t.tb3
    .next (if t.tb3Passed since 1000000 then { t with clocks.iroFault := false, clocks.iroGood := none }
      else { t with clocks.iroGood := some since })

/-- REFINEMENT_END: the source's mean frequency over 1 s lies `off` ppb from the refinement reference (R377). -/
def execRefinementEnd (dt src : Nat) (off : Int) (s : State) : Host.Outcome State Fault Refusal :=
  let s := s.advance dt
  let x := s.clk src
  let due := if x.level = 2 then s.tb3Passed x.fineAt 10000000 else s.tb3Passed x.qualAt 1000000
  if decide (src ≥ 4) || x.st != .qualified || !s.canRefine src || !due then .next s
  else
    let s := s.setClk src { x with offset := off }
    .next (if off.natAbs ≤ 5000 then s.setClk src { s.clk src with level := 2, fineAt := s.tb3 } else (s.srcFail src true).reselect)

/-- SOURCE_RETRY (R378). -/
def execSourceRetry (dt src : Nat) (s : State) : Host.Outcome State Fault Refusal :=
  let s := s.advance dt
  let x := s.clk src
  let due := match x.edgeAt with
    | some t => s.tb3Passed t (s.clocks.retryS * 1000000)
    | none => false
  .next (if decide (src < 4) && x.st == .failed && due then s.openWindow src else s)

/-- WAIT_TO_RESTORE_EXPIRY (R381): with REVERTIVE set the best source of lower PRIORITY value that has stayed QUALIFIED for
WAIT_TO_RESTORE replaces the selected one. -/
def execWaitToRestoreExpiry (dt : Nat) (s : State) : Host.Outcome State Fault Refusal :=
  let s := s.advance dt
  match s.clocks.selected with
  | none => .next s
  | some i =>
    let ok (j : Nat) : Bool :=
      decide ((s.clk j).prio < (s.clk i).prio) && s.tb3Passed (s.clk j).qualAt (s.clocks.restoreS * 1000000)
    match s.bestSource ok with
    | some j => .next (if s.clocks.revertive then s.selectSource (some j) else s)
    | none => .next s

/-- REFERENCE_SWITCH_COMPLETE (R383): the domain runs on its new reference, three of its cycles lost; what was asked for meanwhile
follows. Horizon adds the periods back (14 R365), so no base shows them. -/
def execReferenceSwitchComplete (dt dom : Nat) (s : State) : Host.Outcome State Fault Refusal :=
  let s := s.advance dt
  let d := s.clocks.doms.getD dom {}
  match d.next with
  | none => .next s
  | some r =>
    let d : ClkDomain := { ref := r }
    let s := { s with clocks.doms := setAt s.clocks.doms dom (d.want s.refCode) }
    .next (if dom = 32 then { s with clocks.hznLost := if s.clocks.hznSlip then 0 else 3, clocks.hznSlip := false } else s)

/-! ### Lock (R384) -/

/-- Ports of a quad. -/
def quadOf (q : Nat) : List Nat := (List.range 4).map (fun i => 4 * q + i)

/-- PLL_LOCK_LOSS: domain 0 to 31 a quad, 32 Horizon, 33 PCIe; `rx` marks the ports of the quad that are receiving a frame. -/
def execPllLockLoss (dt dom rx : Nat) (s : State) : Host.Outcome State Fault Refusal :=
  let s := s.advance dt
  let up := if dom < 32 then s.clocks.quadLock.getD dom true else if dom = 32 then s.horizon.pllLock else s.clocks.pcieLock
  if dom ≥ 34 ∨ !up then .next s
  else
    let s := (s.post 0x0B05 (le 1 dom ++ le 1 0)).raiseInt 141
    if dom = 33 then .next { s with clocks.pcieLock := false }.linkReset
    else if dom = 32 then
      .next { s with clocks.hznLosses := inc32 s.clocks.hznLosses, clocks.hznSlip := s.clocks.hznSlip || (s.clocks.doms.getD 32 {}).next.isSome }.hznUnlocked
    else
      let s := { s with clocks.quadLock := setAt s.clocks.quadLock dom false, clocks.quadLosses := inc32 s.clocks.quadLosses }
      .next ((quadOf dom).foldl (fun s n =>
        let old := (s.port n).st
        if old = .up ∨ old = .down then
          let s := (s.leaveUp n .linkFault true (bit rx (n % 4))).postC 0x0C01 4 (le 2 n ++ le 1 old.code ++ le 1 PortStt.linkFault.code)
          if old = .up then s.raiseInt 142 else s
        else s) s)

/-- PLL_RELOCK (R384, 17 R425). -/
def execPllRelock (dt dom : Nat) (s : State) : Host.Outcome State Fault Refusal :=
  let s := s.advance dt
  let up := if dom < 32 then s.clocks.quadLock.getD dom true else if dom = 32 then s.horizon.pllLock else s.clocks.pcieLock
  if dom ≥ 34 ∨ up then .next s
  else
    let s := (s.post 0x0B05 (le 1 dom ++ le 1 1)).raiseInt 141
    if dom = 33 then .next { s with clocks.pcieLock := true }
    else if dom = 32 then .next s.hznLocked
    else
      let s := { s with clocks.quadLock := setAt s.clocks.quadLock dom true }
      .next ((quadOf dom).foldl (fun s n =>
        if (s.port n).st = .linkFault then s.modPort n (fun p => { p with st := .down }) else s) s)

/-! ### Core voltage -/

/-- CORE_VOLTAGE_UPDATE (R388): every 100 µs, once placement has begun. -/
def execCoreVoltageUpdate (dt : Nat) (s : State) : Host.Outcome State Fault Refusal :=
  let s := s.advance dt
  .next (if s.place.begun then (List.range 4).foldl State.railStep s else s)

end Sys2Proof.Machine
end

