-- ==== Sys2Proof/Machine/Filter.lean ====
section
/-! DEFINITION. The filter family (05 R147) and the chains' event. -/
namespace Sys2Proof.Machine

/-! ### Banks -/

/-- Coefficient word `k` of a bank in the format of R126. -/
def coeffWord (p : Bytes) (k : Nat) : Nat := u32 p (0x0C + 4 * k)
def coeffs (p : Bytes) : List Int := (List.range (byteAt p 1)).map (fun k => toSigned 24 (coeffWord p k))

/-- The first coefficient whose bits [31:24] do not copy bit 23, or that breaks the symmetry of R127. -/
def badCoeff (p : Bytes) : Option Nat :=
  let h := coeffs p
  ((List.range h.length).find? (fun k =>
    coeffWord p k / 2 ^ 24 != (if bit (coeffWord p k) 23 then 0xFF else 0) ||
      h[k]? != h[h.length - 1 - k]?)).map (fun k => 0x0C + 4 * k)

/-- Rates in samples per second of the RATES bits set. -/
def ratesOf (m : Nat) : List Nat := (bitList 6 m).map rateHz

def State.bankInUse (s : State) (b : Nat) : Bool :=
  s.filter.chains.any (fun p => p.2.bank == b || p.2.changes.any (fun c => match c with
    | .setting _ n _ _ _ _ _ => n == b
    | _ => false))

def bankOwner (s : State) (p : Bytes) : Option Nat := (s.filter.banks.get (byteAt p 0)).map (·.owner)

/-- LOAD_BANK (0x0501). -/
def cardLoadBank : Card where
  opcode := 0x0501
  level := .o
  len := .form 4 131 (fun p => 3 + byteAt p 1)
  owner := bankOwner
  reserved p := orElseOpt (reservedBits p [(4, 0xC0)]) (firstNonzero p [(6, 2)])
  params _ c :=
    let p := c.params
    let r := byteAt p 2 * max (byteAt p 3) 1
    let sum : Nat := ((coeffs p).map (·.natAbs)).foldl (· + ·) 0
    orElseOpt (firstBad [(1, decide (1 ≤ byteAt p 1) && decide (byteAt p 1 ≤ 128)),
      (2, decide (1 ≤ byteAt p 2) && decide (byteAt p 2 ≤ 20) && decide (r ≤ 64) &&
        (ratesOf (byteAt p 4)).all (fun f => f % max r 1 == 0)),
      (3, [0, 4, 8, 16].contains (byteAt p 3) && (byteAt p 3 == 0 || byteAt p 4 &&& 7 == 0)),
      (4, byteAt p 4 != 0), (5, byteAt p 5 == 0xFF), (0x0C, decide (sum ≤ 0x800000))]) (badCoeff p)
  run s c :=
    let p := c.params
    let n := byteAt p 0
    if crc32c (p.take 8 ++ p.drop 0x0C) ≠ u32 p 8 then .err stIntegrity 1 []
    else if n < 16 then .wrong 1
    else if s.bankInUse n then .wrong 2
    else
      let b : Bank := { owner := c.inst, taps := coeffs p, firR := byteAt p 2, cicR := byteAt p 3, rates := byteAt p 4 }
      .ok { s with filter.banks := s.filter.banks.put n b } []

def execLoadBank (dt : Nat) (c : Cmd) (s : State) : Host.Outcome State Fault Refusal := runCard cardLoadBank dt c s

/-- A bank in the format of R126. -/
def bankBytes (n : Nat) (b : Bank) : Bytes :=
  let head := le 1 n ++ le 1 b.taps.length ++ le 1 b.firR ++ le 1 b.cicR ++ le 1 b.rates ++
    le 1 (if n < 16 then n % 4 else 0xFF) ++ zeros 2
  let co := b.taps.flatMap (leS 4)
  head ++ le 4 (crc32c (head ++ co)) ++ co

def bankReserved (p : Bytes) : Option Nat := firstNonzero p [(1, 3)]

/-- READ_BANK (0x0502). -/
def cardReadBank : Card where
  opcode := 0x0502
  level := .r
  changes := false
  len := .exact 1
  most _ _ := 132
  reserved := bankReserved
  run s c :=
    match s.bank (byteAt c.params 0) with
    | some b => .ok s (bankBytes (byteAt c.params 0) b)
    | none => .wrong 3

def execReadBank (dt : Nat) (c : Cmd) (s : State) : Host.Outcome State Fault Refusal := runCard cardReadBank dt c s

/-- FREE_BANK (0x0503). -/
def cardFreeBank : Card where
  opcode := 0x0503
  level := .o
  len := .exact 1
  owner := bankOwner
  reserved := bankReserved
  run s c :=
    let n := byteAt c.params 0
    if n < 16 then .wrong 1
    else if s.bankInUse n then .wrong 2
    else if !s.filter.banks.has n then .wrong 3
    else .ok { s with filter.banks := s.filter.banks.del n } []

def execFreeBank (dt : Nat) (c : Cmd) (s : State) : Host.Outcome State Fault Refusal := runCard cardFreeBank dt c s

/-! ### Channel lists -/

def listChannels (p : Bytes) : List Nat := (List.range (u16 p 0x14)).map (fun i => u16 p (0x18 + 2 * i))

/-- The first channel out of range or repeated. -/
def badListChannel : List Nat → List Nat → Nat → Option Nat
  | [], _, _ => none
  | ch :: t, seen, i =>
    if ch > 16383 || seen.contains ch then some (0x18 + 2 * i) else badListChannel t (ch :: seen) (i + 1)

def listReserved (p : Bytes) : Option Nat :=
  firstNonzero p [(3, 1), (0x16, 2), (0x18 + 2 * u16 p 0x14, if u16 p 0x14 % 2 = 1 then 2 else 0)]

/-- Owner of a channel: the owner of its stream (R147). -/
def State.chanOwner (s : State) (ch : Nat) : Option Nat := (s.chanStream ch).map (fun x => x.2.owner)

/-- Owner of a list: the common owner, or VI00 where the channels have several. -/
def listOwner (s : State) (p : Bytes) : Option Nat :=
  match (listChannels p).filterMap s.chanOwner with
  | [] => none
  | o :: t => some (if t.all (· == o) then o else 0)

/-- The apply position on a channel of an APPLY_TIME in ns (R131). -/
def State.applyPos (s : State) (ch applyNs : Nat) : Nat :=
  match s.chanStream ch, s.filter.chains.get ch with
  | some (_, x), some k => if applyNs = 0 then k.next.getD 0 else ceilDiv (applyNs * qNs) (periodQ x.cfg.rate)
  | _, _ => 0

/-- The refusals of R131 for a list: undefined, too early, already pending; `ref` for a reference change. -/
def State.listRefusal (s : State) (own : Bool) (chs : List Nat) (applyNs : Nat) (ref : Bool) : Option Nat :=
  let soon := applyNs = 0 ∨ applyNs * qNs < s.now + 1000000 * qNs
  if own && chs.any s.readerRunning && decide soon then some 3
  else if chs.any (fun ch => match s.filter.chains.get ch with
      | some k => (match k.next with
        | some n => decide (s.applyPos ch applyNs < n)
        | none => false)
      | none => false) then some 3
  else if chs.any (fun ch => match s.filter.chains.get ch with
      | some k => decide (k.changes.length ≥ 4) ||
          k.changes.any (fun c => c.isRef == ref && c.at_ == s.applyPos ch applyNs)
      | none => false) then some 4
  else none

/-- A list command with its APPLY_TIME resolved: the time of the first listed channel's apply position (12 R311). -/
def listAbsolute (s _t : State) (c : Cmd) : Bytes :=
  let p := c.params
  match (listChannels p).head? with
  | none => p
  | some ch =>
    match s.chanStream ch, s.filter.chains.get ch with
    | some (_, x), some k =>
      if u64 p 0x0C = 0 && k.next.isSome then
        p.take 0x0C ++ le 8 (s.applyPos ch 0 * periodQ x.cfg.rate / qNs) ++ p.drop 0x14
      else p
    | _, _ => p

/-- Changes every listed chain. -/
def State.mapChains (s : State) (chs : List Nat) (f : Nat → Chain → Chain) : State :=
  chs.foldl (fun s ch => { s with filter.chains := s.filter.chains.upd ch (f ch) }) s

/-- The bank of SET_CHAIN on a channel: a preset of its rate, or the bank named. -/
def chainBank (p : Bytes) (rate : Nat) : Nat := if byteAt p 0 = 0 then clearBank rate + byteAt p 1 else byteAt p 1

/-- SET_CHAIN (0x0504). -/
def cardSetChain : Card where
  opcode := 0x0504
  level := .o
  len := .form 7 262 (fun p => 6 + ceilDiv (u16 p 0x14) 2)
  owner := listOwner
  reserved := listReserved
  params _ c :=
    let p := c.params
    orElseOpt (firstBad [(0, decide (byteAt p 0 ≤ 1)), (1, byteAt p 0 == 1 || decide (byteAt p 1 ≤ 3)),
      (2, decide (byteAt p 2 ≤ 1)), (0x14, decide (1 ≤ u16 p 0x14) && decide (u16 p 0x14 ≤ 512))])
      (badListChannel (listChannels p) [] 0)
  absolute := listAbsolute
  run s c :=
    let p := c.params
    let chs := listChannels p
    let rate (ch : Nat) : Nat := ((s.chanStream ch).map (fun x => x.2.cfg.rate)).getD 0
    if !chs.all s.ingest.chanOf.has then .wrong 1
    else if !chs.all (fun ch => match s.bank (chainBank p (rate ch)) with
        | some b => bit b.rates (rate ch)
        | none => false) then .wrong 2
    else
      match s.listRefusal c.own chs (u64 p 0x0C) false with
      | some d => .wrong d
      | none =>
        .ok (s.mapChains chs (fun ch k => k.queue (.setting (s.applyPos ch (u64 p 0x0C)) (chainBank p (rate ch)) (s32 p 4)
          (s32 p 8) (byteAt p 2 == 1) (chs.headD 0) chs.length))) []

def execSetChain (dt : Nat) (c : Cmd) (s : State) : Host.Outcome State Fault Refusal := runCard cardSetChain dt c s

/-- GET_CHAIN (0x0505). -/
def cardGetChain : Card where
  opcode := 0x0505
  level := .r
  changes := false
  len := .exact 1
  most _ _ := 11
  reserved p := orElseOpt (reservedBits p [(2, 0xFE)]) (firstNonzero p [(3, 1)])
  params _ c := firstBad [(0, decide (u16 c.params 0 ≤ 16383))]
  run s c :=
    let ch := u16 c.params 0
    match s.filter.chains.get ch with
    | none => .wrong 1
    | some k =>
      let b := (s.bank k.bank).getD (romBank 0)
      let st := if !s.place.rings.has ch then 0 else if k.settled b then 2 else 1
      let pend := (k.changes.filter (fun c => !c.isRef)).length + 8 * boolNat (k.changes.any (·.isRef)) +
        16 * boolNat k.armed.isSome
      let d := le 1 k.bank ++ le 1 (boolNat k.single) ++ le 1 st ++ le 1 pend ++ leS 4 k.gain ++ leS 4 k.offset ++
        le 8 k.nRef ++ le 2 b.span ++ le 2 b.gdHalf ++ le 4 k.scaleSat ++ le 4 k.outSat ++ le 4 k.substituted ++ le 4 k.restarts
      let z : Chain := { k with scaleSat := 0, outSat := 0, substituted := 0, restarts := 0 }
      .ok (if bit (byteAt c.params 2) 0 then { s with filter.chains := s.filter.chains.put ch z } else s) d

def execGetChain (dt : Nat) (c : Cmd) (s : State) : Host.Outcome State Fault Refusal := runCard cardGetChain dt c s

/-- SYNC_DECIMATORS (0x0506). -/
def cardSyncDecimators : Card where
  opcode := 0x0506
  level := .o
  len := .form 7 262 (fun p => 6 + ceilDiv (u16 p 0x14) 2)
  owner := listOwner
  reserved := listReserved
  params _ c :=
    let p := c.params
    let src := byteAt p 0
    orElseOpt (firstBad [(0, decide (src ≤ 2)), (1, if src = 1 then decide (byteAt p 1 ≤ 7) else byteAt p 1 == 0),
      (2, if src = 1 then decide (byteAt p 2 ≤ 1) else byteAt p 2 == 0), (4, src == 0 || u64 p 4 == 0),
      (0x0C, src == 0 || u64 p 0x0C == 0), (0x14, decide (1 ≤ u16 p 0x14) && decide (u16 p 0x14 ≤ 512))])
      (badListChannel (listChannels p) [] 0)
  absolute := listAbsolute
  run s c :=
    let p := c.params
    let chs := listChannels p
    let group := (chs.headD 0, chs.length)
    if !chs.all s.ingest.chanOf.has then .wrong 1
    else if byteAt p 0 = 1 then
      .ok (s.mapChains chs (fun _ k => { k with armed := some (byteAt p 1, byteAt p 2 == 1), armList := group })) []
    else if byteAt p 0 = 2 then .ok (s.mapChains chs (fun _ k => { k with armed := none })) []
    else
      match s.listRefusal c.own chs (u64 p 0x0C) true with
      | some d => .wrong d
      | none =>
        .ok (s.mapChains chs (fun ch k =>
          let per := periodQ (((s.chanStream ch).map (fun x => x.2.cfg.rate)).getD 0)
          k.queue (.reference (s.applyPos ch (u64 p 0x0C)) (ceilDiv (u64 p 4 * qNs) per) none group.1 group.2))) []

def execSyncDecimators (dt : Nat) (c : Cmd) (s : State) : Host.Outcome State Fault Refusal :=
  runCard cardSyncDecimators dt c s

/-- SET_DETECTOR (0x0507). With ENABLE 0 the settings are neither judged nor kept. -/
def cardSetDetector : Card where
  opcode := 0x0507
  level := .o
  len := .exact 6
  owner s p := s.chanOwner (u16 p 0)
  reserved p := orElseOpt (firstNonzero p [(6, 2)]) (orElseOpt (reservedBits p [(0x10, 0xFE)])
    (firstNonzero p [(0x11, 1), (0x14, 4)]))
  params _ c :=
    let p := c.params
    let on := byteAt p 3 == 1
    let w := u16 p 4
    firstBad [(0, decide (u16 p 0 ≤ 16383)), (2, decide (byteAt p 2 ≤ 2)), (3, decide (byteAt p 3 ≤ 1)),
      (4, !on || (decide (1 ≤ w) && decide (w ≤ if byteAt p 2 = 2 then 24 else 4096))),
      (0x0C, !on || decide (u32 p 0x0C ≤ u32 p 8)), (0x12, !on || bit (byteAt p 0x10) 0 || u16 p 0x12 == 0)]
  run s c :=
    let p := c.params
    let ch := u16 p 0
    let i := byteAt p 2
    let src : SigSrc := SigSrc.detector ch i
    let on := byteAt p 3 == 1
    let sig := if on && bit (byteAt p 0x10) 0 then some (u16 p 0x12) else none
    match s.filter.chains.get ch with
    | none => .wrong 1
    | some k =>
      if s.readerRunning ch then .wrong 5
      else if (match sig with
          | some g => s.drivenByOther g src
          | none => false) then .wrong 6
      else
        let s := s.releaseSignals (· == src)
        let s := match sig with
          | some g => s.bindSignal g src
          | none => s
        let d : Detector :=
          if on then { enabled := true, window := u16 p 4, thresh := u32 p 8, hyst := u32 p 0x0C, signal := sig } else {}
        .ok { s with filter.chains := s.filter.chains.put ch { k with det := setAt k.det i d } } []

def execSetDetector (dt : Nat) (c : Cmd) (s : State) : Host.Outcome State Fault Refusal := runCard cardSetDetector dt c s

/-- GET_DETECTORS (0x0508). -/
def cardGetDetectors : Card where
  opcode := 0x0508
  level := .r
  changes := false
  len := .exact 1
  most _ _ := 7
  reserved p := firstNonzero p [(2, 2)]
  params _ c := firstBad [(0, decide (u16 c.params 0 ≤ 16383))]
  run s c :=
    match s.filter.chains.get (u16 c.params 0) with
    | none => .wrong 1
    | some k =>
      let on := (List.range 3).map (fun i => (k.det.getD i noDet).enabled)
      let lv := (List.range 3).map (fun i => (k.det.getD i noDet).level)
      match k.outs.head? with
      | none => .ok s (zeros 12 ++ le 1 (bitsNat (on ++ lv)) ++ zeros 11)
      | some r =>
        .ok s (leS 4 r.peak ++ le 4 r.rms ++ le 4 r.env ++ le 1 (bitsNat (on ++ lv ++ [bit r.sqw 27])) ++ zeros 3 ++ le 8 r.pos)

def execGetDetectors (dt : Nat) (c : Cmd) (s : State) : Host.Outcome State Fault Refusal := runCard cardGetDetectors dt c s

/-- CHAIN_TAKE_POSITION (R117). -/
def execChainTakePosition (dt ch : Nat) (s : State) : Host.Outcome State Fault Refusal :=
  .next ((s.advance dt).takePosition ch)

end Sys2Proof.Machine
end

