-- ==== Sys2Proof/Machine/Host.lean ====
section
/-! DEFINITION. Family 0x0D, host, instances and bridge (18 R457), and the events of the host interface. -/
namespace Sys2Proof.Machine

/-! ### Cards -/

def viRange (c : Cmd) : Nat × Bool := (0, decide (byteAt c.params 0 ≤ 63))

/-- The refusals on the state of a function that the cards share. -/
def State.viShut (s : State) (vi : Nat) : Option CardOut :=
  if !s.viPresent vi then some (.wrong 1) else if (s.hif vi).resetting then some (.wrong 3) else none

/-- SET_INSTANCE_RESOURCES (0x0D01). -/
def cardSetInstanceResources : Card where
  opcode := 0x0D01
  level := .m
  len := .exact 2
  reserved p := firstNonzero p [(5, 3)]
  params _ c :=
    let p := c.params
    firstBad [viRange c, (1, decide (1 ≤ byteAt p 1) && decide (byteAt p 1 ≤ 16)),
      (2, decide (1 ≤ u16 p 2) && decide (u16 p 2 ≤ 256)), (4, decide (byteAt p 4 ≤ 1))]
  run s c :=
    let p := c.params
    let vi := byteAt p 0
    match s.viShut vi with
    | some r => r
    | none => .ok (s.setHif vi { s.hif vi with weight := byteAt p 1, maxReads := u16 p 2, generMode := byteAt p 4 == 1 }) []

def execSetInstanceResources (dt : Nat) (c : Cmd) (s : State) : Host.Outcome State Fault Refusal :=
  runCard cardSetInstanceResources dt c s

/-- STATE of GET_INSTANCE. -/
def State.viCode (s : State) (vi : Nat) : Nat :=
  let h := s.hif vi
  if !s.viPresent vi then 0 else if h.resetting then 4 else if h.ringError then 3 else if h.enable then 2 else 1

/-- GET_INSTANCE (0x0D02). -/
def cardGetInstance : Card where
  opcode := 0x0D02
  level := .r
  changes := false
  len := .exact 1
  most _ _ := 4
  reserved p := firstNonzero p [(1, 3)]
  params _ c := firstBad [viRange c]
  run s c :=
    let vi := byteAt c.params 0
    let h := s.hif vi
    .ok s (le 1 (s.viCode vi) ++ le 1 h.weight ++ le 2 h.maxReads ++ le 1 (boolNat h.generMode) ++ le 1 h.generation ++
      le 1 (bitsNat ((List.range 8).map (fun w => (s.window vi w).enabled))) ++ le 1 (s.tu vi).mode ++ le 4 h.reads.length)

def execGetInstance (dt : Nat) (c : Cmd) (s : State) : Host.Outcome State Fault Refusal := runCard cardGetInstance dt c s

/-- The internal regions of R450 as (first, last). -/
def windowRegions : List (Nat × Nat) :=
  [(0, 0x087FFFFF), (0x80000000, 0x801FFFFF), (0x0100000000, 0x013FFFFFFF), (0x0200000000, 0x0201FFFFFF)]

/-- Does an internal range lie wholly within one region (R450)? -/
def internalOk (base size : Nat) : Bool :=
  windowRegions.any (fun r => decide (r.1 ≤ base) && decide (base + size ≤ r.2 + 1))

/-- Bytes of a function's BAR2 (R437). -/
def bar2Size (vi : Nat) : Nat := if vi = 0 then 2 ^ 34 else 2 ^ 30

/-- SET_WINDOW (0x0D03). -/
def cardSetWindow : Card where
  opcode := 0x0D03
  level := .m
  len := .exact 6
  reserved p := orElseOpt (reservedBits p [(3, 0xE0)]) (firstNonzero p [(5, 3)])
  params _ c :=
    let p := c.params
    let size := 2 ^ byteAt p 4
    firstBad [viRange c, (1, decide (byteAt p 1 ≤ 7)), (2, decide (byteAt p 2 ≤ 1)), (3, decide (bitsOf (byteAt p 3) 3 2 ≤ 2)),
      (4, decide (16 ≤ byteAt p 4) && decide (byteAt p 4 ≤ 32)),
      (8, u64 p 8 % size == 0 && decide (u64 p 8 + size ≤ bar2Size (byteAt p 0))),
      (0x10, u64 p 0x10 % size == 0 && internalOk (u64 p 0x10) size)]
  run s c :=
    let p := c.params
    let vi := byteAt p 0
    let w := byteAt p 1
    let a := byteAt p 3
    let size := 2 ^ byteAt p 4
    match s.viShut vi with
    | some r => r
    | none =>
      let old := s.window vi w
      if byteAt p 2 = 0 then .ok (s.setWindow vi w { writeFailed := old.writeFailed, poisonRead := old.poisonRead, lastCause := old.lastCause,
                                                     writeErrors := old.writeErrors, poisonReads := old.poisonReads }) []
      else if (List.range 8).any (fun v =>
          let x := s.window vi v
          v != w && x.enabled && decide (x.aperture < u64 p 8 + size) && decide (u64 p 8 < x.aperture + 2 ^ x.log2)) then .wrong 2
      else
        .ok (s.setWindow vi w { old with
          enabled := true, write := bit a 0, ack := bit a 1, dataInv := bit a 2, element := bitsOf a 3 2, log2 := byteAt p 4,
          aperture := u64 p 8, internal := u64 p 0x10 }) []

def execSetWindow (dt : Nat) (c : Cmd) (s : State) : Host.Outcome State Fault Refusal := runCard cardSetWindow dt c s

/-- GET_WINDOW (0x0D04). -/
def cardGetWindow : Card where
  opcode := 0x0D04
  level := .r
  changes := false
  len := .exact 1
  most _ _ := 7
  reserved p := firstNonzero p [(2, 2)]
  params _ c := firstBad [viRange c, (1, decide (byteAt c.params 1 ≤ 7))]
  run s c :=
    let x := s.window (byteAt c.params 0) (byteAt c.params 1)
    .ok s (if x.enabled then
        le 1 1 ++ le 1 (bitsNat [x.write, x.ack, x.dataInv] + 8 * x.element) ++ le 1 x.log2 ++ zeros 3 ++ le 8 x.aperture ++
          le 8 x.internal ++ zeros 2
      else zeros 24)

def execGetWindow (dt : Nat) (c : Cmd) (s : State) : Host.Outcome State Fault Refusal := runCard cardGetWindow dt c s

/-- RESET_INSTANCE (0x0D05). -/
def cardResetInstance : Card where
  opcode := 0x0D05
  level := .m
  len := .exact 1
  reserved p := firstNonzero p [(1, 3)]
  params _ c := firstBad [viRange c]
  run s c :=
    let vi := byteAt c.params 0
    match s.viShut vi with
    | some r => r
    | none => if c.chan = vi then .wrong 4 else .accepted (s.startReset vi) (.instReset vi) true none

def execResetInstance (dt : Nat) (c : Cmd) (s : State) : Host.Outcome State Fault Refusal := runCard cardResetInstance dt c s

/-- GET_HOST_COUNTERS (0x0D06). -/
def cardGetHostCounters : Card where
  opcode := 0x0D06
  level := .r
  changes := false
  len := .exact 1
  most _ _ := 9
  reserved p := orElseOpt (reservedBits p [(1, 0xFE)]) (firstNonzero p [(2, 2)])
  params _ c := firstBad [viRange c]
  run s c :=
    let vi := byteAt c.params 0
    let h := s.hif vi
    let d := [h.commands, h.deliveries, h.ringErrors, h.resets, h.timeouts, h.lateCount, h.tuFaultCount, h.writeIgnored].flatMap (le 4)
    .ok (if bit (byteAt c.params 1) 0 then s.setHif vi { h with
      commands := 0, deliveries := 0, ringErrors := 0, resets := 0, timeouts := 0, lateCount := 0, tuFaultCount := 0,
      writeIgnored := 0 } else s) d

def execGetHostCounters (dt : Nat) (c : Cmd) (s : State) : Host.Outcome State Fault Refusal := runCard cardGetHostCounters dt c s

/-! ### Events -/

/-- HIF_CMD_TAIL: the host writes its memory, then the doorbell (R440). -/
def execHifCmdTail (dt vi tail : Nat) (writes : List (Nat × Bytes)) (s : State) : Host.Outcome State Fault Refusal :=
  let s := s.advance dt
  let s := { s with host.mem := writes.foldl (fun (m : Tab Byte) (w : Nat × Bytes) => memWriteN m w.1 w.2) s.host.mem }
  .next (if s.viPresent vi then s.cmdTail vi (tail % 65536) else s)

def execHifDlvHead (dt vi head : Nat) (s : State) : Host.Outcome State Fault Refusal :=
  let s := s.advance dt
  .next (if s.viPresent vi then s.dlvHead vi (head % 65536) else s)

def execHifControlWrite (dt vi v : Nat) (s : State) : Host.Outcome State Fault Refusal :=
  let s := s.advance dt
  .next (if s.viPresent vi then s.hifControl vi v else s)

def execHifReset (dt vi : Nat) (s : State) : Host.Outcome State Fault Refusal :=
  let s := s.advance dt
  .next (if s.viPresent vi then s.startReset vi else s)

def execRingErrorClear (dt vi : Nat) (s : State) : Host.Outcome State Fault Refusal :=
  let s := s.advance dt
  .next (if s.viPresent vi then s.ringClear vi else s)

/-- DESCRIPTOR_TAKE (R445): no channel is read until the module is command-ready (02 R40). -/
def execDescriptorTake (dt vi : Nat) (s : State) : Host.Outcome State Fault Refusal :=
  let s := s.advance dt
  .next (if s.boot.phase == .ready || s.boot.phase == .recovery then s.takeDescriptor vi else s)

/-- TU_INV with GO set (R448). -/
def execTuInv (dt vi : Nat) (all : Bool) (s : State) : Host.Outcome State Fault Refusal :=
  let s := s.advance dt
  .next { s with host.inv := s.host.inv ++ [(vi % 64, all)] }

def execTuInvComplete (dt : Nat) (s : State) : Host.Outcome State Fault Refusal := .next (s.advance dt).finishInv

/-- DIRTY_SWAP (R449): no further bit enters the old bitmap. -/
def execDirtySwap (dt vi : Nat) (s : State) : Host.Outcome State Fault Refusal :=
  let s := s.advance dt
  .next (s.setTu (vi % 64) { s.tu (vi % 64) with swapBusy := true })

def execDirtySwapComplete (dt vi : Nat) (s : State) : Host.Outcome State Fault Refusal :=
  let s := s.advance dt
  let t := s.tu (vi % 64)
  .next (if t.swapBusy then s.setTu (vi % 64) { t with active := !t.active, swapBusy := false } else s)

def execBridgeRead (dt vi addr len : Nat) (s : State) : Host.Outcome State Fault Refusal :=
  .next ((s.advance dt).bridgeRead vi addr len)

def execBridgeWrite (dt vi addr : Nat) (data : Bytes) (fault : Bool) (s : State) : Host.Outcome State Fault Refusal :=
  .next ((s.advance dt).bridgeWrite vi addr data fault)

def execFlr (dt vi : Nat) (s : State) : Host.Outcome State Fault Refusal :=
  let s := s.advance dt
  .next (if s.viPresent vi then s.flr vi else s)

def execVfEnableClear (dt : Nat) (s : State) : Host.Outcome State Fault Refusal := .next (s.advance dt).clearVfs

def execPerst (dt : Nat) (s : State) : Host.Outcome State Fault Refusal := .next (s.advance dt).linkReset

def execPcieLinkDown (dt : Nat) (s : State) : Host.Outcome State Fault Refusal := .next (s.advance dt).linkReset

def execDrainTimeout (dt vi : Nat) (s : State) : Host.Outcome State Fault Refusal := .next ((s.advance dt).drainTimeout vi)

def execInstanceResetComplete (dt vi : Nat) (s : State) : Host.Outcome State Fault Refusal := .next ((s.advance dt).finishReset vi)

def execDmaCompletion (dt vi tag gen : Nat) (err : Bool) (s : State) : Host.Outcome State Fault Refusal :=
  .next ((s.advance dt).readDone vi tag gen err)

def execDmaCompletionTimeout (dt vi tag : Nat) (s : State) : Host.Outcome State Fault Refusal :=
  .next ((s.advance dt).readTimeout vi tag)

end Sys2Proof.Machine
end

