-- ==== Sys2Proof/Machine/Icu.lean ====
section
/-! DEFINITION. Family 0x0E, interrupts (19 R467), the events of the interrupt controller, and the registers of BAR0 (18 R438 to
R452, 19 R466). -/
namespace Sys2Proof.Machine

/-! ### Cards -/

def srcRange (c : Cmd) : Nat × Bool := (0, srcDefined (u16 c.params 0))

/-- May a source be routed to a VI (R462)? -/
def routeOk (n vi : Nat) : Bool :=
  if vi = 0xFF then true
  else if n ≤ 65 then false
  else if 256 ≤ n ∧ n ≤ 447 then vi == 0 || vi == n % 64
  else true

/-- SET_SOURCE (0x0E01). -/
def cardSetSource : Card where
  opcode := 0x0E01
  level := .m
  len := .exact 5
  params _ c :=
    let p := c.params
    let n := u16 p 0
    let vi := byteAt p 2
    let vec := byteAt p 3
    let lvl := srcLevel n (byteAt p 5)
    let limit := u16 p 6
    let rel := u32 p 0xC
    let mx := u32 p 0x10
    firstBad [srcRange c, (2, decide (vi ≤ 63) || vi == 0xFF), (3, if vi = 0xFF then vec == 0 else decide (vec < vectorsOf vi)),
      (4, decide (byteAt p 4 ≤ 15)), (5, if srcModal n then decide (byteAt p 5 ≤ 4) else byteAt p 5 == 0xFF),
      (6, decide (limit ≤ 64) && (!lvl || limit == 0) && (decide (n > 65) || limit != 0)),
      (8, if limit = 0 then u32 p 8 == 0 else decide (10 ≤ u32 p 8) && decide (u32 p 8 ≤ 1000000)),
      (0xC, rel == 0 || (decide (1000 ≤ rel) && decide (rel ≤ 60000000))),
      (0x10, if lvl then decide (1000 ≤ mx) && decide (mx ≤ 60000000) else mx == 0)]
  run s c :=
    let p := c.params
    let n := u16 p 0
    let vi := byteAt p 2
    if !routeOk n vi || !(vi == 0xFF || s.viPresent vi) then .wrong 1
    else
      let x := s.src n
      .ok (s.setSrc n { x with
        hostVi := vi, vector := byteAt p 3, prio := byteAt p 4, mode := byteAt p 5, limit := u16 p 6, windowUs := u32 p 8,
        releaseUs := u32 p 0xC, maxUs := u32 p 0x10, hist := [], hPending := x.hPending && vi == x.hostVi }) []

def execSetSource (dt : Nat) (c : Cmd) (s : State) : Host.Outcome State Fault Refusal := runCard cardSetSource dt c s

/-- STATE of GET_SOURCE. -/
def Source.code (x : Source) : Nat :=
  match x.masked with
  | .squall => 2
  | .stuck => 3
  | .none => if x.zPending || x.hPending then 1 else 0

/-- GET_SOURCE (0x0E02). -/
def cardGetSource : Card where
  opcode := 0x0E02
  level := .r
  changes := false
  len := .exact 1
  most _ _ := 8
  reserved p := orElseOpt (reservedBits p [(2, 0xFE)]) (firstNonzero p [(3, 1)])
  params _ c := firstBad [srcRange c]
  run s c :=
    let n := u16 c.params 0
    let x := s.src n
    .ok (if bit (byteAt c.params 2) 0 then s.setSrc n { x with events := 0, messages := 0, suppressed := 0, maskings := 0 } else s)
      (le 1 x.code ++ le 1 (srcMode n x.mode) ++ le 1 x.hostVi ++ le 1 x.vector ++ le 1 x.prio ++ le 1 x.core ++ le 2 x.limit ++
        le 4 x.windowUs ++ [x.events, x.messages, x.suppressed, x.maskings].flatMap (le 4))

def execGetSource (dt : Nat) (c : Cmd) (s : State) : Host.Outcome State Fault Refusal := runCard cardGetSource dt c s

/-- UNMASK_SOURCE (0x0E03): a source routed to an instance is owned by it (R467), any other by VI00. -/
def cardUnmaskSource : Card where
  opcode := 0x0E03
  level := .o
  len := .exact 1
  reserved p := firstNonzero p [(2, 2)]
  params _ c := firstBad [srcRange c]
  owner s p :=
    let n := u16 p 0
    if srcDefined n then some (if (s.src n).hostVi = 0xFF then 0 else (s.src n).hostVi) else none
  run s c := .ok (s.unmask (u16 c.params 0)) []

def execUnmaskSource (dt : Nat) (c : Cmd) (s : State) : Host.Outcome State Fault Refusal := runCard cardUnmaskSource dt c s

/-- LIST_MASKED (0x0E04). -/
def cardListMasked : Card where
  opcode := 0x0E04
  level := .r
  changes := false
  len := .exact 0
  most _ _ := 33
  run s _ := .ok s ((List.range 32).flatMap (fun w =>
    le 4 (bitsNat ((List.range 32).map (fun b => srcDefined (32 * w + b) && (s.src (32 * w + b)).masked != .none)))))

def execListMasked (dt : Nat) (c : Cmd) (s : State) : Host.Outcome State Fault Refusal := runCard cardListMasked dt c s

/-! ### Events -/

/-- INTERRUPT_MESSAGE (R460): the oldest message is taken. -/
def execInterruptMessage (dt : Nat) (s : State) : Host.Outcome State Fault Refusal :=
  let s := s.advance dt
  match s.icu.inbox with
  | [] => .next s
  | n :: rest => .next ({ s with icu.inbox := rest }.takeEvent n)

/-- WIRED_LINE_CHANGE (R458, R460): the oldest change of a line is taken. -/
def execWiredLineChange (dt : Nat) (s : State) : Host.Outcome State Fault Refusal :=
  let s := s.advance dt
  match s.icu.wired with
  | [] => .next s
  | (n, level) :: rest => .next ({ s with icu.wired := rest }.takeLine n level)

/-- SQUALL_RELEASE (R465): RELEASE has passed without an event, or with the line inactive. -/
def execSquallRelease (dt src : Nat) (s : State) : Host.Outcome State Fault Refusal :=
  let s := s.advance dt
  let x := s.src src
  let due := match x.masked with
    | .squall => s.tb3Passed x.lastEvent x.releaseUs
    | .stuck => !x.active src && s.tb3Passed x.idleAt x.releaseUs
    | .none => false
  .next (if srcDefined src && x.releaseUs != 0 && due then s.unmask src else s)

/-- STUCK_TIMEOUT (R464). -/
def execStuckTimeout (dt src : Nat) (s : State) : Host.Outcome State Fault Refusal :=
  let s := s.advance dt
  let x := s.src src
  let over_ := decide (tDiff s.tb3 x.activeAt > ((x.maxUs * 1000 * 2 ^ 40 : Nat) : Int))
  .next (if srcDefined src && src != 770 && x.masked == .none && x.active src && over_ then s.maskSource src .stuck else s)

/-- INTERRUPT_ACK (R461): the core receives the highest of the sources delivered to it. -/
def execInterruptAck (dt core : Nat) (s : State) : Host.Outcome State Fault Refusal :=
  let s := s.advance dt
  match s.icu.cores[core]? with
  | none => .next s
  | some k =>
    let order := sortBy (fun (a b : Nat) => decide ((s.src a).prio > (s.src b).prio)) k.delivered
    match order with
    | [] => .next s
    | n :: _ =>
      if k.stack.length ≥ 16 then .next s
      else
        let k := { k with stack := (n, (s.src n).prio) :: k.stack, delivered := k.delivered.erase n }
        .next { s with icu.cores := setAt s.icu.cores core k }

/-- END_OF_INTERRUPT (R461): out of order it pops nothing, is recorded, and expires the core's watchdog. -/
def execEndOfInterrupt (dt core src : Nat) (s : State) : Host.Outcome State Fault Refusal :=
  let s := s.advance dt
  match s.icu.cores[core]? with
  | none => .next s
  | some k =>
    match k.stack with
    | (n, _) :: rest =>
      if n = src then .next { s with icu.cores := setAt s.icu.cores core { k with stack := rest } }.deliverZenith
      else .next ((s.post 0x0E03 (le 1 core ++ le 2 n ++ le 2 src)).watchdog core)
    | [] => .next ((s.post 0x0E03 (le 1 core ++ le 2 0xFFFF ++ le 2 src)).watchdog core)

/-- Lifts the mask of a vector, or that of the function: what is pending follows (R462). -/
def State.msixUnmask (s : State) (vi : Nat) (vec : Option Nat) : State :=
  let f := s.msix vi
  let f := match vec with
    | some v => { f with vecMask := f.vecMask.filter (· != v) }
    | none => { f with fnMask := false }
  (s.setMsix vi f).msixFlush vi

def execMsixUnmask (dt vi : Nat) (vec : Option Nat) (s : State) : Host.Outcome State Fault Refusal :=
  let s := s.advance dt
  .next (if s.viPresent vi then s.msixUnmask vi vec else s)

def execIcuPendingClear (dt vi word bits : Nat) (s : State) : Host.Outcome State Fault Refusal :=
  let s := s.advance dt
  .next (if s.viPresent vi then s.icuClear vi (word % 32) bits else s)

def execIcuUnmask (dt vi src : Nat) (s : State) : Host.Outcome State Fault Refusal :=
  let s := s.advance dt
  .next (if s.viPresent vi then s.icuUnmask vi src else s)

/-! ### Registers of BAR0 (18, 19) -/

/-- MODULE_STATE (18 R439, 02 GET_STATUS). -/
def State.moduleState (s : State) : Nat :=
  if s.boot.phase != .ready then 0
  else if s.anvil.hub = .fatal then 3
  else if s.place.insts.any (fun e => e.2.isRunning) then 2
  else 1

/-- The firmware slot that runs. -/
def State.runningSlot (s : State) : FwSlot := if s.boot.running then s.boot.slotB else s.boot.slotA

def lo32 (v : Nat) : Nat := v % 2 ^ 32
def hi32 (v : Nat) : Nat := v / 2 ^ 32 % 2 ^ 32
def withLo (v x : Nat) : Nat := hi32 v * 2 ^ 32 + lo32 x
def withHi (v x : Nat) : Nat := lo32 x * 2 ^ 32 + lo32 v

/-- The ID_ block (18 R439). -/
def State.idReg (s : State) (vi off : Nat) : Nat :=
  match off with
  | 0x000 => 0x0101 + Config.stepLetter.toNat * 2 ^ 16 + Config.stepDigit.toNat * 2 ^ 24
  | 0x004 => vi + 64 * boolNat (vi == 0)
  | 0x008 => lo32 Config.serial.toNat
  | 0x00C => hi32 Config.serial.toNat
  | 0x010 => s.moduleState + 4 * boolNat (s.cmd.mgmt == .restarting) + 8 * boolNat (s.cmd.mgmt == .lost)
  | 0x014 => if s.boot.phase == .ready then s.runningSlot.version else 0
  | _ => 0

/-- The HIF_ ring registers (18 R440). -/
def State.hifReg (s : State) (vi off : Nat) : Nat :=
  let h := s.hif vi
  match off with
  | 0x00 => lo32 h.cmdBase
  | 0x04 => hi32 h.cmdBase
  | 0x08 => h.cmdLog2
  | 0x0C => h.cmdHead
  | 0x10 => lo32 h.dlvBase
  | 0x14 => hi32 h.dlvBase
  | 0x18 => h.dlvLog2
  | 0x1C => h.dlvTail + 2 ^ 16 * boolNat h.dlvPhase
  | 0x20 => bitsNat [h.enable, h.generMode, h.shadowEn]
  | 0x24 => bitsNat [h.running, h.resetting, h.ringError, h.dlvFull] + 256 * h.generation
  | 0x2C => h.errorCode + 2 ^ 16 * h.errorIndex
  | 0x30 => lo32 h.shadow
  | 0x34 => hi32 h.shadow
  | 0x38 => h.hdrErrors
  | 0x3C => h.lateDiscards
  | _ => 0

/-- The BRG_ block of a window (18 R452). -/
def State.brgReg (s : State) (vi w off : Nat) : Nat :=
  let x := s.window vi w
  match off with
  | 0x0 => bitsNat [x.enabled, x.write, x.ack, x.dataInv] + 16 * x.element
  | 0x4 => bitsNat [x.writeFailed, x.poisonRead] + 256 * x.lastCause
  | 0x8 => x.writeErrors
  | 0xC => x.poisonReads
  | _ => 0

/-- The TU_ registers of an instance (18 R448). -/
def State.tuReg (s : State) (vi off : Nat) : Nat :=
  let t := s.tu vi
  match off with
  | 0x00 => lo32 t.root
  | 0x04 => hi32 t.root
  | 0x08 => t.mode
  | 0x0C => bitsNat [t.dirtyEn, t.active, false, t.swapBusy]
  | 0x10 => lo32 t.dirtyA
  | 0x14 => hi32 t.dirtyA
  | 0x18 => lo32 t.dirtyB
  | 0x1C => hi32 t.dirtyB
  | 0x20 => t.span
  | 0x24 => t.faults
  | 0x28 => lo32 t.faultAddr
  | 0x2C => hi32 t.faultAddr
  | _ => 0

/-- The ICU_ page of a function (19 R466). -/
def State.icuReg (s : State) (vi off : Nat) : Nat :=
  if off < 0x80 then s.icuWord vi (off / 4) (·.hPending)
  else if off < 0x100 then s.icuWord vi ((off - 0x80) / 4) (·.masked != .none)
  else if off = 0x104 then (s.msix vi).messages
  else if off = 0x108 then (s.msix vi).suppressed
  else 0

/-- A 32-bit read of BAR0 of a function at an aligned offset: undefined offsets and write-only registers read 0. -/
def State.bar0Read (s : State) (vi off : Nat) : Nat :=
  if off < 0x1000 then s.idReg vi off
  else if off < 0x2000 then s.hifReg vi (off - 0x1000)
  else if off < 0x3000 then 0
  else if off < 0x4000 then s.icuReg vi (off - 0x3000)
  else if off < 0x4080 then s.brgReg vi ((off - 0x4000) / 16) (off % 16)
  else if vi = 0 ∧ 0x8000 ≤ off ∧ off < 0x9000 then s.tuReg ((off - 0x8000) / 64) (off % 64)
  else if vi = 0 ∧ off = 0x9004 then boolNat (s.host.inv != [])
  else 0

/-- What a read of an RC register clears (00 R7). -/
def State.bar0Clear (s : State) (vi off : Nat) : State :=
  let h := s.hif vi
  if off = 0x1038 then s.setHif vi { h with hdrErrors := 0 }
  else if off = 0x103C then s.setHif vi { h with lateDiscards := 0 }
  else if off = 0x3104 then s.setMsix vi { s.msix vi with messages := 0 }
  else if off = 0x3108 then s.setMsix vi { s.msix vi with suppressed := 0 }
  else if 0x4000 ≤ off ∧ off < 0x4080 then
    let w := (off - 0x4000) / 16
    let x := s.window vi w
    if off % 16 = 8 then s.setWindow vi w { x with writeErrors := 0 }
    else if off % 16 = 0xC then s.setWindow vi w { x with poisonReads := 0 }
    else s
  else if vi = 0 ∧ 0x8000 ≤ off ∧ off < 0x9000 ∧ off % 64 = 0x24 then
    let v := (off - 0x8000) / 64
    s.setTu v { s.tu v with faults := 0 }
  else s

/-- RC_REGISTER_READ (00 R7, R8): an aligned read of BAR0 completes with the value, and an RC register is cleared; any other
access completes with data 0 and no effect (18 R438). -/
def execRcRegisterRead (dt vi off : Nat) (aligned : Bool) (s : State) : Host.Outcome State Fault Refusal :=
  let s := s.advance dt
  if !s.viPresent vi then .next (s.emit (.completion vi 1 []))
  else if !aligned || off % 4 != 0 then .next (s.emit (.completion vi 0 (zeros 4)))
  else .next ((s.bar0Clear vi off).emit (.completion vi 0 (le 4 (s.bar0Read vi off))))

/-- A write of a ring register that takes effect only while ENABLE is 0 (18 R441). -/
def State.ringReg (s : State) (vi off v : Nat) : State :=
  let h := s.hif vi
  if h.resetting then s
  else if h.enable then s.ringErr vi 1 0
  else s.setHif vi (match off with
    | 0x00 => { h with cmdBase := withLo h.cmdBase v }
    | 0x04 => { h with cmdBase := withHi h.cmdBase v }
    | 0x08 => { h with cmdLog2 := v % 16 }
    | 0x10 => { h with dlvBase := withLo h.dlvBase v }
    | 0x14 => { h with dlvBase := withHi h.dlvBase v }
    | 0x18 => { h with dlvLog2 := v % 16 }
    | 0x30 => { h with shadow := withLo h.shadow v }
    | 0x34 => { h with shadow := withHi h.shadow v }
    | _ => h)

/-- A write of the HIF_ block. -/
def State.hifWrite (s : State) (vi off v : Nat) : State :=
  if off = 0x20 then s.hifControl vi v
  else if off = 0x24 then (if bit v 2 then s.ringClear vi else s)
  else if off = 0x28 then (if bit v 0 then s.startReset vi else s)
  else if [0x00, 0x04, 0x08, 0x10, 0x14, 0x18, 0x30, 0x34].contains off then s.ringReg vi off v
  else s

/-- A write of the TU_ registers of an instance (18 R448, R449). -/
def State.tuWrite (s : State) (vi off v : Nat) : State :=
  let t := s.tu vi
  s.setTu vi (match off with
    | 0x00 => { t with root := withLo t.root v }
    | 0x04 => { t with root := withHi t.root v }
    | 0x08 => { t with mode := v % 4 }
    | 0x0C => { t with dirtyEn := bit v 0, swapBusy := t.swapBusy || bit v 2 }
    | 0x10 => { t with dirtyA := withLo t.dirtyA v }
    | 0x14 => { t with dirtyA := withHi t.dirtyA v }
    | 0x18 => { t with dirtyB := withLo t.dirtyB v }
    | 0x1C => { t with dirtyB := withHi t.dirtyB v }
    | 0x20 => { t with span := v % 2 ^ 24 }
    | _ => t)

/-- A 32-bit write of BAR0 of a function at an aligned offset. Read-only registers and undefined offsets ignore it. -/
def State.bar0Write (s : State) (vi off v : Nat) : State :=
  if off < 0x1000 then s
  else if off < 0x2000 then s.hifWrite vi (off - 0x1000) v
  else if off = 0x2000 then s.cmdTail vi (v % 65536)
  else if off = 0x2004 then s.dlvHead vi (v % 65536)
  else if off < 0x3000 then s
  else if off < 0x3080 then s.icuClear vi ((off - 0x3000) / 4) v
  else if off = 0x3100 then s.icuUnmask vi (v % 1024)
  else if 0x4000 ≤ off ∧ off < 0x4080 ∧ off % 16 = 4 then
    let w := (off - 0x4000) / 16
    let x := s.window vi w
    s.setWindow vi w { x with writeFailed := x.writeFailed && !bit v 0, poisonRead := x.poisonRead && !bit v 1 }
  else if vi = 0 ∧ 0x8000 ≤ off ∧ off < 0x9000 then s.tuWrite ((off - 0x8000) / 64) (off % 64) v
  else if vi = 0 ∧ off = 0x9000 then
    if bit v 9 then { s with host.inv := s.host.inv ++ [(v % 64, bit v 8)] } else s
  else s

/-- REGISTER_WRITE (00 R7). NumVFs takes effect as VF Enable is set; while it is set NumVFs stands. -/
def execRegisterWrite (dt : Nat) (w : RegWrite) (s : State) : Host.Outcome State Fault Refusal :=
  let s := s.advance dt
  match w with
  | .bar0 vi off v aligned => .next (if s.viPresent vi && aligned && off % 4 == 0 then s.bar0Write vi off (lo32 v) else s)
  | .vfEnable n => .next (if s.host.numVfs = 0 ∧ n ≤ 63 then { s with host.numVfs := n } else s)
  | .msixEnable vi on fnMask =>
    .next (if s.viPresent vi then (s.setMsix vi { s.msix vi with enabled := on, fnMask := fnMask }).msixFlush vi else s)
  | .msixMask vi vec =>
    let f := s.msix vi
    .next (if s.viPresent vi && !f.vecMask.contains vec then s.setMsix vi { f with vecMask := f.vecMask ++ [vec] } else s)

end Sys2Proof.Machine
end

