-- ==== Sys2Proof/Machine/Ingest.lean ====
section
/-! DEFINITION. The ingest family (04 R115) and ingest's events. -/
namespace Sys2Proof.Machine

/-- The channel of each entry of a DEFINE_STREAM, 0xFFFF where ignored. -/
def defChannels (p : Bytes) : List Nat := (List.range (byteAt p 5)).map (fun i => u16 p (0x78 + 2 * i))

/-- The first entry that is out of range or repeats a channel. -/
def badDefChannel : List Nat → List Nat → Nat → Option Nat
  | [], _, _ => none
  | c :: t, seen, i =>
    if c = 0xFFFF then badDefChannel t seen (i + 1)
    else if c > 16383 || seen.contains c then some (0x78 + 2 * i)
    else badDefChannel t (c :: seen) (i + 1)

/-- A value in a range, or 0 for the default. -/
def zeroOr (lo hi v : Nat) : Bool := v == 0 || (decide (lo ≤ v) && decide (v ≤ hi))

def marginOr (v : Nat) : Nat := if v = 0 then 4600 else v

/-- Do two match keys overlap on a common port (R98)? -/
def keysOverlap (a b : StreamDef) : Bool :=
  a.fmt == b.fmt && a.destMac == b.destMac && (a.vlan == 0 || b.vlan == 0 || a.vlan == b.vlan) && a.appid == b.appid &&
    (a.fmt != 0 || a.svid == b.svid) && (a.portMask &&& b.portMask) != 0

/-- The definition a DEFINE_STREAM carries. -/
def streamDefOf (p : Bytes) : StreamDef :=
  { fmt := byteAt p 2, rate := byteAt p 3, nAsdu := byteAt p 4, nEntries := byteAt p 5, auth := byteAt p 6
    syncReq := byteAt p 7, portMask := uN p 8 16, destMac := beNat (slice p 0x18 6), appid := u16 p 0x1E
    vlan := u16 p 0x20, keySlot := u16 p 0x22, confRev := u32 p 0x24
    ringSpan := if u16 p 0x30 = 0 then 2000 else u16 p 0x30, lossTime := u16 p 0x32
    svid := slice p 0x38 (byteAt p 0x34), acceptSim := bit (byteAt p 0x35) 0, channels := defChannels p }

/-- Chain units of the defined channels (R113). -/
def State.unitsDefined (s : State) : Nat :=
  (s.ingest.streams.map (fun p => (p.2.cfg.channels.filter (· != 0xFFFF)).length * unitsOf p.2.cfg.rate)).foldl (· + ·) 0

/-- DEFINE_STREAM (0x0401). -/
def cardDefineStream : Card where
  opcode := 0x0401
  level := .o
  len := .form 30 42 (fun p => 30 + ceilDiv (byteAt p 5) 2)
  reserved p :=
    let n := byteAt p 5
    let pad : List (Nat × Nat) := if byteAt p 0x34 ≤ 64 then [(0x38 + byteAt p 0x34, 64 - byteAt p 0x34)] else []
    minOpt (reservedBits p [(0x35, 0xFE)])
      (firstNonzero p ([(0x36, 2)] ++ pad ++ (if n % 2 = 1 then [(0x78 + 2 * n, 2)] else [])))
  params _ c :=
    let p := c.params
    let tw := byteAt p 2 == 1
    let span := if u16 p 0x30 = 0 then 2000 else u16 p 0x30
    let d := u32 p 0x2C
    orElseOpt (firstBad [(0, decide (u16 p 0 ≤ 4095)), (2, decide (byteAt p 2 ≤ 1)),
      (3, if tw then [3, 4, 5].contains (byteAt p 3) else decide (byteAt p 3 ≤ 2)),
      (4, if tw then byteAt p 4 == 0 else decide (1 ≤ byteAt p 4) && decide (byteAt p 4 ≤ 8)),
      (5, decide (1 ≤ byteAt p 5) && decide (byteAt p 5 ≤ if tw then 4 else 24)),
      (6, if tw then byteAt p 6 == 0 || byteAt p 6 == 4 else decide (byteAt p 6 ≤ 4)),
      (7, decide (byteAt p 7 ≤ 2)), (8, uN p 8 16 != 0), (0x1E, !tw || u16 p 0x1E != 0), (0x20, decide (u16 p 0x20 ≤ 4094)),
      (0x22, if byteAt p 6 = 0 then u16 p 0x22 == 0xFFFF else decide (u16 p 0x22 ≤ 255)),
      (0x24, !tw || u32 p 0x24 == 0), (0x28, zeroOr 500 50000 (u32 p 0x28)),
      (0x2C, zeroOr 1000 20000000 d && decide (d ≤ span * 1000 + 2000)), (0x30, zeroOr 1000 20000 (u16 p 0x30)),
      (0x32, zeroOr 1000 60000 (u16 p 0x32)),
      (0x34, if tw then byteAt p 0x34 == 0 else decide (1 ≤ byteAt p 0x34) && decide (byteAt p 0x34 ≤ 64))])
      (badDefChannel (defChannels p) [] 0)
  run s c :=
    let p := c.params
    let n := u16 p 0
    let d := streamDefOf p
    let mine := d.channels.filter (· != 0xFFFF)
    let key : KeyUse :=
      if d.auth = 0 then .ok []
      else if s.slotFits c.inst d.keySlot (needVerify d.auth) then s.useSlot d.keySlot
      else .refused
    if (s.stream n).isSome then .wrong 1
    else if mine.any s.ingest.chanOf.has then .wrong 2
    else
      match key with
      | .refused => .wrong 3
      | .integrity t => .errWith t stIntegrity d.keySlot []
      | .ok k =>
        if s.ingest.streams.any (fun q => keysOverlap q.2.cfg d) then .wrong 4
        else if s.unitsDefined + mine.length * unitsOf d.rate > 65536 then .noRes 2
        else
          let x : Stream := { cfg := d, owner := c.inst, margin := marginOr (u32 p 0x28), fixedDelay := u32 p 0x2C
                              key := if d.auth = 0 then none else some k }
          let x := { x with closedTo := x.firstOpen s.now }
          let entries := (List.zip d.channels (List.range d.nEntries)).filter (fun e => e.1 != 0xFFFF)
          let s := entries.foldl (fun s e =>
            { s with
              ingest.chanOf := s.ingest.chanOf.put e.1 (n, e.2)
              filter.chains := s.filter.chains.put e.1 { bank := clearBank d.rate } }) (s.setStream n x)
          .ok s []

def execDefineStream (dt : Nat) (c : Cmd) (s : State) : Host.Outcome State Fault Refusal := runCard cardDefineStream dt c s

/-- Owner of the stream named in the first two bytes (R115). -/
def streamOwner (s : State) (p : Bytes) : Option Nat := (s.stream (u16 p 0)).map (·.owner)
def streamRange (p : Bytes) : Nat × Bool := (0, decide (u16 p 0 ≤ 4095))

/-- Does a declared instance read a channel of the stream? -/
def State.streamRead (s : State) (x : Stream) : Bool :=
  s.place.insts.any (fun q => x.cfg.channels.any (fun ch => ch != 0xFFFF && q.2.channels.contains ch))

/-- Does a running instance read a channel of the stream? -/
def State.streamRunning (s : State) (x : Stream) : Bool := x.cfg.channels.any (fun ch => ch != 0xFFFF && s.readerRunning ch)

/-- REMOVE_STREAM (0x0402). -/
def cardRemoveStream : Card where
  opcode := 0x0402
  level := .o
  len := .exact 1
  owner := streamOwner
  reserved p := firstNonzero p [(2, 2)]
  params _ c := firstBad [streamRange c.params]
  run s c :=
    let n := u16 c.params 0
    match s.stream n with
    | none => .wrong 1
    | some x =>
      if s.streamRead x then .wrong 5
      else
        let mine := x.cfg.channels.filter (· != 0xFFFF)
        let s := s.releaseSignals (fun g => match g with
          | .detector ch _ => mine.contains ch
          | _ => false)
        .ok { s with
          ingest.streams := s.ingest.streams.del n
          ingest.chanOf := s.ingest.chanOf.keep (fun ch _ => !mine.contains ch)
          filter.chains := s.filter.chains.keep (fun ch _ => !mine.contains ch) } []

def execRemoveStream (dt : Nat) (c : Cmd) (s : State) : Host.Outcome State Fault Refusal := runCard cardRemoveStream dt c s

/-- ENABLE_STREAM (0x0403). -/
def cardEnableStream : Card where
  opcode := 0x0403
  level := .o
  len := .exact 1
  owner := streamOwner
  reserved p := firstNonzero p [(3, 1)]
  params _ c := firstBad [streamRange c.params, (2, decide (byteAt c.params 2 ≤ 1))]
  run s c :=
    let n := u16 c.params 0
    match s.stream n with
    | none => .wrong 1
    | some x =>
      if byteAt c.params 2 = 1 then
        .ok (if x.st == .disabled then s.setStream n { x with st := .waiting } else s) []
      else .ok (s.setStream n { x with st := .disabled, meas := [] }) []

def execEnableStream (dt : Nat) (c : Cmd) (s : State) : Host.Outcome State Fault Refusal := runCard cardEnableStream dt c s

/-- SET_ALIGNMENT (0x0404). A FIXED_DELAY of 0 discards the learned X and D (R102, R105). -/
def cardSetAlignment : Card where
  opcode := 0x0404
  level := .o
  len := .exact 3
  owner := streamOwner
  reserved p := firstNonzero p [(2, 2)]
  params s c :=
    let p := c.params
    let span := match s.stream (u16 p 0) with
      | some x => x.cfg.ringSpan
      | none => 20000
    firstBad [streamRange p, (4, zeroOr 500 50000 (u32 p 4)),
      (8, zeroOr 1000 20000000 (u32 p 8) && decide (u32 p 8 ≤ span * 1000 + 2000))]
  run s c :=
    let p := c.params
    let n := u16 p 0
    match s.stream n with
    | none => .wrong 1
    | some x =>
      if c.own && s.streamRunning x then .wrong 6
      else
        let x := { x with margin := marginOr (u32 p 4), fixedDelay := u32 p 8, meas := [] }
        let x := if u32 p 8 = 0 then { x with x := none, d := none } else x
        .ok (s.setStream n (if x.st == .disabled then x else { x with st := .waiting })) []

def execSetAlignment (dt : Nat) (c : Cmd) (s : State) : Host.Outcome State Fault Refusal := runCard cardSetAlignment dt c s

/-- LATE_MARGIN: the smallest margin of the samples filed in the last second, in ns, rounded down. -/
def Stream.lateMargin (x : Stream) (now : Nat) : Int :=
  match (x.margins.filter (fun m => decide (m.1 + qSec > now))).map (fun m => m.2.fdiv (qNs : Int)) with
  | [] => 0x7FFFFFFF
  | a :: l => l.foldl min a

/-- GET_STREAM (0x0405). -/
def cardGetStream : Card where
  opcode := 0x0405
  level := .r
  changes := false
  len := .exact 1
  most _ _ := 15
  reserved p := orElseOpt (reservedBits p [(2, 0xFE)]) (firstNonzero p [(3, 1)])
  params _ c := firstBad [streamRange c.params]
  run s c :=
    let n := u16 c.params 0
    match s.stream n with
    | none => .wrong 1
    | some x =>
      let delay : Int := if x.fixedDelay ≠ 0 then (x.fixedDelay : Int) else x.d.getD 0
      let counters := [x.frames, x.late, x.missing, x.duplicate, x.dupDiffer, x.authFail, x.rejected, x.early, x.unsync,
        x.lossEvents]
      let d := le 2 n ++ le 1 x.st.code ++ le 1 (boolNat (x.fixedDelay != 0)) ++ leS 4 delay ++ leS 4 (x.x.getD 0) ++
        leS 4 (x.lateMargin s.now) ++ counters.flatMap (le 4)
      let z := { x with frames := 0, late := 0, missing := 0, duplicate := 0, dupDiffer := 0, authFail := 0, rejected := 0
                        early := 0, unsync := 0, lossEvents := 0 }
      .ok (if bit (byteAt c.params 2) 0 then s.setStream n z else s) d

def execGetStream (dt : Nat) (c : Cmd) (s : State) : Host.Outcome State Fault Refusal := runCard cardGetStream dt c s

/-- GET_INGEST_TOTALS (0x0406). -/
def cardGetIngestTotals : Card where
  opcode := 0x0406
  level := .r
  changes := false
  len := .exact 0
  most _ _ := 6
  run s _ :=
    .ok s (le 2 s.ingest.streams.length ++ le 2 s.ingest.chanOf.length ++ le 4 s.unitsDefined ++
      le 4 ((s.place.rings.map (·.2.units)).foldl (· + ·) 0) ++ le 4 s.ingest.unmatched ++ le 4 s.ingest.disabledDrops)

def execGetIngestTotals (dt : Nat) (c : Cmd) (s : State) : Host.Outcome State Fault Refusal :=
  runCard cardGetIngestTotals dt c s

/-- GET_CHANNEL (0x0407). -/
def cardGetChannel : Card where
  opcode := 0x0407
  level := .r
  changes := false
  len := .exact 1
  most _ _ := 6
  reserved p := firstNonzero p [(2, 2)]
  params _ c := firstBad [(0, decide (u16 c.params 0 ≤ 16383))]
  run s c :=
    let ch := u16 c.params 0
    match s.ingest.chanOf.get ch with
    | none => .wrong 1
    | some (n, entry) =>
      let rate := ((s.stream n).map (·.cfg.rate)).getD 0
      let (cc, depth, addr) := match s.place.rings.get ch with
        | some r => (r.cc, r.depth, 0x0100000000 + r.cc * 0x200000 + r.addr)
        | none => (0xFF, 0, 0)
      .ok s (le 2 n ++ le 1 entry ++ le 1 cc ++ le 2 (unitsOf rate) ++ zeros 2 ++ le 4 depth ++ le 8 addr)

def execGetChannel (dt : Nat) (c : Cmd) (s : State) : Host.Outcome State Fault Refusal := runCard cardGetChannel dt c s

/-! ### Events -/

/-- A frame of Ethertype 0x88BA or 0x88B5 reaches ingest (R98). -/
def execSvFrameReceived (dt port ta : Nat) (frame : Bytes) (s : State) : Host.Outcome State Fault Refusal :=
  .next ((s.advance dt).svFrame port ta frame)

/-- LOSS_TIME of a RUNNING stream without a frame that passed checks 1 to 5 (R105). -/
def State.streamLoss (s : State) (n : Nat) : State :=
  match s.stream n with
  | none => s
  | some x =>
    if x.st == .running && decide (s.now ≥ x.lastFrame + x.lossQ) then
      ((s.setStream n { x with st := .lost, lossEvents := inc32 x.lossEvents }).post 0x0402 (le 2 n)).raiseInt 132
    else s

def execStreamLossTimeout (dt stream : Nat) (s : State) : Host.Outcome State Fault Refusal :=
  .next ((s.advance dt).streamLoss stream)

/-- The cutoff of a stream's first open position passes (R103, R104). -/
def execSlotClose (dt stream : Nat) (s : State) : Host.Outcome State Fault Refusal :=
  let s := s.advance dt
  .next (match s.stream stream with
    | some x => s.closeSlot stream x
    | none => s)

end Sys2Proof.Machine
end

