-- ==== Sys2Proof/Machine/Ports.lean ====
section
/-! DEFINITION. The port part of family 0x0C (17 R436) and the events of the ports. -/
namespace Sys2Proof.Machine

/-- PHY types a port allows, and FEC a PHY allows (17 R421). -/
def phyOk (n phy : Nat) : Bool := if n < 96 then decide (phy ≤ 3) else phy == 3 || phy == 4
def fecOk (phy fec : Nat) : Bool := if phy ≤ 2 then fec == 0 else if phy = 3 then decide (fec ≤ 1) else decide (fec ≤ 2)

/-- Does the quad of a port forbid a line rate: another enabled port runs another one, or the pair link or Stratus holds
the quad (17 R421, R424; log entry 36)? -/
def State.lineRateClash (s : State) (n phy : Nat) (enable : Bool) : Bool :=
  let others := (quadPorts n).filter (· != n)
  (enable && others.any (fun q => (s.port q).enable && lineRate (s.port q).phy != lineRate phy)) ||
    (others.any (fun q => s.portRole q != 0) && lineRate phy != 4)

/-- SET_PORT (0x0C20). -/
def cardSetPort : Card where
  opcode := 0x0C20
  level := .m
  len := .exact 5
  most _ _ := 1
  reserved p := orElseOpt (reservedBits p [(6, 0xFC), (7, 0xF0)]) (firstNonzero p [(0x10, 4)])
  params _ c :=
    let p := c.params
    let tx := bit (byteAt p 6) 1
    firstBad [(0, decide (byteAt p 0 ≤ 127)), (1, decide (byteAt p 1 ≤ 1)), (2, phyOk (byteAt p 0) (byteAt p 2)),
      (3, fecOk (byteAt p 2) (byteAt p 3)), (4, u16 p 4 == 0 || (decide (1518 ≤ u16 p 4) && decide (u16 p 4 ≤ 9018))),
      (8, tx || u32 p 8 == 0), (0xC, if tx then decide (u32 p 0xC > u32 p 8) else u32 p 0xC == 0)]
  run s c :=
    let p := c.params
    let n := byteAt p 0
    let phy := byteAt p 2
    let on := byteAt p 1 == 1
    let old := s.port n
    if !s.isSwitchPort n then .wrong 1
    else if s.lineRateClash n phy on then .wrong 4
    else
      match (if rate10 phy = rate10 old.phy then none else s.expressFailOn n (s.swp n).lastGate phy) with
      | some (code, pub) => .err stNoResource code (le 2 pub ++ zeros 2)
      | none =>
        let retrain := !on || !old.enable || phy != old.phy || byteAt p 3 != old.fec
        let s := if retrain then s.leaveUp n (if on then .down else .disabled) false false else s
        let a := byteAt p 6
        let b := byteAt p 7
        let again := old.preempt != bit b 0 || old.verifyOff != bit b 1
        let s := s.modPort n (fun q => { q with
          enable := on, phy := phy, fec := byteAt p 3, maxFrame := if u16 p 4 = 0 then 1522 else u16 p 4,
          pauseRx := bit a 0, pauseTx := bit a 1, preempt := bit b 0, verifyOff := bit b 1, addFrag := bitsOf b 2 2,
          xoff := u32 p 8, xon := u32 p 0xC,
          rxForce := if phy = 0 && !retrain then q.rxForce && bit a 0 else bit a 0,
          txForce := if phy = 0 && !retrain then q.txForce && bit a 1 else bit a 1 })
        .ok (if s.portUp n && again then s.startVerify n else s) []

def execSetPort (dt : Nat) (c : Cmd) (s : State) : Host.Outcome State Fault Refusal := runCard cardSetPort dt c s

def PreemptSt.code : PreemptSt → Nat
  | .off => 0
  | .verifying => 1
  | .active => 2
  | .failed => 3

def portReserved (p : Bytes) : Option Nat := firstNonzero p [(1, 3)]
def portRange (c : Cmd) : Option Nat := firstBad [(0, decide (byteAt c.params 0 ≤ 127))]

/-- GET_PORT_STATUS (0x0C21). -/
def cardGetPortStatus : Card where
  opcode := 0x0C21
  level := .r
  changes := false
  len := .exact 1
  most _ _ := 4
  reserved := portReserved
  params _ := portRange
  run s c :=
    let n := byteAt c.params 0
    let p := s.port n
    let held := match p.pauseTo with
      | some t => decide (s.now < t)
      | none => false
    .ok s (le 1 p.st.code ++ le 1 p.phy ++ le 1 p.fec ++ le 1 (bitsNat [p.rxForce, p.txForce, p.mismatch, p.remote, held]) ++
      le 1 p.verify.code ++ le 1 (s.portRole n) ++ le 2 p.threshold ++ le 2 p.maxFrame ++ zeros 2)

def execGetPortStatus (dt : Nat) (c : Cmd) (s : State) : Host.Outcome State Fault Refusal := runCard cardGetPortStatus dt c s

/-- GET_PORT_COUNTERS (0x0C22). -/
def cardGetPortCounters : Card where
  opcode := 0x0C22
  level := .r
  changes := false
  len := .exact 1
  most _ _ := 29
  reserved p := orElseOpt (reservedBits p [(1, 0xFE)]) (firstNonzero p [(2, 2)])
  params _ := portRange
  run s c :=
    let n := byteAt c.params 0
    let s := s.settleTx n
    let p := s.port n
    let d := le 8 p.rxOctets ++ le 8 p.txOctets ++ p.counters.flatMap (le 4)
    .ok (if bit (byteAt c.params 1) 0 then
      s.setPort n { p with rxOctets := 0, txOctets := 0, counters := List.replicate 24 0 } else s) d

def execGetPortCounters (dt : Nat) (c : Cmd) (s : State) : Host.Outcome State Fault Refusal :=
  runCard cardGetPortCounters dt c s

/-- I2C_TRANSFER (0x0C23): a transfer joins its master's queue (17 R435). -/
def cardI2cTransfer : Card where
  opcode := 0x0C23
  level := .m
  changes := false
  len := .form 3 19 (fun p => 3 + ceilDiv (byteAt p 8) 4)
  most _ _ := 34
  reserved p := firstNonzero p [(0xA, 2), (0xC + byteAt p 8, (4 - byteAt p 8 % 4) % 4)]
  params _ c :=
    let p := c.params
    firstBad [(0, decide (byteAt p 0 ≤ 3)), (1, decide (byteAt p 1 ≤ 1)), (2, decide (byteAt p 2 ≤ 2)),
      (3, decide (8 ≤ byteAt p 3) && decide (byteAt p 3 ≤ 0x77)), (4, decide (byteAt p 2 ≥ 1) || u16 p 4 == 0),
      (6, byteAt p 2 == 2 || u16 p 6 == 0), (8, decide (byteAt p 8 ≤ 64) && (byteAt p 8 != 0 || byteAt p 9 != 0)),
      (9, decide (byteAt p 9 ≤ 128))]
  run s c :=
    let m := byteAt c.params 0
    let q := s.i2c.getD m {}
    .accepted { s with i2c := s.i2c.put m { q with queue := q.queue ++ [(c.chan, c.seq)] } } (.i2c m) false none

def execI2cTransfer (dt : Nat) (c : Cmd) (s : State) : Host.Outcome State Fault Refusal := runCard cardI2cTransfer dt c s

/-! ### Events -/

/-- What a transfer drives on its bus: multiplexer bytes, then address and data (17 R435). -/
def i2cBytes (p : Bytes) : Bytes :=
  (if byteAt p 2 ≥ 1 then slice p 4 2 else []) ++ (if byteAt p 2 ≥ 2 then slice p 6 2 else []) ++ slice p 3 1 ++
    slice p 0xC (byteAt p 8)

/-- I2C_TRANSFER_COMPLETE (17 R435): the transfer at the head of a master ends with a RESULT code and the bytes read. -/
def execI2cTransferComplete (dt master result : Nat) (data : Bytes) (s : State) : Host.Outcome State Fault Refusal :=
  let s := s.advance dt
  let q := s.i2c.getD master {}
  match q.queue with
  | [] => .next s
  | (chan, seq) :: rest =>
    let s := { s with i2c := s.i2c.put master { q with queue := rest } }
    match s.cmd.accepted.find? (fun a => a.cmd.chan == chan && a.cmd.seq == seq) with
    | none => .next s
    | some a =>
      let d := data.take (byteAt a.cmd.params 9)
      .next ((s.emit (.i2c master (i2cBytes a.cmd.params))).setResult chan seq
        (stOk, 0, le 1 result ++ le 1 d.length ++ zeros 2 ++ padWord d))

/-- PAUSE_RECEIVED (17 R428, R429). -/
def execPauseReceived (dt port quanta : Nat) (s : State) : Host.Outcome State Fault Refusal :=
  let s := s.advance dt
  if port ≥ 128 ∨ !s.portUp port then .next s
  else
    let s := s.portCount port 9
    let p := s.port port
    .next (if !p.rxForce then s
      else s.setPort port { p with
        pauseTo := if quanta = 0 then none else some (s.now + ceilDiv (qNs * quanta * 5120) (rate10 p.phy)) })

/-- PAUSE_EXPIRY (17 R429). -/
def execPauseExpiry (dt port : Nat) (s : State) : Host.Outcome State Fault Refusal :=
  let s := s.advance dt
  .next (match (s.port port).pauseTo with
    | some t => if s.now ≥ t then s.modPort port (fun p => { p with pauseTo := none }) else s
    | none => s)

/-- PAUSE_REPEAT (17 R430): while the pool stays below XON_CELLS. -/
def execPauseRepeat (dt port : Nat) (s : State) : Host.Outcome State Fault Refusal :=
  let s := (s.advance dt).checkPause
  .next (if (s.port port).pausing && s.portUp port then
    (s.portCount port 17).emit (.frame port s.now
      (padFrame (be 6 0x0180C2000001 ++ be 6 Config.sourceMac.toNat ++ be 2 0x8808 ++ be 2 1 ++ be 2 0xFFFF)) true)
    else s)

/-- PREEMPT_VERIFY (17 R433): a verify packet is answered; the answer to the port's own verification makes preemption
ACTIVE. -/
def execPreemptVerify (dt port : Nat) (response : Bool) (s : State) : Host.Outcome State Fault Refusal :=
  let s := s.advance dt
  let p := s.port port
  if port ≥ 128 ∨ !s.portUp port ∨ !p.preempt then .next s
  else if !response then .next (s.emit (.mpacket port 0x19))
  else if p.verify = .verifying then .next (s.setPort port { p with verify := .active })
  else .next s

/-- PREEMPT_VERIFY_TIMEOUT (17 R433): 10 ms without an answer, up to 3 attempts. -/
def execPreemptVerifyTimeout (dt port : Nat) (s : State) : Host.Outcome State Fault Refusal :=
  let s := s.advance dt
  let p := s.port port
  if p.verify != .verifying || !s.portUp port || !s.tb3Passed p.verifyAt 10000 then .next s
  else if p.attempts ≥ 3 then .next (s.setPort port { p with verify := .failed })
  else .next ((s.setPort port { p with attempts := p.attempts + 1, verifyAt := s.tb3 }).emit (.mpacket port 0x07))

/-- Pause in force after Clause 37 (IEEE 802.3 Table 28B-3): the partner's PAUSE and ASM_DIR abilities in bits 0 and 1,
the port's own settings (17 R422; log entry 34). -/
def resolvePause (rx tx : Bool) (partner : Nat) : Bool × Bool :=
  let p := rx
  let a := rx != tx
  if p && bit partner 0 then (rx, tx)
  else if !p && a && bit partner 0 && bit partner 1 then (false, true)
  else if p && a && !bit partner 0 && bit partner 1 then (true, false)
  else (false, false)

/-- PORT_LINK_UP (17 R422, R425): lock held for 10 ms; `pause` is what Clause 37 learned of the partner, `speedOk` whether
an SGMII PHY reports 1 Gb/s. Without a system reference the links are held down (15 R382). -/
def execPortLinkUp (dt port pause : Nat) (speedOk : Bool) (s : State) : Host.Outcome State Fault Refusal :=
  let s := s.advance dt
  let p := s.port port
  if port ≥ 128 ∨ p.st ≠ .down ∨ s.clocks.refSt = .unreferenced ∨ !s.clocks.quadLock.getD (port / 4) true then .next s
  else if p.phy = 1 ∧ !speedOk then .next (s.setPort port { p with mismatch := true })
  else
    let f := if p.phy = 0 then resolvePause p.pauseRx p.pauseTx pause else (p.pauseRx, p.pauseTx)
    let s := s.setPort port { p with st := .up, mismatch := false, remote := false, rxForce := f.1, txForce := f.2 }
    .next ((s.postC 0x0C01 4 (le 2 port ++ le 1 1 ++ le 1 2)).startVerify port)

/-- PORT_LINK_DOWN (17 R425, R426): `receiving` a frame then, `remote` a received fault. -/
def execPortLinkDown (dt port : Nat) (receiving remote : Bool) (s : State) : Host.Outcome State Fault Refusal :=
  let s := s.advance dt
  if port ≥ 128 ∨ !s.portUp port then .next s
  else
    let s := (s.leaveUp port .down false receiving).portCount port 22
    .next (((s.modPort port (fun p => { p with remote := remote })).postC 0x0C01 4 (le 2 port ++ le 1 2 ++ le 1 1)).raiseInt 142)

end Sys2Proof.Machine
end

