-- ==== Sys2Proof/Machine/Programs.lean ====
section
/-! DEFINITION. The programs family (08 R229, R230) and the completion of an on-line change (R227). -/
namespace Sys2Proof.Machine

/-! ### Images -/

def imageOwner (s : State) (p : Bytes) : Option Nat := (s.prog.images.get (u32 p 0)).map (·.owner)

/-- A refusal of a chunk's own parameters: the result word is all ones. -/
def badChunk (off : Nat) : CardOut := .err stBadParameter off (le 4 0xFFFFFFFF)

/-- The container is complete: CRC, then R212. A refused one is discarded. -/
def State.finishImage (s : State) (id : Nat) (im : FnImage) : CardOut :=
  let b := im.got.map (·.2)
  let gone := { s with prog.images := s.prog.images.del id }
  if crc32c (b.take (im.total - 4)) ≠ u32 b (im.total - 4) then .errWith gone stIntegrity 1 []
  else
    match imgFault b id im.total with
    | some o => .errWith gone stBadParameter (min o 0xFFFF) (le 4 o)
    | none => .ok { s with prog.images := s.prog.images.put id { im with loaded := true, bytes := b, got := [] } } []

def loadImageRun (s : State) (c : Cmd) : CardOut :=
  let p := c.params
  let id := u32 p 0
  let off := u32 p 4
  let total := u32 p 8
  let chunk := p.drop 0x0C
  let used : Nat := (s.prog.images.map (fun e => e.2.total)).foldl (· + ·) 0
  if id = 0 || id == 0xFFFFFFFF then badChunk 0
  else if off % 4 ≠ 0 || off + chunk.length > total then badChunk 4
  else if total % 4 ≠ 0 || total < 0x44 || total > 67108864 then badChunk 8
  else
    let step (im : FnImage) : CardOut :=
      let im := { im with got := putChunk im.got off chunk }
      let t := { s with prog.images := s.prog.images.put id im }
      if im.got.length = total then t.finishImage id im else .ok t []
    match s.prog.images.get id with
    | some im =>
      if im.loaded then .wrong 9
      else if im.total ≠ total then badChunk 8
      else step im
    | none =>
      if s.prog.images.length ≥ 1024 || used + total > 67108864 then .noRes 9
      else step { owner := c.inst, total := total, got := [], loaded := false, bytes := [] }

/-- LOAD_IMAGE (0x0301). -/
def cardLoadImage : Card where
  opcode := 0x0301
  level := .o
  len := .range 4 1019
  most _ _ := 2
  owner := imageOwner
  run := loadImageRun

def execLoadImage (dt : Nat) (c : Cmd) (s : State) : Host.Outcome State Fault Refusal := runCard cardLoadImage dt c s

/-- Does a declared instance or the change name an image? -/
def State.imageUsed (s : State) (id : Nat) : Bool :=
  s.place.insts.any (fun p => p.2.image == id || p.2.newImage == some id) || s.prog.change.entries.any (fun e => match e with
    | .replace _ i => i == id
    | _ => false)

/-- FREE_IMAGE (0x0302). -/
def cardFreeImage : Card where
  opcode := 0x0302
  level := .o
  len := .exact 1
  owner := imageOwner
  run s c :=
    let id := u32 c.params 0
    match s.prog.images.get id with
    | none => .wrong 2
    | some im =>
      if im.loaded && s.imageUsed id then .wrong 9
      else .ok { s with prog.images := s.prog.images.del id } []

def execFreeImage (dt : Nat) (c : Cmd) (s : State) : Host.Outcome State Fault Refusal := runCard cardFreeImage dt c s

/-! ### Signals, start, stop -/

def fiTarget (_ : State) (p : Bytes) : Option Nat := some (u16 p 0)

/-- BIND_SIGNALS (0x0303). -/
def cardBindSignals : Card where
  opcode := 0x0303
  level := .o
  len := .form 2 1002 (fun p => 2 + ceilDiv (u16 p 6) 2)
  owner := fiOwner
  target := fiTarget
  reserved p := firstNonzero p [(8 + 2 * u16 p 6, 2 * (u16 p 6 % 2))]
  params s c :=
    let p := c.params
    let n := u16 p 2
    firstBad [fiRange p,
      (2, match s.inst (u16 p 0) with
        | some x => n == imgNSig (s.imageD x.image)
        | none => true),
      (4, decide (u16 p 4 < n)),
      (6, decide (1 ≤ u16 p 6) && decide (u16 p 6 ≤ 2000) && decide (u16 p 4 + u16 p 6 ≤ n))]
  run s c :=
    let p := c.params
    let fi := u16 p 0
    let first := u16 p 4
    match s.inst fi with
    | none => .wrong 1
    | some x =>
      if x.isRunning then .wrong 3
      else if s.inChange fi then .wrong 4
      else if first ≠ 0 && (x.binds = [] || x.bindN != u16 p 2) then .wrong 0x0C
      else if !x.isPlaced then .wrong 0x0F
      else
        let old : Tab Nat := if first = 0 then [] else x.binds
        let new := (List.range (u16 p 6)).foldl (fun (t : Tab Nat) i => t.put (first + i) (u16 p (8 + 2 * i))) old
        .ok (s.setInst fi { x with bindN := u16 p 2, binds := new }) []

def execBindSignals (dt : Nat) (c : Cmd) (s : State) : Host.Outcome State Fault Refusal := runCard cardBindSignals dt c s

/-- Are an instance's signals bound (R213)? -/
def State.signalsBound (s : State) (x : Inst) : Bool :=
  imgNSig (s.imageD x.image) == 0 || x.binds.length == imgNSig (s.imageD x.image)

/-- PUB_DELAY in range: 0, or whole ns from the minimum to the minimum plus the cycle (R204). -/
def pubDelayOk (cycle d : Nat) : Bool :=
  d == 0 || (decide (ceilDiv (dMin cycle) qNs ≤ d) && decide (d ≤ (dMin cycle + cycle * qTick) / qNs))

/-- May the instance start in this mode (R217)? -/
def Inst.mayStart (x : Inst) (m : StartMode) : Bool :=
  x.run == .stopped || (m != .resume && (x.run == .ready || x.run == .faulted))

/-- Parameters with an 8-byte tick at offset `o` replaced. -/
def withTick (p : Bytes) (o tick : Nat) : Bytes := p.take o ++ le 8 tick ++ p.drop (o + 8)

/-- Parameters whose tick at offset `o` selects a latch of the FI they name, made absolute (12 R311). -/
def absoluteLatch (o : Nat) (s _t : State) (c : Cmd) : Bytes :=
  match s.inst (u16 c.params 0) with
  | none => c.params
  | some x =>
    match s.resolveLatch x (u64 c.params o) c.own with
    | some n => withTick c.params o n
    | none => c.params

def startRun (s : State) (c : Cmd) : CardOut :=
  let p := c.params
  let fi := u16 p 0
  let m := startMode (byteAt p 2)
  let d := u32 p 0x0C
  match s.inst fi with
  | none => .wrong 1
  | some x =>
    if !x.mayStart m then .wrong 3
    else if s.inChange fi then .wrong 4
    else if m = .warm && !bit (byteAt p 3) 0 && (s.warmRecord fi x.image).isNone then .wrong 5
    else if !s.signalsBound x then .wrong 0x0C
    else
      match s.resolveLatch x (u64 p 4) c.own with
      | none => .wrong 0x0D
      | some n =>
        if !s.ptValid then .wrong 0x0E
        else if !x.isPlaced then .wrong 0x0F
        else if s.retainFull fi x.image then .noRes 0x0A
        else
          let t := if m = .resume then s else s.setInst fi { x with pubDelay := d }
          let drives := s.pub.pubs.any (fun q => q.2.enabled && q.2.cls == 0 && q.2.driver == fi)
          match if drives && m != .resume && d != x.pubDelay then t.expressFail else none with
          | some (code, pub) => .err stNoResource code (le 2 pub ++ zeros 2)
          | none => .ok (t.beginStart fi m n) (le 8 n)

/-- START_INSTANCE (0x0304). -/
def cardStartInstance : Card where
  opcode := 0x0304
  level := .o
  len := .exact 4
  most s c := if (s.inst (u16 c.params 0)).isSome then 3 else 1
  owner := fiOwner
  target := fiTarget
  reserved p := reservedBits p [(3, 0xFE)]
  params s c :=
    let p := c.params
    firstBad [fiRange p, (2, decide (byteAt p 2 ≤ 2)), (3, !bit (byteAt p 3) 0 || byteAt p 2 == 1),
      (0x0C, byteAt p 2 == 2 || match s.inst (u16 p 0) with
        | some x => pubDelayOk x.cycle (u32 p 0x0C)
        | none => true)]
  absolute := absoluteLatch 4
  run := startRun

def execStartInstance (dt : Nat) (c : Cmd) (s : State) : Host.Outcome State Fault Refusal := runCard cardStartInstance dt c s

/-- STOP_INSTANCE (0x0305). -/
def cardStopInstance : Card where
  opcode := 0x0305
  level := .o
  len := .exact 3
  most s c := if (s.inst (u16 c.params 0)).isSome then 3 else 1
  owner := fiOwner
  target := fiTarget
  reserved p := firstNonzero p [(2, 2)]
  params _ c := firstBad [fiRange c.params]
  absolute := absoluteLatch 4
  run s c :=
    let fi := u16 c.params 0
    match s.inst fi with
    | none => .wrong 1
    | some x =>
      if x.run != .starting && x.run != .running then .wrong 3
      else if s.inChange fi then .wrong 4
      else if x.run = .starting then
        .ok ((s.setInst fi { x with run := x.prevRun, nextTick := 0 }).writeSettings fi (tickAtOrAfter s.now) true) (le 8 x.nextTick)
      else
        match s.resolveLatch x (u64 c.params 4) c.own with
        | none => .wrong 0x0D
        | some n => .ok (s.setInst fi { x with run := .stopping, nextTick := n }) (le 8 n)

def execStopInstance (dt : Nat) (c : Cmd) (s : State) : Host.Outcome State Fault Refusal := runCard cardStopInstance dt c s

/-! ### WRITE_SETTINGS -/

/-- LENGTH of WRITE_SETTINGS as its fields give it. -/
def settingsLen (p : Bytes) : Option Nat :=
  if p.length < 4 then none else (settingEntries p (min (u16 p 2) 1024) 0x0C).map (fun r => ceilDiv r.2 4)

def writeSettingsRun (s : State) (c : Cmd) : CardOut :=
  let p := c.params
  let fi := u16 p 0
  let es := settingsOf p
  let value (e : Nat × Nat × Nat) : Bytes := slice p (e.1 + 4) e.2.2
  match s.inst fi with
  | none => .wrong 1
  | some x =>
    if (x.isRunning && es.length != 1) || !x.isPlaced then .wrong 3
    else if s.inChange fi then .wrong 4
    else if !es.all (fun e => (imgSettings (s.imageD x.image)).contains (e.2.1, e.2.2)) then .wrong 8
    else if x.isRunning then
      match s.resolveLatch x (u64 p 4) c.own, es with
      | some n, e :: _ =>
        let w : SetWrite := { offset := e.2.1, value := value e, tick := n, origin := c.inst }
        let t := s.setInst fi { x with setWrites := x.setWrites ++ [w] }
        if boundaryQ n > s.now + 1000000 * qNs then .accepted t (.settings fi n) true none else .later t (.settings fi n)
      | _, _ => .wrong 0x0D
    else
      let t := es.foldl (fun s e =>
        (s.writeDataAll x e.2.1 (value e)).post 0x0303 (le 2 fi ++ le 2 e.2.1 ++ le 2 e.2.2 ++ le 8 0)) s
      .ok (t.snapStill fi) []

/-- WRITE_SETTINGS (0x0306). -/
def cardWriteSettings : Card where
  opcode := 0x0306
  level := .o
  len := .walk 1019 settingsLen
  owner := fiOwner
  target := fiTarget
  reserved p := firstNonzero p (settingPad p)
  params s c :=
    let p := c.params
    orElseOpt (firstBad [fiRange p, (2, decide (1 ≤ u16 p 2) && decide (u16 p 2 ≤ 64)),
      (4, u64 p 4 == 0 || match s.inst (u16 p 0) with
        | some x => x.isRunning
        | none => true)])
      (firstBad ((settingsOf p).map (fun e => (e.1 + 2, decide (1 ≤ e.2.2) && decide (e.2.2 ≤ 64)))))
  absolute s t c :=
    match s.inst (u16 c.params 0) with
    | some x => if x.isRunning then absoluteLatch 4 s t c else c.params
    | none => c.params
  run := writeSettingsRun

def execWriteSettings (dt : Nat) (c : Cmd) (s : State) : Host.Outcome State Fault Refusal := runCard cardWriteSettings dt c s

/-! ### On-line change -/

def stageRanges (p : Bytes) : Option Nat :=
  let op := byteAt p 0
  let entry := decide (1 ≤ op) && decide (op ≤ 4)
  firstBad [
    (0, decide (op ≤ 5)),
    (2, if entry then decide (1 ≤ u16 p 2) && decide (u16 p 2 ≤ 4095) else u16 p 2 == 0),
    (4, if op = 1 then u32 p 4 != 0 && u32 p 4 != 0xFFFFFFFF else u32 p 4 == 0),
    (8, op == 4 || u16 p 8 == 0),
    (0x0A, if op = 4 then decide (1 ≤ u16 p 0x0A) && decide (u16 p 0x0A ≤ 64) else u16 p 0x0A == 0)]

/-- The entry that a STAGE_CHANGE adds. -/
def stageEntryOf (p : Bytes) : ChangeEntry :=
  let fi := u16 p 2
  match byteAt p 0 with
  | 1 => .replace fi (u32 p 4)
  | 2 => .add fi
  | 3 => .remove fi
  | _ => .setting fi (u16 p 8) (slice p 0x0C (u16 p 0x0A))

def stageRun (s : State) (c : Cmd) : CardOut :=
  let p := c.params
  let ch := s.prog.change
  let fi := u16 p 2
  match byteAt p 0 with
  | 0 =>
    if ch.st != .none then .wrong 0x0B
    else .ok { s with prog.change := { st := .open_, failFi := ch.failFi, failSt := ch.failSt } } []
  | 5 =>
    if ch.st != .open_ then .wrong 0x0A
    else .accepted ({ s with prog.change.st := .staging }.tellNodes 0x0307 (le 1 5 ++ zeros 11)) .stage false none
  | op =>
    let named := ch.entries.any (fun e => match e with
      | .setting .. => false
      | e => e.fi == fi)
    if (s.inst fi).isNone then .wrong 1
    else if op = 1 && (s.image (u32 p 4)).isNone then .wrong 2
    else if op ≠ 4 && named then .wrong 4
    else if ch.st != .open_ then .wrong 0x0A
    else if ch.entries.length ≥ 4095 then .noRes 0x0B
    else .ok { s with prog.change.entries := ch.entries ++ [stageEntryOf p] } []

/-- STAGE_CHANGE (0x0307). -/
def cardStageChange : Card where
  opcode := 0x0307
  level := .m
  len := .form 3 19 (fun p => if byteAt p 0 = 4 then 3 + ceilDiv (u16 p 0x0A) 4 else 3)
  most _ _ := 2
  reserved p := firstNonzero p [(1, 1), (0x0C + u16 p 0x0A, (4 - u16 p 0x0A % 4) % 4)]
  params _ c := stageRanges c.params
  target _ p := if 1 ≤ byteAt p 0 ∧ byteAt p 0 ≤ 4 then some (u16 p 2) else none
  run := stageRun

def execStageChange (dt : Nat) (c : Cmd) (s : State) : Host.Outcome State Fault Refusal := runCard cardStageChange dt c s

/-- The switch instant that SWITCH_TICK selects (R223); one resolved elsewhere has only to lie ahead (12 R311). -/
def State.resolveSwitch (s : State) (tick : Nat) (own : Bool) : Option Nat :=
  if tick = 0 then some (tickAtOrAfter (s.now + 2000000 * qNs))
  else if boundaryQ tick ≥ s.now + (if own then 2000000 * qNs else 1) then some tick else none

/-- An ADD instance starts cold at its switch latch (R221). -/
def State.startAdded (s : State) (n fi : Nat) : State :=
  s.modInst fi (fun x => { x with run := .starting, prevRun := .ready, lastMode := some .cold, mode := .cold,
                                  nextTick := x.latchFrom n, restart := false })

/-- SWITCH_CHANGE (0x0308). -/
def cardSwitchChange : Card where
  opcode := 0x0308
  level := .m
  len := .exact 2
  most _ _ := 3
  absolute s _ c := match s.resolveSwitch (u64 c.params 0) c.own with
    | some n => withTick c.params 0 n
    | none => c.params
  run s c :=
    if s.prog.change.st != .staged || s.prog.change.tick != 0 then .wrong 0x0A
    else
      match s.resolveSwitch (u64 c.params 0) c.own with
      | none => .wrong 0x0D
      | some n =>
        let t := s.added.foldl (fun s fi => s.startAdded n fi) { s with prog.change.tick := n }
        .accepted (t.tellNodes 0x0308 (le 8 n)) .switch true none

def execSwitchChange (dt : Nat) (c : Cmd) (s : State) : Host.Outcome State Fault Refusal := runCard cardSwitchChange dt c s

/-- CANCEL_CHANGE (0x0309). A pending SWITCH_CHANGE then reports that there is no change. -/
def cardCancelChange : Card where
  opcode := 0x0309
  level := .m
  len := .exact 0
  run s _ :=
    let ch := s.prog.change
    if ch.st = .none then .wrong 0x0A
    else if ch.st = .staging || (ch.tick != 0 && decide (boundaryQ ch.tick ≤ s.now + 100000 * qNs)) then .wrong 3
    else .ok (s.unstage.dropParts.finishWait .switch (stWrongState, 0x0A, [])) []

def execCancelChange (dt : Nat) (c : Cmd) (s : State) : Host.Outcome State Fault Refusal := runCard cardCancelChange dt c s

/-- CHANGE_COMPLETION: after the switch instant, REMOVE instances in their safe values go, and once nothing is left to wait
for, the change completes (R227). -/
def execChangeCompletion (dt : Nat) (s : State) : Host.Outcome State Fault Refusal :=
  let s := s.advance dt
  if !s.switched s.tickNow then .next s
  else
    let s := s.removeDone
    .next (if s.changeDone && !s.partsOut then s.completeChange else s)

/-- GET_RUN_STATE (0x030A). -/
def cardGetRunState : Card where
  opcode := 0x030A
  level := .r
  changes := false
  len := .exact 1
  most s c := if (s.inst (u16 c.params 0)).isSome then 11 else 1
  reserved p := firstNonzero p [(2, 2)]
  params _ c := firstBad [fiRange c.params]
  run s c :=
    let fi := u16 c.params 0
    match s.inst fi with
    | none => .wrong 1
    | some x =>
      .ok s (le 2 fi ++ le 1 x.run.code ++ le 1 ((x.lastMode.map StartMode.code).getD 0xFF) ++ le 4 x.image ++
        le 4 (x.pubQ / qNs) ++ le 8 x.cycleNo ++ le 8 x.nextTick ++ le 8 (((s.prog.retained.get fi).map (·.tick)).getD 0) ++
        le 1 x.faultCode ++ zeros 3)

def execGetRunState (dt : Nat) (c : Cmd) (s : State) : Host.Outcome State Fault Refusal := runCard cardGetRunState dt c s

/-- STATE of GET_CHANGE: SWITCHING from the switch instant on. -/
def State.changeCode (s : State) : Nat :=
  match s.prog.change.st with
  | .none => 0
  | .open_ => 1
  | .staging => 2
  | .staged => if s.switched s.tickNow then 4 else 3

/-- GET_CHANGE (0x030B). -/
def cardGetChange : Card where
  opcode := 0x030B
  level := .r
  changes := false
  len := .exact 0
  most _ _ := 5
  run s _ :=
    let ch := s.prog.change
    .ok s (le 1 s.changeCode ++ zeros 1 ++ le 2 ch.entries.length ++ le 8 ch.tick ++ le 2 ch.failFi ++ le 2 ch.failSt)

def execGetChange (dt : Nat) (c : Cmd) (s : State) : Host.Outcome State Fault Refusal := runCard cardGetChange dt c s

end Sys2Proof.Machine
end

