-- ==== Sys2Proof/Machine/SubOps.lean ====
section
/-! DEFINITION. GOOSE subscriptions: decoding, checks, acceptance (09 R245 to R249) and ordered delivery (16 R416). -/
namespace Sys2Proof.Machine

/-- A decoded GOOSE APDU. -/
structure Goose where
  tal   : Nat
  stNum : Nat
  sqNum : Nat
  sim   : Bool
  rev   : Nat
  nds   : Bool
  n     : Nat
  data  : List (Nat × Bytes)
  deriving DecidableEq, Repr

/-- An unsigned field of at most 32 bits. -/
def berU32 (p : Bytes) : Option Nat :=
  if p = [] ∨ p.length > 5 ∨ beNat p ≥ 2 ^ 32 then none else some (beNat p)

def berBool (p : Option Bytes) : Bool := (p.map (fun b => beNat b != 0)).getD false

def gooseParse (apdu : Bytes) : Option Goose :=
  match berAll apdu with
  | some [(0x61, q)] =>
    match berAll q with
    | none => none
    | some l =>
      let num (tag : Nat) : Option Nat := (berGet l tag).bind berU32
      match num 0x81, num 0x85, num 0x86, num 0x88, num 0x8A, (berGet l 0xAB).bind berAll with
      | some tal, some st, some sq, some rev, some n, some d =>
        if (berGet l 0x80).isNone ∨ (berGet l 0x82).isNone ∨ ((berGet l 0x84).map (·.length)) ≠ some 8 then none
        else some { tal := tal, stNum := st, sqNum := sq, sim := berBool (berGet l 0x87), rev := rev,
                    nds := berBool (berGet l 0x89), n := n, data := d }
      | _, _, _, _, _, _ => none
  | _ => none

/-- An entry's value, if the element is of its declared type (R236; type 0 takes any). -/
def decodeEntry (type : Nat) (e : Nat × Bytes) : Option Nat :=
  match type with
  | 0 => some 0
  | 1 => if e.1 = 0x83 ∧ e.2.length = 1 then some (boolNat (beNat e.2 != 0)) else none
  | 2 =>
    let v := toSigned (8 * e.2.length) (beNat e.2)
    if e.1 = 0x85 ∧ 1 ≤ e.2.length ∧ e.2.length ≤ 5 ∧ -(2 ^ 31 : Int) ≤ v ∧ v < 2 ^ 31 then some (ofSigned 32 v) else none
  | 3 => if e.1 = 0x87 ∧ e.2.length = 5 ∧ byteAt e.2 0 = 8 then some (be32 e.2 1) else none
  | _ => if e.1 = 0x84 ∧ e.2.length = 3 ∧ byteAt e.2 0 = 3 then some (be16 e.2 1 / 8 * 8) else none

def decodeEntries : List (Nat × Nat) → List (Nat × Bytes) → Option (List Nat)
  | [], [] => some []
  | t :: ts, e :: es =>
    match decodeEntry t.2 e, decodeEntries ts es with
    | some v, some l => some (v :: l)
    | _, _ => none
  | _, _ => none

def State.setSub (s : State) (n : Nat) (x : Subscription) : State := { s with pub.subs := s.pub.subs.put n x }

/-- Counts one of the nine counters of GET_SUBSCRIPTION. -/
def Subscription.count (x : Subscription) (i : Nat) : Subscription := { x with counters := modAt x.counters i inc32 }

/-- May the value of an entry be VALID: its QUALITY companion, if it has one, reads good, and its test bit is clear or allowed
(R248). -/
def Subscription.good (x : Subscription) (values : List Nat) (sig : Nat) : Bool :=
  match (List.zip x.entries values).find? (fun e => e.1.2 == 4 && e.1.1 == sig) with
  | none => true
  | some (_, q) => decide (q / 0x4000 % 4 = 0) && (!bit q 4 || x.accTest)

/-- The signals of a subscription take the values of a frame, visible from the cutoff on (R248). -/
def State.driveSub (s : State) (x : Subscription) (values : List Nat) (ta : Nat) : State :=
  (List.zip x.entries values).foldl (fun s e =>
    if e.1.2 = 0 || e.1.2 = 4 then s
    else s.setSignal e.1.1 (ta + 2000 * qNs) e.2 (boolNat (x.good values e.1.1))) s

/-- An accepted frame is the last arrival (R247); arrivals older than 1 ms are kept only as far as the newest of them. -/
def Subscription.arrived (x : Subscription) (ta tal : Nat) : Subscription :=
  let fresh := x.arrivals.filter (fun a => decide (a.1 + 1000000 * qNs > ta))
  let old := x.arrivals.filter (fun a => !decide (a.1 + 1000000 * qNs > ta))
  { x with arrivals := (ta, ta + tal * 1000000 * qNs) :: (fresh ++ old.take 1), st := .healthy }

/-- Check 5: the sequence (R247). -/
def State.gooseSequence (s : State) (n : Nat) (x : Subscription) (g : Goose) (values : List Nat) (ta : Nat) : State :=
  let fresh (x : Subscription) : State :=
    let x := ({ x with last := some (g.stNum, g.sqNum), values := values }).arrived ta g.tal
    (s.setSub n x).driveSub x values ta
  match x.last with
  | none => fresh x
  | some (st, sq) =>
    if g.stNum = 1 && g.sqNum = 0 then fresh (x.count 7)
    else
      let d := sdiff 32 g.stNum st
      let e := sdiff 32 g.sqNum sq
      if d > 0 then fresh (if d > 1 then x.count 5 else x)
      else if d = 0 ∧ e > 0 then
        let x := if values != x.values then x.count 6 else x
        s.setSub n (({ x with last := some (g.stNum, g.sqNum) }).arrived ta g.tal)
      else if d = 0 ∧ e = 0 then s.setSub n (x.count 4)
      else s.setSub n (x.count 3)

/-- A matched frame through the checks of R246. The `Bool` says that it passed checks 1 to 4. -/
def State.gooseChecks (s : State) (n : Nat) (x : Subscription) (e : Eth) (ta : Nat) : Bool × State :=
  if x.st = .disabled then (false, s)
  else
    let x := x.count 0
    let reject : Bool × State := (false, s.setSub n (x.count 2))
    match iecParse e.payload with
    | none => reject
    | some u =>
      match gooseParse u.apdu with
      | none => reject
      | some g =>
        match decodeEntries x.entries g.data with
        | none => reject
        | some values =>
          if g.nds || g.stNum == 0 || g.n != x.entries.length || ((g.sim || u.sim) && !x.accSim) then reject
          else if !tagPasses x.auth x.key u then (false, s.setSub n (x.count 1))
          else if g.rev ≠ x.confRev then reject
          else (true, s.gooseSequence n x g values ta)

/-- A frame is offered to the subscription it matches; one it accepts is marked in the consumer window (16 R415). `ta` in
2^-16 ns. -/
def State.gooseDeliver (s : State) (port ta : Nat) (r : Stripped) : State :=
  let e := ethParse r.frame
  if s.consumerSeen r then (match r.ent with
    | some n => s.entCount n 1
    | none => s)
  else
    match s.findSub port e with
    | none => s
    | some n =>
      match s.pub.subs.get n with
      | none => s
      | some x =>
        match s.gooseChecks n x e (9 * ta) with
        | (true, s) => s.consumerMark r
        | (false, s) => s

/-! ### Ordered delivery (16 R416) -/

/-- Are all numbers from `nx` up to, not including, `q` marked in a forward window? -/
def gapFree (w : SeqWin) (nx q : Nat) : Bool :=
  (List.range (sdiff 16 q nx).toNat).all (fun i => w.judge ((nx + i) % 65536) == SeqVerdict.duplicate)

/-- The held frame of a source with the lowest number, for the subscriptions. -/
def Entity.firstHeld (e : Entity) (src : Nat) : Option HeldFrame :=
  (sortBy (fun a b => decide (sdiff 16 a.seq b.seq ≤ 0)) (e.held.filter (fun h => h.goose && h.src == src))).head?

/-- Held frames of a source leave for the subscriptions while no number before them is missing. -/
def State.drainC (s : State) : Nat → Nat → Nat → State
  | 0, _, _ => s
  | fuel + 1, n, src =>
    let e := s.entity n
    match e.sources.get src, e.firstHeld src with
    | some x, some h =>
      if !gapFree x.fwd (x.nextC.getD h.seq) h.seq then s
      else
        let s := s.modEntity n (fun e => { e with held := e.held.filter (· != h) })
        let s := s.modSource n src (fun x => { x with nextC := some ((h.seq + 1) % 65536) })
        (s.gooseDeliver h.port h.ta { frame := h.bytes, ent := some n, src := src, seq := some h.seq }).drainC fuel n src
    | _, _ => s

/-- A GOOSE frame as the ports offer it (R245, 16 R394): delivered in the order of its source where HOLD_NS asks for it. -/
def State.gooseFrame (s : State) (port ta : Nat) (frame : Bytes) : State :=
  if !s.rxGood port frame || !s.isSwitchPort port then s
  else
    let r := s.redStrip port frame
    if (ethParse r.frame).etype != etGoose then s
    else
      match r.ent, r.seq with
      | some n, some q =>
        let t := s.entity n
        match t.sources.get r.src with
        | none => s.gooseDeliver port ta r
        | some x =>
          let nx := x.nextC.getD q
          if t.holdNs = 0 || sdiff 16 q nx < 0 then s.gooseDeliver port ta r
          else if !gapFree x.fwd nx q then
            let h : HeldFrame := { goose := true, port := port, seq := q, src := r.src, bytes := r.frame, ta := ta, at_ := visNs s.tb3 }
            (s.modEntity n (fun e => { e with held := e.held ++ [h] })).entCount n 5
          else
            let s := s.modSource n r.src (fun x => { x with nextC := some ((q + 1) % 65536) })
            (s.gooseDeliver port ta r).drainC 4096 n r.src
      | _, _ => s.gooseDeliver port ta r

/-- A frame that closes a gap lets the frames held behind it go to the subscriptions. -/
def State.drainAfter (s : State) (port : Nat) (frame : Bytes) : State :=
  let r := s.redStrip port frame
  match r.ent with
  | some n => s.drainC 4096 n r.src
  | none => s

end Sys2Proof.Machine
end

