-- ==== Sys2Proof/Machine/SwitchFwd.lean ====
section
/-! DEFINITION. Forwarding of received frames: VLANs, the forwarding table, meters, cut-through, rings (16 R395 to R417). -/
namespace Sys2Proof.Machine

/-! ### VLAN and forwarding tables -/

def State.member (s : State) (vid : Nat) : Nat := (s.sw.vlans.getD vid (0, 0)).1
def State.untag (s : State) (vid : Nat) : Nat := (s.sw.vlans.getD vid (0, 0)).2

def FdbEntry.isKey (e : FdbEntry) (mac vid : Nat) : Bool := e.mac == mac && e.vid == vid

/-- The entry of a key; a static one comes first (R397). -/
def State.fdbFind (s : State) (mac vid : Nat) : Option FdbEntry :=
  match s.sw.fdb.find? (fun e => e.isKey mac vid && e.static_) with
  | some e => some e
  | none => s.sw.fdb.find? (fun e => e.isKey mac vid)

/-- The entries in the bucket of a key (R398). Fewer than 8 entries fill no bucket. -/
def State.bucket (s : State) (mac vid : Nat) : List FdbEntry :=
  if s.sw.fdb.length < 8 then []
  else s.sw.fdb.filter (fun e => Config.fdbBucket e.mac e.vid == Config.fdbBucket mac vid)

/-- Learns (source, VID) on a port (R398). -/
def State.learn (s : State) (port mac vid : Nat) : State :=
  if !(s.swp port).learn || isMulticast mac then s
  else if s.sw.fdb.any (fun e => e.isKey mac vid && e.static_) then s
  else
    let e : FdbEntry := { mac := mac, vid := vid, static_ := false, ports := 2 ^ port, at_ := visNs s.tb3 }
    let rest := s.sw.fdb.filter (fun e => !e.isKey mac vid)
    if rest.length < s.sw.fdb.length then { s with sw.fdb := rest ++ [e] }
    else if (s.bucket mac vid).length ≥ 8 then s.swCount port 6
    else { s with sw.fdb := s.sw.fdb ++ [e] }

/-- Destination set before cases 3 and 4 are trimmed (R397). -/
def State.destBase (s : State) (dst vid : Nat) : Nat :=
  match s.fdbFind dst vid with
  | some e => e.ports
  | none =>
    bitsNat ((List.range 128).map (fun p => if isMulticast dst then (s.swp p).floodM else (s.swp p).floodU))

/-- The destination set of a frame: not the ingress port or its entity, within MEMBER, switch ports, no DAN entity's
(R397, R412). -/
def State.destSet (s : State) (inPort dst vid : Nat) : List Nat :=
  let set := s.destBase dst vid
  let m := s.member vid
  let from_ := s.portEntity inPort
  (bitList 128 set).filter (fun p =>
    bit m p && p != inPort && s.isSwitchPort p &&
    (match s.portEntity p with
     | none => true
     | some n => some n != from_ && (s.entity n).redbox &&
       (p == (s.entity n).a || !(bit set (s.entity n).a && bit m (s.entity n).a))))

/-! ### Meters (R401) -/

inductive Colour where
  | green
  | yellow
  | red
  deriving DecidableEq, Repr

/-- A frame of `b` bytes (with FCS) through a meter: tokens grow with time, then RFC 2698 in colour-blind mode. -/
def Meter.pass (m : Meter) (b nowNs : Nat) : Colour × Meter :=
  if !m.enable then (.green, m)
  else
    let unit := 8000000
    let dt := nowNs - m.last
    let tc := min (m.cbs * unit) (m.tc + m.cir * dt)
    let tp := min (m.pbs * unit) (m.tp + m.pir * dt)
    let m := { m with last := nowNs }
    if tp < b * unit then (.red, { m with tc := tc, tp := tp })
    else if tc < b * unit then (.yellow, { m with tc := tc, tp := tp - b * unit })
    else (.green, { m with tc := tc - b * unit, tp := tp - b * unit })

/-- Class of a received frame (R399). -/
def State.classOf (s : State) (port : Nat) (e : Eth) : Nat :=
  match s.sw.etypes.find? (fun t => t.2.2 && t.1 == e.etype) with
  | some t => t.2.1
  | none =>
    let pcp := match e.tci with
      | some t => t / 8192
      | none => (s.swp port).dpcp
    bitsOf (s.swp port).pcpMap (4 * pcp) 3

/-! ### Cut-through (R408) -/

/-- May a frame be cut through to an egress port? -/
def State.cutsThrough (s : State) (inPort out tc : Nat) : Bool :=
  let prpIn := match s.portEntity inPort with
    | some n => (s.entity n).prp
    | none => false
  let o := s.port out
  !prpIn && s.portUp out && bit (s.swp out).ct tc && decide (rate10 o.phy ≤ rate10 (s.port inPort).phy) &&
  o.tx.isNone && bit ((s.swp out).gatesAt s.now) tc &&
  (List.range 8).all (fun c => decide (c < tc) || !bit ((s.swp out).gatesAt s.now) c ||
    (((s.swp out).queues[c]?).map (fun q => q.frames.isEmpty)).getD true) &&
  (match (s.swp out).closeAfter tc s.now with
   | some c => decide (s.now + wireTime o.phy o.maxFrame ≤ c)
   | none => true)

/-- What reaches an egress port of one received frame: its ingress port, number, class, SOF and whether it is yellow; the
frame ended badly (R409). -/
structure Fwd where
  port   : Nat
  id     : Nat
  tc     : Nat
  sof    : Nat
  yellow : Bool
  bad    : Bool
  deriving DecidableEq, Repr

/-- One frame to one egress port: cut through, or stored and forwarded (R408, R409). -/
def State.forwardTo (s : State) (w : Fwd) (out : Nat) (bytes : Bytes) : State :=
  let s := s.settleTx out
  let cells := ceilDiv (bytes.length + 4) 256
  let ct := s.cutsThrough w.port out w.tc
  let f : QFrame := { id := w.id, bytes := bytes, charge := cells, local_ := false, tc := w.tc, at_ := s.now, ready := 0,
                      sof := if (ethParse bytes).etype = 0x88F7 then some (w.port, w.sof) else none }
  if w.bad then
    if ct then (s.qCount out w.tc 7).emit (.frame out s.now bytes false) else s
  else if ct then
    match s.enqueue out f 8 w.yellow with
    | (false, s) => s
    | (true, s) => (s.startTx out f false bytes.length s.now).qCount out w.tc 2
  else (s.enqueue out f cells w.yellow).2

/-- Bytes of a frame on an egress port: tagged or untagged by UNTAG (R395). -/
def State.egressBytes (s : State) (out vid pcp : Nat) (e : Eth) : Bytes :=
  if bit (s.untag vid) out then ethBuild { e with tci := none }
  else ethBuild { e with tci := some (((e.tci.getD 0) / 4096 % 2) * 4096 + pcp * 8192 + vid) }

/-- One frame to every port of its set; a RedBox entity gets it on A and B with a tag (R412). -/
def State.sendOut (s : State) (w : Fwd) (vid : Nat) (e : Eth) : List Nat → State
  | [] => s
  | out :: l =>
    let pcp := match e.tci with
      | some t => t / 8192
      | none => (s.swp w.port).dpcp
    let b := s.egressBytes out vid pcp e
    let s :=
      match s.portEntity out with
      | some n =>
        if w.bad then s
        else
          let t := s.entity n
          let (q, s) := s.nextTx n e.src
          (s.forwardTo w t.a (t.tagged b q false)).forwardTo w t.b (t.tagged b q true)
      | none => s.forwardTo w out b
    s.sendOut w vid e l

/-- Checks 3 to 9 of R407 and the switching of one frame, tags of PRP and HSR removed. -/
def State.switchFrame (s : State) (port : Nat) (f : Bytes) (sof : Nat) (bad took : Bool) : State :=
  let e := ethParse f
  let vid := s.frameVid port e
  if e.dst / 16 = 0x0180C200000 then
    if e.etype = etPtp || bad then s else s.swCount port 4
  else if (s.swp port).filter && !bit (s.member vid) port then (if bad then s else s.swCount port 0)
  else if isMulticast e.src then (if bad then s else s.swCount port 5)
  else
    let s := if bad then s else s.learn port e.src vid
    let tc := s.classOf port e
    let (colour, s) :=
      if bad then (Colour.green, s)
      else
        match (s.swp port).meters[tc]? with
        | some m =>
          let (c, m) := m.pass (f.length + 4) (visNs s.tb3)
          (c, s.modSwp port (fun p => { p with meters := setAt p.meters tc m }))
        | none => (.green, s)
    if colour = .red then s.swCount port 2
    else
      let s := if colour = .yellow then s.swCount port 3 else s
      let dests := s.destSet port e.dst vid
      if dests = [] then (if took || bad then s else s.swCount port 1)
      else
        let w : Fwd := { port := port, id := s.sw.nextId, tc := tc, sof := sof, yellow := colour = .yellow, bad := bad }
        ({ s with sw.nextId := s.sw.nextId + 1 }).sendOut w vid e dests

/-- Delivers a frame of a RedBox entity to the other switch ports in sequence order when HOLD_NS asks for it (R416). -/
def State.translate_ (s : State) (n port src : Nat) (seq : Nat) (f : Bytes) (sof : Nat) (took : Bool) : State :=
  let e := s.entity n
  if e.holdNs = 0 then s.switchFrame port f sof false took
  else
    match (e.sources.get src).bind (·.nextF) with
    | none => (s.modSource n src (fun x => { x with nextF := some ((seq + 1) % 65536) })).switchFrame port f sof false took
    | some nx =>
      let d := sdiff 16 seq nx
      if d > 0 then
        let h : HeldFrame := { goose := false, port := port, seq := seq, src := src, bytes := f, ta := sof, at_ := visNs s.tb3 }
        (s.modEntity n (fun e => { e with held := e.held ++ [h] })).entCount n 5
      else
        let s := s.switchFrame port f sof false took
        if d = 0 then s.modSource n src (fun x => { x with nextF := some ((seq + 1) % 65536) }) else s

/-- Held frames of the translation that are due in order leave (R416). -/
def State.drainF : Nat → State → Nat → Nat → State
  | 0, s, _, _ => s
  | fuel + 1, s, n, src =>
    let e := s.entity n
    match (e.sources.get src).bind (·.nextF) with
    | none => s
    | some nx =>
      match e.held.find? (fun h => !h.goose && h.src == src && h.seq == nx) with
      | none => s
      | some h =>
        let s := s.modEntity n (fun e => { e with held := e.held.filter (· != h) })
        let s := s.modSource n src (fun x => { x with nextF := some ((nx + 1) % 65536) })
        State.drainF fuel (s.switchFrame h.port h.bytes h.ta false true) n src

/-- The forward window of a source: whether the number is a duplicate, and the state with it marked (R414, R415). -/
def State.forwardMark (s : State) (n src seq : Nat) : Bool × State :=
  match s.touchSource n src with
  | (none, s) => (false, s)
  | (some e, s) =>
    match e.fwd.judge seq with
    | .duplicate => (true, s.entCount n 0)
    | v =>
      let s := if v = .outside then s.entCount n 3 else s
      (false, s.modSource n src (fun x => { x with fwd := x.fwd.mark seq }))

/-- Ring forwarding of an HSR entity (R417): the tagged frame to the other ring port. -/
def State.ringForward (s : State) (n port : Nat) (f : Bytes) (src seq sof : Nat) : State :=
  let e := s.entity n
  let eth := ethParse f
  let second := port == e.b
  let out := if second then e.a else e.b
  let seen := match e.sources.get src with
    | some x => (if second then x.ringB else x.ringA).judge seq == SeqVerdict.duplicate
    | none => false
  if src == e.mac || (s.pair.pubEnable && src == s.ownMac) then s.entCount n 8
  else if eth.dst == e.mac then s
  else if seen then s
  else
    let s := s.modSource n src (fun x => if second then { x with ringB := x.ringB.mark seq } else { x with ringA := x.ringA.mark seq })
    let tc := s.classOf port (match hsrOf f with
      | some h => ethParse h.2.2
      | none => eth)
    let w : Fwd := { port := port, id := s.sw.nextId, tc := tc, sof := sof, yellow := false, bad := false }
    ({ s with sw.nextId := s.sw.nextId + 1 }).forwardTo w out f

/-- A frame received on a switch port, its MAC checks passed (`bad`: its FCS or length proved wrong at the last bit, so
that only what was cut through matters): entity, ring and switching (R394, R407, R412, R417). -/
def State.receive (s : State) (port : Nat) (f : Bytes) (sof : Nat) (bad : Bool) : State :=
  let r := s.redStrip port f
  let e := ethParse r.frame
  let took := s.consumerTakes port e
  match r.ent with
  | none => if s.mgmtTakes port e then s else s.switchFrame port f sof bad took
  | some n =>
    let t := s.entity n
    if bad then s
    else
      let s := if e.etype = 0x88FB then s.entCount n 7 else s
      match r.seq with
      | none => if t.redbox then s.switchFrame port r.frame sof false took else s
      | some q =>
        let s := if t.prp && ((port == t.a && r.lan != 0xA) || (port == t.b && r.lan != 0xB)) then s.entCount n 2 else s
        let (dup, s) := s.forwardMark n r.src q
        let s := if t.hsr then s.ringForward n port f r.src q sof else s
        if dup || !t.redbox then s
        else State.drainF 4096 (s.translate_ n port r.src q r.frame sof took) n r.src

end Sys2Proof.Machine
end

