-- ==== Sys2Proof/Machine/Publish.lean ====
section
/-! DEFINITION. The publish and routes family (09 R250, R251), and the events of the publisher and the subscriptions. -/
namespace Sys2Proof.Machine

/-! ### BIND_OUTPUTS -/

def bindEntry (p : Bytes) (i : Nat) : OutBind :=
  let w := u16 p (6 + 4 * i)
  { signal := u16 p (4 + 4 * i), word := w % 1024, bit := w / 1024 }

def bindEntries (p : Bytes) : List OutBind := (List.range (u16 p 2)).map (bindEntry p)

/-- The first entry that repeats a signal, names no output word of the image, or takes a whole word of an LS program. -/
def badBind (ls : Bool) (words : Nat) : List OutBind → List Nat → Nat → Option Nat
  | [], _, _ => none
  | b :: l, seen, o =>
    if seen.contains b.signal then some o
    else if b.word ≥ words || (b.bit ≥ 32 && b.bit != 0x3F) || (ls && b.bit == 0x3F) then some (o + 2)
    else badBind ls words l (b.signal :: seen) (o + 4)

/-- BIND_OUTPUTS (0x0601). -/
def cardBindOutputs : Card where
  opcode := 0x0601
  level := .o
  len := .form 1 1018 (fun p => 1 + u16 p 2)
  owner := fiOwner
  target := fiTarget
  params s c :=
    let p := c.params
    orElseOpt (firstBad [fiRange p, (2, decide (u16 p 2 ≤ 1017))])
      (match s.inst (u16 p 0) with
       | some x => badBind x.ls (imgOutWords (s.imageD x.image)) (bindEntries p) [] 4
       | none => none)
  run s c :=
    let p := c.params
    let fi := u16 p 0
    match s.inst fi with
    | none => .wrong 2
    | some x =>
      if x.isRunning then .wrong 3
      else if (bindEntries p).any (fun b => s.drivenByOther b.signal (.output fi)) then .wrong 6
      else
        let s := s.releaseSignals (· == SigSrc.output fi)
        let s := (bindEntries p).foldl (fun (s : State) b => s.bindSignal b.signal (.output fi)) s
        let s := s.setInst fi { x with outBinds := bindEntries p }
        .ok (if x.isPlaced then s.redriveOutputs fi else s) []

def execBindOutputs (dt : Nat) (c : Cmd) (s : State) : Host.Outcome State Fault Refusal := runCard cardBindOutputs dt c s

/-! ### Publications -/

def pubOwner (s : State) (p : Bytes) : Option Nat := (s.pub.pubs.get (u16 p 0)).map (·.owner)
def pubRange (p : Bytes) : Nat × Bool := (0, decide (u16 p 0 ≤ 1023))

/-- The instance that drives the publication named. -/
def pubTarget (s : State) (p : Bytes) : Option Nat := (s.pub.pubs.get (u16 p 0)).map (·.driver)

/-- Entries of N × 4 bytes: signal, TYPE, a reserved byte. -/
def dataEntries (p : Bytes) (o n : Nat) : List (Nat × Nat) :=
  (List.range n).map (fun i => (u16 p (o + 4 * i), byteAt p (o + 4 * i + 2)))

/-- The reserved bytes of entries. -/
def entryPads (o n : Nat) : List (Nat × Nat) := (List.range n).map (fun i => (o + 4 * i + 3, 1))

/-- Range checks of the entries' types. -/
def entryTypes (lo : Nat) (p : Bytes) (o n : Nat) : List (Nat × Bool) :=
  (List.range n).map (fun i => (o + 4 * i + 2, decide (lo ≤ byteAt p (o + 4 * i + 2)) && decide (byteAt p (o + 4 * i + 2) ≤ 4)))

/-- What a zero-padded name leaves. -/
def namePad (p : Bytes) (lenAt at_ : Nat) : List (Nat × Nat) :=
  if byteAt p lenAt ≤ 64 then [(at_ + byteAt p lenAt, 64 - byteAt p lenAt)] else []

def keySlotOk (p : Bytes) (authAt at_ : Nat) : Bool :=
  if byteAt p authAt = 0 then u16 p at_ == 0xFFFF else decide (u16 p at_ ≤ 255)

def nameLenOk (v : Nat) : Bool := decide (1 ≤ v) && decide (v ≤ 64)

/-- The publication that a DEFINE_PUBLICATION describes. -/
def pubOf (p : Bytes) (owner : Nat) (key : Option Bytes) : Publication :=
  let d : Publication :=
    { owner := owner, driver := u16 p 2, cls := byteAt p 4, auth := byteAt p 5, keySlot := u16 p 6, mask := uN p 8 16
      destMac := beNat (slice p 0x18 6), appid := u16 p 0x1E, vlan := u16 p 0x20, pcp := byteAt p 0x22
      sim := bit (byteAt p 0x23) 0, confRev := u32 p 0x24, minI := u32 p 0x28, maxI := u32 p 0x2C
      gocb := slice p 0x38 (byteAt p 0x30), datset := slice p 0x78 (byteAt p 0x31), goid := slice p 0xB8 (byteAt p 0x32)
      entries := dataEntries p 0xF8 (u16 p 0x34), frameBytes := 0, key := key }
  { d with frameBytes := d.frameLen }

def definePubRun (s : State) (c : Cmd) : CardOut :=
  let p := c.params
  let auth := byteAt p 5
  let key : KeyUse :=
    if auth = 0 then .ok [] else if s.slotFits c.inst (u16 p 6) (needGenerate auth) then s.useSlot (u16 p 6) else .refused
  if (s.pub.pubs.get (u16 p 0)).isSome then .wrong 1
  else if (s.inst (u16 p 2)).isNone then .wrong 2
  else
    match key with
    | .refused => .wrong 4
    | .integrity t => .errWith t stIntegrity (u16 p 6) []
    | .ok k =>
      let d := pubOf p c.inst (if auth = 0 then none else some k)
      if d.frameBytes > 1518 then .noRes 0x12
      else if s.pub.pubs.length ≥ 1024 then .noRes 0x13
      else .ok { s with pub.pubs := s.pub.pubs.put (u16 p 0) d } (le 2 d.frameBytes ++ zeros 2)

/-- DEFINE_PUBLICATION (0x0602). -/
def cardDefinePublication : Card where
  opcode := 0x0602
  level := .o
  len := .form 63 318 (fun p => 62 + u16 p 0x34)
  most _ _ := 2
  owner s p := orElseOpt (pubOwner s p) (fiOwner s (p.drop 2))
  target _ p := some (u16 p 2)
  reserved p := minOpt (reservedBits p [(0x23, 0xFE)])
    (firstNonzero p ([(0x33, 1), (0x36, 2)] ++ namePad p 0x30 0x38 ++ namePad p 0x31 0x78 ++ namePad p 0x32 0xB8 ++
      entryPads 0xF8 (u16 p 0x34)))
  params s c :=
    let p := c.params
    let top := match s.inst (u16 p 2) with
      | some x => 5760000 / max x.cycle 1
      | none => 0xFFFFFFFF
    firstBad ([pubRange p, (2, decide (1 ≤ u16 p 2) && decide (u16 p 2 ≤ 4095)), (4, decide (byteAt p 4 ≤ 1)),
      (5, decide (byteAt p 5 ≤ 4)), (6, keySlotOk p 5 6), (8, uN p 8 16 != 0), (0x18, bit (byteAt p 0x18) 0),
      (0x1E, decide (u16 p 0x1E ≤ 0x3FFF)), (0x20, decide (u16 p 0x20 ≤ 4094)), (0x22, decide (byteAt p 0x22 ≤ 7)),
      (0x28, decide (1 ≤ u32 p 0x28)), (0x2C, decide (u32 p 0x28 ≤ u32 p 0x2C) && decide (u32 p 0x2C ≤ top)),
      (0x30, nameLenOk (byteAt p 0x30)), (0x31, nameLenOk (byteAt p 0x31)), (0x32, nameLenOk (byteAt p 0x32)),
      (0x34, decide (1 ≤ u16 p 0x34) && decide (u16 p 0x34 ≤ 256))] ++ entryTypes 1 p 0xF8 (u16 p 0x34))
  run := definePubRun

def execDefinePublication (dt : Nat) (c : Cmd) (s : State) : Host.Outcome State Fault Refusal := runCard cardDefinePublication dt c s

/-- REMOVE_PUBLICATION (0x0603). -/
def cardRemovePublication : Card where
  opcode := 0x0603
  level := .o
  len := .exact 1
  owner := pubOwner
  target := pubTarget
  reserved p := firstNonzero p [(2, 2)]
  params _ c := firstBad [pubRange c.params]
  run s c :=
    match s.pub.pubs.get (u16 c.params 0) with
    | none => .wrong 1
    | some x => if x.enabled then .wrong 8 else .ok { s with pub.pubs := s.pub.pubs.del (u16 c.params 0) } []

def execRemovePublication (dt : Nat) (c : Cmd) (s : State) : Host.Outcome State Fault Refusal := runCard cardRemovePublication dt c s

/-- A driver's first latch at or after a tick; the tick itself while its phase is not known. -/
def Inst.pubLatch (x : Inst) (t : Nat) : Nat :=
  match x.knownPhase with
  | none => t
  | some ph => { x with phase := ph }.latchFrom t

/-- The first latch whose publication instant lies at least 200 µs ahead (R243 card). -/
def State.firstPub (s : State) (x : Inst) : Nat := x.pubLatch (tickAtOrAfter (s.now + lead200 - x.pubQ))

def enablePubRun (s : State) (c : Cmd) : CardOut :=
  let p := c.params
  let num := u16 p 0
  match s.pub.pubs.get num with
  | none => .wrong 1
  | some q =>
    if byteAt p 2 = 0 then .ok { s with pub.pubs := s.pub.pubs.put num { q with enabled := false } } []
    else if q.enabled then .ok s (le 8 (q.first.getD 0))
    else
      let n := (s.inst q.driver).map s.firstPub
      let q := { q with enabled := true, first := n, stNum := 0, sqNum := 0, j := 0, state := [] }
      let t := { s with pub.pubs := s.pub.pubs.put num q }
      match if q.cls = 0 then t.expressFail else none with
      | some (code, pub) => .err stNoResource code (le 2 pub ++ zeros 2)
      | none => if t.pairOver then .noRes 0x000C else .ok t (le 8 (match (s.inst q.driver).bind (·.knownPhase) with
          | some _ => n.getD 0
          | none => 0))

/-- ENABLE_PUBLICATION (0x0604). The mirrored command carries the enable instant (12 R311). -/
def cardEnablePublication : Card where
  opcode := 0x0604
  level := .o
  urgent := true
  len := .exact 1
  most s c := if (s.pub.pubs.get (u16 c.params 0)).isSome then 3 else 1
  owner := pubOwner
  target := pubTarget
  reserved p := firstNonzero p [(3, 1)]
  params _ c := firstBad [pubRange c.params, (2, decide (byteAt c.params 2 ≤ 1))]
  absolute _ t c := if byteAt c.params 2 = 0 then c.params else
    c.params ++ le 8 (((t.pub.pubs.get (u16 c.params 0)).bind (·.first)).getD 0)
  run := enablePubRun

def execEnablePublication (dt : Nat) (c : Cmd) (s : State) : Host.Outcome State Fault Refusal := runCard cardEnablePublication dt c s

/-- The first new cycle of a SET_ROUTE (R244), if its APPLY_TICK is not too early. -/
def State.routeLatch (s : State) (q : Publication) (tick : Nat) (own : Bool) : Option Nat :=
  let lead := 20000 * qNs
  let from_ (t : Nat) : Nat := match s.inst q.driver with
    | some x => x.pubLatch t
    | none => t
  if tick = 0 then some (from_ (tickAtOrAfter (s.now + lead)))
  else if boundaryQ (from_ tick) ≥ s.now + (if own then lead else 1) then some (from_ tick) else none

def setRouteRun (s : State) (c : Cmd) : CardOut :=
  let p := c.params
  let num := u16 p 0
  let what := byteAt p 2
  match s.pub.pubs.get num with
  | none => .wrong 1
  | some q =>
    match s.routeLatch q (u64 p 4) c.own with
    | none => .wrong 7
    | some n =>
      let r : Route := { tick := n, mask := if bit what 0 then some (uN p 0x0C 16) else none,
                         entries := if bit what 1 then some (dataEntries p 0x20 (u16 p 0x1C)) else none }
      let t := { s with pub.pubs := s.pub.pubs.put num { q with routes := q.routes ++ [r] } }
      match if q.enabled && q.cls == 0 then t.expressFail else none with
      | some (code, pub) => .err stNoResource code (le 2 pub ++ zeros 2)
      | none => .ok t (le 8 n)

/-- SET_ROUTE (0x0605). An entry's TYPE is the one defined, since FRAME_BYTES is fixed (R234). -/
def cardSetRoute : Card where
  opcode := 0x0605
  level := .o
  urgent := true
  len := .form 8 264 (fun p => 8 + u16 p 0x1C)
  most s c := if (s.pub.pubs.get (u16 c.params 0)).isSome then 3 else 1
  owner := pubOwner
  target := pubTarget
  reserved p := minOpt (reservedBits p [(2, 0xFC)]) (firstNonzero p ([(3, 1), (0x1E, 2)] ++ entryPads 0x20 (u16 p 0x1C)))
  params s c :=
    let p := c.params
    let what := byteAt p 2
    let n := u16 p 0x1C
    orElseOpt (firstBad [pubRange p, (2, what != 0), (0x0C, bit what 0 == (uN p 0x0C 16 != 0)), (0x1C, bit what 1 || n == 0)])
      (match s.pub.pubs.get (u16 p 0) with
       | none => none
       | some q => if !bit what 1 then none else
         firstBad ((0x1C, n == q.entries.length) :: (List.range n).map (fun i =>
           (0x20 + 4 * i + 2, byteAt p (0x20 + 4 * i + 2) == ((q.entries.getD i (0, 0)).2)))))
  absolute s _ c := match (s.pub.pubs.get (u16 c.params 0)).bind (fun q => s.routeLatch q (u64 c.params 4) c.own) with
    | some n => withTick c.params 4 n
    | none => c.params
  run := setRouteRun

def execSetRoute (dt : Nat) (c : Cmd) (s : State) : Host.Outcome State Fault Refusal := runCard cardSetRoute dt c s

/-- GET_PUBLICATION (0x0606). -/
def cardGetPublication : Card where
  opcode := 0x0606
  level := .r
  changes := false
  len := .exact 1
  most _ _ := 8
  reserved p := orElseOpt (reservedBits p [(2, 0xFE)]) (firstNonzero p [(3, 1)])
  params _ c := firstBad [pubRange c.params]
  run s c :=
    let num := u16 c.params 0
    match s.pub.pubs.get num with
    | none => .wrong 1
    | some q =>
      let d := le 1 (boolNat q.enabled) ++ le 1 q.cls ++ le 2 q.frameBytes ++ le 4 q.stNum ++ le 4 q.sqNum ++
        le 8 (q.lastChange / qNs) ++ le 4 q.frames ++ le 4 q.withheld
      let t := if bit (byteAt c.params 2) 0 then { s with pub.pubs := s.pub.pubs.put num { q with frames := 0, withheld := 0 } } else s
      .ok t d

def execGetPublication (dt : Nat) (c : Cmd) (s : State) : Host.Outcome State Fault Refusal := runCard cardGetPublication dt c s

/-! ### Subscriptions -/

def subOwner (s : State) (p : Bytes) : Option Nat := (s.pub.subs.get (u16 p 0)).map (·.owner)

/-- The subscription that a DEFINE_SUBSCRIPTION describes. -/
def subOf (p : Bytes) (owner : Nat) (key : Option Bytes) : Subscription :=
  { owner := owner, auth := byteAt p 2, accSim := bit (byteAt p 3) 0, accTest := bit (byteAt p 3) 1, mask := uN p 4 16
    destMac := beNat (slice p 0x14 6), appid := u16 p 0x1A, vlan := u16 p 0x1C, keySlot := u16 p 0x1E, confRev := u32 p 0x20
    gocb := slice p 0x28 (byteAt p 0x24), entries := dataEntries p 0x68 (u16 p 0x26), key := key }

/-- The entries that drive a signal. -/
def valueSignals (es : List (Nat × Nat)) : List Nat :=
  (es.filter (fun e => decide (1 ≤ e.2) && decide (e.2 ≤ 3))).map (·.1)

/-- The first entry that names a signal another value entry drives, or a QUALITY entry without its value entry. -/
def badSubEntry (all : List (Nat × Nat)) : List (Nat × Nat) → List Nat → Nat → Option Nat
  | [], _, _ => none
  | (sig, type) :: l, seen, o =>
    if type = 0 then badSubEntry all l seen (o + 4)
    else if type = 4 then if (valueSignals all).contains sig then badSubEntry all l seen (o + 4) else some o
    else if seen.contains sig then some o
    else badSubEntry all l (sig :: seen) (o + 4)

/-- Do the match keys of two subscriptions overlap on a common port (R245)? -/
def subsOverlap (a b : Subscription) : Bool :=
  a.destMac == b.destMac && a.appid == b.appid && (a.vlan == 0 || b.vlan == 0 || a.vlan == b.vlan) && a.gocb == b.gocb &&
    (a.mask &&& b.mask) != 0

def defineSubRun (s : State) (c : Cmd) : CardOut :=
  let p := c.params
  let n := u16 p 0
  let auth := byteAt p 2
  let key : KeyUse :=
    if auth = 0 then .ok [] else if s.slotFits c.inst (u16 p 0x1E) (needVerify auth) then s.useSlot (u16 p 0x1E) else .refused
  if (s.pub.subs.get n).isSome then .wrong 1
  else
    match key with
    | .refused => .wrong 4
    | .integrity t => .errWith t stIntegrity (u16 p 0x1E) []
    | .ok k =>
      let d := subOf p c.inst (if auth = 0 then none else some k)
      if s.pub.subs.any (fun q => subsOverlap q.2 d) then .wrong 5
      else if (valueSignals d.entries).any (fun g => s.drivenByOther g (.subscription n)) then .wrong 6
      else if s.pub.subs.length ≥ 1024 then .noRes 0x14
      else .ok ((valueSignals d.entries).foldl (fun (s : State) g => s.bindSignal g (.subscription n)) (s.setSub n d)) []

/-- DEFINE_SUBSCRIPTION (0x0607). -/
def cardDefineSubscription : Card where
  opcode := 0x0607
  level := .o
  len := .form 27 282 (fun p => 26 + u16 p 0x26)
  owner := subOwner
  reserved p := minOpt (reservedBits p [(3, 0xFC)])
    (firstNonzero p ([(0x25, 1)] ++ namePad p 0x24 0x28 ++ entryPads 0x68 (u16 p 0x26)))
  params _ c :=
    let p := c.params
    orElseOpt (firstBad ([pubRange p, (2, decide (byteAt p 2 ≤ 4)), (4, uN p 4 16 != 0), (0x14, bit (byteAt p 0x14) 0),
      (0x1C, decide (u16 p 0x1C ≤ 4094)), (0x1E, keySlotOk p 2 0x1E), (0x24, nameLenOk (byteAt p 0x24)),
      (0x26, decide (1 ≤ u16 p 0x26) && decide (u16 p 0x26 ≤ 256))] ++ entryTypes 0 p 0x68 (u16 p 0x26)))
      (badSubEntry (dataEntries p 0x68 (u16 p 0x26)) (dataEntries p 0x68 (u16 p 0x26)) [] 0x68)
  run := defineSubRun

def execDefineSubscription (dt : Nat) (c : Cmd) (s : State) : Host.Outcome State Fault Refusal := runCard cardDefineSubscription dt c s

/-- REMOVE_SUBSCRIPTION (0x0608). -/
def cardRemoveSubscription : Card where
  opcode := 0x0608
  level := .o
  len := .exact 1
  owner := subOwner
  reserved p := firstNonzero p [(2, 2)]
  params _ c := firstBad [pubRange c.params]
  run s c :=
    let n := u16 c.params 0
    match s.pub.subs.get n with
    | none => .wrong 1
    | some x =>
      if x.st != .disabled then .wrong 8
      else .ok ({ s with pub.subs := s.pub.subs.del n }.releaseSignals (· == SigSrc.subscription n)) []

def execRemoveSubscription (dt : Nat) (c : Cmd) (s : State) : Host.Outcome State Fault Refusal := runCard cardRemoveSubscription dt c s

/-- ENABLE_SUBSCRIPTION (0x0609). -/
def cardEnableSubscription : Card where
  opcode := 0x0609
  level := .o
  len := .exact 1
  owner := subOwner
  reserved p := firstNonzero p [(3, 1)]
  params _ c := firstBad [pubRange c.params, (2, decide (byteAt c.params 2 ≤ 1))]
  run s c :=
    let n := u16 c.params 0
    match s.pub.subs.get n with
    | none => .wrong 1
    | some x =>
      let x :=
        if byteAt c.params 2 = 0 then { x with st := .disabled }
        else if x.st = .disabled then { x with st := .waiting, arrivals := [] } else x
      .ok (s.setSub n x) []

def execEnableSubscription (dt : Nat) (c : Cmd) (s : State) : Host.Outcome State Fault Refusal := runCard cardEnableSubscription dt c s

def SubSt.code : SubSt → Nat
  | .disabled => 0
  | .waiting => 1
  | .healthy => 2
  | .stale => 3

/-- GET_SUBSCRIPTION (0x060A). -/
def cardGetSubscription : Card where
  opcode := 0x060A
  level := .r
  changes := false
  len := .exact 1
  most _ _ := 13
  reserved p := orElseOpt (reservedBits p [(2, 0xFE)]) (firstNonzero p [(3, 1)])
  params _ c := firstBad [pubRange c.params]
  run s c :=
    let n := u16 c.params 0
    match s.pub.subs.get n with
    | none => .wrong 1
    | some x =>
      let (st, sq) := x.last.getD (0, 0)
      let d := le 1 x.st.code ++ zeros 3 ++ le 4 st ++ le 4 sq ++ x.counters.flatMap (le 4)
      .ok (if bit (byteAt c.params 2) 0 then s.setSub n { x with counters := List.replicate 9 0 } else s) d

def execGetSubscription (dt : Nat) (c : Cmd) (s : State) : Host.Outcome State Fault Refusal := runCard cardGetSubscription dt c s

/-- KIND and SOURCE of a signal (R231). -/
def SigSrc.kind : SigSrc → Nat × Nat
  | .none => (0, 0)
  | .output fi => (1, fi)
  | .detector ch _ => (2, ch)
  | .subscription n => (3, n)
  | .stratus k => (4, k)
  | .binaryIn n => (5, n)

/-- GET_SIGNAL (0x060B): as the image of the next tick boundary would hold it. -/
def cardGetSignal : Card where
  opcode := 0x060B
  level := .r
  changes := false
  len := .exact 1
  most _ _ := 4
  reserved p := firstNonzero p [(2, 2)]
  run s c :=
    let g := u16 c.params 0
    let (v, st) := s.sigRecord g (boundaryQ (s.tickNow + 1))
    let (k, n) := (s.signal g).src.kind
    .ok s (le 1 k ++ zeros 1 ++ le 2 n ++ le 4 v ++ le 4 st)

def execGetSignal (dt : Nat) (c : Cmd) (s : State) : Host.Outcome State Fault Refusal := runCard cardGetSignal dt c s

/-! ### Events -/

/-- PUBLICATION_INSTANT: the instants reached of an instance, after those of every lower FI, whose frames leave first (R233,
R241). -/
def execPublicationInstant (dt fi : Nat) (s : State) : Host.Outcome State Fault Refusal :=
  let s := (s.advance dt).switchover
  .next (((s.place.insts.map (·.1)).filter (fun g => decide (g ≤ fi))).foldl State.instantOf s)

/-- GOOSE_FRAME_RECEIVED (R245, R246): a frame of Ethertype 0x88B8 reaches the subscriptions. -/
def execGooseFrameReceived (dt port ta : Nat) (frame : Bytes) (s : State) : Host.Outcome State Fault Refusal :=
  .next ((s.advance dt).gooseFrame port ta frame)

/-- SUBSCRIPTION_STALE: timeAllowedtoLive of the last arrival has passed at the cutoff (R248, R249). -/
def execSubscriptionStale (dt sub : Nat) (s : State) : Host.Outcome State Fault Refusal :=
  let s := s.advance dt
  match s.pub.subs.get sub with
  | none => .next s
  | some x =>
    match x.st, x.arrivals.head? with
    | .healthy, some (_, stop) =>
      if s.now > stop + 2000 * qNs then
        .next (((s.setSub sub { x.count 8 with st := .stale }).post 0x0601
          (le 2 sub ++ le 4 ((x.last.map (·.1)).getD 0))).raiseInt 133)
      else .next s
    | _, _ => .next s

/-- A held frame's hold is over: the lowest held number of its kind is the next one due (16 R416). -/
def State.expireHeld (s : State) (n src : Nat) (goose : Bool) : State :=
  let e := s.entity n
  let due (h : HeldFrame) : Bool := h.goose == goose && h.src == src && decide (h.at_ + e.holdNs ≤ visNs s.tb3)
  match (sortBy (fun (a b : HeldFrame) => decide (sdiff 16 a.seq b.seq ≤ 0)) (e.held.filter (fun h => h.goose == goose && h.src == src))).head? with
  | none => s
  | some h =>
    if !e.held.any due then s
    else
      let s := s.entCount n 6
      if goose then (s.modSource n src (fun x => { x with nextC := some h.seq })).drainC 4096 n src
      else State.drainF 4096 (s.modSource n src (fun x => { x with nextF := some h.seq })) n src

/-- HOLD_EXPIRY: frames of a source held longer than HOLD_NS are delivered in order (16 R416). -/
def execHoldExpiry (dt ent src : Nat) (s : State) : Host.Outcome State Fault Refusal :=
  let s := s.advance dt
  .next ((s.expireHeld ent src true).expireHeld ent src false)

end Sys2Proof.Machine
end

