-- ==== Sys2Proof/Machine/Recorder.lean ====
section
/-! DEFINITION. The recorder and lifetime family (21 R501), and Contrail's events. -/
namespace Sys2Proof.Machine

/-- GET_RECORDER_STATUS (0x1001). -/
def cardGetRecorderStatus : Card where
  opcode := 0x1001
  level := .r
  changes := false
  len := .exact 0
  most _ _ := 11
  run s _ :=
    let r := s.recorder
    .ok s (le 6 r.oldest ++ zeros 2 ++ le 6 r.next ++ zeros 2 ++ le 4 recCapacity ++ le 4 r.queue.length ++ le 4 r.lostUp ++
      le 4 r.badReads ++ le 6 r.lastClear ++ zeros 2)

def execGetRecorderStatus (dt : Nat) (c : Cmd) (s : State) : Host.Outcome State Fault Refusal :=
  runCard cardGetRecorderStatus dt c s

/-- READ_RECORDS (0x1002), R490: the copy is one step, so every record in it is whole (R491). -/
def cardReadRecords : Card where
  opcode := 0x1002
  level := .r
  changes := false
  len := .exact 3
  most _ c := 10 + 16 * byteAt c.params 8
  reserved p := firstNonzero p [(9, 3)]
  params _ c := firstBad [(8, decide (1 ≤ byteAt c.params 8) && decide (byteAt c.params 8 ≤ 60))]
  run s c :=
    let r := s.recorder
    let first := u64 c.params 0 % 2 ^ 48
    let from_ := if sdiff 48 first r.oldest > 0 then first else r.oldest
    let n := if sdiff 48 r.next from_ > 0 then min (byteAt c.params 8) (r.next - from_) else 0
    let rs := (List.range n).map (fun i => r.log.getD (from_ + i) { body := zeros 60, crc := 0 })
    let bad := rs.map (fun (x : Record) => x.bad)
    let s := { s with recorder.badReads := satAdd 32 r.badReads (bad.count true) }
    .ok s (le 6 r.oldest ++ zeros 2 ++ le 6 r.oldest ++ zeros 2 ++ le 6 r.next ++ zeros 2 ++ le 1 n ++ zeros 3 ++
      le 8 (bitsNat bad) ++ rs.flatMap (fun (x : Record) => x.bytes))

def execReadRecords (dt : Nat) (c : Cmd) (s : State) : Host.Outcome State Fault Refusal := runCard cardReadRecords dt c s

/-- GET_CLEAR_NONCE (0x1003): a new nonce replaces the one before (R494). -/
def cardGetClearNonce : Card where
  opcode := 0x1003
  level := .m
  len := .exact 0
  most _ _ := 6
  run s _ :=
    let (n, s) := s.randomBytes 16
    .ok { s with recorder.nonce := some (n, s.tb3) } (n ++ le 4 60000)

def execGetClearNonce (dt : Nat) (c : Cmd) (s : State) : Host.Outcome State Fault Refusal := runCard cardGetClearNonce dt c s

/-- A refused clear commits CLEAR_REFUSED (R494). -/
def State.refuseClear (s : State) (status detail : Nat) : CardOut :=
  .errWith (s.post 0x1002 (le 2 status ++ le 2 detail)) status detail []

/-- CLEAR_RECORDER (0x1004), R493, R494: it consumes the nonce in every case. -/
def cardClearRecorder : Card where
  opcode := 0x1004
  level := .m
  len := .exact 9
  most _ _ := 3
  reserved p := firstNonzero p [(1, 3)]
  run s c :=
    let slot := byteAt c.params 0
    let nonce := s.recorder.nonce
    let s := { s with recorder.nonce := none }
    match nonce with
    | none => s.refuseClear stAuthRequired 0
    | some (n, t) =>
      let k := s.slot slot
      if s.tb3Passed t 60000000 then s.refuseClear stAuthRequired 0
      else if k.st != .valid || !k.fits needClear then s.refuseClear stWrongState 1
      else
        match s.useSlot slot with
        | .refused => s.refuseClear stWrongState 2
        | .integrity t => t.refuseClear stIntegrity slot
        | .ok key =>
          if slice c.params 4 32 = clearToken key n then .ok (s.clearLog slot) (le 8 s.recorder.next)
          else s.refuseClear stIntegrity 0x0100

def execClearRecorder (dt : Nat) (c : Cmd) (s : State) : Host.Outcome State Fault Refusal := runCard cardClearRecorder dt c s

/-- READ_COUNTERS (0x1005). -/
def cardReadCounters : Card where
  opcode := 0x1005
  level := .r
  changes := false
  len := .exact 1
  most _ c := 2 + 4 * byteAt c.params 2
  reserved p := firstNonzero p [(3, 1)]
  params _ c :=
    let n := byteAt c.params 2
    firstBad [(0, counterId (u16 c.params 0)), (2, decide (1 ≤ n) && decide (n ≤ 32)),
      (2, (List.range n).all (fun i => counterId (u16 c.params 0 + i)))]
  run s c :=
    let n := byteAt c.params 2
    .ok s (le 1 n ++ zeros 3 ++ (List.range n).flatMap (fun i => (s.recorder.cells.getD (u16 c.params 0 + i) {}).bytes))

def execReadCounters (dt : Nat) (c : Cmd) (s : State) : Host.Outcome State Fault Refusal := runCard cardReadCounters dt c s

/-- POST_RECORD (0x1006): its reply follows the commit. -/
def cardPostRecord : Card where
  opcode := 0x1006
  level := .m
  len := .exact 7
  most _ _ := 3
  reserved p := firstNonzero p [(2, 2)]
  params _ c := firstBad [(0, decide (0x10F0 ≤ u16 c.params 0) && decide (u16 c.params 0 ≤ 0x10FF))]
  run s c :=
    if s.recorder.queue.length ≥ 1024 then .noRes 1
    else
      let e := s.mkEvent (u16 c.params 0) (slice c.params 4 24) 5
      .later (s.postEvent { e with asked := some (c.chan, c.seq) }) .record

def execPostRecord (dt : Nat) (c : Cmd) (s : State) : Host.Outcome State Fault Refusal := runCard cardPostRecord dt c s

/-- GET_CHIPLET_IDENTITY (0x1007). -/
def cardGetChipletIdentity : Card where
  opcode := 0x1007
  level := .r
  changes := false
  len := .exact 1
  most _ _ := 9
  reserved p := firstNonzero p [(1, 3)]
  params _ c := firstBad [(0, decide (byteAt c.params 0 ≤ 5))]
  run s c :=
    let n := byteAt c.params 0
    .ok s (le 1 n ++ le 1 (boolNat (fuseBad n)) ++ (fuseImage n).drop 2 ++ le 4 (Config.fuseCrc n).toNat)

def execGetChipletIdentity (dt : Nat) (c : Cmd) (s : State) : Host.Outcome State Fault Refusal :=
  runCard cardGetChipletIdentity dt c s

/-- READ_HISTOGRAM (0x1008). -/
def cardReadHistogram : Card where
  opcode := 0x1008
  level := .r
  changes := false
  len := .exact 1
  most _ _ := 34
  reserved p := firstNonzero p [(1, 3)]
  params _ c := firstBad [(0, decide (byteAt c.params 0 ≤ 10))]
  run s c :=
    let id := byteAt c.params 0
    .ok s (le 1 (histBins id) ++ le 1 (boolNat (id != 0)) ++ zeros 2 ++
      (List.range (histBins id)).flatMap (fun b => le 8 (s.life (binId id b))))

def execReadHistogram (dt : Nat) (c : Cmd) (s : State) : Host.Outcome State Fault Refusal := runCard cardReadHistogram dt c s

/-! ### Events -/

/-- RECORD_COMMIT: the commit path lives on VAUX (R488, 15 R391). -/
def execRecordCommit (dt : Nat) (s : State) : Host.Outcome State Fault Refusal :=
  let s := s.advance dt
  .next (if s.power.vaux then s.commitHead else s)

/-- NONCE_EXPIRY (R494). -/
def execNonceExpiry (dt : Nat) (s : State) : Host.Outcome State Fault Refusal :=
  let s := s.advance dt
  match s.recorder.nonce with
  | some (_, t) => .next (if s.tb3Passed t 60000000 then { s with recorder.nonce := none } else s)
  | none => .next s

end Sys2Proof.Machine
end

