-- ==== Sys2Proof/Machine/SerialOps.lean ====
section
/-! DEFINITION. UARTs and binary lines (22): the receiver, the unstuffing of UART0 (02 R38), inputs as signals and interrupt
lines, the balls of the outputs. -/
namespace Sys2Proof.Machine

/-! ### UARTs -/

def State.uart (s : State) (n : Nat) : Uart := s.serial.uarts.getD n {}
def State.modUart (s : State) (n : Nat) (f : Uart → Uart) : State := { s with serial.uarts := modAt s.serial.uarts n f }

/-- Counters of GET_UART_STATUS: 0 NOISE, 1 FRAMING, 2 PARITY, 3 BREAKS, 4 RX_OVERFLOW, 5 CHARACTERS. -/
def State.uartCount (s : State) (n i k : Nat) : State :=
  s.modUart n (fun u => { u with counters := modAt u.counters i (fun c => satAdd 32 c k) })

/-- A channel takes packets: enabled, and the boot has opened it (R40, 23 R517, R521). In RECOVERY only UART0 and the VI00 ring are
served. -/
def State.channelOpen (s : State) (chan : Nat) : Bool :=
  (s.chan chan).enabled && s.power.supply != .off &&
    (s.boot.phase == .ready || (s.boot.phase == .recovery && (chan == 0 || chan == 64)))

def State.framingError (s : State) : State :=
  let ch := s.chan 64
  s.setChan 64 { ch with framing := inc32 ch.framing }

/-- A character on the command channel of UART0 (R38). The flag that ends a discarded frame opens the next. -/
def State.unstuff (s : State) (ch : Byte) : State :=
  let f := s.serial.frame
  let put (s : State) (f : Unstuff) : State := { s with serial.frame := f }
  if ch = 0x7E#8 then
    let t := put s { open_ := true }
    if !f.open_ then t
    else if f.esc then t.framingError
    else if f.bytes = [] then t
    else if f.bytes.length < 20 then t.framingError
    else if t.channelOpen 64 then t.arrive 64 {} f.bytes
    else t
  else if !f.open_ then s
  else if f.esc then put s { f with bytes := f.bytes ++ [ch ^^^ 0x20#8], esc := false }
  else if ch = 0x7D#8 then put s { f with esc := true }
  else put s { f with bytes := f.bytes ++ [ch] }

/-- Data bits, parity (0 none, 1 even, 2 odd) and stop bits of FORMAT. -/
def fmtData (f : Nat) : Nat := if bit f 0 then 7 else 8
def fmtParity (f : Nat) : Nat := bitsOf f 1 2
def fmtStop (f : Nat) : Nat := if bit f 3 then 2 else 1

/-- The majority of samples 7, 8 and 9 of a bit, given as three bits of a number (R503). -/
def majority (x : Nat) : Bool := decide (boolNat (bit x 0) + boolNat (bit x 1) + boolNat (bit x 2) ≥ 2)
def unanimous (x : Nat) : Bool := x % 8 == 0 || x % 8 == 7

/-- A byte received (R506): a full buffer drops it, recorded at most once per second. -/
def State.uartTake (s : State) (n : Nat) (v : Byte) : State :=
  let u := s.uart n
  if u.rx.length < 4096 then s.modUart n (fun u => { u with rx := u.rx ++ [v] })
  else
    let s := s.uartCount n 4 1
    let lost := u.lost + 1
    if (u.lostAt.map (fun t => s.tb3Passed t 1000000)).getD true then
      (s.modUart n (fun u => { u with lost := 0, lostAt := some s.tb3 })).post 0x1104 (le 1 n ++ le 4 lost)
    else s.modUart n (fun u => { u with lost := lost })

/-- A character as the receiver judges it (R503, R505), `smp` the samples of its bits from the start bit on. -/
def State.uartChar (s : State) (n : Nat) (smp : List Nat) : State :=
  let u := s.uart n
  let x (i : Nat) : Nat := smp.getD i 7
  if !u.enable then s
  else if majority (x 0) then s.uartCount n 0 1
  else
    let d := fmtData u.format
    let par := fmtParity u.format
    let k := 1 + d + boolNat (par != 0) + fmtStop u.format
    let s := s.uartCount n 0 ((List.range k).countP (fun i => !unanimous (x i)))
    let data := (List.range d).map (fun i => majority (x (1 + i)))
    let odd := (data ++ [majority (x (1 + d))]).count true % 2 == 1
    let parBad := par != 0 && odd != (par == 2)
    let stopBad := !majority (x (k - 1))
    let s := if stopBad then s.uartCount n 1 1 else s
    let s := if parBad then s.uartCount n 2 1 else s
    if stopBad || parBad then s
    else
      let s := s.uartCount n 5 1
      let v := BitVec.ofNat 8 (bitsNat data)
      if n = 0 then s.unstuff v else s.uartTake n v

/-- A break (R505, R38). -/
def State.uartBreak (s : State) (n : Nat) : State :=
  if !(s.uart n).enable then s
  else
    let s := s.uartCount n 3 1
    let f := s.serial.frame
    if n = 0 && f.open_ && (f.esc || f.bytes != []) then { s with serial.frame := {} }.framingError else s

/-- The settings of a SET_UART take effect (R507). -/
def Uart.apply (u : Uart) : Uart :=
  match u.next with
  | none => u
  | some (on, rate, fmt, owner) =>
    { u with enable := on, rate := rate, format := fmt, owner := owner, next := none, tx := if on then u.tx else [] }

/-- An idle transmitter takes the next byte. -/
def Uart.feed (u : Uart) : Uart :=
  if u.sending.isSome || !u.enable then u
  else
    match u.tx with
    | [] => u
    | b :: t => { u with sending := some b.toNat, tx := t }

/-- A character has left (R507). -/
def State.uartSent (s : State) (n : Nat) : State :=
  let s := match (s.uart n).sending with
    | some v => s.emit (.uart n v)
    | none => s
  s.modUart n (fun u => { u with sending := none }.apply.feed)

/-! ### Binary inputs -/

/-- An input drives its signal from the instant at which images see it (R509), and its interrupt line. -/
def State.driveBin (s : State) (n : Nat) : State :=
  match s.serial.ins.get n with
  | none => s
  | some x =>
    let s := s.setLine (800 + n) x.value
    if x.st = .disabled then s
    else s.setSignal x.signal (s.now + 2000 * qNs) (boolNat x.value) (if x.st = .normal then sbValid else 0)

def State.setBin (s : State) (n : Nat) (x : BinIn) : State := { s with serial.ins := s.serial.ins.put n x }.driveBin n

/-- RAW has stood at `raw` for `held` µs of samples (R508). -/
def State.binAccept (s : State) (n : Nat) (level : Bool) (held : Nat) : State :=
  match s.serial.ins.get n with
  | none => s
  | some x =>
    let raw := level != x.invert
    let take (x : BinIn) : BinIn := { x with value := raw, oneAt := s.tb3 }
    if x.st = .disabled then s
    else if x.first then if held ≥ x.debounce then s.setBin n { take x with first := false } else s
    else if raw = x.value || held < x.debounce + 1 then s
    else
      let recent := x.changes.filter (fun t => decide (tDiff s.tb3 t ≤ (x.windowMs * 1000000 * 2 ^ 40 : Nat)))
      match x.st with
      | .disabled => s
      | .normal =>
        if recent.length ≥ x.count then
          (s.setBin n { x with st := .chatter, changes := recent }).post 0x1101 (le 1 n ++ le 1 (boolNat x.value))
        else s.setBin n { take x with changes := recent ++ [s.tb3] }
      | .chatter => s
      | .stuck => (s.setBin n { take x with st := .normal, changes := recent ++ [s.tb3] }).post 0x1103 (le 1 n ++ le 1 0)

/-- RAW has not changed for `held` µs (R508, CHATTER to NORMAL). -/
def State.binRelease (s : State) (n : Nat) (level : Bool) (held : Nat) : State :=
  match s.serial.ins.get n with
  | none => s
  | some x =>
    let raw := level != x.invert
    if x.st = .chatter ∧ held ≥ x.release * 1000 then
      let at_ := if raw = x.value then x.oneAt else s.tb3
      (s.setBin n { x with st := .normal, value := raw, oneAt := at_, changes := [] }).post 0x1102
        (le 1 n ++ le 1 (boolNat raw))
    else s

/-- VALUE has been 1 for STUCK_MS (R508). -/
def State.binStuck (s : State) (n : Nat) : State :=
  match s.serial.ins.get n with
  | none => s
  | some x =>
    if x.st = .normal ∧ x.stuckMs > 0 ∧ x.value ∧ s.tb3Passed x.oneAt (x.stuckMs * 1000) then
      (s.setBin n { x with st := .stuck }).post 0x1103 (le 1 n ++ le 1 1)
    else s

/-! ### Binary outputs -/

/-- The ball of an output (R510, R511): its level, or none at high impedance; and whether it is held at SAFE_LEVEL or not
driven. -/
def State.binBall (s : State) (n : Nat) : Option Bool × Bool :=
  let o := s.serial.outs.getD n {}
  if !o.enable then (none, true)
  else
    let (v, st) := s.sigRecord o.signal s.now
    if !s.pair.pubEnable || s.anvil.hub == .fatal || (o.onInvalid && !bit st 0) then (some o.safe, true)
    else (some (v != 0), false)

end Sys2Proof.Machine
end

