-- ==== Sys2Proof/Machine/Serial.lean ====
section
/-! DEFINITION. The serial and binary I/O family (22 R513), and its events. -/
namespace Sys2Proof.Machine

/-- SET_UART (0x1101), R507: on the UART that carries the command it waits for the reply to leave. -/
def cardSetUart : Card where
  opcode := 0x1101
  level := .m
  len := .exact 2
  reserved p := firstNonzero p [(5, 3)]
  params _ c :=
    let p := c.params
    let z := byteAt p 0 == 0
    firstBad [
      (0, decide (byteAt p 0 ≤ 3)),
      (1, decide (byteAt p 1 ≤ 1) && (!z || byteAt p 1 == 1)),
      (2, decide (byteAt p 2 ≤ 7)),
      (3, decide (byteAt p 3 < 16) && fmtParity (byteAt p 3) != 3 && (!z || byteAt p 3 == 0)),
      (4, decide (byteAt p 4 ≤ 0x3F) && (!z || byteAt p 4 == 0))]
  run s c :=
    let p := c.params
    let n := byteAt p 0
    let on := if n = 0 then (s.uart 0).enable else byteAt p 1 == 1
    let s := s.modUart n (fun u => { u with next := some (on, byteAt p 2, byteAt p 3, byteAt p 4) })
    let busy := (s.uart n).sending.isSome || (n == 0 && c.chan == 64)
    .ok (if busy then s else s.modUart n (fun u => u.apply.feed)) []

def execSetUart (dt : Nat) (c : Cmd) (s : State) : Host.Outcome State Fault Refusal := runCard cardSetUart dt c s

/-- UART1 to UART3 are owned by the OWNER set for them (R513). -/
def uartOwner (s : State) (p : Bytes) : Option Nat :=
  if 1 ≤ byteAt p 0 ∧ byteAt p 0 ≤ 3 then some (s.uart (byteAt p 0)).owner else none

/-- UART and N or MAX. -/
def uartParams (p : Bytes) : Option Nat :=
  firstBad [(0, decide (1 ≤ byteAt p 0) && decide (byteAt p 0 ≤ 3)), (2, decide (1 ≤ u16 p 2) && decide (u16 p 2 ≤ 4000))]

/-- UART_WRITE (0x1102), R506. -/
def cardUartWrite : Card where
  opcode := 0x1102
  level := .o
  len := .form 1 1001 (fun p => 1 + ceilDiv (u16 p 2) 4)
  reserved p := firstNonzero p [(1, 1), (4 + u16 p 2, 3)]
  params _ c := uartParams c.params
  owner := uartOwner
  run s c :=
    let n := byteAt c.params 0
    let u := s.uart n
    let d := slice c.params 4 (u16 c.params 2)
    if !u.enable then .wrong 1
    else if u.tx.length + d.length > 4096 then .noRes 1
    else .ok (s.modUart n (fun u => { u with tx := u.tx ++ d }.feed)) []

def execUartWrite (dt : Nat) (c : Cmd) (s : State) : Host.Outcome State Fault Refusal := runCard cardUartWrite dt c s

/-- UART_READ (0x1103). -/
def cardUartRead : Card where
  opcode := 0x1103
  level := .o
  len := .exact 1
  most _ c := 2 + ceilDiv (u16 c.params 2) 4
  reserved p := firstNonzero p [(1, 1)]
  params _ c := uartParams c.params
  owner := uartOwner
  run s c :=
    let n := byteAt c.params 0
    let d := (s.uart n).rx.take (u16 c.params 2)
    .ok (s.modUart n (fun u => { u with rx := u.rx.drop d.length })) (le 2 d.length ++ zeros 2 ++ d)

def execUartRead (dt : Nat) (c : Cmd) (s : State) : Host.Outcome State Fault Refusal := runCard cardUartRead dt c s

/-- GET_UART_STATUS (0x1104). -/
def cardGetUartStatus : Card where
  opcode := 0x1104
  level := .r
  changes := false
  len := .exact 1
  most _ _ := 8
  reserved p := orElseOpt (reservedBits p [(1, 0xFE)]) (firstNonzero p [(2, 2)])
  params _ c := firstBad [(0, decide (byteAt c.params 0 ≤ 3))]
  run s c :=
    let n := byteAt c.params 0
    let u := s.uart n
    let t := if bit (byteAt c.params 1) 0 then s.modUart n (fun u => { u with counters := u.counters.map (fun _ => 0) }) else s
    .ok t (le 2 u.rx.length ++ le 2 u.tx.length ++ u.counters.flatMap (le 4))

def execGetUartStatus (dt : Nat) (c : Cmd) (s : State) : Host.Outcome State Fault Refusal := runCard cardGetUartStatus dt c s

/-- SET_BINARY_INPUT (0x1105), R508: an enabled input keeps its state under new settings. -/
def cardSetBinaryInput : Card where
  opcode := 0x1105
  level := .m
  len := .exact 4
  reserved p := orElseOpt (reservedBits p [(1, 0xFC)]) (firstNonzero p [(7, 1)])
  params _ c :=
    let p := c.params
    firstBad [
      (0, decide (byteAt p 0 ≤ 31)),
      (4, decide (u16 p 4 ≤ 20000)),
      (6, decide (1 ≤ byteAt p 6)),
      (8, decide (10 ≤ u16 p 8) && decide (u16 p 8 ≤ 60000)),
      (10, decide (100 ≤ u16 p 10) && decide (u16 p 10 ≤ 60000)),
      (12, u32 p 12 == 0 || (decide (1000 ≤ u32 p 12) && decide (u32 p 12 ≤ 86400000)))]
  run s c :=
    let p := c.params
    let n := byteAt p 0
    let on := bit (byteAt p 1) 0
    let src : SigSrc := .binaryIn n
    let old := s.serial.ins.getD n {}
    let set (x : BinIn) : BinIn := { x with
      invert := bit (byteAt p 1) 1, signal := u16 p 2, debounce := u16 p 4, count := byteAt p 6, windowMs := u16 p 8
      release := u16 p 10, stuckMs := u32 p 12 }
    if !on then .ok ((s.releaseSignals (· == src)).setBin n (set {})) []
    else if s.drivenByOther (u16 p 2) src then .wrong 6
    else
      let same := old.st != .disabled && old.signal == u16 p 2
      let s := if same then s else (s.releaseSignals (· == src)).bindSignal (u16 p 2) src
      .ok (s.setBin n (if old.st = .disabled then set { st := .normal, first := true } else set old)) []

def execSetBinaryInput (dt : Nat) (c : Cmd) (s : State) : Host.Outcome State Fault Refusal := runCard cardSetBinaryInput dt c s

/-- SET_BINARY_OUTPUT (0x1106). -/
def cardSetBinaryOutput : Card where
  opcode := 0x1106
  level := .m
  len := .exact 1
  reserved p := reservedBits p [(1, 0xF8)]
  params _ c := firstBad [(0, decide (byteAt c.params 0 ≤ 31))]
  run s c :=
    let p := c.params
    let o : BinOut := { enable := bit (byteAt p 1) 0, safe := bit (byteAt p 1) 1, onInvalid := bit (byteAt p 1) 2, signal := u16 p 2 }
    .ok { s with serial.outs := s.serial.outs.put (byteAt p 0) o } []

def execSetBinaryOutput (dt : Nat) (c : Cmd) (s : State) : Host.Outcome State Fault Refusal := runCard cardSetBinaryOutput dt c s

/-- GET_BINARY_IO (0x1107). -/
def cardGetBinaryIo : Card where
  opcode := 0x1107
  level := .r
  changes := false
  len := .exact 0
  most _ _ := 6
  run s _ :=
    let ins (f : BinIn → Bool) : Bytes := le 4 (bitsNat ((List.range 32).map (fun n => f (s.serial.ins.getD n {}))))
    let outs (f : Option Bool × Bool → Bool) : Bytes := le 4 (bitsNat ((List.range 32).map (fun n => f (s.binBall n))))
    .ok s (ins (·.value) ++ ins (·.st == .chatter) ++ ins (·.st == .stuck) ++ outs (fun b => b.1 == some true) ++ outs (·.2))

def execGetBinaryIo (dt : Nat) (c : Cmd) (s : State) : Host.Outcome State Fault Refusal := runCard cardGetBinaryIo dt c s

/-! ### Events -/

/-- Does the module run: powered and out of reset (15 R389, 23 R514)? -/
def State.running (s : State) : Bool := s.boot.phase == .ready || s.boot.phase == .recovery

/-- UART_CHARACTER (R503): `smp` are the samples 7, 8 and 9 of each bit, three bits each. -/
def execUartCharacter (dt n : Nat) (smp : List Nat) (s : State) : Host.Outcome State Fault Refusal :=
  let s := s.advance dt
  .next (if s.running then s.uartChar n smp else s)

/-- UART_BREAK (R505). -/
def execUartBreak (dt n : Nat) (s : State) : Host.Outcome State Fault Refusal :=
  let s := s.advance dt
  .next (if s.running then s.uartBreak n else s)

/-- UART_TX_COMPLETE (R507). -/
def execUartTxComplete (dt n : Nat) (s : State) : Host.Outcome State Fault Refusal := .next ((s.advance dt).uartSent n)

/-- BIN_CHANGE_ACCEPTED (R508): the ball of input `n` has been sampled at `level` for `held` µs. -/
def execBinChangeAccepted (dt n : Nat) (level : Bool) (held : Nat) (s : State) : Host.Outcome State Fault Refusal :=
  .next ((s.advance dt).binAccept n level held)

/-- CHATTER_RELEASE (R508): likewise. -/
def execChatterRelease (dt n : Nat) (level : Bool) (held : Nat) (s : State) : Host.Outcome State Fault Refusal :=
  .next ((s.advance dt).binRelease n level held)

/-- BIN_STUCK_TIMEOUT (R508). -/
def execBinStuckTimeout (dt n : Nat) (s : State) : Host.Outcome State Fault Refusal := .next ((s.advance dt).binStuck n)

end Sys2Proof.Machine
end

