-- ==== Sys2Proof/Machine/SchedOps.lean ====
section
/-! DEFINITION. Schedules of the Stratus bus: the container, the frames of a round, its timing, and the rounds on TB2 (13 R325
to R329, LOAD_SCHEDULE). -/
namespace Sys2Proof.Machine

/-! ### The container -/

def schTicks (b : Bytes) : Nat := byteAt b 2
def schPhase (b : Bytes) : Nat := byteAt b 3
def schOffset (b : Bytes) : Nat := u32 b 4
def schManager (b : Bytes) : Nat := byteAt b 8
def schBackup (b : Bytes) : Nat := byteAt b 9
def schSync (b : Bytes) : List Nat := (List.range (byteAt b 0x0A)).map (fun i => byteAt b (0x0C + i))
def schMask (b : Bytes) : Nat := u32 b 0x14

/-- An entry: its offset in the container, SOURCE, signal IDs. -/
structure SchEntry where
  off  : Nat
  src  : Nat
  sigs : List Nat

/-- Bytes of an entry of `n` signals, padded to a whole word. -/
def entrySize (n : Nat) : Nat := 4 + (2 * n + 3) / 4 * 4

/-- The entries of a container, from the offset of the first. -/
def schWalk : Nat → Bytes → Nat → List SchEntry
  | 0, _, _ => []
  | n + 1, b, o =>
    let k := byteAt b (o + 1)
    { off := o, src := byteAt b o, sigs := (List.range k).map (fun i => u16 b (o + 4 + 2 * i)) } ::
      schWalk n b (o + entrySize k)

def schEntries (b : Bytes) : List SchEntry := schWalk (min (u16 b 0x18) 1024) b 0x20

/-- Offset past the last entry. -/
def schEnd (b : Bytes) : Nat := 0x20 + ((schEntries b).map (fun e => entrySize e.sigs.length)).foldl (· + ·) 0

/-- The first field of a container of `total` bytes that is out of range. -/
def schFault (b : Bytes) (version total : Nat) : Option Nat :=
  let inMask (n : Nat) : Bool := decide (n ≤ 31) && bit (schMask b) n
  let es := schEntries b
  orElseOpt (firstBad [(0, u16 b 0 == version && version != 0), (2, decide (1 ≤ schTicks b) && decide (schTicks b ≤ 64)),
    (3, decide (schPhase b < schTicks b)), (4, decide (schOffset b ≤ 10416)), (8, inMask (schManager b)),
    (9, schBackup b == 0xFF || inMask (schBackup b)), (0x0A, decide (byteAt b 0x0A ≤ 8)), (0x0B, byteAt b 0x0B == 0)])
   (orElseOpt ((List.range 8).findSome? (fun i =>
      let v := byteAt b (0x0C + i)
      if (if i < byteAt b 0x0A then inMask v else v == 0xFF) then none else some (0x0C + i)))
   (orElseOpt (firstBad [(0x18, decide (1 ≤ u16 b 0x18) && decide (u16 b 0x18 ≤ 1024)), (0x1A, u16 b 0x1A == 0),
      (0x1C, u32 b 0x1C == total)])
   (orElseOpt (es.findSome? (fun e =>
      if !inMask e.src then some e.off
      else if e.sigs.length = 0 || e.sigs.length > 64 then some (e.off + 1)
      else if u16 b (e.off + 2) ≠ 0 then some (e.off + 2)
      else none))
    (if schEnd b + 4 = total then none else some 0x1C))))

/-! ### Frames and timing (R326, R327, R329) -/

/-- Bytes of a slot record of `n` signals. -/
def recSize (n : Nat) : Nat := 8 + 8 * n

/-- Offset of SLOTS in the PDU of a frame. -/
def slotsOff (frame : Nat) : Nat := if frame = 0 then 0x1D8 else 0x18

/-- The frames of a round: the slots each carries, packed in table order. `cur` are the slots of the frame being filled, newest
first, `used` its PDU bytes. -/
def packFrames : List (Nat × SchEntry) → List Nat → Nat → List (List Nat)
  | [], cur, _ => [cur.reverse]
  | (i, e) :: l, cur, used =>
    let n := recSize e.sigs.length
    if used + n ≤ 1468 then packFrames l (i :: cur) (used + n) else cur.reverse :: packFrames l [i] (0x18 + n)

def schFrames (b : Bytes) : List (List Nat) :=
  let es := schEntries b
  packFrames ((List.range es.length).zip es) [] 0x1D8

/-- PDU bytes of frame `p`. -/
def pduBytes (es : List SchEntry) (p : Nat) (slots : List Nat) : Nat :=
  slotsOff p + (slots.map (fun i => recSize (((es[i]?).map (fun (e : SchEntry) => e.sigs.length)).getD 0))).foldl (· + ·) 0

/-- Wire time of a frame with gap in units of 0.01 ns: (PDU + 50 + 20) × 0.32 ns, 100 ns. -/
def slotTime (pdu : Nat) : Nat := (pdu + 70) * 32 + 10000

/-- Start of frame `p` after R_r, and TRAIN where `p` is the number of frames, in 0.01 ns. -/
def trainTo (b : Bytes) (p : Nat) : Nat :=
  let es := schEntries b
  let fs := schFrames b
  ((List.range (min p fs.length)).map (fun i => slotTime (pduBytes es i (fs.getD i [])))).foldl (· + ·) 0

def trainW (b : Bytes) : Nat := 2 * trainTo b 32
/-- LAP_W with HOP 250 ns. -/
def lapW (devices delay : Nat) : Nat := 2 * devices * (25000 + 100 * delay)
/-- D2, and T_COMMIT, in 0.01 ns. -/
def d2 (b : Bytes) (devices delay : Nat) : Nat := max (trainW b) (lapW devices delay)
def tCommit (b : Bytes) (devices delay : Nat) : Nat := trainW b + d2 b devices delay + lapW devices delay + 50000

/-- 0.01 ns in 1/589824 ns, rounded up. -/
def centQ (c : Nat) : Nat := ceilDiv (c * qNs) 100

def State.devices (s : State) : Nat := (s.stratus.cfg.map (·.devices)).getD 0
def State.delayMax (s : State) : Nat := (s.stratus.cfg.map (·.linkDelay)).getD 0

/-- Does the round hold the commit and lap 2 (R329)? -/
def State.roundFits (s : State) (b : Bytes) : Bool :=
  decide (3 * (tCommit b s.devices s.delayMax + lapW s.devices s.delayMax + 200000) ≤ schTicks b * 3125000)

/-! ### Rounds on TB2 (R325) -/

/-- TB2 now in 1/589824 ns. -/
def State.tb2Q (s : State) : Nat := 9 * vis s.horizon.tb2

/-- R_r. -/
def roundStart (b : Bytes) (r : Nat) : Nat := boundaryQ (r * schTicks b + schPhase b) + schOffset b * qNs

/-- C_r. -/
def State.commitAt (s : State) (b : Bytes) (r : Nat) : Nat := roundStart b r + centQ (tCommit b s.devices s.delayMax)

/-- The round that has started last by an instant of TB2. -/
def roundAt (b : Bytes) (q : Nat) : Option Nat :=
  if q < roundStart b 0 then none else some ((q - roundStart b 0) / (max (schTicks b) 1 * qTick))

/-- The first round that starts at or after an instant. -/
def roundFrom (b : Bytes) (q : Nat) : Nat := ceilDiv (q - roundStart b 0) (max (schTicks b) 1 * qTick)

/-- An instant of TB2 in protection time (14 R364). -/
def State.toPt (s : State) (q : Nat) : Nat := ((q : Int) - 9 * s.horizon.delta).toNat

/-! ### Records (R326, R332, R334) -/

/-- A slot record of round `r` with its CRC. -/
def slotRecord (r slot src : Nat) (sigs : List SlotSig) : Bytes :=
  let head := le 2 slot ++ le 1 src ++ le 1 sigs.length
  let body := sigs.flatMap (fun g => le 4 g.value ++ le 4 g.flags)
  head ++ le 4 (crc32c (le 8 r ++ head ++ zeros 4 ++ body)) ++ body

/-- A slot record as a device reads it: slot, signals, CRC good; and the offset of the next. -/
def readRecord (r : Nat) (p : Bytes) (o : Nat) : Nat × List SlotSig × Bool × Nat :=
  let n := byteAt p (o + 3)
  let head := slice p o 4
  let body := slice p (o + 8) (8 * n)
  (u16 p o, (List.range n).map (fun i => { value := u32 body (8 * i), flags := u32 body (8 * i + 4) }),
    u32 p (o + 4) == crc32c (le 8 r ++ head ++ zeros 4 ++ body), o + recSize n)

/-- The slot records of a PDU from offset `o` up. -/
def readRecords : Nat → Nat → Bytes → Nat → List (Nat × Nat × List SlotSig × Bool)
  | 0, _, _, _ => []
  | fuel + 1, r, p, o =>
    if o + 8 > p.length then []
    else
      let (slot, sigs, ok, nx) := readRecord r p o
      (o, slot, sigs, ok) :: readRecords fuel r p nx

/-- Bytes written over a PDU at an offset. -/
def patch (p : Bytes) (o : Nat) (v : Bytes) : Bytes := p.take o ++ v ++ p.drop (o + v.length)

/-- The manager's record: nobody has written it (R330). -/
def blankSigs (g : List SlotSig) : Bool := g.all (fun x => x.value == 0 && x.flags == 0)

def schSigs (es : List SchEntry) (i : Nat) : List Nat := ((es[i]?).map (·.sigs)).getD []
def schSrc (es : List SchEntry) (i : Nat) : Nat := ((es[i]?).map (·.src)).getD 0xFF

/-- A poll frame as the manager writes it (R326, R327). -/
def pollPdu (b : Bytes) (r level index n node epoch ring : Nat) (slots : List Nat) : Bytes :=
  let es := schEntries b
  let head := ascii [3, 1, 0, 0] ++ le 8 r ++ slice b 0 2 ++ le 1 level ++ le 1 index ++ le 1 n ++ le 1 node ++ le 1 1 ++ le 1 ring ++
    le 4 epoch
  let sync := (List.range 8).flatMap (fun i => le 1 ((schSync b).getD i 0xFF) ++ zeros 23)
  let areas := if index = 0 then zeros 256 ++ sync else []
  head ++ areas ++ slots.flatMap (fun i => slotRecord r i (schSrc es i) ((schSigs es i).map (fun _ => { value := 0, flags := 0 })))

/-- STATE, LEVEL, FLAGS and TABLE_VERSION of this module (R332). -/
def State.nodeEntry (s : State) : Bytes :=
  let st := if s.anvil.hub = .fatal then 3 else if s.stratus.st = .running then 2 else 1
  let newest := s.stratus.tables.foldl (fun a e => max a e.1) 0
  let sync := s.stratus.sync == .fta && decide (16 ≤ s.stratus.syncRun)
  le 1 st ++ le 1 (s.level % 16) ++ le 1 (bitsNat [sync, s.pair.st != .unpaired, s.stratus.isBackup]) ++ zeros 1 ++ le 2 newest ++
    zeros 2

end Sys2Proof.Machine
end

