-- ==== Sys2Proof/Machine/StratusOps.lean ====
section
/-! DEFINITION. Stratus at work: rounds, poll frames, commits, cluster time, management messages and takeover (13 R324 to
R345). -/
namespace Sys2Proof.Machine

def State.stratusOn (s : State) : Bool := s.stratus.st != .disabled

/-- Counts ICV_FAIL 0, RING_DIFFER 1, TAKEOVERS 2. -/
def State.stratusCount (s : State) (i : Nat) : State := { s with stratus.counters := modAt s.stratus.counters i inc32 }

/-- The level in force changes (R343). -/
def State.setLevel (s : State) (l : Nat) : State :=
  if s.stratus.level = l then s else { s with stratus.level := l }.post 0x0902 (le 1 s.stratus.level ++ le 1 l)

/-! ### What this device writes into a frame (R330, R332, R334) -/

/-- The own slots' values at R_r (R330). -/
def State.latchSlots (s : State) (b : Bytes) (r : Nat) : Tab (List SlotSig) :=
  let es := schEntries b
  let at_ := s.toPt (roundStart b r)
  ((List.range es.length).zip es).filterMap (fun e =>
    if e.2.src = s.ownNode then
      some (e.1, e.2.sigs.map (fun g =>
        let (v, st) := s.sigRecord g at_
        { value := v, flags := boolNat (bit st 0 || bit st 2) + 4 * boolNat (bit st 2) }))
    else none)

/-- CORR of every filled sync record grows by the ingress link's delay and the residence time (R334). -/
def ageSync (p : Bytes) (add : Int) : Bytes :=
  (List.range 8).foldl (fun p i =>
    let o := 0x118 + 24 * i
    if byteAt p (o + 1) = 1 then patch p (o + 0x10) (leS 8 (s64 p (o + 0x10) + add)) else p) p

/-- A sync node's record is filled with its TB2 at its OUT port, in 2^-16 ns (R334). -/
def fillSync (p : Bytes) (node t : Nat) : Bytes :=
  (List.range 8).foldl (fun p i =>
    let o := 0x118 + 24 * i
    if byteAt p o = node && byteAt p (o + 1) = 0 then
      patch p o (le 1 node ++ le 1 1 ++ zeros 2 ++ le 8 (t / 65536) ++ le 2 (t % 65536) ++ zeros 2 ++ zeros 8) else p) p

/-- The first passage of a frame on lap 1 on a ring: slots, node entry, sync record (R330, R332, R334). -/
def State.insertOwn (s : State) (p : Bytes) (index ring tOut : Nat) : Bytes × State :=
  if s.stratus.inserted.contains (index, ring) then (p, s)
  else
    let s := { s with stratus.inserted := s.stratus.inserted ++ [(index, ring)] }
    let r := u64 p 4
    let node := s.ownNode
    let p :=
      match s.stratus.tables.get (u16 p 0x0C) with
      | none => p
      | some b =>
        if s.mayPublish && bit (schMask b) node then
          (readRecords 200 r p (slotsOff index)).foldl (fun p e =>
            match s.stratus.latched.get e.2.1 with
            | some g => if byteAt p (e.1 + 2) = node && g.length = e.2.2.1.length then patch p e.1 (slotRecord r e.2.1 node g) else p
            | none => p) p
        else p
    if index ≠ 0 then (p, s)
    else
      let p := if s.mayPublish then patch p (0x18 + 8 * node) s.nodeEntry else p
      (fillSync p node tOut, s)

/-! ### Rounds (R325 to R327, R340) -/

/-- The highest level that every node of NODE_MASK has last reported (R342). -/
def State.levelInForce (s : State) (b : Bytes) : Nat :=
  let ls := (bitList 32 (schMask b)).filterMap (fun n =>
    if n = s.ownNode then some s.level else (s.stratus.nodeLast.get n).map (fun e => byteAt e 1 % 16))
  match ls with
  | [] => s.level
  | l :: t => t.foldl min l

/-- A schedule activation whose round has come takes effect. -/
def State.takeActivation (s : State) : State :=
  match s.stratus.activation with
  | some { version := v, waiting := _, since := _, round := some r } =>
    match s.stratus.tables.get v with
    | some b =>
      if s.tb2Q ≥ roundStart b r then
        { s with stratus := { s.stratus with version := v, manager := schManager b, backup := schBackup b, activation := none,
                                             started := none, isBackup := s.boot.role != 1 && schBackup b == s.ownNode } }
      else s
    | none => s
  | _ => s

/-- A MANAGER_TAKEOVER record (21 R489). -/
def State.postTakeover (s : State) (old new round : Nat) : State :=
  s.post 0x0901 (le 1 old ++ le 1 new ++ le 4 s.stratus.epoch ++ le 8 round)

/-- The handover's round has come (R340): the old manager stops, the backup polls with EPOCH + 1. -/
def State.takeHandover (s : State) (r : Nat) : State :=
  match s.stratus.handover with
  | none => s
  | some h =>
    if r < h then s
    else
      let m := s.stratus.manager
      let s := { s with stratus := { s.stratus with handover := none, manager := s.stratus.backup, backup := m } }
      if s.stratus.polling then
        { s with stratus := { s.stratus with polling := false, isBackup := true }, boot.role := 2 }.finishWait .handover
          (stOk, 0, le 8 h)
      else if s.stratus.isBackup then
        let e := s.stratus.epoch + 1
        { s with stratus := { s.stratus with polling := true, isBackup := false, epoch := e, ownEpoch := e }
                 boot.role := 1 }.postTakeover m s.ownNode h
      else s

/-- The manager's poll frames of round `r` leave on both rings (R326, R327). -/
def State.sendRound (s : State) (b : Bytes) (r : Nat) : State :=
  let fs := schFrames b
  [0, 1].foldl (fun s ring =>
    (List.range fs.length).foldl (fun s i =>
      let p := pollPdu b r s.stratus.level i fs.length s.ownNode s.stratus.ownEpoch ring (fs.getD i [])
      let (p, s) := s.insertOwn p i ring (vis s.horizon.tb2)
      match s.keyedOut ring with
      | some port => s.emit (.stratus port p true)
      | none => s) s) s

/-- A manager polls once it no longer listens and a schedule is active (R325, 23 R516). -/
def State.startPolling (s : State) : State :=
  if s.boot.role == 1 && !s.stratus.polling && s.stratus.listenAt.isNone && s.stratusOn && s.stratus.version != 0 &&
      s.stratus.manager == s.ownNode then
    let e := max s.stratus.ownEpoch 1
    { s with stratus := { s.stratus with polling := true, ownEpoch := e, epoch := max s.stratus.epoch e } }
  else s

/-- Round `r` of table `b` opens (R325, R326, R330). -/
def State.openRound (s : State) (b : Bytes) (r : Nat) : State :=
  let s := (s.takeHandover r).startPolling
  let s := { s with stratus := { s.stratus with
    started := some r, seen := [], frames := [], inserted := [], held := [], lap2 := false, polled := false, meas := []
    nodeNew := [], latched := s.latchSlots b r } }
  if s.stratus.polling then (s.setLevel (s.levelInForce b)).sendRound b r else s

/-- The table in force and the round that has come, where it is not open yet. -/
def State.dueRound (s : State) : Option (Bytes × Nat) :=
  (s.stratus.tables.get s.stratus.version).bind (fun b => (roundAt b s.tb2Q).bind (fun r =>
    if (s.stratus.started.map (fun k => decide (r ≤ k))).getD false then none else some (b, r)))

/-- R_r: the round that has come opens. -/
def State.beginRound (s : State) : State :=
  if !s.stratusOn then s
  else
    let s := s.takeActivation
    match s.dueRound with
    | none => s
    | some (b, r) => s.openRound b r

/-! ### Poll frames received (R328, R331, R334, R339) -/

/-- Epochs (R339, 23 R516): a manager that meets a higher epoch, or any poll frame while it listens, becomes the backup. -/
def State.meetEpoch (s : State) (e node : Nat) : State :=
  let listening := s.stratus.listenAt.isSome
  let higher := decide (e > s.stratus.epoch)
  let s := { s with stratus := { s.stratus with epoch := max s.stratus.epoch e, listenAt := none } }
  if (higher && s.boot.role == 1) || listening then
    { s with stratus := { s.stratus with polling := false, isBackup := true, manager := node, backup := s.ownNode }
             boot.role := 2 }
  else if higher then { s with stratus.manager := node } else s

/-- A record of the round that runs (R331): taken if its CRC holds, unless it came after C_r. -/
def State.takeRecord (s : State) (late : Bool) (ring slot : Nat) (sigs : List SlotSig) (ok : Bool) : State :=
  let k := 2 * slot + ring
  let f (x : SlotSeen) : SlotSeen :=
    if late then { x with late := true }
    else if !ok then { x with crcBad := true }
    else if (x.taken.map (fun g => !blankSigs g)).getD false && blankSigs sigs then x
    else { x with taken := some sigs, ready := !blankSigs sigs }
  { s with stratus.seen := s.stratus.seen.modD k {} f }

/-- A slot that was counted MISSED, or that had only bad records, had one after C_r: the round counts as LATE (R331). -/
def State.lateSlot (s : State) (slot : Nat) : State :=
  let a := s.stratus.seen.getD (2 * slot) {}
  let b := s.stratus.seen.getD (2 * slot + 1) {}
  if a.taken.isSome || b.taken.isSome || a.crcBad || b.crcBad || a.late || b.late then s
  else { s with stratus.binds := s.stratus.binds.upd slot (fun x =>
    { x with counters := modAt (modAt x.counters 3 (· - 1)) 4 inc32 }) }

/-- The slots of a verified frame. -/
def State.readSlots (s : State) (p : Bytes) (late : Bool) : State :=
  let ring := byteAt p 0x13
  (readRecords 200 (u64 p 4) p (slotsOff (byteAt p 0x0F))).foldl (fun s e =>
    let s := if late then s.lateSlot e.2.1 else s
    s.takeRecord late ring e.2.1 e.2.2.1 e.2.2.2) s

/-- The node area and the sync records of a verified frame 0. -/
def State.readAreas (s : State) (p : Bytes) (tIn : Nat) (delay : Int) : State :=
  let ring := byteAt p 0x13
  let s := (List.range 32).foldl (fun s n =>
    let e := slice p (0x18 + 8 * n) 8
    if byteAt e 0 = 0 then s else { s with stratus.nodeNew := s.stratus.nodeNew.put n e }) s
  (List.range 8).foldl (fun s i =>
    let o := 0x118 + 24 * i
    let n := byteAt p o
    if byteAt p (o + 1) ≠ 1 || n = s.ownNode || s.stratus.meas.any (fun m => m.1 == n && m.2.1 == ring) then s
    else
      let sent : Int := (u64 p (o + 4) * 65536 + u16 p (o + 0x0C) : Nat)
      let d := (tIn : Int) - (sent + s64 p (o + 0x10) + delay)
      { s with stratus.meas := s.stratus.meas ++ [(n, ring, d)] }) s

/-- Everything this device takes from a verified frame of the highest epoch. -/
def State.readPoll (s : State) (p : Bytes) (rx : StratusRx) (delay : Int) : State :=
  let s := s.setLevel (byteAt p 0x0E % 16)
  let s := if s.stratus.tables.has (u16 p 0x0C) && s.stratus.version != u16 p 0x0C && s.stratus.activation.isNone then
      { s with stratus.version := u16 p 0x0C, stratus.started := none } else s
  match s.stratus.tables.get s.stratus.version, s.stratus.started with
  | some b, some r =>
    if u64 p 4 ≠ r || u16 p 0x0C ≠ s.stratus.version then s
    else if 9 * rx.tIn > s.commitAt b r then s.readSlots p true
    else
      let key := (byteAt p 0x0F, byteAt p 0x13)
      let s := { s with stratus := { s.stratus with
        polled := true, lap2 := s.stratus.lap2 || (key.1 == 0 && byteAt p 0x12 == 2)
        frames := if s.stratus.frames.contains key then s.stratus.frames else s.stratus.frames ++ [key] } }
      let s := s.readSlots p false
      if key.1 = 0 then s.readAreas p rx.tIn delay else s
  | _, _ => s

/-- A frame leaves on the OUT port of the ring it came on (R324). -/
def State.forwardPoll (s : State) (ring : Nat) (p : Bytes) (good : Bool) : State :=
  match s.keyedOut ring with
  | some port => s.emit (.stratus port p good)
  | none => s

/-- The ring of an IN port. -/
def State.inRing (s : State) (port : Nat) : Option Nat :=
  match s.stratus.cfg with
  | none => none
  | some c => if c.ports.getD 0 0 = port then some 0 else if c.ports.getD 2 0 = port then some 1 else none

/-- The link's key is loaded when its transmitter is first heard (R345). -/
def State.openLink (s : State) (ring : Nat) (rx : StratusRx) : Option State :=
  let l := macStratus ring rx.from_
  let s := if s.keys.macsec.has l then s else s.loadStratus ring rx.from_
  s.macOpen l rx.key rx.pn

/-- POLL_FRAME_RECEIVED (R324, R328, R330, R331, R334, R339, R345). -/
def State.pollFrame (s : State) (rx : StratusRx) (p : Bytes) : State :=
  match s.inRing rx.port with
  | none => s
  | some inR =>
    if !s.stratusOn || !s.portUp rx.port then s
    else
      match s.openLink inR rx with
      | none => (s.stratusCount 0).forwardPoll inR p false
      | some s =>
        let delay := (s.stratus.linkDelay.getD inR 0 : Int)
        let index := byteAt p 0x0F
        let ring := byteAt p 0x13
        let seen := p
        let p := if index = 0 then ageSync p (delay + (rx.tOut : Int) - (rx.tIn : Int)) else p
        let e := u32 p 0x14
        if e < s.stratus.epoch then s.forwardPoll inR p true
        else
          let s := s.meetEpoch e (byteAt p 0x11)
          let s := if s.stratus.st = .joining then { s with stratus.st := .running } else s
          let own := s.stratus.polling && byteAt p 0x11 == s.ownNode && e == s.stratus.ownEpoch
          if own && ring == inR then
            let s := s.readPoll seen rx delay
            if byteAt p 0x12 = 1 then
              (if s.stratus.held.any (fun h => h.index == index && h.ring == ring) then s
               else { s with stratus.held := s.stratus.held ++ [{ index := index, ring := ring, pdu := p }] })
            else s
          else
            let (q, s) := if byteAt p 0x12 = 1 && !own then s.insertOwn p index ring rx.tOut else (p, s)
            (s.readPoll seen rx delay).forwardPoll inR q true

/-- LAP2_SEND (R328): the frames held whose lap 2 starts now, D2 after their lap 1. -/
def State.lap2Send (s : State) : State :=
  match s.stratus.tables.get s.stratus.version, s.stratus.started with
  | some b, some r =>
    let due (h : HeldPoll) : Bool := decide (s.tb2Q ≥ roundStart b r +
      centQ (trainTo b h.index + d2 b s.devices s.delayMax))
    let go := s.stratus.held.filter due
    go.foldl (fun s h => s.forwardPoll h.ring (patch h.pdu 0x12 (le 1 2)) true)
      { s with stratus.held := s.stratus.held.filter (fun h => !due h) }
  | _, _ => s

/-! ### C_r (R331, R335, R336, R338, R341) -/

/-- The status word of a bound signal (08 R208). -/
def slotStatus (x : SlotBind) (j : Nat) : Nat :=
  let ever := x.ever.getD j false
  let age := x.ages.getD j 0
  if !ever then sbRemote
  else boolNat (decide (age ≤ x.ageLimit)) + sbRemote + sbSafe * boolNat (x.safes.getD j false) + 256 * age

/-- Both rings brought a slot's record, and the two differ. -/
def slotDiffers (a c : SlotSeen) : Bool :=
  match a.taken, c.taken with
  | some g, some h => g != h
  | _, _ => false

/-- The record a slot commits from what its two rings brought: ring A's first. -/
def slotTaken (a c : SlotSeen) : Option (List SlotSig) :=
  match a.taken with
  | some g => some g
  | none => c.taken

/-- The binding of a slot after a round, and the counter the round goes to; `entries` is the number of the slot's signals in
the schedule. -/
def SlotBind.commit (x : SlotBind) (entries : Nat) (a c : SlotSeen) : SlotBind :=
  let r := slotTaken a c
  let which := match r with
    | some g => if blankSigs g then 1 else 0
    | none => if a.crcBad || c.crcBad then 2 else if a.late || c.late then 4 else 3
  let n := x.signals.length
  let sig (j : Nat) : Option SlotSig :=
    if entries == n then (r.bind (fun g => g[j]?)).bind (fun g => if bit g.flags 0 then some g else none) else none
  { x with
    values := (List.range n).map (fun j => ((sig j).map (·.value)).getD (x.values.getD j 0))
    safes := (List.range n).map (fun j => ((sig j).map (fun g => bit g.flags 2)).getD (x.safes.getD j false))
    ages := (List.range n).map (fun j => if (sig j).isSome then 0 else min (x.ages.getD j 0 + 1) 255)
    ever := (List.range n).map (fun j => (sig j).isSome || x.ever.getD j false)
    counters := modAt x.counters which inc32 }

/-- The signals of a slot's binding take their values and statuses. -/
def State.slotSignals (s : State) (at_ : Nat) (y : SlotBind) : State :=
  (List.range y.signals.length).foldl (fun s j =>
    let g := y.signals.getD j 0xFFFF
    if g = 0xFFFF then s else s.setSignal g at_ (if y.ever.getD j false then y.values.getD j 0 else 0) (slotStatus y j)) s

/-- One slot at C_r: what it commits, and the counter the round goes to. -/
def State.commitSlot (s : State) (b : Bytes) (at_ slot : Nat) (x : SlotBind) : State :=
  let a := s.stratus.seen.getD (2 * slot) {}
  let c := s.stratus.seen.getD (2 * slot + 1) {}
  let y := x.commit (schSigs (schEntries b) slot).length a c
  let s := { s with stratus.binds := s.stratus.binds.put slot y }
  let s := if slotDiffers a c then s.stratusCount 1 else s
  s.slotSignals at_ y

/-- One of the values equal to `v` removed. -/
def dropOne (v : Int) : List Int → List Int
  | [] => []
  | x :: l => if x = v then l else x :: dropOne v l

/-- The values of the average of R335, each doubled so that a mean over two rings is whole. -/
def State.syncValues (s : State) (b : Bytes) : List Int :=
  let nodes := (s.stratus.meas.map (·.1)).eraseDups
  let vs := nodes.map (fun n =>
    let ds := (s.stratus.meas.filter (fun m => m.1 == n)).map (·.2.2)
    match ds with
    | [d] => 2 * d
    | ds => ds.foldl (· + ·) 0)
  vs ++ (if (schSync b).contains s.ownNode then [0] else [])

/-- TB2 is corrected at C_r (R335); exact, rounded toward zero. -/
def State.correctTb2 (s : State) (b : Bytes) : State :=
  let vs := s.syncValues b
  let k := vs.length
  let measured := ((s.stratus.meas.map (·.1)).eraseDups).length
  if k = 0 then
    { s with stratus := { s.stratus with sync := .lost, measured := 0, syncRun := 0 }
             horizon.tb2Rate := s.stratus.rate * 65536 }
  else
    let v := if k ≥ 3 then
        let hi := vs.foldl max (vs.headD 0)
        let lo := vs.foldl min (vs.headD 0)
        dropOne lo (dropOne hi vs)
      else vs
    let c := divToZero (v.foldl (· + ·) 0) ((2 * v.length : Nat) : Int)
    let sync : SyncSt := if k < 3 then .degraded else .fta
    let t : Int := (schTicks b : Nat)
    let step := decide (c.natAbs > 1000 * 65536)
    let rate := if step then s.stratus.rate else s.stratus.rate - divToZero (c * 3000000000) (65536 * 4 * t * 31250)
    let rate := clampInt (-200000) 200000 rate
    let slew := if step then 0 else -(divToZero (c * 3000000000) (t * 31250))
    let run := if step || sync != .fta then 0 else if c.natAbs ≤ 16 * 65536 then s.stratus.syncRun + 1 else s.stratus.syncRun
    let run := if c.natAbs > 16 * 65536 && s.stratus.syncRun < 16 then 0 else run
    { s with
      stratus := { s.stratus with
        sync := sync, measured := measured, lastC := c, rate := rate, syncRun := run
        steps := if step then inc32 s.stratus.steps else s.stratus.steps }
      horizon := { s.horizon with
        tb2 := if step then ofSigned 104 ((s.horizon.tb2 : Int) - c * 2 ^ 24) else s.horizon.tb2
        tb2Rate := rate * 65536 + slew } }

/-- Node entries are committed (R332). -/
def State.commitNodes (s : State) : State :=
  let new := s.stratus.nodeNew
  let heard := s.stratus.frames.any (fun k => k.1 == 0)
  let gone := s.stratus.nodeGone.map (fun e => (e.1, if new.has e.1 then 0 else e.2 + 1))
  let gone := new.foldl (fun (t : Tab Nat) e => t.put e.1 0) gone
  { s with stratus := { s.stratus with
      nodes := if heard then new else s.stratus.nodes, nodeGone := gone
      nodeLast := new.foldl (fun (t : Tab Bytes) e => t.put e.1 e.2) s.stratus.nodeLast } }

/-- The backup takes over when no lap 2 of frame 0 came (R338). -/
def State.backupTakeover (s : State) (r : Nat) : State :=
  if s.stratus.isBackup && !s.stratus.lap2 && decide (s.stratus.epoch > 0) then
    let old := s.stratus.manager
    let e := s.stratus.epoch + 1
    let s := { s with stratus := { s.stratus with polling := true, isBackup := false, epoch := e, ownEpoch := e
                                                  manager := s.ownNode, backup := old }
                      boot.role := 1 }
    ((s.stratusCount 2).postTakeover old s.ownNode r).raiseInt 136
  else s

/-- Rounds without a verified poll frame (R341). -/
def State.quietRound (s : State) (r : Nat) : State :=
  if s.stratus.polled || s.stratus.polling then { s with stratus.quiet := 0 }
  else
    let q := s.stratus.quiet + 1
    let s := { s with stratus.quiet := q }
    let s := if q = 16 then (s.postTakeover s.stratus.manager 0xFF r).raiseInt 136 else s
    if q = 64 then { s with stratus.epoch := 0 } else s

/-- C_r of the round that runs. -/
def State.commitRound (s : State) : State :=
  match s.stratus.tables.get s.stratus.version, s.stratus.started with
  | some b, some r =>
    if !s.stratusOn || s.tb2Q < s.commitAt b r || (r = s.stratus.round && s.stratus.tb2Commit ≠ 0) then s
    else
      let at_ := s.toPt (s.commitAt b r)
      let s := s.stratus.binds.foldl (fun s e => s.commitSlot b at_ e.1 e.2) s
      let s := s.commitNodes.correctTb2 b
      let s := { s with stratus.round := r, stratus.tb2Commit := visNs s.horizon.tb2 }
      (s.quietRound r).backupTakeover r
  | _, _ => s

/-! ### Lost nodes (R332, 03 R91, R93) -/

/-- The PUB_DELAY of the START_INSTANCE last forwarded for an instance. -/
def State.lastPubDelay (s : State) (fi : Nat) : Nat :=
  ((s.stratus.forwarded.filter (fun f => f.fi == fi && u16 f.pkt 0 == 0x0304)).getLast?.map (fun f => u32 f.pkt 0x1C)).getD 0

/-- An instance that cannot move (R91, R85). -/
def State.unassign (s : State) (fi node : Nat) : State :=
  ((s.modInst fi (fun x => { x with place := .unassigned, node := 0xFF })).post 0x0209 (le 2 fi ++ le 1 node)).raiseInt 129

/-- The firmware level a node last reported. -/
def State.nodeLevelOf (s : State) (n : Nat) : Nat :=
  if n = s.ownNode then s.level else ((s.stratus.nodeLast.get n).map (fun e => byteAt e 1 % 16)).getD 1

/-- One instance of a lost worker moves: assignment and replay (R91, R93). -/
def State.moveInst (s : State) (lost fi : Nat) (ran : Bool) : State :=
  match s.inst fi with
  | none => s
  | some x =>
    let lv := imgLevels (s.imageD x.image)
    let from_ := s.nodeLevelOf lost
    let ok (v : NodeView) : Bool :=
      let to_ := s.nodeLevelOf v.node
      v.node != lost && (to_ == from_ || (bit lv to_ && bit lv from_))
    match bestNode fi x (s.nodeViews.filter ok) with
    | .error _ => s.unassign fi lost
    | .ok w =>
      let ph := ((w.view.inst fi).map (·.phase)).getD 0
      if w.node = s.ownNode then
        (match ({ s with place.insts := s.place.insts.put fi { x with place := .declared } }).placeHere [fi] with
        | ((0, _, _), t) => if ran then t.beginStart fi .cold (match t.inst fi with
            | some y => t.soonLatch y
            | none => 0) else t
        | (_, _) => s.unassign fi lost)
      else
        let (m, s) := s.sendAssign fi w.node ph
        let again := s.stratus.forwarded.filter (fun f => f.fi == fi && u16 f.pkt 0 != 0x0304 && u16 f.pkt 0 != 0x0305)
        let (ms, s) := again.foldl (fun (a : List Nat × State) f =>
          let (k, t) := a.2.sendMgmt w.node (.forward f.pkt)
          (a.1 ++ [k], t)) (([m], s) : List Nat × State)
        let mv : Moving := { fi := fi, node := w.node, wait := ms, start := ran }
        { s with stratus.moving := s.stratus.moving ++ [mv] }.modInst fi (fun x => { x with phase := ph })

/-- NODE_LOST: a node silent for 16 rounds is lost to the manager; an unpaired worker's instances move (R332, R91). -/
def State.nodeLost (s : State) (n : Nat) : State :=
  if !s.stratus.polling || decide ((s.stratus.nodeGone.getD n 0) < 16) then s
  else
    let paired := ((s.stratus.nodeLast.get n).map (fun e => bit (byteAt e 2) 1)).getD false
    let rep := s.stratus.reports.get n
    let s := { s with stratus.nodeGone := s.stratus.nodeGone.del n }
    if paired then s
    else
      let s := { s with stratus.reports := s.stratus.reports.del n }
      let fis := s.inOrder (fun x => x.place == .assigned && x.node == n)
      fis.foldl (fun s fi =>
        let ran := (rep.map (fun r => r.insts.any (fun i => i.fi == fi && i.running))).getD false
        s.moveInst n fi ran) s

/-! ### Management messages (R333, R337, R340) -/

/-- A worker's final answer reaches the manager: a forwarded command, a group, a moved instance. -/
def State.takeAnswer (s : State) (src re status detail : Nat) (data : Bytes) : State :=
  let s := s.finishWait (.worker src re) (status, detail, data)
  let s : State := match s.stratus.group with
    | none => s
    | some g =>
      match g.waits.find? (fun (w : Nat × Nat × Nat) => w.1 == re && w.2.1 == src) with
      | none => s
      | some w =>
        let f := if status = stOk || g.failed.isSome then g.failed else some (status, w.2.2, detail, data)
        { s with stratus.group := some { g with waits := g.waits.filter (· != w), failed := f } }
  match s.stratus.moving.find? (fun (m : Moving) => m.node == src && m.wait.contains re) with
  | none => s
  | some m =>
    let rest := s.stratus.moving.filter (· != m)
    if status ≠ stOk then { s with stratus.moving := rest }.unassign m.fi src
    else if m.wait = [re] then
      let s := { s with stratus.moving := rest }.setAssigned m.fi src (((s.inst m.fi).map (fun (x : Inst) => x.phase)).getD 0)
      if m.start then
        match s.inst m.fi with
        | some x => (s.sendCommand src 0x0304 (le 2 m.fi ++ zeros 2 ++ le 8 (s.soonLatch x) ++ le 4 (s.lastPubDelay m.fi))).2
        | none => s
      else s
    else { s with stratus.moving := { m with wait := m.wait.filter (· != re) } :: rest }

/-- A message is acknowledged; for a schedule this is the node's confirmation (ACTIVATE_SCHEDULE). -/
def State.takeAck (s : State) (src mseq : Nat) : State :=
  let mine (m : MgmtMsg) : Bool := m.mseq == mseq && m.dst == src
  let table := s.stratus.outbox.any (fun m => mine m && (match m.body with
    | .table .. => true
    | _ => false))
  let s := { s with stratus.outbox := s.stratus.outbox.filter (fun m => !mine m) }
  if table then
    { s with stratus.activation := s.stratus.activation.map (fun a => { a with waiting := a.waiting.filter (· != src) }) }
  else s

/-- Once every present node has confirmed, the schedule is activated at the first round 10 ms ahead. -/
def State.setActivation (s : State) : State :=
  match s.stratus.activation with
  | some { version := v, waiting := [], since := t, round := none } =>
    match s.stratus.tables.get v with
    | some b =>
      let r := roundFrom b (s.tb2Q + 10000000 * qNs)
      let s := { s with stratus.activation := some { version := v, waiting := [], since := t, round := some r } }
      let s := s.stratus.nodes.foldl (fun s e => if e.1 = s.ownNode then s else (s.sendMgmt e.1 (.activate v r)).2) s
      s.finishWait .schedule (stOk, 0, le 8 r)
    | none => s
  | _ => s

/-- The command a management packet carries (R333). -/
def mgmtCmd (src mseq : Nat) (p : Bytes) : Cmd :=
  { chan := 67, opcode := u16 p 0, flags := byteAt p 2, inst := byteAt p 3, tag := u16 p 4, seq := u32 p 8, replyLimit := 1019
    replyTo := mgmtFrom src mseq, index := 0, user := 0, gen := 0, params := p.drop 16 }

/-- A worker takes an instance assigned to it: declared, unless the backup knows it already, and placed with its phase (03
R90). -/
def State.acceptAssign (s : State) (c : Cmd) : State :=
  let fi := u16 c.params 0
  let declared : CardOut := if ((s.inst fi).map (fun x => x.place == .declared || x.place == .assigned)).getD false
    then .ok (s.modInst fi (fun x => { x with place := .declared, phaseDecl := byteAt c.params 4 })) []
    else declareRun s c
  match declared with
  | .ok t _ =>
    (match t.placeHere [fi] with
    | ((0, _, _), u) => u.sendWorkerReply c false stOk 0 []
    | ((st, d, r), _) => s.sendWorkerReply c false st d r)
  | .err st d r => s.sendWorkerReply c false st d r
  | _ => s

/-- The backup applies what changes manager state (R337): declarations, removals, limits, schedule loads; the rest of what
was forwarded it keeps for R93. -/
def State.managerState (s : State) (run : Nat → State → Cmd → State) (c : Cmd) (pkt : Bytes) : State :=
  let p := c.params
  let fi := u16 p 0
  match c.opcode with
  | 0x0201 =>
    let x : Inst := {
      owner := c.inst, cls := byteAt p 2, cycle := byteAt p 3, phaseDecl := byteAt p 4, kind := byteAt p 5,
      shedPrio := u16 p 6, image := u32 p 8, wcic := u32 p 0xC, codeBytes := u32 p 0x10, dataBytes := u32 p 0x14,
      imageBytes := u32 p 0x18, nodeMask := u32 p 0x1C, channels := declChannels p, declNo := s.place.nextDecl }
    if (s.inst fi).isSome then s else { s.setInst fi x with place.nextDecl := s.place.nextDecl + 1 }
  | 0x0202 =>
    if ((s.inst fi).map (·.isPlaced)).getD false then s
    else { s with place.insts := s.place.insts.del fi
                  stratus.forwarded := s.stratus.forwarded.filter (fun f => f.fi != fi) }
  | 0x0203 => s
  | 0x0206 => { s with place.point := byteAt p 0 }.setExtra (byteAt p 1)
  | 0x0902 => run 0x0902 s { c with chan := 66 }
  | _ =>
    let target := if c.opcode == 0x0602 then u16 p 2 else fi
    { s with stratus.forwarded := s.stratus.forwarded ++ [{ fi := target, pkt := pkt }] }

/-- What a message does at its destination. -/
def State.mgmtBody (s : State) (run : Nat → State → Cmd → State) (src mseq : Nat) : MgmtBody → State
  | .forward pkt =>
    let c := mgmtCmd src mseq pkt
    run c.opcode s c
  | .assign pkt => s.acceptAssign (mgmtCmd src mseq pkt)
  | .managerState pkt => s.managerState run (mgmtCmd src mseq pkt) pkt
  | .assigned fi node phase =>
    if node = s.ownNode then s else s.modInst fi (fun x => { x with place := .assigned, node := node, phase := phase })
  | .table v b => { s with stratus.tables := s.stratus.tables.put v b }
  | .activate v r =>
    { s with stratus.activation := some { version := v, waiting := [], since := visNs s.tb3, round := some r } }
  | .handover r => { s with stratus.handover := some r }
  | .answer re completion st d data => if st = stAccepted && !completion then s else s.takeAnswer src re st d data
  | .report rep => { s with stratus.reports := s.stratus.reports.put src rep }
  | .ack => (s.takeAck src mseq).setActivation

/-- A management frame passes on (R333): one lap, removed by its sender. -/
def State.passMgmt (s : State) (ring src dst mseq : Nat) (body : MgmtBody) : State :=
  if src = s.ownNode then s
  else
    match s.keyedOut ring with
    | some port => s.emit (.mgmt port src dst mseq body)
    | none => s

/-- MGMT_MESSAGE_RECEIVED: forwarded; at its destination executed once and acknowledged. A module of a pair that is not in
control takes only what it needs to follow the schedule; its partner answers for the node (12 R310). -/
def State.mgmtReceived (s : State) (run : Nat → State → Cmd → State) (rx : StratusRx) (src dst mseq : Nat) (body : MgmtBody) :
    State :=
  match s.inRing rx.port with
  | none => s
  | some ring =>
    if !s.stratusOn || !s.portUp rx.port then s
    else
      match s.openLink ring rx with
      | none => s.stratusCount 0
      | some s =>
        let s := s.passMgmt ring src dst mseq body
        if src = s.ownNode || !(dst == s.ownNode || dst == 0xFF) || s.cmd.mgmt != .running then s
        else if s.mute then
          match body with
          | .table .. | .activate .. | .handover .. => s.mgmtBody run src mseq body
          | _ => s
        else
          match body with
          | .ack => s.mgmtBody run src mseq .ack
          | b =>
            let ackTo (s : State) : State := match s.keyedOut 0 with
              | some port => s.emit (.mgmt port s.ownNode src mseq .ack)
              | none => s
            if s.stratus.mgmtSeen.contains (src, mseq) then ackTo s
            else
              let seen := ((src, mseq) :: s.stratus.mgmtSeen).take 4096
              ackTo ({ s with stratus.mgmtSeen := seen }.mgmtBody run src mseq b)

/-- MGMT_MESSAGE_RETRY (R333): messages 10 ms old are sent again, up to 100 times. -/
def State.mgmtRetry (s : State) : State :=
  let now := visNs s.tb3
  let due (m : MgmtMsg) : Bool := decide (now ≥ m.at_ + 10000000)
  let go := s.stratus.outbox.filter (fun m => due m && decide (m.tries < 100))
  let box := (s.stratus.outbox.filter (fun m => !due m || decide (m.tries < 100))).map (fun m =>
    if due m then { m with tries := m.tries + 1, at_ := now } else m)
  go.foldl (fun s m => match s.keyedOut 0 with
    | some port => s.emit (.mgmt port s.ownNode m.dst m.mseq m.body)
    | none => s) { s with stratus.outbox := box }

end Sys2Proof.Machine
end

