-- ==== Sys2Proof/Machine/Stratus.lean ====
section
/-! DEFINITION. The Stratus family (13 R346, R347) and the bus's events, but for the messages that carry commands. -/
namespace Sys2Proof.Machine

/-- Opcodes that a STANDALONE module, or one that is not MANAGER, answers WRONG_ROLE (R346). -/
def State.noStratus (s : State) : Bool := s.boot.role == 0
def State.notManager (s : State) (c : Cmd) : Bool := s.boot.role != 1 && c.own

/-! ### Settings -/

/-- SET_STRATUS (0x0901). -/
def cardSetStratus : Card where
  opcode := 0x0901
  level := .m
  len := .exact 5
  reserved p := firstNonzero p [(0x0B, 1), (0x12, 2)]
  params _ c :=
    let p := c.params
    let port (i : Nat) : Nat := byteAt p (2 + i)
    let fresh (i : Nat) : Bool := decide (96 ≤ port i) && decide (port i ≤ 127) && (List.range i).all (fun j => port j != port i)
    firstBad [(0, decide (byteAt p 0 ≤ 31)), (1, decide (byteAt p 1 ≤ 1)), (2, fresh 0), (3, fresh 1), (4, fresh 2), (5, fresh 3),
      (6, decide (u16 p 6 ≤ 255)), (8, decide (u16 p 8 ≤ 5000)), (0x0A, decide (2 ≤ byteAt p 0x0A) && decide (byteAt p 0x0A ≤ 32)),
      (0x0C, bit (byteAt p 0x0C) 0)]
  run s c :=
    let p := c.params
    let ports := (List.range 4).map (fun i => byteAt p (2 + i))
    let node := byteAt p 0
    let slot := u16 p 6
    if s.noStratus then s.wrongRole
    else if s.place.insts.any (fun q => q.2.isPlaced) then .wrong 1
    else if ports.any (fun n => (s.pair.configured && (s.pair.linkA == n || s.pair.linkB == n)) ||
        ((s.chan 65).enabled && s.cmd.ethPort == n)) then .wrong 2
    else if !s.slotFits c.inst slot needStratus then .wrong 3
    else if s.pair.configured && s.pair.node != node then .wrong 4
    else if s.quadConflict ports then .wrong 0x0A
    else
      match s.useSlot slot with
      | .refused => .wrong 3
      | .integrity t => .errWith t stIntegrity slot []
      | .ok _ =>
        let quiet : StratusState := { s.stratus with
          st := .disabled, cfg := none, polling := false, started := none, listenAt := none, sync := .lost, rate := 0
          exceeded := false }
        let drop := s.keys.macsec.filter (fun e => e.1 == 0 || e.1 == 1000)
        let s := { s with keys.macsec := drop }
        if byteAt p 1 = 0 then .ok { s with stratus := quiet, horizon.tb2Rate := 0 } []
        else
          let cfg : StratusCfg := { node := node, enable := true, ports := ports, keySlot := slot, linkDelay := u16 p 8
                                    devices := byteAt p 0x0A, groupMac := beNat (slice p 0x0C 6) }
          let tb2 := if s.ptValid then s.horizon.pt else s.horizon.tb3
          let s := { s with
            stratus := { quiet with cfg := some cfg, st := .joining
                                    listenAt := if s.boot.role = 1 then some (visNs s.tb3) else none }
            horizon := { s.horizon with tb2 := tb2, tb2Rate := 0 } }
          .ok (((s.takePorts ports).loadStratus 0 node).loadStratus 1 node) []

def execSetStratus (dt : Nat) (c : Cmd) (s : State) : Host.Outcome State Fault Refusal := runCard cardSetStratus dt c s

/-! ### Schedules -/

/-- A schedule container has arrived whole. -/
def State.finishSchedule (s : State) (v : Nat) (x : SchedLoad) : CardOut :=
  let b := x.got.map (·.2)
  let s := { s with stratus.loads := s.stratus.loads.del v }
  if crc32c (b.take (x.total - 4)) ≠ u32 b (x.total - 4) then .errWith s stIntegrity 1 []
  else
    match schFault b v x.total with
    | some o => .errWith s stBadParameter o []
    | none =>
      let frames := (schFrames b).length
      if frames > 32 then .errWith s stNoResource 2 []
      else if !s.roundFits b then .errWith s stNoResource 1 []
      else .ok { s with stratus.tables := s.stratus.tables.put v b }
        (le 4 (ceilDiv (tCommit b s.devices s.delayMax) 100) ++ le 4 frames)

/-- LOAD_SCHEDULE (0x0902). -/
def cardLoadSchedule : Card where
  opcode := 0x0902
  level := .m
  len := .range 4 1019
  most _ _ := 3
  reserved p := firstNonzero p [(2, 2)]
  params s c :=
    let p := c.params
    let total := u32 p 8
    let n := p.length - 12
    firstBad [(0, u16 p 0 != 0), (4, u32 p 4 % 4 == 0 && decide (u32 p 4 + n ≤ total)),
      (8, total % 4 == 0 && decide (0x24 ≤ total) && decide (total ≤ 135204) && (match s.stratus.loads.get (u16 p 0) with
        | some x => x.total == total
        | none => true))]
  run s c :=
    let p := c.params
    let v := u16 p 0
    if s.noStratus || s.notManager c then s.wrongRole
    else
      let x := s.stratus.loads.getD v { total := u32 p 8, got := [] }
      let x := { x with got := putChunk x.got (u32 p 4) (p.drop 12) }
      let s := { s with stratus.loads := s.stratus.loads.put v x }
      if x.got.length = x.total then s.finishSchedule v x else .ok s []

def execLoadSchedule (dt : Nat) (c : Cmd) (s : State) : Host.Outcome State Fault Refusal := runCard cardLoadSchedule dt c s

/-- The nodes present besides this one. -/
def State.presentNodes (s : State) : List Nat :=
  (s.stratus.nodes.filter (fun e => e.1 != s.ownNode && byteAt e.2 0 != 0)).map (·.1)

/-- ACTIVATE_SCHEDULE (0x0903). -/
def cardActivateSchedule : Card where
  opcode := 0x0903
  level := .m
  len := .exact 1
  most _ _ := 3
  reserved p := firstNonzero p [(2, 2)]
  run s c :=
    let v := u16 c.params 0
    if s.noStratus || s.notManager c then s.wrongRole
    else
      match s.stratus.tables.get v with
      | none => .wrong 7
      | some b =>
        if v = s.stratus.version || s.stratus.activation.isSome then .wrong 7
        else
          let nodes := s.presentNodes
          let s := nodes.foldl (fun s n => (s.sendMgmt n (.table v b)).2) s
          .accepted { s with stratus.activation := some { version := v, waiting := nodes, since := visNs s.tb3, round := none } }
            .schedule true none

def execActivateSchedule (dt : Nat) (c : Cmd) (s : State) : Host.Outcome State Fault Refusal := runCard cardActivateSchedule dt c s

/-- What an ACTIVATE_SCHEDULE is waiting for has come, or 100 ms have passed without a node's confirmation. -/
def State.scheduleDue (s : State) : State :=
  let s := s.setActivation
  match s.stratus.activation with
  | some { version := _, waiting := n :: _, since := t, round := none } =>
    if visNs s.tb3 ≥ t + 100000000 then
      { s with stratus.activation := none }.finishWait .schedule (stWrongState, 5, le 1 n ++ zeros 3)
    else s
  | _ => s

/-! ### Bindings and readings -/

def bindSignalsOf (p : Bytes) : List Nat := (List.range (u16 p 2)).map (fun i => u16 p (8 + 2 * i))

/-- The first signal named twice. -/
def badBindSignal : List Nat → List Nat → Nat → Option Nat
  | [], _, _ => none
  | g :: l, seen, o => if g != 0xFFFF && seen.contains g then some o else badBindSignal l (g :: seen) (o + 2)

/-- BIND_RECEIVE (0x0904). -/
def cardBindReceive : Card where
  opcode := 0x0904
  level := .m
  len := .form 2 34 (fun p => 2 + ceilDiv (u16 p 2) 2)
  reserved p := firstNonzero p [(5, 3), (8 + 2 * u16 p 2, 2 * (u16 p 2 % 2))]
  params _ c :=
    let p := c.params
    orElseOpt (firstBad [(0, decide (u16 p 0 ≤ 1023)), (2, decide (u16 p 2 ≤ 64)), (4, decide (byteAt p 4 ≤ 254))])
      (badBindSignal (bindSignalsOf p) [] 8)
  run s c :=
    let p := c.params
    let slot := u16 p 0
    let gs := bindSignalsOf p
    let mine := gs.filter (· != 0xFFFF)
    if s.noStratus then s.wrongRole
    else if mine.any (fun g => s.drivenByOther g (.stratus slot)) then .wrong 6
    else
      let s := s.releaseSignals (fun x => x == SigSrc.stratus slot)
      let n := gs.length
      if n = 0 then .ok { s with stratus.binds := s.stratus.binds.del slot } []
      else
        let x : SlotBind := { ageLimit := byteAt p 4, signals := gs, values := List.replicate n 0, safes := List.replicate n false
                              ages := List.replicate n 0, ever := List.replicate n false, counters := [0, 0, 0, 0, 0] }
        let s := { s with stratus.binds := s.stratus.binds.put slot x }
        .ok (mine.foldl (fun (s : State) g =>
          { s with prog.signals := s.prog.signals.put g { src := .stratus slot, vals := [(0, 0, sbRemote)] } }) s) []

def execBindReceive (dt : Nat) (c : Cmd) (s : State) : Host.Outcome State Fault Refusal := runCard cardBindReceive dt c s

/-- LINKS of GET_STRATUS_STATUS. -/
def State.stratusLinks (s : State) : Nat :=
  match s.stratus.cfg with
  | none => 0
  | some c =>
    let up (i : Nat) : Bool := s.portUp (c.ports.getD i 0)
    bitsNat [up 0, up 1, up 2, up 3, !up 1 || !up 3, s.stratus.exceeded]

/-- GET_STRATUS_STATUS (0x0905). -/
def cardGetStratusStatus : Card where
  opcode := 0x0905
  level := .r
  changes := false
  len := .exact 1
  most _ _ := 9
  reserved p := minOpt (reservedBits p [(0, 0xFE)]) (firstNonzero p [(1, 3)])
  run s c :=
    let x := s.stratus
    let st := match x.st with
      | .disabled => 0
      | .joining => 1
      | .running => 2
    let d := le 1 st ++ le 1 x.level ++ le 1 s.stratusLinks ++ le 1 x.manager ++ le 4 x.epoch ++ le 2 x.version ++ zeros 2 ++
      le 8 x.round ++ x.counters.flatMap (le 4)
    .ok (if bit (byteAt c.params 0) 0 then { s with stratus.counters := [0, 0, 0] } else s) d

def execGetStratusStatus (dt : Nat) (c : Cmd) (s : State) : Host.Outcome State Fault Refusal := runCard cardGetStratusStatus dt c s

/-- GET_SLOT (0x0906). -/
def cardGetSlot : Card where
  opcode := 0x0906
  level := .r
  changes := false
  len := .exact 1
  most _ _ := 7
  reserved p := minOpt (reservedBits p [(2, 0xFE)]) (firstNonzero p [(3, 1)])
  params _ c := firstBad [(0, decide (u16 c.params 0 ≤ 1023))]
  run s c :=
    let n := u16 c.params 0
    if s.noStratus then s.wrongRole
    else
      match s.stratus.binds.get n with
      | none => .ok s (zeros 24)
      | some x =>
        .ok (if bit (byteAt c.params 2) 0 then { s with stratus.binds := s.stratus.binds.put n { x with counters := [0, 0, 0, 0, 0] } }
             else s) (le 1 (x.ages.getD 0 0) ++ zeros 3 ++ x.counters.flatMap (le 4))

def execGetSlot (dt : Nat) (c : Cmd) (s : State) : Host.Outcome State Fault Refusal := runCard cardGetSlot dt c s

/-- GET_SYNC (0x0907). -/
def cardGetSync : Card where
  opcode := 0x0907
  level := .r
  changes := false
  len := .exact 0
  most _ _ := 11
  run s _ :=
    if s.noStratus then s.wrongRole
    else
      let x := s.stratus
      let st := match x.sync with
        | .lost => 0
        | .degraded => 1
        | .fta => 2
      .ok s (le 1 st ++ le 1 x.measured ++ zeros 2 ++ leS 4 x.rate ++ leS 4 x.lastC ++ le 4 x.steps ++ le 8 (x.linkDelay.getD 0 0) ++
        le 8 (x.linkDelay.getD 1 0) ++ le 8 x.tb2Commit)

def execGetSync (dt : Nat) (c : Cmd) (s : State) : Host.Outcome State Fault Refusal := runCard cardGetSync dt c s

/-- HANDOVER_MANAGER (0x0908). -/
def cardHandoverManager : Card where
  opcode := 0x0908
  level := .m
  urgent := true
  len := .exact 2
  most _ _ := 3
  run s c :=
    let x := s.stratus
    if s.noStratus || s.notManager c then s.wrongRole
    else
      match x.tables.get x.version with
      | none => .wrong 8
      | some b =>
        let soon := roundFrom b (s.tb2Q + 10000000 * qNs)
        let r := if u64 c.params 0 = 0 then soon else u64 c.params 0
        if !s.presentNodes.contains x.backup then .wrong 8
        else if r < soon then .wrong 9
        else
          let s := s.presentNodes.foldl (fun s n => (s.sendMgmt n (.handover r)).2) { s with stratus.handover := some r }
          .accepted s .handover true none

def execHandoverManager (dt : Nat) (c : Cmd) (s : State) : Host.Outcome State Fault Refusal := runCard cardHandoverManager dt c s

/-- GET_NODES (0x0909). -/
def cardGetNodes : Card where
  opcode := 0x0909
  level := .r
  changes := false
  len := .exact 0
  most _ _ := 65
  run s _ :=
    if s.noStratus then s.wrongRole
    else .ok s ((List.range 32).flatMap (fun n => s.stratus.nodes.getD n (zeros 8)))

def execGetNodes (dt : Nat) (c : Cmd) (s : State) : Host.Outcome State Fault Refusal := runCard cardGetNodes dt c s

/-! ### Events -/

/-- ROUND_START (R325, R326, R330). -/
def execRoundStart (dt : Nat) (s : State) : Host.Outcome State Fault Refusal := .next (s.advance dt).beginRound

/-- LAP2_SEND (R328). -/
def execLap2Send (dt : Nat) (s : State) : Host.Outcome State Fault Refusal := .next (s.advance dt).lap2Send

/-- POLL_FRAME_RECEIVED (R328). -/
def execPollFrameReceived (dt : Nat) (rx : StratusRx) (pdu : Bytes) (s : State) : Host.Outcome State Fault Refusal :=
  .next ((s.advance dt).pollFrame rx pdu)

/-- ROUND_COMMIT (R331). -/
def execRoundCommit (dt : Nat) (s : State) : Host.Outcome State Fault Refusal := .next (s.advance dt).commitRound

/-- NODE_LOST (R332). -/
def execNodeLost (dt node : Nat) (s : State) : Host.Outcome State Fault Refusal := .next ((s.advance dt).nodeLost node)

/-- MGMT_MESSAGE_RETRY (R333). -/
def execMgmtMessageRetry (dt : Nat) (s : State) : Host.Outcome State Fault Refusal := .next (s.advance dt).mgmtRetry

/-- WORKER_STATE_REPORT (R333): after a placement change, and when 100 ms have passed. -/
def execWorkerStateReport (dt : Nat) (s : State) : Host.Outcome State Fault Refusal :=
  let s := s.advance dt
  let rep := s.makeReport
  let now := visNs s.tb3
  let due := decide (now ≥ s.stratus.reportAt + 100000000) || s.stratus.lastReport != some rep
  let may := s.boot.role == 2 && s.stratusOn && s.stratus.manager != 0xFF && (s.pair.st == .unpaired || s.inControl)
  if due && may then
    .next (({ s with stratus.reportAt := now, stratus.lastReport := some rep }.sendMgmt s.stratus.manager (.report rep)).2)
  else .next s

/-- MANAGER_LISTEN_TIMEOUT (23 R516): 2 ms without a poll frame. -/
def execManagerListenTimeout (dt : Nat) (s : State) : Host.Outcome State Fault Refusal :=
  let s := s.advance dt
  match s.stratus.listenAt with
  | some t => if visNs s.tb3 ≥ t + 2000000 then .next { s with stratus.listenAt := none } else .next s
  | none => .next s

/-- LINK_DELAY_MEASUREMENT (R329, R334): the delay of an IN link is half the round trip, given in 2^-16 ns. -/
def execLinkDelayMeasurement (dt port rtt : Nat) (s : State) : Host.Outcome State Fault Refusal :=
  let s := s.advance dt
  match s.inRing port with
  | none => .next s
  | some ring =>
    let d := rtt / 2
    let over_ := decide (d > s.delayMax * 65536)
    let t := { s with stratus := { s.stratus with linkDelay := setAt s.stratus.linkDelay ring d
                                                  exceeded := s.stratus.exceeded || over_ } }
    .next (if over_ && !s.stratus.exceeded then t.post 0x0903 (le 1 port ++ le 4 (d / 65536)) else t)

end Sys2Proof.Machine
end

