-- ==== Sys2Proof/Machine/Switch.lean ====
section
/-! DEFINITION. The switch part of family 0x0C (16 R419) and the events of the switch core. -/
namespace Sys2Proof.Machine

/-- A 128-bit port mask at an offset. -/
def portMask (p : Bytes) (o : Nat) : Nat := uN p o 16

/-- Does a mask name only switch ports? -/
def State.maskSwitch (s : State) (m : Nat) : Bool := (bitList 128 m).all s.isSwitchPort

/-- SET_VLAN (0x0C01). A MEMBER of 0 deletes the VID. -/
def cardSetVlan : Card where
  opcode := 0x0C01
  level := .m
  len := .exact 9
  reserved p := firstNonzero p [(2, 2)]
  params _ c :=
    let p := c.params
    firstBad [(0, decide (1 ≤ u16 p 0) && decide (u16 p 0 ≤ 4094)),
      (0x14, (portMask p 0x14 &&& portMask p 4) == portMask p 0x14)]
  run s c :=
    let p := c.params
    if !s.maskSwitch (portMask p 4) then .wrong 1
    else
      let v := if portMask p 4 = 0 then s.sw.vlans.del (u16 p 0) else s.sw.vlans.put (u16 p 0) (portMask p 4, portMask p 0x14)
      .ok { s with sw.vlans := v } []

def execSetVlan (dt : Nat) (c : Cmd) (s : State) : Host.Outcome State Fault Refusal := runCard cardSetVlan dt c s

/-- A MAC address field: six bytes in the order of the wire. -/
def macAt (p : Bytes) (o : Nat) : Nat := beNat (slice p o 6)

/-- SET_FDB_ENTRY (0x0C02): a full bucket gives up its oldest learned entry (R398). -/
def cardSetFdbEntry : Card where
  opcode := 0x0C02
  level := .m
  len := .exact 7
  reserved p := firstNonzero p [(9, 3)]
  params _ c :=
    let p := c.params
    firstBad [(6, decide (1 ≤ u16 p 6) && decide (u16 p 6 ≤ 4094)), (8, decide (byteAt p 8 ≤ 1))]
  run s c :=
    let p := c.params
    let mac := macAt p 0
    let vid := u16 p 6
    let rest := s.sw.fdb.filter (fun e => !e.isKey mac vid)
    if byteAt p 8 = 0 then .ok { s with sw.fdb := rest } []
    else
      let e : FdbEntry := { mac := mac, vid := vid, static_ := true, ports := portMask p 0xC, at_ := 0 }
      let b := { s with sw.fdb := rest }.bucket mac vid
      if b.length < 8 then .ok { s with sw.fdb := rest ++ [e] } []
      else
        match sortBy (fun x y => decide (x.at_ ≤ y.at_)) (b.filter (fun x => !x.static_)) with
        | [] => .noRes 0x0015
        | old :: _ => .ok { s with sw.fdb := rest.filter (· != old) ++ [e] } []

def execSetFdbEntry (dt : Nat) (c : Cmd) (s : State) : Host.Outcome State Fault Refusal := runCard cardSetFdbEntry dt c s

/-- GET_FDB (0x0C03). -/
def cardGetFdb : Card where
  opcode := 0x0C03
  level := .r
  changes := false
  len := .exact 2
  most _ _ := 6
  params _ c := firstBad [(6, decide (1 ≤ u16 c.params 6) && decide (u16 c.params 6 ≤ 4094))]
  run s c :=
    match s.fdbFind (macAt c.params 0) (u16 c.params 6) with
    | some e => .ok s (le 1 (if e.static_ then 1 else 2) ++ zeros 3 ++ le 16 e.ports)
    | none => .ok s (zeros 20)

def execGetFdb (dt : Nat) (c : Cmd) (s : State) : Host.Outcome State Fault Refusal := runCard cardGetFdb dt c s

/-- SET_PORT_SWITCH (0x0C04). -/
def cardSetPortSwitch : Card where
  opcode := 0x0C04
  level := .m
  len := .exact 5
  reserved p := orElseOpt (reservedBits p [(1, 0xF0)]) (firstNonzero p [(7, 1), (0x10, 4)])
  params _ c :=
    let p := c.params
    firstBad [(0, decide (byteAt p 0 ≤ 127)), (2, decide (1 ≤ u16 p 2) && decide (u16 p 2 ≤ 4094)),
      (4, decide (byteAt p 4 ≤ 7)), (5, decide (byteAt p 5 < 64)), (8, u32 p 8 &&& 0x88888888 == 0),
      (0xC, decide (10 ≤ u32 p 0xC) && decide (u32 p 0xC ≤ 1000000))]
  run s c :=
    let p := c.params
    let n := byteAt p 0
    let f := byteAt p 1
    if !s.isSwitchPort n then .wrong 1
    else .ok (s.modSwp n (fun w => { w with
      learn := bit f 0, floodU := bit f 1, floodM := bit f 2, filter := bit f 3, pvid := u16 p 2, dpcp := byteAt p 4,
      preempt := byteAt p 5, ct := byteAt p 6, pcpMap := u32 p 8, residenceUs := u32 p 0xC })) []

def execSetPortSwitch (dt : Nat) (c : Cmd) (s : State) : Host.Outcome State Fault Refusal :=
  runCard cardSetPortSwitch dt c s

/-- Entry `i` of the Ethertype map of SET_SWITCH. -/
def etypeEntry (p : Bytes) (i : Nat) : Nat × Nat × Bool :=
  (u16 p (4 + 4 * i), byteAt p (6 + 4 * i), byteAt p (7 + 4 * i) == 1)

/-- The first enabled entry whose Ethertype an earlier enabled entry has. -/
def etypeRepeat (p : Bytes) : Option Nat :=
  ((List.range 16).find? (fun i => (etypeEntry p i).2.2 &&
    (List.range i).any (fun j => (etypeEntry p j).2.2 && (etypeEntry p j).1 == (etypeEntry p i).1))).map (fun i => 4 + 4 * i)

/-- SET_SWITCH (0x0C05). -/
def cardSetSwitch : Card where
  opcode := 0x0C05
  level := .m
  len := .exact 17
  params _ c :=
    let p := c.params
    orElseOpt (firstBad ((0, decide (10 ≤ u32 p 0) && decide (u32 p 0 ≤ 1000000)) ::
      (List.range 16).flatMap (fun i => [(6 + 4 * i, decide (byteAt p (6 + 4 * i) ≤ 7)),
        (7 + 4 * i, decide (byteAt p (7 + 4 * i) ≤ 1))]))) (etypeRepeat p)
  run s c := .ok { s with sw.ageS := u32 c.params 0, sw.etypes := (List.range 16).map (etypeEntry c.params) } []

def execSetSwitch (dt : Nat) (c : Cmd) (s : State) : Host.Outcome State Fault Refusal := runCard cardSetSwitch dt c s

/-- SET_QUEUE (0x0C06). -/
def cardSetQueue : Card where
  opcode := 0x0C06
  level := .m
  len := .exact 7
  reserved p := firstNonzero p [(3, 1)]
  params _ c :=
    let p := c.params
    let a := toSigned 8 (byteAt p 2)
    let prof (o : Nat) : Bool := u32 p (o + 4) == 0 || decide (u32 p (o + 4) > u32 p o)
    let low := decide (byteAt p 1 < 6)
    let zero (o n : Nat) : Bool := low || uN p o n == 0
    firstBad [(0, decide (byteAt p 0 ≤ 127)), (1, decide (byteAt p 1 ≤ 7)), (2, decide (-6 ≤ a) && decide (a ≤ 3)),
      (8, zero 8 4), (0xC, prof 8 && zero 0xC 4), (0x10, zero 0x10 4), (0x14, prof 0x10 && zero 0x14 4),
      (0x18, zero 0x18 2), (0x1A, zero 0x1A 2)]
  run s c :=
    let p := c.params
    let n := byteAt p 0
    let t := s.modSwp n (fun w => { w with queues := modAt w.queues (byteAt p 1) (fun q => { q with
      alpha := toSigned 8 (byteAt p 2), reserved := u32 p 4,
      green := (u32 p 8, u32 p 0xC, u16 p 0x18), yellow := (u32 p 0x10, u32 p 0x14, u16 p 0x1A) }) })
    if t.reservedTotal > 49152 then .noRes 0x0016 else .ok t []

def execSetQueue (dt : Nat) (c : Cmd) (s : State) : Host.Outcome State Fault Refusal := runCard cardSetQueue dt c s

/-- SET_POLICER (0x0C07): a change fills the buckets. -/
def cardSetPolicer : Card where
  opcode := 0x0C07
  level := .m
  len := .exact 5
  reserved p := firstNonzero p [(3, 1)]
  params _ c :=
    let p := c.params
    firstBad [(0, decide (byteAt p 0 ≤ 127)), (1, decide (byteAt p 1 ≤ 7)), (2, decide (byteAt p 2 ≤ 1)),
      (4, decide (u32 p 4 ≤ u32 p 8))]
  run s c :=
    let p := c.params
    let m : Meter := {
      enable := byteAt p 2 == 1, cir := u32 p 4, pir := u32 p 8, cbs := u32 p 0xC, pbs := u32 p 0x10,
      tc := u32 p 0xC * 8000000, tp := u32 p 0x10 * 8000000, last := visNs s.tb3 }
    .ok (s.modSwp (byteAt p 0) (fun w => { w with meters := setAt w.meters (byteAt p 1) m })) []

def execSetPolicer (dt : Nat) (c : Cmd) (s : State) : Host.Outcome State Fault Refusal := runCard cardSetPolicer dt c s

/-- The gate list of SET_GATE_LIST. -/
def gateOf (p : Bytes) : GateList :=
  { enable := byteAt p 1 == 1, cycle := u32 p 4, phase := u32 p 8,
    entries := (List.range (u16 p 2)).map (fun i => (byteAt p (0x14 + 8 * i), u32 p (0x18 + 8 * i))) }

/-- The first cycle start of a list at or after a tick (R411). -/
def GateList.startFrom (g : GateList) (t : Nat) : Nat :=
  let c := max g.cycle 1
  t + (g.phase % c + c - t % c) % c

/-- SET_GATE_LIST (0x0C08). -/
def cardSetGateList : Card where
  opcode := 0x0C08
  level := .m
  len := .form 7 517 (fun p => 5 + 2 * u16 p 2)
  most _ _ := 3
  reserved p := firstNonzero p ((List.range (u16 p 2)).map (fun i => (0x15 + 8 * i, 3)))
  params _ c :=
    let p := c.params
    let g := gateOf p
    firstBad [(0, decide (byteAt p 0 ≤ 127)), (1, decide (byteAt p 1 ≤ 1)),
      (2, decide (1 ≤ u16 p 2) && decide (u16 p 2 ≤ 256)),
      (4, decide (1 ≤ u32 p 4) && decide (u32 p 4 ≤ 96000)), (8, decide (u32 p 8 < u32 p 4)),
      (0x14, decide (((g.entries.dropLast.map (·.2)).foldl (· + ·) 0) * qNs < u32 p 4 * qTick))]
  absolute _ t c := c.params.take 0xC ++ le 8 (((t.swp (byteAt c.params 0)).nextGate.map (·.1)).getD 0) ++ c.params.drop 0x14
  run s c :=
    let p := c.params
    let n := byteAt p 0
    let g := gateOf p
    let lead := if c.own then tickAtOrAfter (s.now + 1000000 * qNs) else 0
    let start := g.startFrom (max (u64 p 0xC) lead)
    if !s.isSwitchPort n then .wrong 1
    else
      match s.expressFailOn n g (s.port n).phy with
      | some (code, pub) => .err stNoResource code (le 2 pub ++ zeros 2)
      | none => .ok (s.modSwp n (fun w => { w with nextGate := some (start, g) })) (le 8 start)

def execSetGateList (dt : Nat) (c : Cmd) (s : State) : Host.Outcome State Fault Refusal := runCard cardSetGateList dt c s

/-- Does a port carry an enabled stream, subscription or publication (R420)? -/
def State.portCarries (s : State) (n : Nat) : Bool :=
  s.ingest.streams.any (fun p => p.2.st != .disabled && bit p.2.cfg.portMask n) ||
  s.pub.subs.any (fun p => p.2.st != .disabled && bit p.2.mask n) ||
  s.pub.pubs.any (fun p => p.2.enabled && bit p.2.mask n)

/-- SET_REDUNDANCY (0x0C09). -/
def cardSetRedundancy : Card where
  opcode := 0x0C09
  level := .m
  len := .exact 5
  reserved p := firstNonzero p [(0x12, 2)]
  params _ c :=
    let p := c.params
    firstBad [(0, decide (byteAt p 0 ≤ 15)), (1, decide (byteAt p 1 ≤ 4)), (2, decide (byteAt p 2 ≤ 127)),
      (3, decide (byteAt p 3 ≤ 127) && byteAt p 3 != byteAt p 2), (4, !isMulticast (macAt p 4)),
      (0xA, u16 p 0xA == 0 || (decide (10 ≤ u16 p 0xA) && decide (u16 p 0xA ≤ 60000))), (0xC, decide (u32 p 0xC ≤ 20000)),
      (0x10, u16 p 0x10 == 0 || (decide (100 ≤ u16 p 0x10) && decide (u16 p 0x10 ≤ 10000)))]
  run s c :=
    let p := c.params
    let n := byteAt p 0
    let new := [byteAt p 2, byteAt p 3]
    let old := if (s.entity n).mode = 0 then [] else [(s.entity n).a, (s.entity n).b]
    if !new.all s.isSwitchPort then .wrong 1
    else if (new ++ old).any s.portCarries then .wrong 2
    else if new.any (fun q => match s.portEntity q with
        | some m => m != n
        | none => false) then .wrong 3
    else .ok (s.setEntity n {
      mode := byteAt p 1, a := byteAt p 2, b := byteAt p 3, mac := macAt p 4,
      ageMs := if u16 p 0xA = 0 then 400 else u16 p 0xA, holdNs := u32 p 0xC, supMs := u16 p 0x10, supAt := s.tb3 }) []

def execSetRedundancy (dt : Nat) (c : Cmd) (s : State) : Host.Outcome State Fault Refusal :=
  runCard cardSetRedundancy dt c s

/-- GET_REDUNDANCY_STATUS (0x0C0A). -/
def cardGetRedundancyStatus : Card where
  opcode := 0x0C0A
  level := .r
  changes := false
  len := .exact 1
  most _ _ := 12
  reserved p := orElseOpt (reservedBits p [(1, 0xFE)]) (firstNonzero p [(2, 2)])
  params _ c := firstBad [(0, decide (byteAt c.params 0 ≤ 15))]
  run s c :=
    let n := byteAt c.params 0
    let e := s.entity n
    let links := if e.mode = 0 then 0 else boolNat (s.portUp e.a) + 2 * boolNat (s.portUp e.b)
    let d := le 1 e.mode ++ le 1 links ++ le 2 e.sources.length ++ e.counters.flatMap (le 4)
    .ok (if bit (byteAt c.params 1) 0 then s.setEntity n { e with counters := List.replicate 10 0 } else s) d

def execGetRedundancyStatus (dt : Nat) (c : Cmd) (s : State) : Host.Outcome State Fault Refusal :=
  runCard cardGetRedundancyStatus dt c s

/-- GET_BUFFER_STATUS (0x0C0B). -/
def cardGetBufferStatus : Card where
  opcode := 0x0C0B
  level := .r
  changes := false
  len := .exact 0
  most _ _ := 6
  run s _ := .ok s (le 4 s.reservedTotal ++ le 4 s.sharedCharged ++ le 4 s.occupiedCells ++ le 4 s.sw.peak ++
    le 4 (s.anvil.poison.filter (fun l => decide (l ≥ bufferLine))).length)

def execGetBufferStatus (dt : Nat) (c : Cmd) (s : State) : Host.Outcome State Fault Refusal :=
  runCard cardGetBufferStatus dt c s

/-- GET_QUEUE_COUNTERS (0x0C0C). -/
def cardGetQueueCounters : Card where
  opcode := 0x0C0C
  level := .r
  changes := false
  len := .exact 1
  most _ _ := 12
  reserved p := orElseOpt (reservedBits p [(2, 0xFE)]) (firstNonzero p [(3, 1)])
  params _ c := firstBad [(0, decide (byteAt c.params 0 ≤ 127)), (1, decide (byteAt c.params 1 ≤ 7))]
  run s c :=
    let n := byteAt c.params 0
    let tc := byteAt c.params 1
    let s := s.settleTx n
    let used := s.queueUsed n tc
    match (s.swp n).queues[tc]? with
    | none => .ok s (zeros 44)
    | some q =>
      let d := le 4 used ++ le 4 (max q.peak used) ++ q.counters.flatMap (le 4)
      .ok (if bit (byteAt c.params 2) 0 then
        s.modSwp n (fun w => { w with queues := setAt w.queues tc { q with peak := used, counters := List.replicate 9 0 } })
        else s) d

def execGetQueueCounters (dt : Nat) (c : Cmd) (s : State) : Host.Outcome State Fault Refusal :=
  runCard cardGetQueueCounters dt c s

/-- GET_SWITCH_COUNTERS (0x0C0D). -/
def cardGetSwitchCounters : Card where
  opcode := 0x0C0D
  level := .r
  changes := false
  len := .exact 1
  most _ _ := 8
  reserved p := orElseOpt (reservedBits p [(1, 0xFE)]) (firstNonzero p [(2, 2)])
  params _ c := firstBad [(0, decide (byteAt c.params 0 ≤ 127))]
  run s c :=
    let n := byteAt c.params 0
    .ok (if bit (byteAt c.params 1) 0 then s.modSwp n (fun w => { w with counters := List.replicate 7 0 }) else s)
      ((s.swp n).counters.flatMap (le 4))

def execGetSwitchCounters (dt : Nat) (c : Cmd) (s : State) : Host.Outcome State Fault Refusal :=
  runCard cardGetSwitchCounters dt c s

/-! ### Events -/

/-- A PAUSE of `quanta` holds the preemptable classes of a port (17 R428, R429). -/
def State.pauseReceived (s : State) (n quanta : Nat) : State :=
  let s := s.portCount n 9
  let p := s.port n
  if !p.rxForce then s
  else if quanta = 0 then s.setPort n { p with pauseTo := none }
  else s.setPort n { p with pauseTo := some (s.now + ceilDiv (qNs * quanta * 5120) (rate10 p.phy)) }

/-- FRAME_RECEIVED (17 R427, R428, R407): the frame's last bit arrives at `ta`, in 2^-16 ns of protection time. -/
def execFrameReceived (dt port ta : Nat) (frame : Bytes) (rx : Rx) (s : State) : Host.Outcome State Fault Refusal :=
  let s := s.advance dt
  if port ≥ 128 ∨ !s.portUp port then .next s
  else
    let s := (((s.portCountN port 8 rx.frags).portCountN port 10 rx.fecFix).portCountN port 11 rx.fecBad)
    let len := frame.length + 4
    let sof := 9 * ta - byteTime (s.port port).phy len
    let bad (s : State) : State := if s.isSwitchPort port && decide (len ≥ 64) then s.receive port frame sof true else s
    if rx.err = 1 then .next (bad (s.portCount port 4))
    else if rx.err = 2 then .next (s.portCount port 7)
    else if len < 64 then .next (s.portCount port 2)
    else if len > (s.port port).maxFrame then .next (bad (s.portCount port 3))
    else if rx.err ≠ 0 then .next (bad (s.portCount port 1))
    else
      let s := (s.portCount port 0).modPort port (fun p => { p with rxOctets := satAdd 64 p.rxOctets len })
      let e := ethParse frame
      let ptpMgmt := e.etype == etPtp && s.ptpPort port && byteAt e.payload 0 % 16 == 13
      let s := if ptpMgmt then { s with horizon.mgmtDrop := inc32 s.horizon.mgmtDrop } else s
      if e.etype = 0x8808 then
        .next (if be16 e.payload 0 = 1 then s.pauseReceived port (be16 e.payload 2) else s.portCount port 9)
      else if s.isSwitchPort port then .next ((s.receive port frame sof false).drainAfter port frame)
      else .next s

/-- FRAME_TRANSMIT_START (17 R431, R432): `under` says that the FIFO of a store-and-forward frame then runs empty. -/
def execFrameTransmitStart (dt port : Nat) (under : Bool) (s : State) : Host.Outcome State Fault Refusal :=
  let s := s.advance dt
  .next (if port < 128 then s.transmit port under else s)

/-- THRESHOLD_DECAY (17 R431). -/
def execThresholdDecay (dt port : Nat) (s : State) : Host.Outcome State Fault Refusal :=
  let s := s.advance dt
  let p := s.port port
  .next (if p.thresh > 0 && s.tb3Passed p.threshAt 1000000 then
    s.setPort port { p with thresh := p.thresh - 1, threshAt := s.tb3 } else s)

/-- GATE_EVENT (R410, R411): from its switch tick on a new list is the one in force. -/
def execGateEvent (dt port : Nat) (s : State) : Host.Outcome State Fault Refusal :=
  let s := s.advance dt
  let w := s.swp port
  .next (match w.nextGate with
    | some (n, g) => if s.now ≥ boundaryQ n then s.setSwp port { w with gate := g, nextGate := none } else s
    | none => s)

/-- FDB_AGE_EXPIRY (R398). -/
def execFdbAgeExpiry (dt mac vid : Nat) (s : State) : Host.Outcome State Fault Refusal :=
  let s := s.advance dt
  .next { s with sw.fdb := s.sw.fdb.filter (fun e =>
    !(e.isKey mac vid && !e.static_ && decide (visNs s.tb3 ≥ e.at_ + s.sw.ageS * 1000000000))) }

/-- SOURCE_ENTRY_AGE (R414). -/
def execSourceEntryAge (dt ent src : Nat) (s : State) : Host.Outcome State Fault Refusal :=
  let s := s.advance dt
  match (s.entity ent).sources.get src with
  | some e =>
    .next (if visNs s.tb3 ≥ e.at_ + (s.entity ent).ageMs * 1000000 then
      (s.modEntity ent (fun t => { t with sources := t.sources.del src })).entCount ent 9 else s)
  | none => .next s

/-- A supervision frame of an entity (R418, IEC 62439-3; log entry 34). -/
def supervisionFrame (e : Entity) (seq : Nat) : Bytes :=
  be 6 0x01154E000100 ++ be 6 e.mac ++ be 2 0x88FB ++ be 2 1 ++ be 2 seq ++
    le 1 (if e.prp then 20 else 23) ++ le 1 6 ++ be 6 e.mac ++
    (if e.redbox then le 1 30 ++ le 1 6 ++ be 6 e.mac else []) ++ zeros 2

/-- SUPERVISION_SEND (R418). -/
def execSupervisionSend (dt ent : Nat) (s : State) : Host.Outcome State Fault Refusal :=
  let s := s.advance dt
  let e := s.entity ent
  if e.mode = 0 ∨ e.supMs = 0 ∨ !s.tb3Passed e.supAt (1000 * e.supMs) then .next s
  else
    let s := s.modEntity ent (fun e => { e with supAt := s.tb3 })
    let (q, s) := s.nextTx ent (2 ^ 48)
    .next (s.originateOn e.a 6 (supervisionFrame e q) s.now none)

end Sys2Proof.Machine
end

