-- ==== Sys2Proof/Machine/System.lean ====
section
/-! DEFINITION. The system family (02 R59). -/
namespace Sys2Proof.Machine

/-- PAIR_ROLE (12 R309). -/
def State.pairRole (s : State) : Nat := if s.pair.st = .unpaired then 0 else if s.inControl then 1 else 2

/-- The ordering code (00 R4), 16 bytes. -/
def orderCode : Bytes :=
  padTo 16 (ascii [0x47, 0x35, 0x31, 0x32, 0x38, 0x2D, 0x45, 0x2D] ++ [Config.stepLetter, 0x30#8 + Config.stepDigit])

/-- GET_IDENTITY (0x0101). -/
def cardGetIdentity : Card where
  opcode := 0x0101
  level := .r
  changes := false
  len := .exact 0
  most _ _ := 11
  run s _ :=
    .ok s (le 8 Config.serial.toNat ++ (List.finRange 8).map Config.lot ++ orderCode ++ [Config.stepLetter, Config.stepDigit] ++
      le 1 1 ++ le 1 s.boot.role ++ le 1 s.pairRole ++ le 1 s.ownNode ++ zeros 2)

def execGetIdentity (dt : Nat) (c : Cmd) (s : State) : Host.Outcome State Fault Refusal := runCard cardGetIdentity dt c s

/-- SUMMARY of GET_STATUS. Bit 5 is the pair link fault of 12 R320. -/
def State.summary (s : State) : Nat :=
  bitsNat [s.place.exhausted, s.place.insts.any (fun e => e.2.place == .degraded), s.horizon.ptSt == .holdover,
    !s.anvil.selfTest, s.cmd.busy, s.pair.st != .unpaired && s.linksSilent && s.pair.pairOk,
    s.keys.slots.any (fun e => e.2.st == .unusable), s.recorder.lostUp != s.cmd.lostAtStatus]

/-- GET_STATUS (0x0102). -/
def cardGetStatus : Card where
  opcode := 0x0102
  level := .r
  changes := false
  len := .exact 0
  most _ _ := 7
  run s _ :=
    let free := ((allEngs false).filter (fun e => (s.eng e).st == .inService && (s.copiesOnOrdered e).isEmpty)).length
    .ok { s with cmd.lostAtStatus := s.recorder.lostUp }
      (le 1 s.moduleState ++ zeros 1 ++ le 2 s.summary ++ le 4 s.cmd.restarts ++ le 2 free ++ le 2 s.sparesLeft ++
        le 2 (s.place.insts.filter (fun e => e.2.isPlaced)).length ++ zeros 2 ++ le 4 (s.life 0x000) ++ le 3 (s.life 0x001) ++
        zeros 1)

def execGetStatus (dt : Nat) (c : Cmd) (s : State) : Host.Outcome State Fault Refusal := runCard cardGetStatus dt c s

/-- RESET (0x0103), R60: what it starts begins after its reply. -/
def cardReset : Card where
  opcode := 0x0103
  level := .m
  len := .exact 1
  reserved p := reservedBits p [(1, 0xFE)]
  params _ c :=
    let p := c.params
    firstBad [(0, byteAt p 0 == 1 || byteAt p 0 == 2), (2, u16 p 2 == 0x5128)]
  run s c :=
    let p := c.params
    if byteAt p 0 == 2 && !bit (byteAt p 1) 0 && s.moduleState == 2 then .wrong 2
    else .ok { s with cmd.after := some c } []

/-- GET_FIRMWARE_INFO (0x0104). -/
def cardGetFirmwareInfo : Card where
  opcode := 0x0104
  level := .r
  changes := false
  len := .exact 0
  most _ _ := 5
  run s _ :=
    let st (f : FwSlot) : Nat := if f.empty then 0 else if f.valid then 1 else 2
    let b := s.boot
    .ok s (le 1 (boolNat b.running) ++ le 1 (boolNat b.record.next) ++ le 1 (st b.slotA) ++ le 1 (st b.slotB) ++
      le 4 b.slotA.version ++ le 4 b.slotB.version ++ le 1 s.level ++ [Config.romVersion] ++ zeros 2)

def execGetFirmwareInfo (dt : Nat) (c : Cmd) (s : State) : Host.Outcome State Fault Refusal := runCard cardGetFirmwareInfo dt c s

/-- ECHO (0x0105). -/
def cardEcho : Card where
  opcode := 0x0105
  level := .r
  changes := false
  len := .range 0 1018
  most _ c := 1 + c.len
  run s c := .ok s c.params

def execEcho (dt : Nat) (c : Cmd) (s : State) : Host.Outcome State Fault Refusal := runCard cardEcho dt c s

/-- GET_ZENITH_LOAD (0x0106). -/
def cardGetZenithLoad : Card where
  opcode := 0x0106
  level := .r
  changes := false
  len := .exact 0
  most _ _ := 36
  run s _ :=
    .ok s (le 2 s.cmd.load ++ le 1 (boolNat s.cmd.busy) ++ zeros 1 ++ le 4 (s.life 0x005) ++ le 4 s.cmd.busyReplies ++
      (List.range 16).flatMap (fun b => le 8 (s.life (binId 0 b))))

def execGetZenithLoad (dt : Nat) (c : Cmd) (s : State) : Host.Outcome State Fault Refusal := runCard cardGetZenithLoad dt c s

/-- A port of Stratus or of the pair link. -/
def State.linkPort (s : State) (n : Nat) : Bool :=
  (match s.stratus.cfg with
    | some c => c.ports.contains n
    | none => false) || (s.pair.configured && (s.pair.linkA == n || s.pair.linkB == n))

/-- SET_CHANNEL (0x0107), R61: it takes effect after its reply has left. -/
def cardSetChannel : Card where
  opcode := 0x0107
  level := .m
  len := .exact 4
  reserved p := firstNonzero p [(3, 1), (14, 2)]
  params _ c :=
    let p := c.params
    let eth := byteAt p 0 == 1
    let mac := beNat (slice p 8 6)
    firstBad [
      (0, decide (byteAt p 0 ≤ 1)),
      (1, decide (byteAt p 1 ≤ 1)),
      (2, decide (byteAt p 2 ≤ 0x3F) || byteAt p 2 == 0xFF),
      (4, if eth then decide (u16 p 4 ≤ 127) else u16 p 4 == 0),
      (6, decide (u16 p 6 ≤ 4094)),
      (8, if eth then mac != 0 && !isMulticast mac else mac == 0)]
  run s c :=
    if byteAt c.params 0 = 1 ∧ s.linkPort (u16 c.params 4) then .wrong 3
    else .ok { s with cmd.after := some c } []

/-- The channel takes its settings (R61, R45). -/
def State.applyChannel (s : State) (c : Cmd) : State :=
  let p := c.params
  let n := 64 + byteAt p 0
  let ch := s.chan n
  let on := byteAt p 1 == 1
  let b := byteAt p 2
  let s := if n = 65 then { s with cmd.ethPort := u16 p 4, cmd.ethVlan := u16 p 6, cmd.ethMac := beNat (slice p 8 6) }
    else s.modUart 0 (fun u => { u with enable := on })
  if on == ch.enabled && b == ch.binding then s
  else
    let s := ch.queue.foldl (fun s q => s.reply q.cmd stBadInstance b) (s.setChan n { s.chan n with queue := [] })
    s.setChan n { s.chan n with enabled := on, binding := b, last := none, reply := .none, busyK := 0, queue := [] }

/-- What begins once the reply has left (R60, R61). The core that executed a ZENITH reset is not named: a free value. -/
def State.afterReply (s : State) : State :=
  match s.cmd.after with
  | none => s
  | some c =>
    let s := { s with cmd.after := none }
    if c.opcode = 0x0107 then s.applyChannel c
    else if byteAt c.params 0 = 2 then s.moduleReset c
    else
      let (core, s) := s.freeVal 2
      (s.post 0x0103 (le 1 core ++ s.runningList)).zenithRestart

/-- A card's row whose effect begins after the reply. -/
def runAfter (k : Card) (dt : Nat) (c : Cmd) (s : State) : Host.Outcome State Fault Refusal :=
  match runCard k dt c s with
  | .next t => .next t.afterReply
  | o => o

def execReset (dt : Nat) (c : Cmd) (s : State) : Host.Outcome State Fault Refusal := runAfter cardReset dt c s
def execSetChannel (dt : Nat) (c : Cmd) (s : State) : Host.Outcome State Fault Refusal := runAfter cardSetChannel dt c s

end Sys2Proof.Machine
end

