-- ==== Sys2Proof/Machine/Time.lean ====
section
/-! DEFINITION. The time family (14 R373, R374) and Horizon's events. -/
namespace Sys2Proof.Machine

/-! ### PTP settings -/

/-- SET_PTP (0x0A01). -/
def cardSetPtp : Card where
  opcode := 0x0A01
  level := .m
  len := .exact 7
  reserved p := firstNonzero p [(0x17, 1), (0x1A, 2)]
  params _ c :=
    let p := c.params
    firstBad [(0, decide (byteAt p 0 ≤ 1)), (1, decide (byteAt p 1 ≤ 1)), (2, decide (byteAt p 2 ≤ 1)),
      (4, byteAt p 1 == 0 || uN p 4 16 != 0), (0x14, decide (u16 p 0x14 ≤ 4094)), (0x16, decide (byteAt p 0x16 ≤ 2)),
      (0x18, u16 p 0x18 == 0 || (decide (20 ≤ u16 p 0x18) && decide (u16 p 0x18 ≤ 1000)))]
  run s c :=
    let p := c.params
    let b := byteAt p 0
    let on := byteAt p 1 == 1
    let mask := uN p 4 16
    let x := s.ptp b
    let o := s.ptp (1 - b)
    let mgmt := (s.chan 65).enabled
    if b = s.followNo && s.anyRunning then .wrong 1
    else if (bitList 128 mask).any (fun n => s.portRole n != 0 || (mgmt && n == s.cmd.ethPort)) then .wrong 2
    else if on && o.enable && o.domain == byteAt p 3 && (o.ports &&& mask) != 0 then .wrong 7
    else
      let y := { x with enable := on, profile := byteAt p 2, domain := byteAt p 3, ports := mask, vlan := u16 p 0x14,
                        bw := byteAt p 0x16, lockNs := if u16 p 0x18 = 0 then 100 else u16 p 0x18 }
      if y = x then .ok s []
      else .ok ((s.setPtp b { y with masters := [], selected := none, twoStep := none }).baseTo b
        (if on then .listening else .disabled) false) []

def execSetPtp (dt : Nat) (c : Cmd) (s : State) : Host.Outcome State Fault Refusal := runCard cardSetPtp dt c s

/-- GET_PTP_STATUS (0x0A02). -/
def cardGetPtpStatus : Card where
  opcode := 0x0A02
  level := .r
  changes := false
  len := .exact 1
  most _ _ := 13
  reserved p := orElseOpt (reservedBits p [(1, 0xFE)]) (firstNonzero p [(2, 2)])
  params _ c := firstBad [(0, decide (byteAt c.params 0 ≤ 1))]
  run s c :=
    let b := byteAt c.params 0
    let x := s.ptp b
    let port := (x.selected.map (·.1)).getD 0xFF
    let delay := match x.selected with
      | some (n, _) => (s.timingOf n).linkDelay
      | none => 0
    let hold := if x.st = .holdover then (tDiff s.tb3 x.holdAt).toNat / 2 ^ 40 / 1000000000 else 0
    let d := le 1 x.st.code ++ le 1 port ++ (match x.master.bind (·.utc) with
        | some u => leS 2 u
        | none => le 2 0x8000) ++ le 8 ((x.master.map (·.gmId)).getD 0) ++ leS 8 x.lastO ++ leS 8 x.rate ++
      leS 4 (divFloor delay 65536) ++ le 4 hold ++ le 4 x.steps ++ le 4 x.outliers ++ le 4 x.arbRej
    .ok (if bit (byteAt c.params 1) 0 then s.setPtp b { x with steps := 0, outliers := 0, arbRej := 0 } else s) d

def execGetPtpStatus (dt : Nat) (c : Cmd) (s : State) : Host.Outcome State Fault Refusal := runCard cardGetPtpStatus dt c s

/-- SET_PORT_TIMING (0x0A03). External latencies exist on SGMII ports only. -/
def cardSetPortTiming : Card where
  opcode := 0x0A03
  level := .m
  len := .exact 4
  reserved p := firstNonzero p [(1, 3)]
  params s c :=
    let p := c.params
    let sgmii := (s.port (byteAt p 0)).phy == 1
    firstBad [(0, decide (byteAt p 0 ≤ 127)), (4, sgmii || u32 p 4 == 0), (8, sgmii || u32 p 8 == 0)]
  run s c :=
    let p := c.params
    let n := byteAt p 0
    .ok { s with horizon.timing := s.horizon.timing.put n { s.timingOf n with
      ingressPs := s32 p 4, egressPs := s32 p 8, asymPs := s32 p 0x0C } } []

def execSetPortTiming (dt : Nat) (c : Cmd) (s : State) : Host.Outcome State Fault Refusal := runCard cardSetPortTiming dt c s

/-- SELECT_TIME (0x0A04). -/
def cardSelectTime : Card where
  opcode := 0x0A04
  level := .m
  len := .exact 2
  reserved p := minOpt (reservedBits p [(1, 0xFC)]) (firstNonzero p [(3, 1), (6, 2)])
  params _ c :=
    let p := c.params
    firstBad [(0, decide (byteAt p 0 ≤ 1)), (2, decide (1 ≤ byteAt p 2) && decide (byteAt p 2 ≤ 10)),
      (4, decide (1 ≤ u16 p 4) && decide (u16 p 4 ≤ 3600))]
  run s c :=
    let p := c.params
    let b := byteAt p 0
    if b ≠ s.followNo && (s.ptp b).st != .locked then .wrong 6
    else
      let s := { s with horizon.auto := bit (byteAt p 1) 0, horizon.revert := bit (byteAt p 1) 1,
                        horizon.slewPpm := byteAt p 2, horizon.revertS := u16 p 4 }
      let s := if b = s.followNo then s
        else if s.ptValid then s.switchTime b
        else { s with horizon.follow1 := b == 1 }.post 0x0A03 (le 1 b ++ zeros 8)
      .ok (match s.horizon.ptSt with
        | .synced => s
        | _ => if (s.ptp s.followNo).st = .locked then s.baseLocked s.followNo
               else if s.horizon.ptSt = .invalid && (s.ptp (1 - s.followNo)).st = .locked then s.baseLocked (1 - s.followNo)
               else s) []

def execSelectTime (dt : Nat) (c : Cmd) (s : State) : Host.Outcome State Fault Refusal := runCard cardSelectTime dt c s

/-- A time value: ns, then fraction (R348). -/
def timeBytes (t : Nat) : Bytes := le 8 (visNs t) ++ le 2 (vis t % 65536)

/-- GET_TIME (0x0A05). -/
def cardGetTime : Card where
  opcode := 0x0A05
  level := .r
  changes := false
  len := .exact 0
  most _ _ := 17
  run s _ :=
    let h := s.horizon
    let e := if s.ptValid then s.slewE else 0
    .ok s (le 1 h.ptSt.code ++
      le 1 (bitsNat [h.follow1, e != 0, decide (e.natAbs > 1000000 * 2 ^ 40), h.tb2Div]) ++
      le 1 (bitsNat [h.tb0.valid, h.tb1.valid, s.tb2Valid, true]) ++ zeros 1 ++
      timeBytes h.pt ++ timeBytes h.tb0.value ++ timeBytes h.tb1.value ++ timeBytes h.tb2 ++ timeBytes h.tb3 ++
      leS 2 s.utcOffset ++ leS 8 (divFloor e (2 ^ 24)))

def execGetTime (dt : Nat) (c : Cmd) (s : State) : Host.Outcome State Fault Refusal := runCard cardGetTime dt c s

/-! ### Pulses and captures -/

/-- A time of 10 bytes at an offset, in 2^-16 ns. -/
def time80 (p : Bytes) (o : Nat) : Nat := u64 p o * 65536 + u16 p (o + 8)

def ns10us : Nat := 10000 * 65536

/-- The first instant of a programme at a base value: for PERIODIC the first at least 10 µs ahead (R367). -/
def PulseCfg.firstAt (c : PulseCfg) (now : Nat) : Nat :=
  if c.mode != 2 then c.start
  else
    let ahead := sdiff 80 ((now + ns10us) % 2 ^ 80) c.start
    if ahead ≤ 0 then c.start else (c.start + ceilDiv ahead.toNat (max c.period 1) * c.period) % 2 ^ 80

def State.pulse (s : State) (n : Nat) : Pulse := s.horizon.pulses.getD n {}
def State.setPulse (s : State) (n : Nat) (x : Pulse) : State := { s with horizon.pulses := s.horizon.pulses.put n x }

/-- Is a pulse of the pin in progress? -/
def State.pulseBusy (s : State) (x : Pulse) : Bool := x.fired != 0 && decide (tDiff x.busyTo s.tb3 > 0)

/-- SET_PULSE (0x0A06). -/
def cardSetPulse : Card where
  opcode := 0x0A06
  level := .m
  len := .exact 9
  most _ _ := 3
  reserved p := minOpt (reservedBits p [(3, 0xFC)]) (firstNonzero p [(0x0E, 2), (0x1A, 2)])
  params _ c :=
    let p := c.params
    let per := byteAt p 1 == 2
    let period := time80 p 0x10
    let w := u32 p 0x1C
    firstBad [(0, decide (byteAt p 0 ≤ 7)), (1, decide (byteAt p 1 ≤ 2)), (2, decide (byteAt p 2 ≤ 4)),
      (0x10, if per then decide (100 * 65536 ≤ period) && decide (period ≤ 1000 * 10 ^ 9 * 65536) else period == 0),
      (0x1C, decide (8 ≤ w) && decide (w ≤ 1000000000) && (!per || decide ((w + 8) * 65536 ≤ period))),
      (0x20, per || u32 p 0x20 == 0)]
  run s c :=
    let p := c.params
    let n := byteAt p 0
    let cfg : PulseCfg := { mode := byteAt p 1, base := byteAt p 2, invert := bit (byteAt p 3) 0, gated := bit (byteAt p 3) 1,
                            start := time80 p 4, period := time80 p 0x10, width := u32 p 0x1C, count := u32 p 0x20 }
    let now := (s.pulseBase cfg.base).1
    if cfg.mode = 1 && sdiff 80 cfg.start now < (ns10us : Nat) then .wrong 3
    else
      let first := cfg.firstAt now
      let x := s.pulse n
      let y := if s.pulseBusy x then { x with waiting := some (cfg, first) }
        else { x with cfg := cfg, next := first, fired := 0, waiting := none }
      .ok (s.setPulse n y) (le 8 (first / 65536))

def execSetPulse (dt : Nat) (c : Cmd) (s : State) : Host.Outcome State Fault Refusal := runCard cardSetPulse dt c s

/-- SET_CAPTURE_INPUT (0x0A07). -/
def cardSetCaptureInput : Card where
  opcode := 0x0A07
  level := .m
  len := .exact 1
  reserved p := firstNonzero p [(3, 1)]
  params _ c := firstBad [(0, decide (byteAt c.params 0 ≤ 7)), (1, decide (byteAt c.params 1 ≤ 3)), (2, decide (byteAt c.params 2 ≤ 3))]
  run s c :=
    let n := byteAt c.params 0
    .ok { s with horizon.tpis := s.horizon.tpis.put n { s.horizon.tpis.getD n {} with
      edges := byteAt c.params 1, minWidth := byteAt c.params 2 } } []

def execSetCaptureInput (dt : Nat) (c : Cmd) (s : State) : Host.Outcome State Fault Refusal := runCard cardSetCaptureInput dt c s

def Capture.bytes (x : Capture) : Bytes :=
  le 8 (x.pt / 65536) ++ le 2 (x.pt % 65536) ++ le 2 (bitsNat [x.rising, x.valid, x.hold]) ++ le 4 x.seq ++ le 8 x.tb3

/-- READ_CAPTURES (0x0A08). -/
def cardReadCaptures : Card where
  opcode := 0x0A08
  level := .m
  changes := false
  len := .exact 1
  most _ _ := 196
  reserved p := orElseOpt (reservedBits p [(2, 0xFE)]) (firstNonzero p [(3, 1)])
  params _ c := firstBad [(0, decide (byteAt c.params 0 ≤ 7)), (1, decide (1 ≤ byteAt c.params 1) && decide (byteAt c.params 1 ≤ 32))]
  run s c :=
    let n := byteAt c.params 0
    let x := s.horizon.tpis.getD n {}
    let k := min (byteAt c.params 1) x.queue.length
    let y := { x with queue := x.queue.drop k }
    let y := if bit (byteAt c.params 2) 0 then { y with overflow := 0, tooFast := 0 } else y
    .ok { s with horizon.tpis := s.horizon.tpis.put n y }
      (le 1 k ++ le 1 (x.queue.length - k) ++ zeros 2 ++ le 4 x.overflow ++ le 4 x.tooFast ++ (x.queue.take k).flatMap Capture.bytes)

def execReadCaptures (dt : Nat) (c : Cmd) (s : State) : Host.Outcome State Fault Refusal := runCard cardReadCaptures dt c s

/-! ### UTC and the step -/

/-- SET_UTC (0x0A09). -/
def cardSetUtc : Card where
  opcode := 0x0A09
  level := .m
  len := .exact 3
  params _ c := firstBad [(2, decide (byteAt c.params 2 ≤ 1)), (3, decide (byteAt c.params 3 ≤ 2)),
    (4, byteAt c.params 3 != 0 || u64 c.params 4 == 0)]
  run s c :=
    let p := c.params
    .ok { s with horizon.utcSet := s16 p 0, horizon.utcFixed := byteAt p 2 == 1, horizon.leap := byteAt p 3,
                 horizon.leapEnd := u64 p 4 } []

def execSetUtc (dt : Nat) (c : Cmd) (s : State) : Host.Outcome State Fault Refusal := runCard cardSetUtc dt c s

/-- STEP_PROTECTION_TIME (0x0A0A). -/
def cardStepProtectionTime : Card where
  opcode := 0x0A0A
  level := .m
  len := .exact 1
  most _ _ := 3
  reserved p := firstNonzero p [(2, 2)]
  params _ c := firstBad [(0, u16 c.params 0 == 0x5128)]
  run s _ :=
    if s.anyRunning || s.ingest.streams.any (fun q => q.2.st != .disabled) then .wrong 4
    else if !s.ptValid then .wrong 5
    else
      let d := leS 8 (divToZero (-s.slewE) (2 ^ 40))
      .ok (({ s with horizon.pt := s.followed.value }.checkDiverged).post 0x0A06 d) d

def execStepProtectionTime (dt : Nat) (c : Cmd) (s : State) : Host.Outcome State Fault Refusal :=
  runCard cardStepProtectionTime dt c s

/-! ### Events of PTP -/

/-- The Sync of a base's selected master, with the correction of its Follow_Up. -/
def State.syncFrom (s : State) (b port t2 origin : Nat) (corr log : Int) : State :=
  if s.horizon.pllLock then s.acceptSync b (s.syncOffset port t2 origin corr) log else s

/-- PTP_SYNC (R356): one-step messages act at once, two-step ones at their Follow_Up. -/
def execPtpSync (dt port : Nat) (m : PtpSync) (t2 : Nat) (s : State) : Host.Outcome State Fault Refusal :=
  let s := s.advance dt
  match s.ptpBaseOf port m.domain m.vlan with
  | none => .next s
  | some b =>
    let x := s.ptp b
    if x.selected != some (port, m.sender) then .next s
    else if m.twoStep then .next (s.setPtp b { x with twoStep := some (m.sender, m.seq, t2, m.corr) })
    else .next (s.syncFrom b port t2 m.origin m.corr m.logInt)

/-- PTP_FOLLOW_UP. -/
def execPtpFollowUp (dt port : Nat) (m : PtpSync) (s : State) : Host.Outcome State Fault Refusal :=
  let s := s.advance dt
  match s.ptpBaseOf port m.domain m.vlan with
  | none => .next s
  | some b =>
    let x := s.ptp b
    match x.twoStep with
    | some (sender, sq, t2, corr) =>
      if x.selected != some (port, m.sender) || sender != m.sender || sq != m.seq then .next s
      else .next ((s.setPtp b { x with twoStep := none }).syncFrom b port t2 m.origin (corr + m.corr) m.logInt)
    | none => .next s

/-- The UTC second, under the offset given, that ends the present UTC day (R366): one second earlier where it loses one. -/
def State.utcDayEnd (s : State) (off : Int) (leap : Nat) : Nat :=
  let utc := ((s.nowNs : Int) - off * 1000000000).toNat / 1000000000
  (utc / 86400 + 1) * 86400 - (if leap = 2 then 1 else 0)

/-- PTP_ANNOUNCE (R352, R366). -/
def execPtpAnnounce (dt port : Nat) (m : PtpAnnounce) (s : State) : Host.Outcome State Fault Refusal :=
  let s := s.advance dt
  match s.ptpBaseOf port m.domain m.vlan with
  | none => .next s
  | some b =>
    let x := s.ptp b
    if !m.ptpScale then .next (s.setPtp b { x with arbRej := inc32 x.arbRej })
    else
      let d := [m.prio1, m.cls, m.accuracy, m.variance, m.prio2, m.gmId, m.steps, m.sender, port]
      let old := x.masters.find? (fun k => k.port == port && k.sender == m.sender)
      let end_ := match old with
        | some k => if k.leap = m.leap ∧ m.leap ≠ 0 then k.leapEnd else s.utcDayEnd (m.utc.getD s.horizon.utcSet) m.leap
        | none => s.utcDayEnd (m.utc.getD s.horizon.utcSet) m.leap
      let k : Master := { port := port, dataset := d, sender := m.sender, gmId := m.gmId, utc := m.utc, leap := m.leap,
                          leapEnd := if m.leap = 0 then 0 else end_, lastAnn := s.tb3,
                          annIntNs := 1000000000 * 2 ^ m.logInt.toNat / 2 ^ (-m.logInt).toNat }
      let rest := x.masters.filter (fun k => !(k.port == port && k.sender == m.sender))
      .next ((s.setPtp b { x with masters := k :: rest }).selectMaster b)

/-- PDELAY_REQ (R353): the port answers as a two-step responder, with t2 in the response and t3 in its follow-up. -/
def execPdelayReq (dt port domain requester seq t2 t3 : Nat) (s : State) : Host.Outcome State Fault Refusal :=
  let s := s.advance dt
  if port < 128 && s.ptpPort port && s.portUp port then
    let head := le 1 domain ++ be 10 requester ++ be 2 seq
    let t := s.timingOf port
    let resp := head ++ be 10 (ofSigned 80 ((t2 : Int) - psUnits t.ingressPs))
    let follow := head ++ be 10 (ofSigned 80 ((t3 : Int) + psUnits t.egressPs))
    .next ((s.emit (.ptp port resp)).emit (.ptp port follow))
  else .next s

/-- PDELAY_RESPONSE (R353, R355): the four instants of an exchange, in 2^-16 ns, and its corrections, give meanLinkDelay. -/
def execPdelayResponse (dt port t1 t2 t3 t4 : Nat) (corr : Int) (s : State) : Host.Outcome State Fault Refusal :=
  let s := s.advance dt
  if port < 128 && s.ptpPort port then
    let t := s.timingOf port
    let rt := sdiff 80 t4 t1 - psUnits t.ingressPs - psUnits t.egressPs - sdiff 80 t3 t2 - corr
    .next { s with horizon.timing := s.horizon.timing.put port { t with linkDelay := divToZero rt 2 } }
  else .next s

/-- PTP_SYNC_TIMEOUT (R358): no Sync for 3 intervals, or the selected master's Announce messages have ceased. -/
def execPtpSyncTimeout (dt base : Nat) (s : State) : Host.Outcome State Fault Refusal :=
  let s := s.advance dt
  let x := s.ptp base
  let quiet := decide (tDiff s.tb3 x.lastSync ≥ (3 * x.syncIntNs * 2 ^ 40 : Nat))
  let gone := match x.master with
    | some m => decide (tDiff s.tb3 m.lastAnn > (3 * m.annIntNs * 2 ^ 40 : Nat))
    | none => true
  if base ≥ 2 then .next s
  else if (x.st == .acquiring || x.st == .locked) && (quiet || gone) then .next ((s.toHoldover base).selectMaster base)
  else .next (if gone then s.selectMaster base else s)

/-! ### Protection time -/

/-- REVERT_TIMEOUT (R362). -/
def execRevertTimeout (dt : Nat) (s : State) : Host.Outcome State Fault Refusal :=
  let s := s.advance dt
  let h := s.horizon
  if h.auto && h.revert && h.follow1 && s.ptValid && h.tb0.st == .locked && s.tb3Passed h.tb0LockAt (h.revertS * 1000000) then
    let s := s.switchTime 0
    .next (if s.horizon.ptSt == .holdover && s.horizon.pllLock then { s with horizon.ptSt := .synced } else s)
  else .next s

/-- SLEW_COMPLETE (R361): what is left of e is below 2^-16 ns, and ends at 0. -/
def execSlewComplete (dt : Nat) (s : State) : Host.Outcome State Fault Refusal :=
  let s := s.advance dt
  if s.ptValid && decide (s.slewE.natAbs < 2 ^ 24) then .next { s with horizon.pt := s.followed.value }.checkDiverged
  else .next s.checkDiverged

/-- LEAP_SECOND (R366): UTC under the offset in force has reached the end of the announced day. -/
def execLeapSecond (dt : Nat) (s : State) : Host.Outcome State Fault Refusal :=
  let s := s.advance dt
  let due (end_ : Nat) : Bool := s.ptValid && decide ((s.nowNs : Int) - s.utcOffset * 1000000000 ≥ end_ * 1000000000)
  let d (leap : Nat) : Int := if leap = 1 then 1 else -1
  let b := s.followNo
  match if s.horizon.utcFixed then none else s.followed.master.bind (fun m => m.utc.map (fun u => (m, u))) with
  | some (m, u) =>
    if m.leap ≠ 0 && due m.leapEnd then
      let x := s.ptp b
      let ms := x.masters.map (fun k => if k == m then { k with utc := some (u + d m.leap), leap := 0, leapEnd := 0 } else k)
      .next (s.setPtp b { x with masters := ms })
    else .next s
  | none =>
    let h := s.horizon
    if h.leap ≠ 0 && due h.leapEnd then
      .next { s with horizon.utcSet := h.utcSet + d h.leap, horizon.leap := 0, horizon.leapEnd := 0 }
    else .next s

/-- TB2_DELTA_MEASUREMENT (R364): Δ at a tick boundary of protection time, while Stratus runs. -/
def execTb2DeltaMeasurement (dt : Nat) (s : State) : Host.Outcome State Fault Refusal :=
  let s := s.advance dt
  if !s.ptValid || s.stratus.st == .disabled then .next s
  else
    let d := tDiff s.horizon.tb2 s.horizon.pt
    let big := decide (d.natAbs > 1000 * 2 ^ 40)
    let t := { s with horizon.delta := divFloor d (2 ^ 24), horizon.tb2Div := big }
    .next (if big && !s.horizon.tb2Div then t.post 0x0A05 (leS 8 (divFloor d (2 ^ 24))) else t)

/-! ### Pulses -/

/-- The pulse programme of a pin after a pulse instant: done, or on to the next instant. -/
def Pulse.step (x : Pulse) (given due : Nat) : Pulse :=
  let fired := x.fired + given
  if x.cfg.mode != 2 || (x.cfg.count != 0 && decide (x.cfg.count ≤ fired)) then
    { x with fired := fired, cfg := { x.cfg with mode := 0 } }
  else { x with fired := fired, next := (x.next + due * x.cfg.period) % 2 ^ 80 }

/-- PULSE_INSTANT (R367 to R369). -/
def execPulseInstant (dt pin : Nat) (s : State) : Host.Outcome State Fault Refusal :=
  let s := s.advance dt
  let x0 := s.pulse pin
  let x := match x0.waiting with
    | some (cfg, first) => if s.pulseBusy x0 then x0 else { x0 with cfg := cfg, next := first, fired := 0, waiting := none }
    | none => x0
  let (now, valid) := s.pulseBase x.cfg.base
  let late := sdiff 80 now x.next
  if pin ≥ 8 then .next s
  else if x.cfg.mode == 0 || s.pulseBusy x || late < 0 then .next (s.setPulse pin x)
  else
    let due := if x.cfg.mode = 2 then late.toNat / max x.cfg.period 1 + 1 else 1
    if !valid then .next (s.setPulse pin ({ x with skipped := x.skipped + due }.step 0 due))
    else if x.cfg.gated && !s.pair.pubEnable then .next (s.setPulse pin (x.step 0 due))
    else
      let start := if due = 1 then x.next else now
      let y := { x.step 1 due with skipped := x.skipped + (due - 1), busyTo := (s.tb3 + x.cfg.width * 2 ^ 40) % timeMod }
      .next ((s.setPulse pin y).emit (.pulse pin start x.cfg.width))

end Sys2Proof.Machine
end

