-- ==== Sys2Proof/Machine/Command.lean ====
section
/-! DEFINITION. How Zenith starts and completes commands (02 R49 to R58), and the commands of a partner (12 R311) and a manager
(13 R333). -/
namespace Sys2Proof.Machine

/-! ### The opcodes (R55) -/

/-- Family 0x01. -/
def cardsSystem : List Card := [
  cardGetIdentity, cardGetStatus, cardReset, cardGetFirmwareInfo, cardEcho, cardGetZenithLoad, cardSetChannel,
  cardWriteFirmware, cardSelectImage, cardConfirmImage, cardGetBootReport]

/-- Family 0x02. -/
def cardsPlacement : List Card := [
  cardDeclareInstance, cardRemoveInstance, cardPlace, cardGetPlacement, cardGetEngine, cardSetPlacementLimits,
  cardGetPlacementLimits, cardGetCluster]

/-- Family 0x03. -/
def cardsProgram : List Card := [
  cardLoadImage, cardFreeImage, cardBindSignals, cardStartInstance, cardStopInstance, cardWriteSettings,
  cardStageChange, cardSwitchChange, cardCancelChange, cardGetRunState, cardGetChange]

/-- Family 0x04. -/
def cardsIngest : List Card := [
  cardDefineStream, cardRemoveStream, cardEnableStream, cardSetAlignment, cardGetStream, cardGetIngestTotals,
  cardGetChannel]

/-- Family 0x05. -/
def cardsFilter : List Card := [
  cardLoadBank, cardReadBank, cardFreeBank, cardSetChain, cardGetChain, cardSyncDecimators, cardSetDetector,
  cardGetDetectors]

/-- Family 0x06. -/
def cardsPublish : List Card := [
  cardBindOutputs, cardDefinePublication, cardRemovePublication, cardEnablePublication, cardSetRoute,
  cardGetPublication, cardDefineSubscription, cardRemoveSubscription, cardEnableSubscription, cardGetSubscription,
  cardGetSignal]

/-- Family 0x07. -/
def cardsCapture : List Card := [
  cardDefineRecorder, cardRemoveRecorder, cardSetTrigger, cardLoadMask, cardArmRecorder, cardForceTrigger,
  cardGetRecorder, cardListSegments, cardReadSegment, cardReleaseSegment, cardGetCaptureTotals]

/-- Family 0x08. -/
def cardsAnvil : List Card := [
  cardGetAnvilStatus, cardGetContainment, cardGetMemoryHealth, cardSetSelfTest, cardInjectFault, cardSetPair,
  cardGetPairStatus, cardSwitchover, cardResync]

/-- Family 0x09. -/
def cardsStratus : List Card := [
  cardSetStratus, cardLoadSchedule, cardActivateSchedule, cardBindReceive, cardGetStratusStatus, cardGetSlot,
  cardGetSync, cardHandoverManager, cardGetNodes]

/-- Family 0x0A. -/
def cardsTime : List Card := [
  cardSetPtp, cardGetPtpStatus, cardSetPortTiming, cardSelectTime, cardGetTime, cardSetPulse, cardSetCaptureInput,
  cardReadCaptures, cardSetUtc, cardStepProtectionTime]

/-- Family 0x0B. -/
def cardsClock : List Card := [
  cardSetClockSources, cardGetClockStatus, cardGetPllStatus, cardSetPower, cardGetPowerStatus]

/-- Family 0x0C. -/
def cardsSwitch : List Card := [
  cardSetVlan, cardSetFdbEntry, cardGetFdb, cardSetPortSwitch, cardSetSwitch, cardSetQueue, cardSetPolicer,
  cardSetGateList, cardSetRedundancy, cardGetRedundancyStatus, cardGetBufferStatus, cardGetQueueCounters,
  cardGetSwitchCounters, cardSetPort, cardGetPortStatus, cardGetPortCounters, cardI2cTransfer]

/-- Family 0x0D. -/
def cardsHost : List Card := [
  cardSetInstanceResources, cardGetInstance, cardSetWindow, cardGetWindow, cardResetInstance, cardGetHostCounters]

/-- Family 0x0E. -/
def cardsInterrupt : List Card := [
  cardSetSource, cardGetSource, cardUnmaskSource, cardListMasked]

/-- Family 0x0F. -/
def cardsKey : List Card := [
  cardWriteKey, cardEraseKey, cardGetKeyInfo, cardListKeys, cardVerifyKey, cardAckTamper, cardGetHaloStatus]

/-- Family 0x10. -/
def cardsRecorder : List Card := [
  cardGetRecorderStatus, cardReadRecords, cardGetClearNonce, cardClearRecorder, cardReadCounters, cardPostRecord,
  cardGetChipletIdentity, cardReadHistogram]

/-- Family 0x11. -/
def cardsSerial : List Card := [
  cardSetUart, cardUartWrite, cardUartRead, cardGetUartStatus, cardSetBinaryInput, cardSetBinaryOutput, cardGetBinaryIo]

/-- Every defined opcode. -/
def allCards : List Card :=
  cardsSystem ++ cardsPlacement ++ cardsProgram ++ cardsIngest ++ cardsFilter ++ cardsPublish ++ cardsCapture ++ cardsAnvil ++
    cardsStratus ++ cardsTime ++ cardsClock ++ cardsSwitch ++ cardsHost ++ cardsInterrupt ++ cardsKey ++ cardsRecorder ++ cardsSerial

/-- The card of an opcode. -/
def cardOf (opcode : Nat) : Option Card := allCards.find? (fun k => k.opcode == opcode)

/-- Checks 7 to 13 and the command itself (R41). A command from a manager carries its own parameters only. -/
def State.runOpcode (opcode : Nat) (s : State) (c : Cmd) : State :=
  let c := { c with opcode := opcode, params := if opcode = 0x0604 ∧ c.chan ≥ 66 then c.params.take 4 else c.params }
  match cardOf opcode with
  | some k => k.exec s c
  | none => if s.boot.phase = .recovery then s.reply c stWrongState 0x00F1 else s.reply c stBadOpcode 0

/-! ### Which command starts (R50) -/

/-- The queued packets of a channel. -/
def State.queued (s : State) (n : Nat) : List Queued := (s.chan n).queue

/-- The URGENT packet that arrived first. -/
def State.nextUrgent (s : State) : Option Queued :=
  let all := (s.cmd.channels.flatMap (fun e => e.2.queue)).filter (·.urgent)
  (sortBy (fun (a b : Queued) => decide (a.arrival < b.arrival)) all).head?

/-- A command of the channel has sent no reply yet: its next non-URGENT command waits. -/
def State.unanswered (s : State) (n : Nat) : Bool := s.cmd.accepted.any (fun a => a.quiet && a.cmd.chan == n)

/-- The next non-URGENT packet: channels round-robin, each in arrival order. -/
def State.nextNormal (s : State) : Option Queued :=
  ((List.range 66).map (fun i => (s.cmd.rrNext + i) % 66)).findSome? (fun n =>
    if s.unanswered n then none else (s.queued n).find? (fun q => !q.urgent))

def State.dequeue (s : State) (q : Queued) : State :=
  let n := q.cmd.chan
  s.setChan n { s.chan n with queue := (s.chan n).queue.filter (fun x => x.arrival != q.arrival) }

/-- Zenith starts a command. -/
def State.startNext (s : State) : State :=
  match s.nextUrgent with
  | some q => ((s.dequeue q).runOpcode q.cmd.opcode q.cmd).afterReply
  | none =>
    match s.nextNormal with
    | some q =>
      let s := { s.dequeue q with cmd.rrNext := (q.cmd.chan + 1) % 66 }
      (s.runOpcode q.cmd.opcode q.cmd).afterReply
    | none => s

/-! ### Completion (R53) -/

/-- The outcome of an accepted command, if it has come, with the effect that comes at its commit point (R50). -/
def State.outcome (s : State) (a : Accepted) : Option (Nat × Nat × Bytes) × State :=
  let free (s : State) : State := if a.wait = .place then { s with place.placing := false } else s
  match a.result with
  | some r => (some r, free s)
  | none =>
    let s := { s with origin := a.cmd.inst }
    match a.wait with
    | .place => (match s.placeNow with
      | some (r, t) => (some r, t)
      | none => (none, s))
    | .stage => (match s.stageNow with
      | some (r, t) => (some r, t)
      | none => (none, s))
    | .segment => (match s.finishSegment a.cmd with
      | (st, d, b, t) => (some (st, d, b), t))
    | _ => (none, s)

/-- A command that commits only now is mirrored now (12 R311). -/
def State.commitLate (s : State) (a : Accepted) : State :=
  match cardOf a.cmd.opcode with
  | some k =>
    if k.changes && !a.committed then (s.mirror a.cmd (k.absolute s s a.cmd)).backupCmd a.cmd (k.absolute s s a.cmd) else s
  | none => s

/-- The completion of an accepted command whose outcome has come: the report, or the plain reply where that was deferred. -/
def State.completeOne (s : State) (a : Accepted) : State :=
  match s.outcome a with
  | (none, t) => { t with origin := 0xFF }
  | (some (st, d, data), t) =>
    let t := { t with origin := 0xFF, cmd.accepted := t.cmd.accepted.filter (fun b => !(b.cmd == a.cmd && b.wait == a.wait)) }
    let t := if st = stOk then t.commitLate a else t
    let t := t.answer a.cmd (!a.quiet) st d data
    if a.wait = .segment then t.capAvail (byteAt a.cmd.params 0) else t

def State.complete (s : State) (chan seq : Nat) : State :=
  let s := s.scheduleDue.switchover
  match s.cmd.accepted.find? (fun a => a.cmd.chan == chan && a.cmd.seq == seq) with
  | some a => s.completeOne a
  | none => s

/-! ### The partner's commands (12 R311, R319) -/

/-- The command a MIRROR record carries. -/
def mirrorCmd (pkt : Bytes) : Cmd := { mgmtCmd 0 0 pkt with chan := 66, replyTo := 0 }

/-- A mirrored command executed; one that places or stages completes with it. -/
def State.runMirror (s : State) (pkt : Bytes) : State :=
  let c := mirrorCmd pkt
  let s := { s with cmd.remote := none }.runOpcode c.opcode c
  let s := match s.cmd.accepted.reverse.find? (fun a => a.cmd.chan == 66 && a.cmd.seq == c.seq) with
    | some a => if a.wait = .place ∨ a.wait = .stage then s.completeOne a else s
    | none => s
  if c.opcode = 0x0604 ∧ c.params.length ≥ 12 then
    { s with pub.pubs := s.pub.pubs.upd (u16 c.params 0) (fun p => { p with first := some (u64 c.params 4) }) }
  else s

/-- A MIRROR record in its order; a gap or another status makes a standby unfit (R311). -/
def State.pairMirror (s : State) (mseq : Nat) (pkt : Bytes) : State :=
  if s.pair.st != .standby && s.pair.st != .standbySync then s
  else if (s.pair.mirrorRx.map (fun m => m != mseq)).getD false || !s.zenithUp then s.pairUnfit
  else
    let s := { s with pair.mirrorRx := some ((mseq + 1) % 2 ^ 32), pair.mirrorLog := s.pair.mirrorLog ++ [pkt] }
    let p := pkt.drop 16
    if u16 pkt 0 = opMirrorPhase then { s with pair.phases := s.pair.phases.put (u16 p 0) (u16 p 2) }
    else if u16 pkt 0 = opMirrorMoved then s
    else
      let s := s.runMirror pkt
      match s.cmd.remote with
      | some (st, _, _) => if st = stOk ∨ st = stAccepted then s else s.pairUnfit
      | none => s

/-! ### Events -/

/-- PACKET_ARRIVAL (R41): `pkt` is the unstuffed frame, the payload after the subheader, or the packet of a descriptor. -/
def execPacketArrival (dt chan : Nat) (pkt : Bytes) (replyTo replyBytes index user : Nat) (s : State) :
    Host.Outcome State Fault Refusal :=
  let s := s.advance dt
  let ring := decide (chan ≥ 64) || (s.hif chan).enable
  .next (if decide (chan ≤ 65) && s.channelOpen chan && ring then
      s.arrive chan { replyTo := replyTo, replyBytes := replyBytes, index := index, user := user } pkt
    else s)

/-- MGMT_ETHERNET_FRAME (R39): a frame without its FCS, good, at a port. -/
def execMgmtEthernetFrame (dt port : Nat) (frame : Bytes) (s : State) : Host.Outcome State Fault Refusal :=
  let s := s.advance dt
  let e := ethParse frame
  if !s.channelOpen 65 || !s.portUp port || !s.mgmtMatches port e then .next s
  else if s.mgmtTakes port e then .next (s.arrive 65 { replyTo := e.src } (e.payload.drop 4))
  else
    let ch := s.chan 65
    .next (s.setChan 65 { ch with dropped := inc32 ch.dropped })

/-- COMMAND_START (R50). -/
def execCommandStart (dt : Nat) (s : State) : Host.Outcome State Fault Refusal :=
  let s := s.advance dt
  .next (if s.zenithUp then s.startNext else s)

/-- COMMAND_COMPLETION (R53): the command that channel `chan` numbered `seq`. -/
def execCommandCompletion (dt chan seq : Nat) (s : State) : Host.Outcome State Fault Refusal :=
  let s := s.advance dt
  .next (if s.zenithUp then s.complete chan seq else s)

/-- ZENITH_LOAD_UPDATE (R51, 21 R499): the load in 0.01 %; each tenth ends a window of the histogram. -/
def execZenithLoadUpdate (dt load : Nat) (s : State) : Host.Outcome State Fault Refusal :=
  let s := s.advance dt
  if !s.zenithUp then .next s
  else
    let l := min load 10000
    let busy := decide (l > 7500) || (s.cmd.busy && decide (l > 7000))
    let s := { s with cmd.load := l, cmd.busy := busy }
    if s.cmd.loadUpdates ≥ 9 then .next ({ s with cmd.loadUpdates := 0 }.bump (binId 0 (min 15 (l * 16 / 10000))))
    else .next { s with cmd.loadUpdates := s.cmd.loadUpdates + 1 }

/-- WATCHDOG_EXPIRY (R56) of a core. -/
def execWatchdogExpiry (dt core : Nat) (s : State) : Host.Outcome State Fault Refusal :=
  let s := s.advance dt
  .next (if s.boot.phase = .ready ∧ core < 4 then s.watchdog core else s)

/-- ZENITH_RECOVERED (R56): restorations that waited for Zenith follow (03 R82). -/
def execZenithRecovered (dt : Nat) (s : State) : Host.Outcome State Fault Refusal :=
  let s := s.advance dt
  if s.cmd.mgmt != .restarting then .next s
  else
    let s := { s with cmd.mgmt := .running, cmd.load := 0, cmd.busy := false, cmd.loadUpdates := 0 }
    .next s.icuRecovered.restoreWaiting

/-- PAIR_MIRROR_RECEIVED (12 R311). -/
def execPairMirrorReceived (dt : Nat) (rx : PairRx) (mseq : Nat) (pkt : Bytes) (s : State) : Host.Outcome State Fault Refusal :=
  .next ((s.advance dt).onRecord rx (fun s => s.pairMirror mseq pkt))

/-- MGMT_MESSAGE_RECEIVED (13 R333). -/
def execMgmtMessageReceived (dt : Nat) (rx : StratusRx) (src dst mseq : Nat) (body : MgmtBody) (s : State) :
    Host.Outcome State Fault Refusal :=
  .next ((s.advance dt).mgmtReceived State.runOpcode rx src dst mseq body)

end Sys2Proof.Machine
end

