-- ==== Sys2Proof/Machine/Flags.lean ====
section
/-! DEFINITION. STATUS of a PE and every flag computation of fixed point and accumulators (06 R149, R164, R166). -/
namespace Sys2Proof.Machine

/-! ### Flags as bits of STATUS (R149) -/

def fSat := 0x01
def fNv := 0x02
def fDz := 0x04
def fOf := 0x08
def fFz := 0x10
def fNx := 0x20

/-- STATUS as `MFS` reads it (R149, R170). -/
def PeRegs.status (r : PeRegs) : Nat := bitsNat [r.sat, r.nv, r.dz, r.ovf, r.fz, r.nx]

/-- STATUS[5:0] replaced (R170). -/
def PeRegs.setStatus (r : PeRegs) (v : Nat) : PeRegs :=
  { r with sat := bit v 0, nv := bit v 1, dz := bit v 2, ovf := bit v 3, fz := bit v 4, nx := bit v 5 }

/-- Sets the flags of `f`; a flag set stays set (R149). -/
def PeRegs.raise (r : PeRegs) (f : Nat) : PeRegs :=
  { r with sat := r.sat || bit f 0, nv := r.nv || bit f 1, dz := r.dz || bit f 2, ovf := r.ovf || bit f 3,
           fz := r.fz || bit f 4, nx := r.nx || bit f 5 }

/-! ### Saturation -/

/-- A word as a signed integer. -/
def wi (w : Word) : Int := w.toInt

def iw (i : Int) : Word := BitVec.ofInt 32 i

/-- A result and the flags it sets. -/
abbrev Res := Word × Nat

/-- sat32 of R164: the clamped value, and SAT when it clamps. -/
def satW (v : Int) : Res :=
  if v > 2147483647 then (0x7FFFFFFF#32, fSat) else if v < -2147483648 then (0x80000000#32, fSat) else (iw v, 0)

/-- sat72 of R166. -/
def satA (v : Int) : Acc × Nat :=
  let hi : Int := 2361183241434822606847
  if v > hi then (BitVec.ofInt 72 hi, fSat) else if v < -hi - 1 then (BitVec.ofInt 72 (-hi - 1), fSat)
  else (BitVec.ofInt 72 v, 0)

/-- rnd(k) of R164. -/
def rnd (k : Nat) : Int := if k = 0 then 0 else ((2 ^ (k - 1) : Nat) : Int)

/-- Arithmetic shift right of an exact integer. -/
def shr (v : Int) (k : Nat) : Int := v.fdiv ((2 ^ k : Nat) : Int)

end Sys2Proof.Machine
end

