-- ==== Sys2Proof/Machine/Float.lean ====
section
/-! DEFINITION. Deterministic binary32 (06 R172 to R175). -/
namespace Sys2Proof.Machine

/-- A binary32 operand after step 1 of R172: NaN, an infinity, or the exact value ±m × 2^e (m = 0 for a zero). -/
inductive F32 where
  | nan
  | inf (neg : Bool)
  | fin (neg : Bool) (m : Nat) (e : Int)
  deriving DecidableEq, Repr

def qNaN : Word := 0x7FC00000#32
def fSignBit (neg : Bool) : Nat := if neg then 0x80000000 else 0
def fZero (neg : Bool) : Word := BitVec.ofNat 32 (fSignBit neg)
def fInf (neg : Bool) : Word := BitVec.ofNat 32 (fSignBit neg + 0x7F800000)

/-- The operand a word holds, and FZ if it was subnormal (R172 step 1). -/
def unpack (w : Word) : F32 × Nat :=
  let v := w.toNat
  let neg := bit v 31
  let e := bitsOf v 23 8
  let f := bitsOf v 0 23
  if e = 255 then (if f = 0 then .inf neg else .nan, 0)
  else if e = 0 then (.fin neg 0 0, if f = 0 then 0 else fFz)
  else (.fin neg (0x800000 + f) ((e : Int) - 150), 0)

/-- Steps 3 to 6 of R172 on ±(m + θ) × 2^e, where θ = 0 unless `sticky`, which says 0 < θ < 1. A sticky `m` has more than
24 bits. -/
def roundPack (neg : Bool) (m : Nat) (e : Int) (sticky : Bool) : Res :=
  if m = 0 then (fZero neg, 0)
  else
    let len := Nat.log2 m + 1
    let sh := len - 24
    let q0 := if len ≤ 24 then m * 2 ^ (24 - len) else m / 2 ^ sh
    let e0 : Int := if len ≤ 24 then e - ((24 - len : Nat) : Int) else e + (sh : Int)
    let rest := if len ≤ 24 then 0 else m % 2 ^ sh
    let half := if len ≤ 24 then 1 else 2 ^ (sh - 1)
    let up := decide (rest > half) || (rest == half && (sticky || q0 % 2 == 1))
    let inexact := rest != 0 || sticky
    let q1 := if up then q0 + 1 else q0
    let q := if q1 = 0x1000000 then 0x800000 else q1
    let top : Int := (if q1 = 0x1000000 then e0 + 1 else e0) + 23
    if top ≥ 128 then (fInf neg, fOf + fNx)
    else if top < -126 then (fZero neg, fFz + fNx)
    else (BitVec.ofNat 32 (fSignBit neg + (top + 127).toNat * 0x800000 + (q - 0x800000)), if inexact then fNx else 0)

/-- The exact sum of two finite values, as sign and magnitude; an exact zero has the sign of IEEE 754 (R172). -/
def addExact (n1 : Bool) (m1 : Nat) (e1 : Int) (n2 : Bool) (m2 : Nat) (e2 : Int) : Bool × Nat × Int :=
  if m1 = 0 ∧ m2 = 0 then (n1 && n2, 0, 0)
  else if m1 = 0 then (n2, m2, e2)
  else if m2 = 0 then (n1, m1, e1)
  else
    let e := min e1 e2
    let i1 : Int := (m1 : Int) * ((2 ^ (e1 - e).toNat : Nat) : Int)
    let i2 : Int := (m2 : Int) * ((2 ^ (e2 - e).toNat : Nat) : Int)
    let v := (if n1 then -i1 else i1) + (if n2 then -i2 else i2)
    if v = 0 then (false, 0, 0) else (decide (v < 0), v.natAbs, e)

/-- ±∞ or a finite value plus a finite value or ±∞, rounded (R172, R173). Neither is a NaN. -/
def addF (a b : F32) : Res :=
  match a, b with
  | .inf n1, .inf n2 => if n1 = n2 then (fInf n1, 0) else (qNaN, fNv)
  | .inf n1, _ => (fInf n1, 0)
  | _, .inf n2 => (fInf n2, 0)
  | .fin n1 m1 e1, .fin n2 m2 e2 =>
    let r := addExact n1 m1 e1 n2 m2 e2
    roundPack r.1 r.2.1 r.2.2 false
  | _, _ => (qNaN, 0)

def F32.negate : F32 → F32
  | .nan => .nan
  | .inf n => .inf (!n)
  | .fin n m e => .fin (!n) m e

/-- A result over two operands: NaN operands first, without flags (R173); else the flags of the flushes join those of the
operation. -/
def bin32 (a b : Word) (f : F32 → F32 → Res) : Res :=
  let x := unpack a
  let y := unpack b
  if x.1 = .nan ∨ y.1 = .nan then (qNaN, 0)
  else
    let r := f x.1 y.1
    (r.1, r.2 ||| x.2 ||| y.2)

def un32 (a : Word) (f : F32 → Res) : Res :=
  let x := unpack a
  if x.1 = .nan then (qNaN, 0)
  else
    let r := f x.1
    (r.1, r.2 ||| x.2)

def fAdd (a b : Word) : Res := bin32 a b addF
def fSub (a b : Word) : Res := bin32 a b (fun x y => addF x y.negate)

/-- The exact product; none is 0 × ∞ (R173). -/
def mulExact (a b : F32) : Option F32 :=
  match a, b with
  | .inf n1, .inf n2 => some (.inf (n1 != n2))
  | .inf n1, .fin n2 m _ => if m = 0 then none else some (.inf (n1 != n2))
  | .fin n1 m _, .inf n2 => if m = 0 then none else some (.inf (n1 != n2))
  | .fin n1 m1 e1, .fin n2 m2 e2 => some (.fin (n1 != n2) (m1 * m2) (e1 + e2))
  | _, _ => some .nan

def packF : F32 → Res
  | .nan => (qNaN, 0)
  | .inf n => (fInf n, 0)
  | .fin n m e => roundPack n m e false

def fMul (a b : Word) : Res :=
  bin32 a b (fun x y => match mulExact x y with
    | none => (qNaN, fNv)
    | some p => packF p)

/-- a × b + c or c − a × b, rounded once (R172). -/
def fFma (sub : Bool) (a b c : Word) : Res :=
  let x := unpack a
  let y := unpack b
  let z := unpack c
  if x.1 = .nan ∨ y.1 = .nan ∨ z.1 = .nan then (qNaN, 0)
  else
    let fl := x.2 ||| y.2 ||| z.2
    match mulExact x.1 y.1 with
    | none => (qNaN, fNv ||| fl)
    | some p =>
      let r := addF (if sub then p.negate else p) z.1
      (r.1, r.2 ||| fl)

/-- A quotient rounded once (R173). -/
def divF (a b : F32) : Res :=
  match a, b with
  | .inf _, .inf _ => (qNaN, fNv)
  | .inf n1, .fin n2 _ _ => (fInf (n1 != n2), 0)
  | .fin n1 _ _, .inf n2 => (fZero (n1 != n2), 0)
  | .fin n1 m1 e1, .fin n2 m2 e2 =>
    if m2 = 0 then (if m1 = 0 then (qNaN, fNv) else (fInf (n1 != n2), fDz))
    else if m1 = 0 then (fZero (n1 != n2), 0)
    else
      let num := m1 * 2 ^ 30
      roundPack (n1 != n2) (num / m2) (e1 - e2 - 30) (num % m2 != 0)
  | _, _ => (qNaN, 0)

def fDiv (a b : Word) : Res := bin32 a b divF
def fRcp (a : Word) : Res := un32 a (fun x => divF (.fin false 0x800000 (-23)) x)

def fSqrt (a : Word) : Res :=
  un32 a (fun x => match x with
    | .inf n => if n then (qNaN, fNv) else (fInf false, 0)
    | .fin n m e =>
      if m = 0 then (fZero n, 0)
      else if n then (qNaN, fNv)
      else
        let sh : Nat := if e % 2 = 0 then 30 else 31
        let v := m * 2 ^ sh
        let r := isqrt v
        roundPack false r ((e - (sh : Int)).fdiv 2) (r * r != v)
    | .nan => (qNaN, 0))

/-- An operand after its flush, as a word. -/
def flushed (a : Word) : Word := if (unpack a).2 = 0 then a else fZero (bit a.toNat 31)

/-- The order of R174 on words that are no NaN: by value, −0 below +0. -/
def fKey (a : Word) : Int := if bit a.toNat 31 then -((a.toNat % 0x80000000 : Nat) : Int) - 1 else (a.toNat : Int)

/-- FMIN and FMAX (R173, R174). -/
def fPick (max_ : Bool) (a b : Word) : Res :=
  match (unpack a).1, (unpack b).1 with
  | .nan, .nan => (qNaN, 0)
  | .nan, _ => (flushed b, (unpack b).2)
  | _, .nan => (flushed a, (unpack a).2)
  | _, _ =>
    let x := flushed a
    let y := flushed b
    let first := if max_ then decide (fKey x ≥ fKey y) else decide (fKey x ≤ fKey y)
    (if first then x else y, (unpack a).2 ||| (unpack b).2)

/-- A comparison (R174): 0 and no flag with a NaN; −0 equals +0. -/
def fCmp (a b : Word) (f : Int → Int → Bool) : Res :=
  let key (w : Word) : Int := if w.toNat % 0x80000000 = 0 then 0 else fKey w
  if (unpack a).1 = .nan ∨ (unpack b).1 = .nan then (0#32, 0)
  else (if f (key (flushed a)) (key (flushed b)) then 1#32 else 0#32, (unpack a).2 ||| (unpack b).2)

/-- a × 2^(−k) as binary32, a signed (R165, R175). -/
def fFromInt (a : Word) (k : Nat) : Res := roundPack (decide (wi a < 0)) (wi a).natAbs (-(k : Int)) false

/-- m × 2^e rounded to an integer with ties to even, and whether that changed it. -/
def roundInt (m : Nat) (e : Int) : Nat × Bool :=
  if e ≥ 0 then (m * 2 ^ e.toNat, false)
  else
    let sh := (-e).toNat
    let q := m / 2 ^ sh
    let rest := m % 2 ^ sh
    let half := 2 ^ (sh - 1)
    (if rest > half ∨ (rest = half ∧ q % 2 = 1) then q + 1 else q, rest != 0)

/-- a × 2^k as a signed integer (R175). -/
def fToInt (a : Word) (k : Nat) : Res :=
  match (unpack a).1 with
  | .nan => (0#32, fNv)
  | .inf n => (if n then 0x80000000#32 else 0x7FFFFFFF#32, fNv)
  | .fin n m e =>
    let r := roundInt m (e + (k : Int))
    let v : Int := if n then -(r.1 : Int) else (r.1 : Int)
    if v > 2147483647 then (0x7FFFFFFF#32, fNv ||| (unpack a).2)
    else if v < -2147483648 then (0x80000000#32, fNv ||| (unpack a).2)
    else (iw v, (if r.2 then fNx else 0) ||| (unpack a).2)

end Sys2Proof.Machine
end

