-- ==== Sys2Proof/Machine/Operands.lean ====
section
/-! DEFINITION. Operand forms of PEs and LSs: encodings, which words are ILLEGAL, immediate fields, the logical windows
(06 R152, R161 to R170; 07 R188, R191 to R193). -/
namespace Sys2Proof.Machine

/-! ### PE encodings -/

def encR (op : Nat) (d a b c : Reg) : Nat := op * 2 ^ 24 + d.val * 2 ^ 19 + a.val * 2 ^ 14 + b.val * 2 ^ 9 + c.val * 2 ^ 4
def encK (op : Nat) (d a : Reg) (k : BitVec 14) : Nat := op * 2 ^ 24 + d.val * 2 ^ 19 + a.val * 2 ^ 14 + k.toNat
def encW (op : Nat) (d : Reg) (k : BitVec 16) : Nat := op * 2 ^ 24 + d.val * 2 ^ 19 + k.toNat
def encJ (op : Nat) (o : BitVec 24) : Nat := op * 2 ^ 24 + o.toNat

/-- k: K14 sign-extended to 32 bits. -/
def kSigned (k : BitVec 14) : Word := k.signExtend 32

/-- uk: K14 zero-extended. -/
def kUnsigned (k : BitVec 14) : Word := k.zeroExtend 32

/-- Fields of layout R that an instruction uses: d, a, b, c. The other fields and bits [3:0] are 0. -/
def maskR (d a b c : Bool) : Nat :=
  0x00FFFFFF - boolNat d * 0xF80000 - boolNat a * 0x07C000 - boolNat b * 0x3E00 - boolNat c * 0x1F0

/-- Bits that must be 0 in a word of each OP of R163 to R170; none for a reserved OP. -/
def peZeroBits (op : Nat) : Option Nat :=
  let dab := maskR true true true false
  let dabc := maskR true true true true
  let da := maskR true true false false
  let dac := maskR true true false true
  let k3 := 0x1C0
  if 0x10 ≤ op ∧ op ≤ 0x22 then some dab
  else if op = 0x23 then some dabc
  else if op = 0x24 then some da
  else if op ≤ 0x27 ∧ 0x25 ≤ op then some dac
  else if op = 0x30 ∨ op = 0x31 then some dab
  else if op = 0x32 ∨ op = 0x33 then some da
  else if op = 0x34 ∨ op = 0x37 then some dabc
  else if op = 0x35 ∨ op = 0x36 then some dac
  else if 0x40 ≤ op ∧ op ≤ 0x43 then some dab
  else if op = 0x44 ∨ op = 0x45 then some dabc
  else if op = 0x46 ∨ op = 0x47 then some da
  else if op = 0x48 ∨ op = 0x49 then some dab
  else if op = 0x4A ∨ op = 0x4B then some da
  else if 0x4C ≤ op ∧ op ≤ 0x4E then some dab
  else if op = 0x4F ∨ op = 0x50 then some da
  else if op = 0x51 ∨ op = 0x52 then some dac
  else if op = 0x58 ∨ op = 0x59 then some (maskR false true true true ||| k3)
  else if op = 0x5A then some (maskR false false false true ||| k3)
  else if op = 0x5B then some (maskR false true true true ||| k3)
  else if op = 0x5C then some (maskR true false true true ||| k3)
  else if op = 0x60 then some da
  else if op = 0x61 ∨ op = 0x62 then some dab
  else if op = 0x63 then some dac
  else if op = 0x64 then some dabc
  else if 0x70 ≤ op ∧ op ≤ 0x75 then some 0
  else if op = 0x78 ∨ op = 0x79 then some 0x070000
  else if 0x80 ≤ op ∧ op ≤ 0x84 then some 0
  else if 0x88 ≤ op ∧ op ≤ 0x8A then some 0
  else if 0x90 ≤ op ∧ op ≤ 0x95 then some 0
  else if op = 0x98 ∨ op = 0x99 then some 0
  else if op = 0x9A then some (maskR false false false false)
  else if op = 0x9B then some (maskR false true false false)
  else if op = 0xF0 then some (maskR false false false false)
  else if op = 0xF1 then some (maskR true false false false)
  else if op = 0xF2 then some (maskR false true false false)
  else if op = 0xF3 then some 0xFFC000
  else none

/-- Is a PE word a legal encoding (R161)? RECIPQ forbids c-field 31, PHASOR d = 31 (R167). -/
def peLegal (w : Nat) : Bool :=
  let op := w / 2 ^ 24
  match peZeroBits op with
  | none => false
  | some m => (w &&& m) == 0 && !(op == 0x63 && bitsOf w 4 5 == 31) && !(op == 0x64 && bitsOf w 19 5 == 31)

/-! ### LS encodings -/

/-- OPs 0x1 to 0xB: space and index (07 R191). -/
def encBit (op : Nat) (sp : Fin 4) (i : Fin 1024) : Nat := op * 2 ^ 12 + sp.val * 2 ^ 10 + i.val

/-- EDGE, TMR, CTR: mode and number (07 R192). -/
def encMode (op mode n : Nat) : Nat := op * 2 ^ 12 + mode * 2 ^ 10 + n

/-- CTL: sub-operation and bits [7:0] (07 R193). -/
def encCtl (sub n : Nat) : Nat := 0xF000 + sub * 2 ^ 8 + n

/-- Is an LS word a legal encoding (07 R191 to R193)? -/
def lsLegal (w : Nat) : Bool :=
  let op := w / 2 ^ 12
  let sp := bitsOf w 10 2
  let i := bitsOf w 0 10
  let bitOk := sp != 3 || decide (i ≤ 4)
  if 1 ≤ op ∧ op ≤ 7 then bitOk
  else if 8 ≤ op ∧ op ≤ 0xB then sp == 1 || sp == 2
  else if op = 0xC then decide (sp ≤ 1)
  else if op = 0xD then decide (sp ≤ 2) && bitsOf w 7 3 == 0
  else if op = 0xE then bitsOf w 7 3 == 0
  else if op = 0xF then
    let sub := bitsOf w 8 4
    let n := bitsOf w 0 8
    if sub = 0 then decide (n ≤ 8) else if sub ≤ 3 then n != 0 else false
  else false

/-! ### Logical windows (06 R152) -/

/-- What an access to the windows is. -/
inductive Access where
  | fetch
  | load
  | store
  deriving DecidableEq, Repr

/-- The physical address of an access of `n` bytes at a logical address, none where R152 forbids it. -/
def Exec.physical (x : Exec) (k : Access) (addr n : Nat) : Option Nat :=
  let a := x.areas
  let o := addr % 0x10000000
  if addr < 0x10000000 then
    if k != .store && o + n ≤ a.codeBytes then some (a.codeBase + o) else none
  else if addr < 0x20000000 then
    if k != .fetch && o + n ≤ a.dataBytes && (k == .load || 0x20 ≤ o) then some (a.dataBase + o) else none
  else if addr < 0x30000000 then
    if k == .load && o + n ≤ a.inBytes then some (a.inBase + x.frozen * a.inBytes + o) else none
  else if addr < 0x40000000 then
    if k != .fetch && o + n ≤ 4 * a.outWords then some (a.outBase + o) else none
  else none

end Sys2Proof.Machine
end

