-- ==== Sys2Proof/Machine/PeOps.lean ====
section
/-! DEFINITION. How a PE executes one instruction: fetch, exceptions in the order of 06 R181, ICOUNT, effects; loads and
stores through the windows; the intrinsics (06 R152, R168, R176, R177). -/
namespace Sys2Proof.Machine

def PeRegs.get (r : PeRegs) (i : Reg) : Word := r.g.getD i.val 0
def PeRegs.set (r : PeRegs) (i : Reg) (w : Word) : PeRegs := { r with g := setAt r.g i.val w }
def PeRegs.acc (r : PeRegs) (k : Fin 4) : Acc := r.a.getD k.val 0
def PeRegs.setAcc (r : PeRegs) (k : Fin 4) (v : Acc) : PeRegs := { r with a := setAt r.a k.val v }

/-- What an instruction does once it is fetched, legal and counted. -/
inductive PeOut where
  | regs (r : PeRegs)
  | jump (r : PeRegs) (pc : Nat)
  | store (addr : Nat) (p : Bytes)
  | exc (code trap detail : Nat)
  | ends

/-- The fetch: the word at PC, or FETCH_ACCESS, FETCH_ALIGN, FETCH_POISON (R181). -/
def State.fetch (s : State) (e : Eng) (x : Exec) (n : Nat) : Except Nat Nat × State :=
  match x.physical .fetch x.pc n with
  | none => (.error xFetchAccess, s)
  | some a =>
    if x.pc % n ≠ 0 then (.error xFetchAlign, s)
    else
      match s.readRange (e.base + a) n with
      | (true, s) => (.error xFetchPoison, s)
      | (false, s) => (.ok (leNat (memReadN (s.eng e).mem a n)), s)

/-- Bytes stored: memory, and the bytes that enter the signature (R158). -/
def State.storeBytes (s : State) (e : Eng) (x : Exec) (phys addr : Nat) (p : Bytes) : State :=
  (s.engWrite e phys p).modEng e (fun g =>
    { g with exec := some { x with log := x.log ++ le 4 addr ++ le 1 p.length ++ p } })

/-- One instruction's effect on its copy, `x` holding the counted ICOUNT. -/
def State.peApply (s : State) (e : Eng) (x : Exec) (o : PeOut) : State :=
  match o with
  | .regs r => s.modEng e (fun g => { g with pe := r, exec := some { x with pc := x.pc + 4 } })
  | .jump r pc => s.modEng e (fun g => { g with pe := r, exec := some { x with pc := pc % 2 ^ 32 } })
  | .store addr p =>
    if addr % p.length ≠ 0 then s.raiseExc e x xAlign 0 addr
    else
      match x.physical .store addr p.length with
      | none => s.raiseExc e x xAccess 0 addr
      | some a => s.storeBytes e { x with pc := x.pc + 4 } a addr p
  | .exc code trap detail => s.raiseExc e x code trap detail
  | .ends => s.endCopy e x

/-- Executes the instruction of weight `weight` whose word is `word` on PE number `key`, if a copy runs there and has come
to that word (log entry 37). An exception found before the word is known is raised whatever the word. -/
def State.peRun (s : State) (key word weight : Nat) (f : Exec → PeRegs → State → PeOut × State) : State :=
  let e := engOfKey false key
  match (s.eng e).phase, (s.eng e).exec with
  | .running, some x =>
    match s.fetch e x 4 with
    | (.error code, s) => (s.raiseExc e x code 0 0).regionFail
    | (.ok w, s) =>
      if w ≠ word || !peLegal w then s
      else if x.ic + weight > x.wcic then s.raiseExc e x xWcic 0 0
      else
        let x := { x with ic := x.ic + weight }
        let (o, s) := f x (s.eng e).pe s
        (s.peApply e x o).regionFail
  | _, _ => s

/-- An ILLEGAL word at PC raises ILLEGAL (R161, R181). -/
def State.peIllegal (s : State) (key : Nat) : State :=
  let e := engOfKey false key
  match (s.eng e).phase, (s.eng e).exec with
  | .running, some x =>
    match s.fetch e x 4 with
    | (.error code, s) => (s.raiseExc e x code 0 0).regionFail
    | (.ok w, s) => if peLegal w then s else s.raiseExc e x xIllegal 0 0
  | _, _ => s

/-- An instruction that changes registers only. -/
def State.peRegs (s : State) (key word weight : Nat) (f : PeRegs → PeRegs) : State :=
  s.peRun key word weight (fun _ r s => (.regs (f r), s))

/-- An instruction that writes one register and may set flags. -/
def State.peSet (s : State) (key word weight : Nat) (d : Reg) (f : PeRegs → Res) : State :=
  s.peRegs key word weight (fun r => (r.set d (f r).1).raise (f r).2)

/-- An instruction that writes one accumulator. -/
def State.peAcc (s : State) (key word weight : Nat) (k : Fin 4) (f : PeRegs → Acc × Nat) : State :=
  s.peRegs key word weight (fun r => (r.setAcc k (f r).1).raise (f r).2)

/-- The c-field that selects an accumulator (R166). -/
def accField (k : Fin 4) : Reg := ⟨k.val, by omega⟩

/-- Signed quotient truncated toward zero, with the corners of R163. -/
def divsWord (a b : Word) : Word :=
  if b = 0 then (if a.slt 0 then 0x80000000 else 0x7FFFFFFF)
  else if a = 0x80000000 ∧ b = 0xFFFFFFFF then 0x7FFFFFFF
  else iw ((wi a).tdiv (wi b))

/-- a − b × DIVS(a, b), with the corners of R163. -/
def remsWord (a b : Word) : Word :=
  if b = 0 then a else if a = 0x80000000 ∧ b = 0xFFFFFFFF then 0 else iw ((wi a).tmod (wi b))

/-- Leading zero bits, 32 for 0. -/
def clzWord (a : Word) : Word := if a = 0 then 32 else BitVec.ofNat 32 (31 - Nat.log2 a.toNat)

/-- A load of `n` bytes (R168, R181): ALIGN, ACCESS, POISON in that order. -/
def State.peLoad (s : State) (e : Eng) (x : Exec) (addr n : Nat) : Except Nat Nat × State :=
  if addr % n ≠ 0 then (.error xAlign, s)
  else
    match x.physical .load addr n with
    | none => (.error xAccess, s)
    | some a =>
      match s.readRange (e.base + a) n with
      | (true, s) => (.error xPoison, s)
      | (false, s) => (.ok (leNat (memReadN (s.eng e).mem a n)), s)

/-- A load instruction: address a + k, `n` bytes, `ext` makes the register value. -/
def State.peLd (s : State) (key op n : Nat) (d a : Reg) (k : BitVec 14) (ext : Nat → Word) : State :=
  s.peRun key (encK op d a k) 1 (fun x r s =>
    let addr := (r.get a + kSigned k).toNat
    match s.peLoad (engOfKey false key) x addr n with
    | (.error code, s) => (.exc code 0 addr, s)
    | (.ok v, s) => (.regs (r.set d (ext v)), s))

/-- A store instruction: `n` bytes of G[d] at a + k. -/
def State.peSt (s : State) (key op n : Nat) (d a : Reg) (k : BitVec 14) : State :=
  s.peRun key (encK op d a k) 1 (fun _ r s => (.store (r.get a + kSigned k).toNat (le n (r.get d).toNat), s))

/-- Sign extension of an `n`-byte value. -/
def sext (n v : Nat) : Word := iw (toSigned (8 * n) v)

/-- PC of a branch: PC + 4 + 4 × offset, modulo 2^32 (R169). -/
def branchTo (pc : Nat) (off : Int) : Nat := ofSigned 32 ((pc : Int) + 4 + 4 * off)

/-- A conditional branch (layout B). -/
def State.peBr (s : State) (key op : Nat) (a b : Reg) (off : BitVec 14) (f : Word → Word → Bool) : State :=
  s.peRun key (encK op a b off) 1 (fun x r s =>
    (if f (r.get a) (r.get b) then .jump r (branchTo x.pc off.toInt) else .regs r, s))

/-! ### Intrinsics (R176) -/

/-- RECIPQ. -/
def recipq (a : Word) (k : Nat) : Res :=
  let n := (wi a).natAbs
  if n = 0 then (0x7FFFFFFF#32, fSat)
  else
    let q : Int := ((2 ^ (2 * k) + n / 2) / n : Nat)
    satW (if wi a > 0 then q else -q)

/-- T[i] = round(2^32 × atan(2^−i) / 2π). -/
def atanTable : List Int :=
  [536870912, 316933406, 167458907, 85004756, 42667331, 21354465, 10679838, 5340245, 2670163, 1335087, 667544, 333772,
   166886, 83443, 41722, 20861, 10430, 5215, 2608, 1304, 652, 326, 163, 81, 41, 20, 10, 5]

/-- The CORDIC steps of ATAN2 from step `i`. -/
def cordic : List Int → Nat → Int → Int → Int → Int
  | [], _, _, _, z => z
  | t :: ts, i, x, y, z =>
    if y ≥ 0 then cordic ts (i + 1) (x + shr y i) (y - shr x i) (z + t)
    else cordic ts (i + 1) (x - shr y i) (y + shr x i) (z - t)

def atan2 (y x : Word) : Word :=
  if x = 0 ∧ y = 0 then 0
  else if wi x < 0 then iw (cordic atanTable 0 (-(wi x)) (-(wi y)) (2 ^ 31))
  else iw (cordic atanTable 0 (wi x) (wi y) 0)

/-- ⌊2π × 2^160⌋. -/
def twoPi160 : Nat := 0x6487ed5110b4611a62633145c06e0e68948127044

/-- The cosine series from term `n` on, `x2` the squared angle and `t` the term, both × 2^160. -/
def cosSeries : Nat → Nat → Nat → Nat → Int
  | 0, _, _, _ => 0
  | fuel + 1, n, x2, t => (t : Int) - cosSeries fuel (n + 1) x2 (t * x2 / 2 ^ 160 / ((2 * n + 1) * (2 * n + 2)))

/-- round(2^30 × cos(2π num / den)), from the series with 160 fraction bits: its error is far below the distance of every
value that PHASOR can ask for from a tie (log entry 38). -/
def cosQ30 (num den : Nat) : Int :=
  let x := twoPi160 * num / den
  (2 * 2 ^ 30 * cosSeries 40 0 (x * x / 2 ^ 160) (2 ^ 160) + 2 ^ 160).fdiv (2 * 2 ^ 160)

def sinQ30 (num den : Nat) : Int := cosQ30 ((4 * num + 3 * den) % (4 * den)) (4 * den)

/-- The samples of PHASOR in order, or the first exception with its address. -/
def State.phasorRead (s : State) (e : Eng) (x : Exec) (base start n : Nat) : List Nat → Except (Nat × Nat) (List Int) × State
  | [] => (.ok [], s)
  | k :: ks =>
    let addr := (base + 4 * ((start + k) % n)) % 2 ^ 32
    match s.peLoad e x addr 4 with
    | (.error code, s) => (.error (code, addr), s)
    | (.ok v, s) =>
      match s.phasorRead e x base start n ks with
      | (.ok l, s) => (.ok (toSigned 32 v :: l), s)
      | r => r

/-- The scaled sum of one PHASOR component. -/
def phasorPart (n : Nat) (p : Int) : Res := satW ((2 * p + (n : Int) * 2 ^ 29).fdiv ((n : Int) * 2 ^ 30))

def sumMul (xs cs : List Int) : Int := (List.zipWith (· * ·) xs cs).foldl (· + ·) 0

/-- PHASOR on the operand registers. -/
def State.phasor (s : State) (e : Eng) (x : Exec) (r : PeRegs) (d a b : Reg) (h : Nat) : PeOut × State :=
  let bw := (r.get b).toNat
  let n := bw % 65536
  let start := bw / 65536
  if n < 4 ∨ n > 256 ∨ start ≥ n ∨ h < 1 ∨ h > (n - 1) / 2 then (.exc xArg 0 bw, s)
  else
    match s.phasorRead e x (r.get a).toNat start n (List.range n) with
    | (.error (code, addr), s) => (.exc code 0 addr, s)
    | (.ok xs, s) =>
      let cs := (List.range n).map (fun k => cosQ30 (h * k % n) n)
      let ss := (List.range n).map (fun k => sinQ30 (h * k % n) n)
      let re := phasorPart n (sumMul xs cs)
      let im := phasorPart n (-(sumMul xs ss))
      (.regs (((r.set d re.1).set (d + 1) im.1).raise (re.2 ||| im.2)), s)

end Sys2Proof.Machine
end

