-- ==== Sys2Proof/Machine/LsOps.lean ====
section
/-! DEFINITION. How an LS executes one instruction: fetch, exceptions in the order of 07 R201, bits, timer and counter
records (07 R188, R194 to R200, R549). -/
namespace Sys2Proof.Machine

/-- What an LS instruction does once it is fetched, legal and counted: the registers after it, and the bytes it writes, if
any, at a logical address; a jump; an exception; the end. -/
inductive LsOut where
  | regs (r : LsRegs)
  | write (r : LsRegs) (addr : Nat) (p : Bytes)
  | jump (pc : Nat)
  | exc (code detail : Nat)
  | ends

def State.lsApply (s : State) (e : Eng) (x : Exec) (o : LsOut) : State :=
  let next : Exec := { x with pc := x.pc + 2 }
  match o with
  | .regs r => s.modEng e (fun g => { g with lsr := r, exec := some next })
  | .write r addr p =>
    match x.physical .store addr p.length with
    | none => s.raiseExc e x xAccess 0 addr
    | some a => (s.modEng e (fun g => { g with lsr := r })).storeBytes e next a addr p
  | .jump pc => s.modEng e (fun g => { g with exec := some { x with pc := pc } })
  | .exc code detail => s.raiseExc e x code 0 detail
  | .ends => s.endCopy e x

/-- Executes the instruction whose word is `word` on LS number `key`, if a copy runs there and has come to that word (log
entry 37). Every LS instruction has weight 1 (R192). -/
def State.lsRun (s : State) (key word : Nat) (f : Exec → LsRegs → State → LsOut × State) : State :=
  let e := engOfKey true key
  match (s.eng e).phase, (s.eng e).exec with
  | .running, some x =>
    match s.fetch e x 2 with
    | (.error code, s) => (s.raiseExc e x code 0 0).regionFail
    | (.ok w, s) =>
      if w ≠ word || !lsLegal w then s
      else if x.ic + 1 > x.wcic then s.raiseExc e x xWcic 0 0
      else
        let x := { x with ic := x.ic + 1 }
        let (o, s) := f x (s.eng e).lsr s
        (s.lsApply e x o).regionFail
  | _, _ => s

/-- An ILLEGAL word at PC raises ILLEGAL (R191, R201). -/
def State.lsIllegal (s : State) (key : Nat) : State :=
  let e := engOfKey true key
  match (s.eng e).phase, (s.eng e).exec with
  | .running, some x =>
    match s.fetch e x 2 with
    | (.error code, s) => (s.raiseExc e x code 0 0).regionFail
    | (.ok w, s) => if lsLegal w then s else s.raiseExc e x xIllegal 0 0
  | _, _ => s

/-! ### Bits (R188) -/

/-- Logical address of the byte that holds a bit; none in space S. -/
def bitAddr (sp i : Nat) : Option Nat :=
  if sp = 0 then some (0x20000000 + i / 8) else if sp = 1 then some (0x10000020 + i / 8)
  else if sp = 2 then some (0x30000000 + i / 8) else none

/-- A constant of space S: FALSE, TRUE, COLD, WARM, CHANGED. -/
def sBit (flags i : Nat) : Bool := if i = 0 then false else if i = 1 then true else bit flags (i - 2)

/-- Bytes read from the windows, or ACCESS or POISON (R201). -/
def State.lsRead (s : State) (e : Eng) (x : Exec) (addr n : Nat) : Except Nat Bytes × State :=
  match x.physical .load addr n with
  | none => (.error xAccess, s)
  | some a =>
    match s.readRange (e.base + a) n with
    | (true, s) => (.error xPoison, s)
    | (false, s) => (.ok (memReadN (s.eng e).mem a n), s)

/-- An operation on ACC and a bit read (R192). -/
def State.lsLogic (s : State) (key op : Nat) (sp : Fin 4) (i : Fin 1024) (f : Bool → Bool → Bool) : State :=
  s.lsRun key (encBit op sp i) (fun x r s =>
    match bitAddr sp.val i.val with
    | none => (.regs { r with acc := f r.acc (sBit x.flags i.val) }, s)
    | some addr =>
      match s.lsRead (engOfKey true key) x addr 1 with
      | (.error code, s) => (.exc code addr, s)
      | (.ok p, s) => (.regs { r with acc := f r.acc (bit (byteAt p 0) (i.val % 8)) }, s))

/-- A byte with one bit set to a value. -/
def withBit (p : Bytes) (b : Nat) (v : Bool) : Bytes :=
  le 1 (if v then byteAt p 0 ||| 2 ^ b else if bit (byteAt p 0) b then byteAt p 0 - 2 ^ b else byteAt p 0)

/-- An operation that writes a bit: `f` gives the value from ACC, none where nothing is written (R192, R549). -/
def State.lsStore (s : State) (key op : Nat) (sp : Fin 4) (i : Fin 1024) (f : Bool → Option Bool) : State :=
  s.lsRun key (encBit op sp i) (fun x r s =>
    let addr := (bitAddr sp.val i.val).getD 0
    if (x.physical .store addr 1).isNone then (.exc xAccess addr, s)
    else
      match f r.acc with
      | none => (.regs r, s)
      | some v =>
        match s.lsRead (engOfKey true key) x addr 1 with
        | (.error code, s) => (.exc code addr, s)
        | (.ok p, s) => (.write r addr (withBit p (i.val % 8) v), s))

/-- EDGE (R196): `f` gives ACC from ACC and the M bit, which takes the old ACC. -/
def State.lsEdge (s : State) (key mode : Nat) (i : Fin 1024) (f : Bool → Bool → Bool) : State :=
  s.lsRun key (encMode 0xC mode i.val) (fun x r s =>
    let addr := (bitAddr 1 i.val).getD 0
    match s.lsRead (engOfKey true key) x addr 1 with
    | (.error code, s) => (.exc code addr, s)
    | (.ok p, s) =>
      (.write { r with acc := f r.acc (bit (byteAt p 0) (i.val % 8)) } addr (withBit p (i.val % 8) r.acc), s))

/-! ### Timers and counters (R197, R198) -/

/-- A timer record. -/
structure Timer where
  pt   : Nat
  et   : Nat
  last : Nat
  run  : Bool
  q    : Bool
  prev : Bool
  deriving DecidableEq, Repr

def timerOf (p : Bytes) : Timer :=
  { pt := u32 p 0, et := u32 p 4, last := uN p 8 6, run := bit (byteAt p 0x0E) 0, q := bit (byteAt p 0x0E) 1
    prev := bit (byteAt p 0x0E) 2 }

def Timer.bytes (t : Timer) : Bytes :=
  le 4 t.pt ++ le 4 t.et ++ le 6 t.last ++ le 2 (bitsNat [t.run, t.q, t.prev])

def Timer.start (t : Timer) (cycle : Nat) : Timer := { t with et := 0, last := cycle % 2 ^ 48, run := true }

/-- Elapsed time counts cycles of `c` ticks and saturates. -/
def Timer.advance (t : Timer) (cycle c : Nat) : Timer :=
  let d := (cycle % 2 ^ 48 + 2 ^ 48 - t.last) % 2 ^ 48
  { t with et := min (t.et + d * c) (2 ^ 32 - 1), last := cycle % 2 ^ 48 }

def Timer.ton (t : Timer) (i : Bool) (cycle c : Nat) : Timer :=
  if !i then { t with run := false, q := false }
  else
    let t := if !t.run && !t.q then t.start cycle else t
    if !t.run then t
    else
      let t := t.advance cycle c
      if t.et ≥ t.pt then { t with run := false, q := true } else t

def Timer.tof (t : Timer) (i : Bool) (cycle c : Nat) : Timer :=
  if i then { t with run := false, q := true }
  else if !t.q then t
  else
    let t := if !t.run then t.start cycle else t
    let t := t.advance cycle c
    if t.et ≥ t.pt then { t with run := false, q := false } else t

def Timer.tp (t : Timer) (i : Bool) (cycle c : Nat) : Timer :=
  let t := if !t.run && i && !t.prev then { t.start cycle with q := true } else t
  if !t.run then t
  else
    let t := t.advance cycle c
    if t.et ≥ t.pt then { t with run := false, q := false } else t

/-- A timer instruction (R197): the record is written, PREV_IN takes the input and ACC takes Q. -/
def State.lsTimer (s : State) (key mode : Nat) (n : Fin 128) (f : Timer → Bool → Nat → Nat → Timer) : State :=
  s.lsRun key (encMode 0xD mode n.val) (fun x r s =>
    let e := engOfKey true key
    let addr := 0x100000A0 + 16 * n.val
    match s.lsRead e x addr 16 with
    | (.error code, s) => (.exc code addr, s)
    | (.ok p, s) =>
      let cycle := leNat (memReadN (s.eng e).mem (x.areas.dataBase + 0x10) 8)
      let t := { f (timerOf p) r.acc cycle x.cycle with prev := r.acc }
      (.write { r with acc := t.q } addr t.bytes, s))

/-- A counter record: PV, CV, PREV_IN, Q. -/
structure Counter where
  pv   : Nat
  cv   : Nat
  prev : Bool
  q    : Bool
  deriving DecidableEq, Repr

def counterOf (p : Bytes) : Counter := { pv := u16 p 0, cv := u16 p 2, prev := bit (byteAt p 4) 0, q := bit (byteAt p 4) 1 }
def Counter.bytes (c : Counter) : Bytes := le 2 c.pv ++ le 2 c.cv ++ le 2 (bitsNat [c.prev, c.q]) ++ zeros 2

def Counter.ctu (c : Counter) (i : Bool) : Counter :=
  let cv := if i && !c.prev then min (c.cv + 1) 65535 else c.cv
  { c with cv := cv, prev := i, q := decide (cv ≥ c.pv) }

def Counter.ctd (c : Counter) (i : Bool) : Counter :=
  let cv := if i && !c.prev then c.cv - 1 else c.cv
  { c with cv := cv, prev := i, q := cv == 0 }

def Counter.crst (c : Counter) (i : Bool) : Counter :=
  let cv := if i then 0 else c.cv
  { c with cv := cv, q := decide (cv ≥ c.pv) }

def Counter.cld (c : Counter) (i : Bool) : Counter :=
  let cv := if i then c.pv else c.cv
  { c with cv := cv, q := cv == 0 }

/-- A counter instruction (R198): the record is written; ACC takes Q where `takes`. -/
def State.lsCounter (s : State) (key mode : Nat) (n : Fin 128) (takes : Bool) (f : Counter → Bool → Counter) : State :=
  s.lsRun key (encMode 0xE mode n.val) (fun x r s =>
    let addr := 0x100008A0 + 8 * n.val
    match s.lsRead (engOfKey true key) x addr 8 with
    | (.error code, s) => (.exc code addr, s)
    | (.ok p, s) =>
      let c := f (counterOf p) r.acc
      (.write { r with acc := if takes then c.q else r.acc } addr c.bytes, s))

/-! ### Nesting and jumps (R194, R195) -/

/-- An opening operation `op`: 0 AND, 1 ANDN, 2 OR, 3 ORN, 4 XOR. -/
def State.lsOpen (s : State) (key op : Nat) : State :=
  s.lsRun key (encCtl 0 op) (fun _ r s =>
    (if r.stack.length ≥ 8 then .exc xStack r.stack.length else .regs { r with stack := (r.acc, op) :: r.stack }, s))

/-- The pending operation of an entry applied to the nested result. -/
def nestOp (op : Nat) (v acc : Bool) : Bool :=
  if op = 0 then v && acc else if op = 1 then v && !acc else if op = 2 then v || acc else if op = 3 then v || !acc
  else v != acc

def State.lsClose (s : State) (key : Nat) : State :=
  s.lsRun key (encCtl 0 5) (fun _ r s =>
    (match r.stack with
     | [] => .exc xStack 0
     | (v, op) :: t => .regs { acc := nestOp op v r.acc, stack := t }, s))

/-- A jump, taken where `f` holds of ACC; only at DEPTH 0. -/
def State.lsJump (s : State) (key sub : Nat) (n : BitVec 8) (f : Bool → Bool) : State :=
  s.lsRun key (encCtl sub n.toNat) (fun x r s =>
    (if r.stack.length ≠ 0 then .exc xStack r.stack.length
     else if f r.acc then .jump (x.pc + 2 + 2 * n.toNat) else .regs r, s))

end Sys2Proof.Machine
end

