-- ==== Sys2Proof/Machine/Cycle.lean ====
section
/-! DEFINITION. The events of a cycle: latch, copies, verdict, self-diagnosis, background tests (06 R159, 08 R224, 11). -/
namespace Sys2Proof.Machine

/-- LATCH: the latest latch of a placed instance that has not been taken yet (R224). -/
def execLatch (dt fi : Nat) (s : State) : Host.Outcome State Fault Refusal :=
  let s := s.advance dt
  match s.inst fi with
  | none => .next s
  | some x =>
    if !x.isPlaced || !s.ptValid then .next s
    else
      match s.latchNow x with
      | none => .next s
      | some n => if x.lastTick = some n then .next s else .next (s.latch fi n)

/-- COPY_START (06 R159). -/
def execCopyStart (dt fi k : Nat) (s : State) : Host.Outcome State Fault Refusal := .next ((s.advance dt).copyStart fi k)

/-- SIGNATURE_POSTED: a SIGNING engine posts (06 R159). -/
def execSignaturePosted (dt : Nat) (ls : Bool) (e : Nat) (s : State) : Host.Outcome State Fault Refusal :=
  let s := s.advance dt
  let e := engOfKey ls e
  match (s.eng e).phase, (s.eng e).exec with
  | .signing, some x => .next (s.postSignature e x)
  | _, _ => .next s

/-- SPAN_END (06 R159, R548). -/
def execSpanEnd (dt : Nat) (ls : Bool) (e : Nat) (s : State) : Host.Outcome State Fault Refusal :=
  .next ((s.advance dt).spanEnd (engOfKey ls e))

/-- ANVIL_VERDICT: the oldest cycle whose results are all in is judged (11 R279, R280). -/
def execAnvilVerdict (dt fi : Nat) (probe : Bool) (bad : List Nat) (s : State) : Host.Outcome State Fault Refusal :=
  let s := s.advance dt
  match (s.inst fi).bind (fun x => x.cycles.find? Cycle.complete) with
  | none => .next s
  | some c => .next ((s.judge fi c probe bad).regionFail)

/-- What stands for a copy that has posted nothing by the verdict deadline (11 R276, log entry 39). -/
def absentPost (tick : Nat) : Posted := excPosted tick (excRecord xDeadline 0 0 0 0)

/-- VERDICT_DEADLINE: 0.85 µs before P, the copies of a cycle that have posted nothing are judged as DEADLINE (11 R276). -/
def execVerdictDeadline (dt fi : Nat) (s : State) : Host.Outcome State Fault Refusal :=
  let s := s.advance dt
  match s.inst fi with
  | none => .next s
  | some x =>
    let due (c : Cycle) : Bool := c.ran && c.verdict.isNone && s.reached (boundaryQ c.tick + x.pubQ - 850 * qNs)
    .next (s.setInst fi { x with cycles := x.cycles.map (fun c =>
      if due c then
        { c with posts := c.who.foldl (fun ps p =>
            if c.displaced.contains p.k || (c.post p.k).isSome then ps else setAt ps (p.k - 1) (some (absentPost c.tick))) c.posts }
      else c) })

/-- The slot of `e` that starts at boundary `b` is given up (11 R282): copies whose span covers it. -/
def State.giveUpSlot (s : State) (e : Eng) (b : Nat) : State :=
  let covers (c : Cycle) (p : Part) : Bool := p.eng == e && decide (c.tick ≤ b) && decide (b < c.tick + p.span)
  let insts := s.place.insts.mapV (fun _ x => { x with cycles := x.cycles.map (fun c =>
    (c.who.filter (covers c)).foldl (fun c p => c.displace p.k) c) })
  { s with place.insts := insts }.modEng e (fun g => match g.exec with
    | some r => if r.tick ≤ b ∧ b < r.tick + r.span then { g with phase := .idle, exec := none } else g
    | none => g)

/-- DIAGNOSIS_START: at B_d + 0.10 µs (11 R282). -/
def execDiagnosisStart (dt : Nat) (ls : Bool) (e : Nat) (s : State) : Host.Outcome State Fault Refusal :=
  let s := s.advance dt
  let e := engOfKey ls e
  match (s.eng e).diagDue with
  | none => .next s
  | some b =>
    if (s.eng e).diagOn || (s.eng e).st == .failed || !s.reached (boundaryQ b + 100 * qNs) then .next s
    else .next ((s.giveUpSlot e b).modEng e (fun g => { g with diagOn := true }))

/-- The identifier of an engine in LATENT records and injections. -/
def Eng.ident (e : Eng) : Nat := 256 * e.cc + e.no

/-- DIAGNOSIS_END: the run ends; `pass` says that its signature equals the golden value. A run longer than 6.00 µs and an
injection of type 2 fail it (11 R281, R283, INJECT_FAULT). -/
def execDiagnosisEnd (dt : Nat) (ls : Bool) (e : Nat) (pass : Bool) (s : State) : Host.Outcome State Fault Refusal :=
  let s := s.advance dt
  let e := engOfKey ls e
  match (s.eng e).diagDue with
  | none => .next s
  | some b =>
    if !(s.eng e).diagOn then .next s
    else
      let (hit, s) := if e.ls then (false, s) else s.takeInjection 2 e.ident 0
      let late := decide (s.now > boundaryQ b + 6100 * qNs)
      let s := s.modEng e (fun g => { g with diagOn := false, diagDue := none })
      .next (s.diagResult e (pass && !hit && !late))

/-- CROSS_CHECK_FAULT (11 R291, R292). -/
def execCrossCheckFault (dt : Nat) (s : State) : Host.Outcome State Fault Refusal := .next ((s.advance dt).fatalContainment false)

/-- What a scrub finds in a line: 0 a data bit, 1 a check bit, 2 two bits, 3 one copy of its poison flag. -/
def State.scrubLine (s : State) (f : Nat × Nat) : State :=
  match f.2 with
  | 0 => s.lineHealth f.1 (fun h => { h with corrData := inc32 h.corrData })
  | 1 => s.lineHealth f.1 (fun h => { h with corrCheck := inc32 h.corrCheck })
  | 2 => ({ s with anvil.errs := s.anvil.errs.put f.1 true }).meetErr f.1
  | _ => s.lineHealth f.1 (fun h => { h with flagCorr := inc32 h.flagCorr })

/-- SCRUB_PASS: a pass over one region (of GET_MEMORY_HEALTH) and cluster ends after `ms`; every flipped bit in it is met,
and `found` names what else it corrected or found uncorrectable (11 R297). -/
def execScrubPass (dt region cc ms : Nat) (found : List (Nat × Nat)) (s : State) : Host.Outcome State Fault Refusal :=
  let s := s.advance dt
  let here (l : Nat) : Bool := lineRegion l == (region, if region ≤ 2 then cc else 0)
  let s := ((s.anvil.errs.map (·.1)).filter here).foldl State.meetErr s
  let s := (found.filter (fun f => here f.1)).foldl State.scrubLine s
  .next (s.modHealth region (if region ≤ 2 then cc else 0) (fun h => { h with passes := inc32 h.passes, lastMs := ms })).regionFail

/-- A LATENT finding (R299, log entry 40): kind 0 PE, 1 LS, 2 comparator, 3 delay buffer. -/
def State.latent (s : State) (kind id : Nat) (inj : Bool) : State := s.postInj inj 0x0805 (le 1 kind ++ le 2 id)

/-- A background test of an engine (11 R298, R299): only in slots that no copy holds. -/
def State.backEngine (s : State) (e : Eng) (pass : Bool) : State :=
  let g := s.eng e
  if !(g.st == .spare || (g.st == .inService && decide ((s.occupied e).length < 20))) then s
  else
    let (hit, s) := if e.ls then (false, s) else s.takeInjection 2 e.ident 0
    if pass && !hit then s else (s.latent (boolNat e.ls) e.ident hit).failEngine e fcLatent

/-- A background test of a comparator: a spare is retired; one in service is tested on a free lane and fails as in R288. -/
def State.backCmp (s : State) (c : Nat) (pass : Bool) : State :=
  match s.anvil.cmps[c]? with
  | some .spare =>
    if pass then s
    else ({ s with anvil.cmps := setAt s.anvil.cmps c .failed }.latent 2 c false).countFault fcLatent
  | some .inService =>
    if !(List.range 128).any (fun l => s.laneFree (c, l)) then s
    else
      let (hit, s) := s.takeInjection 3 c 0
      if pass && !hit then s else (s.countFault fcComparator).comparatorFault c hit
  | _ => s

/-- A background test of the delay buffer of a free lane. -/
def State.backBuffer (s : State) (n : Nat) (pass : Bool) : State :=
  let l := (n / 128, n % 128)
  if pass || !s.laneFree l || s.anvil.cmps[l.1]? != some CmpSt.inService then s
  else ({ s with anvil.retired := l :: s.anvil.retired }.latent 3 n false).countFault fcLatent

/-- BACKGROUND_TEST: one idle resource is tested; `passMs` is given where the test ends a complete background pass, with the
pass's duration (11 R298). -/
def execBackgroundTest (dt kind id : Nat) (pass : Bool) (passMs : Option Nat) (s : State) : Host.Outcome State Fault Refusal :=
  let s := s.advance dt
  if !s.anvil.selfTest then .next s
  else
    let s := match kind with
      | 0 => s.backEngine (engOfKey false (id % 544)) pass
      | 1 => s.backEngine (engOfKey true (id % 64)) pass
      | 2 => s.backCmp id pass
      | _ => s.backBuffer id pass
    match passMs with
    | some ms => .next { s with anvil.passDone := true, anvil.lastPassMs := ms }
    | none => .next s

end Sys2Proof.Machine
end

