-- ==== Sys2Proof/Machine/Ls.lean ====
section
/-! DEFINITION. The instructions of an LS (07 R192 to R198), one meaning each. -/
namespace Sys2Proof.Machine

/-- LS_LD (R192). -/
def execLsLd (e : Nat) (sp : Fin 4) (i : Fin 1024) (s : State) : Host.Outcome State Fault Refusal :=
  .next (s.lsLogic e 1 sp i (fun _ b => b))

/-- LS_LDN (R192). -/
def execLsLdn (e : Nat) (sp : Fin 4) (i : Fin 1024) (s : State) : Host.Outcome State Fault Refusal :=
  .next (s.lsLogic e 2 sp i (fun _ b => !b))

/-- LS_AND (R192). -/
def execLsAnd (e : Nat) (sp : Fin 4) (i : Fin 1024) (s : State) : Host.Outcome State Fault Refusal :=
  .next (s.lsLogic e 3 sp i (fun a b => a && b))

/-- LS_ANDN (R192). -/
def execLsAndn (e : Nat) (sp : Fin 4) (i : Fin 1024) (s : State) : Host.Outcome State Fault Refusal :=
  .next (s.lsLogic e 4 sp i (fun a b => a && !b))

/-- LS_OR (R192). -/
def execLsOr (e : Nat) (sp : Fin 4) (i : Fin 1024) (s : State) : Host.Outcome State Fault Refusal :=
  .next (s.lsLogic e 5 sp i (fun a b => a || b))

/-- LS_ORN (R192). -/
def execLsOrn (e : Nat) (sp : Fin 4) (i : Fin 1024) (s : State) : Host.Outcome State Fault Refusal :=
  .next (s.lsLogic e 6 sp i (fun a b => a || !b))

/-- LS_XOR (R192). -/
def execLsXor (e : Nat) (sp : Fin 4) (i : Fin 1024) (s : State) : Host.Outcome State Fault Refusal :=
  .next (s.lsLogic e 7 sp i (fun a b => a != b))

/-- LS_ST (R192). -/
def execLsSt (e : Nat) (sp : Fin 4) (i : Fin 1024) (s : State) : Host.Outcome State Fault Refusal :=
  .next (s.lsStore e 8 sp i (fun a => some a))

/-- LS_STN (R192). -/
def execLsStn (e : Nat) (sp : Fin 4) (i : Fin 1024) (s : State) : Host.Outcome State Fault Refusal :=
  .next (s.lsStore e 9 sp i (fun a => some (!a)))

/-- LS_SET (R192). -/
def execLsSet (e : Nat) (sp : Fin 4) (i : Fin 1024) (s : State) : Host.Outcome State Fault Refusal :=
  .next (s.lsStore e 0xA sp i (fun a => if a then some true else none))

/-- LS_RST (R192). -/
def execLsRst (e : Nat) (sp : Fin 4) (i : Fin 1024) (s : State) : Host.Outcome State Fault Refusal :=
  .next (s.lsStore e 0xB sp i (fun a => if a then some false else none))

/-- EDGE_RISE (R196). -/
def execLsEdgeRise (e : Nat) (i : Fin 1024) (s : State) : Host.Outcome State Fault Refusal :=
  .next (s.lsEdge e 0 i (fun a m => a && !m))

/-- EDGE_FALL (R196). -/
def execLsEdgeFall (e : Nat) (i : Fin 1024) (s : State) : Host.Outcome State Fault Refusal :=
  .next (s.lsEdge e 1 i (fun a m => !a && m))

/-- TON (R197). -/
def execLsTon (e : Nat) (n : Fin 128) (s : State) : Host.Outcome State Fault Refusal :=
  .next (s.lsTimer e 0 n Timer.ton)

/-- TOF (R197). -/
def execLsTof (e : Nat) (n : Fin 128) (s : State) : Host.Outcome State Fault Refusal :=
  .next (s.lsTimer e 1 n Timer.tof)

/-- TP (R197). -/
def execLsTp (e : Nat) (n : Fin 128) (s : State) : Host.Outcome State Fault Refusal :=
  .next (s.lsTimer e 2 n Timer.tp)

/-- CTU (R198). -/
def execLsCtu (e : Nat) (n : Fin 128) (s : State) : Host.Outcome State Fault Refusal :=
  .next (s.lsCounter e 0 n true Counter.ctu)

/-- CTD (R198). -/
def execLsCtd (e : Nat) (n : Fin 128) (s : State) : Host.Outcome State Fault Refusal :=
  .next (s.lsCounter e 1 n true Counter.ctd)

/-- CRST (R198). -/
def execLsCrst (e : Nat) (n : Fin 128) (s : State) : Host.Outcome State Fault Refusal :=
  .next (s.lsCounter e 2 n false Counter.crst)

/-- CLD (R198). -/
def execLsCld (e : Nat) (n : Fin 128) (s : State) : Host.Outcome State Fault Refusal :=
  .next (s.lsCounter e 3 n false Counter.cld)

/-- LS_AND_OPEN (R194). -/
def execLsAndOpen (e : Nat) (s : State) : Host.Outcome State Fault Refusal :=
  .next (s.lsOpen e 0)

/-- LS_ANDN_OPEN (R194). -/
def execLsAndnOpen (e : Nat) (s : State) : Host.Outcome State Fault Refusal :=
  .next (s.lsOpen e 1)

/-- LS_OR_OPEN (R194). -/
def execLsOrOpen (e : Nat) (s : State) : Host.Outcome State Fault Refusal :=
  .next (s.lsOpen e 2)

/-- LS_ORN_OPEN (R194). -/
def execLsOrnOpen (e : Nat) (s : State) : Host.Outcome State Fault Refusal :=
  .next (s.lsOpen e 3)

/-- LS_XOR_OPEN (R194). -/
def execLsXorOpen (e : Nat) (s : State) : Host.Outcome State Fault Refusal :=
  .next (s.lsOpen e 4)

/-- LS_CLOSE (R194). -/
def execLsClose (e : Nat) (s : State) : Host.Outcome State Fault Refusal :=
  .next (s.lsClose e)

/-- LS_NOT (R193). -/
def execLsNot (e : Nat) (s : State) : Host.Outcome State Fault Refusal :=
  .next (s.lsRun e (encCtl 0 6) (fun _ r s => (.regs { r with acc := !r.acc }, s)))

/-- LS_END (R193; DEPTH must be 0). -/
def execLsEnd (e : Nat) (s : State) : Host.Outcome State Fault Refusal :=
  .next (s.lsRun e (encCtl 0 7) (fun _ r s => (if r.stack.length ≠ 0 then .exc xStack r.stack.length else .ends, s)))

/-- LS_NOP (R193). -/
def execLsNop (e : Nat) (s : State) : Host.Outcome State Fault Refusal :=
  .next (s.lsRun e (encCtl 0 8) (fun _ r s => (.regs r, s)))

/-- JMP (R193, R195). -/
def execLsJmp (e : Nat) (n : BitVec 8) (s : State) : Host.Outcome State Fault Refusal :=
  .next (s.lsJump e 1 n (fun _ => true))

/-- JC (R193, R195). -/
def execLsJc (e : Nat) (n : BitVec 8) (s : State) : Host.Outcome State Fault Refusal :=
  .next (s.lsJump e 2 n (fun a => a))

/-- JNC (R193, R195). -/
def execLsJnc (e : Nat) (n : BitVec 8) (s : State) : Host.Outcome State Fault Refusal :=
  .next (s.lsJump e 3 n (fun a => !a))

/-- LS_ILLEGAL_ENCODING (R191). -/
def execLsIllegalEncoding (e : Nat) (s : State) : Host.Outcome State Fault Refusal :=
  .next (s.lsIllegal e)

end Sys2Proof.Machine
end

