-- ==== Sys2Proof/Machine/Pe.lean ====
section
/-! DEFINITION. The instructions of a PE (06 R163 to R170, R176), one meaning each. -/
namespace Sys2Proof.Machine

/-! ### Integer ALU (R163) -/

/-- ADD (R163). -/
def execPeAdd (e : Nat) (d a b : Reg) (s : State) : Host.Outcome State Fault Refusal :=
  .next (s.peSet e (encR 0x10 d a b 0) 1 d (fun r => (r.get a + r.get b, 0)))

/-- SUB (R163). -/
def execPeSub (e : Nat) (d a b : Reg) (s : State) : Host.Outcome State Fault Refusal :=
  .next (s.peSet e (encR 0x11 d a b 0) 1 d (fun r => (r.get a - r.get b, 0)))

/-- AND (R163). -/
def execPeAnd (e : Nat) (d a b : Reg) (s : State) : Host.Outcome State Fault Refusal :=
  .next (s.peSet e (encR 0x12 d a b 0) 1 d (fun r => (r.get a &&& r.get b, 0)))

/-- OR (R163). -/
def execPeOr (e : Nat) (d a b : Reg) (s : State) : Host.Outcome State Fault Refusal :=
  .next (s.peSet e (encR 0x13 d a b 0) 1 d (fun r => (r.get a ||| r.get b, 0)))

/-- XOR (R163). -/
def execPeXor (e : Nat) (d a b : Reg) (s : State) : Host.Outcome State Fault Refusal :=
  .next (s.peSet e (encR 0x14 d a b 0) 1 d (fun r => (r.get a ^^^ r.get b, 0)))

/-- SHL (R163). -/
def execPeShl (e : Nat) (d a b : Reg) (s : State) : Host.Outcome State Fault Refusal :=
  .next (s.peSet e (encR 0x15 d a b 0) 1 d (fun r => (r.get a <<< ((r.get b).toNat % 32), 0)))

/-- SHR (R163). -/
def execPeShr (e : Nat) (d a b : Reg) (s : State) : Host.Outcome State Fault Refusal :=
  .next (s.peSet e (encR 0x16 d a b 0) 1 d (fun r => (r.get a >>> ((r.get b).toNat % 32), 0)))

/-- SHRA (R163). -/
def execPeShra (e : Nat) (d a b : Reg) (s : State) : Host.Outcome State Fault Refusal :=
  .next (s.peSet e (encR 0x17 d a b 0) 1 d (fun r => ((r.get a).sshiftRight ((r.get b).toNat % 32), 0)))

/-- CMPLT (R163). -/
def execPeCmplt (e : Nat) (d a b : Reg) (s : State) : Host.Outcome State Fault Refusal :=
  .next (s.peSet e (encR 0x18 d a b 0) 1 d (fun r => (if (r.get a).slt (r.get b) then 1 else 0, 0)))

/-- CMPLTU (R163). -/
def execPeCmpltu (e : Nat) (d a b : Reg) (s : State) : Host.Outcome State Fault Refusal :=
  .next (s.peSet e (encR 0x19 d a b 0) 1 d (fun r => (if (r.get a).ult (r.get b) then 1 else 0, 0)))

/-- MUL (R163). -/
def execPeMul (e : Nat) (d a b : Reg) (s : State) : Host.Outcome State Fault Refusal :=
  .next (s.peSet e (encR 0x1A d a b 0) 2 d (fun r => (r.get a * r.get b, 0)))

/-- MULHS (R163). -/
def execPeMulhs (e : Nat) (d a b : Reg) (s : State) : Host.Outcome State Fault Refusal :=
  .next (s.peSet e (encR 0x1B d a b 0) 2 d (fun r => (iw (shr (wi (r.get a) * wi (r.get b)) 32), 0)))

/-- MULHU (R163). -/
def execPeMulhu (e : Nat) (d a b : Reg) (s : State) : Host.Outcome State Fault Refusal :=
  .next (s.peSet e (encR 0x1C d a b 0) 2 d (fun r => (BitVec.ofNat 32 ((r.get a).toNat * (r.get b).toNat / 2 ^ 32), 0)))

/-- DIVS (R163). -/
def execPeDivs (e : Nat) (d a b : Reg) (s : State) : Host.Outcome State Fault Refusal :=
  .next (s.peSet e (encR 0x1D d a b 0) 34 d (fun r => (divsWord (r.get a) (r.get b), 0)))

/-- DIVU (R163). -/
def execPeDivu (e : Nat) (d a b : Reg) (s : State) : Host.Outcome State Fault Refusal :=
  .next (s.peSet e (encR 0x1E d a b 0) 34 d (fun r => (if r.get b = 0 then 0xFFFFFFFF else r.get a / r.get b, 0)))

/-- REMS (R163). -/
def execPeRems (e : Nat) (d a b : Reg) (s : State) : Host.Outcome State Fault Refusal :=
  .next (s.peSet e (encR 0x1F d a b 0) 34 d (fun r => (remsWord (r.get a) (r.get b), 0)))

/-- REMU (R163). -/
def execPeRemu (e : Nat) (d a b : Reg) (s : State) : Host.Outcome State Fault Refusal :=
  .next (s.peSet e (encR 0x20 d a b 0) 34 d (fun r => (if r.get b = 0 then r.get a else r.get a % r.get b, 0)))

/-- MIN (R163). -/
def execPeMin (e : Nat) (d a b : Reg) (s : State) : Host.Outcome State Fault Refusal :=
  .next (s.peSet e (encR 0x21 d a b 0) 1 d (fun r => (if (r.get a).slt (r.get b) then r.get a else r.get b, 0)))

/-- MAX (R163). -/
def execPeMax (e : Nat) (d a b : Reg) (s : State) : Host.Outcome State Fault Refusal :=
  .next (s.peSet e (encR 0x22 d a b 0) 1 d (fun r => (if (r.get a).slt (r.get b) then r.get b else r.get a, 0)))

/-- SEL (R163). -/
def execPeSel (e : Nat) (d a b c : Reg) (s : State) : Host.Outcome State Fault Refusal :=
  .next (s.peSet e (encR 0x23 d a b c) 1 d (fun r => (if r.get c = 0 then r.get b else r.get a, 0)))

/-- CLZ (R163). -/
def execPeClz (e : Nat) (d a : Reg) (s : State) : Host.Outcome State Fault Refusal :=
  .next (s.peSet e (encR 0x24 d a 0 0) 1 d (fun r => (clzWord (r.get a), 0)))

/-- SHLI (R163). -/
def execPeShli (e : Nat) (d a c : Reg) (s : State) : Host.Outcome State Fault Refusal :=
  .next (s.peSet e (encR 0x25 d a 0 c) 1 d (fun r => (r.get a <<< c.val, 0)))

/-- SHRI (R163). -/
def execPeShri (e : Nat) (d a c : Reg) (s : State) : Host.Outcome State Fault Refusal :=
  .next (s.peSet e (encR 0x26 d a 0 c) 1 d (fun r => (r.get a >>> c.val, 0)))

/-- SHRAI (R163). -/
def execPeShrai (e : Nat) (d a c : Reg) (s : State) : Host.Outcome State Fault Refusal :=
  .next (s.peSet e (encR 0x27 d a 0 c) 1 d (fun r => ((r.get a).sshiftRight c.val, 0)))

/-! ### Fixed point (R164) -/

/-- ADDS (R164). -/
def execPeAdds (e : Nat) (d a b : Reg) (s : State) : Host.Outcome State Fault Refusal :=
  .next (s.peSet e (encR 0x30 d a b 0) 1 d (fun r => satW (wi (r.get a) + wi (r.get b))))

/-- SUBS (R164). -/
def execPeSubs (e : Nat) (d a b : Reg) (s : State) : Host.Outcome State Fault Refusal :=
  .next (s.peSet e (encR 0x31 d a b 0) 1 d (fun r => satW (wi (r.get a) - wi (r.get b))))

/-- NEGS (R164). -/
def execPeNegs (e : Nat) (d a : Reg) (s : State) : Host.Outcome State Fault Refusal :=
  .next (s.peSet e (encR 0x32 d a 0 0) 1 d (fun r => satW (-(wi (r.get a)))))

/-- ABSS (R164). -/
def execPeAbss (e : Nat) (d a : Reg) (s : State) : Host.Outcome State Fault Refusal :=
  .next (s.peSet e (encR 0x33 d a 0 0) 1 d (fun r => satW ((wi (r.get a)).natAbs : Int)))

/-- MULQ (R164). -/
def execPeMulq (e : Nat) (d a b c : Reg) (s : State) : Host.Outcome State Fault Refusal :=
  .next (s.peSet e (encR 0x34 d a b c) 2 d (fun r => satW (shr (wi (r.get a) * wi (r.get b) + rnd c.val) c.val)))

/-- SHLS (R164). -/
def execPeShls (e : Nat) (d a c : Reg) (s : State) : Host.Outcome State Fault Refusal :=
  .next (s.peSet e (encR 0x35 d a 0 c) 1 d (fun r => satW (wi (r.get a) * 2 ^ c.val)))

/-- SHRR (R164). -/
def execPeShrr (e : Nat) (d a c : Reg) (s : State) : Host.Outcome State Fault Refusal :=
  .next (s.peSet e (encR 0x36 d a 0 c) 1 d (fun r => (iw (shr (wi (r.get a) + rnd c.val) c.val), 0)))

/-- CLAMP (R164). -/
def execPeClamp (e : Nat) (d a b c : Reg) (s : State) : Host.Outcome State Fault Refusal :=
  .next (s.peSet e (encR 0x37 d a b c) 1 d (fun r => (iw (min (max (wi (r.get a)) (wi (r.get b))) (wi (r.get c))), 0)))

/-! ### Binary32 (R165, R172 to R175) -/

/-- FADD (R165, R172). -/
def execPeFadd (e : Nat) (d a b : Reg) (s : State) : Host.Outcome State Fault Refusal :=
  .next (s.peSet e (encR 0x40 d a b 0) 2 d (fun r => fAdd (r.get a) (r.get b)))

/-- FSUB (R165, R172). -/
def execPeFsub (e : Nat) (d a b : Reg) (s : State) : Host.Outcome State Fault Refusal :=
  .next (s.peSet e (encR 0x41 d a b 0) 2 d (fun r => fSub (r.get a) (r.get b)))

/-- FMUL (R165, R172). -/
def execPeFmul (e : Nat) (d a b : Reg) (s : State) : Host.Outcome State Fault Refusal :=
  .next (s.peSet e (encR 0x42 d a b 0) 2 d (fun r => fMul (r.get a) (r.get b)))

/-- FDIV (R165, R173). -/
def execPeFdiv (e : Nat) (d a b : Reg) (s : State) : Host.Outcome State Fault Refusal :=
  .next (s.peSet e (encR 0x43 d a b 0) 14 d (fun r => fDiv (r.get a) (r.get b)))

/-- FMA (R165, R172). -/
def execPeFma (e : Nat) (d a b c : Reg) (s : State) : Host.Outcome State Fault Refusal :=
  .next (s.peSet e (encR 0x44 d a b c) 3 d (fun r => fFma false (r.get a) (r.get b) (r.get c)))

/-- FNMS (R165, R172). -/
def execPeFnms (e : Nat) (d a b c : Reg) (s : State) : Host.Outcome State Fault Refusal :=
  .next (s.peSet e (encR 0x45 d a b c) 3 d (fun r => fFma true (r.get a) (r.get b) (r.get c)))

/-- FSQRT (R165, R173). -/
def execPeFsqrt (e : Nat) (d a : Reg) (s : State) : Host.Outcome State Fault Refusal :=
  .next (s.peSet e (encR 0x46 d a 0 0) 14 d (fun r => fSqrt (r.get a)))

/-- FRCP (R165, R173). -/
def execPeFrcp (e : Nat) (d a : Reg) (s : State) : Host.Outcome State Fault Refusal :=
  .next (s.peSet e (encR 0x47 d a 0 0) 10 d (fun r => fRcp (r.get a)))

/-- FMIN (R174). -/
def execPeFmin (e : Nat) (d a b : Reg) (s : State) : Host.Outcome State Fault Refusal :=
  .next (s.peSet e (encR 0x48 d a b 0) 2 d (fun r => fPick false (r.get a) (r.get b)))

/-- FMAX (R174). -/
def execPeFmax (e : Nat) (d a b : Reg) (s : State) : Host.Outcome State Fault Refusal :=
  .next (s.peSet e (encR 0x49 d a b 0) 2 d (fun r => fPick true (r.get a) (r.get b)))

/-- FABS (R165). -/
def execPeFabs (e : Nat) (d a : Reg) (s : State) : Host.Outcome State Fault Refusal :=
  .next (s.peSet e (encR 0x4A d a 0 0) 1 d (fun r => (r.get a &&& 0x7FFFFFFF, 0)))

/-- FNEG (R165). -/
def execPeFneg (e : Nat) (d a : Reg) (s : State) : Host.Outcome State Fault Refusal :=
  .next (s.peSet e (encR 0x4B d a 0 0) 1 d (fun r => (r.get a ^^^ 0x80000000, 0)))

/-- FEQ (R174). -/
def execPeFeq (e : Nat) (d a b : Reg) (s : State) : Host.Outcome State Fault Refusal :=
  .next (s.peSet e (encR 0x4C d a b 0) 2 d (fun r => fCmp (r.get a) (r.get b) (· == ·)))

/-- FLT (R174). -/
def execPeFlt (e : Nat) (d a b : Reg) (s : State) : Host.Outcome State Fault Refusal :=
  .next (s.peSet e (encR 0x4D d a b 0) 2 d (fun r => fCmp (r.get a) (r.get b) (fun x y => decide (x < y))))

/-- FLE (R174). -/
def execPeFle (e : Nat) (d a b : Reg) (s : State) : Host.Outcome State Fault Refusal :=
  .next (s.peSet e (encR 0x4E d a b 0) 2 d (fun r => fCmp (r.get a) (r.get b) (fun x y => decide (x ≤ y))))

/-- FCVTFI (R165, R175). -/
def execPeFcvtfi (e : Nat) (d a : Reg) (s : State) : Host.Outcome State Fault Refusal :=
  .next (s.peSet e (encR 0x4F d a 0 0) 2 d (fun r => fFromInt (r.get a) 0))

/-- FCVTIF (R175). -/
def execPeFcvtif (e : Nat) (d a : Reg) (s : State) : Host.Outcome State Fault Refusal :=
  .next (s.peSet e (encR 0x50 d a 0 0) 2 d (fun r => fToInt (r.get a) 0))

/-- QTOF (R165, R175). -/
def execPeQtof (e : Nat) (d a c : Reg) (s : State) : Host.Outcome State Fault Refusal :=
  .next (s.peSet e (encR 0x51 d a 0 c) 2 d (fun r => fFromInt (r.get a) c.val))

/-- FTOQ (R175). -/
def execPeFtoq (e : Nat) (d a c : Reg) (s : State) : Host.Outcome State Fault Refusal :=
  .next (s.peSet e (encR 0x52 d a 0 c) 2 d (fun r => fToInt (r.get a) c.val))

/-! ### Accumulators (R166) -/

/-- MAC (R166). -/
def execPeMac (e : Nat) (a b : Reg) (k : Fin 4) (s : State) : Host.Outcome State Fault Refusal :=
  .next (s.peAcc e (encR 0x58 0 a b (accField k)) 2 k (fun r => satA ((r.acc k).toInt + wi (r.get a) * wi (r.get b))))

/-- MSU (R166). -/
def execPeMsu (e : Nat) (a b : Reg) (k : Fin 4) (s : State) : Host.Outcome State Fault Refusal :=
  .next (s.peAcc e (encR 0x59 0 a b (accField k)) 2 k (fun r => satA ((r.acc k).toInt - wi (r.get a) * wi (r.get b))))

/-- ACLR (R166). -/
def execPeAclr (e : Nat) (k : Fin 4) (s : State) : Host.Outcome State Fault Refusal :=
  .next (s.peAcc e (encR 0x5A 0 0 0 (accField k)) 1 k (fun _ => (0, 0)))

/-- ALD (R166). -/
def execPeAld (e : Nat) (a b : Reg) (k : Fin 4) (s : State) : Host.Outcome State Fault Refusal :=
  .next (s.peAcc e (encR 0x5B 0 a b (accField k)) 1 k (fun r => (BitVec.ofInt 72 (wi (r.get a) * 2 ^ b.val), 0)))

/-- ARD (R166). -/
def execPeArd (e : Nat) (d b : Reg) (k : Fin 4) (s : State) : Host.Outcome State Fault Refusal :=
  .next (s.peSet e (encR 0x5C d 0 b (accField k)) 1 d (fun r => satW (shr ((r.acc k).toInt + rnd b.val) b.val)))

/-! ### Intrinsics (R167, R176) -/

/-- ISQRT (R176). -/
def execPeIsqrt (e : Nat) (d a : Reg) (s : State) : Host.Outcome State Fault Refusal :=
  .next (s.peSet e (encR 0x60 d a 0 0) 12 d (fun r => (BitVec.ofNat 32 (isqrt (r.get a).toNat), 0)))

/-- MAG (R176). -/
def execPeMag (e : Nat) (d a b : Reg) (s : State) : Host.Outcome State Fault Refusal :=
  .next (s.peSet e (encR 0x61 d a b 0) 16 d (fun r => (BitVec.ofNat 32 (isqrt ((wi (r.get a)).natAbs ^ 2 + (wi (r.get b)).natAbs ^ 2)), 0)))

/-- ATAN2 (R176). -/
def execPeAtan2 (e : Nat) (d a b : Reg) (s : State) : Host.Outcome State Fault Refusal :=
  .next (s.peSet e (encR 0x62 d a b 0) 30 d (fun r => (atan2 (r.get a) (r.get b), 0)))

/-- RECIPQ (R176). -/
def execPeRecipq (e : Nat) (d a c : Reg) (s : State) : Host.Outcome State Fault Refusal :=
  .next (s.peSet e (encR 0x63 d a 0 c) 36 d (fun r => recipq (r.get a) c.val))

/-- PHASOR (R176; its weight is 6 + N). -/
def execPePhasor (e : Nat) (d a b c : Reg) (s : State) : Host.Outcome State Fault Refusal :=
  .next (s.peRun e (encR 0x64 d a b c) (6 + ((s.eng (engOfKey false e)).pe.get b).toNat % 65536)
    (fun x r s => s.phasor (engOfKey false e) x r d a b c.val))

/-! ### Constants, loads and stores (R168) -/

/-- ADDK (R168). -/
def execPeAddk (e : Nat) (d a : Reg) (k : BitVec 14) (s : State) : Host.Outcome State Fault Refusal :=
  .next (s.peSet e (encK 0x70 d a k) 1 d (fun r => (r.get a + kSigned k, 0)))

/-- ANDK (R168). -/
def execPeAndk (e : Nat) (d a : Reg) (k : BitVec 14) (s : State) : Host.Outcome State Fault Refusal :=
  .next (s.peSet e (encK 0x71 d a k) 1 d (fun r => (r.get a &&& kUnsigned k, 0)))

/-- ORK (R168). -/
def execPeOrk (e : Nat) (d a : Reg) (k : BitVec 14) (s : State) : Host.Outcome State Fault Refusal :=
  .next (s.peSet e (encK 0x72 d a k) 1 d (fun r => (r.get a ||| kUnsigned k, 0)))

/-- XORK (R168). -/
def execPeXork (e : Nat) (d a : Reg) (k : BitVec 14) (s : State) : Host.Outcome State Fault Refusal :=
  .next (s.peSet e (encK 0x73 d a k) 1 d (fun r => (r.get a ^^^ kUnsigned k, 0)))

/-- CMPLTK (R168). -/
def execPeCmpltk (e : Nat) (d a : Reg) (k : BitVec 14) (s : State) : Host.Outcome State Fault Refusal :=
  .next (s.peSet e (encK 0x74 d a k) 1 d (fun r => (if (r.get a).slt (kSigned k) then 1 else 0, 0)))

/-- ADDSK (R168). -/
def execPeAddsk (e : Nat) (d a : Reg) (k : BitVec 14) (s : State) : Host.Outcome State Fault Refusal :=
  .next (s.peSet e (encK 0x75 d a k) 1 d (fun r => satW (wi (r.get a) + k.toInt)))

/-- MOVL (R168). -/
def execPeMovl (e : Nat) (d : Reg) (k : BitVec 16) (s : State) : Host.Outcome State Fault Refusal :=
  .next (s.peSet e (encW 0x78 d k) 1 d (fun _ => (k.zeroExtend 32, 0)))

/-- MOVH (R168). -/
def execPeMovh (e : Nat) (d : Reg) (k : BitVec 16) (s : State) : Host.Outcome State Fault Refusal :=
  .next (s.peSet e (encW 0x79 d k) 1 d (fun r => (k ++ (r.get d).extractLsb' 0 16, 0)))

/-- LD_W (R168). -/
def execPeLdW (e : Nat) (d a : Reg) (k : BitVec 14) (s : State) : Host.Outcome State Fault Refusal :=
  .next (s.peLd e 0x80 4 d a k (BitVec.ofNat 32))

/-- LD_H (R168). -/
def execPeLdH (e : Nat) (d a : Reg) (k : BitVec 14) (s : State) : Host.Outcome State Fault Refusal :=
  .next (s.peLd e 0x81 2 d a k (sext 2))

/-- LD_HU (R168). -/
def execPeLdHu (e : Nat) (d a : Reg) (k : BitVec 14) (s : State) : Host.Outcome State Fault Refusal :=
  .next (s.peLd e 0x82 2 d a k (BitVec.ofNat 32))

/-- LD_B (R168). -/
def execPeLdB (e : Nat) (d a : Reg) (k : BitVec 14) (s : State) : Host.Outcome State Fault Refusal :=
  .next (s.peLd e 0x83 1 d a k (sext 1))

/-- LD_BU (R168). -/
def execPeLdBu (e : Nat) (d a : Reg) (k : BitVec 14) (s : State) : Host.Outcome State Fault Refusal :=
  .next (s.peLd e 0x84 1 d a k (BitVec.ofNat 32))

/-- ST_W (R168). -/
def execPeStW (e : Nat) (d a : Reg) (k : BitVec 14) (s : State) : Host.Outcome State Fault Refusal :=
  .next (s.peSt e 0x88 4 d a k)

/-- ST_H (R168). -/
def execPeStH (e : Nat) (d a : Reg) (k : BitVec 14) (s : State) : Host.Outcome State Fault Refusal :=
  .next (s.peSt e 0x89 2 d a k)

/-- ST_B (R168). -/
def execPeStB (e : Nat) (d a : Reg) (k : BitVec 14) (s : State) : Host.Outcome State Fault Refusal :=
  .next (s.peSt e 0x8A 1 d a k)

/-! ### Branches, jumps and calls (R169) -/

/-- BR_EQ (R169). -/
def execPeBrEq (e : Nat) (a b : Reg) (k : BitVec 14) (s : State) : Host.Outcome State Fault Refusal :=
  .next (s.peBr e 0x90 a b k (· == ·))

/-- BR_NE (R169). -/
def execPeBrNe (e : Nat) (a b : Reg) (k : BitVec 14) (s : State) : Host.Outcome State Fault Refusal :=
  .next (s.peBr e 0x91 a b k (· != ·))

/-- BR_LT (R169). -/
def execPeBrLt (e : Nat) (a b : Reg) (k : BitVec 14) (s : State) : Host.Outcome State Fault Refusal :=
  .next (s.peBr e 0x92 a b k (fun x y => x.slt y))

/-- BR_GE (R169). -/
def execPeBrGe (e : Nat) (a b : Reg) (k : BitVec 14) (s : State) : Host.Outcome State Fault Refusal :=
  .next (s.peBr e 0x93 a b k (fun x y => !x.slt y))

/-- BR_LTU (R169). -/
def execPeBrLtu (e : Nat) (a b : Reg) (k : BitVec 14) (s : State) : Host.Outcome State Fault Refusal :=
  .next (s.peBr e 0x94 a b k (fun x y => x.ult y))

/-- BR_GEU (R169). -/
def execPeBrGeu (e : Nat) (a b : Reg) (k : BitVec 14) (s : State) : Host.Outcome State Fault Refusal :=
  .next (s.peBr e 0x95 a b k (fun x y => !x.ult y))

/-- GOTO (R169). -/
def execPeGoto (e : Nat) (k : BitVec 24) (s : State) : Host.Outcome State Fault Refusal :=
  .next (s.peRun e (encJ 0x98 k) 1 (fun x r s => (.jump r (branchTo x.pc k.toInt), s)))

/-- CALL (R169; STACK at depth 8). -/
def execPeCall (e : Nat) (k : BitVec 24) (s : State) : Host.Outcome State Fault Refusal :=
  .next (s.peRun e (encJ 0x99 k) 1 (fun x r s =>
    (if r.rs.length ≥ 8 then .exc xStack 0 r.rs.length
     else .jump { r with rs := BitVec.ofNat 32 (x.pc + 4) :: r.rs } (branchTo x.pc k.toInt), s)))

/-- RET (R169; STACK at depth 0). -/
def execPeRet (e : Nat) (s : State) : Host.Outcome State Fault Refusal :=
  .next (s.peRun e (encR 0x9A 0 0 0 0) 1 (fun _ r s => (match r.rs with
    | [] => .exc xStack 0 0
    | t :: rest => .jump { r with rs := rest } t.toNat, s)))

/-- GOTOI (R169). -/
def execPeGotoi (e : Nat) (a : Reg) (s : State) : Host.Outcome State Fault Refusal :=
  .next (s.peRun e (encR 0x9B 0 a 0 0) 1 (fun _ r s => (.jump r (r.get a).toNat, s)))

/-! ### System (R157, R170) -/

/-- END (R157, R170). -/
def execPeEnd (e : Nat) (s : State) : Host.Outcome State Fault Refusal :=
  .next (s.peRun e (encR 0xF0 0 0 0 0) 4 (fun _ _ s => (.ends, s)))

/-- MFS (R170). -/
def execPeMfs (e : Nat) (d : Reg) (s : State) : Host.Outcome State Fault Refusal :=
  .next (s.peRegs e (encR 0xF1 d 0 0 0) 1 (fun r => r.set d (BitVec.ofNat 32 r.status)))

/-- MTS (R170). -/
def execPeMts (e : Nat) (a : Reg) (s : State) : Host.Outcome State Fault Refusal :=
  .next (s.peRegs e (encR 0xF2 0 a 0 0) 1 (fun r => r.setStatus ((r.get a).toNat % 64)))

/-- TRAP (R170). -/
def execPeTrap (e : Nat) (k : BitVec 14) (s : State) : Host.Outcome State Fault Refusal :=
  .next (s.peRun e (encK 0xF3 0 0 k) 1 (fun _ _ s => (.exc xTrap k.toNat 0, s)))

/-- ILLEGAL_ENCODING (R161). -/
def execPeIllegalEncoding (e : Nat) (s : State) : Host.Outcome State Fault Refusal :=
  .next (s.peIllegal e)

end Sys2Proof.Machine
end

