-- ==== Sys2Proof/Machine/Dispatch.lean ====
section
/-! DEFINITION. The dispatch: one arm per command, each a direct call of its meaning. -/
namespace Sys2Proof.Machine
open Sys2Proof

def exec (i : Instr) (s : State) : Host.Outcome State Fault Refusal :=
  match i with
  | .packetArrival dt chan pkt replyTo replyBytes index user => Sys2Proof.Machine.execPacketArrival dt chan pkt replyTo replyBytes index user s
  | .commandStart dt => Sys2Proof.Machine.execCommandStart dt s
  | .commandCompletion dt chan seq => Sys2Proof.Machine.execCommandCompletion dt chan seq s
  | .zenithLoadUpdate dt load => Sys2Proof.Machine.execZenithLoadUpdate dt load s
  | .watchdogExpiry dt core => Sys2Proof.Machine.execWatchdogExpiry dt core s
  | .zenithRecovered dt => Sys2Proof.Machine.execZenithRecovered dt s
  | .uartCharacter dt n smp => Sys2Proof.Machine.execUartCharacter dt n smp s
  | .uartBreak dt n => Sys2Proof.Machine.execUartBreak dt n s
  | .mgmtEthernetFrame dt port frame => Sys2Proof.Machine.execMgmtEthernetFrame dt port frame s
  | .getIdentity dt c => Sys2Proof.Machine.execGetIdentity dt c s
  | .getStatus dt c => Sys2Proof.Machine.execGetStatus dt c s
  | .reset dt c => Sys2Proof.Machine.execReset dt c s
  | .getFirmwareInfo dt c => Sys2Proof.Machine.execGetFirmwareInfo dt c s
  | .echo dt c => Sys2Proof.Machine.execEcho dt c s
  | .getZenithLoad dt c => Sys2Proof.Machine.execGetZenithLoad dt c s
  | .setChannel dt c => Sys2Proof.Machine.execSetChannel dt c s
  | .writeFirmware dt c => Sys2Proof.Machine.execWriteFirmware dt c s
  | .selectImage dt c => Sys2Proof.Machine.execSelectImage dt c s
  | .confirmImage dt c => Sys2Proof.Machine.execConfirmImage dt c s
  | .getBootReport dt c => Sys2Proof.Machine.execGetBootReport dt c s
  | .declareInstance dt c => Sys2Proof.Machine.execDeclareInstance dt c s
  | .removeInstance dt c => Sys2Proof.Machine.execRemoveInstance dt c s
  | .place dt c => Sys2Proof.Machine.execPlace dt c s
  | .getPlacement dt c => Sys2Proof.Machine.execGetPlacement dt c s
  | .getEngine dt c => Sys2Proof.Machine.execGetEngine dt c s
  | .setPlacementLimits dt c => Sys2Proof.Machine.execSetPlacementLimits dt c s
  | .getPlacementLimits dt c => Sys2Proof.Machine.execGetPlacementLimits dt c s
  | .getCluster dt c => Sys2Proof.Machine.execGetCluster dt c s
  | .loadImage dt c => Sys2Proof.Machine.execLoadImage dt c s
  | .freeImage dt c => Sys2Proof.Machine.execFreeImage dt c s
  | .bindSignals dt c => Sys2Proof.Machine.execBindSignals dt c s
  | .startInstance dt c => Sys2Proof.Machine.execStartInstance dt c s
  | .stopInstance dt c => Sys2Proof.Machine.execStopInstance dt c s
  | .writeSettings dt c => Sys2Proof.Machine.execWriteSettings dt c s
  | .stageChange dt c => Sys2Proof.Machine.execStageChange dt c s
  | .switchChange dt c => Sys2Proof.Machine.execSwitchChange dt c s
  | .cancelChange dt c => Sys2Proof.Machine.execCancelChange dt c s
  | .changeCompletion dt => Sys2Proof.Machine.execChangeCompletion dt s
  | .getRunState dt c => Sys2Proof.Machine.execGetRunState dt c s
  | .getChange dt c => Sys2Proof.Machine.execGetChange dt c s
  | .defineStream dt c => Sys2Proof.Machine.execDefineStream dt c s
  | .removeStream dt c => Sys2Proof.Machine.execRemoveStream dt c s
  | .enableStream dt c => Sys2Proof.Machine.execEnableStream dt c s
  | .setAlignment dt c => Sys2Proof.Machine.execSetAlignment dt c s
  | .getStream dt c => Sys2Proof.Machine.execGetStream dt c s
  | .getIngestTotals dt c => Sys2Proof.Machine.execGetIngestTotals dt c s
  | .getChannel dt c => Sys2Proof.Machine.execGetChannel dt c s
  | .loadBank dt c => Sys2Proof.Machine.execLoadBank dt c s
  | .readBank dt c => Sys2Proof.Machine.execReadBank dt c s
  | .freeBank dt c => Sys2Proof.Machine.execFreeBank dt c s
  | .setChain dt c => Sys2Proof.Machine.execSetChain dt c s
  | .getChain dt c => Sys2Proof.Machine.execGetChain dt c s
  | .syncDecimators dt c => Sys2Proof.Machine.execSyncDecimators dt c s
  | .setDetector dt c => Sys2Proof.Machine.execSetDetector dt c s
  | .getDetectors dt c => Sys2Proof.Machine.execGetDetectors dt c s
  | .bindOutputs dt c => Sys2Proof.Machine.execBindOutputs dt c s
  | .definePublication dt c => Sys2Proof.Machine.execDefinePublication dt c s
  | .removePublication dt c => Sys2Proof.Machine.execRemovePublication dt c s
  | .enablePublication dt c => Sys2Proof.Machine.execEnablePublication dt c s
  | .setRoute dt c => Sys2Proof.Machine.execSetRoute dt c s
  | .getPublication dt c => Sys2Proof.Machine.execGetPublication dt c s
  | .defineSubscription dt c => Sys2Proof.Machine.execDefineSubscription dt c s
  | .removeSubscription dt c => Sys2Proof.Machine.execRemoveSubscription dt c s
  | .enableSubscription dt c => Sys2Proof.Machine.execEnableSubscription dt c s
  | .getSubscription dt c => Sys2Proof.Machine.execGetSubscription dt c s
  | .getSignal dt c => Sys2Proof.Machine.execGetSignal dt c s
  | .defineRecorder dt c => Sys2Proof.Machine.execDefineRecorder dt c s
  | .removeRecorder dt c => Sys2Proof.Machine.execRemoveRecorder dt c s
  | .setTrigger dt c => Sys2Proof.Machine.execSetTrigger dt c s
  | .loadMask dt c => Sys2Proof.Machine.execLoadMask dt c s
  | .armRecorder dt c => Sys2Proof.Machine.execArmRecorder dt c s
  | .forceTrigger dt c => Sys2Proof.Machine.execForceTrigger dt c s
  | .getRecorder dt c => Sys2Proof.Machine.execGetRecorder dt c s
  | .listSegments dt c => Sys2Proof.Machine.execListSegments dt c s
  | .readSegment dt c => Sys2Proof.Machine.execReadSegment dt c s
  | .releaseSegment dt c => Sys2Proof.Machine.execReleaseSegment dt c s
  | .getCaptureTotals dt c => Sys2Proof.Machine.execGetCaptureTotals dt c s
  | .getAnvilStatus dt c => Sys2Proof.Machine.execGetAnvilStatus dt c s
  | .getContainment dt c => Sys2Proof.Machine.execGetContainment dt c s
  | .getMemoryHealth dt c => Sys2Proof.Machine.execGetMemoryHealth dt c s
  | .setSelfTest dt c => Sys2Proof.Machine.execSetSelfTest dt c s
  | .injectFault dt c => Sys2Proof.Machine.execInjectFault dt c s
  | .setPair dt c => Sys2Proof.Machine.execSetPair dt c s
  | .getPairStatus dt c => Sys2Proof.Machine.execGetPairStatus dt c s
  | .switchover dt c => Sys2Proof.Machine.execSwitchover dt c s
  | .resync dt c => Sys2Proof.Machine.execResync dt c s
  | .setStratus dt c => Sys2Proof.Machine.execSetStratus dt c s
  | .loadSchedule dt c => Sys2Proof.Machine.execLoadSchedule dt c s
  | .activateSchedule dt c => Sys2Proof.Machine.execActivateSchedule dt c s
  | .bindReceive dt c => Sys2Proof.Machine.execBindReceive dt c s
  | .getStratusStatus dt c => Sys2Proof.Machine.execGetStratusStatus dt c s
  | .getSlot dt c => Sys2Proof.Machine.execGetSlot dt c s
  | .getSync dt c => Sys2Proof.Machine.execGetSync dt c s
  | .handoverManager dt c => Sys2Proof.Machine.execHandoverManager dt c s
  | .getNodes dt c => Sys2Proof.Machine.execGetNodes dt c s
  | .setPtp dt c => Sys2Proof.Machine.execSetPtp dt c s
  | .getPtpStatus dt c => Sys2Proof.Machine.execGetPtpStatus dt c s
  | .setPortTiming dt c => Sys2Proof.Machine.execSetPortTiming dt c s
  | .selectTime dt c => Sys2Proof.Machine.execSelectTime dt c s
  | .getTime dt c => Sys2Proof.Machine.execGetTime dt c s
  | .setPulse dt c => Sys2Proof.Machine.execSetPulse dt c s
  | .setCaptureInput dt c => Sys2Proof.Machine.execSetCaptureInput dt c s
  | .readCaptures dt c => Sys2Proof.Machine.execReadCaptures dt c s
  | .setUtc dt c => Sys2Proof.Machine.execSetUtc dt c s
  | .stepProtectionTime dt c => Sys2Proof.Machine.execStepProtectionTime dt c s
  | .setClockSources dt c => Sys2Proof.Machine.execSetClockSources dt c s
  | .getClockStatus dt c => Sys2Proof.Machine.execGetClockStatus dt c s
  | .getPllStatus dt c => Sys2Proof.Machine.execGetPllStatus dt c s
  | .setPower dt c => Sys2Proof.Machine.execSetPower dt c s
  | .getPowerStatus dt c => Sys2Proof.Machine.execGetPowerStatus dt c s
  | .setVlan dt c => Sys2Proof.Machine.execSetVlan dt c s
  | .setFdbEntry dt c => Sys2Proof.Machine.execSetFdbEntry dt c s
  | .getFdb dt c => Sys2Proof.Machine.execGetFdb dt c s
  | .setPortSwitch dt c => Sys2Proof.Machine.execSetPortSwitch dt c s
  | .setSwitch dt c => Sys2Proof.Machine.execSetSwitch dt c s
  | .setQueue dt c => Sys2Proof.Machine.execSetQueue dt c s
  | .setPolicer dt c => Sys2Proof.Machine.execSetPolicer dt c s
  | .setGateList dt c => Sys2Proof.Machine.execSetGateList dt c s
  | .setRedundancy dt c => Sys2Proof.Machine.execSetRedundancy dt c s
  | .getRedundancyStatus dt c => Sys2Proof.Machine.execGetRedundancyStatus dt c s
  | .getBufferStatus dt c => Sys2Proof.Machine.execGetBufferStatus dt c s
  | .getQueueCounters dt c => Sys2Proof.Machine.execGetQueueCounters dt c s
  | .getSwitchCounters dt c => Sys2Proof.Machine.execGetSwitchCounters dt c s
  | .setPort dt c => Sys2Proof.Machine.execSetPort dt c s
  | .getPortStatus dt c => Sys2Proof.Machine.execGetPortStatus dt c s
  | .getPortCounters dt c => Sys2Proof.Machine.execGetPortCounters dt c s
  | .i2cTransfer dt c => Sys2Proof.Machine.execI2cTransfer dt c s
  | .setInstanceResources dt c => Sys2Proof.Machine.execSetInstanceResources dt c s
  | .getInstance dt c => Sys2Proof.Machine.execGetInstance dt c s
  | .setWindow dt c => Sys2Proof.Machine.execSetWindow dt c s
  | .getWindow dt c => Sys2Proof.Machine.execGetWindow dt c s
  | .resetInstance dt c => Sys2Proof.Machine.execResetInstance dt c s
  | .getHostCounters dt c => Sys2Proof.Machine.execGetHostCounters dt c s
  | .setSource dt c => Sys2Proof.Machine.execSetSource dt c s
  | .getSource dt c => Sys2Proof.Machine.execGetSource dt c s
  | .unmaskSource dt c => Sys2Proof.Machine.execUnmaskSource dt c s
  | .listMasked dt c => Sys2Proof.Machine.execListMasked dt c s
  | .writeKey dt c => Sys2Proof.Machine.execWriteKey dt c s
  | .eraseKey dt c => Sys2Proof.Machine.execEraseKey dt c s
  | .getKeyInfo dt c => Sys2Proof.Machine.execGetKeyInfo dt c s
  | .listKeys dt c => Sys2Proof.Machine.execListKeys dt c s
  | .verifyKey dt c => Sys2Proof.Machine.execVerifyKey dt c s
  | .ackTamper dt c => Sys2Proof.Machine.execAckTamper dt c s
  | .getHaloStatus dt c => Sys2Proof.Machine.execGetHaloStatus dt c s
  | .getRecorderStatus dt c => Sys2Proof.Machine.execGetRecorderStatus dt c s
  | .readRecords dt c => Sys2Proof.Machine.execReadRecords dt c s
  | .getClearNonce dt c => Sys2Proof.Machine.execGetClearNonce dt c s
  | .clearRecorder dt c => Sys2Proof.Machine.execClearRecorder dt c s
  | .readCounters dt c => Sys2Proof.Machine.execReadCounters dt c s
  | .postRecord dt c => Sys2Proof.Machine.execPostRecord dt c s
  | .getChipletIdentity dt c => Sys2Proof.Machine.execGetChipletIdentity dt c s
  | .readHistogram dt c => Sys2Proof.Machine.execReadHistogram dt c s
  | .setUart dt c => Sys2Proof.Machine.execSetUart dt c s
  | .uartWrite dt c => Sys2Proof.Machine.execUartWrite dt c s
  | .uartRead dt c => Sys2Proof.Machine.execUartRead dt c s
  | .getUartStatus dt c => Sys2Proof.Machine.execGetUartStatus dt c s
  | .setBinaryInput dt c => Sys2Proof.Machine.execSetBinaryInput dt c s
  | .setBinaryOutput dt c => Sys2Proof.Machine.execSetBinaryOutput dt c s
  | .getBinaryIo dt c => Sys2Proof.Machine.execGetBinaryIo dt c s
  | .frameReceived dt port ta frame rx => Sys2Proof.Machine.execFrameReceived dt port ta frame rx s
  | .frameTransmitStart dt port under => Sys2Proof.Machine.execFrameTransmitStart dt port under s
  | .thresholdDecay dt port => Sys2Proof.Machine.execThresholdDecay dt port s
  | .gateEvent dt port => Sys2Proof.Machine.execGateEvent dt port s
  | .fdbAgeExpiry dt mac vid => Sys2Proof.Machine.execFdbAgeExpiry dt mac vid s
  | .sourceEntryAge dt ent src => Sys2Proof.Machine.execSourceEntryAge dt ent src s
  | .holdExpiry dt ent src => Sys2Proof.Machine.execHoldExpiry dt ent src s
  | .supervisionSend dt ent => Sys2Proof.Machine.execSupervisionSend dt ent s
  | .pauseReceived dt port quanta => Sys2Proof.Machine.execPauseReceived dt port quanta s
  | .pauseExpiry dt port => Sys2Proof.Machine.execPauseExpiry dt port s
  | .pauseRepeat dt port => Sys2Proof.Machine.execPauseRepeat dt port s
  | .preemptVerify dt port response => Sys2Proof.Machine.execPreemptVerify dt port response s
  | .preemptVerifyTimeout dt port => Sys2Proof.Machine.execPreemptVerifyTimeout dt port s
  | .portLinkUp dt port pause speedOk => Sys2Proof.Machine.execPortLinkUp dt port pause speedOk s
  | .portLinkDown dt port receiving remote => Sys2Proof.Machine.execPortLinkDown dt port receiving remote s
  | .i2cTransferComplete dt master result data => Sys2Proof.Machine.execI2cTransferComplete dt master result data s
  | .svFrameReceived dt port ta frame => Sys2Proof.Machine.execSvFrameReceived dt port ta frame s
  | .streamLossTimeout dt stream => Sys2Proof.Machine.execStreamLossTimeout dt stream s
  | .slotClose dt stream => Sys2Proof.Machine.execSlotClose dt stream s
  | .chainTakePosition dt ch => Sys2Proof.Machine.execChainTakePosition dt ch s
  | .gooseFrameReceived dt port ta frame => Sys2Proof.Machine.execGooseFrameReceived dt port ta frame s
  | .subscriptionStale dt sub => Sys2Proof.Machine.execSubscriptionStale dt sub s
  | .latch dt fi => Sys2Proof.Machine.execLatch dt fi s
  | .copyStart dt fi k => Sys2Proof.Machine.execCopyStart dt fi k s
  | .signaturePosted dt ls e => Sys2Proof.Machine.execSignaturePosted dt ls e s
  | .spanEnd dt ls e => Sys2Proof.Machine.execSpanEnd dt ls e s
  | .anvilVerdict dt fi probe bad => Sys2Proof.Machine.execAnvilVerdict dt fi probe bad s
  | .verdictDeadline dt fi => Sys2Proof.Machine.execVerdictDeadline dt fi s
  | .diagnosisStart dt ls e => Sys2Proof.Machine.execDiagnosisStart dt ls e s
  | .diagnosisEnd dt ls e pass => Sys2Proof.Machine.execDiagnosisEnd dt ls e pass s
  | .crossCheckFault dt => Sys2Proof.Machine.execCrossCheckFault dt s
  | .publicationInstant dt fi => Sys2Proof.Machine.execPublicationInstant dt fi s
  | .engineFailed dt ls cc no cls => Sys2Proof.Machine.execEngineFailed dt ls cc no cls s
  | .copyLoadComplete dt fi k => Sys2Proof.Machine.execCopyLoadComplete dt fi k s
  | .copyDataTransfer dt fi k => Sys2Proof.Machine.execCopyDataTransfer dt fi k s
  | .clusterMemoryFailed dt cc => Sys2Proof.Machine.execClusterMemoryFailed dt cc s
  | .canaryCheck dt rates => Sys2Proof.Machine.execCanaryCheck dt rates s
  | .marginLostTimeout dt ls cc no => Sys2Proof.Machine.execMarginLostTimeout dt ls cc no s
  | .coreVoltageUpdate dt => Sys2Proof.Machine.execCoreVoltageUpdate dt s
  | .scrubPass dt region cc ms found => Sys2Proof.Machine.execScrubPass dt region cc ms found s
  | .backgroundTest dt kind id pass passMs => Sys2Proof.Machine.execBackgroundTest dt kind id pass passMs s
  | .captureHorizon dt cap => Sys2Proof.Machine.execCaptureHorizon dt cap s
  | .segmentComplete dt => Sys2Proof.Machine.execSegmentComplete dt s
  | .archiveCopyComplete dt => Sys2Proof.Machine.execArchiveCopyComplete dt s
  | .pairTickSend dt => Sys2Proof.Machine.execPairTickSend dt s
  | .pairTickLate dt => Sys2Proof.Machine.execPairTickLate dt s
  | .pairTickReceived dt rx st mseq tick => Sys2Proof.Machine.execPairTickReceived dt rx st mseq tick s
  | .pairResultReceived dt rx fi held tick sig outCrc imgCrc => Sys2Proof.Machine.execPairResultReceived dt rx fi held tick sig outCrc imgCrc s
  | .pairPubReceived dt rx pub sent tick stNum sqNum => Sys2Proof.Machine.execPairPubReceived dt rx pub sent tick stNum sqNum s
  | .pairMirrorReceived dt rx mseq pkt => Sys2Proof.Machine.execPairMirrorReceived dt rx mseq pkt s
  | .pairDataReceived dt rx fi tick off data => Sys2Proof.Machine.execPairDataReceived dt rx fi tick off data s
  | .pairGiveUpReceived dt rx cause tick => Sys2Proof.Machine.execPairGiveUpReceived dt rx cause tick s
  | .takeoverTimeout dt => Sys2Proof.Machine.execTakeoverTimeout dt s
  | .pairOkChange dt level => Sys2Proof.Machine.execPairOkChange dt level s
  | .pairWaitTimeout dt => Sys2Proof.Machine.execPairWaitTimeout dt s
  | .pairLinkSilent dt link => Sys2Proof.Machine.execPairLinkSilent dt link s
  | .roundStart dt => Sys2Proof.Machine.execRoundStart dt s
  | .lap2Send dt => Sys2Proof.Machine.execLap2Send dt s
  | .pollFrameReceived dt rx pdu => Sys2Proof.Machine.execPollFrameReceived dt rx pdu s
  | .roundCommit dt => Sys2Proof.Machine.execRoundCommit dt s
  | .nodeLost dt node => Sys2Proof.Machine.execNodeLost dt node s
  | .mgmtMessageReceived dt rx src dst mseq body => Sys2Proof.Machine.execMgmtMessageReceived dt rx src dst mseq body s
  | .mgmtMessageRetry dt => Sys2Proof.Machine.execMgmtMessageRetry dt s
  | .ptpSync dt port m t2 => Sys2Proof.Machine.execPtpSync dt port m t2 s
  | .ptpFollowUp dt port m => Sys2Proof.Machine.execPtpFollowUp dt port m s
  | .ptpAnnounce dt port m => Sys2Proof.Machine.execPtpAnnounce dt port m s
  | .pdelayReq dt port domain requester seq t2 t3 => Sys2Proof.Machine.execPdelayReq dt port domain requester seq t2 t3 s
  | .ptpSyncTimeout dt base => Sys2Proof.Machine.execPtpSyncTimeout dt base s
  | .revertTimeout dt => Sys2Proof.Machine.execRevertTimeout dt s
  | .slewComplete dt => Sys2Proof.Machine.execSlewComplete dt s
  | .leapSecond dt => Sys2Proof.Machine.execLeapSecond dt s
  | .pulseInstant dt pin => Sys2Proof.Machine.execPulseInstant dt pin s
  | .tpiEdge dt pin rising pt width => Sys2Proof.Machine.execTpiEdge dt pin rising pt width s
  | .pllLockLoss dt dom rx => Sys2Proof.Machine.execPllLockLoss dt dom rx s
  | .pllRelock dt dom => Sys2Proof.Machine.execPllRelock dt dom s
  | .sourceActivity dt src => Sys2Proof.Machine.execSourceActivity dt src s
  | .qualificationWindowEnd dt src off half iro => Sys2Proof.Machine.execQualificationWindowEnd dt src off half iro s
  | .sourceLossOfActivity dt src => Sys2Proof.Machine.execSourceLossOfActivity dt src s
  | .ratioCheck dt ratios offs => Sys2Proof.Machine.execRatioCheck dt ratios offs s
  | .refinementEnd dt src off => Sys2Proof.Machine.execRefinementEnd dt src off s
  | .sourceRetry dt src => Sys2Proof.Machine.execSourceRetry dt src s
  | .waitToRestoreExpiry dt => Sys2Proof.Machine.execWaitToRestoreExpiry dt s
  | .referenceSwitchComplete dt dom => Sys2Proof.Machine.execReferenceSwitchComplete dt dom s
  | .powerUp dt vin vaux b => Sys2Proof.Machine.execPowerUp dt vin vaux b s
  | .commandReady dt f => Sys2Proof.Machine.execCommandReady dt f s
  | .resetN dt level b => Sys2Proof.Machine.execResetN dt level b s
  | .vinWarning dt vin => Sys2Proof.Machine.execVinWarning dt vin s
  | .vinRecovered dt vin => Sys2Proof.Machine.execVinRecovered dt vin s
  | .vinLoss dt vin => Sys2Proof.Machine.execVinLoss dt vin s
  | .vauxLoss dt => Sys2Proof.Machine.execVauxLoss dt s
  | .tamper dt low => Sys2Proof.Machine.execTamper dt low s
  | .remask dt slot => Sys2Proof.Machine.execRemask dt slot s
  | .tagCheck dt slot flip => Sys2Proof.Machine.execTagCheck dt slot flip s
  | .tapInstruction dt n => Sys2Proof.Machine.execTapInstruction dt n s
  | .oldKeyExpiry dt link => Sys2Proof.Machine.execOldKeyExpiry dt link s
  | .nonceExpiry dt => Sys2Proof.Machine.execNonceExpiry dt s
  | .recordCommit dt => Sys2Proof.Machine.execRecordCommit dt s
  | .binChangeAccepted dt n level held => Sys2Proof.Machine.execBinChangeAccepted dt n level held s
  | .chatterRelease dt n level held => Sys2Proof.Machine.execChatterRelease dt n level held s
  | .binStuckTimeout dt n => Sys2Proof.Machine.execBinStuckTimeout dt n s
  | .interruptMessage dt => Sys2Proof.Machine.execInterruptMessage dt s
  | .wiredLineChange dt => Sys2Proof.Machine.execWiredLineChange dt s
  | .squallRelease dt src => Sys2Proof.Machine.execSquallRelease dt src s
  | .stuckTimeout dt src => Sys2Proof.Machine.execStuckTimeout dt src s
  | .interruptAck dt core => Sys2Proof.Machine.execInterruptAck dt core s
  | .endOfInterrupt dt core src => Sys2Proof.Machine.execEndOfInterrupt dt core src s
  | .msixUnmask dt vi vec => Sys2Proof.Machine.execMsixUnmask dt vi vec s
  | .icuPendingClear dt vi word bits => Sys2Proof.Machine.execIcuPendingClear dt vi word bits s
  | .icuUnmask dt vi src => Sys2Proof.Machine.execIcuUnmask dt vi src s
  | .hifCmdTail dt vi tail writes => Sys2Proof.Machine.execHifCmdTail dt vi tail writes s
  | .hifDlvHead dt vi head => Sys2Proof.Machine.execHifDlvHead dt vi head s
  | .hifControlWrite dt vi v => Sys2Proof.Machine.execHifControlWrite dt vi v s
  | .hifReset dt vi => Sys2Proof.Machine.execHifReset dt vi s
  | .ringErrorClear dt vi => Sys2Proof.Machine.execRingErrorClear dt vi s
  | .descriptorTake dt vi => Sys2Proof.Machine.execDescriptorTake dt vi s
  | .tuInv dt vi all => Sys2Proof.Machine.execTuInv dt vi all s
  | .tuInvComplete dt => Sys2Proof.Machine.execTuInvComplete dt s
  | .dirtySwap dt vi => Sys2Proof.Machine.execDirtySwap dt vi s
  | .dirtySwapComplete dt vi => Sys2Proof.Machine.execDirtySwapComplete dt vi s
  | .bridgeRead dt vi addr len => Sys2Proof.Machine.execBridgeRead dt vi addr len s
  | .bridgeWrite dt vi addr data fault => Sys2Proof.Machine.execBridgeWrite dt vi addr data fault s
  | .flr dt vi => Sys2Proof.Machine.execFlr dt vi s
  | .vfEnableClear dt => Sys2Proof.Machine.execVfEnableClear dt s
  | .perst dt => Sys2Proof.Machine.execPerst dt s
  | .pcieLinkDown dt => Sys2Proof.Machine.execPcieLinkDown dt s
  | .drainTimeout dt vi => Sys2Proof.Machine.execDrainTimeout dt vi s
  | .instanceResetComplete dt vi => Sys2Proof.Machine.execInstanceResetComplete dt vi s
  | .dmaCompletion dt vi tag gen err => Sys2Proof.Machine.execDmaCompletion dt vi tag gen err s
  | .dmaCompletionTimeout dt vi tag => Sys2Proof.Machine.execDmaCompletionTimeout dt vi tag s
  | .rcRegisterRead dt vi off aligned => Sys2Proof.Machine.execRcRegisterRead dt vi off aligned s
  | .registerWrite dt w => Sys2Proof.Machine.execRegisterWrite dt w s
  | .peAdd e d a b => Sys2Proof.Machine.execPeAdd e d a b s
  | .peSub e d a b => Sys2Proof.Machine.execPeSub e d a b s
  | .peAnd e d a b => Sys2Proof.Machine.execPeAnd e d a b s
  | .peOr e d a b => Sys2Proof.Machine.execPeOr e d a b s
  | .peXor e d a b => Sys2Proof.Machine.execPeXor e d a b s
  | .peShl e d a b => Sys2Proof.Machine.execPeShl e d a b s
  | .peShr e d a b => Sys2Proof.Machine.execPeShr e d a b s
  | .peShra e d a b => Sys2Proof.Machine.execPeShra e d a b s
  | .peCmplt e d a b => Sys2Proof.Machine.execPeCmplt e d a b s
  | .peCmpltu e d a b => Sys2Proof.Machine.execPeCmpltu e d a b s
  | .peMul e d a b => Sys2Proof.Machine.execPeMul e d a b s
  | .peMulhs e d a b => Sys2Proof.Machine.execPeMulhs e d a b s
  | .peMulhu e d a b => Sys2Proof.Machine.execPeMulhu e d a b s
  | .peDivs e d a b => Sys2Proof.Machine.execPeDivs e d a b s
  | .peDivu e d a b => Sys2Proof.Machine.execPeDivu e d a b s
  | .peRems e d a b => Sys2Proof.Machine.execPeRems e d a b s
  | .peRemu e d a b => Sys2Proof.Machine.execPeRemu e d a b s
  | .peMin e d a b => Sys2Proof.Machine.execPeMin e d a b s
  | .peMax e d a b => Sys2Proof.Machine.execPeMax e d a b s
  | .peSel e d a b c => Sys2Proof.Machine.execPeSel e d a b c s
  | .peClz e d a => Sys2Proof.Machine.execPeClz e d a s
  | .peShli e d a c => Sys2Proof.Machine.execPeShli e d a c s
  | .peShri e d a c => Sys2Proof.Machine.execPeShri e d a c s
  | .peShrai e d a c => Sys2Proof.Machine.execPeShrai e d a c s
  | .peAdds e d a b => Sys2Proof.Machine.execPeAdds e d a b s
  | .peSubs e d a b => Sys2Proof.Machine.execPeSubs e d a b s
  | .peNegs e d a => Sys2Proof.Machine.execPeNegs e d a s
  | .peAbss e d a => Sys2Proof.Machine.execPeAbss e d a s
  | .peMulq e d a b c => Sys2Proof.Machine.execPeMulq e d a b c s
  | .peShls e d a c => Sys2Proof.Machine.execPeShls e d a c s
  | .peShrr e d a c => Sys2Proof.Machine.execPeShrr e d a c s
  | .peClamp e d a b c => Sys2Proof.Machine.execPeClamp e d a b c s
  | .peFadd e d a b => Sys2Proof.Machine.execPeFadd e d a b s
  | .peFsub e d a b => Sys2Proof.Machine.execPeFsub e d a b s
  | .peFmul e d a b => Sys2Proof.Machine.execPeFmul e d a b s
  | .peFdiv e d a b => Sys2Proof.Machine.execPeFdiv e d a b s
  | .peFma e d a b c => Sys2Proof.Machine.execPeFma e d a b c s
  | .peFnms e d a b c => Sys2Proof.Machine.execPeFnms e d a b c s
  | .peFsqrt e d a => Sys2Proof.Machine.execPeFsqrt e d a s
  | .peFrcp e d a => Sys2Proof.Machine.execPeFrcp e d a s
  | .peFmin e d a b => Sys2Proof.Machine.execPeFmin e d a b s
  | .peFmax e d a b => Sys2Proof.Machine.execPeFmax e d a b s
  | .peFabs e d a => Sys2Proof.Machine.execPeFabs e d a s
  | .peFneg e d a => Sys2Proof.Machine.execPeFneg e d a s
  | .peFeq e d a b => Sys2Proof.Machine.execPeFeq e d a b s
  | .peFlt e d a b => Sys2Proof.Machine.execPeFlt e d a b s
  | .peFle e d a b => Sys2Proof.Machine.execPeFle e d a b s
  | .peFcvtfi e d a => Sys2Proof.Machine.execPeFcvtfi e d a s
  | .peFcvtif e d a => Sys2Proof.Machine.execPeFcvtif e d a s
  | .peQtof e d a c => Sys2Proof.Machine.execPeQtof e d a c s
  | .peFtoq e d a c => Sys2Proof.Machine.execPeFtoq e d a c s
  | .peMac e a b k => Sys2Proof.Machine.execPeMac e a b k s
  | .peMsu e a b k => Sys2Proof.Machine.execPeMsu e a b k s
  | .peAclr e k => Sys2Proof.Machine.execPeAclr e k s
  | .peAld e a b k => Sys2Proof.Machine.execPeAld e a b k s
  | .peArd e d b k => Sys2Proof.Machine.execPeArd e d b k s
  | .peIsqrt e d a => Sys2Proof.Machine.execPeIsqrt e d a s
  | .peMag e d a b => Sys2Proof.Machine.execPeMag e d a b s
  | .peAtan2 e d a b => Sys2Proof.Machine.execPeAtan2 e d a b s
  | .peRecipq e d a c => Sys2Proof.Machine.execPeRecipq e d a c s
  | .pePhasor e d a b c => Sys2Proof.Machine.execPePhasor e d a b c s
  | .peAddk e d a k => Sys2Proof.Machine.execPeAddk e d a k s
  | .peAndk e d a k => Sys2Proof.Machine.execPeAndk e d a k s
  | .peOrk e d a k => Sys2Proof.Machine.execPeOrk e d a k s
  | .peXork e d a k => Sys2Proof.Machine.execPeXork e d a k s
  | .peCmpltk e d a k => Sys2Proof.Machine.execPeCmpltk e d a k s
  | .peAddsk e d a k => Sys2Proof.Machine.execPeAddsk e d a k s
  | .peMovl e d k => Sys2Proof.Machine.execPeMovl e d k s
  | .peMovh e d k => Sys2Proof.Machine.execPeMovh e d k s
  | .peLdW e d a k => Sys2Proof.Machine.execPeLdW e d a k s
  | .peLdH e d a k => Sys2Proof.Machine.execPeLdH e d a k s
  | .peLdHu e d a k => Sys2Proof.Machine.execPeLdHu e d a k s
  | .peLdB e d a k => Sys2Proof.Machine.execPeLdB e d a k s
  | .peLdBu e d a k => Sys2Proof.Machine.execPeLdBu e d a k s
  | .peStW e d a k => Sys2Proof.Machine.execPeStW e d a k s
  | .peStH e d a k => Sys2Proof.Machine.execPeStH e d a k s
  | .peStB e d a k => Sys2Proof.Machine.execPeStB e d a k s
  | .peBrEq e a b k => Sys2Proof.Machine.execPeBrEq e a b k s
  | .peBrNe e a b k => Sys2Proof.Machine.execPeBrNe e a b k s
  | .peBrLt e a b k => Sys2Proof.Machine.execPeBrLt e a b k s
  | .peBrGe e a b k => Sys2Proof.Machine.execPeBrGe e a b k s
  | .peBrLtu e a b k => Sys2Proof.Machine.execPeBrLtu e a b k s
  | .peBrGeu e a b k => Sys2Proof.Machine.execPeBrGeu e a b k s
  | .peGoto e k => Sys2Proof.Machine.execPeGoto e k s
  | .peCall e k => Sys2Proof.Machine.execPeCall e k s
  | .peRet e => Sys2Proof.Machine.execPeRet e s
  | .peGotoi e a => Sys2Proof.Machine.execPeGotoi e a s
  | .peEnd e => Sys2Proof.Machine.execPeEnd e s
  | .peMfs e d => Sys2Proof.Machine.execPeMfs e d s
  | .peMts e a => Sys2Proof.Machine.execPeMts e a s
  | .peTrap e k => Sys2Proof.Machine.execPeTrap e k s
  | .peIllegalEncoding e => Sys2Proof.Machine.execPeIllegalEncoding e s
  | .lsLd e sp ix => Sys2Proof.Machine.execLsLd e sp ix s
  | .lsLdn e sp ix => Sys2Proof.Machine.execLsLdn e sp ix s
  | .lsAnd e sp ix => Sys2Proof.Machine.execLsAnd e sp ix s
  | .lsAndn e sp ix => Sys2Proof.Machine.execLsAndn e sp ix s
  | .lsOr e sp ix => Sys2Proof.Machine.execLsOr e sp ix s
  | .lsOrn e sp ix => Sys2Proof.Machine.execLsOrn e sp ix s
  | .lsXor e sp ix => Sys2Proof.Machine.execLsXor e sp ix s
  | .lsSt e sp ix => Sys2Proof.Machine.execLsSt e sp ix s
  | .lsStn e sp ix => Sys2Proof.Machine.execLsStn e sp ix s
  | .lsSet e sp ix => Sys2Proof.Machine.execLsSet e sp ix s
  | .lsRst e sp ix => Sys2Proof.Machine.execLsRst e sp ix s
  | .lsEdgeRise e ix => Sys2Proof.Machine.execLsEdgeRise e ix s
  | .lsEdgeFall e ix => Sys2Proof.Machine.execLsEdgeFall e ix s
  | .lsTon e n => Sys2Proof.Machine.execLsTon e n s
  | .lsTof e n => Sys2Proof.Machine.execLsTof e n s
  | .lsTp e n => Sys2Proof.Machine.execLsTp e n s
  | .lsCtu e n => Sys2Proof.Machine.execLsCtu e n s
  | .lsCtd e n => Sys2Proof.Machine.execLsCtd e n s
  | .lsCrst e n => Sys2Proof.Machine.execLsCrst e n s
  | .lsCld e n => Sys2Proof.Machine.execLsCld e n s
  | .lsAndOpen e => Sys2Proof.Machine.execLsAndOpen e s
  | .lsAndnOpen e => Sys2Proof.Machine.execLsAndnOpen e s
  | .lsOrOpen e => Sys2Proof.Machine.execLsOrOpen e s
  | .lsOrnOpen e => Sys2Proof.Machine.execLsOrnOpen e s
  | .lsXorOpen e => Sys2Proof.Machine.execLsXorOpen e s
  | .lsClose e => Sys2Proof.Machine.execLsClose e s
  | .lsNot e => Sys2Proof.Machine.execLsNot e s
  | .lsEnd e => Sys2Proof.Machine.execLsEnd e s
  | .lsNop e => Sys2Proof.Machine.execLsNop e s
  | .lsJmp e n => Sys2Proof.Machine.execLsJmp e n s
  | .lsJc e n => Sys2Proof.Machine.execLsJc e n s
  | .lsJnc e n => Sys2Proof.Machine.execLsJnc e n s
  | .lsIllegalEncoding e => Sys2Proof.Machine.execLsIllegalEncoding e s
  | .moduleResetBegin dt b => Sys2Proof.Machine.execModuleResetBegin dt b s
  | .operatingSecond dt vin vaux temps => Sys2Proof.Machine.execOperatingSecond dt vin vaux temps s
  | .vauxRestored dt => Sys2Proof.Machine.execVauxRestored dt s
  | .pdelayResponse dt port t1 t2 t3 t4 corr => Sys2Proof.Machine.execPdelayResponse dt port t1 t2 t3 t4 corr s
  | .linkDelayMeasurement dt port rtt => Sys2Proof.Machine.execLinkDelayMeasurement dt port rtt s
  | .tapReset dt => Sys2Proof.Machine.execTapReset dt s
  | .uartTxComplete dt n => Sys2Proof.Machine.execUartTxComplete dt n s
  | .workerStateReport dt => Sys2Proof.Machine.execWorkerStateReport dt s
  | .managerListenTimeout dt => Sys2Proof.Machine.execManagerListenTimeout dt s
  | .tb2DeltaMeasurement dt => Sys2Proof.Machine.execTb2DeltaMeasurement dt s

end Sys2Proof.Machine
end

