-- ==== Sys2Proof/Safety.lean ====
section
/-! DEFINITION. The terms in which claims are made: a command that passes every check of its card, and how one that does
is done, read or accepted (02 R41, R50, R53). -/
namespace Sys2Proof.Machine

/-- The command as its card takes it: the opcode is the card's. -/
def Card.cmd (k : Card) (c : Cmd) : Cmd := { c with opcode := k.opcode }

/-- The module is command-ready with Zenith RUNNING, the command passes checks 8 to 13 of R41 and the refusals of the whole
module (11 R292, 12 R311), and no worker answers for its instance (03 R92): the card's own part runs. -/
def Card.passes (k : Card) (s : State) (c : Cmd) : Bool :=
  s.zenithUp && s.boot.phase == .ready && k.check s c == none && k.gate s c == none && k.holder s c == none

/-- The state in which a card's own part runs: its records carry the command's INSTANCE as ORIGIN (21 R489). -/
def State.under (s : State) (c : Cmd) : State := { s with origin := c.inst }

/-- No command runs any more. -/
def State.after (s : State) : State := { s with origin := 0xFF }

/-- The standby and the backup manager are told of a command that changed something (12 R311, 13 R337). `s` is the state
before the command. -/
def Card.told (k : Card) (s t : State) (c : Cmd) : State :=
  if k.changes then (t.mirror c (k.absolute s t c)).backupCmd c (k.absolute s t c) else t

/-- From every state in which the command passes its checks and `pre` holds, the command of the row `f` completes with the
reply OK, the results `data`, and the effect `eff` and nothing else beside what the reply and the partner need. -/
def Card.Completes (k : Card) (f : Nat → Cmd → Instr) (pre : State → Cmd → Prop) (eff : State → Cmd → State)
    (data : State → Cmd → Bytes) : Prop :=
  ∀ (dt : Nat) (c : Cmd) (s : State), k.passes (s.advance dt) (k.cmd c) = true → pre (s.advance dt) (k.cmd c) →
    Sys2Proof.Machine.exec (f dt c) s = .next
      ((k.told (s.advance dt) (eff ((s.advance dt).under (k.cmd c)) (k.cmd c)).after (k.cmd c)).reply (k.cmd c) stOk 0
        (data ((s.advance dt).under (k.cmd c)) (k.cmd c)))

/-- From every state in which the command passes its checks and `pre` holds, the command of the row `f` completes with the
reply OK and the results `data`, and changes nothing beside what the reply needs. -/
def Card.Reads (k : Card) (f : Nat → Cmd → Instr) (pre : State → Cmd → Prop) (data : State → Cmd → Bytes) : Prop :=
  ∀ (dt : Nat) (c : Cmd) (s : State), k.passes (s.advance dt) (k.cmd c) = true → pre (s.advance dt) (k.cmd c) →
    Sys2Proof.Machine.exec (f dt c) s = .next ((s.advance dt).after.reply (k.cmd c) stOk 0 (data (s.advance dt) (k.cmd c)))

/-- From every state in which the command passes its checks, `pre` holds and its channel holds fewer than 32 accepted
commands, the command of the row `f` takes the effect `eff` at once, waits for `wait`, and replies ACCEPTED (R53). `committed`
and `result` are what is known then. -/
def Card.Accepts (k : Card) (f : Nat → Cmd → Instr) (pre : State → Cmd → Prop) (eff : State → Cmd → State)
    (wait : State → Cmd → Wait) (committed : Bool) (result : State → Cmd → Option (Nat × Nat × Bytes)) : Prop :=
  ∀ (dt : Nat) (c : Cmd) (s : State), k.passes (s.advance dt) (k.cmd c) = true → pre (s.advance dt) (k.cmd c) →
    (s.advance dt).pendingOn c.chan < 32 →
    Sys2Proof.Machine.exec (f dt c) s = .next
      (let t := (eff ((s.advance dt).under (k.cmd c)) (k.cmd c)).after
       let t := if k.changes && committed then t.mirror (k.cmd c) (k.absolute (s.advance dt) t (k.cmd c)) else t
       let t := if c.chan < 64 && !c.noReply then
           t.setHif c.chan { t.hif c.chan with reserved := (t.hif c.chan).reserved + 1 } else t
       (t.accept (k.cmd c) (wait ((s.advance dt).under (k.cmd c)) (k.cmd c)) committed
         (result ((s.advance dt).under (k.cmd c)) (k.cmd c))).reply (k.cmd c) stAccepted 0)

/-- From every state in which the command passes its checks and `pre` holds, the command of the row `f` takes the effect
`eff` and leaves its reply for later, when `wait` is over. -/
def Card.Defers (k : Card) (f : Nat → Cmd → Instr) (pre : State → Cmd → Prop) (eff : State → Cmd → State)
    (wait : State → Cmd → Wait) : Prop :=
  ∀ (dt : Nat) (c : Cmd) (s : State), k.passes (s.advance dt) (k.cmd c) = true → pre (s.advance dt) (k.cmd c) →
    Sys2Proof.Machine.exec (f dt c) s = .next
      (let t := (eff ((s.advance dt).under (k.cmd c)) (k.cmd c)).after
       let t := if k.changes then t.mirror (k.cmd c) (k.absolute (s.advance dt) t (k.cmd c)) else t
       { t with cmd.accepted := t.cmd.accepted ++
           [{ cmd := k.cmd c, wait := wait ((s.advance dt).under (k.cmd c)) (k.cmd c), committed := true, result := none, quiet := true }] })

/-- From every state in which the command passes its checks and `pre` holds, the command is refused with `status` and
`detail`, and nothing changes beside what the reply needs. -/
def Card.Refuses (k : Card) (f : Nat → Cmd → Instr) (pre : State → Cmd → Prop) (status : Nat) (detail : State → Cmd → Nat) : Prop :=
  ∀ (dt : Nat) (c : Cmd) (s : State), k.passes (s.advance dt) (k.cmd c) = true → pre (s.advance dt) (k.cmd c) →
    Sys2Proof.Machine.exec (f dt c) s = .next ((s.advance dt).reply (k.cmd c) status (detail (s.advance dt) (k.cmd c)))

/-! ### Instructions of PEs and LSs -/

/-- The copy `x` runs on engine `e` and comes to a word of `n` bytes that is `word`, a legal one; its weight `w` stays
within WCIC, and no memory has just failed (06 R177, R181, 11 R295). -/
def State.Ready (s : State) (e : Eng) (n word w : Nat) (x : Exec) : Prop :=
  (s.eng e).phase = .running ∧ (s.eng e).exec = some x ∧ s.fetch e x n = (.ok word, s) ∧
    (if e.ls then lsLegal word else peLegal word) = true ∧ x.ic + w ≤ x.wcic ∧ s.anvil.uncorrAt = []

/-- The copy after a completed instruction: its PC and its ICOUNT. -/
def Exec.past (x : Exec) (w pc : Nat) : Exec := { x with ic := x.ic + w, pc := pc }

/-- Instruction `i` of PE `k`, encoded as `word` with weight `w`, changes the registers by `f` and nothing else but PC and
ICOUNT. -/
def PeDoes (k : Nat) (i : Instr) (word w : Nat) (f : PeRegs → PeRegs) : Prop :=
  ∀ (s : State) (x : Exec), s.Ready (engOfKey false k) 4 word w x →
    Sys2Proof.Machine.exec i s = .next (s.modEng (engOfKey false k) (fun g =>
      { g with pe := f g.pe, exec := some (x.past w (x.pc + 4)) }))

/-- Instruction `i` of PE `k` goes on at `f` of the registers and of the copy, changing the registers by `g` first. -/
def PeJumps (k : Nat) (i : Instr) (word : Nat) (ok : PeRegs → Prop) (f : PeRegs → Exec → Int) (g : PeRegs → Exec → PeRegs) : Prop :=
  ∀ (s : State) (x : Exec), s.Ready (engOfKey false k) 4 word 1 x → ok (s.eng (engOfKey false k)).pe →
    Sys2Proof.Machine.exec i s = .next (s.modEng (engOfKey false k) (fun h =>
      { h with pe := g h.pe x, exec := some (x.past 1 (f h.pe x % 2 ^ 32).toNat) }))

/-- Registers after d takes a result and its flags join STATUS (06 R149). -/
def PeRegs.took (r : PeRegs) (d : Reg) (v : Res) : PeRegs := (r.set d v.1).raise v.2

/-- An exception at the present instruction stops the copy with the record of 06 R180; nothing that the copy can see
changes. -/
def Raises (e : Eng) (i : Instr) (s : State) (x : Exec) (code trap ic detail : Nat) : Prop :=
  ∃ t, Sys2Proof.Machine.exec i s = .next t ∧ (t.eng e).phase = .exception ∧
    (t.eng e).exec = some { x with ic := ic, exc := some (excRecord code trap x.pc ic detail) } ∧
    (t.eng e).mem = (s.eng e).mem ∧ (t.eng e).pe = (s.eng e).pe ∧ (t.eng e).lsr = (s.eng e).lsr

/-- Instruction `i` of LS `k`, encoded as `word`, changes ACC and the stack by `f` and nothing else but PC and ICOUNT. -/
def LsDoes (k : Nat) (i : Instr) (word : Nat) (ok : LsRegs → Exec → Prop) (f : LsRegs → Exec → LsRegs) (pc : LsRegs → Exec → Nat) : Prop :=
  ∀ (s : State) (x : Exec), s.Ready (engOfKey true k) 2 word 1 x → ok (s.eng (engOfKey true k)).lsr x →
    Sys2Proof.Machine.exec i s = .next (s.modEng (engOfKey true k) (fun g =>
      { g with lsr := f g.lsr x, exec := some (x.past 1 (pc g.lsr x)) }))

/-- The engine and copy after a store of `p` at local address `a`, logical address `addr` (06 R158). -/
def State.stored (s : State) (e : Eng) (x : Exec) (w pc a addr : Nat) (p : Bytes) : State :=
  s.modEng e (fun g => { g with
    mem := memWriteN g.mem a p
    exec := some { x with ic := x.ic + w, pc := pc, log := x.log ++ le 4 addr ++ le 1 p.length ++ p } })

/-- Instruction `i` of LS `k` reads `n` bytes at the logical address `addr`, which it may also write, and replaces them and
ACC by `f` of them; `f` gives no bytes where it only reads. -/
def LsUses (k : Nat) (i : Instr) (word addr n : Nat) (f : LsRegs → Exec → State → Bytes → LsRegs × Option Bytes) : Prop :=
  ∀ (s : State) (x : Exec) (a : Nat),
    let e := engOfKey true k
    let p := memReadN (s.eng e).mem a n
    let r := f (s.eng e).lsr x s p
    s.Ready e 2 word 1 x → x.physical .load addr n = some a → s.markedLines (e.base + a) n = [] →
    (r.2 = none ∨ x.physical .store addr n = some a) →
      Sys2Proof.Machine.exec i s = .next
        (let t := s.modEng e (fun g => { g with lsr := r.1 })
         match r.2 with
         | none => t.modEng e (fun g => { g with exec := some (x.past 1 (x.pc + 2)) })
         | some q => t.stored e x 1 (x.pc + 2) a addr q)

/-! ### What every command leaves true -/

/-- Every memory is in its one canonical form: those of the engines, the samples, the captures, the host's. -/
def State.MemoriesCanonical (s : State) : Prop :=
  (∀ x ∈ s.place.pes, Memory.wf x.2.mem = true) ∧ (∀ x ∈ s.place.lss, Memory.wf x.2.mem = true) ∧
  Memory.wf s.place.samples = true ∧ Memory.wf s.cap.store = true ∧ Memory.wf s.host.mem = true

/-- An EMPTY or ZEROISED key slot holds no key word, no mask and no TAG (20 R468, R479). -/
def State.NoKeyLeft (s : State) : Prop :=
  ∀ n, (s.slot n).st = .empty ∨ (s.slot n).st = .zeroised → (s.slot n).word = 0 ∧ (s.slot n).mask = 0 ∧ (s.slot n).tag = 0

/-- The invariant of the block: canonical memories; an event queue within its 1 024 places (01 R30); a derived-key cache within its
1 024 entries that holds keys of VALID slots only (20 R475); no key in a slot that is EMPTY or ZEROISED. -/
def State.Kept (s : State) : Prop :=
  s.MemoriesCanonical ∧ s.recorder.queue.length ≤ 1024 ∧ s.keys.cache.length ≤ 1024 ∧ s.NoKeyLeft ∧
  ∀ e ∈ s.keys.cache, (s.slot e.slot).st = .valid

/-! ### The opcodes and their rows -/

/-- Family 0x01: each card with its row. -/
def rowsSystem : List (Card × (Nat → Cmd → Instr)) := [
  (cardGetIdentity, .getIdentity), (cardGetStatus, .getStatus), (cardReset, .reset),
  (cardGetFirmwareInfo, .getFirmwareInfo), (cardEcho, .echo), (cardGetZenithLoad, .getZenithLoad),
  (cardSetChannel, .setChannel), (cardWriteFirmware, .writeFirmware), (cardSelectImage, .selectImage),
  (cardConfirmImage, .confirmImage), (cardGetBootReport, .getBootReport)]

/-- Family 0x02: each card with its row. -/
def rowsPlacement : List (Card × (Nat → Cmd → Instr)) := [
  (cardDeclareInstance, .declareInstance), (cardRemoveInstance, .removeInstance), (cardPlace, .place),
  (cardGetPlacement, .getPlacement), (cardGetEngine, .getEngine), (cardSetPlacementLimits, .setPlacementLimits),
  (cardGetPlacementLimits, .getPlacementLimits), (cardGetCluster, .getCluster)]

/-- Family 0x03: each card with its row. -/
def rowsProgram : List (Card × (Nat → Cmd → Instr)) := [
  (cardLoadImage, .loadImage), (cardFreeImage, .freeImage), (cardBindSignals, .bindSignals),
  (cardStartInstance, .startInstance), (cardStopInstance, .stopInstance), (cardWriteSettings, .writeSettings),
  (cardStageChange, .stageChange), (cardSwitchChange, .switchChange), (cardCancelChange, .cancelChange),
  (cardGetRunState, .getRunState), (cardGetChange, .getChange)]

/-- Family 0x04: each card with its row. -/
def rowsIngest : List (Card × (Nat → Cmd → Instr)) := [
  (cardDefineStream, .defineStream), (cardRemoveStream, .removeStream), (cardEnableStream, .enableStream),
  (cardSetAlignment, .setAlignment), (cardGetStream, .getStream), (cardGetIngestTotals, .getIngestTotals),
  (cardGetChannel, .getChannel)]

/-- Family 0x05: each card with its row. -/
def rowsFilter : List (Card × (Nat → Cmd → Instr)) := [
  (cardLoadBank, .loadBank), (cardReadBank, .readBank), (cardFreeBank, .freeBank), (cardSetChain, .setChain),
  (cardGetChain, .getChain), (cardSyncDecimators, .syncDecimators), (cardSetDetector, .setDetector),
  (cardGetDetectors, .getDetectors)]

/-- Family 0x06: each card with its row. -/
def rowsPublish : List (Card × (Nat → Cmd → Instr)) := [
  (cardBindOutputs, .bindOutputs), (cardDefinePublication, .definePublication),
  (cardRemovePublication, .removePublication), (cardEnablePublication, .enablePublication),
  (cardSetRoute, .setRoute), (cardGetPublication, .getPublication), (cardDefineSubscription, .defineSubscription),
  (cardRemoveSubscription, .removeSubscription), (cardEnableSubscription, .enableSubscription),
  (cardGetSubscription, .getSubscription), (cardGetSignal, .getSignal)]

/-- Family 0x07: each card with its row. -/
def rowsCapture : List (Card × (Nat → Cmd → Instr)) := [
  (cardDefineRecorder, .defineRecorder), (cardRemoveRecorder, .removeRecorder), (cardSetTrigger, .setTrigger),
  (cardLoadMask, .loadMask), (cardArmRecorder, .armRecorder), (cardForceTrigger, .forceTrigger),
  (cardGetRecorder, .getRecorder), (cardListSegments, .listSegments), (cardReadSegment, .readSegment),
  (cardReleaseSegment, .releaseSegment), (cardGetCaptureTotals, .getCaptureTotals)]

/-- Family 0x08: each card with its row. -/
def rowsAnvil : List (Card × (Nat → Cmd → Instr)) := [
  (cardGetAnvilStatus, .getAnvilStatus), (cardGetContainment, .getContainment),
  (cardGetMemoryHealth, .getMemoryHealth), (cardSetSelfTest, .setSelfTest), (cardInjectFault, .injectFault),
  (cardSetPair, .setPair), (cardGetPairStatus, .getPairStatus), (cardSwitchover, .switchover),
  (cardResync, .resync)]

/-- Family 0x09: each card with its row. -/
def rowsStratus : List (Card × (Nat → Cmd → Instr)) := [
  (cardSetStratus, .setStratus), (cardLoadSchedule, .loadSchedule), (cardActivateSchedule, .activateSchedule),
  (cardBindReceive, .bindReceive), (cardGetStratusStatus, .getStratusStatus), (cardGetSlot, .getSlot),
  (cardGetSync, .getSync), (cardHandoverManager, .handoverManager), (cardGetNodes, .getNodes)]

/-- Family 0x0A: each card with its row. -/
def rowsTime : List (Card × (Nat → Cmd → Instr)) := [
  (cardSetPtp, .setPtp), (cardGetPtpStatus, .getPtpStatus), (cardSetPortTiming, .setPortTiming),
  (cardSelectTime, .selectTime), (cardGetTime, .getTime), (cardSetPulse, .setPulse),
  (cardSetCaptureInput, .setCaptureInput), (cardReadCaptures, .readCaptures), (cardSetUtc, .setUtc),
  (cardStepProtectionTime, .stepProtectionTime)]

/-- Family 0x0B: each card with its row. -/
def rowsClock : List (Card × (Nat → Cmd → Instr)) := [
  (cardSetClockSources, .setClockSources), (cardGetClockStatus, .getClockStatus), (cardGetPllStatus, .getPllStatus),
  (cardSetPower, .setPower), (cardGetPowerStatus, .getPowerStatus)]

/-- Family 0x0C: each card with its row. -/
def rowsSwitch : List (Card × (Nat → Cmd → Instr)) := [
  (cardSetVlan, .setVlan), (cardSetFdbEntry, .setFdbEntry), (cardGetFdb, .getFdb),
  (cardSetPortSwitch, .setPortSwitch), (cardSetSwitch, .setSwitch), (cardSetQueue, .setQueue),
  (cardSetPolicer, .setPolicer), (cardSetGateList, .setGateList), (cardSetRedundancy, .setRedundancy),
  (cardGetRedundancyStatus, .getRedundancyStatus), (cardGetBufferStatus, .getBufferStatus),
  (cardGetQueueCounters, .getQueueCounters), (cardGetSwitchCounters, .getSwitchCounters), (cardSetPort, .setPort),
  (cardGetPortStatus, .getPortStatus), (cardGetPortCounters, .getPortCounters), (cardI2cTransfer, .i2cTransfer)]

/-- Family 0x0D: each card with its row. -/
def rowsHost : List (Card × (Nat → Cmd → Instr)) := [
  (cardSetInstanceResources, .setInstanceResources), (cardGetInstance, .getInstance), (cardSetWindow, .setWindow),
  (cardGetWindow, .getWindow), (cardResetInstance, .resetInstance), (cardGetHostCounters, .getHostCounters)]

/-- Family 0x0E: each card with its row. -/
def rowsInterrupt : List (Card × (Nat → Cmd → Instr)) := [
  (cardSetSource, .setSource), (cardGetSource, .getSource), (cardUnmaskSource, .unmaskSource),
  (cardListMasked, .listMasked)]

/-- Family 0x0F: each card with its row. -/
def rowsKey : List (Card × (Nat → Cmd → Instr)) := [
  (cardWriteKey, .writeKey), (cardEraseKey, .eraseKey), (cardGetKeyInfo, .getKeyInfo), (cardListKeys, .listKeys),
  (cardVerifyKey, .verifyKey), (cardAckTamper, .ackTamper), (cardGetHaloStatus, .getHaloStatus)]

/-- Family 0x10: each card with its row. -/
def rowsRecorder : List (Card × (Nat → Cmd → Instr)) := [
  (cardGetRecorderStatus, .getRecorderStatus), (cardReadRecords, .readRecords), (cardGetClearNonce, .getClearNonce),
  (cardClearRecorder, .clearRecorder), (cardReadCounters, .readCounters), (cardPostRecord, .postRecord),
  (cardGetChipletIdentity, .getChipletIdentity), (cardReadHistogram, .readHistogram)]

/-- Family 0x11: each card with its row. -/
def rowsSerial : List (Card × (Nat → Cmd → Instr)) := [
  (cardSetUart, .setUart), (cardUartWrite, .uartWrite), (cardUartRead, .uartRead),
  (cardGetUartStatus, .getUartStatus), (cardSetBinaryInput, .setBinaryInput),
  (cardSetBinaryOutput, .setBinaryOutput), (cardGetBinaryIo, .getBinaryIo)]

/-- Every defined opcode (02 R55): its card and its row. -/
def cardRows : List (Card × (Nat → Cmd → Instr)) :=
  rowsSystem ++ rowsPlacement ++ rowsProgram ++ rowsIngest ++ rowsFilter ++ rowsPublish ++ rowsCapture ++ rowsAnvil ++ rowsStratus ++
    rowsTime ++ rowsClock ++ rowsSwitch ++ rowsHost ++ rowsInterrupt ++ rowsKey ++ rowsRecorder ++ rowsSerial

end Sys2Proof.Machine
end

