-- ==== Sys2Proof/Certificates/Slice0/Obligations.lean ====
section
/-! DEFINITION. The statements for the provers. Each says what a command, a family of commands or the machine does, in the
terms of Safety.lean; NOTES.md tells which rest on a choice of the model. -/
open Sys2Proof Sys2Proof.Machine

/-- For every command c, every queue rest and every state s whose queue is c followed by rest, step of s is exec of c
on s with the queue rest. That the waiting commands form a queue is the model's (log entry 3). -/
def Obligations.StepRunsFrontCommand : Prop :=
  ∀ (c : Instr) (rest : List Instr) (s : State), step { s with pending := c :: rest } = exec c { s with pending := rest }

/-- For every state whose queue is empty, a step answers a next state; only Horizon's bases change. With VIN present
and VAUX present, TB0, TB1 and TB2 each grow by one period at their rate and TB3 by one period at rate 0, modulo 2^104
units of 2^-40 ns. That an idle step is one period is the model's (log entry 3). -/
def Obligations.IdleStepPassesOnePeriod : Prop :=
  ∀ (s : State), s.pending = [] → ∃ t, step s = .next t ∧ t = { s with horizon := t.horizon } ∧
    (s.power.supply ≠ .off → s.power.vaux = true →
      t.horizon.tb0.value = (s.horizon.tb0.value + hInc s.horizon.tb0.rate) % 2 ^ 104 ∧
      t.horizon.tb1.value = (s.horizon.tb1.value + hInc s.horizon.tb1.rate) % 2 ^ 104 ∧
      t.horizon.tb2 = (s.horizon.tb2 + hInc s.horizon.tb2Rate) % 2 ^ 104 ∧
      t.horizon.tb3 = (s.horizon.tb3 + hInc 0) % 2 ^ 104) ∧
    (s.power.supply = .off → t.horizon = { s.horizon with tb3 := t.horizon.tb3 })

/-- For every command and every state, exec answers a next state. Behaviour level BL1 leaves nothing implementation-
defined, and no row of the table is refused. -/
def Obligations.EveryCommandAnswersNext : Prop :=
  ∀ (c : Instr) (s : State), ∃ t, exec c s = .next t

/-- Checks 8 to 13 of R41, for each of the 149 opcodes: the first that fails gives the reply, and nothing but the
reply changes. `cmd.after` is none between commands. -/
def Obligations.FirstFailingCheckDecides : Prop :=
  ∀ kf ∈ cardRows, ∀ (dt : Nat) (c : Cmd) (s : State),
    let k := kf.1
    let s1 := s.advance dt
    let d := k.cmd c
    let flagsOk := c.flags / 8 = 0 ∧ (c.urgent = true → k.urgent = true)
    let notBusy := s.cmd.busy = false ∨ c.urgent = true
    s1.zenithUp = true → s.boot.phase = .ready → s.cmd.after = none → c.own = true → c.flags < 256 →
      (¬ flagsOk → exec (kf.2 dt c) s = .next (s1.reply d stBadFlags 0)) ∧
      (flagsOk → ¬ notBusy →
        exec (kf.2 dt c) s = .next (s1.reply d stBusyRetry (10 * 2 ^ min (s.chan c.chan).busyK 6))) ∧
      (flagsOk → notBusy → k.level = .m → c.inst ≠ 0 → exec (kf.2 dt c) s = .next (s1.reply d stPrivilege 1)) ∧
      (flagsOk → notBusy → k.level = .o → c.inst ≠ 0 →
        (c.inst ≥ 64 ∨ ∃ o, k.owner s1 c.params = some o ∧ o ≠ c.inst) →
        exec (kf.2 dt c) s = .next (s1.reply d stPrivilege 2)) ∧
      (flagsOk → notBusy → k.allowed s1 d = true → ∀ n, k.len.bad d = some n →
        exec (kf.2 dt c) s = .next (s1.reply d stBadLength n)) ∧
      (flagsOk → notBusy → k.allowed s1 d = true → k.len.bad d = none → k.most s1 d > c.replyLimit →
        exec (kf.2 dt c) s = .next (s1.reply d stBadLength c.replyLimit)) ∧
      (flagsOk → notBusy → k.allowed s1 d = true → k.len.bad d = none → k.most s1 d ≤ c.replyLimit →
        ∀ n, k.reserved c.params = some n → exec (kf.2 dt c) s = .next (s1.reply d stBadReserved n)) ∧
      (flagsOk → notBusy → k.allowed s1 d = true → k.len.bad d = none → k.most s1 d ≤ c.replyLimit →
        k.reserved c.params = none → ∀ n, k.params s1 d = some n →
        exec (kf.2 dt c) s = .next (s1.reply d stBadParameter n))

/-- For every command whose header fields fit, every status and detail of 16 bits and results of at most 1 018 words,
the packet of the reply has OPCODE, INSTANCE, TAG and SEQUENCE of the command, FLAGS bit REPLY set and COMPLETION
exactly for a report, LENGTH one word more than the results, STATUS and DETAIL in word 0 and the results from offset
0x04 of the parameters; TRAILER is set, and the packet is 4 bytes longer, always on UART0 and Ethernet and on a PCIe
ring exactly when the command carried one. -/
def Obligations.ReplyPacketLayout : Prop :=
  ∀ (c : Cmd) (completion : Bool) (status detail : Nat) (data : Bytes),
    c.wf = true → c.own = true → status < 2 ^ 16 → detail < 2 ^ 16 → data.length ≤ 4072 →
      let b := replyPacket c completion status detail data
      let words := 1 + (data.length + 3) / 4
      let trailer := decide (c.chan = 64) || decide (c.chan = 65) || c.trailer
      u16 b 0 = c.opcode ∧ byteAt b 3 = c.inst ∧ u16 b 4 = c.tag ∧ u32 b 8 = c.seq ∧
      u16 b 6 = words ∧ b.length = 16 + 4 * words + (if trailer then 4 else 0) ∧
      bit (byteAt b 2) 3 = true ∧ bit (byteAt b 2) 4 = completion ∧ bit (byteAt b 2) 2 = trailer ∧
      byteAt b 2 % 4 = 0 ∧ byteAt b 2 / 32 = 0 ∧
      u16 b 16 = status ∧ u16 b 18 = detail ∧ slice b 20 data.length = data

/-- For every command of one of the module's own channels and every reply to it, in every state: every part of the
state is unchanged except the channel records, the count of BUSY_RETRY replies, what has left the module, the host
side (interfaces, translation and host memory) and the interrupt events that wait. The record of every other channel
is unchanged, and on UART0 and Ethernet so are the host side and the interrupt events. -/
def Obligations.CompletingReplyFrame : Prop :=
  ∀ (s : State) (c : Cmd) (status detail : Nat) (data : Bytes), c.own = true →
    let t := s.reply c status detail data
    t = { s with cmd.channels := t.cmd.channels, cmd.busyReplies := t.cmd.busyReplies, sent := t.sent, host := t.host,
                 icu.inbox := t.icu.inbox } ∧
    (∀ n, n ≠ c.chan → t.chan n = s.chan n) ∧ (c.chan ≥ 64 → t.host = s.host ∧ t.icu = s.icu)

/-- For every state and every packet that passes its checks: GET_IDENTITY, GET_FIRMWARE_INFO, ECHO, GET_ZENITH_LOAD
and GET_BOOT_REPORT reply OK with the fields of their cards and change nothing; GET_STATUS does so and takes note of
the events lost; RESET of type MODULE (unless the module protects and FORCE is 0) and SET_CHANNEL (on a port that is
no Stratus or pair-link port) reply OK first and act then: the reset is due from that instant, the channel takes its
settings; SELECT_IMAGE of a VALID image makes it the next, CONFIRM_IMAGE ends the trial of the running image. For
every state and every packet that passes its checks, outside a supply WARNING: WRITE_FIRMWARE to a slot that is not
running stores its chunk (the first one erasing the slot) and replies OK while bytes are missing; the completing chunk
replies ACCEPTED, its completion OK with the slot VALID and FIRMWARE_UPDATES one more when the container is valid,
INTEGRITY 2 when it is not, VERSION_LEVEL when MIN_ROM is above the ROM version, the slot staying INVALID.
SELECT_IMAGE of a VALID slot makes it NEXT with the flags of its mode; CONFIRM_IMAGE of the running trial image clears
both flags; GET_BOOT_REPORT returns the report of the last boot. Each is refused WRONG_STATE with 0x0010, 0x0013,
0x0011 or 0x0012 otherwise. -/
def Obligations.SystemCommandsComplete : Prop :=
  (
  cardGetIdentity.Reads .getIdentity (fun _ _ => True) (fun s _ =>
    le 8 Config.serial.toNat ++ (List.finRange 8).map Config.lot ++ orderCode ++ [Config.stepLetter, Config.stepDigit] ++
      [1] ++ le 1 s.boot.role ++ le 1 s.pairRole ++ le 1 s.ownNode ++ zeros 2) ∧
  cardGetStatus.Completes .getStatus (fun _ _ => True) (fun s _ => { s with cmd.lostAtStatus := s.recorder.lostUp })
    (fun s _ => le 1 s.moduleState ++ [0] ++ le 2 s.summary ++ le 4 s.cmd.restarts ++
      le 2 ((allEngs false).filter (fun e => (s.eng e).st == .inService && (s.copiesOnOrdered e).isEmpty)).length ++
      le 2 s.sparesLeft ++ le 2 (s.place.insts.filter (fun e => e.2.isPlaced)).length ++ zeros 2 ++ le 4 (s.life 0x000) ++
      le 3 (s.life 0x001) ++ [0]) ∧
  cardGetFirmwareInfo.Reads .getFirmwareInfo (fun _ _ => True) (fun s _ =>
    [if s.boot.running then 1 else 0, if s.boot.record.next then 1 else 0,
      if s.boot.slotA.empty then 0 else if s.boot.slotA.valid then 1 else 2,
      if s.boot.slotB.empty then 0 else if s.boot.slotB.valid then 1 else 2] ++
      le 4 s.boot.slotA.version ++ le 4 s.boot.slotB.version ++ le 1 s.level ++ [Config.romVersion] ++ zeros 2) ∧
  cardEcho.Reads .echo (fun _ _ => True) (fun _ c => c.params) ∧
  cardGetZenithLoad.Reads .getZenithLoad (fun _ _ => True) (fun s _ =>
    le 2 s.cmd.load ++ [if s.cmd.busy then 1 else 0, 0] ++ le 4 (s.life 0x005) ++ le 4 s.cmd.busyReplies ++
      (List.range 16).flatMap (fun b => le 8 (s.life (binId 0 b)))) ∧
  (∀ (dt : Nat) (c : Cmd) (s : State),
    let s1 := s.advance dt
    let d := cardReset.cmd c
    cardReset.passes s1 d = true → byteAt c.params 0 = 2 → (bit (byteAt c.params 1) 0 = true ∨ s1.moduleState ≠ 2) →
      exec (.reset dt c) s = .next
        { ({ s1 with cmd.after := some d }.after.reply d stOk 0) with
          cmd.after := none,
          cmd.resetDue := some (({ s1 with cmd.after := some d }.after.reply d stOk 0).tb3, bit (byteAt c.params 1) 0) }) ∧
  (∀ (dt : Nat) (c : Cmd) (s : State),
    let s1 := s.advance dt
    let d := cardSetChannel.cmd c
    cardSetChannel.passes s1 d = true → (byteAt c.params 0 = 1 → s1.linkPort (u16 c.params 4) = false) →
      exec (.setChannel dt c) s = .next
        (State.applyChannel { ({ s1 with cmd.after := some d }.after.reply d stOk 0) with cmd.after := none } d))) ∧
  (
  (let image (c : Cmd) : Bool := byteAt c.params 0 == 1
   let stored (s : State) (c : Cmd) : State := s.storeChunk (image c) (u32 c.params 8) (u32 c.params 4) (c.params.drop 12)
   let slot (s : State) (c : Cmd) : FwSlot := (stored s c).boot.slot (image c)
   let bytes (s : State) (c : Cmd) : Bytes := memReadN (slot s c).chunks 0 (slot s c).total
   let passed (s : State) (c : Cmd) : FwSlot :=
      { slot s c with valid := true, version := u32 (bytes s c) 4, level := byteAt (bytes s c) 8 }
   let free (s : State) (c : Cmd) : Prop := s.runs (image c) = false ∧ s.power.supply ≠ .warning
   cardWriteFirmware.Completes .writeFirmware (fun s c => free s c ∧ (slot s c).writing = true) stored (fun _ _ => []) ∧
   cardWriteFirmware.Accepts .writeFirmware
      (fun s c => free s c ∧ (slot s c).writing = false ∧ fwVerdict (bytes s c) = 0)
      (fun s c => { stored s c with boot := (stored s c).boot.setSlot (image c) (passed s c) }.bump 0x010)
      (fun _ _ => .firmware) true (fun _ _ => some (0, 0, [])) ∧
   cardWriteFirmware.Accepts .writeFirmware
      (fun s c => free s c ∧ (slot s c).writing = false ∧ fwVerdict (bytes s c) = 1) stored
      (fun _ _ => .firmware) true (fun _ _ => some (0x0501, 2, [])) ∧
   cardWriteFirmware.Accepts .writeFirmware
      (fun s c => free s c ∧ (slot s c).writing = false ∧ 2 ≤ fwVerdict (bytes s c)) stored
      (fun _ _ => .firmware) true (fun s _ => some (0x0700, s.level, [])) ∧
   cardWriteFirmware.Refuses .writeFirmware (fun s c => s.runs (image c) = true) 0x0300 (fun _ _ => 0x10) ∧
   cardWriteFirmware.Refuses .writeFirmware (fun s c => s.runs (image c) = false ∧ s.power.supply = .warning) 0x0300
      (fun _ _ => 0x13) ∧
   cardSelectImage.Completes .selectImage (fun s c => (s.boot.slot (image c)).valid = true)
      (fun s c => { s with boot := s.boot.setRecord { next := image c, trial := byteAt c.params 1 == 1, started := false } })
      (fun _ _ => []) ∧
   cardSelectImage.Refuses .selectImage (fun s c => (s.boot.slot (image c)).valid = false) 0x0300 (fun _ _ => 0x11)) ∧
  cardConfirmImage.Completes .confirmImage (fun s _ => s.boot.record.trial = true ∧ s.runs s.boot.record.next = true)
    (fun s _ => { s with boot := s.boot.setRecord { next := s.boot.record.next, trial := false, started := false } })
    (fun _ _ => []) ∧
  cardConfirmImage.Refuses .confirmImage (fun s _ => s.boot.record.trial = false ∨ s.runs s.boot.record.next = false) 0x0300
    (fun _ _ => 0x12) ∧
  cardGetBootReport.Reads .getBootReport (fun _ _ => True) (fun s _ =>
    let b := s.boot
    le 1 b.cause ++ le 1 (boolNat b.reverted + 2 * boolNat b.fallback + 4 * boolNat b.strapRes + 8 * boolNat b.recovery) ++
      le 1 b.straps ++ le 1 b.fatal ++ le 2 b.peRepaired ++ le 2 b.peFailed ++ le 1 b.lsFailed ++ le 1 b.cmpFailed ++ zeros 2 ++
      le 4 b.rows ++ le 2 b.msAuth ++ le 2 b.msReady ++ le 4 b.msSelf))

/-- For every state in which Zenith is RUNNING: a RESET of type ZENITH that passes its checks, and a watchdog expiry
of a core 0 to 3 on a command-ready module that is not the third within 60 s, lead to RESTARTING; ZENITH_RESTARTS
grows by one (saturating), every channel's queue is empty, and of the accepted commands exactly those past their
commit point stay. A watchdog expiry that is the third within 60 s, or that comes while RESTARTING, leads to
MANAGEMENT_LOST with every queue empty and no accepted command left. ZENITH_RECOVERED ends RESTARTING and no other
state, with load history empty. -/
def Obligations.ZenithRestartAnswers : Prop :=
  (∀ (dt : Nat) (c : Cmd) (s : State),
    let s1 := s.advance dt
    let d := cardReset.cmd c
    cardReset.passes s1 d = true → c.own = true → byteAt c.params 0 = 1 →
      ∃ t, exec (.reset dt c) s = .next t ∧ t.cmd.mgmt = .restarting ∧ t.cmd.restarts = inc32 s.cmd.restarts ∧
        (∀ n, (t.chan n).queue = []) ∧ t.cmd.accepted = s.cmd.accepted.filter (·.committed)) ∧
  (∀ (dt core : Nat) (s : State),
    let s1 := s.advance dt
    let recent := s.cmd.expiries.filter (fun x => decide (tDiff s1.tb3 x < 60000000000 * 2 ^ 40))
    s.boot.phase = .ready → core < 4 → s.cmd.mgmt = .running → recent.length < 2 →
      ∃ t, exec (.watchdogExpiry dt core) s = .next t ∧ t.cmd.mgmt = .restarting ∧
        t.cmd.restarts = inc32 s.cmd.restarts ∧ t.cmd.expiries = recent ++ [s1.tb3] ∧
        (∀ n, (t.chan n).queue = []) ∧ t.cmd.accepted = s.cmd.accepted.filter (·.committed)) ∧
  (∀ (dt core : Nat) (s : State),
    let s1 := s.advance dt
    let recent := s.cmd.expiries.filter (fun x => decide (tDiff s1.tb3 x < 60000000000 * 2 ^ 40))
    s.boot.phase = .ready → core < 4 → (s.cmd.mgmt = .running ∧ recent.length ≥ 2 ∨ s.cmd.mgmt = .restarting) →
      ∃ t, exec (.watchdogExpiry dt core) s = .next t ∧ t.cmd.mgmt = .lost ∧
        (∀ n, (t.chan n).queue = []) ∧ t.cmd.accepted = []) ∧
  (∀ (dt : Nat) (s : State), s.cmd.mgmt = .restarting →
      ∃ t, exec (.zenithRecovered dt) s = .next t ∧ t.cmd.mgmt = .running ∧ t.cmd.load = 0 ∧ t.cmd.busy = false) ∧
  (∀ (dt : Nat) (s : State), s.cmd.mgmt ≠ .restarting → exec (.zenithRecovered dt) s = .next (s.advance dt))

/-- For every state with Zenith RUNNING and every packet on an open channel (a ring also enabled): if its HCRC is
right, its size and trailer are, its INSTANCE is the channel's binding, its SEQUENCE is new (the first since the
channel was bound, or above the last accepted by signed 32-bit difference) and an entry of its kind is free,
PACKET_ARRIVAL puts it at the end of the channel's queue with the next arrival number, makes it the last packet
accepted, leaves its reply unsent and counts a gap exactly when the difference is above 1. A packet whose HCRC is
wrong only adds one to the channel's header errors (and to the ring's). A command frame on the management channel's
port with subtype and version 0x01 arrives the same way; one with another subtype or version is dropped and counted.
For every state in which Zenith can execute: if some queue holds an URGENT packet that arrived before every other
URGENT packet queued, COMMAND_START takes it from its queue and executes its opcode; if no URGENT packet waits, it
takes the oldest packet of the first channel, from the one next in turn on, that has a packet and no command without
its reply, and the turn passes to the channel after it. What the command does is what runOpcode does, which for a
defined opcode is its card (02 R41). -/
def Obligations.PacketsQueueAndStartInOrder : Prop :=
  (
  (∀ (dt chan : Nat) (pkt : Bytes) (replyTo replyBytes index user : Nat) (s : State),
    let s1 := s.advance dt
    let v : Via := { replyTo := replyTo, replyBytes := replyBytes, index := index, user := user }
    let ch := s1.chan chan
    let c := s1.parsed chan v pkt
    let diff := ch.last.map (fun h => sdiff 32 c.seq (u32 h 8))
    s1.channelOpen chan = true → chan ≤ 65 → (chan < 64 → (s1.hif chan).enable = true) → s.cmd.mgmt = .running →
    16 ≤ pkt.length → crc16 (pkt.take 14) = u16 pkt 14 → badPacket chan pkt = none → c.inst = ch.binding →
    (∀ x, diff = some x → x > 0) → ch.room c.urgent = true →
      ∃ t, exec (.packetArrival dt chan pkt replyTo replyBytes index user) s = .next t ∧
        (t.chan chan).queue = ch.queue ++ [{ arrival := s.cmd.arrivals, urgent := c.urgent, cmd := c }] ∧
        (t.chan chan).last = some (pkt.take 14) ∧ (t.chan chan).reply = .unsent ∧
        (t.chan chan).gaps = (if ∃ x, diff = some x ∧ x > 1 then inc32 ch.gaps else ch.gaps) ∧
        t.cmd.arrivals = s.cmd.arrivals + 1 ∧ (∀ n, n ≠ chan → t.chan n = s.chan n)) ∧
  (∀ (dt chan : Nat) (pkt : Bytes) (replyTo replyBytes index user : Nat) (s : State),
    let s1 := s.advance dt
    s1.channelOpen chan = true → 64 ≤ chan → chan ≤ 65 → crc16 (pkt.take 14) ≠ u16 pkt 14 →
      exec (.packetArrival dt chan pkt replyTo replyBytes index user) s = .next
        (s1.setChan chan { s1.chan chan with hdrErrs := inc32 (s1.chan chan).hdrErrs })) ∧
  (∀ (dt port : Nat) (frame : Bytes) (s : State),
    let s1 := s.advance dt
    let e := ethParse frame
    s1.channelOpen 65 = true → s1.portUp port = true → s1.mgmtMatches port e = true →
      (byteAt e.payload 0 = 1 → byteAt e.payload 1 = 1 →
        exec (.mgmtEthernetFrame dt port frame) s = exec (.packetArrival 0 65 (e.payload.drop 4) e.src 0 0 0) s1) ∧
      (byteAt e.payload 0 ≠ 1 ∨ byteAt e.payload 1 ≠ 1 →
        exec (.mgmtEthernetFrame dt port frame) s = .next
          (s1.setChan 65 { s1.chan 65 with dropped := inc32 (s1.chan 65).dropped })))) ∧
  (
  (∀ (dt : Nat) (s : State) (q : Queued), s.zenithUp = true → q.urgent = true →
    (∃ e ∈ s.cmd.channels, q ∈ e.2.queue) →
    (∀ e ∈ s.cmd.channels, ∀ x ∈ e.2.queue, x.urgent = true → x = q ∨ q.arrival < x.arrival) →
      exec (.commandStart dt) s = .next ((((s.advance dt).dequeue q).runOpcode q.cmd.opcode q.cmd).afterReply)) ∧
  (∀ (dt : Nat) (s : State) (i : Nat) (q : Queued) (rest : List Queued),
    let n := (s.cmd.rrNext + i) % 66
    s.zenithUp = true → (∀ e ∈ s.cmd.channels, ∀ x ∈ e.2.queue, x.urgent = false) → i < 66 →
    (∀ j, j < i → (s.chan ((s.cmd.rrNext + j) % 66)).queue = [] ∨ s.unanswered ((s.cmd.rrNext + j) % 66) = true) →
    s.unanswered n = false → (s.chan n).queue = q :: rest → q.urgent = false → q.cmd.chan = n →
      exec (.commandStart dt) s = .next
        ((State.runOpcode q.cmd.opcode { ((s.advance dt).dequeue q) with cmd.rrNext := (n + 1) % 66 } q.cmd).afterReply)) ∧
  (∀ kf ∈ cardRows, ∀ (s : State) (c : Cmd), c.chan ≤ 65 → State.runOpcode kf.1.opcode s c = kf.1.exec s (kf.1.cmd c)))

/-- For every state in which Zenith can execute and every load of at most 10 000 (units of 0.01 %): ZENITH_LOAD_UPDATE
stores the load; the module is BUSY afterwards exactly when the load exceeds 7 500, or it was BUSY and the load
exceeds 7 000. Every tenth update ends a 10 ms window, which adds one to histogram bin min(15, load x 16 / 10 000) and
changes nothing else. -/
def Obligations.LoadDecidesBusy : Prop :=
  ∀ (dt load : Nat) (s : State), s.zenithUp = true → load ≤ 10000 →
    let busy := decide (load > 7500 ∨ (s.cmd.busy = true ∧ load > 7000))
    let s1 := { s.advance dt with cmd.load := load, cmd.busy := busy }
    exec (.zenithLoadUpdate dt load) s = .next
      (if s.cmd.loadUpdates < 9 then { s1 with cmd.loadUpdates := s.cmd.loadUpdates + 1 }
       else { s1 with cmd.loadUpdates := 0 }.bump (0x400 + min 15 (load * 16 / 10000)))

/-- For every state in which Zenith can execute, with no schedule activation and no switchover under way, and every
accepted command of a module's own channel whose outcome is known, that is neither a PLACE nor a READ_SEGMENT (whose
completion also frees what they hold), and that either passed its commit point or did not end OK: COMMAND_COMPLETION
takes it from the accepted commands and sends its final status, DETAIL and results, as a completion report where it
had replied ACCEPTED and as its reply where its reply was deferred; nothing else changes. Where no accepted command
has that channel and SEQUENCE, nothing happens. -/
def Obligations.CompletionReportEndsCommand : Prop :=
  ∀ (dt chan seq : Nat) (s : State),
    let s1 := s.advance dt
    s.zenithUp = true → s.stratus.activation = none → s.pair.switchTick = none →
    (∀ (a : Accepted) (status detail : Nat) (data : Bytes),
      s.cmd.accepted.find? (fun x => x.cmd.chan == chan && x.cmd.seq == seq) = some a → a.result = some (status, detail, data) →
      a.wait ≠ .place → a.wait ≠ .segment → (a.committed = true ∨ status ≠ stOk) →
        exec (.commandCompletion dt chan seq) s = .next
          (State.answer { s1.after with
              cmd.accepted := s.cmd.accepted.filter (fun b => !(b.cmd == a.cmd && b.wait == a.wait)) }
            a.cmd (!a.quiet) status detail data)) ∧
    (s.cmd.accepted.find? (fun x => x.cmd.chan == chan && x.cmd.seq == seq) = none →
      exec (.commandCompletion dt chan seq) s = .next s1)

/-- For every state and every packet that passes its checks, on no WORKER's own channel, with no PLACE pending and no
on-line change open: DECLARE_INSTANCE of a free FI whose channels are defined, whose image is loaded and alike, whose
WCIC is within R67 and which fits one engine creates the instance DECLARED with the next declaration number and
replies it; REMOVE_INSTANCE of a declared instance that is not running removes it, frees its rings and bindings; PLACE
replies ACCEPTED and is pending; SET_PLACEMENT_LIMITS takes its operating point and spares, and restores degraded
instances, unless it changes the point with an instance placed or would make an engine with copies a spare.
GET_PLACEMENT, GET_ENGINE, GET_PLACEMENT_LIMITS and GET_CLUSTER reply their fields and change nothing. -/
def Obligations.PlacementCommandsComplete : Prop :=
  let free (s : State) (c : Cmd) : Prop :=
    (s.boot.role ≠ 2 ∨ 65 < c.chan) ∧ s.place.placing = false ∧ s.prog.change.st = .none
  let declared (s : State) (c : Cmd) : Inst :=
    { owner := c.inst, cls := byteAt c.params 2, cycle := byteAt c.params 3, phaseDecl := byteAt c.params 4,
      kind := byteAt c.params 5, shedPrio := u16 c.params 6, image := u32 c.params 8, wcic := u32 c.params 0x0C,
      codeBytes := u32 c.params 0x10, dataBytes := u32 c.params 0x14, imageBytes := u32 c.params 0x18,
      nodeMask := u32 c.params 0x1C,
      channels := (List.range (u16 c.params 0x20)).map (fun i => u16 c.params (0x24 + 2 * i)), declNo := s.place.nextDecl }
  cardDeclareInstance.Completes .declareInstance
    (fun s c => free s c ∧ s.boot.role ≠ 1 ∧ s.place.insts.get (u16 c.params 0) = none ∧
      (∀ ch ∈ (declared s c).channels, s.ingest.chanOf.has ch = true) ∧ (s.image (u32 c.params 8)).isSome = true ∧
      declareDiffers c.params (s.imageD (u32 c.params 8)) = none ∧
      u32 c.params 0x0C ≤ wcicLimit (byteAt c.params 5 == 1) s.place.point (byteAt c.params 3) ∧
      u32 c.params 0x10 + u32 c.params 0x14 + u32 c.params 0x18 ≤ (if byteAt c.params 5 = 1 then 30720 else 155648))
    (fun s c => { s.setInst (u16 c.params 0) (declared s c) with place.nextDecl := s.place.nextDecl + 1 })
    (fun s _ => le 4 s.place.nextDecl) ∧
  cardDeclareInstance.Refuses .declareInstance
    (fun s c => free s c ∧ (s.place.insts.get (u16 c.params 0)).isSome = true) 0x0300 (fun _ _ => 1) ∧
  cardRemoveInstance.Completes .removeInstance
    (fun s c => free s c ∧ ∃ x, s.inst (u16 c.params 0) = some x ∧ x.isRunning = false ∧ x.place ≠ .assigned)
    (fun s c => State.dropRings { s with
      place.insts := s.place.insts.del (u16 c.params 0), prog.retained := s.prog.retained.del (u16 c.params 0),
      prog.signals := s.prog.signals.mapV (fun _ g =>
        if g.src = SigSrc.output (u16 c.params 0) then { g with src := .none, vals := [] } else g) }) (fun _ _ => []) ∧
  cardRemoveInstance.Refuses .removeInstance
    (fun s c => free s c ∧ ∃ x, s.inst (u16 c.params 0) = some x ∧ x.isRunning = true) 0x0300 (fun _ _ => 4) ∧
  cardPlace.Accepts .place (fun s c => free s c ∧ s.boot.role ≠ 1) (fun s _ => { s with place.placing := true })
    (fun _ _ => .place) false (fun _ _ => none) ∧
  cardPlace.Refuses .place (fun s c => (s.boot.role ≠ 2 ∨ 65 < c.chan) ∧ s.place.placing = true) 0x0300 (fun _ _ => 3) ∧
  cardSetPlacementLimits.Completes .setPlacementLimits
    (fun s c => free s c ∧
      (byteAt c.params 0 = s.place.point ∨ ∀ p ∈ s.place.insts, p.2.isPlaced = false) ∧
      ∀ e ∈ allEngs false, 12 ≤ e.no → e.no < 16 → 16 - byteAt c.params 1 ≤ e.no →
        (s.eng e).st = .spare ∨ s.copiesOn e = [])
    (fun s c => ((({ s with place.point := byteAt c.params 0 } : State).setExtra (byteAt c.params 1)).checkSpares).restoreDegraded)
    (fun _ _ => []) ∧
  cardGetPlacement.Reads .getPlacement (fun s c => (s.inst (u16 c.params 0)).isSome = true) (fun s c =>
    let x := (s.inst (u16 c.params 0)).getD (declared s c)
    le 2 (u16 c.params 0) ++ le 1 x.place.code ++ le 1 x.cls ++ le 1 x.cycle ++
      le 1 (if x.isPlaced || x.place == .assigned then x.phase else 0xFF) ++ le 1 x.kind ++ le 1 x.node ++ le 4 x.declNo ++
      copyEntry x 1 ++ copyEntry x 2 ++ copyEntry x 3) ∧
  cardGetEngine.Reads .getEngine (fun _ _ => True) (fun s c =>
    let e : Eng := { ls := byteAt c.params 2 == 1, cc := byteAt c.params 0, no := byteAt c.params 1 }
    le 1 (s.eng e).st.code ++ le 1 (s.copiesOn e).length ++ le 2 (s.power.coreMv.getD (byteAt c.params 0 / 8) 0) ++
      le 4 (((s.occupied e).map (fun t => 2 ^ t)).foldl (· + ·) 0) ++ le 4 (s.memFree e) ++
      le 4 ((((s.eng e).canaries.map (·.2)).foldl min (s.eng e).canary) / 1000000) ++ le 4 (s.requiredRate e)) ∧
  cardGetPlacementLimits.Reads .getPlacementLimits (fun _ _ => True) (fun s _ =>
    le 1 s.place.point ++ le 1 s.place.extra ++
      le 2 ((allEngs false).filter (fun e => (s.eng e).st == .spare)).length) ∧
  cardGetCluster.Reads .getCluster (fun _ _ => True) (fun s c =>
    let cc := byteAt c.params 0
    let es := (allEngs false ++ allEngs true).filter (fun e => e.cc == cc)
    let rings := (s.place.rings.map (·.2)).filter (fun r => r.cc == cc)
    le 2 (512 - rings.length) ++ le 2 (2048 - (rings.map (·.units)).foldl (· + ·) 0) ++
      le 4 (1572864 - (rings.map (·.bytes)).foldl (· + ·) 0) ++ le 1 (s.enginesInUse false cc) ++ le 1 (s.enginesInUse true cc) ++
      le 1 (es.filter (fun e => (s.eng e).st == .spare)).length ++
      le 1 (es.filter (fun e => (s.eng e).st == .failed || (s.eng e).st == .slow)).length)

/-- For every state and every list of declared instances that the placement algorithm takes: if it succeeds, each of
them is PLACED with as many copies as its class has, each copy on an engine of the instance's kind that was
IN_SERVICE, no two copies of one instance in the same cluster, at its declared phase (or, with AUTO, at one below its
cycle class) unless the pair partner has already chosen it. If it fails, the failing instance is one of the list. A
PLACE whose placement fails completes with NO_RESOURCE, the resource code and the FI, and changes nothing but its own
pending state. For every state: ENGINE_FAILED of an engine that is not FAILED makes it FAILED for good; with
management lost no copy moves, each copy that stood there reads LOST and every instance without a copy there keeps its
copies; a FAILED engine is not failed again. COPY_LOAD_COMPLETE of a moved copy in LOADING whose code is not there
loads its code; COPY_DATA_TRANSFER of such a copy, once loaded, makes it RUNNING: with the data of a surviving copy
whose cycle is complete, or with a cold start to come where none survives. CANARY_CHECK records each engine's rate and
changes no engine's state. MARGIN_LOST_TIMEOUT of an IN_SERVICE engine that lost its margin makes it SLOW when 1 ms
has passed since its chiplet reached 0.90 V, and moves the copies that lost theirs; before that it changes nothing.
CLUSTER_MEMORY_FAILED makes the cluster's engines FAILED. -/
def Obligations.PlacementAndEngineFaults : Prop :=
  (
  (∀ (s t : State) (l : List Nat), s.placeAll l = .ok t → ∀ fi ∈ l, ∀ x, s.inst fi = some x →
    ∃ y, t.inst fi = some y ∧ y.place = .placed ∧ y.copies.length = copiesOf x.cls ∧
      (∀ c ∈ y.copies, ∃ e, c.eng = some e ∧ e.ls = x.ls ∧ (s.eng e).st = .inService) ∧
      (y.copies.map (fun c => c.eng.map (·.cc))).Nodup ∧
      (s.pair.phases.get fi = none → (x.phaseDecl ≠ 0xFF → y.phase = x.phaseDecl) ∧
        (x.phaseDecl = 0xFF → y.phase < x.cycle))) ∧
  (∀ (s : State) (l : List Nat) (fi r : Nat), s.placeAll l = .error (fi, r) → fi ∈ l) ∧
  (∀ (dt chan seq fi r : Nat) (s : State) (a : Accepted),
    let s1 := s.advance dt
    let s2 := { s1 with origin := a.cmd.inst, place.placing := false }
    s.zenithUp = true → s.boot.role ≠ 1 → s.stratus.activation = none → s.pair.switchTick = none →
    s.cmd.accepted.find? (fun x => x.cmd.chan == chan && x.cmd.seq == seq) = some a → a.wait = .place → a.result = none →
    s2.placeAll s2.pendingPlace = .error (fi, r) →
      exec (.commandCompletion dt chan seq) s = .next
        (State.answer { s1 with
            origin := 0xFF, place.placing := false,
            cmd.accepted := s.cmd.accepted.filter (fun b => !(b.cmd == a.cmd && b.wait == a.wait)) }
          a.cmd (!a.quiet) 0x0400 r (le 2 fi ++ le 2 0)))) ∧
  (
  (∀ (dt cc no cls : Nat) (s : State),
    let e : Eng := { ls := false, cc := cc, no := no }
    cc < 32 → no < 17 → (s.eng e).st ≠ .failed → s.cmd.mgmt = .lost →
      ∃ t, exec (.engineFailed dt false cc no cls) s = .next t ∧ (t.eng e).st = .failed ∧ (t.eng e).phase = .idle ∧
        (∀ f : Eng, f.cc < 32 → f.no < 17 → f ≠ e → f.ls = false → t.eng f = s.eng f) ∧
        (∀ fi x k c, s.inst fi = some x → x.copy k = some c → c.eng = some e →
          ∃ y d, t.inst fi = some y ∧ y.copy k = some d ∧ d.eng = none ∧ d.st = .lost ∧ d.span = c.span) ∧
        (∀ fi x, s.inst fi = some x → (∀ c ∈ x.copies, c.eng ≠ some e ∧ c.lag = none) → t.inst fi = some x)) ∧
  (∀ (dt cc no cls : Nat) (ls : Bool) (s : State), cc < 32 → no < (if ls then 2 else 17) →
    (s.eng { ls := ls, cc := cc, no := no }).st = .failed → exec (.engineFailed dt ls cc no cls) s = .next (s.advance dt)) ∧
  (∀ (dt fi k : Nat) (s : State) (x : Inst) (c : Copy) (e : Eng), s.inst fi = some x → x.copy k = some c → c.eng = some e →
    c.st = .loading → c.codeIn = false →
      exec (.copyLoadComplete dt fi k) s = .next
        (((s.advance dt).loadCodes e c x).setInst fi (x.modCopy k (fun c => { c with codeIn := true })))) ∧
  (∀ (dt fi k : Nat) (s : State) (x : Inst) (c : Copy), s.inst fi = some x → x.copy k = some c → c.eng.isSome = true →
    c.st = .loading → c.codeIn = true →
      let y := x.modCopy k (fun c => { c with st := .running, lag := none })
      (s.survivors x k = [] → exec (.copyDataTransfer dt fi k) s = .next
        ((s.advance dt).setInst fi { y with coldNext := x.coldNext || x.isRunning })) ∧
      (∀ j d rest, s.survivors x k = j :: rest → x.copy j = some d → s.copyBusy fi d = false →
        exec (.copyDataTransfer dt fi k) s = .next
          (((s.advance dt).writeData c 0 (s.copyData d)).setInst fi y))) ∧
  (∀ (dt m : Nat) (s : State) (ls : Bool) (cc no : Nat), cc < 32 → no < (if ls then 2 else 17) →
    let e : Eng := { ls := ls, cc := cc, no := no }
    ∃ t, exec (.canaryCheck dt [(ls, cc, no, m)]) s = .next t ∧ (t.eng e).canary = m ∧ (t.eng e).st = (s.eng e).st ∧
      t.place.insts = s.place.insts ∧
      ((t.eng e).lostSince.isSome = true → t.power.raising = setAt s.power.raising (cc / 8) true)) ∧
  (∀ (dt cc no : Nat) (ls : Bool) (s : State), cc < 32 → no < (if ls then 2 else 17) →
    let e : Eng := { ls := ls, cc := cc, no := no }
    let s1 := s.advance dt
    let moved := s.lostMargins e (s.eng e).canary
    (s.eng e).st = .inService → (s.eng e).lostSince.isSome = true →
      (∀ t0, s.power.ceilAt.getD (cc / 8) none = some t0 → s1.tb3Passed t0 1000 = true →
        exec (.marginLostTimeout dt ls cc no) s = .next
          (((moved.foldl (fun u m => u.loseCopy m.1 m.2) ((s1.setEng e { s.eng e with st := .slow }).post 0x0202
            (le 1 cc ++ le 1 no ++ le 1 (boolNat ls) ++ le 4 ((s.eng e).canary / 1000000) ++
              le 4 ((s1.setEng e { s.eng e with st := .slow }).requiredRate e)))).checkSpares).restore e moved)) ∧
      (∀ t0, s.power.ceilAt.getD (cc / 8) none = some t0 → s1.tb3Passed t0 1000 = false →
        exec (.marginLostTimeout dt ls cc no) s = .next s1)) ∧
  (∀ (dt cc : Nat) (s : State), cc < 32 → s.cmd.mgmt = .lost → s.place.insts = [] →
    ∃ t, exec (.clusterMemoryFailed dt cc) s = .next t ∧ (∀ e ∈ allEngs false ++ allEngs true, e.cc = cc → (t.eng e).st = .failed) ∧
      (∀ p ∈ t.place.rings, p.2.cc ≠ cc)))

/-- For every state and every packet that passes its checks: DEFINE_STREAM of a free stream without authentication,
whose channels are free, whose match key overlaps no other and whose chain units fit, creates the stream DISABLED with
its channels and their chains; REMOVE_STREAM of a stream no declared instance reads removes it, its channels and
chains, and releases its detectors' signals; ENABLE_STREAM starts a DISABLED stream WAITING, leaves an enabled one,
and makes a stream DISABLED without its measurement in progress; SET_ALIGNMENT stores margin and delay, discards the
measurement and, with FIXED_DELAY 0, X and D, and returns an enabled stream to WAITING; GET_STREAM replies state,
delay, arrival, margin and the ten counters, which CLEAR resets; GET_INGEST_TOTALS and GET_CHANNEL reply their fields.
An undefined stream is refused WRONG_STATE 1, a removal with a reader WRONG_STATE 5. -/
def Obligations.IngestCommandsComplete : Prop :=
  let st (s : State) (c : Cmd) : Option Stream := s.ingest.streams.get (u16 c.params 0)
  let put (s : State) (c : Cmd) (f : Stream → Stream) : State :=
    match st s c with
    | some x => s.setStream (u16 c.params 0) (f x)
    | none => s
  let chans (c : Cmd) : List Nat := (List.range (byteAt c.params 5)).map (fun i => u16 c.params (0x78 + 2 * i))
  let units (s : State) : Nat :=
    (s.ingest.streams.map (fun p => (p.2.cfg.channels.filter (· != 0xFFFF)).length * unitsOf p.2.cfg.rate)).foldl (· + ·) 0
  let read (s : State) (x : Stream) : Prop :=
    ∃ q ∈ s.place.insts, ∃ ch ∈ x.cfg.channels, ch ≠ 0xFFFF ∧ ch ∈ q.2.channels
  cardDefineStream.Completes .defineStream
    (fun s c => st s c = none ∧ byteAt c.params 6 = 0 ∧
      (∀ ch ∈ chans c, ch = 0xFFFF ∨ s.ingest.chanOf.has ch = false) ∧
      (∀ q ∈ s.ingest.streams, keysOverlap q.2.cfg (streamDefOf c.params) = false) ∧
      units s + ((chans c).filter (· != 0xFFFF)).length * unitsOf (byteAt c.params 3) ≤ 65536)
    (fun s c =>
      let x : Stream := { cfg := streamDefOf c.params, owner := c.inst, fixedDelay := u32 c.params 0x2C,
                          margin := if u32 c.params 0x28 = 0 then 4600 else u32 c.params 0x28 }
      ((List.zip (chans c) (List.range (byteAt c.params 5))).filter (fun e => e.1 != 0xFFFF)).foldl
        (fun t e => { t with
          ingest.chanOf := t.ingest.chanOf.put e.1 (u16 c.params 0, e.2),
          filter.chains := t.filter.chains.put e.1 { bank := clearBank (byteAt c.params 3) } })
        (s.setStream (u16 c.params 0) { x with closedTo := x.firstOpen s.now })) (fun _ _ => []) ∧
  cardDefineStream.Refuses .defineStream (fun s c => byteAt c.params 6 = 0 ∧ (st s c).isSome = true) 0x0300 (fun _ _ => 1) ∧
  cardRemoveStream.Completes .removeStream (fun s c => ∃ x, st s c = some x ∧ ¬ read s x)
    (fun s c =>
      let mine := (((st s c).map (·.cfg.channels)).getD []).filter (· != 0xFFFF)
      let t := s.releaseSignals (fun g => match g with
        | .detector ch _ => mine.contains ch
        | _ => false)
      { t with
        ingest.streams := t.ingest.streams.del (u16 c.params 0),
        ingest.chanOf := t.ingest.chanOf.keep (fun ch _ => !mine.contains ch),
        filter.chains := t.filter.chains.keep (fun ch _ => !mine.contains ch) }) (fun _ _ => []) ∧
  cardRemoveStream.Refuses .removeStream (fun s c => st s c = none) 0x0300 (fun _ _ => 1) ∧
  cardRemoveStream.Refuses .removeStream (fun s c => ∃ x, st s c = some x ∧ read s x) 0x0300 (fun _ _ => 5) ∧
  cardEnableStream.Completes .enableStream (fun s c => byteAt c.params 2 = 1 ∧ ∃ x, st s c = some x ∧ x.st = .disabled)
    (fun s c => put s c (fun x => { x with st := .waiting })) (fun _ _ => []) ∧
  cardEnableStream.Completes .enableStream (fun s c => byteAt c.params 2 = 1 ∧ ∃ x, st s c = some x ∧ x.st ≠ .disabled)
    (fun s _ => s) (fun _ _ => []) ∧
  cardEnableStream.Completes .enableStream (fun s c => byteAt c.params 2 = 0 ∧ (st s c).isSome = true)
    (fun s c => put s c (fun x => { x with st := .disabled, meas := [] })) (fun _ _ => []) ∧
  cardSetAlignment.Completes .setAlignment (fun s c => ∃ x, st s c = some x ∧ s.streamRunning x = false)
    (fun s c => put s c (fun x => { x with
      margin := if u32 c.params 4 = 0 then 4600 else u32 c.params 4, fixedDelay := u32 c.params 8, meas := [],
      x := if u32 c.params 8 = 0 then none else x.x, d := if u32 c.params 8 = 0 then none else x.d,
      st := if x.st = .disabled then .disabled else .waiting })) (fun _ _ => []) ∧
  cardSetAlignment.Refuses .setAlignment (fun s c => c.chan ≤ 65 ∧ ∃ x, st s c = some x ∧ s.streamRunning x = true) 0x0300
    (fun _ _ => 6) ∧
  cardGetStream.Completes .getStream (fun s c => (st s c).isSome = true)
    (fun s c => if bit (byteAt c.params 2) 0 then put s c (fun x => { x with
        frames := 0, late := 0, missing := 0, duplicate := 0, dupDiffer := 0, authFail := 0, rejected := 0, early := 0,
        unsync := 0, lossEvents := 0 }) else s)
    (fun s c => ((st s c).map (fun x =>
      le 2 (u16 c.params 0) ++ le 1 x.st.code ++ le 1 (if x.fixedDelay = 0 then 0 else 1) ++
        leS 4 (if x.fixedDelay = 0 then x.d.getD 0 else x.fixedDelay) ++ leS 4 (x.x.getD 0) ++ leS 4 (x.lateMargin s.now) ++
        [x.frames, x.late, x.missing, x.duplicate, x.dupDiffer, x.authFail, x.rejected, x.early, x.unsync,
          x.lossEvents].flatMap (le 4))).getD []) ∧
  cardGetIngestTotals.Reads .getIngestTotals (fun _ _ => True) (fun s _ =>
    le 2 s.ingest.streams.length ++ le 2 s.ingest.chanOf.length ++ le 4 (units s) ++
      le 4 ((s.place.rings.map (·.2.units)).foldl (· + ·) 0) ++ le 4 s.ingest.unmatched ++ le 4 s.ingest.disabledDrops) ∧
  cardGetChannel.Reads .getChannel (fun s c => (s.ingest.chanOf.get (u16 c.params 0)).isSome = true) (fun s c =>
    let o := (s.ingest.chanOf.get (u16 c.params 0)).getD (0, 0)
    let r := s.place.rings.get (u16 c.params 0)
    le 2 o.1 ++ le 1 o.2 ++ le 1 ((r.map (·.cc)).getD 0xFF) ++
      le 2 (unitsOf (((s.ingest.streams.get o.1).map (·.cfg.rate)).getD 0)) ++ zeros 2 ++ le 4 ((r.map (·.depth)).getD 0) ++
      le 8 ((r.map (fun r => 0x0100000000 + r.cc * 0x200000 + r.addr)).getD 0))

/-- For every state with valid protection time and every good SV frame on a switch port outside PRP and HSR that
matches a RUNNING stream without authentication, carries one globally synchronised ASDU that passes checks 2 to 6, and
whose position, resolved from smpCnt and arrival, is at most RING_SPAN ahead of its cutoff: an open empty slot takes
its values and quality; a filed slot keeps what it has and DUPLICATE counts when the content is the same; a closed one
counts LATE and files nothing. A frame that matches no stream only counts UNMATCHED, one for a DISABLED stream only
DISABLED_DROPS. SLOT_CLOSE before the cutoff changes nothing; at it, an unfilled slot of a RUNNING stream reads
MISSING with its pending cause (NOT_RECEIVED without one) and MISSING counts once. A RUNNING stream without a good
frame for LOSS_TIME becomes LOST. -/
def Obligations.SampleIsFiledByItsCount : Prop :=
  (∀ (dt port ta n m : Nat) (frame : Bytes) (s : State) (x : Stream) (u : IecPdu) (a : Asdu),
    let s1 := s.advance dt
    let e := ethParse frame
    let es := (asduEntries x.cfg.nEntries a.data).map (fun v => (v.1, v.2 ||| 0 ||| (if s1.horizon.ptSt = .holdover then 2 ^ 14 else 0)))
    let y := { x with frames := inc32 x.frames, lastFrame := 9 * ta, lastSynch := 2 }
    s1.rxGood port frame = true → s1.isSwitchPort port = true → s1.portEntity port = none → e.etype = 0x88BA →
    s1.findStream port e = some n → s.stream n = some x → x.cfg.fmt = 0 → x.cfg.auth = 0 → x.cfg.nAsdu = 1 → x.st = .running →
    iecParse e.payload = some u → u.sim = false → svParse u.apdu = some [a] → a.rev = x.cfg.confRev →
    a.data.length = 8 * x.cfg.nEntries → a.cnt < rateHz x.cfg.rate → a.synch = 2 → s1.ptValid = true →
    x.resolve a.cnt (9 * ta) = (m : Int) → x.cutoff m ≤ 9 * ta + x.cfg.ringSpan * 1000 * 589824 →
      (x.closedTo ≤ m → 9 * ta ≤ x.cutoff m → (x.slots.getD m {}).filed = none →
        exec (.svFrameReceived dt port ta frame) s = .next ((s1.fileRings y m es).setStream n { y with
          slots := x.slots.put m { filed := some es },
          margins := (9 * ta, (x.cutoff m : Int) - (9 * ta : Nat)) :: x.margins.filter (fun g => decide (g.1 + 589824000000000 > 9 * ta)) })) ∧
      (∀ old, x.closedTo ≤ m → 9 * ta ≤ x.cutoff m → (x.slots.getD m {}).filed = some old →
        old.map (fun v => (v.1, v.2 &&& 0xFF0)) = es.map (fun v => (v.1, v.2 &&& 0xFF0)) →
        exec (.svFrameReceived dt port ta frame) s = .next (s1.setStream n { y with duplicate := inc32 x.duplicate })) ∧
      (m < x.closedTo → s.cap.recs = [] →
        exec (.svFrameReceived dt port ta frame) s = .next (s1.setStream n { y with late := inc32 x.late }))) ∧
  (∀ (dt port ta : Nat) (frame : Bytes) (s : State),
    let s1 := s.advance dt
    s1.rxGood port frame = true → s1.isSwitchPort port = true → s1.portEntity port = none →
    (ethParse frame).etype = 0x88BA ∨ (ethParse frame).etype = 0x88B5 →
      (s1.findStream port (ethParse frame) = none →
        exec (.svFrameReceived dt port ta frame) s = .next { s1 with ingest.unmatched := inc32 s.ingest.unmatched }) ∧
      (∀ n x, s1.findStream port (ethParse frame) = some n → s.stream n = some x → x.st = .disabled →
        exec (.svFrameReceived dt port ta frame) s = .next { s1 with ingest.disabledDrops := inc32 s.ingest.disabledDrops })) ∧
  (∀ (dt n : Nat) (s : State) (x : Stream), s.stream n = some x →
    let s1 := s.advance dt
    let p := x.closedTo
    let cause := (x.slots.getD p {}).cause
    (s1.now < x.cutoff p → exec (.slotClose dt n) s = .next s1) ∧
    (x.cutoff p ≤ s1.now → x.st = .running → s1.ptValid = true → (x.slots.getD p {}).filed = none → s.cap.recs = [] →
      exec (.slotClose dt n) s = .next ((s1.setStream n { x with
        closedTo := p + 1, slots := x.slots.del p, missing := inc32 x.missing }).fileRings { x with
          closedTo := p + 1, slots := x.slots.del p, missing := inc32 x.missing } p
          (x.cfg.channels.map (fun _ => (0, 1 + 2 * (if cause = 0 then 1 else cause)))))) ∧
    (x.cutoff p ≤ s1.now → (x.slots.getD p {}).filed.isSome = true → s.cap.recs = [] →
      exec (.slotClose dt n) s = .next (s1.setStream n { x with closedTo := p + 1, slots := x.slots.del p }))) ∧
  (∀ (dt n : Nat) (s : State) (x : Stream), s.stream n = some x → x.st = .running →
    ((s.advance dt).now ≥ x.lastFrame + x.lossQ →
      exec (.streamLossTimeout dt n) s = .next
        ((((s.advance dt).setStream n { x with st := .lost, lossEvents := inc32 x.lossEvents }).post 0x0402 (le 2 n)).raiseInt 132)) ∧
    ((s.advance dt).now < x.lastFrame + x.lossQ → exec (.streamLossTimeout dt n) s = .next (s.advance dt)))

/-- For every state and every packet that passes its checks: LOAD_BANK with a right CRC of a bank 16 to 255 not in use
stores it for its loader, with a wrong CRC it is refused INTEGRITY 1; FREE_BANK of a loaded unused bank frees it;
READ_BANK replies the bank; SET_CHAIN on defined channels whose bank serves their rates, with no refusal of R131,
queues the setting change on each listed channel, and SYNC_DECIMATORS TIME the reference change, TPI arms and DISARM
disarms each of them; SET_DETECTOR on a defined channel that no running instance reads, with no signal, restarts the
detector with its new values or disables it; GET_CHAIN replies the settings in force and the counters, which CLEAR
resets; GET_DETECTORS replies the words of the newest output. -/
def Obligations.FilterCommandsComplete : Prop :=
  let chs (c : Cmd) : List Nat := (List.range (u16 c.params 0x14)).map (fun i => u16 c.params (0x18 + 2 * i))
  let rate (s : State) (ch : Nat) : Nat := ((s.chanStream ch).map (fun x => x.2.cfg.rate)).getD 0
  let bankNo (s : State) (c : Cmd) (ch : Nat) : Nat :=
    if byteAt c.params 0 = 0 then clearBank (rate s ch) + byteAt c.params 1 else byteAt c.params 1
  let chain (s : State) (c : Cmd) : Option Chain := s.filter.chains.get (u16 c.params 0)
  cardLoadBank.Completes .loadBank
    (fun s c => crc32c (c.params.take 8 ++ c.params.drop 0x0C) = u32 c.params 8 ∧ 16 ≤ byteAt c.params 0 ∧
      s.bankInUse (byteAt c.params 0) = false)
    (fun s c => { s with filter.banks := s.filter.banks.put (byteAt c.params 0) {
      owner := c.inst, firR := byteAt c.params 2, cicR := byteAt c.params 3, rates := byteAt c.params 4,
      taps := (List.range (byteAt c.params 1)).map (fun k => toSigned 24 (u32 c.params (0x0C + 4 * k))) } }) (fun _ _ => []) ∧
  cardLoadBank.Refuses .loadBank (fun _ c => crc32c (c.params.take 8 ++ c.params.drop 0x0C) ≠ u32 c.params 8) 0x0501
    (fun _ _ => 1) ∧
  cardFreeBank.Completes .freeBank
    (fun s c => 16 ≤ byteAt c.params 0 ∧ s.bankInUse (byteAt c.params 0) = false ∧ s.filter.banks.has (byteAt c.params 0) = true)
    (fun s c => { s with filter.banks := s.filter.banks.del (byteAt c.params 0) }) (fun _ _ => []) ∧
  cardReadBank.Reads .readBank (fun s c => (s.bank (byteAt c.params 0)).isSome = true)
    (fun s c => bankBytes (byteAt c.params 0) ((s.bank (byteAt c.params 0)).getD (romBank 0))) ∧
  cardSetChain.Completes .setChain
    (fun s c => (∀ ch ∈ chs c, s.ingest.chanOf.has ch = true ∧
        ∃ b, s.bank (bankNo s c ch) = some b ∧ bit b.rates (rate s ch) = true) ∧
      s.listRefusal (decide (c.chan ≤ 65)) (chs c) (u64 c.params 0x0C) false = none)
    (fun s c => s.mapChains (chs c) (fun ch k => k.queue (.setting (s.applyPos ch (u64 c.params 0x0C)) (bankNo s c ch)
      (s32 c.params 4) (s32 c.params 8) (byteAt c.params 2 == 1) ((chs c).headD 0) (chs c).length))) (fun _ _ => []) ∧
  cardSyncDecimators.Completes .syncDecimators
    (fun s c => byteAt c.params 0 = 0 ∧ (∀ ch ∈ chs c, s.ingest.chanOf.has ch = true) ∧
      s.listRefusal (decide (c.chan ≤ 65)) (chs c) (u64 c.params 0x0C) true = none)
    (fun s c => s.mapChains (chs c) (fun ch k => k.queue (.reference (s.applyPos ch (u64 c.params 0x0C))
      (ceilDiv (u64 c.params 4 * 589824) (periodQ (rate s ch))) none ((chs c).headD 0) (chs c).length))) (fun _ _ => []) ∧
  cardSyncDecimators.Completes .syncDecimators
    (fun s c => byteAt c.params 0 = 1 ∧ ∀ ch ∈ chs c, s.ingest.chanOf.has ch = true)
    (fun s c => s.mapChains (chs c) (fun _ k => { k with
      armed := some (byteAt c.params 1, byteAt c.params 2 == 1), armList := ((chs c).headD 0, (chs c).length) })) (fun _ _ => []) ∧
  cardSyncDecimators.Completes .syncDecimators
    (fun s c => byteAt c.params 0 = 2 ∧ ∀ ch ∈ chs c, s.ingest.chanOf.has ch = true)
    (fun s c => s.mapChains (chs c) (fun _ k => { k with armed := none })) (fun _ _ => []) ∧
  cardSetDetector.Completes .setDetector
    (fun s c => (chain s c).isSome = true ∧ s.readerRunning (u16 c.params 0) = false ∧
      (byteAt c.params 3 = 0 ∨ bit (byteAt c.params 0x10) 0 = false))
    (fun s c =>
      let d : Detector := if byteAt c.params 3 = 1 then
          { enabled := true, window := u16 c.params 4, thresh := u32 c.params 8, hyst := u32 c.params 0x0C } else {}
      let t := s.releaseSignals (· == SigSrc.detector (u16 c.params 0) (byteAt c.params 2))
      match chain s c with
      | some k => { t with filter.chains := t.filter.chains.put (u16 c.params 0) { k with
          det := setAt k.det (byteAt c.params 2) d } }
      | none => s) (fun _ _ => []) ∧
  cardGetChain.Completes .getChain (fun s c => (chain s c).isSome = true)
    (fun s c => match chain s c with
      | some k => if bit (byteAt c.params 2) 0 then { s with filter.chains := s.filter.chains.put (u16 c.params 0) { k with
            scaleSat := 0, outSat := 0, substituted := 0, restarts := 0 } } else s
      | none => s)
    (fun s c => ((chain s c).map (fun k =>
      let b := (s.bank k.bank).getD (romBank 0)
      le 1 k.bank ++ le 1 (boolNat k.single) ++
        le 1 (if s.place.rings.has (u16 c.params 0) then (if k.settled b then 2 else 1) else 0) ++
        le 1 ((k.changes.filter (fun x => !x.isRef)).length + 8 * boolNat (k.changes.any (·.isRef)) + 16 * boolNat k.armed.isSome) ++
        leS 4 k.gain ++ leS 4 k.offset ++ le 8 k.nRef ++ le 2 b.span ++ le 2 b.gdHalf ++ le 4 k.scaleSat ++ le 4 k.outSat ++
        le 4 k.substituted ++ le 4 k.restarts)).getD []) ∧
  cardGetDetectors.Reads .getDetectors (fun s c => ∃ k r, chain s c = some k ∧ k.outs.head? = some r)
    (fun s c =>
      let k := (chain s c).getD { bank := 0 }
      let r := k.outs.headD { pos := 0, value := 0, sqw := 0, peak := 0, rms := 0, env := 0 }
      leS 4 r.peak ++ le 4 r.rms ++ le 4 r.env ++ le 1 (bitsNat (((List.range 3).map (fun i => (k.det.getD i {}).enabled)) ++
        ((List.range 3).map (fun i => (k.det.getD i {}).level)) ++ [bit r.sqw 27])) ++ zeros 3 ++ le 8 r.pos)

/-- For every state and every channel with a ring and a chain with no pending change and no enabled detector,
CHAIN_TAKE_POSITION takes position n of the chain when its slot is filed or closed and its ring line is sound: the
chain's next position becomes n + 1, and the chain is the one that stages 1 to 7 make of the entry; with the slot open
it changes nothing. In every case the chain of every other channel stays as it was. A settled chain with GAIN 1.0,
OFFSET 0 and the CLEAR bank of 4 800 Hz outputs each present 32-bit input unchanged and grades it 0; a missing input
gives an output of value 0 that is MISSING with its cause. For every history of 32-bit values and every bank of at
most 128 taps whose magnitudes sum to at most 2.0 in Q1.22, the FIR sum of R121 with its saturating 40-bit accumulator
equals the clamp to 32 bits of the exact sum of the rounded products. Every ROM bank is symmetric, its taps sum to 1.0
exactly and their magnitudes to at most 2.0, so it satisfies R127. -/
def Obligations.ChainTakesPositionsInOrder : Prop :=
  (
  (∀ (dt ch n st : Nat) (s : State) (r : Ring) (x : Stream) (k : Chain),
    let off := r.addr + n % max r.depth 1 * (if x.cfg.fmt = 0 then 8 else 4)
    let p := memReadN s.place.samples (r.cc * 0x200000 + off) (if x.cfg.fmt = 0 then 8 else 4)
    s.place.rings.get ch = some r → s.chanStream ch = some (st, x) → s.filter.chains.get ch = some k → k.next = some n →
    k.changes = [] → (∀ d ∈ k.det, d.enabled = false ∧ d.level = false) →
      (n < x.closedTo ∨ (∃ t, x.slots.get n = some t ∧ t.filed.isSome = true)) →
        s.markedLines (32 * ((0x0100000000 + r.cc * 0x200000 + off) / 32)) 32 = [] →
        exec (.chainTakePosition dt ch) s = .next { s.advance dt with
          filter.chains := s.filter.chains.put ch (k.take ((s.bank k.bank).getD (romBank 0)) (x.cfg.fmt != 0)
            (if x.cfg.fmt = 0 then { pos := n, value := s32 p 0, sqw := u16 p 4 }
             else { pos := n, value := s16 p 0, sqw := u16 p 2 })) }) ∧
  (∀ (dt ch n st : Nat) (s : State) (r : Ring) (x : Stream) (k : Chain),
    s.place.rings.get ch = some r → s.chanStream ch = some (st, x) → s.filter.chains.get ch = some k → k.next = some n →
      x.closedTo ≤ n → x.slots.get n = none → exec (.chainTakePosition dt ch) s = .next (s.advance dt)) ∧
  (∀ (dt ch other : Nat) (s : State), other ≠ ch → ∃ t, exec (.chainTakePosition dt ch) s = .next t ∧
    t.filter.chains.get other = s.filter.chains.get other ∧ t.filter.banks = s.filter.banks ∧ t.ingest = s.ingest ∧
    t.place.rings = s.place.rings ∧ t.place.insts = s.place.insts) ∧
  (∀ (k : Chain) (n : Nat) (v : Int), -2147483648 ≤ v → v ≤ 2147483647 → k.bank = 0 → k.gain = 0x40000000 → k.offset = 0 →
    k.started = true → k.needStart = false → k.single = false → (∀ w ∈ k.window, w.epoch = k.epoch) → k.phaseCh = false →
    k.det = [{}, {}, {}] →
      ((k.take (romBank 0) false { pos := n, value := v, sqw := 0 }).outs.head? =
        some { pos := n, value := v, sqw := 0, peak := 0, rms := 0, env := 0 }) ∧
      (k.take (romBank 0) false { pos := n, value := v, sqw := 0 }).next = some (n + 1) ∧
      ∀ cause, cause < 8 → ∃ o, (k.take (romBank 0) false { pos := n, value := 0, sqw := 1 + 2 * cause }).outs.head? = some o ∧
        o.pos = n ∧ o.value = 0 ∧ o.sqw % 16 = 1 + 2 * cause)) ∧
  (
  (∀ hist taps : List Int, (∀ x ∈ hist, -2147483648 ≤ x ∧ x ≤ 2147483647) → taps.length ≤ 128 →
    (taps.map Int.natAbs).sum ≤ 0x800000 →
      (firValue hist taps).1 = clampInt (-2147483648) 2147483647
        ((List.zipWith (fun x h => (x * h + 2097152) / 4194304) hist taps).sum)) ∧
  (∀ b, b < 16 → (romBank b).taps.sum = 0x400000 ∧ ((romBank b).taps.map Int.natAbs).sum ≤ 0x800000 ∧
    (romBank b).taps.reverse = (romBank b).taps ∧ (romBank b).firR * max (romBank b).cicR 1 ≤ 64))

/-- For every state in which a copy running on a PE comes to the instruction's word within its WCIC, and all operands:
each integer, fixed-point, binary32, intrinsic (ISQRT, MAG, ATAN2, RECIPQ) and constant instruction, MFS and MTS
completes; the destination register takes the result of its row from the old operands, STATUS gains the flags of the
result (MTS replaces STATUS), ICOUNT grows by the row's weight and PC by 4; no other register, no accumulator, no
memory and no other part of the module changes. -/
def Obligations.PeRegisterInstructions : Prop :=
  (∀ row ∈ ([(.peAdd, 0x10, 1, fun a b => (a + b, 0)), (.peSub, 0x11, 1, fun a b => (a - b, 0)),
      (.peAnd, 0x12, 1, fun a b => (a &&& b, 0)), (.peOr, 0x13, 1, fun a b => (a ||| b, 0)),
      (.peXor, 0x14, 1, fun a b => (a ^^^ b, 0)), (.peShl, 0x15, 1, fun a b => (a <<< (b.toNat % 32), 0)),
      (.peShr, 0x16, 1, fun a b => (a >>> (b.toNat % 32), 0)), (.peShra, 0x17, 1, fun a b => (a.sshiftRight (b.toNat % 32), 0)),
      (.peCmplt, 0x18, 1, fun a b => (if a.toInt < b.toInt then 1 else 0, 0)),
      (.peCmpltu, 0x19, 1, fun a b => (if a.toNat < b.toNat then 1 else 0, 0)),
      (.peMul, 0x1A, 2, fun a b => (a * b, 0)),
      (.peMulhs, 0x1B, 2, fun a b => (BitVec.ofInt 32 (a.toInt * b.toInt / 2 ^ 32), 0)),
      (.peMulhu, 0x1C, 2, fun a b => (BitVec.ofNat 32 (a.toNat * b.toNat / 2 ^ 32), 0)),
      (.peDivs, 0x1D, 34, fun a b => (divsWord a b, 0)),
      (.peDivu, 0x1E, 34, fun a b => (if b = 0 then 0xFFFFFFFF else a / b, 0)),
      (.peRems, 0x1F, 34, fun a b => (remsWord a b, 0)),
      (.peRemu, 0x20, 34, fun a b => (if b = 0 then a else a % b, 0)),
      (.peMin, 0x21, 1, fun a b => (if a.toInt < b.toInt then a else b, 0)),
      (.peMax, 0x22, 1, fun a b => (if a.toInt < b.toInt then b else a, 0)),
      (.peAdds, 0x30, 1, fun a b => satW (a.toInt + b.toInt)), (.peSubs, 0x31, 1, fun a b => satW (a.toInt - b.toInt)),
      (.peFadd, 0x40, 2, fAdd), (.peFsub, 0x41, 2, fSub), (.peFmul, 0x42, 2, fMul), (.peFdiv, 0x43, 14, fDiv),
      (.peFmin, 0x48, 2, fPick false), (.peFmax, 0x49, 2, fPick true),
      (.peFeq, 0x4C, 2, fun a b => fCmp a b (· == ·)),
      (.peFlt, 0x4D, 2, fun a b => fCmp a b (fun x y => decide (x < y))),
      (.peFle, 0x4E, 2, fun a b => fCmp a b (fun x y => decide (x ≤ y))),
      (.peMag, 0x61, 16, fun a b => (BitVec.ofNat 32 (isqrt (a.toInt.natAbs ^ 2 + b.toInt.natAbs ^ 2)), 0)),
      (.peAtan2, 0x62, 30, fun a b => (atan2 a b, 0))] :
      List ((Nat → Reg → Reg → Reg → Instr) × Nat × Nat × (Word → Word → Res))),
    ∀ (k : Nat) (d a b : Reg), PeDoes k (row.1 k d a b) (encR row.2.1 d a b 0) row.2.2.1
      (fun r => r.took d (row.2.2.2 (r.get a) (r.get b)))) ∧
  (∀ row ∈ ([(.peSel, 0x23, 1, fun a b c _ => (if c ≠ 0 then a else b, 0)),
      (.peMulq, 0x34, 2, fun a b _ n => satW ((a.toInt * b.toInt + rnd n) / 2 ^ n)),
      (.peClamp, 0x37, 1, fun a b c _ => (BitVec.ofInt 32 (min (max a.toInt b.toInt) c.toInt), 0)),
      (.peFma, 0x44, 3, fun a b c _ => fFma false a b c), (.peFnms, 0x45, 3, fun a b c _ => fFma true a b c)] :
      List ((Nat → Reg → Reg → Reg → Reg → Instr) × Nat × Nat × (Word → Word → Word → Nat → Res))),
    ∀ (k : Nat) (d a b c : Reg), PeDoes k (row.1 k d a b c) (encR row.2.1 d a b c) row.2.2.1
      (fun r => r.took d (row.2.2.2 (r.get a) (r.get b) (r.get c) c.val))) ∧
  (∀ row ∈ ([(.peClz, 0x24, 1, fun a => (clzWord a, 0)), (.peNegs, 0x32, 1, fun a => satW (-a.toInt)),
      (.peAbss, 0x33, 1, fun a => satW (a.toInt.natAbs : Int)), (.peFsqrt, 0x46, 14, fSqrt), (.peFrcp, 0x47, 10, fRcp),
      (.peFabs, 0x4A, 1, fun a => (a &&& 0x7FFFFFFF, 0)), (.peFneg, 0x4B, 1, fun a => (a ^^^ 0x80000000, 0)),
      (.peFcvtfi, 0x4F, 2, fun a => fFromInt a 0), (.peFcvtif, 0x50, 2, fun a => fToInt a 0),
      (.peIsqrt, 0x60, 12, fun a => (BitVec.ofNat 32 (isqrt a.toNat), 0))] :
      List ((Nat → Reg → Reg → Instr) × Nat × Nat × (Word → Res))),
    ∀ (k : Nat) (d a : Reg), PeDoes k (row.1 k d a) (encR row.2.1 d a 0 0) row.2.2.1 (fun r => r.took d (row.2.2.2 (r.get a)))) ∧
  (∀ row ∈ ([(.peShli, 0x25, 1, fun a n => (a <<< n, 0)), (.peShri, 0x26, 1, fun a n => (a >>> n, 0)),
      (.peShrai, 0x27, 1, fun a n => (a.sshiftRight n, 0)), (.peShls, 0x35, 1, fun a n => satW (a.toInt * 2 ^ n)),
      (.peShrr, 0x36, 1, fun a n => (BitVec.ofInt 32 ((a.toInt + rnd n) / 2 ^ n), 0)),
      (.peQtof, 0x51, 2, fun a n => fFromInt a n), (.peFtoq, 0x52, 2, fun a n => fToInt a n), (.peRecipq, 0x63, 36, recipq)] :
      List ((Nat → Reg → Reg → Reg → Instr) × Nat × Nat × (Word → Nat → Res))),
    ∀ (k : Nat) (d a c : Reg), PeDoes k (row.1 k d a c) (encR row.2.1 d a 0 c) row.2.2.1
      (fun r => r.took d (row.2.2.2 (r.get a) c.val))) ∧
  (∀ row ∈ ([(.peAddk, 0x70, fun a k => (a + k.signExtend 32, 0)), (.peAndk, 0x71, fun a k => (a &&& k.zeroExtend 32, 0)),
      (.peOrk, 0x72, fun a k => (a ||| k.zeroExtend 32, 0)), (.peXork, 0x73, fun a k => (a ^^^ k.zeroExtend 32, 0)),
      (.peCmpltk, 0x74, fun a k => (if a.toInt < k.toInt then 1 else 0, 0)),
      (.peAddsk, 0x75, fun a k => satW (a.toInt + k.toInt))] :
      List ((Nat → Reg → Reg → BitVec 14 → Instr) × Nat × (Word → BitVec 14 → Res))),
    ∀ (k : Nat) (d a : Reg) (v : BitVec 14), PeDoes k (row.1 k d a v) (encK row.2.1 d a v) 1
      (fun r => r.took d (row.2.2 (r.get a) v))) ∧
  (∀ (k : Nat) (d : Reg) (v : BitVec 16),
    PeDoes k (.peMovl k d v) (encW 0x78 d v) 1 (fun r => r.set d (BitVec.ofNat 32 v.toNat)) ∧
    PeDoes k (.peMovh k d v) (encW 0x79 d v) 1
      (fun r => r.set d (BitVec.ofNat 32 (v.toNat * 65536 + (r.get d).toNat % 65536)))) ∧
  (∀ (k : Nat) (d a : Reg),
    PeDoes k (.peMfs k d) (encR 0xF1 d 0 0 0) 1 (fun r => r.set d (BitVec.ofNat 32
      (bitsNat [r.sat, r.nv, r.dz, r.ovf, r.fz, r.nx]))) ∧
    PeDoes k (.peMts k a) (encR 0xF2 0 a 0 0) 1 (fun r => { r with
      sat := bit (r.get a).toNat 0, nv := bit (r.get a).toNat 1, dz := bit (r.get a).toNat 2,
      ovf := bit (r.get a).toNat 3, fz := bit (r.get a).toNat 4, nx := bit (r.get a).toNat 5 }))

/-- For every state in which a copy running on a PE comes to the instruction's word within its WCIC: MAC, MSU, ACLR
and ALD write their accumulator, clamped at 72 bits with SAT, and ARD its register; a load of an aligned address
inside a readable window whose lines carry no error puts the bytes, extended as its row says, into d; a store to an
aligned writable address writes the low bytes of G[d] there, enters address, size and bytes in the signature, and
leaves every register; a branch goes to PC + 4 + 4 x offset when its condition holds and to PC + 4 otherwise; GOTO and
GOTOI jump; CALL at depth below 8 pushes PC + 4; RET at depth above 0 pops it; PHASOR with operands in range writes
the two scaled sums of its readable samples; END ends the copy with its weight counted. Nothing else changes. -/
def Obligations.PeAccumulatorMemoryAndFlow : Prop :=
  (∀ (k : Nat) (d a b : Reg) (n : Fin 4),
    PeDoes k (.peMac k a b n) (encR 0x58 0 a b ⟨n.val, by omega⟩) 2
      (fun r => (r.setAcc n (satA ((r.acc n).toInt + (r.get a).toInt * (r.get b).toInt)).1).raise
        (satA ((r.acc n).toInt + (r.get a).toInt * (r.get b).toInt)).2) ∧
    PeDoes k (.peMsu k a b n) (encR 0x59 0 a b ⟨n.val, by omega⟩) 2
      (fun r => (r.setAcc n (satA ((r.acc n).toInt - (r.get a).toInt * (r.get b).toInt)).1).raise
        (satA ((r.acc n).toInt - (r.get a).toInt * (r.get b).toInt)).2) ∧
    PeDoes k (.peAclr k n) (encR 0x5A 0 0 0 ⟨n.val, by omega⟩) 1 (fun r => r.setAcc n 0) ∧
    PeDoes k (.peAld k a b n) (encR 0x5B 0 a b ⟨n.val, by omega⟩) 1
      (fun r => r.setAcc n (BitVec.ofInt 72 ((r.get a).toInt * 2 ^ b.val))) ∧
    PeDoes k (.peArd k d b n) (encR 0x5C d 0 b ⟨n.val, by omega⟩) 1
      (fun r => r.took d (satW (((r.acc n).toInt + rnd b.val) / 2 ^ b.val)))) ∧
  (∀ row ∈ ([(.peLdW, 0x80, 4, fun v => BitVec.ofNat 32 v), (.peLdH, 0x81, 2, fun v => (BitVec.ofNat 16 v).signExtend 32),
      (.peLdHu, 0x82, 2, fun v => BitVec.ofNat 32 v), (.peLdB, 0x83, 1, fun v => (BitVec.ofNat 8 v).signExtend 32),
      (.peLdBu, 0x84, 1, fun v => BitVec.ofNat 32 v)] :
      List ((Nat → Reg → Reg → BitVec 14 → Instr) × Nat × Nat × (Nat → Word))),
    ∀ (k : Nat) (d a : Reg) (v : BitVec 14) (s : State) (x : Exec) (m : Nat),
      let e := engOfKey false k
      let addr := ((s.eng e).pe.get a + v.signExtend 32).toNat
      s.Ready e 4 (encK row.2.1 d a v) 1 x → addr % row.2.2.1 = 0 → x.physical .load addr row.2.2.1 = some m →
      s.markedLines (e.base + m) row.2.2.1 = [] →
        exec (row.1 k d a v) s = .next (s.modEng e (fun g => { g with
          pe := g.pe.set d (row.2.2.2 (leNat (memReadN g.mem m row.2.2.1))), exec := some (x.past 1 (x.pc + 4)) }))) ∧
  (∀ row ∈ ([(.peStW, 0x88, 4), (.peStH, 0x89, 2), (.peStB, 0x8A, 1)] :
      List ((Nat → Reg → Reg → BitVec 14 → Instr) × Nat × Nat)),
    ∀ (k : Nat) (d a : Reg) (v : BitVec 14) (s : State) (x : Exec) (m : Nat),
      let e := engOfKey false k
      let addr := ((s.eng e).pe.get a + v.signExtend 32).toNat
      s.Ready e 4 (encK row.2.1 d a v) 1 x → addr % row.2.2 = 0 → x.physical .store addr row.2.2 = some m →
      s.markedLines (e.base + m) row.2.2 = [] →
        exec (row.1 k d a v) s = .next (s.stored e x 1 (x.pc + 4) m addr (le row.2.2 ((s.eng e).pe.get d).toNat))) ∧
  (∀ row ∈ ([(.peBrEq, 0x90, fun a b => decide (a = b)), (.peBrNe, 0x91, fun a b => decide (a ≠ b)),
      (.peBrLt, 0x92, fun a b => decide (a.toInt < b.toInt)), (.peBrGe, 0x93, fun a b => decide (b.toInt ≤ a.toInt)),
      (.peBrLtu, 0x94, fun a b => decide (a.toNat < b.toNat)), (.peBrGeu, 0x95, fun a b => decide (b.toNat ≤ a.toNat))] :
      List ((Nat → Reg → Reg → BitVec 14 → Instr) × Nat × (Word → Word → Bool))),
    ∀ (k : Nat) (a b : Reg) (v : BitVec 14),
      PeJumps k (row.1 k a b v) (encK row.2.1 a b v) (fun r => row.2.2 (r.get a) (r.get b) = true)
        (fun _ x => x.pc + 4 + 4 * v.toInt) (fun r _ => r) ∧
      ∀ (s : State) (x : Exec), s.Ready (engOfKey false k) 4 (encK row.2.1 a b v) 1 x →
        row.2.2 ((s.eng (engOfKey false k)).pe.get a) ((s.eng (engOfKey false k)).pe.get b) = false →
          exec (row.1 k a b v) s = .next (s.modEng (engOfKey false k) (fun g =>
            { g with exec := some (x.past 1 (x.pc + 4)) }))) ∧
  (∀ (k : Nat) (a : Reg) (v : BitVec 24),
    PeJumps k (.peGoto k v) (encJ 0x98 v) (fun _ => True) (fun _ x => x.pc + 4 + 4 * v.toInt) (fun r _ => r) ∧
    PeJumps k (.peCall k v) (encJ 0x99 v) (fun r => r.rs.length < 8) (fun _ x => x.pc + 4 + 4 * v.toInt)
      (fun r x => { r with rs := BitVec.ofNat 32 (x.pc + 4) :: r.rs }) ∧
    PeJumps k (.peRet k) (encR 0x9A 0 0 0 0) (fun r => r.rs ≠ []) (fun r _ => ((r.rs.headD 0).toNat : Int))
      (fun r _ => { r with rs := r.rs.tail }) ∧
    PeJumps k (.peGotoi k a) (encR 0x9B 0 a 0 0) (fun _ => True) (fun r _ => ((r.get a).toNat : Int)) (fun r _ => r)) ∧
  (∀ (k : Nat) (d a b c : Reg) (s : State) (x : Exec) (m : Nat),
    let e := engOfKey false k
    let r := (s.eng e).pe
    let n := (r.get b).toNat % 65536
    let start := (r.get b).toNat / 65536
    let base := (r.get a).toNat
    let smp (i : Nat) : Int := (BitVec.ofNat 32 (leNat (memReadN (s.eng e).mem (m + 4 * ((start + i) % n)) 4))).toInt
    let sum (f : Nat → Nat → Int) : Int := ((List.range n).map (fun i => smp i * f (c.val * i % n) n)).foldl (· + ·) 0
    let part (p : Int) : Res := satW ((2 * p + n * 2 ^ 29) / (n * 2 ^ 30))
    s.Ready e 4 (encR 0x64 d a b c) (6 + n) x → 4 ≤ n → n ≤ 256 → start < n → 1 ≤ c.val → c.val ≤ (n - 1) / 2 →
    base % 4 = 0 → base + 4 * n ≤ 2 ^ 32 → (∀ i, i < n → x.physical .load (base + 4 * i) 4 = some (m + 4 * i)) →
    (∀ i, i < n → s.markedLines (e.base + (m + 4 * i)) 4 = []) →
      exec (.pePhasor k d a b c) s = .next (s.modEng e (fun g => { g with
        pe := PeRegs.raise ((r.set d (part (sum cosQ30)).1).set (d + 1) (part (-(sum sinQ30))).1) ((part (sum cosQ30)).2 ||| (part (-(sum sinQ30))).2),
        exec := some (x.past (6 + n) (x.pc + 4)) }))) ∧
  (∀ (k : Nat) (s : State) (x : Exec), s.Ready (engOfKey false k) 4 0xF0000000 4 x →
    exec (.peEnd k) s = .next (s.modEng (engOfKey false k) (fun g => { g with phase := .signing, exec := some (x.past 4 x.pc) })))

/-- For every state in which a copy running on a PE comes to the word: TRAP raises code 0x0C with its k; a CALL with 8
return addresses raises STACK with DETAIL 8 and a RET with none STACK with DETAIL 0; a load or store of a misaligned
word or halfword raises ALIGN, an aligned one outside its windows ACCESS, with DETAIL the logical address; PHASOR with
N, START or h out of range raises ARG with DETAIL the word of G[b]; all these after ICOUNT grew by the weight. ADD,
DIVS, FSQRT, ST_W, BR_EQ and END whose weight would pass WCIC raise WCIC_OVERRUN with ICOUNT unchanged, and an ILLEGAL
word raises ILLEGAL. The record holds code, trap code, PC, ICOUNT and DETAIL; registers, accumulators and local memory
stay. For every state in which a copy running on an LS comes to the word: an ILLEGAL word raises ILLEGAL; an opening
operation at DEPTH 8 and a ")" at DEPTH 0 raise STACK with DETAIL the depth, and so do END and every jump, taken or
not, at a depth other than 0; SET and RST of a bit outside its window raise ACCESS with DETAIL its byte's address,
whatever ACC is; TON of a timer on a POISONED line raises POISON and writes nothing; NOP at ICOUNT = WCIC raises
WCIC_OVERRUN with ICOUNT unchanged. All but ILLEGAL and WCIC_OVERRUN count the instruction. -/
def Obligations.ExceptionsStopTheCopy : Prop :=
  (
  (∀ (k : Nat) (v : BitVec 14) (s : State) (x : Exec), s.Ready (engOfKey false k) 4 (encK 0xF3 0 0 v) 1 x →
    Raises (engOfKey false k) (.peTrap k v) s x 0x0C v.toNat (x.ic + 1) 0) ∧
  (∀ (k : Nat) (v : BitVec 24) (s : State) (x : Exec), s.Ready (engOfKey false k) 4 (encJ 0x99 v) 1 x →
    (s.eng (engOfKey false k)).pe.rs.length = 8 → Raises (engOfKey false k) (.peCall k v) s x 0x0D 0 (x.ic + 1) 8) ∧
  (∀ (k : Nat) (s : State) (x : Exec), s.Ready (engOfKey false k) 4 (encR 0x9A 0 0 0 0) 1 x →
    (s.eng (engOfKey false k)).pe.rs = [] → Raises (engOfKey false k) (.peRet k) s x 0x0D 0 (x.ic + 1) 0) ∧
  (∀ row ∈ ([(.peLdW, 0x80, 4, .load), (.peLdH, 0x81, 2, .load), (.peLdHu, 0x82, 2, .load), (.peLdB, 0x83, 1, .load),
      (.peLdBu, 0x84, 1, .load), (.peStW, 0x88, 4, .store), (.peStH, 0x89, 2, .store), (.peStB, 0x8A, 1, .store)] :
      List ((Nat → Reg → Reg → BitVec 14 → Instr) × Nat × Nat × Access)),
    ∀ (k : Nat) (d a : Reg) (v : BitVec 14) (s : State) (x : Exec),
      let e := engOfKey false k
      let addr := ((s.eng e).pe.get a + v.signExtend 32).toNat
      s.Ready e 4 (encK row.2.1 d a v) 1 x →
        (addr % row.2.2.1 ≠ 0 → Raises e (row.1 k d a v) s x 0x08 0 (x.ic + 1) addr) ∧
        (addr % row.2.2.1 = 0 → x.physical row.2.2.2 addr row.2.2.1 = none →
          Raises e (row.1 k d a v) s x 0x09 0 (x.ic + 1) addr)) ∧
  (∀ (k : Nat) (d a b c : Reg) (s : State) (x : Exec),
    let e := engOfKey false k
    let w := ((s.eng e).pe.get b).toNat
    s.Ready e 4 (encR 0x64 d a b c) (6 + w % 65536) x →
    (w % 65536 < 4 ∨ 256 < w % 65536 ∨ w % 65536 ≤ w / 65536 ∨ c.val = 0 ∨ (w % 65536 - 1) / 2 < c.val) →
      Raises e (.pePhasor k d a b c) s x 0x0B 0 (x.ic + (6 + w % 65536)) w) ∧
  (∀ (k : Nat) (d a b : Reg) (v : BitVec 14), ∀ row ∈ ([(.peAdd k d a b, encR 0x10 d a b 0, 1),
      (.peDivs k d a b, encR 0x1D d a b 0, 34), (.peFsqrt k d a, encR 0x46 d a 0 0, 14), (.peStW k d a v, encK 0x88 d a v, 1),
      (.peBrEq k a b v, encK 0x90 a b v, 1), (.peEnd k, 0xF0000000, 4)] : List (Instr × Nat × Nat)),
    ∀ (s : State) (x : Exec), (s.eng (engOfKey false k)).phase = .running → (s.eng (engOfKey false k)).exec = some x →
      s.fetch (engOfKey false k) x 4 = (.ok row.2.1, s) → x.wcic < x.ic + row.2.2 →
        Raises (engOfKey false k) row.1 s x 0x07 0 x.ic 0) ∧
  (∀ (k : Nat) (s : State) (x : Exec) (w : Nat), (s.eng (engOfKey false k)).phase = .running →
    (s.eng (engOfKey false k)).exec = some x → s.fetch (engOfKey false k) x 4 = (.ok w, s) → peLegal w = false →
      Raises (engOfKey false k) (.peIllegalEncoding k) s x 0x06 0 x.ic 0) ∧
  (peLegal 0 = false ∧ peLegal 0xFFFFFFFF = false ∧ ∀ w, w < 2 ^ 32 →
    w / 2 ^ 24 ∈ [0x76, 0x77, 0x85, 0x86, 0x87, 0x96, 0x97] → peLegal w = false)) ∧
  (
  (∀ (k : Nat) (s : State) (x : Exec) (w : Nat), (s.eng (engOfKey true k)).phase = .running →
    (s.eng (engOfKey true k)).exec = some x → s.fetch (engOfKey true k) x 2 = (.ok w, s) → lsLegal w = false →
      Raises (engOfKey true k) (.lsIllegalEncoding k) s x 0x06 0 x.ic 0) ∧
  (∀ row ∈ ([(.lsAndOpen, 0), (.lsAndnOpen, 1), (.lsOrOpen, 2), (.lsOrnOpen, 3), (.lsXorOpen, 4)] : List ((Nat → Instr) × Nat)),
    ∀ (k : Nat) (s : State) (x : Exec), s.Ready (engOfKey true k) 2 (0xF000 + row.2) 1 x →
      (s.eng (engOfKey true k)).lsr.stack.length = 8 → Raises (engOfKey true k) (row.1 k) s x 0x0D 0 (x.ic + 1) 8) ∧
  (∀ (k : Nat) (s : State) (x : Exec), s.Ready (engOfKey true k) 2 0xF005 1 x → (s.eng (engOfKey true k)).lsr.stack = [] →
    Raises (engOfKey true k) (.lsClose k) s x 0x0D 0 (x.ic + 1) 0) ∧
  (∀ (k : Nat) (n : BitVec 8), ∀ row ∈ ([(.lsEnd k, 0xF007), (.lsJmp k n, 0xF100 + n.toNat), (.lsJc k n, 0xF200 + n.toNat),
      (.lsJnc k n, 0xF300 + n.toNat)] : List (Instr × Nat)),
    ∀ (s : State) (x : Exec), s.Ready (engOfKey true k) 2 row.2 1 x → (s.eng (engOfKey true k)).lsr.stack ≠ [] →
      Raises (engOfKey true k) row.1 s x 0x0D 0 (x.ic + 1) (s.eng (engOfKey true k)).lsr.stack.length) ∧
  (∀ row ∈ ([(.lsSet, 10), (.lsRst, 11)] : List ((Nat → Fin 4 → Fin 1024 → Instr) × Nat)),
    ∀ sb ∈ ([(1, 0x10000020), (2, 0x30000000)] : List (Fin 4 × Nat)), ∀ (k : Nat) (i : Fin 1024) (s : State) (x : Exec),
      s.Ready (engOfKey true k) 2 (row.2 * 4096 + sb.1.val * 1024 + i.val) 1 x → x.physical .store (sb.2 + i.val / 8) 1 = none →
        Raises (engOfKey true k) (row.1 k sb.1 i) s x 0x09 0 (x.ic + 1) (sb.2 + i.val / 8)) ∧
  (∀ (k : Nat) (n : Fin 128) (s : State) (x : Exec) (a : Nat), s.Ready (engOfKey true k) 2 (0xD000 + n.val) 1 x →
    x.physical .load (0x100000A0 + 16 * n.val) 16 = some a → s.anvil.errs = [] →
    ((engOfKey true k).base + a) / 32 ∈ s.anvil.poison →
      Raises (engOfKey true k) (.lsTon k n) s x 0x0A 0 (x.ic + 1) (0x100000A0 + 16 * n.val)) ∧
  (∀ (k : Nat) (s : State) (x : Exec), (s.eng (engOfKey true k)).phase = .running → (s.eng (engOfKey true k)).exec = some x →
    s.fetch (engOfKey true k) x 2 = (.ok 0xF008, s) → x.ic = x.wcic → Raises (engOfKey true k) (.lsNop k) s x 0x07 0 x.ic 0))

/-- For every pair of operand words: the ISQRT value r satisfies r^2 <= u < (r + 1)^2 for the unsigned operand u; the
MAG value does so for a^2 + b^2 of the signed operands, and fits 32 bits; for b not 0 and not the pair -2^31, -1, a =
b x DIVS + REMS with |REMS| < |b| and REMS of the sign of a or 0; RECIPQ of a > 0 whose value does not clamp lies
within half of a of 2^(2k) when multiplied by a; sat32 gives the nearest value of the range and SAT exactly when it
moves its argument. -/
def Obligations.PeRootsAndQuotients : Prop :=
  (∀ a : Word, isqrt a.toNat ^ 2 ≤ a.toNat ∧ a.toNat < (isqrt a.toNat + 1) ^ 2 ∧ isqrt a.toNat < 2 ^ 32) ∧
  (∀ a b : Word,
    let u := a.toInt.natAbs ^ 2 + b.toInt.natAbs ^ 2
    isqrt u ^ 2 ≤ u ∧ u < (isqrt u + 1) ^ 2 ∧ isqrt u < 2 ^ 32) ∧
  (∀ a b : Word, b ≠ 0 → ¬ (a = 0x80000000 ∧ b = 0xFFFFFFFF) →
    a.toInt = b.toInt * (divsWord a b).toInt + (remsWord a b).toInt ∧
      (remsWord a b).toInt.natAbs < b.toInt.natAbs ∧ (0 ≤ a.toInt → 0 ≤ (remsWord a b).toInt) ∧
      (a.toInt ≤ 0 → (remsWord a b).toInt ≤ 0)) ∧
  (∀ (a : Word) (k : Nat), k ≤ 30 → 0 < a.toInt → (recipq a k).2 = 0 →
    (2 * (a.toInt * (recipq a k).1.toInt - 2 ^ (2 * k))).natAbs ≤ a.toInt.natAbs) ∧
  (∀ v : Int, ((satW v).1.toInt = min (max v (-2147483648)) 2147483647) ∧
    ((satW v).2 = if (satW v).1.toInt = v then 0 else 1))

/-- For every state in which a copy running on an LS comes to the instruction's word within its WCIC, the bit, timer
or counter it names being inside its window on lines without errors: LD to XOR combine ACC with the bit (or the
constant of space S); ST, STN, SET and RST write the byte with that bit changed, or nothing where SET or RST finds ACC
0; EDGE_RISE and EDGE_FALL give ACC the edge and the M bit the old ACC; TON, TOF and TP give the record of their
procedure with PREV_IN the input and ACC = Q; CTU, CTD, CRST and CLD that of theirs; an opening operation at DEPTH
below 8 pushes (ACC, operation), ")" pops and combines, NOT inverts, NOP changes nothing; JMP, JC and JNC at DEPTH 0
go 2 + 2 n further when taken; END at DEPTH 0 ends the copy. Each counts 1 in ICOUNT; what is written enters the
signature; nothing else changes. -/
def Obligations.LsInstructions : Prop :=
  (∀ row ∈ ([(.lsLd, 1, fun _ b => b), (.lsLdn, 2, fun _ b => !b), (.lsAnd, 3, fun a b => a && b),
      (.lsAndn, 4, fun a b => a && !b), (.lsOr, 5, fun a b => a || b), (.lsOrn, 6, fun a b => a || !b),
      (.lsXor, 7, fun a b => a != b)] : List ((Nat → Fin 4 → Fin 1024 → Instr) × Nat × (Bool → Bool → Bool))),
    ∀ (k : Nat) (i : Fin 1024),
      (∀ sb ∈ ([(0, 0x20000000), (1, 0x10000020), (2, 0x30000000)] : List (Fin 4 × Nat)),
        LsUses k (row.1 k sb.1 i) (row.2.1 * 4096 + sb.1.val * 1024 + i.val) (sb.2 + i.val / 8) 1 (fun r _ _ p =>
          ({ r with acc := row.2.2 r.acc ((byteAt p 0).testBit (i.val % 8)) }, none))) ∧
      (i.val ≤ 4 → LsDoes k (row.1 k 3 i) (row.2.1 * 4096 + 3072 + i.val) (fun _ _ => True)
        (fun r x =>
          let b := if i.val = 0 then false else if i.val = 1 then true else x.flags.testBit (i.val - 2)
          { r with acc := row.2.2 r.acc b }) (fun _ x => x.pc + 2))) ∧
  (∀ row ∈ ([(.lsSt, 8, fun a => some a), (.lsStn, 9, fun a => some !a), (.lsSet, 10, fun a => if a then some true else none),
      (.lsRst, 11, fun a => if a then some false else none)] :
      List ((Nat → Fin 4 → Fin 1024 → Instr) × Nat × (Bool → Option Bool))),
    ∀ (k : Nat) (i : Fin 1024), ∀ sb ∈ ([(1, 0x10000020), (2, 0x30000000)] : List (Fin 4 × Nat)),
      LsUses k (row.1 k sb.1 i) (row.2.1 * 4096 + sb.1.val * 1024 + i.val) (sb.2 + i.val / 8) 1 (fun r _ _ p =>
        (r, (row.2.2 r.acc).map (withBit p (i.val % 8)))) ∧
      ∀ (s : State) (x : Exec) (a : Nat),
        s.Ready (engOfKey true k) 2 (row.2.1 * 4096 + sb.1.val * 1024 + i.val) 1 x →
        row.2.2 (s.eng (engOfKey true k)).lsr.acc = none → x.physical .store (sb.2 + i.val / 8) 1 = some a →
          exec (row.1 k sb.1 i) s = .next (s.modEng (engOfKey true k) (fun g => { g with exec := some (x.past 1 (x.pc + 2)) }))) ∧
  (∀ (k : Nat) (i : Fin 1024),
    LsUses k (.lsEdgeRise k i) (0xC000 + i.val) (0x10000020 + i.val / 8) 1 (fun r _ _ p =>
      ({ r with acc := r.acc && !(byteAt p 0).testBit (i.val % 8) }, some (withBit p (i.val % 8) r.acc))) ∧
    LsUses k (.lsEdgeFall k i) (0xC400 + i.val) (0x10000020 + i.val / 8) 1 (fun r _ _ p =>
      ({ r with acc := !r.acc && (byteAt p 0).testBit (i.val % 8) }, some (withBit p (i.val % 8) r.acc)))) ∧
  (∀ row ∈ ([(.lsTon, 0xD000, Timer.ton), (.lsTof, 0xD400, Timer.tof), (.lsTp, 0xD800, Timer.tp)] :
      List ((Nat → Fin 128 → Instr) × Nat × (Timer → Bool → Nat → Nat → Timer))),
    ∀ (k : Nat) (n : Fin 128), LsUses k (row.1 k n) (row.2.1 + n.val) (0x100000A0 + 16 * n.val) 16 (fun r x s p =>
      let cycle := leNat (memReadN (s.eng (engOfKey true k)).mem (x.areas.dataBase + 0x10) 8)
      let t := row.2.2 { pt := u32 p 0, et := u32 p 4, last := uN p 8 6, run := bit (byteAt p 14) 0,
                         q := bit (byteAt p 14) 1, prev := bit (byteAt p 14) 2 } r.acc cycle x.cycle
      ({ r with acc := t.q }, some (le 4 t.pt ++ le 4 t.et ++ le 6 t.last ++ le 2 (bitsNat [t.run, t.q, r.acc]))))) ∧
  (∀ row ∈ ([(.lsCtu, 0xE000, fun c i p => ((if i && !p then min (c.2 + 1) 65535 else c.2), i, true, false)),
      (.lsCtd, 0xE400, fun c i p => ((if i && !p then c.2 - 1 else c.2), i, true, true)),
      (.lsCrst, 0xE800, fun c i p => ((if i then 0 else c.2), p, false, false)),
      (.lsCld, 0xEC00, fun c i p => ((if i then c.1 else c.2), p, false, true))] :
      List ((Nat → Fin 128 → Instr) × Nat × (Nat × Nat → Bool → Bool → Nat × Bool × Bool × Bool))),
    ∀ (k : Nat) (n : Fin 128), LsUses k (row.1 k n) (row.2.1 + n.val) (0x100008A0 + 8 * n.val) 8 (fun r _ _ p =>
      let v := row.2.2 (u16 p 0, u16 p 2) r.acc (bit (byteAt p 4) 0)
      let q := if v.2.2.2 then v.1 == 0 else decide (u16 p 0 ≤ v.1)
      ({ r with acc := if v.2.2.1 then q else r.acc },
        some (le 2 (u16 p 0) ++ le 2 v.1 ++ le 2 (bitsNat [v.2.1, q]) ++ zeros 2)))) ∧
  (∀ row ∈ ([(.lsAndOpen, 0), (.lsAndnOpen, 1), (.lsOrOpen, 2), (.lsOrnOpen, 3), (.lsXorOpen, 4)] : List ((Nat → Instr) × Nat)),
    ∀ k : Nat, LsDoes k (row.1 k) (0xF000 + row.2) (fun r _ => r.stack.length < 8)
      (fun r _ => { r with stack := (r.acc, row.2) :: r.stack }) (fun _ x => x.pc + 2)) ∧
  (∀ (k : Nat) (v : Bool) (rest : List (Bool × Nat)),
    ∀ row ∈ ([(0, fun n => v && n), (1, fun n => v && !n), (2, fun n => v || n), (3, fun n => v || !n), (4, fun n => v != n)] :
      List (Nat × (Bool → Bool))),
      LsDoes k (.lsClose k) 0xF005 (fun r _ => r.stack = (v, row.1) :: rest) (fun r _ => { acc := row.2 r.acc, stack := rest })
        (fun _ x => x.pc + 2)) ∧
  (∀ k : Nat, LsDoes k (.lsNot k) 0xF006 (fun _ _ => True) (fun r _ => { r with acc := !r.acc }) (fun _ x => x.pc + 2) ∧
    LsDoes k (.lsNop k) 0xF008 (fun _ _ => True) (fun r _ => r) (fun _ x => x.pc + 2) ∧
    ∀ (s : State) (x : Exec), s.Ready (engOfKey true k) 2 0xF007 1 x → (s.eng (engOfKey true k)).lsr.stack = [] →
      exec (.lsEnd k) s = .next (s.modEng (engOfKey true k) (fun g => { g with phase := .signing, exec := some (x.past 1 x.pc) }))) ∧
  (∀ row ∈ ([(.lsJmp, 0xF100, fun _ => true), (.lsJc, 0xF200, fun a => a), (.lsJnc, 0xF300, fun a => !a)] :
      List ((Nat → BitVec 8 → Instr) × Nat × (Bool → Bool))),
    ∀ (k : Nat) (n : BitVec 8), n ≠ 0 → LsDoes k (row.1 k n) (row.2.1 + n.toNat) (fun r _ => r.stack = []) (fun r _ => r)
      (fun r x => if row.2.2 r.acc then x.pc + 2 + 2 * n.toNat else x.pc + 2))

/-- For every state and every packet that passes its checks and names no FI of an open or staged change: LOAD_IMAGE
stores a chunk of a container not yet complete, and loads a container that its chunk completes with a right CRC and
R212 met; FREE_IMAGE frees an image that nothing names; BIND_SIGNALS fills indices of a placed instance that is not
running, a chunk with FIRST 0 beginning anew; START_INSTANCE COLD of a placed bound instance in READY, STOPPED or
FAULTED makes it STARTING at its start latch and replies that tick; STOP_INSTANCE makes a RUNNING instance STOPPING, a
STARTING one what it was; WRITE_SETTINGS of an instance that is not running writes every setting, records each and
renews its snapshot; of a running one it waits for its latch, with ACCEPTED where that is over 1 ms ahead;
STAGE_CHANGE opens a change, adds an entry, or at CLOSE replies ACCEPTED and stages; SWITCH_CHANGE replies ACCEPTED
and waits for the switch; CANCEL_CHANGE discards an open change; GET_RUN_STATE and GET_CHANGE reply their fields. -/
def Obligations.ProgramCommandsComplete : Prop :=
  let id (c : Cmd) : Nat := u32 c.params 0
  let fi (c : Cmd) : Nat := u16 c.params 0
  let total (c : Cmd) : Nat := u32 c.params 8
  let im (s : State) (c : Cmd) : FnImage := (s.prog.images.get (id c)).getD
    { owner := c.inst, total := total c, got := [], loaded := false, bytes := [] }
  let got (s : State) (c : Cmd) : Tab Byte := putChunk (im s c).got (u32 c.params 4) (c.params.drop 0x0C)
  let chunkOk (s : State) (c : Cmd) : Prop :=
    id c ≠ 0 ∧ id c ≠ 0xFFFFFFFF ∧ u32 c.params 4 % 4 = 0 ∧ u32 c.params 4 + (c.params.drop 0x0C).length ≤ total c ∧
      total c % 4 = 0 ∧ 0x44 ≤ total c ∧ total c ≤ 67108864 ∧ (im s c).loaded = false ∧ (im s c).total = total c ∧
      (s.prog.images.get (id c) = none → s.prog.images.length < 1024 ∧
        (s.prog.images.map (fun e => e.2.total)).foldl (· + ·) 0 + total c ≤ 67108864)
  let settingsOk (s : State) (c : Cmd) (x : Inst) : Prop :=
    x.isPlaced = true ∧ s.inChange (fi c) = false ∧
      ∀ e ∈ settingsOf c.params, (imgSettings (s.imageD x.image)).contains (e.2.1, e.2.2) = true
  let oneWrite (s : State) (c : Cmd) : State :=
    match s.inst (fi c), settingsOf c.params with
    | some x, [e] => s.setInst (fi c) { x with setWrites := x.setWrites ++ [{
        offset := e.2.1, value := slice c.params (e.1 + 4) e.2.2,
        tick := (s.resolveLatch x (u64 c.params 4) c.own).getD 0, origin := c.inst }] }
    | _, _ => s
  let applyAt (s : State) (c : Cmd) : Wait :=
    .settings (fi c) (((s.inst (fi c)).bind (fun x => s.resolveLatch x (u64 c.params 4) c.own)).getD 0)
  let runningWrite (s : State) (c : Cmd) (far : Bool) : Prop :=
    ∃ x n e, s.inst (fi c) = some x ∧ x.isRunning = true ∧ settingsOf c.params = [e] ∧ settingsOk s c x ∧
      s.resolveLatch x (u64 c.params 4) c.own = some n ∧ decide (boundaryQ n > s.now + 1000000 * qNs) = far
  let ch (s : State) : OnLine := s.prog.change
  cardLoadImage.Completes .loadImage (fun s c => chunkOk s c ∧ (got s c).length < total c)
    (fun s c => { s with prog.images := s.prog.images.put (id c) { im s c with got := got s c } }) (fun _ _ => []) ∧
  cardLoadImage.Completes .loadImage
    (fun s c => chunkOk s c ∧ (got s c).length = total c ∧
      let b := (got s c).map (·.2)
      crc32c (b.take (total c - 4)) = u32 b (total c - 4) ∧ imgFault b (id c) (total c) = none)
    (fun s c => { s with prog.images := s.prog.images.put (id c) { im s c with
      loaded := true, bytes := (got s c).map (·.2), got := [] } }) (fun _ _ => []) ∧
  cardFreeImage.Completes .freeImage
    (fun s c => ∃ m, s.prog.images.get (id c) = some m ∧ (m.loaded = true → s.imageUsed (id c) = false))
    (fun s c => { s with prog.images := s.prog.images.del (id c) }) (fun _ _ => []) ∧
  cardBindSignals.Completes .bindSignals
    (fun s c => s.inChange (fi c) = false ∧ ∃ x, s.inst (fi c) = some x ∧ x.isRunning = false ∧ x.isPlaced = true ∧
      (u16 c.params 4 = 0 ∨ x.binds ≠ [] ∧ x.bindN = u16 c.params 2))
    (fun s c => match s.inst (fi c) with
      | some x => s.setInst (fi c) { x with
          bindN := u16 c.params 2
          binds := (List.range (u16 c.params 6)).foldl (fun (t : Tab Nat) i => t.put (u16 c.params 4 + i) (u16 c.params (8 + 2 * i)))
            (if u16 c.params 4 = 0 then [] else x.binds) }
      | none => s) (fun _ _ => []) ∧
  cardStartInstance.Completes .startInstance
    (fun s c => byteAt c.params 2 = 0 ∧ s.inChange (fi c) = false ∧ s.ptValid = true ∧ ∃ x n, s.inst (fi c) = some x ∧
      (x.run = .ready ∨ x.run = .stopped ∨ x.run = .faulted) ∧ x.isPlaced = true ∧ s.signalsBound x = true ∧
      s.resolveLatch x (u64 c.params 4) c.own = some n ∧ s.retainFull (fi c) x.image = false ∧
      ∀ q ∈ s.pub.pubs, (q.2.enabled && q.2.cls == 0 && q.2.driver == fi c) = false)
    (fun s c => match s.inst (fi c) with
      | some x => s.setInst (fi c) { x with
          pubDelay := u32 c.params 0x0C, prevRun := x.run, run := .starting, lastMode := some .cold, mode := .cold
          nextTick := (s.resolveLatch x (u64 c.params 4) c.own).getD 0, restart := false }
      | none => s)
    (fun s c => le 8 (((s.inst (fi c)).bind (fun x => s.resolveLatch x (u64 c.params 4) c.own)).getD 0)) ∧
  cardStopInstance.Completes .stopInstance
    (fun s c => s.inChange (fi c) = false ∧ ∃ x n, s.inst (fi c) = some x ∧ x.run = .running ∧
      s.resolveLatch x (u64 c.params 4) c.own = some n)
    (fun s c => match s.inst (fi c) with
      | some x => s.setInst (fi c) { x with
          run := .stopping, nextTick := (s.resolveLatch x (u64 c.params 4) c.own).getD 0 }
      | none => s)
    (fun s c => le 8 (((s.inst (fi c)).bind (fun x => s.resolveLatch x (u64 c.params 4) c.own)).getD 0)) ∧
  cardStopInstance.Completes .stopInstance
    (fun s c => s.inChange (fi c) = false ∧ ∃ x, s.inst (fi c) = some x ∧ x.run = .starting ∧ x.setWrites = [])
    (fun s c => match s.inst (fi c) with
      | some x => s.setInst (fi c) { x with run := x.prevRun, nextTick := 0 }
      | none => s)
    (fun s c => le 8 (((s.inst (fi c)).map (·.nextTick)).getD 0)) ∧
  cardWriteSettings.Completes .writeSettings
    (fun s c => ∃ x, s.inst (fi c) = some x ∧ x.isRunning = false ∧ settingsOk s c x)
    (fun s c => ((settingsOf c.params).foldl (fun t e =>
      match s.inst (fi c) with
      | some x => (t.writeDataAll x e.2.1 (slice c.params (e.1 + 4) e.2.2)).post 0x0303
          (le 2 (fi c) ++ le 2 e.2.1 ++ le 2 e.2.2 ++ le 8 0)
      | none => t) s).snapStill (fi c)) (fun _ _ => []) ∧
  cardWriteSettings.Defers .writeSettings (fun s c => runningWrite s c false) oneWrite applyAt ∧
  cardWriteSettings.Accepts .writeSettings (fun s c => runningWrite s c true) oneWrite applyAt true (fun _ _ => none) ∧
  cardStageChange.Completes .stageChange (fun s c => byteAt c.params 0 = 0 ∧ (ch s).st = .none)
    (fun s _ => { s with prog.change := { st := .open_, failFi := (ch s).failFi, failSt := (ch s).failSt } }) (fun _ _ => []) ∧
  cardStageChange.Completes .stageChange
    (fun s c => 1 ≤ byteAt c.params 0 ∧ byteAt c.params 0 ≤ 4 ∧ (ch s).st = .open_ ∧ (ch s).entries.length < 4095 ∧
      (s.inst (u16 c.params 2)).isSome = true ∧ (byteAt c.params 0 = 1 → (s.image (u32 c.params 4)).isSome = true) ∧
      (byteAt c.params 0 ≠ 4 → ∀ e ∈ (ch s).entries, e.fi = u16 c.params 2 → ∃ o v, e = .setting (u16 c.params 2) o v))
    (fun s c => { s with prog.change.entries := (ch s).entries ++ [
      if byteAt c.params 0 = 1 then .replace (u16 c.params 2) (u32 c.params 4)
      else if byteAt c.params 0 = 2 then .add (u16 c.params 2)
      else if byteAt c.params 0 = 3 then .remove (u16 c.params 2)
      else .setting (u16 c.params 2) (u16 c.params 8) (slice c.params 0x0C (u16 c.params 0x0A))] }) (fun _ _ => []) ∧
  cardStageChange.Accepts .stageChange (fun s c => byteAt c.params 0 = 5 ∧ (ch s).st = .open_)
    (fun s _ => ({ s with prog.change.st := .staging } : State).tellNodes 0x0307 (le 1 5 ++ zeros 11)) (fun _ _ => .stage) false
    (fun _ _ => none) ∧
  cardSwitchChange.Accepts .switchChange
    (fun s c => (ch s).st = .staged ∧ (ch s).tick = 0 ∧ (s.resolveSwitch (u64 c.params 0) c.own).isSome = true)
    (fun s c =>
      let n := (s.resolveSwitch (u64 c.params 0) c.own).getD 0
      (s.added.foldl (fun (t : State) fi => t.startAdded n fi) { s with prog.change.tick := n }).tellNodes 0x0308 (le 8 n))
    (fun _ _ => .switch) true (fun _ _ => none) ∧
  cardCancelChange.Completes .cancelChange (fun s _ => (ch s).st = .open_ ∧ (ch s).tick = 0 ∧ s.stratus.changeNodes = [] ∧
      (∀ e ∈ (ch s).entries, ∀ f, e ≠ .add f) ∧ ∀ a ∈ s.cmd.accepted, a.wait ≠ .switch)
    (fun s _ => State.dropRings { s with
      prog.change := { failFi := (ch s).failFi, failSt := (ch s).failSt }
      place.insts := s.place.insts.mapV (fun _ x => { x with
        newImage := none, copies := x.copies.map (fun k => { k with newAreas := none, newSpan := 0 }) }) }) (fun _ _ => []) ∧
  cardGetRunState.Reads .getRunState (fun s c => (s.inst (fi c)).isSome = true) (fun s c =>
    match s.inst (fi c) with
    | some x =>
      le 2 (fi c) ++ le 1 x.run.code ++ le 1 (match x.lastMode with
        | some m => m.code
        | none => 0xFF) ++ le 4 x.image ++ le 4 (x.pubQ / qNs) ++ le 8 x.cycleNo ++ le 8 x.nextTick ++
        le 8 (((s.prog.retained.get (fi c)).map (·.tick)).getD 0) ++ le 1 x.faultCode ++ zeros 3
    | none => []) ∧
  cardGetChange.Reads .getChange (fun _ _ => True) (fun s _ =>
    le 1 s.changeCode ++ zeros 1 ++ le 2 (ch s).entries.length ++ le 8 (ch s).tick ++ le 2 (ch s).failFi ++ le 2 (ch s).failSt)

/-- For every state, every instance of a cycle class c > 0 and a phase below c, and a command of one of the module's
own channels: with the tick operand 0 the selected latch is the smallest tick number of the instance's phase whose
boundary is at least 200 us after now; with another tick it is the smallest one of the phase at or after that tick,
and none is selected if its boundary lies less than 200 us ahead. SWITCH_TICK 0 selects the first boundary at least 2
ms ahead, another one itself if it is. A boundary N lies at N x 31250 / 3 ns: three boundaries make exactly 31250 ns.
For every state: LATCH of a RUNNING placed instance at a latch not yet taken, with no fault, restart, setting or
switch due, begins the cycle CYCLE + 1 with that tick, and of an instance that does not run a cycle withheld from
which its outputs turn safe; a latch already taken changes nothing. COPY_START at its instant on an idle engine puts
the copy at the image's entry point with ICOUNT 0, an empty log, G1 the entry flags and G2 to G4 the region bases, and
clears the OUTPUT window. SIGNATURE_POSTED of a SIGNING engine makes it DONE and posts for its cycle the CRC-32C of
its store log followed by ICOUNT, and the words of the OUTPUT window. SPAN_END at or after the end of the span makes
the engine idle, and before it changes nothing. -/
def Obligations.LatchesAndCyclesAreExact : Prop :=
  (
  (∀ (s : State) (x : Inst), 0 < x.cycle → x.phase < x.cycle →
    (∃ n, s.resolveLatch x 0 true = some n ∧ n % x.cycle = x.phase ∧ boundaryQ n ≥ s.now + 200000 * qNs ∧
      ∀ m, m % x.cycle = x.phase → boundaryQ m ≥ s.now + 200000 * qNs → n ≤ m) ∧
    (∀ t, t ≠ 0 → ∃ n, n % x.cycle = x.phase ∧ t ≤ n ∧ (∀ m, m % x.cycle = x.phase → t ≤ m → n ≤ m) ∧
      s.resolveLatch x t true = if boundaryQ n ≥ s.now + 200000 * qNs then some n else none)) ∧
  (∀ s : State, ∃ n, s.resolveSwitch 0 true = some n ∧ boundaryQ n ≥ s.now + 2000000 * qNs ∧
    ∀ m, boundaryQ m ≥ s.now + 2000000 * qNs → n ≤ m) ∧
  (∀ (s : State) (t : Nat), t ≠ 0 →
    s.resolveSwitch t true = if boundaryQ t ≥ s.now + 2000000 * qNs then some t else none) ∧
  (∀ n, boundaryQ (3 * n) = n * 31250 * qNs ∧ ∀ m, boundaryQ m < boundaryQ (m + 1))) ∧
  (
  (∀ (dt fi n : Nat) (s : State) (x : Inst),
    let s1 := s.advance dt
    s.inst fi = some x → x.isPlaced = true → s1.ptValid = true → s1.latchNow x = some n → x.lastTick ≠ some n →
      s.prog.change.st ≠ .staged → x.faultNext = false → x.coldNext = false → x.warmAfter = none → x.setWrites = [] →
      (x.run = .running → s.partsOf x ≠ [] → ∃ t y c, exec (.latch dt fi) s = .next t ∧ t.inst fi = some y ∧
        y.cycleNo = x.cycleNo + 1 ∧ y.run = .running ∧ y.lastTick = some n ∧ y.cycles.getLast? = some c ∧ c.tick = n ∧
        c.ran = true ∧ c.cyc = x.cycleNo + 1 ∧ c.who = s.partsOf x ∧ c.verdict = none ∧
        c.imgCrc = crc32c (s1.imageHalf x n) ∧ ∀ f, f ≠ fi → t.inst f = s.inst f) ∧
      (x.run = .ready → ∃ t y c, exec (.latch dt fi) s = .next t ∧ t.inst fi = some y ∧ y.cycleNo = x.cycleNo ∧
        y.run = .ready ∧ y.cycles.getLast? = some c ∧ c.tick = n ∧ c.ran = false ∧ c.verdict = some .withheld ∧
        y.safeFrom = some (x.safeFrom.getD n))) ∧
  (∀ (dt fi n : Nat) (s : State) (x : Inst), s.inst fi = some x → (s.advance dt).latchNow x = some n → x.lastTick = some n →
    exec (.latch dt fi) s = .next (s.advance dt)) ∧
  (∀ (dt fi k : Nat) (s : State) (x : Inst) (c : Cycle) (p : Part),
    let s1 := s.advance dt
    s.inst fi = some x → x.cycles.getLast? = some c → c.who.find? (fun q => q.k == k) = some p →
      p.eng.cc < 32 → p.eng.no < (if p.eng.ls then 2 else 17) →
      c.displaced.contains k = false → c.posts.getD (k - 1) none = none → c.verdict = none →
      s1.reached (boundaryQ c.tick + startOffset x.cls k * 100 * qNs) = true → (s.eng p.eng).phase = .idle →
      (s.eng p.eng).st ≠ .failed → (s.eng p.eng).diagDue = none →
        ∃ t r, exec (.copyStart dt fi k) s = .next t ∧ (t.eng p.eng).phase = .running ∧ (t.eng p.eng).exec = some r ∧
          r.fi = fi ∧ r.copy = k ∧ r.tick = c.tick ∧ r.pc = imgEntry (s.imageD c.image) ∧ r.ic = 0 ∧ r.log = [] ∧
          r.exc = none ∧ r.wcic = x.wcic ∧ r.flags = s.entryFlags p ∧
          (t.eng p.eng).pe.g = [0, BitVec.ofNat 32 r.flags, 0x10000000, 0x20000000, 0x30000000] ++ List.replicate 27 0 ∧
          (t.eng p.eng).lsr = {} ∧
          (∀ a, p.areas.outBase ≤ a → a < p.areas.outBase + 4 * p.areas.outWords → memRead (t.eng p.eng).mem a = 0)) ∧
  (∀ (dt k : Nat) (ls : Bool) (s : State) (x : Exec) (i : Inst) (c : Cycle),
    let e := engOfKey ls k
    let outs := s.outputWords e x.areas
    (s.eng e).phase = .signing → (s.eng e).exec = some x → s.inst x.fi = some i → c ∈ i.cycles → c.tick = x.tick →
      c.verdict = none → 0 < x.copy → x.copy ≤ c.posts.length → c.posts.getD (x.copy - 1) none = none →
        ∃ t j d p, exec (.signaturePosted dt ls k) s = .next t ∧ (t.eng e).phase = .done ∧ (t.eng e).exec = some x ∧
          (t.eng e).mem = (s.eng e).mem ∧ t.inst x.fi = some j ∧ d ∈ j.cycles ∧ d.tick = x.tick ∧
          d.posts.getD (x.copy - 1) none = some p ∧ p.tick = x.tick ∧ p.sig = crc32c (x.log ++ le 4 x.ic) ∧
          p.outs = outs ∧ p.outCrc = crc32c (outs.flatMap (le 4)) ∧ p.exc = none) ∧
  (∀ (dt k : Nat) (ls : Bool) (s : State) (x : Exec),
    let e := engOfKey ls k
    (s.eng e).exec = some x →
      ((s.advance dt).reached (boundaryQ (x.tick + x.span)) = true →
        ∃ t, exec (.spanEnd dt ls k) s = .next t ∧ (t.eng e).phase = .idle ∧ (t.eng e).exec = none ∧
          (t.eng e).mem = (s.eng e).mem) ∧
      ((s.advance dt).reached (boundaryQ (x.tick + x.span)) = false →
        exec (.spanEnd dt ls k) s = .next (s.advance dt))))

/-- For every state: CHANGE_COMPLETION before the switch instant changes nothing. After it, on a module with no
worker's part, when every entry is of an instance that has published its first new cycle: the change is none, no copy
holds old areas, and every SWITCH_CHANGE that waited has its outcome, FAULT with the fault class if an instance of the
change faulted in its first new cycle, else OK. -/
def Obligations.ChangeCompletes : Prop :=
  (∀ (dt : Nat) (s : State), (s.advance dt).switched (s.advance dt).tickNow = false →
    exec (.changeCompletion dt) s = .next (s.advance dt)) ∧
  (∀ (dt : Nat) (s : State),
    let s1 := s.advance dt
    s1.switched s1.tickNow = true → s.stratus.changeNodes = [] →
      (∀ e ∈ s.prog.change.entries, ∃ f i x, e = .replace f i ∧ s.inst f = some x ∧ x.firstNew.isSome = true ∧ x.newOut = true) →
      (∀ p ∈ s.place.insts, p.2.removeNext = false) →
        ∃ t, exec (.changeCompletion dt) s = .next t ∧ t.prog.change.st = .none ∧ t.prog.change.entries = [] ∧
          (∀ p ∈ t.place.insts, ∀ c ∈ p.2.copies, c.oldAreas = none) ∧
          (∀ a ∈ s.cmd.accepted, a.wait = .switch → a.result = none → ∃ b ∈ t.cmd.accepted, b.cmd = a.cmd ∧
            b.result = some (if s.prog.change.faultCls = 0 then stOk else stFault, s.prog.change.faultCls,
              le 8 s.prog.change.tick)))

/-- For every state and every packet that passes its checks: BIND_OUTPUTS of an instance that is not running replaces
its binding where no other source drives the signals; DEFINE_PUBLICATION of a free PUB whose key slot fits and whose
frame is at most 1 518 bytes stores it disabled and replies FRAME_BYTES; ENABLE_PUBLICATION starts one that passes the
check of R242, with stNum and sqNum 0, or disables one; SET_ROUTE queues its change for the latch it replies;
REMOVE_PUBLICATION and REMOVE_SUBSCRIPTION remove what is disabled, the latter freeing its signals;
DEFINE_SUBSCRIPTION of a free SUB with no overlap stores it and binds its signals; ENABLE_SUBSCRIPTION makes a
DISABLED one WAITING, any one DISABLED; GET_PUBLICATION, GET_SUBSCRIPTION and GET_SIGNAL reply their fields. -/
def Obligations.PublishCommandsComplete : Prop :=
  let num (c : Cmd) : Nat := u16 c.params 0
  let binds (c : Cmd) : List OutBind := (List.range (u16 c.params 2)).map (fun i =>
    { signal := u16 c.params (4 + 4 * i), word := u16 c.params (6 + 4 * i) % 1024, bit := u16 c.params (6 + 4 * i) / 1024 })
  let keyFor (s : State) (c : Cmd) (auth n : Nat) (need : Nat × Nat) : Option (Option Bytes) :=
    if auth = 0 then some none
    else if s.slotFits c.inst n need then match s.useSlot n with
      | .ok k => some (some k)
      | _ => none
    else none
  let pub (s : State) (c : Cmd) : Publication :=
    pubOf c.params c.inst ((keyFor s c (byteAt c.params 5) (u16 c.params 6) (needGenerate (byteAt c.params 5))).getD none)
  let sub (s : State) (c : Cmd) : Subscription :=
    subOf c.params c.inst ((keyFor s c (byteAt c.params 2) (u16 c.params 0x1E) (needVerify (byteAt c.params 2))).getD none)
  let enabled (s : State) (c : Cmd) (q : Publication) : State := { s with
    pub.pubs := s.pub.pubs.put (num c) { q with
      enabled := true, first := (s.inst q.driver).map s.firstPub, stNum := 0, sqNum := 0, j := 0, state := [] } }
  let route (c : Cmd) (n : Nat) : Route :=
    { tick := n, mask := if bit (byteAt c.params 2) 0 then some (uN c.params 0x0C 16) else none
      entries := if bit (byteAt c.params 2) 1 then some (dataEntries c.params 0x20 (u16 c.params 0x1C)) else none }
  let routed (s : State) (c : Cmd) (q : Publication) (n : Nat) : State := { s with
    pub.pubs := s.pub.pubs.put (num c) { q with routes := q.routes ++ [route c n] } }
  let getP (s : State) (c : Cmd) (f : Publication → State) : State := match s.pub.pubs.get (num c) with
    | some q => f q
    | none => s
  cardBindOutputs.Completes .bindOutputs
    (fun s c => (∃ x, s.inst (num c) = some x ∧ x.isRunning = false) ∧
      ∀ b ∈ binds c, (s.signal b.signal).src = .none ∨ (s.signal b.signal).src = SigSrc.output (num c))
    (fun s c => match s.inst (num c) with
      | some x =>
        let t := ((binds c).foldl (fun (t : State) b => t.bindSignal b.signal (.output (num c)))
          (s.releaseSignals (· == SigSrc.output (num c)))).setInst (num c) { x with outBinds := binds c }
        if x.isPlaced then t.redriveOutputs (num c) else t
      | none => s) (fun _ _ => []) ∧
  cardDefinePublication.Completes .definePublication
    (fun s c => s.pub.pubs.get (num c) = none ∧ (s.inst (u16 c.params 2)).isSome = true ∧
      (keyFor s c (byteAt c.params 5) (u16 c.params 6) (needGenerate (byteAt c.params 5))).isSome = true ∧
      (pub s c).frameBytes ≤ 1518 ∧ s.pub.pubs.length < 1024)
    (fun s c => { s with pub.pubs := s.pub.pubs.put (num c) (pub s c) })
    (fun s c => le 2 (pub s c).frameBytes ++ zeros 2) ∧
  cardRemovePublication.Completes .removePublication
    (fun s c => ∃ q, s.pub.pubs.get (num c) = some q ∧ q.enabled = false)
    (fun s c => { s with pub.pubs := s.pub.pubs.del (num c) }) (fun _ _ => []) ∧
  cardRemovePublication.Refuses .removePublication (fun s c => ∃ q, s.pub.pubs.get (num c) = some q ∧ q.enabled = true) 0x0300
    (fun _ _ => 8) ∧
  cardEnablePublication.Completes .enablePublication
    (fun s c => byteAt c.params 2 = 0 ∧ (s.pub.pubs.get (num c)).isSome = true)
    (fun s c => getP s c (fun q => { s with pub.pubs := s.pub.pubs.put (num c) { q with enabled := false } })) (fun _ _ => []) ∧
  cardEnablePublication.Completes .enablePublication
    (fun s c => byteAt c.params 2 = 1 ∧ ∃ q x, s.pub.pubs.get (num c) = some q ∧ q.enabled = false ∧ s.inst q.driver = some x ∧
      x.knownPhase.isSome = true ∧ (q.cls = 0 → (enabled s c q).expressFail = none) ∧ (enabled s c q).pairOver = false)
    (fun s c => getP s c (enabled s c))
    (fun s c => le 8 ((((s.pub.pubs.get (num c)).bind (fun q => s.inst q.driver)).map s.firstPub).getD 0)) ∧
  cardSetRoute.Completes .setRoute
    (fun s c => ∃ q n, s.pub.pubs.get (num c) = some q ∧ s.routeLatch q (u64 c.params 4) c.own = some n ∧
      (q.enabled = true → q.cls = 0 → (routed s c q n).expressFail = none))
    (fun s c => getP s c (fun q => routed s c q ((s.routeLatch q (u64 c.params 4) c.own).getD 0)))
    (fun s c => le 8 (((s.pub.pubs.get (num c)).bind (fun q => s.routeLatch q (u64 c.params 4) c.own)).getD 0)) ∧
  cardGetPublication.Completes .getPublication (fun s c => (s.pub.pubs.get (num c)).isSome = true)
    (fun s c => if bit (byteAt c.params 2) 0 then getP s c (fun q => { s with
      pub.pubs := s.pub.pubs.put (num c) { q with frames := 0, withheld := 0 } }) else s)
    (fun s c => match s.pub.pubs.get (num c) with
      | some q => le 1 (boolNat q.enabled) ++ le 1 q.cls ++ le 2 q.frameBytes ++ le 4 q.stNum ++ le 4 q.sqNum ++
          le 8 (q.lastChange / qNs) ++ le 4 q.frames ++ le 4 q.withheld
      | none => []) ∧
  cardDefineSubscription.Completes .defineSubscription
    (fun s c => s.pub.subs.get (num c) = none ∧
      (keyFor s c (byteAt c.params 2) (u16 c.params 0x1E) (needVerify (byteAt c.params 2))).isSome = true ∧
      (∀ q ∈ s.pub.subs, subsOverlap q.2 (sub s c) = false) ∧ s.pub.subs.length < 1024 ∧
      ∀ g ∈ valueSignals (sub s c).entries, (s.signal g).src = .none)
    (fun s c => (valueSignals (sub s c).entries).foldl (fun (t : State) g => t.bindSignal g (.subscription (num c)))
      { s with pub.subs := s.pub.subs.put (num c) (sub s c) }) (fun _ _ => []) ∧
  cardRemoveSubscription.Completes .removeSubscription
    (fun s c => ∃ x, s.pub.subs.get (num c) = some x ∧ x.st = .disabled)
    (fun s c => { s with
      pub.subs := s.pub.subs.del (num c)
      prog.signals := s.prog.signals.filter (fun e => e.2.src != SigSrc.subscription (num c)) }) (fun _ _ => []) ∧
  cardEnableSubscription.Completes .enableSubscription (fun s c => (s.pub.subs.get (num c)).isSome = true)
    (fun s c => match s.pub.subs.get (num c) with
      | some x => s.setSub (num c) (if byteAt c.params 2 = 0 then { x with st := .disabled }
          else if x.st = .disabled then { x with st := .waiting, arrivals := [] } else x)
      | none => s) (fun _ _ => []) ∧
  cardGetSubscription.Completes .getSubscription (fun s c => (s.pub.subs.get (num c)).isSome = true)
    (fun s c => match s.pub.subs.get (num c) with
      | some x => if bit (byteAt c.params 2) 0 then s.setSub (num c) { x with counters := List.replicate 9 0 } else s
      | none => s)
    (fun s c => match s.pub.subs.get (num c) with
      | some x => le 1 x.st.code ++ zeros 3 ++ le 4 (x.last.getD (0, 0)).1 ++ le 4 (x.last.getD (0, 0)).2 ++ x.counters.flatMap (le 4)
      | none => []) ∧
  cardGetSignal.Reads .getSignal (fun _ _ => True) (fun s c =>
    le 1 (s.signal (num c)).src.kind.1 ++ zeros 1 ++ le 2 (s.signal (num c)).src.kind.2 ++
      le 4 (s.sigRecord (num c) (boundaryQ (s.tickNow + 1))).1 ++ le 4 (s.sigRecord (num c) (boundaryQ (s.tickNow + 1))).2)

/-- For every state with no switchover due and a hub that is not FATAL, the lowest instance with an instant due for
latch n, and an enabled publication of it whose first tick has come: PUBLICATION_INSTANT of that instance gives its
outputs the accepted words (or its safe values) and takes the instant; the publication's new data set is a new state
if the cycle was not withheld and it is the first or differs from the last sent: stNum + 1 (after 0xFFFF_FFFF: 1),
sqNum 0, next due min(MIN, MAX) cycles on; else, if a retransmission is due, sqNum + 1, interval min(MIN x 2^j, MAX);
else numbers and state stay. A withheld cycle never starts a new state. An instance whose instants all have been taken
changes nothing. -/
def Obligations.PublicationFollowsItsSchedule : Prop :=
  (∀ (dt fi n num : Nat) (s : State) (x : Inst) (p0 : Publication),
    let s1 := s.advance dt
    let at_ := boundaryQ n + x.pubQ
    let r := s1.outputInstant fi n at_ x
    let p := p0.applyRoutes n
    let st := r.2.pubState p n at_ r.1
    s.pair.switchTick = none → s.anvil.hub ≠ .fatal → (s.place.insts.map (·.1)).Nodup → (s.pub.pubs.map (·.1)).Nodup →
      (∀ e ∈ s.place.insts, e.1 ≤ fi → e.1 = fi) → s.inst fi = some x → s1.instantDue x = some n →
      s.pub.pubs.get num = some p0 → p0.driver = fi → p0.enabled = true → p0.first.getD 0 ≤ n →
        ∃ t q y, exec (.publicationInstant dt fi) s = .next t ∧ t.pub.pubs.get num = some q ∧ t.inst fi = some y ∧
          y.lastPub = some n ∧ q.mask = p.mask ∧ q.entries = p.entries ∧ q.enabled = true ∧
          (r.1 = .withheld → q.withheld = inc32 p0.withheld) ∧
          (r.1 ≠ .withheld → (p0.stNum = 0 ∨ st ≠ p0.state) →
            q.stNum = (if p0.stNum ≥ 0xFFFFFFFF then 1 else p0.stNum + 1) ∧ q.sqNum = 0 ∧ q.state = st ∧ q.j = 0 ∧
            q.lastChange = at_ ∧ q.nextDue = n + min p0.minI p0.maxI * x.cycle) ∧
          (p0.stNum ≠ 0 → (r.1 = .withheld ∨ st = p0.state) → p0.nextDue ≤ n →
            q.stNum = p0.stNum ∧ q.sqNum = (if p0.sqNum ≥ 0xFFFFFFFF then 1 else p0.sqNum + 1) ∧ q.state = p0.state ∧
            q.lastChange = p0.lastChange ∧ q.nextDue = n + min (p0.minI * 2 ^ min (p0.j + 1) 32) p0.maxI * x.cycle) ∧
          (p0.stNum ≠ 0 → (r.1 = .withheld ∨ st = p0.state) → n < p0.nextDue →
            q.stNum = p0.stNum ∧ q.sqNum = p0.sqNum ∧ q.state = p0.state ∧ q.nextDue = p0.nextDue ∧ q.j = p0.j)) ∧
  (∀ (s : State) (fi n at_ : Nat) (x : Inst) (c : Cycle) (outs : List Nat),
    x.cycles.find? (fun c => c.tick == n) = some c → c.ran = true → c.verdict = some (.released outs) →
      (s.outputInstant fi n at_ x).1 = .accepted ∧ ∃ y, (s.outputInstant fi n at_ x).2.inst fi = some y ∧ y.outs = outs ∧
        y.safe = false ∧ y.published = true) ∧
  (∀ (dt fi : Nat) (s : State), s.pair.switchTick = none →
    (∀ e ∈ s.place.insts, e.1 ≤ fi → ∀ x, s.inst e.1 = some x → (s.advance dt).instantDue x = none) →
      exec (.publicationInstant dt fi) s = .next (s.advance dt))

/-- For every state and a good GOOSE frame, outside any redundancy entity, that matches subscription n: disabled, it
changes nothing; enabled with checks 2 to 4 passed, FRAMES grows by one and R247 decides: nothing accepted yet, stNum
1 with sqNum 0 (RESTARTS), or a higher stNum (ST_GAP if by more than 1) is a new state with its values; the same stNum
with a higher sqNum is a refresh that keeps the values (INCONSISTENT if they differ); both equal DUPLICATE; else
OUT_OF_ORDER, the latter two leaving arrival and numbers. An accepted frame makes it HEALTHY with its arrival and time
to live. SUBSCRIPTION_STALE of a HEALTHY one, 2 us after its time to live, makes it STALE, else changes nothing. -/
def Obligations.SubscriptionFollowsItsStream : Prop :=
  (∀ (dt port ta n : Nat) (f : Bytes) (s : State) (x : Subscription) (u : IecPdu) (g : Goose) (v : List Nat),
    let s1 := s.advance dt
    let r := s1.redStrip port f
    let e := ethParse r.frame
    s1.rxGood port f = true → s1.isSwitchPort port = true → r.ent = none → e.etype = etGoose → s1.findSub port e = some n →
      s.pub.subs.get n = some x →
      (x.st = .disabled → exec (.gooseFrameReceived dt port ta f) s = .next s1) ∧
      (x.st ≠ .disabled → iecParse e.payload = some u → gooseParse u.apdu = some g → decodeEntries x.entries g.data = some v →
        g.nds = false → g.stNum ≠ 0 → g.n = x.entries.length → ((g.sim || u.sim) = true → x.accSim = true) →
        tagPasses x.auth x.key u = true → g.rev = x.confRev →
        ∃ t y, exec (.gooseFrameReceived dt port ta f) s = .next t ∧ t.pub.subs.get n = some y ∧
          y.entries = x.entries ∧ y.mask = x.mask ∧
          (let newState (k : List Nat) : Prop := y.last = some (g.stNum, g.sqNum) ∧ y.values = v ∧ y.st = .healthy ∧
             y.arrivals.head? = some (9 * ta, 9 * ta + g.tal * 1000000 * qNs) ∧
             y.counters = k.foldl (fun c i => modAt c i inc32) x.counters
           let dropped (k : Nat) : Prop := y = { x with counters := modAt (modAt x.counters 0 inc32) k inc32 }
           match x.last with
           | none => newState [0]
           | some (st, sq) =>
             if g.stNum = 1 ∧ g.sqNum = 0 then newState [0, 7]
             else if 0 < sdiff 32 g.stNum st then newState (if 1 < sdiff 32 g.stNum st then [0, 5] else [0])
             else if sdiff 32 g.stNum st = 0 ∧ 0 < sdiff 32 g.sqNum sq then
               y.last = some (g.stNum, g.sqNum) ∧ y.values = x.values ∧ y.st = .healthy ∧
                 y.arrivals.head? = some (9 * ta, 9 * ta + g.tal * 1000000 * qNs) ∧
                 y.counters = (if v = x.values then [0] else [0, 6]).foldl (fun c i => modAt c i inc32) x.counters
             else if sdiff 32 g.stNum st = 0 ∧ sdiff 32 g.sqNum sq = 0 then dropped 4
             else dropped 3))) ∧
  (∀ (dt n : Nat) (s : State) (x : Subscription) (a b : Nat) (l : List (Nat × Nat)),
    let s1 := s.advance dt
    s.pub.subs.get n = some x → x.st = .healthy → x.arrivals = (a, b) :: l →
      (s1.now > b + 2000 * qNs → ∃ t y, exec (.subscriptionStale dt n) s = .next t ∧ t.pub.subs.get n = some y ∧
        y = { x with st := .stale, counters := modAt x.counters 8 inc32 } ∧ t.prog.signals = s.prog.signals) ∧
      (s1.now ≤ b + 2000 * qNs → exec (.subscriptionStale dt n) s = .next s1)) ∧
  (∀ (dt n : Nat) (s : State) (x : Subscription), s.pub.subs.get n = some x → x.st ≠ .healthy →
    exec (.subscriptionStale dt n) s = .next (s.advance dt))

/-- For every state and every packet that passes its checks: DEFINE_RECORDER of a free number with defined channels, a
free run of blocks and bandwidth left stores it DISABLED at the lowest run; REMOVE_RECORDER removes an idle one
without a LOCKED segment; SET_TRIGGER sets or clears a condition of an idle one; LOAD_MASK stores points, in a new run
for a new mask, or frees a mask; ARM_RECORDER arms an idle one with a FREE segment at the next boundary with its
horizon, and disables an ARMED one, whose RECORDING segment is freed; FORCE_TRIGGER without BROADCAST schedules a
trigger whose T + H has not passed; GET_RECORDER, LIST_SEGMENTS and GET_CAPTURE_TOTALS reply their fields;
READ_SEGMENT of a COMPLETE segment replies its bytes INLINE, or ACCEPTED for DMA on a PCIe channel; RELEASE_SEGMENT
frees a COMPLETE segment. -/
def Obligations.CaptureCommandsComplete : Prop :=
  let n (c : Cmd) : Nat := byteAt c.params 0
  let ticks (c : Cmd) : Nat := u32 c.params 4 + u32 c.params 8
  let sigs (c : Cmd) : List Nat := (List.range (u16 c.params 0x14)).map (fun i => u16 c.params (0x18 + 4 * byteAt c.params 2 + 2 * i))
  let lanes (s : State) (c : Cmd) : List Lane := (List.range (byteAt c.params 2)).map (fun i =>
    s.laneOf (ticks c) (u16 c.params (0x18 + 4 * i)) (byteAt c.params (0x18 + 4 * i + 2)))
  let rate (s : State) (c : Cmd) : Nat := ((lanes s c).map s.laneRate).foldl (· + ·) 0 +
    (if (sigs c).isEmpty then 0 else 8 * (sigs c).length * 96000)
  let size (s : State) (c : Cmd) : Nat := (laneOffsets (256 + 32 * ((lanes s c).length + boolNat (!(sigs c).isEmpty)))
    (laneSizes (lanes s c) (sigs c).length (ticks c))).2
  let run (s : State) (c : Cmd) : Option Nat := lowestRun (byteAt c.params 1 * blocksOf (size s c)) 0 s.capRuns
  let recr (s : State) (c : Cmd) (f : Recorder → State) : State := match s.recd (n c) with
    | some r => f r
    | none => s
  let idle (s : State) (c : Cmd) (p : Recorder → Prop) : Prop :=
    ∃ r, s.recd (n c) = some r ∧ (r.st = .disabled ∨ r.st = .stopped) ∧ p r
  let cond (c : Cmd) : Cond := {
    type := byteAt c.params 2, mode := byteAt c.params 3, source := u16 c.params 4
    stop := bit (byteAt c.params 6) 0, mask := byteAt c.params 7, level := s32 c.params 8, ref := u64 c.params 0x0C }
  let points (c : Cmd) (x : Mask) : Mask := { x with
    points := ((List.range (u16 c.params 6)).map (fun i => (u16 c.params 4 + i, s32 c.params (8 + 8 * i), s32 c.params (12 + 8 * i)))).foldl
      (fun (t : Tab (Int × Int)) e => t.put e.1 e.2) x.points }
  let filled (s : State) (c : Cmd) (x : Mask) : State :=
    ({ s with cap.masks := s.cap.masks.put (n c) (points c x) }).capWrite (x.first * 4096 + 8 * u16 c.params 4)
      (slice c.params 8 (8 * u16 c.params 6))
  let trigAt (s : State) (c : Cmd) : Nat := if u64 c.params 4 = 0 then s.now else u64 c.params 4 * qNs
  cardDefineRecorder.Completes .defineRecorder
    (fun s c => s.recd (n c) = none ∧ (∀ l ∈ lanes s c, s.ingest.chanOf.has l.chan = true) ∧ (run s c).isSome = true ∧
      s.capRate + rate s c ≤ 2400000000)
    (fun s c => s.setRec (n c) {
      owner := c.inst, overwrite := byteAt c.params 3 == 1, pre := u32 c.params 4, post := u32 c.params 8,
      grace := u16 c.params 0x0C, holdMode := byteAt c.params 0x0E, holdoff := u32 c.params 0x10, archive := bit (byteAt c.params 0x0F) 0,
      lanes := lanes s c, signals := sigs c, first := (run s c).getD 0, segBytes := size s c, rate := rate s c,
      segs := List.replicate (byteAt c.params 1) {} })
    (fun s c => le 4 (size s c) ++ le 4 (rate s c / 1000)) ∧
  cardRemoveRecorder.Completes .removeRecorder (fun s c => idle s c (fun r => s.anyLocked (n c) r = false))
    (fun s c => { s with cap.recs := s.cap.recs.del (n c), cap.closing := s.cap.closing.filter (fun e => e.1 != n c) }) (fun _ _ => []) ∧
  cardSetTrigger.Completes .setTrigger
    (fun s c => idle s c (fun r => (byteAt c.params 2 = 3 → s.maskLoaded (byteAt c.params 7) = true) ∧
      (byteAt c.params 2 = 1 → u16 c.params 4 ∈ r.signals) ∧
      (byteAt c.params 2 = 2 ∨ byteAt c.params 2 = 3 → u16 c.params 4 < r.lanes.length)))
    (fun s c => recr s c (fun r => s.setRec (n c) { r with
      conds := setAt r.conds (byteAt c.params 1) (if byteAt c.params 2 = 0 then none else some (cond c)) })) (fun _ _ => []) ∧
  cardLoadMask.Completes .loadMask (fun s c => s.maskInUse (n c) = false ∧ u16 c.params 2 = 0 ∧ s.cap.masks.has (n c) = true)
    (fun s c => { s with cap.masks := s.cap.masks.del (n c) }) (fun _ _ => []) ∧
  cardLoadMask.Completes .loadMask
    (fun s c => s.maskInUse (n c) = false ∧ u16 c.params 2 ≠ 0 ∧
      (s.cap.masks.get (n c) = none → (lowestRun (blocksOf (8 * u16 c.params 2)) 0 s.capRuns).isSome = true))
    (fun s c => filled s c ((s.cap.masks.get (n c)).getD
      { owner := c.inst, m := u16 c.params 2, first := (lowestRun (blocksOf (8 * u16 c.params 2)) 0 s.capRuns).getD 0 }))
    (fun _ _ => []) ∧
  cardArmRecorder.Completes .armRecorder
    (fun s c => byteAt c.params 1 = 1 ∧ idle s c (fun r => (∃ x ∈ r.segs, x.st = .free) ∧
      ∀ k ∈ r.conds, ∀ x, k = some x → x.type = 3 → s.maskLoaded x.mask = true))
    (fun s c => recr s c (fun r =>
      let i := r.segs.findIdx (fun x => x.st == .free)
      let q := { r with h := s.horizonOf r, segs := setAt r.segs i { st := .recording } }
      s.setRec (n c) { (q.count 3 0) with st := .armed, run := some (q.begin i (boundaryQ (tickAtOrAfter s.now))) }))
    (fun s _ => le 8 (tickAtOrAfter s.now)) ∧
  cardArmRecorder.Completes .armRecorder
    (fun s c => byteAt c.params 1 = 0 ∧ ∃ r u, s.recd (n c) = some r ∧ r.st = .armed ∧ r.run = some u)
    (fun s c => recr s c (fun r => match r.run with
      | some u => s.setRec (n c) { r with st := .disabled, run := none, segs := setAt r.segs u.seg {} }
      | none => s)) (fun _ _ => []) ∧
  cardForceTrigger.Completes .forceTrigger
    (fun s c => bit (byteAt c.params 1) 0 = false ∧ ∃ r u, s.recd (n c) = some r ∧ r.run = some u ∧ s.now ≤ trigAt s c + u.h)
    (fun s c => recr s c (fun r => match r.run with
      | some u => s.setRec (n c) { r with run := some { u with forced := u.forced ++ [trigAt s c] } }
      | none => s))
    (fun s c => le 8 (tickAtOrBefore (trigAt s c))) ∧
  cardGetRecorder.Completes .getRecorder (fun s c => (s.recd (n c)).isSome = true)
    (fun s c => if bit (byteAt c.params 1) 0 then recr s c (fun r => s.setRec (n c) { r with counters := [0, 0, 0, 0, 0, 0] }) else s)
    (fun s c => match s.recd (n c) with
      | some r => le 1 r.st.code ++ le 1 (r.segs.filter (fun x => x.st == .complete)).length ++ le 2 r.first ++
          le 4 (ceilDiv r.h qNs) ++ r.counters.flatMap (le 4)
      | none => []) ∧
  cardListSegments.Reads .listSegments (fun s c => (s.recd (n c)).isSome = true)
    (fun s c => match s.recd (n c) with
      | some r => le 4 r.segs.length ++ (List.range r.segs.length).flatMap (fun i =>
          le 1 (s.segCode (n c) i (r.segs.getD i {})) ++ zeros 3 ++ le 4 (r.segs.getD i {}).seq)
      | none => []) ∧
  cardReadSegment.Completes .readSegment
    (fun s c => byteAt c.params 2 = 1 ∧ ∃ r, s.recd (n c) = some r ∧ (r.segs.getD (byteAt c.params 1) {}).st = .complete)
    (fun s c => (s.readSegment c.params).2.2) (fun s c => (s.readSegment c.params).2.1 ++ (s.readSegment c.params).1) ∧
  cardReadSegment.Accepts .readSegment
    (fun s c => byteAt c.params 2 = 0 ∧ c.chan < 64 ∧
      ∃ r, s.recd (n c) = some r ∧ (r.segs.getD (byteAt c.params 1) {}).st = .complete)
    (fun s _ => s) (fun _ _ => .segment) false (fun _ _ => none) ∧
  cardReleaseSegment.Completes .releaseSegment
    (fun s c => ∃ r, s.recd (n c) = some r ∧ r.st ≠ .full ∧ (r.segs.getD (byteAt c.params 1) {}).st = .complete)
    (fun s c => recr s c (fun r => { s.setRec (n c) { r with segs := setAt r.segs (byteAt c.params 1) {} } with
      cap.copies := s.cap.copies.filter (fun e => e != (n c, byteAt c.params 1)) })) (fun _ _ => []) ∧
  cardGetCaptureTotals.Reads .getCaptureTotals (fun _ _ => True) (fun s _ =>
    le 2 s.capFree ++ le 1 s.cap.recs.length ++ zeros 1 ++ le 4 (s.capRate / 1000) ++
      le 4 (ceilDiv ((s.cap.archive.map (fun a => a.bytes.length)).foldl (· + ·) 0) (2 ^ 20)))

/-- For every state: CAPTURE_HORIZON of a recorder without conditions, forced trigger or trigger in progress leaves it
in its segment with every lane at the first position, and the signal lane at the first boundary, whose time lies after
now - H, or where it was if that is later. An event in ARMED is acted on unless hold-off suppresses it (never if STOP
is set or it is forced): START is PRE_TICKS before B_t but not before A, END POST_TICKS after; a suppressed one is
only counted, one in POST counts as EXTRA. SEGMENT_COMPLETE writes the CRC of the oldest closing segment and makes it
COMPLETE, pending for the archive if ARCHIVE is set; ARCHIVE_COPY_COMPLETE adds the oldest pending one to the archive,
and under a power warning nothing. -/
def Obligations.RecorderWorksAtItsHorizon : Prop :=
  (∀ (dt n : Nat) (s : State) (r : Recorder) (u : Run),
    let s1 := s.advance dt
    let lim := s1.now - u.h
    s.recd n = some r → r.run = some u → r.drains = [] → u.h ≤ s1.now → u.trig = none → u.tpi = [] → u.forced = [] →
      (∀ k ∈ r.conds, k = none) → u.next.length = r.lanes.length → u.ents.length = r.lanes.length →
      (∀ l ∈ r.lanes, l.rate < 6) →
        ∃ t q v, exec (.captureHorizon dt n) s = .next t ∧ t.recd n = some q ∧ q.run = some v ∧ q.st = r.st ∧ q.segs = r.segs ∧
          v.seg = u.seg ∧ v.a = u.a ∧ v.trig = none ∧
          (∀ (i : Nat) (l : Lane) (p : Nat), r.lanes[i]? = some l → u.next[i]? = some p →
            v.next[i]? = some (max p (lim / periodQ l.rate + 1))) ∧
          (r.signals ≠ [] → v.nextSig = max u.nextSig (lim / qTick + 1)) ∧
          (∀ m, m ≠ n → t.recd m = s.recd m)) ∧
  (∀ (s : State) (r : Recorder) (u : Run) (t src : Nat) (stop : Bool),
    let held := (r.holdMode = 1 ∧ t < r.holdTo) ∨ (r.holdMode = 2 ∧ 0 < r.holdN)
    let out := s.capEvent r u t src stop
    (u.trig = none → held → stop = false → bit src 8 = false →
      out.2 = u ∧ out.1.heldOff = inc32 r.heldOff ∧ out.1.counters = modAt r.counters 2 (fun k => satAdd 32 k 1) ∧
        out.1.st = r.st ∧ out.1.seq = r.seq ∧ out.1.holdN = r.holdN - 1) ∧
    (u.trig = none → (¬ held ∨ stop = true ∨ bit src 8 = true) → r.st = .armed →
      ∃ g, out.2 = { u with trig := some g, stopPending := u.stopPending || stop } ∧ g.t = t ∧ g.sources = src ∧ g.seq = r.seq ∧
        g.start = max (boundaryQ (tickAtOrBefore t - r.pre)) u.a ∧ g.stop = boundaryQ (tickAtOrBefore t + r.post) ∧
        out.1.st = .post ∧ out.1.seq = r.seq + 1 ∧ out.1.counters = modAt r.counters 0 (fun k => satAdd 32 k 1) ∧
        out.1.holdTo = t + r.holdoff * 1000 * qNs ∧ out.1.heldOff = 0) ∧
    (∀ g, u.trig = some g → out.2 = { u with trig := some { g with extra := inc32 g.extra }, stopPending := u.stopPending || stop } ∧
      out.1.st = r.st ∧ out.1.counters = modAt r.counters 1 (fun k => satAdd 32 k 1))) ∧
  (∀ (dt n i : Nat) (rest : List (Nat × Nat)) (s : State) (r : Recorder) (x : Seg),
    let base := (r.first + i * r.segBlocks) * 4096
    s.cap.closing = (n, i) :: rest → s.recd n = some r → r.st ≠ .full → r.segs[i]? = some x →
      ∃ t q, exec (.segmentComplete dt) s = .next t ∧ t.cap.closing = rest ∧ t.recd n = some q ∧
        q.segs[i]? = some { x with st := .complete } ∧
        memReadN t.cap.store (base + 0xFC) 4 = le 4 (crc32c (memReadN s.cap.store base r.segBytes)) ∧
        t.cap.copies = s.cap.copies ++ (if r.archive then [(n, i)] else [])) ∧
  (∀ (dt : Nat) (s : State), s.cap.closing = [] → exec (.segmentComplete dt) s = .next (s.advance dt)) ∧
  (∀ (dt n i : Nat) (rest : List (Nat × Nat)) (s : State) (r : Recorder),
    s.power.supply = .running → s.cap.copies = (n, i) :: rest → s.recd n = some r → r.st ≠ .full → r.segBytes ≤ archiveBytes →
      ∃ t a, exec (.archiveCopyComplete dt) s = .next t ∧ t.cap.copies = rest ∧ t.cap.archive.getLast? = some a ∧ a.cap = n ∧
        a.seq = (r.segs.getD i {}).seq ∧ a.bytes.length = r.segBytes) ∧
  (∀ (dt : Nat) (s : State), s.power.supply ≠ .running → exec (.archiveCopyComplete dt) s = .next (s.advance dt))

/-- For every state and every packet that passes its checks: GET_ANVIL_STATUS replies the hub state, comparators,
lanes, GUARANTEE and the thirteen class counters; GET_CONTAINMENT of a placed instance its lane, last fault and six
counters, which CLEAR resets; GET_MEMORY_HEALTH the counts of a region; SET_SELF_TEST enables or disables the
background tests, and GUARANTEE bit 1 waits for a complete pass; INJECT_FAULT of types 1 to 4 on a fit object without
a pending injection is armed (for an instance at its next latch, whose tick it replies), of types 5 and 6 flips bits
of a sound line, of type 7 makes the hub FATAL; in FATAL_CONTAINMENT it is refused. For every state and every packet
that passes its checks: SET_PAIR on a paired module without placed instances, with a fit key slot and free quads,
stores the links, slot, address and node, takes both ports and loads the link key; GET_PAIR_STATUS replies state,
partner, links, last cause and the seven counters, which CLEAR resets; SWITCHOVER on an ACTIVE replies ACCEPTED and
waits for its tick, elsewhere it is refused with WRONG_STATE 3; RESYNC on a STANDBY begins resynchronisation,
elsewhere it is refused with WRONG_STATE 3. -/
def Obligations.AnvilAndPairCommandsComplete : Prop :=
  (
  let fi (c : Cmd) : Nat := u16 c.params 0
  let tgt (c : Cmd) : Nat := u16 c.params 4
  let ty (c : Cmd) : Nat := byteAt c.params 0
  let keys (c : Cmd) : List Nat := if byteAt c.params 0 > 2 then [32 * byteAt c.params 0]
    else if byteAt c.params 1 = 0xFF then (List.range 32).map (fun i => 32 * byteAt c.params 0 + i)
    else [32 * byteAt c.params 0 + byteAt c.params 1]
  let total (s : State) (c : Cmd) (f : MemHealth → Nat) : Nat :=
    min (((keys c).map (fun k => f (s.anvil.health.getD k {}))).foldl (· + ·) 0) 0xFFFFFFFF
  let fit (s : State) (c : Cmd) : Prop := s.anvil.hub = .normal ∧ s.injectPending (ty c) (tgt c) = false
  let armed (s : State) (c : Cmd) (tick : Nat) : State := { s with
    anvil.injections := s.anvil.injections ++ [{ type := ty c, copy := byteAt c.params 1, target := tgt c, tick := tick }] }
  cardGetAnvilStatus.Reads .getAnvilStatus (fun _ _ => True) (fun s _ =>
    le 1 (boolNat (s.anvil.hub == .fatal)) ++ le 1 (boolNat s.anvil.selfTest) ++
      le 1 (s.anvil.cmps.filter (· == .inService)).length ++ le 1 (s.anvil.cmps.filter (· == .spare)).length ++
      le 2 (s.laneOrder.filter s.laneFree).length ++ le 2 s.anvil.retired.length ++
      le 2 (let g := [s.withinRatings, s.anvil.selfTest && s.anvil.passDone, !s.place.exhausted, s.cmd.mgmt != .lost]
        bitsNat (g ++ [g.all id])) ++ zeros 2 ++ le 4 s.anvil.lastPassMs ++ s.anvil.counters.flatMap (le 4)) ∧
  cardGetContainment.Completes .getContainment (fun s c => ∃ x, s.inst (fi c) = some x ∧ x.isPlaced = true)
    (fun s c => match s.inst (fi c) with
      | some x => if bit (byteAt c.params 2) 0 then s.setInst (fi c) { x with
          compared := 0, withheld := 0, mismatches := 0, masked := 0, transients := 0, displaced := 0 } else s
      | none => s)
    (fun s c => match s.inst (fi c) with
      | some x => le 2 (fi c) ++ le 1 x.cls ++ le 1 x.place.code ++ le 1 (x.cmp.getD (0xFF, 0xFF)).1 ++
          le 1 (x.cmp.getD (0xFF, 0xFF)).2 ++ le 2 x.lastFault ++ le 8 x.lastFaultTick ++ le 4 x.compared ++ le 4 x.withheld ++
          le 4 x.mismatches ++ le 4 x.masked ++ le 4 x.transients ++ le 4 x.displaced
      | none => []) ∧
  cardGetMemoryHealth.Completes .getMemoryHealth (fun _ _ => True)
    (fun s c => if bit (byteAt c.params 2) 0 then { s with
      anvil.health := (keys c).foldl (fun (h : Tab MemHealth) k => h.upd k (fun m =>
        { m with corrData := 0, corrCheck := 0, uncorr := 0, poisonReads := 0, flagCorr := 0 })) s.anvil.health } else s)
    (fun s c => le 4 (total s c (·.corrData)) ++ le 4 (total s c (·.corrCheck)) ++ le 4 (total s c (·.uncorr)) ++
      le 4 (s.anvil.poison.filter (fun l => (keys c).contains (32 * (lineRegion l).1 + (lineRegion l).2))).length ++
      le 4 (total s c (·.poisonReads)) ++ le 4 (total s c (·.flagCorr)) ++
      le 4 (((keys c).map (fun k => (s.anvil.health.getD k {}).passes)).foldl min 0xFFFFFFFF) ++
      le 4 (((keys c).map (fun k => (s.anvil.health.getD k {}).lastMs)).foldl max 0)) ∧
  cardSetSelfTest.Completes .setSelfTest (fun _ _ => True)
    (fun s c => { s with
      anvil.selfTest := byteAt c.params 0 == 1
      anvil.passDone := byteAt c.params 0 == 1 && s.anvil.selfTest && s.anvil.passDone }) (fun _ _ => []) ∧
  cardInjectFault.Completes .injectFault
    (fun s c => (ty c = 1 ∨ ty c = 4) ∧ fit s c ∧ ∃ x, s.inst (tgt c) = some x ∧ x.isPlaced = true ∧ x.cls ≠ 0 ∧
      byteAt c.params 1 ≤ copiesOf x.cls)
    (fun s c => armed s c (((s.inst (tgt c)).map s.nextLatch).getD 0))
    (fun s c => le 8 (((s.inst (tgt c)).map s.nextLatch).getD 0)) ∧
  cardInjectFault.Completes .injectFault
    (fun s c => fit s c ∧ ((ty c = 2 ∧ ((s.eng { ls := false, cc := tgt c / 256, no := tgt c % 256 }).st = .inService ∨
        (s.eng { ls := false, cc := tgt c / 256, no := tgt c % 256 }).st = .spare)) ∨
      (ty c = 3 ∧ s.anvil.cmps[tgt c]? = some .inService)))
    (fun s c => armed s c 0) (fun _ _ => le 8 0) ∧
  cardInjectFault.Completes .injectFault
    (fun s c => s.anvil.hub = .normal ∧ (ty c = 5 ∨ ty c = 6) ∧ s.anvil.errs.has (u64 c.params 8 / 32) = false ∧
      u64 c.params 8 / 32 ∉ s.anvil.poison)
    (fun s c => { s with anvil.errs := s.anvil.errs.put (u64 c.params 8 / 32) (ty c == 6) }) (fun _ _ => le 8 0) ∧
  cardInjectFault.Completes .injectFault (fun s c => s.anvil.hub = .normal ∧ ty c = 7)
    (fun s _ => s.fatalContainment true) (fun _ _ => le 8 0) ∧
  cardInjectFault.Refuses .injectFault (fun s c => ty c = 7 ∧ s.anvil.hub = .fatal) 0x0300 (fun _ _ => 6)) ∧
  (
  let key (s : State) (c : Cmd) : Option Bytes := match s.useSlot (u16 c.params 2) with
    | .ok k => some k
    | _ => none
  let tick (s : State) (c : Cmd) : Nat :=
    if u64 c.params 0 = 0 then tickAtOrAfter (s.now + 1000000 * qNs) else u64 c.params 0
  let linkUp (s : State) (p : Nat) : Bool := s.pair.configured && s.portUp p
  cardSetPair.Completes .setPair
    (fun s c => s.pair.st ≠ .unpaired ∧ (∀ p ∈ s.place.insts, p.2.isPlaced = false) ∧
      s.slotFits c.inst (u16 c.params 2) needPair = true ∧ (key s c).isSome = true ∧
      s.quadConflict [byteAt c.params 0, byteAt c.params 1] = false)
    (fun s c =>
      let t := { s with pair := { s.pair with
        configured := true, linkA := byteAt c.params 0, linkB := byteAt c.params 1, keySlot := u16 c.params 2
        mac := beNat (slice c.params 4 6), node := byteAt c.params 0x0A } }
      ((t.takePorts [byteAt c.params 0, byteAt c.params 1]).loadMac macPair ((key s c).getD [])).loadMac macPairB ((key s c).getD []))
    (fun _ _ => []) ∧
  cardSetPair.Refuses .setPair (fun s _ => s.pair.st = .unpaired) 0x0300 (fun _ _ => 3) ∧
  cardGetPairStatus.Completes .getPairStatus (fun _ _ => True)
    (fun s c => if bit (byteAt c.params 0) 0 then { s with pair.counters := List.replicate 7 0 } else s)
    (fun s _ => le 1 s.pair.st.code ++
      le 1 (match s.pair.partner with
        | some (st, t) => if s.tb3Passed t 5 then 0xFF else st
        | none => 0xFF) ++
      le 1 (bitsNat [linkUp s s.pair.linkA, linkUp s s.pair.linkB, s.pair.pairOk, s.pair.wiring]) ++ le 1 s.pair.lastCause ++
      s.pair.counters.flatMap (le 4)) ∧
  cardSwitchover.Accepts .switchover (fun s _ => s.pair.st = .active)
    (fun s c => { s with pair.switchTick := some (tick s c) }) (fun s c => .switchover (tick s c)) true (fun _ _ => none) ∧
  cardSwitchover.Refuses .switchover (fun s _ => s.pair.st ≠ .active) 0x0300 (fun _ _ => 3) ∧
  cardResync.Completes .resync (fun s _ => s.pair.st = .standby) (fun s _ => s.enterSync) (fun _ _ => []) ∧
  cardResync.Refuses .resync (fun s _ => s.pair.st ≠ .standby) 0x0300 (fun _ _ => 3) ∧
  ∀ s : State, s.enterSync.pair.st = .standbySync ∧ s.enterSync.place.insts = [] ∧ s.enterSync.pair.mirrorRx = none)

/-- For every state with a NORMAL hub, no armed injection and no line just failed, and the oldest complete cycle of an
instance with a lane: if two copies posted and agree without exception, or of three copies 1 and 2 agree and 3 posted
neither an exception nor agreement, ANVIL_VERDICT with a passed probe and sound buffers releases copy 1's words (its
OUTPUT window being sound). If two copies posted without exception and differ, the cycle is withheld, WITHHELD and
MISMATCHES grow, and both engines, unless FAILED, are due for diagnosis at the next tick boundary. With a failed probe
the cycle is withheld, the comparator FAILED, and its lanes stand on the lowest spare, now IN_SERVICE.
VERDICT_DEADLINE puts a DEADLINE record where a copy that did not give up its slot has posted nothing 0.85 us before
P, and nowhere else. -/
def Obligations.VerdictContainsFaults : Prop :=
  let ready (s : State) (fi : Nat) (x : Inst) (c : Cycle) (ps : List Part) (rs : List Posted) : Prop :=
    s.anvil.hub = .normal ∧ s.anvil.injections = [] ∧ s.anvil.uncorrAt = [] ∧ s.inst fi = some x ∧
      x.cycles.find? Cycle.complete = some c ∧ c.who = ps ∧ ps.map (·.k) = (List.range ps.length).map (· + 1) ∧
      c.displaced = [] ∧ c.posts.take ps.length = rs.map some ∧ rs.length = ps.length ∧ (∀ r ∈ rs, r.exc = none)
  let windowOk (s : State) (p : Part) (r : Posted) : Prop :=
    s.markedLines (p.eng.base + p.areas.outBase) (4 * p.areas.outWords) = [] ∧
      crc32c (memReadN (s.eng p.eng).mem p.areas.outBase (4 * p.areas.outWords)) = r.outCrc
  let verdict (t : State) (fi tick : Nat) (v : Verdict) : Prop :=
    ∃ y, t.inst fi = some y ∧ ∃ d ∈ y.cycles, d.tick = tick ∧ d.verdict = some v
  (∀ (dt fi : Nat) (s : State) (x : Inst) (c : Cycle) (p1 p2 : Part) (r1 r2 : Posted),
    ready s fi x c [p1, p2] [r1, r2] →
      (r1.agrees r2 = true → windowOk s p1 r1 → ∃ t, exec (.anvilVerdict dt fi true []) s = .next t ∧
        verdict t fi c.tick (.released r1.outs)) ∧
      (r1.agrees r2 = false → ∃ t y, exec (.anvilVerdict dt fi true []) s = .next t ∧ verdict t fi c.tick .withheld ∧
        t.inst fi = some y ∧ y.withheld = inc32 x.withheld ∧ y.mismatches = inc32 x.mismatches ∧ y.compared = inc32 x.compared ∧
        ∀ p ∈ [p1, p2], p.eng.cc < 32 → p.eng.no < (if p.eng.ls then 2 else 17) → (s.eng p.eng).st ≠ .failed →
          (s.eng p.eng).diagDue = none → (t.eng p.eng).diagDue = some ((s.advance dt).tickNow + 1))) ∧
  (∀ (dt fi : Nat) (s : State) (x : Inst) (c : Cycle) (p1 p2 p3 : Part) (r1 r2 r3 : Posted),
    ready s fi x c [p1, p2, p3] [r1, r2, r3] → r1.agrees r2 = true → r1.agrees r3 = false → windowOk s p1 r1 →
      ∃ t y, exec (.anvilVerdict dt fi true []) s = .next t ∧ verdict t fi c.tick (.released r1.outs) ∧
        t.inst fi = some y ∧ y.masked = inc32 x.masked) ∧
  (∀ (dt fi m l n : Nat) (s : State) (x : Inst) (c : Cycle) (ps : List Part) (rs : List Posted),
    ready s fi x c ps rs → x.cmp = some (m, l) → m < 48 → s.anvil.cmps.length = 48 → s.anvil.cmps[m]? = some .inService →
      n < 48 → s.anvil.cmps[n]? = some .spare → (∀ i, i < n → s.anvil.cmps[i]? ≠ some .spare) →
      (∀ q ∈ s.anvil.retired, q.1 ≠ n) → (s.place.insts.map (·.1)).Pairwise (· < ·) →
        ∃ t y, exec (.anvilVerdict dt fi false []) s = .next t ∧ verdict t fi c.tick .withheld ∧
          t.anvil.cmps[m]? = some .failed ∧ t.anvil.cmps[n]? = some .inService ∧ t.inst fi = some y ∧ y.cmp = some (n, l) ∧
          y.copies = x.copies) ∧
  (∀ (dt fi : Nat) (probe : Bool) (bad : List Nat) (s : State), (s.inst fi).bind (fun x => x.cycles.find? Cycle.complete) = none →
    exec (.anvilVerdict dt fi probe bad) s = .next (s.advance dt)) ∧
  (∀ (dt fi : Nat) (s : State) (x : Inst), s.inst fi = some x →
    ∃ t y, exec (.verdictDeadline dt fi) s = .next t ∧ t.inst fi = some y ∧ y.cycles.length = x.cycles.length ∧
      ∀ (i : Nat) (c : Cycle), x.cycles[i]? = some c → ∃ d, y.cycles[i]? = some d ∧ d.tick = c.tick ∧ d.verdict = c.verdict ∧
        (∀ k r, 0 < k → c.post k = some r → d.post k = some r) ∧
        (let due := c.ran = true ∧ c.verdict = none ∧ (s.advance dt).reached (boundaryQ c.tick + x.pubQ - 850 * qNs) = true
         (¬ due → d = c) ∧
         (due → ∀ p ∈ c.who, 0 < p.k → p.k ≤ c.posts.length → p.k ∉ c.displaced → c.post p.k = none →
           ∃ r, d.post p.k = some r ∧ r.code = xDeadline ∧ r.tick = c.tick)))

/-- For every state: DIAGNOSIS_START 0.10 us after its boundary B_d makes the engine run its diagnosis, stopping a
copy whose span covers B_d, and before that changes nothing; DIAGNOSIS_END of the last engine of a diagnosis in which
none failed counts one transient in the instance and one in that engine, and a D instance restarts WARM after B_d.
CROSS_CHECK_FAULT makes the hub FATAL, after which no publication may be sent; a second one changes nothing.
SCRUB_PASS without errors counts the pass and its duration; it corrects a flipped bit in its region and poisons a line
with two. BACKGROUND_TEST with self-test disabled changes nothing; a pass of a complete round sets GUARANTEE's
condition; a failed test makes a SPARE engine or comparator FAILED, and retires the lane of a failed delay buffer. -/
def Obligations.DiagnosisAndLatentFaults : Prop :=
  (∀ (dt k b : Nat) (ls : Bool) (s : State),
    let e := engOfKey ls k
    let s1 := s.advance dt
    (s.eng e).diagDue = some b → (s.eng e).diagOn = false → (s.eng e).st ≠ .failed →
      (s1.reached (boundaryQ b + 100 * qNs) = false → exec (.diagnosisStart dt ls k) s = .next s1) ∧
      (s1.reached (boundaryQ b + 100 * qNs) = true → ∃ t, exec (.diagnosisStart dt ls k) s = .next t ∧
        (t.eng e).diagOn = true ∧ (t.eng e).mem = (s.eng e).mem ∧
        (∀ x, (s.eng e).exec = some x → x.tick ≤ b → b < x.tick + x.span → (t.eng e).phase = .idle ∧ (t.eng e).exec = none) ∧
        (∀ x, (s.eng e).exec = some x → ¬ (x.tick ≤ b ∧ b < x.tick + x.span) → (t.eng e).exec = some x))) ∧
  (∀ (dt k b : Nat) (s : State) (x : Inst) (d : Diag) (a : Eng),
    let e := engOfKey false k
    let s1 := s.advance dt
    k < 544 → (s.eng e).diagDue = some b → (s.eng e).diagOn = true → s.anvil.injections = [] → s1.now ≤ boundaryQ b + 6100 * qNs →
      s.anvil.diags = [d] → d.engs = [a, e] → a ≠ e → d.results = [(a, true)] → d.good = none → d.due = b → s.inst d.fi = some x →
      (s.eng a).transients = [] → (s.eng e).transients = [] →
        ∃ t y, exec (.diagnosisEnd dt false k true) s = .next t ∧ t.anvil.diags = [] ∧ (t.eng e).diagOn = false ∧
          (t.eng e).diagDue = none ∧ (t.eng e).transients = [b] ∧ (t.eng e).st = (s.eng e).st ∧ t.inst d.fi = some y ∧
          y.transients = inc32 x.transients ∧ y.warmAfter = some b ∧ y.lastFault = 4) ∧
  (∀ (dt : Nat) (s : State), ∃ t, exec (.crossCheckFault dt) s = .next t ∧ t.anvil.hub = .fatal ∧ t.mayPublish = false ∧
    t.place.insts = s.place.insts ∧ (s.anvil.hub = .fatal → t = s.advance dt)) ∧
  (∀ (dt region cc ms : Nat) (s : State), s.anvil.uncorrAt = [] →
    let here (l : Nat) : Prop := lineRegion l = (region, if region ≤ 2 then cc else 0)
    let key := 32 * region + (if region ≤ 2 then cc else 0)
    let old := s.anvil.health.getD key {}
    (s.anvil.errs = [] → exec (.scrubPass dt region cc ms []) s = .next { s.advance dt with
      anvil.health := s.anvil.health.put key { old with passes := inc32 old.passes, lastMs := ms } }) ∧
    (∀ l, s.anvil.errs = [(l, false)] → here l → ∃ t, exec (.scrubPass dt region cc ms []) s = .next t ∧ t.anvil.errs = [] ∧
      t.anvil.poison = s.anvil.poison ∧
      t.anvil.health.getD key {} = { old with corrData := inc32 old.corrData, passes := inc32 old.passes, lastMs := ms }) ∧
    (∀ l, s.anvil.errs = [(l, true)] → here l → s.anvil.rewritten = [] → ∃ t, exec (.scrubPass dt region cc ms []) s = .next t ∧
      t.anvil.errs = [] ∧ l ∈ t.anvil.poison ∧
      t.anvil.health.getD key {} = { old with uncorr := inc32 old.uncorr, passes := inc32 old.passes, lastMs := ms })) ∧
  (∀ (dt kind id : Nat) (pass : Bool) (ms : Option Nat) (s : State), s.anvil.selfTest = false →
    exec (.backgroundTest dt kind id pass ms) s = .next (s.advance dt)) ∧
  (∀ (dt id : Nat) (s : State), s.anvil.selfTest = true → s.anvil.injections = [] →
    (∀ ms, id < 544 → exec (.backgroundTest dt 0 id true (some ms)) s = .next { s.advance dt with
      anvil.passDone := true, anvil.lastPassMs := ms }) ∧
    (id < 544 → (s.eng (engOfKey false id)).st = .spare →
      ∃ t, exec (.backgroundTest dt 0 id false none) s = .next t ∧ (t.eng (engOfKey false id)).st = .failed) ∧
    (s.anvil.cmps[id]? = some .spare →
      ∃ t, exec (.backgroundTest dt 2 id false none) s = .next t ∧ t.anvil.cmps = setAt s.anvil.cmps id .failed) ∧
    (s.laneFree (id / 128, id % 128) = true → s.anvil.cmps[id / 128]? = some .inService →
      ∃ t, exec (.backgroundTest dt 3 id false none) s = .next t ∧ t.anvil.retired = (id / 128, id % 128) :: s.anvil.retired))

/-- For every state: an unpaired module ignores every partner record. A WAITING module with PAIR_OK low takes control
after 100 ms (side B: 150 ms) and synchronises when PAIR_OK rises or a TICK of a module in control comes. A TICK that
is taken makes ACTIVE_ALONE ACTIVE if it reports STANDBY, ACTIVE ACTIVE_ALONE if it does not, a STANDBY unfit if a
MIRROR record is missing. A GIVE_UP record, or PAIR_OK low for 1 us with no TICK by B + 5 us, makes a STANDBY
ACTIVE_ALONE with publish enable, T_o 0.2 us on and one takeover counted; in STANDBY_SYNC there is no takeover. A
module in control whose own TICK record is late is GIVEN_UP with cause 5, without publish enable. With both links
silent an ACTIVE goes ACTIVE_ALONE; a STANDBY with PAIR_OK high is marked unfit and stays STANDBY. PAIR_TICK_SEND
sends the record of the latest boundary once. -/
def Obligations.PairStateMachine : Prop :=
  let control (st : Nat) : Prop := st = 4 ∨ st = 5
  let over_ (u t : State) : Prop :=
    (u.pair.st = .standby → t.pair.st = .activeAlone ∧ t.pair.pubEnable = true ∧ t.pair.toAt = u.now + 200 * qNs ∧
      t.pair.held = [] ∧ t.pair.counters[6]? = (u.pair.counters[6]?).map (fun k => satAdd 32 k 1)) ∧
    (u.pair.st = .standbySync → t.pair.st = .standbySync ∧ t.pair.pubEnable = u.pair.pubEnable ∧ t.pair.lapsed = true)
  (∀ (dt : Nat) (rx : PairRx) (s : State), s.pair.st = .unpaired →
    ∀ i ∈ ([fun d r => .pairTickReceived d r 4 0 0, fun d r => .pairResultReceived d r 1 false 0 0 0 0,
        fun d r => .pairPubReceived d r 0 true 0 0 0, fun d r => .pairDataReceived d r 1 0 0 [],
        fun d r => .pairMirrorReceived d r 0 [], fun d r => .pairGiveUpReceived d r 1 0] : List (Nat → PairRx → Instr)),
      exec (i dt rx) s = .next (s.advance dt)) ∧
  (∀ (dt : Nat) (s : State), s.pair.st = .waiting → s.pair.pairOk = false →
    (s.advance dt).tb3Passed s.pair.waitSince (if s.boot.pairStrap = 2 then 150000 else 100000) = true →
      exec (.pairWaitTimeout dt) s = .next { s.advance dt with pair.st := .activeAlone, pair.pubEnable := true }) ∧
  (∀ (dt : Nat) (s : State), s.pair.st ≠ .waiting → exec (.pairWaitTimeout dt) s = .next (s.advance dt)) ∧
  (∀ (dt : Nat) (level : Bool) (s : State),
    (level = s.pair.pairOk → exec (.pairOkChange dt level) s = .next (s.advance dt)) ∧
    (level ≠ s.pair.pairOk → ∃ t, exec (.pairOkChange dt level) s = .next t ∧ t.pair.pairOk = level ∧
      t.pair.okSince = (s.advance dt).tb3 ∧
      t.pair.st = (if level = true ∧ s.pair.st = .waiting then .standbySync else s.pair.st))) ∧
  (∀ (dt st mseq tick : Nat) (rx : PairRx) (s u : State), s.pair.st ≠ .unpaired → (s.advance dt).pairTake rx = (true, u) →
    ∃ t, exec (.pairTickReceived dt rx st mseq tick) s = .next t ∧ t.pair.partner = some (st, u.tb3) ∧
      t.pair.lastTickRx = some tick ∧
      (u.pair.st = .waiting → t.pair.st = if st = 4 ∨ st = 5 then .standbySync else .waiting) ∧
      (u.pair.st = .activeAlone → t.pair.st = if st = 3 then .active else .activeAlone) ∧
      (u.pair.st = .active → t.pair.st = if st = 3 then .active else .activeAlone) ∧
      (u.pair.st = .standby → control st → t.pair.st = if u.pair.mirrorRx = some mseq then .standby else .standbySync) ∧
      (u.pair.st = .givenUp → t.pair.st = .givenUp) ∧
      (u.pair.pairOk = false → control st → t.pair.wiring = true)) ∧
  (∀ (dt cause tick : Nat) (rx : PairRx) (s u : State), s.pair.st ≠ .unpaired → (s.advance dt).pairTake rx = (true, u) →
    ∃ t, exec (.pairGiveUpReceived dt rx cause tick) s = .next t ∧ over_ u t) ∧
  (∀ (dt b : Nat) (s : State),
    let s1 := s.advance dt
    s1.tickDue 5000 = some b → s.pair.pairOk = false → s1.tb3Passed s.pair.okSince 1 = true →
      (∀ n, s.pair.lastTickRx = some n → n < b) → ∃ t, exec (.takeoverTimeout dt) s = .next t ∧ over_ s1 t) ∧
  (∀ (dt : Nat) (s : State), s.pair.pairOk = true → exec (.takeoverTimeout dt) s = .next (s.advance dt)) ∧
  (∀ (dt b : Nat) (s : State), (s.advance dt).tickDue 3000 = some b →
    ((∃ n, s.pair.lastTickTx = some n ∧ b ≤ n) → exec (.pairTickLate dt) s = .next (s.advance dt)) ∧
    ((∀ n, s.pair.lastTickTx = some n → n < b) → (s.pair.st = .active ∨ s.pair.st = .activeAlone) →
      ∃ t, exec (.pairTickLate dt) s = .next t ∧ t.pair.st = .givenUp ∧ t.pair.pubEnable = false ∧ t.pair.lastCause = 5 ∧
        t.pairAct = false)) ∧
  (∀ (dt b : Nat) (s : State), s.pair.switchTick = none → (s.advance dt).tickDue 1000 = some b → s.pair.st ≠ .unpaired →
    (s.pair.lastTickTx = some b → exec (.pairTickSend dt) s = .next (s.advance dt)) ∧
    (s.pair.lastTickTx ≠ some b → exec (.pairTickSend dt) s = .next
      (({ s.advance dt with pair.lastTickTx := some b } : State).pairSend
        (recTick s.pair.st.code (if s.inControl then s.pair.mirrorTx else s.pair.mirrorRx.getD 0) b)))) ∧
  (∀ (dt t0 : Nat) (s : State), s.pair.silentA = false → s.pair.silentB = true → s.pair.lastA = some t0 →
    (s.advance dt).tb3Passed t0 5 = true → ∃ t, exec (.pairLinkSilent dt 0) s = .next t ∧ t.pair.silentA = true ∧
      t.pair.counters[4]? = (s.pair.counters[4]?).map (fun k => satAdd 32 k 1) ∧
      t.pair.st = (if s.pair.st = .active then .activeAlone else s.pair.st) ∧
      (s.pair.st = .standby → s.pair.pairOk = true → t.pair.unfit = true))

/-- For every standby (STANDBY or STANDBY_SYNC) and every record taken: a RESULT of a cycle it holds a result of is an
agreement if image CRC, verdict and, where released, signature and OUT_CRC are equal; INPUT_DIVERGENCE if the image
CRC differs; VERDICT_DIFFER if only one was withheld; each is counted in its counter and the held result is used up;
SHADOW_MISMATCH is counted otherwise, and below three in 60 s the state stays. PUB sets stNum and sqNum of its
publication and marks the held frame. DATA goes into every copy of its instance at its word offset. A MIRROR record
out of order makes a STANDBY unfit; one in order is numbered on, kept for a replay, and a phase record fixes the phase
with which its instance will be placed. -/
def Obligations.StandbyFollowsTheActive : Prop :=
  let shadow (s u : State) (dt : Nat) (rx : PairRx) : Prop :=
    s.pair.st ≠ .unpaired ∧ (s.advance dt).pairTake rx = (true, u) ∧ (u.pair.st = .standby ∨ u.pair.st = .standbySync)
  (∀ (dt fi tick sig outCrc imgCrc : Nat) (held : Bool) (rx : PairRx) (s u : State) (o : ShadowResult),
    let l := u.pair.results.getD fi []
    let same := o.imgCrc = imgCrc ∧ o.held = held
    let count (t : State) (i : Nat) : Prop := t.pair.counters = modAt u.pair.counters i (fun k => satAdd 32 k 1)
    shadow s u dt rx → l.find? (fun r => r.tick == tick) = some o →
      (same → (held = true ∨ (o.sig = sig ∧ o.outCrc = outCrc)) →
        ∃ t, exec (.pairResultReceived dt rx fi held tick sig outCrc imgCrc) s = .next t ∧ t.pair.counters = u.pair.counters ∧
          t.pair.st = u.pair.st ∧ (t.pair.agreed.get fi).isSome = true ∧ ∀ r ∈ t.pair.results.getD fi [], r.tick ≠ tick) ∧
      (o.imgCrc ≠ imgCrc → ∃ t, exec (.pairResultReceived dt rx fi held tick sig outCrc imgCrc) s = .next t ∧ count t 0 ∧
        t.pair.st = u.pair.st ∧ ∀ r ∈ t.pair.results.getD fi [], r.tick ≠ tick) ∧
      (o.imgCrc = imgCrc → o.held ≠ held → ∃ t, exec (.pairResultReceived dt rx fi held tick sig outCrc imgCrc) s = .next t ∧
        count t 2 ∧ t.pair.st = u.pair.st) ∧
      (same → held = false → (o.sig ≠ sig ∨ o.outCrc ≠ outCrc) → u.pair.mismatches = [] →
        ∃ t, exec (.pairResultReceived dt rx fi held tick sig outCrc imgCrc) s = .next t ∧ count t 1 ∧ t.pair.st = u.pair.st)) ∧
  (∀ (dt pub tick stNum sqNum : Nat) (sent : Bool) (rx : PairRx) (s u : State), shadow s u dt rx →
    exec (.pairPubReceived dt rx pub sent tick stNum sqNum) s = .next { u with
      pub.pubs := u.pub.pubs.upd pub (fun p => { p with stNum := stNum, sqNum := sqNum })
      pair.held := u.pair.held.map (fun h => if h.pub = pub ∧ h.tick = tick then { h with sent := h.sent || sent } else h) }) ∧
  (∀ (dt fi tick off : Nat) (data : Bytes) (rx : PairRx) (s u : State) (x : Inst), shadow s u dt rx → u.inst fi = some x →
    0 < off → exec (.pairDataReceived dt rx fi tick off data) s = .next
      (u.writeDataAll x (4 * off) (data.take (x.dataBytes - 4 * off)))) ∧
  (∀ (dt mseq m : Nat) (pkt : Bytes) (rx : PairRx) (s u : State), shadow s u dt rx → u.zenithUp = true →
    (u.pair.mirrorRx = some m → m ≠ mseq → u.pair.st = .standby →
      ∃ t, exec (.pairMirrorReceived dt rx mseq pkt) s = .next t ∧ t.pair.st = .standbySync) ∧
    ((u.pair.mirrorRx = none ∨ u.pair.mirrorRx = some mseq) → u16 pkt 0 = opMirrorPhase →
      exec (.pairMirrorReceived dt rx mseq pkt) s = .next { u with
        pair.mirrorRx := some ((mseq + 1) % 2 ^ 32), pair.mirrorLog := u.pair.mirrorLog ++ [pkt]
        pair.phases := u.pair.phases.put (u16 (pkt.drop 16) 0) (u16 (pkt.drop 16) 2) }) ∧
    ((u.pair.mirrorRx = none ∨ u.pair.mirrorRx = some mseq) → u16 pkt 0 ≠ opMirrorPhase → u16 pkt 0 ≠ opMirrorMoved →
      let v := ({ u with
        pair.mirrorRx := some ((mseq + 1) % 2 ^ 32), pair.mirrorLog := u.pair.mirrorLog ++ [pkt] } : State).runMirror pkt
      ∀ d b, v.cmd.remote = some (stOk, d, b) → exec (.pairMirrorReceived dt rx mseq pkt) s = .next v))

/-- For every state and every packet that passes its checks on a module that may answer: SET_STRATUS with ENABLE 1
stores the settings, takes the four ports, loads the ring keys, sets TB2 and becomes JOINING, with ENABLE 0 it leaves
Stratus; LOAD_SCHEDULE stores a chunk, and the whole container replies T_COMMIT and N_FRAMES; ACTIVATE_SCHEDULE
distributes a loaded schedule and replies ACCEPTED; BIND_RECEIVE replaces a slot's binding, its signals then driven by
the slot, or with N 0 removes it; HANDOVER_MANAGER announces its round to every present node and replies ACCEPTED; the
reading commands reply what is stored, and CLEAR resets counters. A STANDALONE module answers all but
GET_STRATUS_STATUS WRONG_ROLE; only a MANAGER takes a schedule or hands over. That R329 is checked with the settings
in force is a choice (log 67). -/
def Obligations.StratusCommandsComplete : Prop :=
  let ports (c : Cmd) : List Nat := [byteAt c.params 2, byteAt c.params 3, byteAt c.params 4, byteAt c.params 5]
  let manager (s : State) (c : Cmd) : Prop := s.boot.role = 1 ∨ (s.boot.role = 2 ∧ c.own = false)
  let off (s : State) : StratusState := { s.stratus with
    st := .disabled, cfg := none, polling := false, started := none, listenAt := none, sync := .lost, rate := 0, exceeded := false }
  let unkeyed (s : State) : State := { s with keys.macsec := s.keys.macsec.filter (fun e => e.1 == 0 || e.1 == 1000) }
  let mayset (s : State) (c : Cmd) : Prop := s.boot.role ≠ 0 ∧ (∀ p ∈ s.place.insts, p.2.isPlaced = false) ∧
    (∀ n ∈ ports c, (s.pair.configured = true → s.pair.linkA ≠ n ∧ s.pair.linkB ≠ n) ∧
      ((s.chan 65).enabled = true → s.cmd.ethPort ≠ n)) ∧
    s.slotFits c.inst (u16 c.params 6) needStratus = true ∧ (s.pair.configured = true → s.pair.node = byteAt c.params 0) ∧
    s.quadConflict (ports c) = false ∧ ∃ k, s.useSlot (u16 c.params 6) = .ok k
  let v (c : Cmd) : Nat := u16 c.params 0
  let load (s : State) (c : Cmd) : SchedLoad :=
    let x := s.stratus.loads.getD (v c) { total := u32 c.params 8, got := [] }
    { x with got := putChunk x.got (u32 c.params 4) (c.params.drop 12) }
  let bytes (s : State) (c : Cmd) : Bytes := (load s c).got.map (·.2)
  let send (s : State) (body : MgmtBody) : State := s.presentNodes.foldl (fun (t : State) n => (t.sendMgmt n body).2) s
  let sigs (c : Cmd) : List Nat := bindSignalsOf c.params
  let free (s : State) (c : Cmd) : Prop := s.boot.role ≠ 0 ∧ ∀ g ∈ sigs c, g ≠ 0xFFFF → s.drivenByOther g (.stratus (v c)) = false
  let bare (s : State) (c : Cmd) : State := s.releaseSignals (fun x => x == SigSrc.stratus (v c))
  let next (s : State) : Nat := roundFrom (s.stratus.tables.getD s.stratus.version []) (s.tb2Q + 10000000 * qNs)
  let round (s : State) (c : Cmd) : Nat := if u64 c.params 0 = 0 then next s else u64 c.params 0
  cardSetStratus.Completes .setStratus (fun s c => mayset s c ∧ byteAt c.params 1 = 0)
    (fun s _ => { unkeyed s with stratus := off s, horizon.tb2Rate := 0 }) (fun _ _ => []) ∧
  cardSetStratus.Completes .setStratus (fun s c => mayset s c ∧ byteAt c.params 1 = 1)
    (fun s c =>
      let cfg : StratusCfg := {
        node := byteAt c.params 0, enable := true, ports := ports c, keySlot := u16 c.params 6, linkDelay := u16 c.params 8
        devices := byteAt c.params 0x0A, groupMac := beNat (slice c.params 0x0C 6) }
      let t := { unkeyed s with
        stratus := { off s with cfg := some cfg, st := .joining, listenAt := if s.boot.role = 1 then some (visNs s.tb3) else none }
        horizon := { s.horizon with tb2 := if s.ptValid then s.horizon.pt else s.horizon.tb3, tb2Rate := 0 } }
      ((t.takePorts (ports c)).loadStratus 0 (byteAt c.params 0)).loadStratus 1 (byteAt c.params 0)) (fun _ _ => []) ∧
  cardLoadSchedule.Completes .loadSchedule (fun s c => manager s c ∧ (load s c).got.length ≠ (load s c).total)
    (fun s c => { s with stratus.loads := s.stratus.loads.put (v c) (load s c) }) (fun _ _ => []) ∧
  cardLoadSchedule.Completes .loadSchedule (fun s c => manager s c ∧ (load s c).got.length = (load s c).total ∧
      crc32c ((bytes s c).take ((load s c).total - 4)) = u32 (bytes s c) ((load s c).total - 4) ∧
      schFault (bytes s c) (v c) (load s c).total = none ∧ (schFrames (bytes s c)).length ≤ 32 ∧ s.roundFits (bytes s c) = true)
    (fun s c => { s with
      stratus.loads := (s.stratus.loads.put (v c) (load s c)).del (v c), stratus.tables := s.stratus.tables.put (v c) (bytes s c) })
    (fun s c => le 4 (ceilDiv (tCommit (bytes s c) s.devices s.delayMax) 100) ++ le 4 (schFrames (bytes s c)).length) ∧
  cardActivateSchedule.Accepts .activateSchedule
    (fun s c => manager s c ∧ s.stratus.tables.has (v c) = true ∧ v c ≠ s.stratus.version ∧ s.stratus.activation = none)
    (fun s c => { send s (.table (v c) (s.stratus.tables.getD (v c) [])) with
      stratus.activation := some { version := v c, waiting := s.presentNodes, since := visNs s.tb3, round := none } })
    (fun _ _ => .schedule) true (fun _ _ => none) ∧
  cardActivateSchedule.Refuses .activateSchedule
    (fun s c => manager s c ∧ (s.stratus.tables.has (v c) = false ∨ v c = s.stratus.version)) 0x0300 (fun _ _ => 7) ∧
  cardBindReceive.Completes .bindReceive (fun s c => free s c ∧ u16 c.params 2 = 0)
    (fun s c => { bare s c with stratus.binds := s.stratus.binds.del (v c) }) (fun _ _ => []) ∧
  cardBindReceive.Completes .bindReceive (fun s c => free s c ∧ 0 < u16 c.params 2)
    (fun s c =>
      let n := u16 c.params 2
      let x : SlotBind := {
        ageLimit := byteAt c.params 4, signals := sigs c, values := List.replicate n 0, safes := List.replicate n false
        ages := List.replicate n 0, ever := List.replicate n false, counters := [0, 0, 0, 0, 0] }
      ((sigs c).filter (· != 0xFFFF)).foldl (fun (t : State) g =>
        { t with prog.signals := t.prog.signals.put g { src := .stratus (v c), vals := [(0, 0, sbRemote)] } })
        { bare s c with stratus.binds := s.stratus.binds.put (v c) x }) (fun _ _ => []) ∧
  cardGetStratusStatus.Completes .getStratusStatus (fun _ _ => True)
    (fun s c => if bit (byteAt c.params 0) 0 then { s with stratus.counters := [0, 0, 0] } else s)
    (fun s _ => le 1 (match s.stratus.st with
        | .disabled => 0
        | .joining => 1
        | .running => 2) ++
      le 1 s.stratus.level ++ le 1 s.stratusLinks ++ le 1 s.stratus.manager ++ le 4 s.stratus.epoch ++ le 2 s.stratus.version ++
      zeros 2 ++ le 8 s.stratus.round ++ s.stratus.counters.flatMap (le 4)) ∧
  cardGetSlot.Completes .getSlot (fun s c => s.boot.role ≠ 0 ∧ s.stratus.binds.has (v c) = true)
    (fun s c => if bit (byteAt c.params 2) 0 then { s with
        stratus.binds := s.stratus.binds.upd (v c) (fun x => { x with counters := [0, 0, 0, 0, 0] }) } else s)
    (fun s c => ((s.stratus.binds.get (v c)).map (fun (x : SlotBind) =>
      le 1 (x.ages.getD 0 0) ++ zeros 3 ++ x.counters.flatMap (le 4))).getD []) ∧
  cardGetSlot.Reads .getSlot (fun s c => s.boot.role ≠ 0 ∧ s.stratus.binds.has (v c) = false) (fun _ _ => zeros 24) ∧
  cardGetSync.Reads .getSync (fun s _ => s.boot.role ≠ 0)
    (fun s _ => le 1 (match s.stratus.sync with
        | .lost => 0
        | .degraded => 1
        | .fta => 2) ++
      le 1 s.stratus.measured ++ zeros 2 ++ leS 4 s.stratus.rate ++ leS 4 s.stratus.lastC ++ le 4 s.stratus.steps ++
      le 8 (s.stratus.linkDelay.getD 0 0) ++ le 8 (s.stratus.linkDelay.getD 1 0) ++ le 8 s.stratus.tb2Commit) ∧
  cardHandoverManager.Accepts .handoverManager
    (fun s c => manager s c ∧ s.stratus.tables.has s.stratus.version = true ∧ s.stratus.backup ∈ s.presentNodes ∧
      next s ≤ round s c)
    (fun s c => s.presentNodes.foldl (fun (t : State) n => (t.sendMgmt n (.handover (round s c))).2)
      { s with stratus.handover := some (round s c) }) (fun _ _ => .handover) true (fun _ _ => none) ∧
  cardHandoverManager.Refuses .handoverManager
    (fun s c => manager s c ∧ s.stratus.tables.has s.stratus.version = true ∧ s.stratus.backup ∈ s.presentNodes ∧
      round s c < next s) 0x0300 (fun _ _ => 9) ∧
  cardGetNodes.Reads .getNodes (fun s _ => s.boot.role ≠ 0)
    (fun s _ => (List.range 32).flatMap (fun n => s.stratus.nodes.getD n (zeros 8))) ∧
  (∀ k ∈ [(cardSetStratus, Instr.setStratus), (cardBindReceive, .bindReceive), (cardGetSlot, .getSlot), (cardGetSync, .getSync),
      (cardLoadSchedule, .loadSchedule), (cardActivateSchedule, .activateSchedule), (cardHandoverManager, .handoverManager),
      (cardGetNodes, .getNodes)], k.1.Refuses k.2 (fun s _ => s.boot.role = 0) 0x0301 (fun _ _ => 0)) ∧
  (∀ k ∈ [(cardLoadSchedule, Instr.loadSchedule), (cardActivateSchedule, .activateSchedule),
      (cardHandoverManager, .handoverManager)], k.1.Refuses k.2 (fun s c => s.boot.role ≠ 1 ∧ c.own = true) 0x0301 (fun _ _ => 0))

/-- For every state: a round starts once, latching the slots of this node; a held frame leaves again with LAP 2 at its
instant. A poll frame with a bad ICV counts in ICV_FAIL and leaves with a stomped FCS; one of a lower epoch is
forwarded and nothing else; a higher one makes a MANAGER a WORKER that no longer polls. A valid record of the running
round is kept for C_r. At C_r, not before, every bound slot takes its fresh signals with AGE 0 and keeps the others
with AGE one up to 255; its round is counted once; with no sync node measured TB2 is SYNC_LOST at its last rate. A
backup without lap 2 of frame 0 becomes the MANAGER with EPOCH one up. After 16 silent rounds a paired lost node is
only forgotten, an unpaired one's report goes. A message for another node is only passed on; a state report is kept,
once. An unacknowledged message is sent again after 10 ms. A worker's report goes out when 100 ms have passed. A cable
over LINK_DELAY is recorded once. -/
def Obligations.StratusRoundsAndCommits : Prop :=
  let live (s : State) (b : Bytes) : Prop := s.stratus.st ≠ .disabled ∧ s.stratus.tables.get s.stratus.version = some b
  let commit (s : State) (b : Bytes) (r : Nat) : Prop := live s b ∧ s.stratus.started = some r ∧ s.commitAt b r ≤ s.tb2Q ∧
    s.stratus.round ≠ r
  (∀ (dt r : Nat) (b : Bytes) (s : State),
    let s1 := s.advance dt
    live s1 b → s1.stratus.activation = none → s1.stratus.handover = none → roundAt b s1.tb2Q = some r →
      ((∃ k, s1.stratus.started = some k ∧ r ≤ k) → exec (.roundStart dt) s = .next s1) ∧
      ((∀ k, s1.stratus.started = some k → k < r) → s1.stratus.polling = false → s1.boot.role = 2 →
        exec (.roundStart dt) s = .next { s1 with stratus := { s1.stratus with
          started := some r, seen := [], frames := [], inserted := [], held := [], lap2 := false, polled := false, meas := []
          nodeNew := [], latched := s1.latchSlots b r } })) ∧
  (∀ (dt r : Nat) (b : Bytes) (h : HeldPoll) (s : State),
    let s1 := s.advance dt
    let at_ := roundStart b r + centQ (trainTo b h.index + d2 b s1.devices s1.delayMax)
    live s1 b → s1.stratus.started = some r → s1.stratus.held = [h] →
      (at_ ≤ s1.tb2Q → exec (.lap2Send dt) s = .next
        (({ s1 with stratus.held := [] } : State).forwardPoll h.ring (patch h.pdu 0x12 [2]) true)) ∧
      (s1.tb2Q < at_ → exec (.lap2Send dt) s = .next s1)) ∧
  (∀ (dt inR : Nat) (rx : StratusRx) (p : Bytes) (s : State),
    let s1 := s.advance dt
    s1.stratus.st ≠ .disabled → s1.portUp rx.port = true → s1.inRing rx.port = some inR →
      (s1.openLink inR rx = none → exec (.pollFrameReceived dt rx p) s = .next ((s1.stratusCount 0).forwardPoll inR p false)) ∧
      (∀ u, s1.openLink inR rx = some u → byteAt p 0x0F ≠ 0 →
        (u32 p 0x14 < u.stratus.epoch → exec (.pollFrameReceived dt rx p) s = .next (u.forwardPoll inR p true)) ∧
        (u.stratus.epoch < u32 p 0x14 → u.boot.role = 1 → ∃ t, exec (.pollFrameReceived dt rx p) s = .next t ∧
          t.boot.role = 2 ∧ t.stratus.polling = false ∧ t.stratus.isBackup = true ∧ t.stratus.manager = byteAt p 0x11 ∧
          t.stratus.epoch = u32 p 0x14) ∧
        (∀ b o slot sigs, u32 p 0x14 = u.stratus.epoch → u.stratus.polling = false → u.stratus.listenAt = none → live u b →
          byteAt p 0x12 = 2 → u64 p 4 < 2 ^ 64 → u.stratus.started = some (u64 p 4) → u16 p 0x0C = u.stratus.version →
          9 * rx.tIn ≤ u.commitAt b (u64 p 4) → byteAt p 0x13 ≤ 1 →
          readRecords 200 (u64 p 4) p 0x18 = [(o, slot, sigs, true)] → u.stratus.seen.get (2 * slot + byteAt p 0x13) = none →
            ∃ t x, exec (.pollFrameReceived dt rx p) s = .next t ∧
              t.stratus.seen.get (2 * slot + byteAt p 0x13) = some x ∧ x.taken = some sigs ∧ t.stratus.polled = true ∧
              t.stratus.binds = u.stratus.binds))) ∧
  (∀ (dt r : Nat) (b : Bytes) (s : State),
    let s1 := s.advance dt
    let first (slot : Nat) : Option (List SlotSig) :=
      ((s1.stratus.seen.getD (2 * slot) {}).taken).or ((s1.stratus.seen.getD (2 * slot + 1) {}).taken)
    let fresh (slot j : Nat) (x : SlotBind) : Option SlotSig :=
      if (schSigs (schEntries b) slot).length = x.signals.length
      then (first slot).bind (fun g => (g[j]?).bind (fun (v : SlotSig) => if v.flags % 2 = 1 then some v else none)) else none
    live s1 b → s1.stratus.started = some r →
      (s1.tb2Q < s1.commitAt b r → exec (.roundCommit dt) s = .next s1) ∧
      (commit s1 b r → (s1.stratus.binds.map (·.1)).Nodup → ∃ t, exec (.roundCommit dt) s = .next t ∧ t.stratus.round = r ∧
        (∀ slot x, s1.stratus.binds.get slot = some x → ∃ y, t.stratus.binds.get slot = some y ∧ y.signals = x.signals ∧
          y.ageLimit = x.ageLimit ∧
          (∀ j, j < x.signals.length →
            (∀ (v : SlotSig), fresh slot j x = some v → y.values[j]? = some v.value ∧ y.safes[j]? = some (v.flags / 4 % 2 == 1) ∧
              y.ages[j]? = some 0 ∧ y.ever[j]? = some true) ∧
            (fresh slot j x = none → y.values[j]? = some (x.values.getD j 0) ∧ y.safes[j]? = some (x.safes.getD j false) ∧
              y.ages[j]? = some (min (x.ages.getD j 0 + 1) 255) ∧ y.ever[j]? = some (x.ever.getD j false))) ∧
          ∃ i, i < 5 ∧ y.counters = modAt x.counters i inc32) ∧
        (s1.stratus.meas = [] → (schSync b).contains s1.ownNode = false → t.stratus.sync = .lost ∧ t.stratus.rate = s1.stratus.rate ∧
          t.horizon.tb2 = s1.horizon.tb2 ∧ t.horizon.tb2Rate = s1.stratus.rate * 65536) ∧
        (s1.stratus.isBackup = true → s1.stratus.lap2 = false → 0 < s1.stratus.epoch → s1.stratus.polled = true →
          t.boot.role = 1 ∧ t.stratus.polling = true ∧ t.stratus.epoch = s1.stratus.epoch + 1 ∧
          t.stratus.ownEpoch = s1.stratus.epoch + 1 ∧ t.stratus.manager = s1.ownNode ∧ t.stratus.backup = s1.stratus.manager) ∧
        (s1.stratus.isBackup = false → t.boot.role = s1.boot.role ∧ t.stratus.manager = s1.stratus.manager ∧
          t.stratus.epoch = if s1.stratus.polled = false ∧ s1.stratus.polling = false ∧ s1.stratus.quiet = 63 then 0
            else s1.stratus.epoch))) ∧
  (∀ (dt n : Nat) (e : Bytes) (s : State),
    let s1 := s.advance dt
    s1.stratus.polling = true →
      (s1.stratus.nodeGone.getD n 0 < 16 → exec (.nodeLost dt n) s = .next s1) ∧
      (16 ≤ s1.stratus.nodeGone.getD n 0 → s1.stratus.nodeLast.get n = some e → bit (byteAt e 2) 1 = true →
        exec (.nodeLost dt n) s = .next { s1 with stratus.nodeGone := s1.stratus.nodeGone.del n }) ∧
      (16 ≤ s1.stratus.nodeGone.getD n 0 → s1.stratus.nodeLast.get n = some e → bit (byteAt e 2) 1 = false →
        (∀ q ∈ s1.place.insts, q.2.place ≠ .assigned ∨ q.2.node ≠ n) → exec (.nodeLost dt n) s = .next { s1 with
          stratus.nodeGone := s1.stratus.nodeGone.del n, stratus.reports := s1.stratus.reports.del n })) ∧
  (∀ (dt src dst mseq ring : Nat) (body : MgmtBody) (rx : StratusRx) (s u : State),
    let s1 := s.advance dt
    s1.stratus.st ≠ .disabled → s1.portUp rx.port = true → s1.inRing rx.port = some ring → s1.openLink ring rx = some u →
      (dst ≠ u.ownNode → dst ≠ 0xFF → exec (.mgmtMessageReceived dt rx src dst mseq body) s =
        .next (u.passMgmt ring src dst mseq body)) ∧
      (∀ rep, src ≠ u.ownNode → dst = u.ownNode → u.zenithUp = true → u.mute = false →
        ∃ t, exec (.mgmtMessageReceived dt rx src dst mseq (.report rep)) s = .next t ∧
          ((src, mseq) ∈ u.stratus.mgmtSeen → t.stratus = u.stratus) ∧
          ((src, mseq) ∉ u.stratus.mgmtSeen → t.stratus.reports.get src = some rep ∧ (src, mseq) ∈ t.stratus.mgmtSeen))) ∧
  (∀ (dt : Nat) (m : MgmtMsg) (s : State),
    let s1 := s.advance dt
    s1.stratus.outbox = [m] →
      (visNs s1.tb3 < m.at_ + 10000000 → exec (.mgmtMessageRetry dt) s = .next s1) ∧
      (m.at_ + 10000000 ≤ visNs s1.tb3 → 100 ≤ m.tries → exec (.mgmtMessageRetry dt) s = .next { s1 with stratus.outbox := [] }) ∧
      (m.at_ + 10000000 ≤ visNs s1.tb3 → m.tries < 100 → ∃ t, exec (.mgmtMessageRetry dt) s = .next t ∧
        t.stratus.outbox = [{ m with tries := m.tries + 1, at_ := visNs s1.tb3 }] ∧
        (∀ port, s1.keyedOut 0 = some port → t = ({ s1 with
          stratus.outbox := [{ m with tries := m.tries + 1, at_ := visNs s1.tb3 }] } : State).emit
            (.mgmt port s1.ownNode m.dst m.mseq m.body)))) ∧
  (∀ (dt : Nat) (s : State),
    let s1 := s.advance dt
    let rep := s1.makeReport
    let may := s1.boot.role = 2 ∧ s1.stratus.st ≠ .disabled ∧ s1.stratus.manager ≠ 0xFF ∧ (s1.pair.st = .unpaired ∨ s1.inControl = true)
    (may → s1.stratus.reportAt + 100000000 ≤ visNs s1.tb3 → exec (.workerStateReport dt) s = .next
      (({ s1 with stratus.reportAt := visNs s1.tb3, stratus.lastReport := some rep } : State).sendMgmt s1.stratus.manager
        (.report rep)).2) ∧
    (¬ may → exec (.workerStateReport dt) s = .next s1)) ∧
  (∀ (dt t0 : Nat) (s : State), s.stratus.listenAt = some t0 →
    (t0 + 2000000 ≤ visNs (s.advance dt).tb3 →
      exec (.managerListenTimeout dt) s = .next { s.advance dt with stratus.listenAt := none }) ∧
    (visNs (s.advance dt).tb3 < t0 + 2000000 → exec (.managerListenTimeout dt) s = .next (s.advance dt))) ∧
  (∀ (dt port ring rtt : Nat) (s : State),
    let s1 := s.advance dt
    let measured (t : State) : Prop := t.stratus.linkDelay = setAt s1.stratus.linkDelay ring (rtt / 2)
    s1.inRing port = some ring →
      (rtt / 2 ≤ s1.delayMax * 65536 → exec (.linkDelayMeasurement dt port rtt) s = .next
        { s1 with stratus.linkDelay := setAt s1.stratus.linkDelay ring (rtt / 2) }) ∧
      (s1.delayMax * 65536 < rtt / 2 → ∃ t, exec (.linkDelayMeasurement dt port rtt) s = .next t ∧ measured t ∧
        t.stratus.exceeded = true ∧ (s1.stratus.exceeded = true → t.recorder = s1.recorder)))

/-- For every state and every packet that passes its checks: SET_PTP stores a base's settings and puts it into
LISTENING or DISABLED, settings that are the same change nothing; SET_PORT_TIMING, SET_CAPTURE_INPUT and SET_UTC store
what they carry; SELECT_TIME that names the followed base while protection time is SYNCED changes only the options,
and a base that is not LOCKED is refused with 0x0006; SET_PULSE programs a pin and replies the ns of the first
instant, ONCE less than 10 us ahead is refused with 0x0003; READ_CAPTURES removes the entries it returns;
STEP_PROTECTION_TIME sets protection time to its base with nothing running and no stream enabled; GET_PTP_STATUS and
GET_TIME reply what is stored. -/
def Obligations.TimeCommandsComplete : Prop :=
  let b (c : Cmd) : Nat := byteAt c.params 0
  let want (s : State) (c : Cmd) : PtpBase := { s.ptp (b c) with
    enable := byteAt c.params 1 == 1, profile := byteAt c.params 2, domain := byteAt c.params 3, ports := uN c.params 4 16
    vlan := u16 c.params 0x14, bw := byteAt c.params 0x16
    lockNs := if u16 c.params 0x18 = 0 then 100 else u16 c.params 0x18 }
  let free (s : State) (c : Cmd) : Prop := (b c = s.followNo → s.anyRunning = false) ∧
    (∀ n ∈ bitList 128 (uN c.params 4 16), s.portRole n = 0 ∧ ((s.chan 65).enabled = true → n ≠ s.cmd.ethPort)) ∧
    (byteAt c.params 1 = 1 → (s.ptp (1 - b c)).enable = true → (s.ptp (1 - b c)).domain = byteAt c.params 3 →
      (s.ptp (1 - b c)).ports &&& uN c.params 4 16 = 0)
  let options (s : State) (c : Cmd) : State := { s with
    horizon.auto := bit (byteAt c.params 1) 0, horizon.revert := bit (byteAt c.params 1) 1, horizon.slewPpm := byteAt c.params 2
    horizon.revertS := u16 c.params 4 }
  let prog (c : Cmd) : PulseCfg := {
    mode := byteAt c.params 1, base := byteAt c.params 2, invert := bit (byteAt c.params 3) 0, gated := bit (byteAt c.params 3) 1
    start := time80 c.params 4, period := time80 c.params 0x10, width := u32 c.params 0x1C, count := u32 c.params 0x20 }
  let now (s : State) (c : Cmd) : Nat := (s.pulseBase (byteAt c.params 2)).1
  let ahead (s : State) (c : Cmd) : Int := sdiff 80 (time80 c.params 4) (now s c)
  let pin (s : State) (c : Cmd) : Tpi := s.horizon.tpis.getD (b c) {}
  let k (s : State) (c : Cmd) : Nat := min (byteAt c.params 1) (pin s c).queue.length
  let time (t : Nat) : Bytes := le 8 (visNs t) ++ le 2 (vis t % 65536)
  let e (s : State) : Int := if s.ptValid then s.slewE else 0
  let still (s : State) : Prop := s.anyRunning = false ∧ ∀ q ∈ s.ingest.streams, q.2.st = .disabled
  cardSetPtp.Completes .setPtp (fun s c => free s c ∧ want s c ≠ s.ptp (b c))
    (fun s c => (s.setPtp (b c) { want s c with masters := [], selected := none, twoStep := none }).baseTo (b c)
      (if byteAt c.params 1 = 1 then .listening else .disabled) false) (fun _ _ => []) ∧
  cardSetPtp.Completes .setPtp (fun s c => free s c ∧ want s c = s.ptp (b c)) (fun s _ => s) (fun _ _ => []) ∧
  cardSetPtp.Refuses .setPtp (fun s c => b c = s.followNo ∧ s.anyRunning = true) 0x0300 (fun _ _ => 1) ∧
  cardGetPtpStatus.Completes .getPtpStatus (fun _ _ => True)
    (fun s c => if bit (byteAt c.params 1) 0 then s.setPtp (b c) { s.ptp (b c) with steps := 0, outliers := 0, arbRej := 0 } else s)
    (fun s c =>
      let x := s.ptp (b c)
      le 1 x.st.code ++ le 1 ((x.selected.map (·.1)).getD 0xFF) ++
      (match x.master.bind (·.utc) with
        | some u => leS 2 u
        | none => le 2 0x8000) ++ le 8 ((x.master.map (·.gmId)).getD 0) ++ leS 8 x.lastO ++ leS 8 x.rate ++
      leS 4 (divFloor (match x.selected with
        | some (n, _) => (s.timingOf n).linkDelay
        | none => 0) 65536) ++
      le 4 (if x.st = .holdover then (tDiff s.tb3 x.holdAt).toNat / 2 ^ 40 / 1000000000 else 0) ++
      le 4 x.steps ++ le 4 x.outliers ++ le 4 x.arbRej) ∧
  cardSetPortTiming.Completes .setPortTiming (fun _ _ => True)
    (fun s c => { s with horizon.timing := s.horizon.timing.put (b c) { s.timingOf (b c) with
      ingressPs := s32 c.params 4, egressPs := s32 c.params 8, asymPs := s32 c.params 0x0C } }) (fun _ _ => []) ∧
  cardSelectTime.Completes .selectTime (fun s c => b c = s.followNo ∧ s.horizon.ptSt = .synced) options (fun _ _ => []) ∧
  cardSelectTime.Completes .selectTime (fun s c => b c ≠ s.followNo ∧ (s.ptp (b c)).st = .locked ∧ s.horizon.ptSt = .synced)
    (fun s c => (options s c).switchTime (b c)) (fun _ _ => []) ∧
  cardSelectTime.Refuses .selectTime (fun s c => b c ≠ s.followNo ∧ (s.ptp (b c)).st ≠ .locked) 0x0300 (fun _ _ => 6) ∧
  cardGetTime.Reads .getTime (fun _ _ => True)
    (fun s _ =>
      le 1 s.horizon.ptSt.code ++
      le 1 (bitsNat [s.horizon.follow1, e s != 0, decide ((e s).natAbs > 1000000 * 2 ^ 40), s.horizon.tb2Div]) ++
      le 1 (bitsNat [s.horizon.tb0.valid, s.horizon.tb1.valid, s.stratus.sync != .lost, true]) ++ zeros 1 ++
      time s.horizon.pt ++ time s.horizon.tb0.value ++ time s.horizon.tb1.value ++ time s.horizon.tb2 ++ time s.horizon.tb3 ++
      leS 2 s.utcOffset ++ leS 8 (divFloor (e s) (2 ^ 24))) ∧
  cardSetPulse.Completes .setPulse (fun s c => byteAt c.params 1 = 1 → (ns10us : Nat) ≤ ahead s c)
    (fun s c =>
      let x := s.pulse (b c)
      let first := (prog c).firstAt (now s c)
      s.setPulse (b c) (if s.pulseBusy x then { x with waiting := some (prog c, first) }
        else { x with cfg := prog c, next := first, fired := 0, waiting := none }))
    (fun s c => le 8 ((prog c).firstAt (now s c) / 65536)) ∧
  cardSetPulse.Refuses .setPulse (fun s c => byteAt c.params 1 = 1 ∧ ahead s c < (ns10us : Nat)) 0x0300 (fun _ _ => 3) ∧
  cardSetCaptureInput.Completes .setCaptureInput (fun _ _ => True)
    (fun s c => { s with horizon.tpis := s.horizon.tpis.put (b c) { pin s c with
      edges := byteAt c.params 1, minWidth := byteAt c.params 2 } }) (fun _ _ => []) ∧
  cardReadCaptures.Completes .readCaptures (fun _ _ => True)
    (fun s c =>
      let y := { pin s c with queue := (pin s c).queue.drop (k s c) }
      { s with horizon.tpis := s.horizon.tpis.put (b c) (if bit (byteAt c.params 2) 0 then { y with overflow := 0, tooFast := 0 }
        else y) })
    (fun s c => le 1 (k s c) ++ le 1 ((pin s c).queue.length - k s c) ++ zeros 2 ++ le 4 (pin s c).overflow ++
      le 4 (pin s c).tooFast ++ ((pin s c).queue.take (k s c)).flatMap (fun x =>
        le 8 (x.pt / 65536) ++ le 2 (x.pt % 65536) ++ le 2 (bitsNat [x.rising, x.valid, x.hold]) ++ le 4 x.seq ++ le 8 x.tb3)) ∧
  cardSetUtc.Completes .setUtc (fun _ _ => True)
    (fun s c => { s with
      horizon.utcSet := s16 c.params 0, horizon.utcFixed := byteAt c.params 2 == 1, horizon.leap := byteAt c.params 3
      horizon.leapEnd := u64 c.params 4 }) (fun _ _ => []) ∧
  cardStepProtectionTime.Completes .stepProtectionTime (fun s _ => still s ∧ s.ptValid = true)
    (fun s _ => ({ s with horizon.pt := s.followed.value } : State).checkDiverged.post 0x0A06
      (leS 8 (divToZero (-s.slewE) (2 ^ 40)))) (fun s _ => leS 8 (divToZero (-s.slewE) (2 ^ 40))) ∧
  cardStepProtectionTime.Refuses .stepProtectionTime (fun s _ => ¬ still s) 0x0300 (fun _ _ => 4) ∧
  cardStepProtectionTime.Refuses .stepProtectionTime (fun s _ => still s ∧ s.ptValid = false) 0x0300 (fun _ _ => 5)

/-- For every state: a Sync that is not the selected master's changes nothing; in ACQUIRING an offset above 1000 ns
steps the base and leaves I alone; in LOCKED a Sync that is no outlier sets I and rate by the servo, clamped; an
outlier is only counted; a two-step Sync waits for its Follow_Up. An Announce of another timescale is counted, others
join the masters heard. A port of a PTP base answers Pdelay_Req and measures meanLinkDelay, other ports do not. A base
silent for three Sync intervals goes to HOLDOVER at its HOLDOVER_RATE, and protection time with it unless it may
follow the other. Protection time returns to TB0 after REVERT_TIME. A slew below 2^-16 ns ends at 0. An announced leap
second moves the offset once. TB2 minus protection time is measured, above 1 us TB2_DIVERGED is raised. A pulse
instant gives one pulse, none without valid base or without publish enable. An edge within 100 ns of the last is only
counted, others are queued while fewer than 64 wait. -/
def Obligations.TimeBasesFollowTheirRules : Prop :=
  let clamp (v : Int) : Int := max (-13107200000) (min v 13107200000)
  (∀ (dt port b t2 : Nat) (m : PtpSync) (s : State),
    let s1 := s.advance dt
    let x := s1.ptp b
    let o := s1.syncOffset port t2 m.origin m.corr
    s1.ptpBaseOf port m.domain m.vlan = some b →
      (x.selected ≠ some (port, m.sender) → exec (.ptpSync dt port m t2) s = .next s1) ∧
      (x.selected = some (port, m.sender) →
        (m.twoStep = true → exec (.ptpSync dt port m t2) s = .next
          (s1.setPtp b { x with twoStep := some (m.sender, m.seq, t2, m.corr) })) ∧
        (m.twoStep = false → s1.horizon.pllLock = false → exec (.ptpSync dt port m t2) s = .next s1) ∧
        (m.twoStep = false → s1.horizon.pllLock = true →
          (x.st = .acquiring → 1000 * 65536 < o.natAbs → ∃ t, exec (.ptpSync dt port m t2) s = .next t ∧
            (t.ptp b).value = ofSigned 104 ((x.value : Int) - o * 2 ^ 24) ∧ (t.ptp b).integ = x.integ ∧
            (t.ptp b).steps = inc32 x.steps ∧ (t.ptp b).st = .acquiring ∧ t.horizon.pt = s1.horizon.pt) ∧
          (x.st = .acquiring → o.natAbs ≤ 1000 * 65536 → ∃ t, exec (.ptpSync dt port m t2) s = .next t ∧
            (t.ptp b).value = x.value ∧
            ((t.ptp b).st = .locked ↔ 15 ≤ x.lockRun ∧ o.natAbs ≤ x.lockNs * 65536)) ∧
          (x.st = .locked → x.outlier o = false → o.natAbs ≤ 1000 * 65536 → ∃ t, exec (.ptpSync dt port m t2) s = .next t ∧
            (t.ptp b).value = x.value ∧ (t.ptp b).st = .locked ∧
            (t.ptp b).integ = clamp (x.integ + kiTerm x.bw o m.logInt) ∧
            (t.ptp b).rate = clamp (divToZero (-(kp x.bw * o + (t.ptp b).integ * 100000)) 100000)) ∧
          (x.st = .locked → x.outlier o = true → o.natAbs ≤ 1000 * 65536 → ∃ t, exec (.ptpSync dt port m t2) s = .next t ∧
            (t.ptp b).rate = x.rate ∧ (t.ptp b).integ = x.integ ∧ (t.ptp b).outliers = inc32 x.outliers ∧
            (t.ptp b).st = .locked)))) ∧
  (∀ (dt port b t2 : Nat) (corr : Int) (m : PtpSync) (s : State),
    let s1 := s.advance dt
    let x := s1.ptp b
    let u := s1.setPtp b { x with twoStep := none }
    s1.ptpBaseOf port m.domain m.vlan = some b → x.selected = some (port, m.sender) →
      (x.twoStep = none → exec (.ptpFollowUp dt port m) s = .next s1) ∧
      (x.twoStep = some (m.sender, m.seq, t2, corr) → exec (.ptpFollowUp dt port m) s = .next
        (if s1.horizon.pllLock then u.acceptSync b (s1.syncOffset port t2 m.origin (corr + m.corr)) m.logInt else u))) ∧
  (∀ (dt port b : Nat) (m : PtpAnnounce) (s : State),
    let s1 := s.advance dt
    let x := s1.ptp b
    s1.ptpBaseOf port m.domain m.vlan = some b →
      (m.ptpScale = false → exec (.ptpAnnounce dt port m) s = .next (s1.setPtp b { x with arbRej := inc32 x.arbRej })) ∧
      (m.ptpScale = true → ∃ t k, exec (.ptpAnnounce dt port m) s = .next t ∧
        (t.ptp b).masters = k :: x.masters.filter (fun q => !(q.port == port && q.sender == m.sender)) ∧
        k.port = port ∧ k.sender = m.sender ∧ k.gmId = m.gmId ∧ k.utc = m.utc ∧ k.leap = m.leap ∧ k.lastAnn = s1.tb3 ∧
        k.dataset = [m.prio1, m.cls, m.accuracy, m.variance, m.prio2, m.gmId, m.steps, m.sender, port] ∧
        (t.ptp b).selected = bestMaster s1.tb3 (t.ptp b).masters)) ∧
  (∀ (dt port domain requester seq t1 t2 t3 t4 : Nat) (corr : Int) (s : State),
    let s1 := s.advance dt
    let g := s1.timingOf port
    let head := le 1 domain ++ be 10 requester ++ be 2 seq
    let ps (v : Int) : Int := divToZero (v * 65536) 1000
    (port < 128 → s1.ptpPort port = true →
      (s1.portUp port = true → exec (.pdelayReq dt port domain requester seq t2 t3) s = .next
        ((s1.emit (.ptp port (head ++ be 10 (ofSigned 80 ((t2 : Int) - ps g.ingressPs))))).emit
          (.ptp port (head ++ be 10 (ofSigned 80 ((t3 : Int) + ps g.egressPs)))))) ∧
      exec (.pdelayResponse dt port t1 t2 t3 t4 corr) s = .next { s1 with horizon.timing := s1.horizon.timing.put port { g with
        linkDelay := divToZero (sdiff 80 t4 t1 - ps g.ingressPs - ps g.egressPs - sdiff 80 t3 t2 - corr) 2 } }) ∧
    (s1.ptpPort port = false → exec (.pdelayReq dt port domain requester seq t2 t3) s = .next s1 ∧
      exec (.pdelayResponse dt port t1 t2 t3 t4 corr) s = .next s1)) ∧
  (∀ (dt b : Nat) (s : State),
    let s1 := s.advance dt
    let x := s1.ptp b
    b < 2 → (x.st = .acquiring ∨ x.st = .locked) → (3 * x.syncIntNs * 2 ^ 40 : Nat) ≤ tDiff s1.tb3 x.lastSync →
      ∃ t, exec (.ptpSyncTimeout dt b) s = .next t ∧ (t.ptp b).st = .holdover ∧ (t.ptp b).holdAt = s1.tb3 ∧
        (t.ptp b).rate = (x.closeSeg s1.tb3).holdRate ∧ (t.ptp b).value = x.value ∧
        (x.st = .locked → s1.horizon.ptSt = .synced → b = s1.followNo →
          (s1.horizon.auto = false → t.horizon.ptSt = .holdover ∧ t.horizon.follow1 = s1.horizon.follow1) ∧
          (s1.horizon.auto = true → (s1.ptp (1 - b)).st = .locked → t.horizon.ptSt = .synced ∧
            t.horizon.follow1 = !s1.horizon.follow1 ∧ t.horizon.pt = s1.horizon.pt))) ∧
  (∀ (dt : Nat) (s : State),
    let s1 := s.advance dt
    let h := s1.horizon
    let due := h.auto = true ∧ h.revert = true ∧ h.follow1 = true ∧ s1.ptValid = true ∧ h.tb0.st = .locked ∧
      s1.tb3Passed h.tb0LockAt (h.revertS * 1000000) = true
    (¬ due → exec (.revertTimeout dt) s = .next s1) ∧
    (due → ∃ t, exec (.revertTimeout dt) s = .next t ∧ t.horizon.follow1 = false ∧ t.horizon.pt = h.pt)) ∧
  (∀ (dt : Nat) (s : State),
    let s1 := s.advance dt
    s1.ptValid = true → s1.slewE.natAbs < 2 ^ 24 → s1.horizon.diverged = false →
      exec (.slewComplete dt) s = .next { s1 with horizon.pt := s1.followed.value }) ∧
  (∀ (dt : Nat) (s : State),
    let s1 := s.advance dt
    let h := s1.horizon
    let ended := s1.ptValid = true ∧ (h.leapEnd * 1000000000 : Int) ≤ (s1.nowNs : Int) - s1.utcOffset * 1000000000
    h.utcFixed = true →
      (ended → h.leap = 1 → exec (.leapSecond dt) s = .next { s1 with
        horizon.utcSet := h.utcSet + 1, horizon.leap := 0, horizon.leapEnd := 0 }) ∧
      (ended → h.leap = 2 → exec (.leapSecond dt) s = .next { s1 with
        horizon.utcSet := h.utcSet - 1, horizon.leap := 0, horizon.leapEnd := 0 }) ∧
      (h.leap = 0 ∨ ¬ ended → exec (.leapSecond dt) s = .next s1)) ∧
  (∀ (dt : Nat) (s : State),
    let s1 := s.advance dt
    let d := tDiff s1.horizon.tb2 s1.horizon.pt
    s1.ptValid = true → s1.stratus.st ≠ .disabled →
      (d.natAbs ≤ 1000 * 2 ^ 40 → exec (.tb2DeltaMeasurement dt) s = .next { s1 with
        horizon.delta := divFloor d (2 ^ 24), horizon.tb2Div := false }) ∧
      (1000 * 2 ^ 40 < d.natAbs → ∃ t, exec (.tb2DeltaMeasurement dt) s = .next t ∧ t.horizon.delta = divFloor d (2 ^ 24) ∧
        t.horizon.tb2Div = true ∧ t.horizon.tb2 = s1.horizon.tb2)) ∧
  (∀ (dt pin : Nat) (s : State),
    let s1 := s.advance dt
    let x := s1.pulse pin
    let now := (s1.pulseBase x.cfg.base).1
    let after (given : Nat) (skipped busy : Nat) : Pulse := if x.cfg.mode = 1 ∨ (x.cfg.count ≠ 0 ∧ x.cfg.count ≤ x.fired + given)
      then { x with fired := x.fired + given, cfg := { x.cfg with mode := 0 }, skipped := skipped, busyTo := busy }
      else { x with fired := x.fired + given, next := (x.next + x.cfg.period) % 2 ^ 80, skipped := skipped, busyTo := busy }
    pin < 8 → x.waiting = none → s1.pulseBusy x = false →
      (x.cfg.mode = 0 ∨ sdiff 80 now x.next < 0 → exec (.pulseInstant dt pin) s = .next (s1.setPulse pin x)) ∧
      ((x.cfg.mode = 1 ∨ x.cfg.mode = 2) → 0 ≤ sdiff 80 now x.next → (x.cfg.mode = 2 → sdiff 80 now x.next < (x.cfg.period : Int)) →
        ((s1.pulseBase x.cfg.base).2 = false →
          exec (.pulseInstant dt pin) s = .next (s1.setPulse pin (after 0 (x.skipped + 1) x.busyTo))) ∧
        ((s1.pulseBase x.cfg.base).2 = true → x.cfg.gated = true → s1.pair.pubEnable = false →
          exec (.pulseInstant dt pin) s = .next (s1.setPulse pin (after 0 x.skipped x.busyTo))) ∧
        ((s1.pulseBase x.cfg.base).2 = true → x.cfg.gated = false ∨ s1.pair.pubEnable = true →
          exec (.pulseInstant dt pin) s = .next
            ((s1.setPulse pin (after 1 x.skipped ((s1.tb3 + x.cfg.width * 2 ^ 40) % 2 ^ 104))).emit
              (.pulse pin x.next x.cfg.width))))) ∧
  (∀ (dt pin pt width : Nat) (rising : Bool) (s : State),
    let s1 := s.advance dt
    let x := s1.horizon.tpis.getD pin {}
    let put (y : Tpi) : State := ({ s1 with horizon.tpis := s1.horizon.tpis.put pin y } : State).setLine (832 + pin) rising
    let wanted := bit x.edges (if rising then 0 else 1) = true ∧ minWidthNs x.minWidth ≤ width
    let soon := ∃ t, x.lastEdge = some t ∧ t ≤ pt ∧ pt < t + 100 * 65536
    let e : Capture := { pt := pt, rising := rising, valid := false, hold := false, seq := (x.seq + 1) % 2 ^ 32, tb3 := visNs s1.tb3 }
    pin ≤ 7 →
      (¬ wanted → exec (.tpiEdge dt pin rising pt width) s = .next (put { x with level := rising })) ∧
      (wanted → soon → exec (.tpiEdge dt pin rising pt width) s = .next
        (put { x with level := rising, tooFast := inc32 x.tooFast })) ∧
      (wanted → ¬ soon → s1.horizon.ptSt = .invalid → x.queue.length < 64 →
        exec (.tpiEdge dt pin rising pt width) s = .next (put { x with
          level := rising, lastEdge := some pt, seq := (x.seq + 1) % 2 ^ 32, queue := x.queue ++ [e] })) ∧
      (wanted → ¬ soon → ∃ t y, exec (.tpiEdge dt pin rising pt width) s = .next t ∧ t.horizon.tpis.get pin = some y ∧
        y.seq = (x.seq + 1) % 2 ^ 32 ∧
        (64 ≤ x.queue.length → y.queue = x.queue ∧ y.overflow = inc32 x.overflow) ∧
        (x.queue.length < 64 → y.queue.length = x.queue.length + 1)))

/-- For every state and every packet that passes its checks: SET_CLOCK_SOURCES with a source enabled and two different
ports stores its settings, puts every source left out into DISABLED and every source newly enabled or moved to another
port into ABSENT, and selects anew; with no source enabled it is refused with 0x0001, with one port for both with
0x0002. SET_POWER sets VIN_WARN, and in WARNING is refused with 0x0003. GET_CLOCK_STATUS, GET_PLL_STATUS and
GET_POWER_STATUS reply what is stored, CLEAR resetting their counters. -/
def Obligations.ClockAndPowerCommandsComplete : Prop :=
  let p (c : Cmd) (i : Nat) : Nat := byteAt c.params i
  let cleared (c : Cmd) : Bool := bit (p c 0) 0
  cardSetClockSources.Completes .setClockSources (fun _ c => p c 0 ≠ 0 ∧ p c 2 ≠ p c 3)
    (fun s c =>
      let src (s : State) (i : Nat) : ClkSource :=
        let x := { s.clk i with prio := p c (4 + i) }
        let moved := (i = 2 ∧ s.clocks.rcv0 ≠ p c 2) ∨ (i = 3 ∧ s.clocks.rcv1 ≠ p c 3)
        if bit (p c 0) i = false then { x with st := .disabled, deferred := false, level := 0, edgeAt := none }
        else if x.st = .disabled ∨ moved then { x with st := .absent, deferred := false, level := 0, edgeAt := none } else x
      State.reselect ((List.range 4).foldl (fun (t : State) i => t.setClk i (src s i)) { s with
        clocks := { s.clocks with
          revertive := bit (p c 1) 0, sync25 := bit (p c 1) 1, rcv0 := p c 2, rcv1 := p c 3, restoreS := u16 c.params 8
          retryS := u16 c.params 0xA } })) (fun _ _ => []) ∧
  cardSetClockSources.Refuses .setClockSources (fun _ c => p c 0 = 0) 0x0300 (fun _ _ => 1) ∧
  cardSetClockSources.Refuses .setClockSources (fun _ c => p c 0 ≠ 0 ∧ p c 2 = p c 3) 0x0300 (fun _ _ => 2) ∧
  cardGetClockStatus.Completes .getClockStatus (fun _ _ => True)
    (fun s c => if cleared c then { s with clocks.switches := 0, clocks.iroFaults := 0 } else s)
    (fun s _ => le 1 s.clocks.refSt.code ++ le 1 (s.clocks.selected.getD 0xFF) ++ zeros 2 ++
      s.clocks.srcs.flatMap (fun x => le 1 (x.st.code + 8 * x.level + 32 * boolNat x.deferred)) ++
      le 4 (if s.clocks.refSt = .holdover then ((tDiff s.tb3 s.clocks.holdAt).toNat / (1000000 * 2 ^ 40)) % 2 ^ 32 else 0) ++
      leS 4 (match s.clocks.selected with
        | some i => (s.clk i).offset
        | none => 0) ++ le 4 s.clocks.switches ++ le 4 s.clocks.iroFaults) ∧
  cardGetPllStatus.Completes .getPllStatus (fun _ _ => True)
    (fun s c => if cleared c then { s with clocks.quadLosses := 0, clocks.hznLosses := 0 } else s)
    (fun s _ => le 4 (bitsNat s.clocks.quadLock) ++ le 1 (bitsNat [s.horizon.pllLock, s.clocks.pcieLock]) ++ zeros 3 ++
      le 4 s.clocks.quadLosses ++ le 4 s.clocks.hznLosses) ∧
  cardSetPower.Completes .setPower (fun s _ => s.power.supply ≠ .warning)
    (fun s c => { s with power.vinWarn := u16 c.params 0 }) (fun _ _ => []) ∧
  cardSetPower.Refuses .setPower (fun s _ => s.power.supply = .warning) 0x0300 (fun _ _ => 3) ∧
  cardGetPowerStatus.Reads .getPowerStatus (fun _ _ => True)
    (fun s _ => le 2 s.power.vinMv ++ le 2 s.power.vauxMv ++ s.power.coreMv.flatMap (le 2) ++
      le 1 (if s.power.supply = .warning then 2 else 1) ++ zeros 1 ++ le 2 s.power.vinWarn ++ s.power.temps.flatMap (leS 1) ++
      zeros 2 ++ le 4 s.power.warnings)

/-- For every state with its four sources: activity opens a window of an ABSENT source. A window that ends in
tolerance makes it QUALIFIED, CHECKED if a recovered clock was its reference, else COARSE; one outside makes it
FAILED. Loss of activity makes a QUALIFYING or QUALIFIED source FAILED; if it was the selected one and no other is
QUALIFIED the reference enters HOLDOVER. Trips of every live source at once are IRO's fault and no source trips; a
trip in a window is latched. Refinement within 5 ppm makes a source FINE, outside FAILED. A FAILED source with edges
for RETRY_TIME opens a window. With REVERTIVE a better source takes over after WAIT_TO_RESTORE, without it none does.
A switch completes on its new reference, HZN losing 3 periods. A lost PLL is counted, its ports leave UP, and it
relocks. An empty chiplet's rail is at 550 mV; an occupied one rises by 10 mV, to 900 mV at most, while an engine lost
its margin. -/
def Obligations.ClockSourcesAndRails : Prop :=
  let four (s : State) : Prop := s.clocks.srcs.length = 4
  let free (s : State) (i : Nat) : Prop := ∀ j, j < 4 → j ≠ i → (s.clk j).st ≠ .qualified
  let holds (s t : State) : Prop := t.clocks.refSt = .holdover ∧ t.clocks.selected = none ∧ t.clocks.holdAt = s.tb3
  (∀ (dt i : Nat) (s : State),
    let s1 := s.advance dt
    let x := s1.clk i
    four s1 → i < 4 →
      (2 ≤ i → s1.portUp (if i = 2 then s1.clocks.rcv0 else s1.clocks.rcv1) = false →
        exec (.sourceActivity dt i) s = .next s1) ∧
      ((i < 2 ∨ s1.portUp (if i = 2 then s1.clocks.rcv0 else s1.clocks.rcv1) = true) →
        (x.st = .absent → ∃ t y, exec (.sourceActivity dt i) s = .next t ∧ t = s1.setClk i y ∧ y.st = .qualifying ∧
          y.deferred = false ∧ y.winAt = s1.tb3 ∧ y.prio = x.prio ∧
          (∀ r, y.ref = some r → r ≠ i ∧ (r = 2 ∨ r = 3) ∧ (s1.clk r).st = .qualified)) ∧
        (x.st = .failed → exec (.sourceActivity dt i) s = .next (s1.setClk i { x with edgeAt := some (x.edgeAt.getD s1.tb3) })) ∧
        ((x.st = .disabled ∨ x.st = .qualifying ∨ x.st = .qualified) → exec (.sourceActivity dt i) s = .next s1)) ∧
      (∀ off half iro : Int,
        let tol : Nat := if x.ref.isSome then 100000 else 30000000
        let over_ := s1.tb3Passed x.winAt (if x.ref.isSome then 1000 else 10)
        (x.st ≠ .qualifying ∨ over_ = false → exec (.qualificationWindowEnd dt i off half iro) s = .next s1) ∧
        (x.st = .qualifying → over_ = true → x.deferred = false → (x.ref = none → s1.clocks.iroFault = false) →
          (off.natAbs ≤ tol → ∃ t, exec (.qualificationWindowEnd dt i off half iro) s = .next t ∧ (t.clk i).st = .qualified ∧
            (t.clk i).level = (if x.ref.isSome then 1 else 0) ∧ (t.clk i).qualAt = s1.tb3 ∧
            (s1.clocks.selected = none → t.clocks.refSt = .locked)) ∧
          (tol < off.natAbs → ∃ t, exec (.qualificationWindowEnd dt i off half iro) s = .next t ∧ (t.clk i).st = .failed ∧
            t.clocks.selected = s1.clocks.selected)) ∧
        (∀ r, x.st = .qualifying → over_ = true → x.deferred = true → x.ref = some r → (s1.clk r).st ≠ .qualified →
          s1.clocks.iroFault = false → ∃ t, exec (.qualificationWindowEnd dt i off half iro) s = .next t ∧
            ((t.clk i).st = .qualified ↔ iro.natAbs ≤ 30000000) ∧ ((t.clk i).st = .failed ↔ 30000000 < iro.natAbs) ∧
            (t.clk i).level = 0)) ∧
      (x.st = .qualified → s1.clocks.selected = some i → s1.clocks.refSt = .locked → free s1 i →
        ∃ t, exec (.sourceLossOfActivity dt i) s = .next t ∧ (t.clk i).st = .failed ∧ holds s1 t ∧
          t.horizon = s1.horizon ∧ t.clocks.switches = inc32 s1.clocks.switches) ∧
      (x.st = .qualifying → ∃ t, exec (.sourceLossOfActivity dt i) s = .next t ∧ (t.clk i).st = .failed ∧
        t.clocks.selected = s1.clocks.selected ∧ t.clocks.refSt = s1.clocks.refSt) ∧
      (x.st = .failed → exec (.sourceLossOfActivity dt i) s = .next (s1.setClk i { x with edgeAt := none })) ∧
      (∀ off : Int, x.st = .qualified → s1.canRefine i = true →
        (if x.level = 2 then s1.tb3Passed x.fineAt 10000000 else s1.tb3Passed x.qualAt 1000000) = true →
          (off.natAbs ≤ 5000 → exec (.refinementEnd dt i off) s = .next
            (s1.setClk i { x with offset := off, level := 2, fineAt := s1.tb3 })) ∧
          (5000 < off.natAbs → ∃ t, exec (.refinementEnd dt i off) s = .next t ∧ (t.clk i).st = .failed)) ∧
      (∀ t0, x.st = .failed → x.edgeAt = some t0 →
        (s1.tb3Passed t0 (s1.clocks.retryS * 1000000) = true → ∃ t, exec (.sourceRetry dt i) s = .next t ∧
          (t.clk i).st = .qualifying ∧ (t.clk i).winAt = s1.tb3) ∧
        (s1.tb3Passed t0 (s1.clocks.retryS * 1000000) = false → exec (.sourceRetry dt i) s = .next s1))) ∧
  (∀ (dt : Nat) (ratios : List Nat) (offs : List Int) (s : State),
    let s1 := s.advance dt
    let live (i : Nat) : Prop := i < 4 ∧ (s1.clk i).st ≠ .disabled ∧ (s1.clk i).st ≠ .absent
    let trip (i : Nat) : Prop := (s1.clk i).trips (ratios.getD i 0) (offs.getD i 0) = true
    four s1 →
      ((∃ i, live i) → (∀ i, live i → trip i) → ∃ t, exec (.ratioCheck dt ratios offs) s = .next t ∧ t.clocks.iroFault = true ∧
        t.clocks.iroGood = none ∧ t.clocks.iroFaults = inc32 s1.clocks.iroFaults ∧ t.clocks.selected = s1.clocks.selected ∧
        ∀ i, i < 4 → (t.clk i).st = (s1.clk i).st ∧ (t.clk i).deferred = (s1.clk i).deferred) ∧
      (∀ i j, live i → live j → trip i → ¬ trip j → (s1.clk i).st = .qualifying →
        ∃ t, exec (.ratioCheck dt ratios offs) s = .next t ∧ (t.clk i).st = .qualifying ∧ (t.clk i).deferred = true ∧
          (t.clk j).st = (s1.clk j).st ∧ (t.clk j).deferred = (s1.clk j).deferred)) ∧
  (∀ (dt : Nat) (s : State),
    let s1 := s.advance dt
    (s1.clocks.revertive = false ∨ s1.clocks.selected = none → exec (.waitToRestoreExpiry dt) s = .next s1) ∧
    (∀ i j, four s1 → j < 4 → s1.clocks.revertive = true → s1.clocks.selected = some i → (s1.clk j).st = .qualified →
      (s1.clk j).prio < (s1.clk i).prio → s1.tb3Passed (s1.clk j).qualAt (s1.clocks.restoreS * 1000000) = true →
        (∀ k, k < 4 → k ≠ j → (s1.clk j).prio < (s1.clk k).prio) →
          ∃ t, exec (.waitToRestoreExpiry dt) s = .next t ∧ t.clocks.selected = some j ∧ t.clocks.refSt = .locked)) ∧
  (∀ (dt d : Nat) (x : ClkDomain) (s : State),
    let s1 := s.advance dt
    s1.clocks.doms[d]? = some x → (x.next = none → exec (.referenceSwitchComplete dt d) s = .next s1) ∧
      (∀ r, x.next = some r → ∃ t y, exec (.referenceSwitchComplete dt d) s = .next t ∧ t.clocks.doms[d]? = some y ∧ y.ref = r ∧
        (y.next = if s1.refCode = r then none else some s1.refCode) ∧ t.horizon = s1.horizon ∧
        (d = 32 → t.clocks.hznLost = if s1.clocks.hznSlip then 0 else 3))) ∧
  (∀ (dt d rx : Nat) (s : State),
    let s1 := s.advance dt
    (s1.clocks.quadLock.length = 32 → d < 32 → s1.clocks.quadLock.getD d true = true → ∃ t, exec (.pllLockLoss dt d rx) s = .next t ∧
      t.clocks.quadLock = setAt s1.clocks.quadLock d false ∧ t.clocks.quadLosses = inc32 s1.clocks.quadLosses ∧
      ∀ n, n / 4 = d → t.portUp n = false) ∧
    (s1.clocks.quadLock.getD d true = false → d < 32 → exec (.pllLockLoss dt d rx) s = .next s1 ∧
      ∃ t, exec (.pllRelock dt d) s = .next t ∧ t.clocks.quadLock = setAt s1.clocks.quadLock d true) ∧
    (s1.horizon.pllLock = true → ∃ t, exec (.pllLockLoss dt 32 rx) s = .next t ∧ t.horizon.pllLock = false ∧
      t.clocks.hznLosses = inc32 s1.clocks.hznLosses ∧ t.horizon.ptSt ≠ .synced ∧ t.horizon.tb0.st ≠ .locked ∧
      t.horizon.tb1.st ≠ .locked) ∧
    (s1.horizon.pllLock = false → exec (.pllLockLoss dt 32 rx) s = .next s1 ∧
      ∃ t, exec (.pllRelock dt 32) s = .next t ∧ t.horizon.pllLock = true)) ∧
  (∀ (dt : Nat) (s : State),
    let s1 := s.advance dt
    let calm (n : Nat) : Prop := s1.chipletOccupied n = false
    (s1.place.begun = false → exec (.coreVoltageUpdate dt) s = .next s1) ∧
    (s1.place.begun = true → s1.power.coreMv.length = 4 → ∃ t, exec (.coreVoltageUpdate dt) s = .next t ∧
      ∀ n, n < 4 → ∃ v w, s1.power.coreMv[n]? = some v ∧ t.power.coreMv[n]? = some w ∧
        (calm n → w = 550) ∧ (¬ calm n → s1.coreFloor ≤ w) ∧
        (¬ calm n → (∃ e ∈ chipletEngs n, s1.copiesOn e ≠ [] ∧ (s1.eng e).lostSince.isSome = true) →
          w = max s1.coreFloor (min 900 (v + 10)))))

/-- For every state and every packet that passes its checks: SET_VLAN with a mask of switch ports puts or deletes its
VID; SET_FDB_ENTRY removes an entry, or adds a static one where the bucket has room; SET_PORT_SWITCH, SET_SWITCH and
SET_POLICER store their settings; SET_QUEUE stores its settings while the reservations stay within 49 152 cells and is
else refused with 0x0016; SET_GATE_LIST whose express check passes takes effect at the first cycle start allowed and
replies it; SET_REDUNDANCY on free switch ports sets its entity anew; SET_PORT stores its settings, and an unchanged
line keeps its state; I2C_TRANSFER joins its master's queue and replies ACCEPTED; the reading commands reply what is
stored, and CLEAR resets their counters. A port that is no switch port is refused with 0x0001, another line rate in
the quad with 0x0004. -/
def Obligations.SwitchAndPortCommandsComplete : Prop :=
  let p (c : Cmd) (i : Nat) : Nat := byteAt c.params i
  let only (s : State) (m : Nat) : Prop := ∀ n ∈ bitList 128 m, s.isSwitchPort n = true
  let mac (c : Cmd) (o : Nat) : Nat := beNat (slice c.params o 6)
  let others (s : State) (c : Cmd) : List FdbEntry := s.sw.fdb.filter (fun e => !(e.mac == mac c 0 && e.vid == u16 c.params 6))
  let queue (s : State) (c : Cmd) : State := s.modSwp (p c 0) (fun w => { w with
    queues := modAt w.queues (p c 1) (fun q => { q with
      alpha := toSigned 8 (p c 2), reserved := u32 c.params 4
      green := (u32 c.params 8, u32 c.params 0xC, u16 c.params 0x18)
      yellow := (u32 c.params 0x10, u32 c.params 0x14, u16 c.params 0x1A) }) })
  let gates (c : Cmd) : GateList := {
    enable := p c 1 == 1, cycle := u32 c.params 4, phase := u32 c.params 8
    entries := (List.range (u16 c.params 2)).map (fun i => (p c (0x14 + 8 * i), u32 c.params (0x18 + 8 * i))) }
  let from_ (s : State) (c : Cmd) : Nat :=
    (gates c).startFrom (max (u64 c.params 0xC) (if c.own then tickAtOrAfter (s.now + 1000000 * qNs) else 0))
  let line (s : State) (c : Cmd) : Prop :=
    p c 2 = (s.port (p c 0)).phy ∧ p c 3 = (s.port (p c 0)).fec ∧ (s.port (p c 0)).enable = true ∧ p c 1 = 1
  let old (s : State) (c : Cmd) : List Nat :=
    if (s.entity (p c 0)).mode = 0 then [] else [(s.entity (p c 0)).a, (s.entity (p c 0)).b]
  let set (s : State) (c : Cmd) (n : Nat) : State := s.modPort n (fun q => { q with
    enable := p c 1 == 1, phy := p c 2, fec := p c 3, maxFrame := if u16 c.params 4 = 0 then 1522 else u16 c.params 4
    pauseRx := bit (p c 6) 0, pauseTx := bit (p c 6) 1, preempt := bit (p c 7) 0, verifyOff := bit (p c 7) 1
    addFrag := bitsOf (p c 7) 2 2, xoff := u32 c.params 8, xon := u32 c.params 0xC, rxForce := bit (p c 6) 0
    txForce := bit (p c 6) 1 })
  cardSetVlan.Completes .setVlan (fun s c => only s (uN c.params 4 16))
    (fun s c => { s with sw.vlans := if uN c.params 4 16 = 0 then s.sw.vlans.del (u16 c.params 0)
      else s.sw.vlans.put (u16 c.params 0) (uN c.params 4 16, uN c.params 0x14 16) }) (fun _ _ => []) ∧
  cardSetVlan.Refuses .setVlan (fun s c => ¬ only s (uN c.params 4 16)) 0x0300 (fun _ _ => 1) ∧
  cardSetFdbEntry.Completes .setFdbEntry (fun _ c => p c 8 = 0) (fun s c => { s with sw.fdb := others s c }) (fun _ _ => []) ∧
  cardSetFdbEntry.Completes .setFdbEntry
    (fun s c => p c 8 = 1 ∧ (State.bucket { s with sw.fdb := others s c } (mac c 0) (u16 c.params 6)).length < 8)
    (fun s c => { s with sw.fdb := others s c ++
      [{ mac := mac c 0, vid := u16 c.params 6, static_ := true, ports := uN c.params 0xC 16, at_ := 0 }] }) (fun _ _ => []) ∧
  cardGetFdb.Reads .getFdb (fun _ _ => True)
    (fun s c => match s.fdbFind (mac c 0) (u16 c.params 6) with
      | some e => le 1 (if e.static_ then 1 else 2) ++ zeros 3 ++ le 16 e.ports
      | none => zeros 20) ∧
  cardSetPortSwitch.Completes .setPortSwitch (fun s c => s.isSwitchPort (p c 0) = true)
    (fun s c => s.modSwp (p c 0) (fun w => { w with
      learn := bit (p c 1) 0, floodU := bit (p c 1) 1, floodM := bit (p c 1) 2, filter := bit (p c 1) 3, pvid := u16 c.params 2
      dpcp := p c 4, preempt := p c 5, ct := p c 6, pcpMap := u32 c.params 8, residenceUs := u32 c.params 0xC }))
    (fun _ _ => []) ∧
  cardSetPortSwitch.Refuses .setPortSwitch (fun s c => s.isSwitchPort (p c 0) = false) 0x0300 (fun _ _ => 1) ∧
  cardSetSwitch.Completes .setSwitch (fun _ _ => True)
    (fun s c => { s with
      sw.ageS := u32 c.params 0
      sw.etypes := (List.range 16).map (fun i => (u16 c.params (4 + 4 * i), p c (6 + 4 * i), p c (7 + 4 * i) == 1)) })
    (fun _ _ => []) ∧
  cardSetQueue.Completes .setQueue (fun s c => (queue s c).reservedTotal ≤ 49152) queue (fun _ _ => []) ∧
  cardSetQueue.Refuses .setQueue (fun s c => 49152 < (queue s c).reservedTotal) 0x0400 (fun _ _ => 0x16) ∧
  cardSetPolicer.Completes .setPolicer (fun _ _ => True)
    (fun s c => s.modSwp (p c 0) (fun w => { w with meters := setAt w.meters (p c 1) {
      enable := p c 2 == 1, cir := u32 c.params 4, pir := u32 c.params 8, cbs := u32 c.params 0xC, pbs := u32 c.params 0x10
      tc := u32 c.params 0xC * 8000000, tp := u32 c.params 0x10 * 8000000, last := visNs s.tb3 } })) (fun _ _ => []) ∧
  cardSetGateList.Completes .setGateList
    (fun s c => s.isSwitchPort (p c 0) = true ∧ s.expressFailOn (p c 0) (gates c) (s.port (p c 0)).phy = none)
    (fun s c => s.modSwp (p c 0) (fun w => { w with nextGate := some (from_ s c, gates c) })) (fun s c => le 8 (from_ s c)) ∧
  cardSetRedundancy.Completes .setRedundancy
    (fun s c => (∀ n ∈ [p c 2, p c 3], s.isSwitchPort n = true ∧ ∀ m, s.portEntity n = some m → m = p c 0) ∧
      ∀ n ∈ [p c 2, p c 3] ++ old s c, s.portCarries n = false)
    (fun s c => s.setEntity (p c 0) {
      mode := p c 1, a := p c 2, b := p c 3, mac := mac c 4, ageMs := if u16 c.params 0xA = 0 then 400 else u16 c.params 0xA
      holdNs := u32 c.params 0xC, supMs := u16 c.params 0x10, supAt := s.tb3 }) (fun _ _ => []) ∧
  cardGetRedundancyStatus.Completes .getRedundancyStatus (fun _ _ => True)
    (fun s c => if bit (p c 1) 0 then s.setEntity (p c 0) { s.entity (p c 0) with counters := List.replicate 10 0 } else s)
    (fun s c =>
      let e := s.entity (p c 0)
      le 1 e.mode ++ le 1 (if e.mode = 0 then 0 else boolNat (s.portUp e.a) + 2 * boolNat (s.portUp e.b)) ++
      le 2 e.sources.length ++ e.counters.flatMap (le 4)) ∧
  cardGetBufferStatus.Reads .getBufferStatus (fun _ _ => True)
    (fun s _ => le 4 s.reservedTotal ++ le 4 s.sharedCharged ++ le 4 s.occupiedCells ++ le 4 s.sw.peak ++
      le 4 (s.anvil.poison.filter (fun l => decide (l ≥ bufferLine))).length) ∧
  cardGetQueueCounters.Completes .getQueueCounters (fun s c => (s.port (p c 0)).tx = none ∧ (p c 1) < (s.swp (p c 0)).queues.length)
    (fun s c => if bit (p c 2) 0 then s.modSwp (p c 0) (fun w => { w with
        queues := modAt w.queues (p c 1) (fun q => { q with
          peak := s.queueUsed (p c 0) (p c 1), counters := List.replicate 9 0 }) }) else s)
    (fun s c => (((s.swp (p c 0)).queues[p c 1]?).map (fun q => le 4 (s.queueUsed (p c 0) (p c 1)) ++
      le 4 (max q.peak (s.queueUsed (p c 0) (p c 1))) ++ q.counters.flatMap (le 4))).getD []) ∧
  cardGetSwitchCounters.Completes .getSwitchCounters (fun _ _ => True)
    (fun s c => if bit (p c 1) 0 then s.modSwp (p c 0) (fun w => { w with counters := List.replicate 7 0 }) else s)
    (fun s c => (s.swp (p c 0)).counters.flatMap (le 4)) ∧
  cardSetPort.Completes .setPort
    (fun s c => s.isSwitchPort (p c 0) = true ∧ s.lineRateClash (p c 0) (p c 2) (p c 1 == 1) = false ∧ line s c ∧ p c 2 ≠ 0 ∧
      (s.port (p c 0)).preempt = bit (p c 7) 0 ∧ (s.port (p c 0)).verifyOff = bit (p c 7) 1)
    (fun s c => set s c (p c 0)) (fun _ _ => []) ∧
  cardSetPort.Completes .setPort
    (fun s c => s.isSwitchPort (p c 0) = true ∧ s.lineRateClash (p c 0) (p c 2) (p c 1 == 1) = false ∧ ¬ line s c ∧
      rate10 (p c 2) = rate10 (s.port (p c 0)).phy)
    (fun s c => set (s.leaveUp (p c 0) (if p c 1 = 1 then .down else .disabled) false false) c (p c 0)) (fun _ _ => []) ∧
  cardSetPort.Refuses .setPort
    (fun s c => s.isSwitchPort (p c 0) = true ∧ s.lineRateClash (p c 0) (p c 2) (p c 1 == 1) = true) 0x0300 (fun _ _ => 4) ∧
  cardGetPortStatus.Reads .getPortStatus (fun _ _ => True)
    (fun s c =>
      let q := s.port (p c 0)
      le 1 q.st.code ++ le 1 q.phy ++ le 1 q.fec ++
      le 1 (bitsNat [q.rxForce, q.txForce, q.mismatch, q.remote, (match q.pauseTo with
        | some t => decide (s.now < t)
        | none => false)]) ++
      le 1 q.verify.code ++ le 1 (s.portRole (p c 0)) ++ le 2 q.threshold ++ le 2 q.maxFrame ++ zeros 2) ∧
  cardGetPortCounters.Completes .getPortCounters (fun s c => (s.port (p c 0)).tx = none)
    (fun s c => if bit (p c 1) 0 then s.setPort (p c 0) { s.port (p c 0) with
        rxOctets := 0, txOctets := 0, counters := List.replicate 24 0 } else s)
    (fun s c => le 8 (s.port (p c 0)).rxOctets ++ le 8 (s.port (p c 0)).txOctets ++ (s.port (p c 0)).counters.flatMap (le 4)) ∧
  cardI2cTransfer.Accepts .i2cTransfer (fun _ _ => True)
    (fun s c => { s with i2c := s.i2c.put (p c 0) { queue := (s.i2c.getD (p c 0) {}).queue ++ [(c.chan, c.seq)] } })
    (fun _ c => .i2c (p c 0)) false (fun _ _ => none)

/-- For every state: a port that is not UP receives nothing; a short frame is only counted; a good frame on a switch
port without entities and with meter off goes whole, with its charge, to the queue of its one destination within that
queue's reservation, or counts in NO_DEST with none. The express head starts on an idle port and occupies the wire for
its time; an underrun drops the frame and raises the threshold, which falls a step per second. A gate list takes over
at its tick, not before. Only learned entries age. A silent source entry is freed; a held frame leaves when HOLD_NS is
over; supervision frames are numbered. A received PAUSE holds and ends, and is repeated while the pool is short. A
verify packet is answered, its answer makes preemption ACTIVE, three failures make it FAILED. A locked port comes UP;
one that goes DOWN loses its queued frames and is counted. An ended I2C transfer frees its master and gives the
result. -/
def Obligations.SwitchMovesFramesByItsRules : Prop :=
  let counted (s t : State) (n i : Nat) : Prop := (t.port n).counters = modAt (s.port n).counters i (fun k => satAdd 32 k 1)
  (∀ (dt n ta : Nat) (f : Bytes) (rx : Rx) (s : State),
    let s1 := s.advance dt
    let u := ((s1.portCountN n 8 rx.frags).portCountN n 10 rx.fecFix).portCountN n 11 rx.fecBad
    (128 ≤ n ∨ s1.portUp n = false → exec (.frameReceived dt n ta f rx) s = .next s1) ∧
    (n < 128 → s1.portUp n = true → f.length < 60 → rx.err = 0 → exec (.frameReceived dt n ta f rx) s = .next (u.portCount n 2)) ∧
    (n < 128 → s1.portUp n = true → s1.isSwitchPort n = false → 60 ≤ f.length → f.length + 4 ≤ (s1.port n).maxFrame → rx.err = 3 →
      exec (.frameReceived dt n ta f rx) s = .next (u.portCount n 1)) ∧
    (let e := ethParse f
     let vid := s1.frameVid n e
     let tc := s1.classOf n e
     s1.isSwitchPort n = true → s1.portUp n = true → 60 ≤ f.length → f.length + 4 ≤ (s1.port n).maxFrame → rx.err = 0 →
     e.etype ≠ 0x8808 → e.etype ≠ etPtp → e.dst / 16 ≠ 0x0180C200000 → isMulticast e.src = false → s1.sw.entities = [] →
     s1.mgmtTakes n e = false → (s1.swp n).filter = false → (s1.swp n).learn = false →
     (∀ m ∈ (s1.swp n).meters, m.enable = false) →
      (s1.destSet n e.dst vid = [] → s1.consumerTakes n e = false → ∃ t, exec (.frameReceived dt n ta f rx) s = .next t ∧
        (t.swp n).counters = modAt (s1.swp n).counters 1 inc32 ∧ ∀ k, (t.swp k).queues = (s1.swp k).queues) ∧
      (∀ out q, s1.destSet n e.dst vid = [out] → (s1.swp out).queues[tc]? = some q → s1.portUp out = true →
        (s1.port out).tx = none → bit (s1.swp out).ct tc = false → q.green.2.1 = 0 →
        (let b := s1.egressBytes out vid (match e.tci with
          | some t => t / 8192
          | none => (s1.swp n).dpcp) e
         let cells := ceilDiv (b.length + 4) 256
         s1.queueUsed out tc + cells ≤ q.reserved → ∃ t f' q', exec (.frameReceived dt n ta f rx) s = .next t ∧
          (t.swp out).queues[tc]? = some q' ∧ q'.frames = q.frames ++ [f'] ∧ f'.bytes = b ∧ f'.charge = cells ∧
          f'.local_ = false ∧ f'.tc = tc)))) ∧
  (∀ (dt n : Nat) (f : QFrame) (q : Queue) (rest : List QFrame) (s : State),
    let s1 := s.advance dt
    n < 128 → s1.portUp n = true → (s1.port n).tx = none → (s1.port n).cut = [] → (s1.swp n).queues[7]? = some q →
    q.frames = f :: rest → f.tc = 7 → f.sof = none → f.sent = 0 → f.ready ≤ s1.now →
    s1.now ≤ f.at_ + (s1.swp n).residenceUs * 1000 * qNs → s1.anvil.poison = [] → (s1.swp n).gate.enable = false →
    (s1.swp n).nextGate = none →
      (∃ t x, exec (.frameTransmitStart dt n false) s = .next t ∧ (t.port n).tx = some x ∧ x.frame = f ∧ x.start = s1.now ∧
        x.stop = s1.now + ceilDiv (qNs * (f.bytes.length + 24) * 80) (rate10 (s1.port n).phy) ∧ x.until_ = f.bytes.length ∧
        ((t.swp n).queues[7]?).map (·.frames) = some rest) ∧
      (f.local_ = false → (s1.port n).threshold < f.bytes.length + 4 → ∃ t, exec (.frameTransmitStart dt n true) s = .next t ∧
        (t.port n).tx = none ∧ (t.port n).thresh = min ((s1.port n).thresh + 1) 4 ∧
        ((t.swp n).queues[7]?).map (·.frames) = some rest)) ∧
  (∀ (dt n : Nat) (s : State),
    let s1 := s.advance dt
    let q := s1.port n
    (0 < q.thresh → s1.tb3Passed q.threshAt 1000000 = true → exec (.thresholdDecay dt n) s = .next
      (s1.setPort n { q with thresh := q.thresh - 1, threshAt := s1.tb3 })) ∧
    (q.thresh = 0 ∨ s1.tb3Passed q.threshAt 1000000 = false → exec (.thresholdDecay dt n) s = .next s1)) ∧
  (∀ (dt n tick : Nat) (g : GateList) (s : State),
    let s1 := s.advance dt
    (s1.swp n).nextGate = some (tick, g) →
      (tick * qTick ≤ s1.now → exec (.gateEvent dt n) s = .next (s1.setSwp n { s1.swp n with gate := g, nextGate := none })) ∧
      (s1.now < tick * qTick → exec (.gateEvent dt n) s = .next s1)) ∧
  (∀ (dt mac vid : Nat) (s : State), ∃ t, exec (.fdbAgeExpiry dt mac vid) s = .next t ∧
    t = { s.advance dt with sw.fdb := t.sw.fdb } ∧
    ∀ e, e ∈ t.sw.fdb ↔ e ∈ s.sw.fdb ∧ ¬ (e.mac = mac ∧ e.vid = vid ∧ e.static_ = false ∧
      e.at_ + s.sw.ageS * 1000000000 ≤ visNs (s.advance dt).tb3)) ∧
  (∀ (dt n src : Nat) (x : SrcEntry) (s : State),
    let s1 := s.advance dt
    (s1.entity n).sources.get src = some x → ((s1.entity n).sources.map (·.1)).Nodup →
      (visNs s1.tb3 < x.at_ + (s1.entity n).ageMs * 1000000 → exec (.sourceEntryAge dt n src) s = .next s1) ∧
      (x.at_ + (s1.entity n).ageMs * 1000000 ≤ visNs s1.tb3 → ∃ t, exec (.sourceEntryAge dt n src) s = .next t ∧
        (t.entity n).sources.get src = none ∧ (t.entity n).counters = modAt (s1.entity n).counters 9 inc32)) ∧
  (∀ (dt n src : Nat) (h : HeldFrame) (s : State),
    let s1 := s.advance dt
    (s1.entity n).held = [h] → h.src = src → ((s1.entity n).sources.get src).isSome = true →
      (visNs s1.tb3 < h.at_ + (s1.entity n).holdNs → exec (.holdExpiry dt n src) s = .next s1) ∧
      (h.at_ + (s1.entity n).holdNs ≤ visNs s1.tb3 → h.goose = false → ∃ t, exec (.holdExpiry dt n src) s = .next t ∧
        (t.entity n).held = [] ∧ (t.entity n).counters = modAt (s1.entity n).counters 6 inc32)) ∧
  (∀ (dt n : Nat) (s : State),
    let s1 := s.advance dt
    let e := s1.entity n
    (e.mode = 0 ∨ e.supMs = 0 ∨ s1.tb3Passed e.supAt (1000 * e.supMs) = false → exec (.supervisionSend dt n) s = .next s1) ∧
    (e.mode ≠ 0 → e.supMs ≠ 0 → s1.tb3Passed e.supAt (1000 * e.supMs) = true → ∃ t, exec (.supervisionSend dt n) s = .next t ∧
      (t.entity n).supAt = s1.tb3 ∧ (t.entity n).tx.get (2 ^ 48) = some ((e.tx.getD (2 ^ 48) 0 + 1) % 65536))) ∧
  (∀ (dt n quanta : Nat) (s : State),
    let s1 := s.advance dt
    (128 ≤ n ∨ s1.portUp n = false → exec (.pauseReceived dt n quanta) s = .next s1) ∧
    (n < 128 → s1.portUp n = true → ∃ t, exec (.pauseReceived dt n quanta) s = .next t ∧ counted s1 t n 9 ∧
      (t.port n).pauseTo = if (s1.port n).rxForce = false then (s1.port n).pauseTo else if quanta = 0 then none
        else some (s1.now + ceilDiv (qNs * quanta * 5120) (rate10 (s1.port n).phy))) ∧
    (∀ t0, (s1.port n).pauseTo = some t0 →
      (t0 ≤ s1.now → exec (.pauseExpiry dt n) s = .next (s1.modPort n (fun q => { q with pauseTo := none }))) ∧
      (s1.now < t0 → exec (.pauseExpiry dt n) s = .next s1)) ∧
    (s1.checkPause = s1 →
      ((s1.port n).pausing = false → exec (.pauseRepeat dt n) s = .next s1) ∧
      ((s1.port n).pausing = true → s1.portUp n = true → ∃ t, exec (.pauseRepeat dt n) s = .next t ∧ counted s1 t n 17 ∧
        t.sw = s1.sw))) ∧
  (∀ (dt n : Nat) (s : State),
    let s1 := s.advance dt
    let q := s1.port n
    n < 128 → s1.portUp n = true →
      (q.preempt = true → exec (.preemptVerify dt n false) s = .next (s1.emit (.mpacket n 0x19))) ∧
      (q.preempt = true → q.verify = .verifying →
        exec (.preemptVerify dt n true) s = .next (s1.setPort n { q with verify := .active })) ∧
      (q.preempt = false → ∀ r, exec (.preemptVerify dt n r) s = .next s1) ∧
      (q.verify = .verifying → s1.tb3Passed q.verifyAt 10000 = true →
        (3 ≤ q.attempts → exec (.preemptVerifyTimeout dt n) s = .next (s1.setPort n { q with verify := .failed })) ∧
        (q.attempts < 3 → exec (.preemptVerifyTimeout dt n) s = .next
          ((s1.setPort n { q with attempts := q.attempts + 1, verifyAt := s1.tb3 }).emit (.mpacket n 0x07)))) ∧
      (q.verify ≠ .verifying → exec (.preemptVerifyTimeout dt n) s = .next s1)) ∧
  (∀ (dt n pause : Nat) (ok receiving remote : Bool) (s : State),
    let s1 := s.advance dt
    let q := s1.port n
    n < 128 →
      (q.st = .down → s1.clocks.refSt ≠ .unreferenced → s1.clocks.quadLock.getD (n / 4) true = true →
        (q.phy = 1 → ok = false → exec (.portLinkUp dt n pause ok) s = .next (s1.setPort n { q with mismatch := true })) ∧
        (q.phy ≠ 1 ∨ ok = true → ∃ t, exec (.portLinkUp dt n pause ok) s = .next t ∧ (t.port n).st = .up ∧
          (t.port n).mismatch = false ∧ (q.phy ≠ 0 → (t.port n).rxForce = q.pauseRx ∧ (t.port n).txForce = q.pauseTx))) ∧
      (q.st ≠ .down → exec (.portLinkUp dt n pause ok) s = .next s1) ∧
      (q.st = .up → q.tx = none → ∃ t, exec (.portLinkDown dt n receiving remote) s = .next t ∧ (t.port n).st = .down ∧
        (t.port n).remote = remote ∧ (∀ x ∈ (t.swp n).queues, x.frames = []) ∧ (t.port n).cut = [] ∧
        (t.port n).counters[22]? = (q.counters[22]?).map (fun k => satAdd 32 k 1)) ∧
      (q.st ≠ .up → exec (.portLinkDown dt n receiving remote) s = .next s1)) ∧
  (∀ (dt m result chan sq : Nat) (data : Bytes) (rest : List (Nat × Nat)) (a : Accepted) (s : State),
    let s1 := s.advance dt
    (s1.i2c.getD m {}).queue = (chan, sq) :: rest →
    s1.cmd.accepted.find? (fun x => x.cmd.chan == chan && x.cmd.seq == sq) = some a →
      exec (.i2cTransferComplete dt m result data) s = .next
        ((({ s1 with i2c := s1.i2c.put m { queue := rest } } : State).emit (.i2c m (i2cBytes a.cmd.params))).setResult chan sq
          (0, 0, le 1 result ++ le 1 (data.take (byteAt a.cmd.params 9)).length ++ zeros 2 ++
            padWord (data.take (byteAt a.cmd.params 9)))))

/-- For every state and every packet that passes its checks, on a function that is enabled and not resetting:
SET_INSTANCE_RESOURCES stores weight, read limit and reset mode; SET_WINDOW removes a window or sets one that overlaps
no other, keeping its status counters; RESET_INSTANCE starts a reset of another ring and replies ACCEPTED. An absent
function is refused with 0x0001, one in a reset with 0x0003, the ring's own with 0x0004, an overlap with 0x0002.
SET_SOURCE stores its settings and clears the Squall history where the route is allowed, else it is refused with
0x0001; UNMASK_SOURCE unmasks and changes nothing of a source that is not masked. The reading commands reply what is
stored, and CLEAR resets their counters. -/
def Obligations.HostAndInterruptCommandsComplete : Prop :=
  let p (c : Cmd) (i : Nat) : Nat := byteAt c.params i
  let vi (c : Cmd) : Nat := p c 0
  let open_ (s : State) (c : Cmd) : Prop := s.viPresent (vi c) = true ∧ (s.hif (vi c)).resetting = false
  let shut (k : Card) (f : Nat → Cmd → Instr) : Prop :=
    k.Refuses f (fun s c => s.viPresent (vi c) = false) 0x0300 (fun _ _ => 1) ∧
    k.Refuses f (fun s c => s.viPresent (vi c) = true ∧ (s.hif (vi c)).resetting = true) 0x0300 (fun _ _ => 3)
  let overlaps (s : State) (c : Cmd) (w : Nat) : Prop :=
    w ≠ p c 1 ∧ (s.window (vi c) w).enabled = true ∧ (s.window (vi c) w).aperture < u64 c.params 8 + 2 ^ p c 4 ∧
      u64 c.params 8 < (s.window (vi c) w).aperture + 2 ^ (s.window (vi c) w).log2
  let n (c : Cmd) : Nat := u16 c.params 0
  let routed (s : State) (c : Cmd) : Prop := routeOk (n c) (p c 2) = true ∧ (p c 2 = 0xFF ∨ s.viPresent (p c 2) = true)
  cardSetInstanceResources.Completes .setInstanceResources open_
    (fun s c => s.setHif (vi c) { s.hif (vi c) with weight := p c 1, maxReads := u16 c.params 2, generMode := p c 4 == 1 })
    (fun _ _ => []) ∧
  shut cardSetInstanceResources .setInstanceResources ∧
  cardGetInstance.Reads .getInstance (fun _ _ => True)
    (fun s c =>
      let h := s.hif (vi c)
      le 1 (if s.viPresent (vi c) = false then 0 else if h.resetting then 4 else if h.ringError then 3 else if h.enable then 2 else 1) ++
      le 1 h.weight ++ le 2 h.maxReads ++ le 1 (boolNat h.generMode) ++ le 1 h.generation ++
      le 1 (bitsNat ((List.range 8).map (fun w => (s.window (vi c) w).enabled))) ++ le 1 (s.tu (vi c)).mode ++ le 4 h.reads.length) ∧
  cardSetWindow.Completes .setWindow (fun s c => open_ s c ∧ p c 2 = 0)
    (fun s c =>
      let x := s.window (vi c) (p c 1)
      s.setWindow (vi c) (p c 1) {
        writeFailed := x.writeFailed, poisonRead := x.poisonRead, lastCause := x.lastCause, writeErrors := x.writeErrors
        poisonReads := x.poisonReads }) (fun _ _ => []) ∧
  cardSetWindow.Completes .setWindow (fun s c => open_ s c ∧ p c 2 = 1 ∧ ∀ w, w < 8 → ¬ overlaps s c w)
    (fun s c => s.setWindow (vi c) (p c 1) { s.window (vi c) (p c 1) with
      enabled := true, write := bit (p c 3) 0, ack := bit (p c 3) 1, dataInv := bit (p c 3) 2, element := bitsOf (p c 3) 3 2
      log2 := p c 4, aperture := u64 c.params 8, internal := u64 c.params 0x10 }) (fun _ _ => []) ∧
  cardSetWindow.Refuses .setWindow (fun s c => open_ s c ∧ p c 2 = 1 ∧ ∃ w, w < 8 ∧ overlaps s c w) 0x0300 (fun _ _ => 2) ∧
  shut cardSetWindow .setWindow ∧
  cardGetWindow.Reads .getWindow (fun _ _ => True)
    (fun s c =>
      let x := s.window (vi c) (p c 1)
      if x.enabled then le 1 1 ++ le 1 (bitsNat [x.write, x.ack, x.dataInv] + 8 * x.element) ++ le 1 x.log2 ++ zeros 3 ++
        le 8 x.aperture ++ le 8 x.internal ++ zeros 2 else zeros 24) ∧
  cardResetInstance.Accepts .resetInstance (fun s c => open_ s c ∧ c.chan ≠ vi c) (fun s c => s.startReset (vi c))
    (fun _ c => .instReset (vi c)) true (fun _ _ => none) ∧
  cardResetInstance.Refuses .resetInstance (fun s c => open_ s c ∧ c.chan = vi c) 0x0300 (fun _ _ => 4) ∧
  shut cardResetInstance .resetInstance ∧
  cardGetHostCounters.Completes .getHostCounters (fun _ _ => True)
    (fun s c => if bit (p c 1) 0 then s.setHif (vi c) { s.hif (vi c) with
        commands := 0, deliveries := 0, ringErrors := 0, resets := 0, timeouts := 0, lateCount := 0, tuFaultCount := 0
        writeIgnored := 0 } else s)
    (fun s c =>
      let h := s.hif (vi c)
      le 4 h.commands ++ le 4 h.deliveries ++ le 4 h.ringErrors ++ le 4 h.resets ++ le 4 h.timeouts ++ le 4 h.lateCount ++
      le 4 h.tuFaultCount ++ le 4 h.writeIgnored) ∧
  cardSetSource.Completes .setSource routed
    (fun s c => s.setSrc (n c) { s.src (n c) with
      hostVi := p c 2, vector := p c 3, prio := p c 4, mode := p c 5, limit := u16 c.params 6, windowUs := u32 c.params 8
      releaseUs := u32 c.params 0xC, maxUs := u32 c.params 0x10, hist := []
      hPending := (s.src (n c)).hPending && p c 2 == (s.src (n c)).hostVi }) (fun _ _ => []) ∧
  cardSetSource.Refuses .setSource (fun s c => ¬ routed s c) 0x0300 (fun _ _ => 1) ∧
  cardGetSource.Completes .getSource (fun _ _ => True)
    (fun s c => if bit (p c 2) 0 then s.setSrc (n c) { s.src (n c) with
        events := 0, messages := 0, suppressed := 0, maskings := 0 } else s)
    (fun s c =>
      let x := s.src (n c)
      le 1 (match x.masked with
        | .squall => 2
        | .stuck => 3
        | .none => if x.zPending || x.hPending then 1 else 0) ++
      le 1 (srcMode (n c) x.mode) ++ le 1 x.hostVi ++ le 1 x.vector ++ le 1 x.prio ++ le 1 x.core ++ le 2 x.limit ++
      le 4 x.windowUs ++ le 4 x.events ++ le 4 x.messages ++ le 4 x.suppressed ++ le 4 x.maskings) ∧
  cardUnmaskSource.Completes .unmaskSource (fun s c => (s.src (n c)).masked ≠ .none)
    (fun s c => s.setSrc (n c) { s.src (n c) with masked := .none, hist := [], activeAt := s.tb3 }) (fun _ _ => []) ∧
  cardUnmaskSource.Completes .unmaskSource (fun s c => (s.src (n c)).masked = .none) (fun s _ => s) (fun _ _ => []) ∧
  cardListMasked.Reads .listMasked (fun _ _ => True)
    (fun s _ => (List.range 32).flatMap (fun w => le 4 (bitsNat ((List.range 32).map (fun b =>
      srcDefined (32 * w + b) && (s.src (32 * w + b)).masked != .none)))))

/-- For every state and every function that is present: a doorbell of an enabled ring moves its tail or head within
the ring, one outside latches RING_ERROR 5; enabling the rings sets their indices to 0 and DLV_PHASE to 1, disabling
discards what is queued; clearing RING_ERROR resumes. A descriptor is read only where the rings run, one waits and
both conditions hold; its read names CMD_HEAD. A completion of a late read, or of another generation, is discarded and
counted; an error completion latches RING_ERROR 4, a bad descriptor 2, a timeout after 50 ms 4. A reset empties the
queue, makes GENERATION one up in GENERATION mode and leaves placement alone; DRAIN squashes after 200 us; it
completes with the registers at their reset values, in DRAIN not while reads are awaited. FLR of the PF, VF Enable,
PERST_N and link loss reset every VF, and PERST_N and link loss VI00 too. -/
def Obligations.HostRingsAndResets : Prop :=
  let life (h : Hif) (f : HostRead → ReadLife) : List HostRead := h.reads.map (fun (r : HostRead) => { r with life := f r })
  let begun (s t : State) (v : Nat) : Prop := (t.hif v).resetting = true ∧ (t.chan v).queue = [] ∧
    (t.hif v).generation = (if (s.hif v).generMode then ((s.hif v).generation + 1) % 256 else (s.hif v).generation) ∧
    (t.hif v).reads = life (s.hif v) (fun r => if r.life = .late ∨ (s.hif v).generMode = true then .late else .silent) ∧
    t.place = s.place ∧ t.ingest = s.ingest ∧ t.cap = s.cap ∧ t.pub = s.pub
  let all (s t : State) : Prop := t.host.numVfs = 0 ∧
    ∀ v, 0 < v → v ≤ 63 → v ≤ s.host.numVfs → (s.hif v).resetting = false → begun s t v
  (∀ (dt vi tail : Nat) (writes : List (Nat × Bytes)) (s : State),
    let s1 := s.advance dt
    let u := { s1 with host.mem := writes.foldl (fun (m : Tab Byte) (w : Nat × Bytes) => memWriteN m w.1 w.2) s1.host.mem }
    let h := s1.hif vi
    let n := 2 ^ h.cmdLog2
    s1.viPresent vi = true → tail < 65536 →
      (h.resetting = true → exec (.hifCmdTail dt vi tail writes) s = .next u) ∧
      (h.resetting = false → h.enable = false → exec (.hifCmdTail dt vi tail writes) s = .next (u.raiseInt vi)) ∧
      (h.resetting = false → h.enable = true →
        (tail < n → ringDist n h.cmdHead h.cmdTail ≤ ringDist n h.cmdHead tail →
          exec (.hifCmdTail dt vi tail writes) s = .next ((u.raiseInt vi).setHif vi { h with cmdTail := tail })) ∧
        (n ≤ tail ∨ ringDist n h.cmdHead tail < ringDist n h.cmdHead h.cmdTail → ∃ t, exec (.hifCmdTail dt vi tail writes) s = .next t ∧
          t.hif vi = { h with ringError := true, errorCode := 5, errorIndex := tail, ringErrors := inc32 h.ringErrors }))) ∧
  (∀ (dt vi head : Nat) (s : State),
    let s1 := s.advance dt
    let h := s1.hif vi
    let n := 2 ^ h.dlvLog2
    s1.viPresent vi = true → head < 65536 →
      (h.resetting = true ∨ h.enable = false → exec (.hifDlvHead dt vi head) s = .next s1) ∧
      (h.resetting = false → h.enable = true →
        (head < n → ringDist n h.dlvHead head ≤ ringDist n h.dlvHead h.dlvTail →
          exec (.hifDlvHead dt vi head) s = .next (s1.setHif vi { h with dlvHead := head })) ∧
        (n ≤ head ∨ ringDist n h.dlvHead h.dlvTail < ringDist n h.dlvHead head → ∃ t, exec (.hifDlvHead dt vi head) s = .next t ∧
          t.hif vi = { h with ringError := true, errorCode := 5, errorIndex := head, ringErrors := inc32 h.ringErrors }))) ∧
  (∀ (dt vi v : Nat) (s : State),
    let s1 := s.advance dt
    let h := s1.hif vi
    let k := { h with generMode := bit v 1, shadowEn := bit v 2 }
    s1.viPresent vi = true →
      (h.resetting = true → exec (.hifControlWrite dt vi v) s = .next s1 ∧ exec (.ringErrorClear dt vi) s = .next s1 ∧
        exec (.hifReset dt vi) s = .next s1) ∧
      (h.resetting = false →
        (bit v 0 = true → h.enable = false → ∃ t, exec (.hifControlWrite dt vi v) s = .next t ∧ t.hif vi = { k with
          enable := true, cmdHead := 0, cmdTail := 0, dlvTail := 0, dlvHead := 0, dlvPhase := true, reserved := 0 } ∧
          (t.chan vi).last = none) ∧
        (bit v 0 = false → h.enable = true → ∃ t, exec (.hifControlWrite dt vi v) s = .next t ∧ (t.hif vi).enable = false ∧
          (t.chan vi).queue = [] ∧ (∀ r ∈ (t.hif vi).reads, r.life ≠ .live)) ∧
        (bit v 0 = h.enable → exec (.hifControlWrite dt vi v) s = .next (s1.setHif vi k)) ∧
        exec (.ringErrorClear dt vi) s = .next (s1.setHif vi { h with ringError := false }) ∧
        (∃ t, exec (.hifReset dt vi) s = .next t ∧ begun s1 t vi))) ∧
  (∀ (dt vi : Nat) (s : State),
    let s1 := s.advance dt
    let h := s1.hif vi
    (h.enable = false ∨ h.ringError = true ∨ h.resetting = true ∨ h.cmdHead = h.cmdTail ∨ (∃ r ∈ h.reads, r.life = .live) ∨
      (s1.chan vi).room true = false → exec (.descriptorTake dt vi) s = .next s1) ∧
    (vi = 0 → s1.boot.phase = .ready → h.enable = true → h.ringError = false → h.resetting = false → h.cmdHead ≠ h.cmdTail →
      h.reads = [] → 0 < h.maxReads → s1.readsOut < 768 → (s1.chan 0).room true = true → (s1.tu 0).mode = 2 → h.cmdBase % 64 = 0 →
      h.reserved + 2 ≤ 2 ^ h.dlvLog2 - 1 - ringDist (2 ^ h.dlvLog2) h.dlvHead h.dlvTail →
        ∃ t r, exec (.descriptorTake dt 0) s = .next t ∧ t.hif 0 = { h with reads := [r] } ∧ r.index = h.cmdHead ∧ r.desc = none ∧
          r.gen = h.generation ∧ r.at_ = s1.tb3 ∧ r.data = memReadN s1.host.mem (h.cmdBase + 32 * h.cmdHead) 32)) ∧
  (∀ (dt vi tag gen : Nat) (err : Bool) (r : HostRead) (s : State),
    let s1 := s.advance dt
    let h := s1.hif vi
    let k := { h with reads := h.reads.filter (fun (x : HostRead) => x.tag != tag) }
    let fail (t : State) (code : Nat) (g : Hif) : Prop :=
      t.hif vi = { g with ringError := true, errorCode := code, errorIndex := r.index, ringErrors := inc32 g.ringErrors }
    (h.reads.find? (fun (x : HostRead) => x.tag == tag) = none → exec (.dmaCompletion dt vi tag gen err) s = .next s1 ∧
      exec (.dmaCompletionTimeout dt vi tag) s = .next s1) ∧
    (h.reads.find? (fun (x : HostRead) => x.tag == tag) = some r →
      (r.life = .late ∨ (r.life = .live ∧ gen ≠ h.generation) → exec (.dmaCompletion dt vi tag gen err) s = .next
        (s1.setHif vi { k with lateDiscards := inc32 h.lateDiscards, lateCount := inc32 h.lateCount })) ∧
      (r.life = .silent → exec (.dmaCompletion dt vi tag gen err) s = .next (s1.setHif vi k)) ∧
      (r.life = .live → gen = h.generation → h.ringError = false → h.enable = true →
        (err = true → ∃ t, exec (.dmaCompletion dt vi tag gen err) s = .next t ∧ fail t 4 k) ∧
        (err = false → ∀ d, r.desc = some d → exec (.dmaCompletion dt vi tag gen err) s = .next
          ((s1.setHif vi k).takePacket vi r.index d r.data)) ∧
        (err = false → r.desc = none → descOk r.data = false → ∃ t, exec (.dmaCompletion dt vi tag gen err) s = .next t ∧
          fail t 2 k)) ∧
      (s1.tb3Passed r.at_ 50000 = false → exec (.dmaCompletionTimeout dt vi tag) s = .next s1) ∧
      (s1.tb3Passed r.at_ 50000 = true → r.life = .live → h.ringError = false → h.enable = true →
        ∃ t, exec (.dmaCompletionTimeout dt vi tag) s = .next t ∧ fail t 4 { k with timeouts := inc32 h.timeouts }))) ∧
  (∀ (dt vi : Nat) (s : State),
    let s1 := s.advance dt
    let h := s1.hif vi
    (h.resetting = true → h.generMode = false → s1.tb3Passed h.resetAt 200 = true →
      exec (.drainTimeout dt vi) s = .next (s1.setHif vi { h with reads := life h (fun _ => .late) })) ∧
    (h.resetting = false ∨ h.generMode = true ∨ s1.tb3Passed h.resetAt 200 = false → exec (.drainTimeout dt vi) s = .next s1) ∧
    (h.resetting = false ∨ (∃ r ∈ h.reads, r.life = .silent) → exec (.instanceResetComplete dt vi) s = .next s1) ∧
    (h.resetting = true → (∀ r ∈ h.reads, r.life ≠ .silent) → ∃ t, exec (.instanceResetComplete dt vi) s = .next t ∧
      (t.hif vi).resetting = false ∧ (t.hif vi).enable = false ∧ (t.hif vi).cmdBase = 0 ∧ (t.hif vi).dlvPhase = true ∧
      (t.hif vi).generation = h.generation ∧ (t.hif vi).generMode = h.generMode ∧ (t.hif vi).lateDiscards = h.lateDiscards ∧
      (t.hif vi).reads = h.reads ∧ (∀ e ∈ t.host.cache, e.vi ≠ vi) ∧ t.host.windows = s1.host.windows ∧ t.host.tus = s1.host.tus ∧
      ∀ a ∈ s1.cmd.accepted, a.wait = .instReset vi → a.result = none → { a with result := some (0, 0, []) } ∈ t.cmd.accepted)) ∧
  (∀ (dt vi : Nat) (s : State),
    let s1 := s.advance dt
    (0 < vi → vi ≤ 63 → vi ≤ s1.host.numVfs → (s1.hif vi).resetting = false → ∃ t, exec (.flr dt vi) s = .next t ∧ begun s1 t vi ∧
      t.host.numVfs = s1.host.numVfs) ∧
    (s1.viPresent vi = false → exec (.flr dt vi) s = .next s1) ∧
    (∃ t, exec (.vfEnableClear dt) s = .next t ∧ all s1 t ∧ t.hif 0 = s1.hif 0) ∧
    (∃ t, exec (.flr dt 0) s = .next t ∧ exec (.perst dt) s = .next t ∧ exec (.pcieLinkDown dt) s = .next t ∧ all s1 t ∧
      ((s1.hif 0).resetting = false → begun s1 t 0)))

/-- For every state: TU_INV marks and its completion removes the cached entries it names; a swap marks SWAP_BUSY, and
its completion makes the other bitmap active. A read or write that no window covers is Unsupported Request; a read
through a window gives the internal bytes its mapping names; a write through a window without WRITE, or to sample
memory, is ignored and counted and changes no byte of memory; a byte written to free user memory of an engine is there
and no other byte of that engine changes. An unaligned BAR0 access has no effect and reads 0, an undefined offset
reads 0 and ignores writes, a read of HDR_ERRORS clears it, a ring register written while enabled latches RING_ERROR
1, and VF Enable takes NumVFs. -/
def Obligations.BridgeTranslationAndRegisters : Prop :=
  (∀ (dt vi : Nat) (b : Bool) (s : State), exec (.tuInv dt vi b) s = .next
    { s.advance dt with host.inv := s.host.inv ++ [(vi % 64, b)] }) ∧
  (∀ (dt : Nat) (s : State), ∃ t, exec (.tuInvComplete dt) s = .next t ∧ t.host.inv = [] ∧ t.host.tus = s.host.tus ∧
    ∀ e, e ∈ t.host.cache ↔ e ∈ s.host.cache ∧ ∀ i ∈ s.host.inv, i.2 = false ∧ i.1 ≠ e.vi) ∧
  (∀ (dt vi : Nat) (s : State),
    let s1 := s.advance dt
    let x := s1.tu vi
    vi < 64 →
      exec (.dirtySwap dt vi) s = .next (s1.setTu vi { x with swapBusy := true }) ∧
      (x.swapBusy = true → exec (.dirtySwapComplete dt vi) s = .next (s1.setTu vi { x with active := !x.active, swapBusy := false })) ∧
      (x.swapBusy = false → exec (.dirtySwapComplete dt vi) s = .next s1)) ∧
  (∀ (dt vi addr len : Nat) (data : Bytes) (fault : Bool) (s : State),
    let s1 := s.advance dt
    let covers (x : Window) (n : Nat) : Prop := x.enabled = true ∧ x.aperture ≤ addr ∧ addr + n ≤ x.aperture + 2 ^ x.log2
    ((s1.hif vi).resetting = true ∨ s1.viPresent vi = false ∨ (∀ w, w < 8 → ¬ covers (s1.window vi w) len) →
      exec (.bridgeRead dt vi addr len) s = .next (s1.emit (.completion vi 1 []))) ∧
    ((s1.hif vi).resetting = true ∨ s1.viPresent vi = false ∨ (∀ w, w < 8 → ¬ covers (s1.window vi w) data.length) →
      exec (.bridgeWrite dt vi addr data fault) s = .next (s1.emit (.unsupported vi)))) ∧
  (∀ (dt vi w addr : Nat) (b : Byte) (s : State),
    let s1 := s.advance dt
    let x := s1.window vi w
    let k := addr - x.aperture
    let el := if x.dataInv then 2 ^ (x.element + 1) else 1
    let a := x.internal + (k / el * el + (el - 1 - k % el))
    (s1.hif vi).resetting = false → s1.viPresent vi = true → s1.windowOf vi addr 1 = some (w, x) →
    s1.anvil.errs = [] → s1.anvil.poison = [] →
      exec (.bridgeRead dt vi addr 1) s = .next (s1.emit (.completion vi 0 [s1.internalByte a])) ∧
      (x.write = false ∨ (0x0100000000 ≤ a ∧ a ≤ 0x0201FFFFFF) → exec (.bridgeWrite dt vi addr [b] false) s = .next
        ((s1.setWindow vi w { x with lastCause := 1, writeErrors := inc32 x.writeErrors }).setHif vi
          { s1.hif vi with writeIgnored := inc32 (s1.hif vi).writeIgnored })) ∧
      (x.write = true → ∀ e o, engOfAddr a = some (e, o) → o < (if e.ls then 0x7800 else 0x26000) → s1.lineHeld e o = false →
        exec (.bridgeWrite dt vi addr [b] false) s = .next (s1.modEng e (fun g => { g with mem := memWrite g.mem o b }))) ∧
      (∃ t, exec (.bridgeWrite dt vi addr [b] true) s = .next t ∧ t.eng = s1.eng ∧ (t.window vi w).writeFailed = true ∧
        (t.window vi w).lastCause = 3 ∧ (t.window vi w).writeErrors = inc32 x.writeErrors)) ∧
  (∀ (dt vi off v : Nat) (s : State),
    let s1 := s.advance dt
    let h := s1.hif vi
    s1.viPresent vi = true →
      exec (.rcRegisterRead dt vi off false) s = .next (s1.emit (.completion vi 0 [0, 0, 0, 0])) ∧
      exec (.registerWrite dt (.bar0 vi off v false)) s = .next s1 ∧
      exec (.rcRegisterRead dt vi 0x1038 true) s = .next
        ((s1.setHif vi { h with hdrErrors := 0 }).emit (.completion vi 0 (le 4 h.hdrErrors))) ∧
      (0x5000 ≤ off → off < 0x8000 → off % 4 = 0 →
        exec (.rcRegisterRead dt vi off true) s = .next (s1.emit (.completion vi 0 [0, 0, 0, 0])) ∧
        exec (.registerWrite dt (.bar0 vi off v true)) s = .next s1) ∧
      (h.resetting = false → h.enable = true → ∀ r ∈ [0x1000, 0x1004, 0x1008, 0x1010, 0x1014, 0x1018, 0x1030, 0x1034],
        ∃ t, exec (.registerWrite dt (.bar0 vi r v true)) s = .next t ∧ t.hif vi = { h with
          ringError := true, errorCode := 1, errorIndex := 0, ringErrors := inc32 h.ringErrors }) ∧
      (h.resetting = false → h.enable = false → v < 2 ^ 32 → exec (.registerWrite dt (.bar0 vi 0x1000 v true)) s = .next
        (s1.setHif vi { h with cmdBase := h.cmdBase / 2 ^ 32 % 2 ^ 32 * 2 ^ 32 + v })) ∧
      (v ≤ 63 → s1.host.numVfs = 0 → exec (.registerWrite dt (.vfEnable v)) s = .next { s1 with host.numVfs := v }))

/-- For every state: the oldest message is taken first; a masked source only counts it in SUPPRESSED; an event beyond
LIMIT within WINDOW masks the source, source 148 being raised; any other event of a routed source sets PENDING, and it
goes to Zenith. The oldest line change is taken first; an edge that is not selected is no event. A masked source
returns after RELEASE; a level source active beyond MAX_ASSERT is masked STUCK, but never source 770. An acknowledging
core with room gets its highest source on its stack. An end-of-interrupt that names the top pops it; any other pops
nothing by itself, is recorded and expires the watchdog. Lifting a vector's mask sends its pending message. A W1C
write clears PENDING of a routed source whose line is not active, and leaves the others. ICU_UNMASK acts on sources
routed to the function alone. -/
def Obligations.InterruptControllerRules : Prop :=
  let us (n : Nat) : Int := ((n * 1000 * 2 ^ 40 : Nat) : Int)
  (∀ (dt n : Nat) (rest : List Nat) (s : State),
    let s1 := s.advance dt
    let x := s1.src n
    let recent := x.hist.filter (fun t => decide (tDiff s1.tb3 t < us x.windowUs) && decide (tDiff s1.tb3 t > 0))
    (s1.icu.inbox = [] → exec (.interruptMessage dt) s = .next s1) ∧
    (s1.icu.inbox = n :: rest →
      (x.masked ≠ .none → ∃ t, exec (.interruptMessage dt) s = .next t ∧ t.icu.inbox = rest ∧ t.src n = { x with
        events := inc32 x.events, lastEvent := s1.tb3, suppressed := inc32 x.suppressed } ∧ t.icu.cores = s1.icu.cores) ∧
      (x.masked = .none → srcLevel n x.mode = false → n ≠ 148 → 0 < x.limit → x.limit ≤ recent.length →
        ∃ t, exec (.interruptMessage dt) s = .next t ∧ t.icu.inbox = rest ++ [148] ∧ t.src n = { x with
          events := inc32 x.events, lastEvent := s1.tb3, suppressed := inc32 x.suppressed, masked := .squall
          maskings := inc32 x.maskings } ∧ t.icu.cores = s1.icu.cores) ∧
      (x.masked = .none → (srcLevel n x.mode = true ∨ n = 148 ∨ x.limit = 0 ∨ recent.length < x.limit) →
        ∃ t, exec (.interruptMessage dt) s = .next t ∧ t.icu.inbox = rest ∧ (t.src n).events = inc32 x.events ∧
          (t.src n).masked = .none ∧ (x.hostVi ≠ 0xFF → (t.src n).hPending = true) ∧
          ((t.src n).zPending = true ∨ ∃ c ∈ t.icu.cores, n ∈ c.delivered)))) ∧
  (∀ (dt n : Nat) (level : Bool) (rest : List (Nat × Bool)) (s : State),
    let s1 := s.advance dt
    let x := s1.src n
    (s1.icu.wired = [] → exec (.wiredLineChange dt) s = .next s1) ∧
    (s1.icu.wired = (n, level) :: rest →
      (srcMode n x.mode = 2 ∧ level = false ∨ srcMode n x.mode = 3 ∧ level = true → exec (.wiredLineChange dt) s = .next
        (({ s1 with icu.wired := rest } : State).setSrc n { x with line := level })) ∧
      (srcMode n x.mode = 4 ∨ srcMode n x.mode = 2 ∧ level = true ∨ srcMode n x.mode = 3 ∧ level = false →
        exec (.wiredLineChange dt) s = .next
          ((({ s1 with icu.wired := rest } : State).setSrc n { x with line := level }).takeEvent n)))) ∧
  (∀ (dt n : Nat) (s : State),
    let s1 := s.advance dt
    let x := s1.src n
    let act := srcLevel n x.mode = true ∧ x.line = (srcMode n x.mode == 0)
    let back := s1.setSrc n { x with masked := .none, hist := [], activeAt := s1.tb3 }
    srcDefined n = true →
      (x.masked = .squall → 0 < x.releaseUs → s1.tb3Passed x.lastEvent x.releaseUs = true →
        exec (.squallRelease dt n) s = .next back) ∧
      (x.masked = .stuck → 0 < x.releaseUs → ¬ act → s1.tb3Passed x.idleAt x.releaseUs = true →
        exec (.squallRelease dt n) s = .next back) ∧
      (x.masked = .none ∨ x.releaseUs = 0 → exec (.squallRelease dt n) s = .next s1) ∧
      (n ≠ 770 → x.masked = .none → act → us x.maxUs < tDiff s1.tb3 x.activeAt → ∃ t, exec (.stuckTimeout dt n) s = .next t ∧
        t.src n = { x with masked := .stuck, maskings := inc32 x.maskings } ∧ t.icu.inbox = s1.icu.inbox ++ [149]) ∧
      (n = 770 ∨ ¬ act → exec (.stuckTimeout dt n) s = .next s1)) ∧
  (∀ (dt i n p src : Nat) (c : Core) (rest : List (Nat × Nat)) (s : State),
    let s1 := s.advance dt
    let put (k : Core) : State := { s1 with icu.cores := setAt s1.icu.cores i k }
    s1.icu.cores[i]? = some c →
      (c.delivered = [] → exec (.interruptAck dt i) s = .next s1) ∧
      (c.delivered = [n] → c.stack.length < 16 → exec (.interruptAck dt i) s = .next
        (put { c with stack := (n, (s1.src n).prio) :: c.stack, delivered := [] })) ∧
      (c.stack = (n, p) :: rest →
        exec (.endOfInterrupt dt i n) s = .next (put { c with stack := rest }).deliverZenith ∧
        (src ≠ n → exec (.endOfInterrupt dt i src) s = .next
          ((s1.post 0x0E03 (le 1 i ++ le 2 n ++ le 2 src)).watchdog i)))) ∧
  (∀ (dt vi v : Nat) (s : State),
    let s1 := s.advance dt
    let f := s1.msix vi
    s1.viPresent vi = true → f.enabled = true → f.fnMask = false → f.vecMask = [v] → f.vecPend = [v] →
      exec (.msixUnmask dt vi (some v)) s = .next ((s1.setMsix vi { f with
        vecMask := [], vecPend := [], messages := inc32 f.messages }).emit (.msix vi v))) ∧
  (∀ (dt vi w b : Nat) (s : State),
    let s1 := s.advance dt
    let n := 32 * w + b
    let x := s1.src n
    s1.viPresent vi = true → w < 32 → b < 32 →
      (x.hostVi = vi → x.hPending = true → x.active n = false →
        exec (.icuPendingClear dt vi w (2 ^ b)) s = .next (s1.setSrc n { x with hPending := false })) ∧
      (x.hostVi ≠ vi ∨ x.active n = true → exec (.icuPendingClear dt vi w (2 ^ b)) s = .next s1) ∧
      (srcDefined n = true → x.hostVi = vi → x.masked ≠ .none → exec (.icuUnmask dt vi n) s = .next
        (s1.setSrc n { x with masked := .none, hist := [], activeAt := s1.tb3 })) ∧
      (x.hostVi ≠ vi → exec (.icuUnmask dt vi n) s = .next s1))

/-- For every state and every packet that passes its checks: WRITE_KEY to a slot whose users the new TYPE and USAGE
still satisfy, with no tamper latched in phase SERVICE, stores the key under a fresh mask with its TAG and the next
VERSION, drops the slot's derived keys, reloads every working copy and replies with the check value and VERSION; it is
refused WRONG_STATE 2, 3 or 4 otherwise, in that order. ERASE_KEY of a slot that is not VALID or has no user zeroes it
(2 or 4 otherwise). VERIFY_KEY with no label replies with the check value of an intact VALID slot, with a label that
of the derived key, and refuses 1, 4 or 6; on an intact-looking slot whose TAG fails it replies INTEGRITY with the
slot number, the slot being UNUSABLE then. ACK_TAMPER clears the latch while TAMPER_N is high and is refused 5 while
it is low. GET_KEY_INFO, LIST_KEYS and GET_HALO_STATUS return their tables; CLEAR resets the counters. The check value
of a derived key takes the TYPE that log entry 33 names. -/
def Obligations.KeyCommandsComplete : Prop :=
  (let slot (c : Cmd) : Nat := byteAt c.params 0
   let key (c : Cmd) : Bytes := slice c.params 8 (u16 c.params 4 / 8)
   let written (s : State) (c : Cmd) : KeySlot :=
      { st := .valid, type := byteAt c.params 1, usage := byteAt c.params 2, owner := byteAt c.params 3,
        version := ((s.slot (slot c)).version + 1) % 256, bits := u16 c.params 4 }
   let fit (s : State) (c : Cmd) : Bool := (s.slotUsers (slot c)).all (fun need =>
      byteAt c.params 1 == need.1 && (byteAt c.params 2 &&& need.2 == need.2))
   let service (s : State) : Prop := s.haloPhase = .service
   cardWriteKey.Completes .writeKey (fun s c => fit s c = true ∧ s.keys.tamperCause = 0 ∧ service s)
      (fun s c => ((s.maskSlot (slot c) { written s c with tag := slotTag (slot c) (written s c) (key c) } (key c)).dropDerived
        (slot c)).reloadUsers (slot c) (key c))
      (fun s c => checkValue (byteAt c.params 1) (key c) ++ le 1 (((s.slot (slot c)).version + 1) % 256)) ∧
   cardWriteKey.Refuses .writeKey (fun s c => fit s c = false) 0x0300 (fun _ _ => 2) ∧
   cardWriteKey.Refuses .writeKey (fun s c => fit s c = true ∧ s.keys.tamperCause ≠ 0) 0x0300 (fun _ _ => 3) ∧
   cardWriteKey.Refuses .writeKey (fun s c => fit s c = true ∧ s.keys.tamperCause = 0 ∧ ¬ service s) 0x0300 (fun _ _ => 4) ∧
   cardEraseKey.Completes .eraseKey
      (fun s c => ((s.slot (slot c)).st ≠ .valid ∨ s.slotUsers (slot c) = []) ∧ service s)
      (fun s c => (s.setSlot (slot c) {}).dropDerived (slot c)) (fun _ _ => []) ∧
   cardEraseKey.Refuses .eraseKey (fun s c => (s.slot (slot c)).st = .valid ∧ s.slotUsers (slot c) ≠ []) 0x0300
      (fun _ _ => 2) ∧
   cardEraseKey.Refuses .eraseKey
      (fun s c => ((s.slot (slot c)).st ≠ .valid ∨ s.slotUsers (slot c) = []) ∧ ¬ service s) 0x0300 (fun _ _ => 4) ∧
   cardGetKeyInfo.Reads .getKeyInfo (fun _ _ => True) (fun s c =>
      let k := s.slot (slot c)
      le 1 k.st.code ++ le 1 (if k.st = .empty then 0 else k.type) ++ le 1 k.usage ++ le 1 k.owner ++
        le 2 (if k.st = .empty then 0 else k.bits) ++ le 1 k.version ++ le 1 (min (s.slotUsers (slot c)).length 255)) ∧
   cardListKeys.Reads .listKeys (fun _ _ => True) (fun s _ => (List.range 256).flatMap (fun n => le 1 (s.slot n).st.code)) ∧
   (let own (c : Cmd) : Prop := byteAt c.params 1 = 0
    let parent (s : State) (c : Cmd) : Prop := (s.slot (slot c)).type = 4 ∧ bit (s.slot (slot c)).usage 4 = true
    let label (c : Cmd) : Bytes := slice c.params 8 (byteAt c.params 1)
    let usable (s : State) (c : Cmd) : Prop := (s.slot (slot c)).st = .valid ∧ service s
    let whole (s : State) (c : Cmd) : Prop := (s.slot (slot c)).tagOk (slot c) = true
    cardVerifyKey.Reads .verifyKey (fun s c => usable s c ∧ own c ∧ whole s c)
      (fun s c => checkValue (s.slot (slot c)).type (s.slot (slot c)).key ++ [0]) ∧
    cardVerifyKey.Completes .verifyKey
      (fun s c => usable s c ∧ ¬ own c ∧ parent s c ∧ whole s c ∧ s.keys.cache = [])
      (fun s c => State.haloCount { s with keys.cache := [{ slot := slot c, label := label c, bits := u16 c.params 2,
                                                             key := kdf (s.slot (slot c)).key (label c) (u16 c.params 2) }] } 2)
      (fun s c => checkValue (if u16 c.params 2 = 128 then 2 else if bit (s.slot (slot c)).usage 2 then 3 else 1)
        (kdf (s.slot (slot c)).key (label c) (u16 c.params 2)) ++ [0]) ∧
    cardVerifyKey.Refuses .verifyKey (fun s c => (s.slot (slot c)).st ≠ .valid) 0x0300 (fun _ _ => 1) ∧
    cardVerifyKey.Refuses .verifyKey (fun s c => (s.slot (slot c)).st = .valid ∧ ¬ service s) 0x0300 (fun _ _ => 4) ∧
    cardVerifyKey.Refuses .verifyKey (fun s c => usable s c ∧ ¬ own c ∧ ¬ parent s c) 0x0300 (fun _ _ => 6) ∧
    (∀ (dt : Nat) (c : Cmd) (s : State),
      let d := cardVerifyKey.cmd c
      cardVerifyKey.passes (s.advance dt) d = true → usable (s.advance dt) d → own d → ¬ whole (s.advance dt) d →
        exec (.verifyKey dt c) s = .next
          (((((s.advance dt).under d).slotUnusable (slot d)).after).reply d 0x0501 (slot d))))) ∧
  cardAckTamper.Completes .ackTamper (fun s _ => s.keys.tamperCause = 0 ∨ s.keys.tamperLow = false)
    (fun s _ => { s with keys.tamperCause := 0 }) (fun _ _ => []) ∧
  cardAckTamper.Refuses .ackTamper (fun s _ => s.keys.tamperCause ≠ 0 ∧ s.keys.tamperLow = true) 0x0300 (fun _ _ => 5) ∧
  cardGetHaloStatus.Completes .getHaloStatus (fun _ _ => True)
    (fun s c => if bit (byteAt c.params 0) 0 then { s with keys.counters := [0, 0, 0, 0] } else s)
    (fun s _ => le 1 s.haloPhase.code ++
      le 1 (if s.keys.tamperCause = 0 then 0 else 1 + 2 * s.keys.tamperCause) ++
      le 2 s.keys.cache.length ++ le 8 s.keys.tamperTb3 ++ s.keys.counters.flatMap (le 4))

/-- For every state: TAMPER_N falling with VAUX present makes every slot that is not EMPTY ZEROISED with word, mask
and TAG 0, empties the derived-key cache, clears every working key of streams, subscriptions, publications and MACsec
links, latches cause 1 with TB3, counts the event, posts record 0x0F02 and (under power) raises source 769. A re-mask
outside SERVICE of an intact VALID slot draws a new mask and keeps the key and every other slot; in SERVICE it does
nothing. A slot whose TAG fails at a background check becomes UNUSABLE, its derived keys are dropped, INTEGRITY_FAILS
counts and record 0x0F01 names it, while every working copy stays. The previous key of a MACsec link is dropped 1 s
after its replacement. While the TAP holds an instruction other than BYPASS and IDCODE a ready module's Halo is in
TEST, and Test-Logic-Reset ends it; instructions that drive the balls are taken only while RESET_N is low.
FATAL_CONTAINMENT is RECOVERY. -/
def Obligations.HaloEventsFollowTheirRules : Prop :=
  (∀ (dt : Nat) (s : State), s.power.vaux = true → s.keys.tamperLow = false →
    let s1 := s.advance dt
    ∃ t, exec (.tamper dt true) s = .next t ∧ t.keys.tamperLow = true ∧ t.keys.tamperCause = 1 ∧
      t.keys.tamperTb3 = visNs s1.horizon.tb3 ∧ t.keys.cache = [] ∧
      (∀ n, (s.slot n).st = .empty → t.slot n = s.slot n) ∧
      (∀ n, (s.slot n).st ≠ .empty →
        t.slot n = { s.slot n with st := .zeroised, word := 0, mask := 0, tag := 0 }) ∧
      (∀ p ∈ t.keys.macsec, p.2.cur = none ∧ p.2.prev = none) ∧ (∀ p ∈ t.ingest.streams, p.2.key = none) ∧
      (∀ p ∈ t.pub.subs, p.2.key = none) ∧ (∀ p ∈ t.pub.pubs, p.2.key = none) ∧
      t.keys.counters = modAt s.keys.counters 1 inc32 ∧ t.life 0x008 = min (s.life 0x008 + 1) (2 ^ 64 - 1) ∧
      (s.recorder.queue.length < 1024 → ∃ e ∈ t.recorder.queue, e.code = 0x0F02 ∧ e.data = [1]) ∧
      (s.power.supply ≠ .off → t.icu.lines.getD 769 false = true) ∧
      t.filter = s.filter ∧ t.prog = s.prog ∧ t.host = s.host ∧ t.serial = s.serial ∧ t.cmd = s.cmd) ∧
  (∀ (dt : Nat) (s : State), s.power.vaux = true →
    exec (.tamper dt false) s = .next (State.tamperLine { s.advance dt with keys.tamperLow := false })) ∧
  (∀ (dt n : Nat) (s : State), s.haloPhase ≠ .service → s.power.supply ≠ .off → (s.slot n).st = .valid →
    (s.slot n).tagOk n = true →
    ∃ t, exec (.remask dt n) s = .next t ∧ (t.slot n).key = (s.slot n).key ∧
      (t.slot n).mask = leNat ((List.range 64).map (fun i => Config.randomByte (s.free + i))) ∧ t.free = s.free + 64 ∧
      (t.slot n) = { s.slot n with word := (t.slot n).word, mask := (t.slot n).mask } ∧
      (∀ m, m ≠ n → t.slot m = s.slot m) ∧ t.keys.macsec = s.keys.macsec ∧ t.keys.cache = s.keys.cache) ∧
  (∀ (dt n : Nat) (s : State), s.haloPhase = .service → exec (.remask dt n) s = .next (s.advance dt)) ∧
  (∀ (dt n flip : Nat) (s : State), (s.slot n).st = .valid →
    let k : KeySlot := { s.slot n with word := ((s.slot n).word ^^^ flip) % 2 ^ 512 }
    (k.tagOk n = true → exec (.tagCheck dt n flip) s = .next ((s.advance dt).setSlot n k)) ∧
    (k.tagOk n = false → ∃ t, exec (.tagCheck dt n flip) s = .next t ∧ t.slot n = { k with st := .unusable } ∧
      (∀ m, m ≠ n → t.slot m = s.slot m) ∧ t.keys.cache = s.keys.cache.filter (fun e => e.slot != n) ∧
      t.keys.counters = modAt s.keys.counters 0 inc32 ∧
      (s.recorder.queue.length < 1024 → ∃ e ∈ t.recorder.queue, e.code = 0x0F01 ∧ e.data = le 2 n) ∧
      t.keys.macsec = s.keys.macsec ∧ t.ingest = s.ingest ∧ t.pub = s.pub ∧ t.filter = s.filter ∧ t.prog = s.prog)) ∧
  (∀ (dt n flip : Nat) (s : State), (s.slot n).st ≠ .valid → exec (.tagCheck dt n flip) s = .next (s.advance dt)) ∧
  (∀ (dt link : Nat) (k : MacKey) (s : State), s.keys.macsec.get link = some k →
    (k.prev.isSome = true → (s.advance dt).tb3Passed k.prevAt 1000000 = true → exec (.oldKeyExpiry dt link) s = .next
      { s.advance dt with keys.macsec := s.keys.macsec.put link { k with prev := none } }) ∧
    ((s.advance dt).tb3Passed k.prevAt 1000000 = false → exec (.oldKeyExpiry dt link) s = .next (s.advance dt))) ∧
  (∀ (dt : Nat) (s : State), s.anvil.hub ≠ .fatal → s.boot.phase = .ready →
    (∃ t, exec (.tapInstruction dt 2) s = .next t ∧ t.tap.instr = .samplePreload ∧ t.haloPhase = .test) ∧
    (∃ t, exec (.tapReset dt) s = .next t ∧ t.tap.instr = .idcode ∧ t.haloPhase = .service)) ∧
  (∀ (dt i : Nat) (s : State), 3 ≤ i → i ≤ 8 →
    ∃ t, exec (.tapInstruction dt i) s = .next t ∧ (t.tap.instr = .bypass ↔ s.boot.resetPin = true)) ∧
  (∀ s : State, s.anvil.hub = .fatal → s.haloPhase = .recovery)

/-- For every state and every packet that passes its checks: GET_RECORDER_STATUS, READ_COUNTERS, GET_CHIPLET_IDENTITY
and READ_HISTOGRAM reply OK with the fields of their cards and change nothing; READ_RECORDS copies up to COUNT records
from the later of FIRST_SEQ and OLDEST on and counts those whose CRC is wrong; GET_CLEAR_NONCE issues a new nonce of
16 random bytes, valid for 60 000 ms; CLEAR_RECORDER with a live nonce, a usable HMAC key of clear usage and the right
token clears the log down to the one record CLEARED and consumes the nonce, and with no nonce or one 60 s old is
refused AUTH_REQUIRED with CLEAR_REFUSED recorded; POST_RECORD with room in the queue queues its record and leaves its
reply until the commit. That READ_RECORDS copies in one step is the model's (log entry 60). -/
def Obligations.RecorderCommandsComplete : Prop :=
  cardGetRecorderStatus.Reads .getRecorderStatus (fun _ _ => True) (fun s _ =>
    le 6 s.recorder.oldest ++ zeros 2 ++ le 6 s.recorder.next ++ zeros 2 ++ le 4 245760 ++ le 4 s.recorder.queue.length ++
      le 4 s.recorder.lostUp ++ le 4 s.recorder.badReads ++ le 6 s.recorder.lastClear ++ zeros 2) ∧
  (let recs (s : State) (c : Cmd) : List Record :=
      let first := u64 c.params 0 % 2 ^ 48
      let start := if sdiff 48 first s.recorder.oldest > 0 then first else s.recorder.oldest
      let n := if sdiff 48 s.recorder.next start > 0 then min (byteAt c.params 8) (s.recorder.next - start) else 0
      (List.range n).map (fun i => s.recorder.log.getD (start + i) { body := zeros 60, crc := 0 })
    let bad (r : Record) : Bool := decide (r.crc ≠ crc32c r.body)
    cardReadRecords.Completes .readRecords (fun _ _ => True)
      (fun s c => { s with recorder.badReads := min (s.recorder.badReads + ((recs s c).filter bad).length) (2 ^ 32 - 1) })
      (fun s c => le 6 s.recorder.oldest ++ zeros 2 ++ le 6 s.recorder.oldest ++ zeros 2 ++ le 6 s.recorder.next ++ zeros 2 ++
        le 1 (recs s c).length ++ zeros 3 ++ le 8 (bitsNat ((recs s c).map bad)) ++
        (recs s c).flatMap (fun r => r.body ++ le 4 r.crc))) ∧
  cardReadCounters.Reads .readCounters (fun _ _ => True) (fun s c =>
    le 1 (byteAt c.params 2) ++ zeros 3 ++ (List.range (byteAt c.params 2)).flatMap (fun i =>
      let x := s.recorder.cells.getD (u16 c.params 0 + i) {}
      le 8 x.value ++ le 4 x.seq ++ le 4 (boolNat x.recovered + 2 * boolNat x.lost + 4 * boolNat x.curB))) ∧
  cardReadHistogram.Reads .readHistogram (fun _ _ => True) (fun s c =>
    let id := byteAt c.params 0
    let bins := if id ≤ 6 then 16 else if id ≤ 10 then 8 else 0
    le 1 bins ++ [if id = 0 then 0 else 1] ++ zeros 2 ++ (List.range bins).flatMap (fun b => le 8 (s.life (0x400 + 16 * id + b)))) ∧
  cardGetChipletIdentity.Reads .getChipletIdentity (fun _ _ => True) (fun _ c =>
    let n := byteAt c.params 0
    let image := (List.finRange 28).map (Config.fuse n)
    le 1 n ++ [if crc32c image = (Config.fuseCrc n).toNat then 0 else 1] ++ image.drop 2 ++ le 4 (Config.fuseCrc n).toNat) ∧
  cardGetClearNonce.Completes .getClearNonce (fun _ _ => True)
    (fun s _ => { s with free := s.free + 16,
                         recorder.nonce := some ((List.range 16).map (fun i => Config.randomByte (s.free + i)), s.tb3) })
    (fun s _ => (List.range 16).map (fun i => Config.randomByte (s.free + i)) ++ le 4 60000) ∧
  (∀ (n key : Bytes) (at_ : Nat),
    cardClearRecorder.Completes .clearRecorder
      (fun s c => s.recorder.nonce = some (n, at_) ∧ s.tb3Passed at_ 60000000 = false ∧
        (s.slot (byteAt c.params 0)).st = .valid ∧ (s.slot (byteAt c.params 0)).fits needClear = true ∧
        State.useSlot { s with origin := c.inst, recorder.nonce := none } (byteAt c.params 0) = .ok key ∧
        slice c.params 4 32 = hmac key (clearLabel ++ n ++ le 8 Config.serial.toNat))
      (fun s c => State.clearLog { s with recorder.nonce := none } (byteAt c.params 0)) (fun s _ => le 8 s.recorder.next)) ∧
  (∀ (dt : Nat) (c : Cmd) (s : State),
    let s1 := s.advance dt
    let d := cardClearRecorder.cmd c
    cardClearRecorder.passes s1 d = true →
    (s.recorder.nonce = none ∨ ∃ x, s.recorder.nonce = some x ∧ s1.tb3Passed x.2 60000000 = true) →
      exec (.clearRecorder dt c) s = .next
        ((State.post { (s1.under d) with recorder.nonce := none } 0x1002 (le 2 0x0500 ++ le 2 0)).after.reply d 0x0500 0)) ∧
  cardPostRecord.Defers .postRecord (fun s _ => s.recorder.queue.length < 1024)
    (fun s c => { s with recorder.queue := s.recorder.queue ++
      [{ s.mkEvent (u16 c.params 0) (slice c.params 4 24) 5 with asked := some (c.chan, c.seq) }] })
    (fun _ _ => .record)

/-- For every state with VAUX present, no event lost since the last commit and an event at the head of the queue that
no POST_RECORD waits for: RECORD_COMMIT removes that event, NEXT and the count of records grow by one, and the record
under the old NEXT holds SEQUENCE, CODE, OPERATING_SECONDS, POWER_CYCLES, FLAGS, TB0, ORIGIN, chiplet, TB3 and DATA of
the event and the CRC-32C of its first 60 bytes. When the ring holds CAPACITY = 245 760 records, OLDEST advances by
one and the record it named leaves; otherwise OLDEST stays. Every other record is unchanged. Nothing but Contrail
changes. On a module whose ring is new, OLDEST and NEXT both read 1. For every state: NONCE_EXPIRY drops a nonce that
is 60 s old or older and leaves a younger one; OPERATING_SECOND with VIN present stores the voltages and temperatures
measured, adds one to OPERATING_SECONDS and to one bin of each of the six temperature and the four core-voltage
histograms, and nothing else; without VIN it does nothing, as does NONCE_EXPIRY without a nonce. -/
def Obligations.RecorderEventsFollowTheirRules : Prop :=
  (
  (State.reset.recorder.oldest = 1 ∧ State.reset.recorder.next = 1) ∧
  ∀ (dt : Nat) (s : State) (e : Event) (rest : List Event),
    let r := s.recorder
    s.power.vaux = true → r.queue = e :: rest → r.lost = 0 → e.asked = none → r.oldest ≤ r.next →
      ∃ t, exec (.recordCommit dt) s = .next t ∧ t = { s.advance dt with recorder := t.recorder } ∧
        t.recorder.queue = rest ∧ t.recorder.next = r.next + 1 ∧ t.life 0x002 = min (s.life 0x002 + 1) (2 ^ 64 - 1) ∧
        (∃ x, t.recorder.log.get r.next = some x ∧ x.crc = crc32c x.body ∧
          x.body = le 6 r.next ++ le 2 e.code ++ le 4 (s.life 0x000) ++ le 3 (s.life 0x001) ++
            le 1 (boolNat e.tb0Valid + 2 * boolNat e.tb0Hold + 4 * boolNat e.injected +
              8 * boolNat (s.power.supply == .off)) ++
            le 8 (e.tb0 / 65536) ++ le 2 e.tb0 ++ le 1 e.origin ++ le 1 e.chiplet ++ le 8 e.tb3Ns ++ padTo 24 e.data) ∧
        t.recorder.oldest = (if 245760 ≤ r.next - r.oldest then r.oldest + 1 else r.oldest) ∧
        (∀ n, n ≠ r.next → (n ≠ r.oldest ∨ r.next - r.oldest < 245760) → r.log.get n = t.recorder.log.get n)) ∧
  (
  (∀ (dt : Nat) (s : State) (n : Bytes) (at_ : Nat), s.recorder.nonce = some (n, at_) →
    ((s.advance dt).tb3Passed at_ 60000000 = true →
      exec (.nonceExpiry dt) s = .next { s.advance dt with recorder.nonce := none }) ∧
    ((s.advance dt).tb3Passed at_ 60000000 = false → exec (.nonceExpiry dt) s = .next (s.advance dt))) ∧
  (∀ (dt : Nat) (s : State), s.recorder.nonce = none → exec (.nonceExpiry dt) s = .next (s.advance dt)) ∧
  (∀ (dt vin vaux : Nat) (temps : List Int) (s : State), s.power.supply ≠ .off →
    let bin (t : Int) : Nat := (max 0 (min 15 ((t + 40) / 10))).toNat
    let ids := [0x000] ++ (List.range 6).map (fun i => 0x400 + 16 * (1 + i) + bin (temps.getD i 25)) ++
      (List.range 4).map (fun i => 0x400 + 16 * (7 + i) + min 7 ((s.power.coreMv.getD i 750 - 550) / 50))
    exec (.operatingSecond dt vin vaux temps) s = .next
      (ids.foldl State.bump
        { s.advance dt with power := { s.power with vinMv := vin, vauxMv := vaux, temps := temps } })) ∧
  (∀ (dt vin vaux : Nat) (temps : List Int) (s : State), s.power.supply = .off →
    exec (.operatingSecond dt vin vaux temps) s = .next (s.advance dt)))

/-- For every state and every event: with fewer than 1 024 events queued, posting appends it and changes nothing else;
with 1 024 or more it is discarded, and only the lost-event counts (the one recorded next, the one since power-up and
the lifetime counter) grow by one. A commit of the head of the queue while events are lost then queues one EVENTS_LOST
record that carries their number, and the count starts again from 0. -/
def Obligations.EventQueueHolds1024 : Prop :=
  (∀ (s : State) (e : Event),
    (s.recorder.queue.length < 1024 → s.postEvent e = { s with recorder.queue := s.recorder.queue ++ [e] }) ∧
    (1024 ≤ s.recorder.queue.length →
      s.postEvent e = { s with recorder := { (s.postEvent e).recorder with queue := s.recorder.queue } } ∧
      (s.postEvent e).recorder.lost = s.recorder.lost + 1 ∧
      (s.postEvent e).recorder.lostUp = min (s.recorder.lostUp + 1) (2 ^ 32 - 1) ∧
      (s.postEvent e).life 0x003 = min (s.life 0x003 + 1) (2 ^ 64 - 1) ∧
      (s.postEvent e).recorder.log = s.recorder.log)) ∧
  (∀ (dt : Nat) (s : State) (e : Event) (rest : List Event),
    s.power.vaux = true → s.recorder.queue = e :: rest → rest.length < 1024 → e.asked = none → 0 < s.recorder.lost →
      ∃ t, exec (.recordCommit dt) s = .next t ∧ t.recorder.lost = 0 ∧
        t.recorder.queue = rest ++ [(s.advance dt).mkEvent 0x0108 (le 4 s.recorder.lost) 5])

/-- For every state and every packet that passes its checks: SET_UART gives the UART its settings at once when no
character is in transmission and the command did not come by UART0 for itself, and otherwise leaves them waiting;
UART_WRITE on an enabled UART with room appends all its bytes; UART_READ takes the oldest bytes, at most MAX;
GET_UART_STATUS returns the buffered counts and the six counters, which CLEAR resets; SET_BINARY_INPUT with ENABLE 0
disables the input and releases its signal, and with ENABLE 1 on a signal that nothing else drives takes the settings,
a newly enabled input starting NORMAL; SET_BINARY_OUTPUT stores the output's settings; GET_BINARY_IO returns the five
masks. UART_WRITE to a disabled UART is refused WRONG_STATE 1 and without room NO_RESOURCE 1. -/
def Obligations.SerialCommandsComplete : Prop :=
  (let setting (s : State) (c : Cmd) : Bool × Nat × Nat × Nat :=
      (if byteAt c.params 0 = 0 then (s.uart 0).enable else byteAt c.params 1 == 1, byteAt c.params 2, byteAt c.params 3,
        byteAt c.params 4)
    let waits (s : State) (c : Cmd) : Prop :=
      (s.uart (byteAt c.params 0)).sending.isSome = true ∨ (byteAt c.params 0 = 0 ∧ c.chan = 64)
    cardSetUart.Completes .setUart waits
      (fun s c => s.modUart (byteAt c.params 0) (fun u => { u with next := some (setting s c) })) (fun _ _ => []) ∧
    cardSetUart.Completes .setUart (fun s c => ¬ waits s c)
      (fun s c => (s.modUart (byteAt c.params 0) (fun u => { u with next := some (setting s c) })).modUart (byteAt c.params 0)
        (fun u => u.apply.feed)) (fun _ _ => [])) ∧
  cardUartWrite.Completes .uartWrite
    (fun s c => (s.uart (byteAt c.params 0)).enable = true ∧
      (s.uart (byteAt c.params 0)).tx.length + (slice c.params 4 (u16 c.params 2)).length ≤ 4096)
    (fun s c => s.modUart (byteAt c.params 0) (fun u => { u with tx := u.tx ++ slice c.params 4 (u16 c.params 2) }.feed))
    (fun _ _ => []) ∧
  cardUartWrite.Refuses .uartWrite (fun s c => (s.uart (byteAt c.params 0)).enable = false) 0x0300 (fun _ _ => 1) ∧
  cardUartWrite.Refuses .uartWrite (fun s c => (s.uart (byteAt c.params 0)).enable = true ∧
      4096 < (s.uart (byteAt c.params 0)).tx.length + (slice c.params 4 (u16 c.params 2)).length) 0x0400 (fun _ _ => 1) ∧
  cardUartRead.Completes .uartRead (fun _ _ => True)
    (fun s c => s.modUart (byteAt c.params 0) (fun u =>
      { u with rx := u.rx.drop (min (u16 c.params 2) (s.uart (byteAt c.params 0)).rx.length) }))
    (fun s c => le 2 (min (u16 c.params 2) (s.uart (byteAt c.params 0)).rx.length) ++ zeros 2 ++
      (s.uart (byteAt c.params 0)).rx.take (u16 c.params 2)) ∧
  cardGetUartStatus.Completes .getUartStatus (fun _ _ => True)
    (fun s c => if bit (byteAt c.params 1) 0 then
        s.modUart (byteAt c.params 0) (fun u => { u with counters := u.counters.map (fun _ => 0) }) else s)
    (fun s c => le 2 (s.uart (byteAt c.params 0)).rx.length ++ le 2 (s.uart (byteAt c.params 0)).tx.length ++
      (s.uart (byteAt c.params 0)).counters.flatMap (le 4)) ∧
  (let settings (c : Cmd) (x : BinIn) : BinIn := { x with
      invert := bit (byteAt c.params 1) 1, signal := u16 c.params 2, debounce := u16 c.params 4, count := byteAt c.params 6,
      windowMs := u16 c.params 8, release := u16 c.params 10, stuckMs := u32 c.params 12 }
    let src (c : Cmd) : SigSrc := .binaryIn (byteAt c.params 0)
    cardSetBinaryInput.Completes .setBinaryInput (fun _ c => bit (byteAt c.params 1) 0 = false)
      (fun s c => (s.releaseSignals (· == src c)).setBin (byteAt c.params 0) (settings c {})) (fun _ _ => []) ∧
    cardSetBinaryInput.Completes .setBinaryInput
      (fun s c => bit (byteAt c.params 1) 0 = true ∧ s.drivenByOther (u16 c.params 2) (src c) = false ∧
        (s.serial.ins.getD (byteAt c.params 0) {}).st = .disabled)
      (fun s c => ((s.releaseSignals (· == src c)).bindSignal (u16 c.params 2) (src c)).setBin (byteAt c.params 0)
        (settings c { st := .normal, first := true })) (fun _ _ => []) ∧
    cardSetBinaryInput.Completes .setBinaryInput
      (fun s c => bit (byteAt c.params 1) 0 = true ∧ s.drivenByOther (u16 c.params 2) (src c) = false ∧
        (s.serial.ins.getD (byteAt c.params 0) {}).st ≠ .disabled ∧
        (s.serial.ins.getD (byteAt c.params 0) {}).signal = u16 c.params 2)
      (fun s c => s.setBin (byteAt c.params 0) (settings c (s.serial.ins.getD (byteAt c.params 0) {}))) (fun _ _ => []) ∧
    cardSetBinaryInput.Refuses .setBinaryInput
      (fun s c => bit (byteAt c.params 1) 0 = true ∧ s.drivenByOther (u16 c.params 2) (src c) = true) 0x0300 (fun _ _ => 6)) ∧
  (let out (c : Cmd) : BinOut := { enable := bit (byteAt c.params 1) 0, safe := bit (byteAt c.params 1) 1,
                                   onInvalid := bit (byteAt c.params 1) 2, signal := u16 c.params 2 }
   cardSetBinaryOutput.Completes .setBinaryOutput (fun _ _ => True)
      (fun s c => { s with serial.outs := s.serial.outs.put (byteAt c.params 0) (out c) }) (fun _ _ => [])) ∧
  cardGetBinaryIo.Reads .getBinaryIo (fun _ _ => True) (fun s _ =>
    let mask (f : Nat → Bool) : Bytes := le 4 (bitsNat ((List.range 32).map f))
    mask (fun n => (s.serial.ins.getD n {}).value) ++ mask (fun n => (s.serial.ins.getD n {}).st == .chatter) ++
      mask (fun n => (s.serial.ins.getD n {}).st == .stuck) ++ mask (fun n => (s.binBall n).1 == some true) ++
      mask (fun n => (s.binBall n).2))

/-- For every running module: a character of 10 bits on an enabled UART1, UART2 or UART3 with 8 data bits, no parity
and 1 stop bit, whose start bit is 0 and stop bit 1 by majority, adds its byte to the receive buffer while that holds
fewer than 4 096 bytes, counts one character, and counts in NOISE each bit that is not unanimous; with a stop bit of 0
it is dropped and counted in FRAMING; a start bit of 1 only counts in NOISE. A break on an enabled UART1 to UART3
counts once. A byte on UART0 other than 0x7E and 0x7D inside an open frame joins the frame. The end of a transmission
sends the byte, applies settings that wait and takes the next byte. For every state and every input that is not taking
its first value: in NORMAL, a level that differs from VALUE and has stood for DEBOUNCE_US + 1 us is accepted when
fewer than CHATTER_COUNT changes were accepted within CHATTER_WINDOW, and otherwise freezes VALUE in CHATTER with a
BIN_CHATTER record; a shorter one, or the level of VALUE, changes nothing; in STUCK an accepted change returns to
NORMAL with a BIN_STUCK record. In CHATTER, RELEASE_MS without a change returns to NORMAL with VALUE the present
level, the history empty and a BIN_RELEASED record. In NORMAL, VALUE 1 for STUCK_MS (not 0) leads to STUCK with its
record. Each gives the signal and the interrupt line the new VALUE, VALID only in NORMAL. -/
def Obligations.SerialEventsFollowTheirRules : Prop :=
  (
  (∀ (dt n : Nat) (smp : List Nat) (s : State),
    let u := s.uart n
    let x (i : Nat) : Nat := smp.getD i 7
    let noise := ((List.range 10).filter (fun i => x i % 8 ≠ 0 ∧ x i % 8 ≠ 7)).length
    let counted (add : List Nat) : List Nat := List.zipWith (fun a b => min (a + b) (2 ^ 32 - 1)) u.counters add
    s.running = true → n < 4 → s.serial.uarts.length = 4 → u.counters.length = 6 → u.enable = true → u.format = 0 →
    (∀ k ∈ u.counters, k < 2 ^ 32) →
      (majority (x 0) = true → ∃ t, exec (.uartCharacter dt n smp) s = .next t ∧
        t = { s.advance dt with serial := t.serial } ∧ t.uart n = { u with counters := counted [1, 0, 0, 0, 0, 0] }) ∧
      (majority (x 0) = false → majority (x 9) = false → ∃ t, exec (.uartCharacter dt n smp) s = .next t ∧
        t = { s.advance dt with serial := t.serial } ∧ t.uart n = { u with counters := counted [noise, 1, 0, 0, 0, 0] }) ∧
      (majority (x 0) = false → majority (x 9) = true → 1 ≤ n → u.rx.length < 4096 →
        ∃ t, exec (.uartCharacter dt n smp) s = .next t ∧ t = { s.advance dt with serial := t.serial } ∧
          t.uart n = { u with rx := u.rx ++ [BitVec.ofNat 8 (bitsNat ((List.range 8).map (fun i => majority (x (1 + i)))))],
                              counters := counted [noise, 0, 0, 0, 0, 1] } ∧
          (∀ m, m ≠ n → t.uart m = s.uart m))) ∧
  (∀ (dt : Nat) (smp : List Nat) (s : State),
    let u := s.uart 0
    let x (i : Nat) : Nat := smp.getD i 7
    let v : Byte := BitVec.ofNat 8 (bitsNat ((List.range 8).map (fun i => majority (x (1 + i)))))
    s.running = true → u.enable = true → u.format = 0 → majority (x 0) = false → majority (x 9) = true →
    s.serial.frame.open_ = true → s.serial.frame.esc = false → v ≠ 0x7E#8 → v ≠ 0x7D#8 →
      ∃ t, exec (.uartCharacter dt 0 smp) s = .next t ∧ t.serial.frame = { s.serial.frame with bytes := s.serial.frame.bytes ++ [v] } ∧
        t = { s.advance dt with serial := t.serial }) ∧
  (∀ (dt n : Nat) (s : State), s.running = true → (s.uart n).enable = true → 1 ≤ n →
    exec (.uartBreak dt n) s = .next ((s.advance dt).modUart n (fun u =>
      { u with counters := modAt u.counters 3 (fun k => min (k + 1) (2 ^ 32 - 1)) }))) ∧
  (∀ (dt n v : Nat) (s : State), (s.uart n).sending = some v →
    exec (.uartTxComplete dt n) s = .next
      ({ s.advance dt with sent := s.sent ++ [Sent.uart n v] }.modUart n (fun u => { u with sending := none }.apply.feed)))) ∧
  (
  (∀ (dt n : Nat) (level : Bool) (held : Nat) (s : State) (x : BinIn),
    let s1 := s.advance dt
    let raw := level != x.invert
    let recent := x.changes.filter (fun t => decide (tDiff s1.tb3 t ≤ x.windowMs * 1000000 * 2 ^ 40))
    s.serial.ins.get n = some x → x.first = false →
      (x.st = .normal → raw ≠ x.value → held ≥ x.debounce + 1 → recent.length < x.count →
        exec (.binChangeAccepted dt n level held) s = .next
          (s1.setBin n { x with value := raw, oneAt := s1.tb3, changes := recent ++ [s1.tb3] })) ∧
      (x.st = .normal → raw ≠ x.value → held ≥ x.debounce + 1 → x.count ≤ recent.length →
        exec (.binChangeAccepted dt n level held) s = .next
          ((s1.setBin n { x with st := .chatter, changes := recent }).post 0x1101 (le 1 n ++ le 1 (boolNat x.value)))) ∧
      (raw = x.value ∨ held < x.debounce + 1 → exec (.binChangeAccepted dt n level held) s = .next s1) ∧
      (x.st = .stuck → raw ≠ x.value → held ≥ x.debounce + 1 →
        exec (.binChangeAccepted dt n level held) s = .next
          ((s1.setBin n { x with st := .normal, value := raw, oneAt := s1.tb3, changes := recent ++ [s1.tb3] }).post 0x1103
            (le 1 n ++ le 1 0))) ∧
      (x.st = .chatter → held ≥ x.release * 1000 →
        exec (.chatterRelease dt n level held) s = .next
          ((s1.setBin n { x with st := .normal, value := raw, oneAt := if raw = x.value then x.oneAt else s1.tb3, changes := [] }).post
            0x1102 (le 1 n ++ le 1 (boolNat raw)))) ∧
      (x.st ≠ .chatter ∨ held < x.release * 1000 → exec (.chatterRelease dt n level held) s = .next s1)) ∧
  (∀ (dt n : Nat) (s : State) (x : BinIn), s.serial.ins.get n = some x → x.st = .normal → 0 < x.stuckMs → x.value = true →
    (s.advance dt).tb3Passed x.oneAt (x.stuckMs * 1000) = true →
      exec (.binStuckTimeout dt n) s = .next
        (((s.advance dt).setBin n { x with st := .stuck }).post 0x1103 (le 1 n ++ le 1 1))) ∧
  (∀ (s : State) (n : Nat) (x : BinIn), x.st ≠ .disabled →
    s.setBin n x = (State.setLine { s with serial.ins := s.serial.ins.put n x } (800 + n) x.value).setSignal x.signal
      (s.now + 2000 * qNs) (boolNat x.value) (if x.st = .normal then sbValid else 0)))

/-- For every state out of reset with VIN present, with no event queued and no firmware container half written: the
fall of RESET_N keeps the Halo slots, the TAMPER latch with its instant, the log with OLDEST, NEXT and LAST_CLEAR,
every lifetime counter, bin and retained record in both copies, both firmware images, both copies of the boot record,
the archive and TB3. Declarations and placement, streams, chains, images, publications, recorders, Anvil, Stratus, PTP
and protection time, clock sources, channels, switch, ports, UARTs, binary lines, interrupts, rings and windows return
to their reset values, and the module is held. (The levels at its own balls and the host's memory are outside the
module.) -/
def Obligations.ModuleResetKeepsOnly : Prop :=
  ∀ (dt : Nat) (b : BootScan) (s : State),
    s.boot.resetPin = true → s.power.supply ≠ .off → s.recorder.queue = [] → s.recorder.lost = 0 →
    s.boot.slotA.writing = false → s.boot.slotB.writing = false →
      ∃ t, exec (.resetN dt false b) s = .next t ∧
        (t.keys.slots = s.keys.slots ∧ t.keys.tamperCause = s.keys.tamperCause ∧ t.keys.tamperTb3 = s.keys.tamperTb3) ∧
        (t.recorder.log = s.recorder.log ∧ t.recorder.oldest = s.recorder.oldest ∧ t.recorder.next = s.recorder.next ∧
          t.recorder.lastClear = s.recorder.lastClear ∧ t.recorder.cells = s.recorder.cells ∧ t.recorder.nonce = none) ∧
        (t.prog.retained = s.prog.retained ∧ t.prog.retPrev = s.prog.retPrev ∧ t.cap.archive = s.cap.archive) ∧
        (t.boot.slotA = s.boot.slotA ∧ t.boot.slotB = s.boot.slotB ∧ t.boot.record = s.boot.record ∧
          t.boot.recPrev = s.boot.recPrev ∧ t.boot.phase = .held ∧ t.boot.resetPin = false) ∧
        t.horizon = { State.reset.horizon with tb3 := (s.advance dt).horizon.tb3 } ∧
        t.cmd = State.reset.cmd ∧ t.place = State.reset.place ∧ t.ingest = State.reset.ingest ∧ t.filter = State.reset.filter ∧
        t.prog = { State.reset.prog with retained := s.prog.retained, retPrev := s.prog.retPrev } ∧ t.pub = State.reset.pub ∧
        t.cap = { State.reset.cap with archive := s.cap.archive } ∧ t.anvil = State.reset.anvil ∧
        t.stratus = State.reset.stratus ∧ t.clocks = State.reset.clocks ∧ t.serial = State.reset.serial ∧
        t.icu = State.reset.icu ∧ t.sw = State.reset.sw ∧ t.ports = State.reset.ports ∧ t.i2c = State.reset.i2c ∧
        t.host = { State.reset.host with mem := s.host.mem } ∧
        t.pair = { State.reset.pair with pairOk := s.pair.pairOk, okSince := s.pair.okSince }

/-- For every state held in reset whose RESET_N rises, with VIN and VAUX present, and both copies of the boot record
whole: x is NEXT, or the other image when TRIAL and TRIAL_STARTED are both 1 (then NEXT is that one, both flags are
cleared and REVERTED is set); with TRIAL alone TRIAL_STARTED becomes 1. If x is VALID and authenticates, it runs and
the module boots. Otherwise x is INVALID, NEXT is the other image with both flags cleared, FALLBACK is set, and the
other image runs if it is VALID and authenticates; if it is not, it is INVALID too and the module enters RECOVERY.
After the first power-up of a new module the record holds NEXT 0 with both flags clear. -/
def Obligations.BootChoosesImage : Prop :=
  (State.reset.boot.record = { next := false, trial := false, started := false }) ∧
  ∀ (dt : Nat) (b : BootScan) (s : State),
    s.boot.resetPin = false → s.power.supply ≠ .off → s.power.vaux = true → b.record % 4 = 0 →
      let r := s.boot.record
      let valid (x : Bool) : Bool := (s.boot.slot x).valid && !(if x then b.badB else b.badA)
      let reverts := r.trial && r.started
      let x := if reverts then !r.next else r.next
      ∃ t, exec (.resetN dt true b) s = .next t ∧ t.boot.resetPin = true ∧ t.boot.reverted = reverts ∧
        (valid x = true → t.boot.phase = .booting ∧ t.boot.running = x ∧ t.boot.fallback = false ∧
          t.boot.record = (if reverts then { next := x, trial := false, started := false }
            else if r.trial then { r with started := true } else r)) ∧
        (valid x = false → t.boot.fallback = true ∧ t.boot.record = { next := !x, trial := false, started := false } ∧
          (t.boot.slot x).valid = false) ∧
        (valid x = false → valid (!x) = true → t.boot.phase = .booting ∧ t.boot.running = !x) ∧
        (valid x = false → valid (!x) = false → t.boot.phase = .recovery ∧ t.boot.recovery = true ∧
          (t.boot.slot (!x)).valid = false)

/-- For every state: POWER_UP with VIN of at least 2 700 mV and VAUX of at least 2 500 mV on an unpowered module leads
to RUNNING, counts a power cycle and starts the boot of cause 1; COMMAND_READY on a booting module without a fatal
finding opens it (phase ready) with its POWER_UP record ahead of the boot's others; RESET_N that rises leads to the
boot of cause 2 (4 from FATAL_CONTAINMENT), MODULE_RESET_BEGIN 1 ms after the reply to that of cause 3 (or 4). VIN
below VIN_WARN leads from RUNNING to WARNING, counts it and raises source 768; VIN back at VIN_WARN + 100 mV leads to
RUNNING again; VIN below 2 300 mV leads to OFF with queued events lost, counted as unwarned only from RUNNING. VAUX
lost with VIN present zeroises every slot with cause 2; without VIN it shows at the next power-up; VAUX restored
starts TB3 at 0. Events whose conditions do not hold change nothing. -/
def Obligations.SupplyAndResetEventsComplete : Prop :=
  (∀ (dt vin vaux : Nat) (b : BootScan) (s : State), s.power.supply = .off → 2700 ≤ vin → 2500 ≤ vaux →
    ∃ t, exec (.powerUp dt vin vaux b) s = .next t ∧ t.power.supply = .running ∧ t.power.vaux = true ∧ t.power.vinMv = vin ∧
      t.power.vauxMv = vaux ∧ t.boot.cause = 1 ∧ t.life 0x001 = min (s.life 0x001 + 1) (2 ^ 64 - 1) ∧
      (s.boot.resetPin = false → t.boot.phase = .held) ∧
      (s.boot.resetPin = true → t.boot.phase = .booting ∨ t.boot.phase = .recovery)) ∧
  (∀ (dt vin vaux : Nat) (b : BootScan) (s : State), s.power.supply ≠ .off ∨ vin < 2700 ∨ vaux < 2500 →
    exec (.powerUp dt vin vaux b) s = .next (s.advance dt)) ∧
  (∀ (dt : Nat) (f : BootFindings) (s : State), s.boot.phase = .booting → f.fatal = 0 → s.recorder.queue.length < 1024 →
    ∃ t e, exec (.commandReady dt f) s = .next t ∧ t.boot.phase = .ready ∧ t.boot.vauxSeen = false ∧
      t.recorder.queue[s.recorder.queue.length]? = some e ∧ e.code = 0x0101 ∧
      e.data = le 1 s.boot.cause ++ [if s.boot.running then 1 else 0] ++ [Config.romVersion] ++
        [if s.boot.vauxSeen then 1 else 0]) ∧
  (∀ (dt : Nat) (f : BootFindings) (s : State), s.boot.phase ≠ .booting → exec (.commandReady dt f) s = .next (s.advance dt)) ∧
  (∀ (dt : Nat) (b : BootScan) (s : State), s.boot.resetPin = false → s.power.supply ≠ .off → s.power.vaux = true →
    ∃ t, exec (.resetN dt true b) s = .next t ∧ t.boot.cause = (if s.boot.cause = 4 then 4 else 2) ∧
      (t.boot.phase = .booting ∨ t.boot.phase = .recovery)) ∧
  (∀ (dt at_ : Nat) (force : Bool) (b : BootScan) (s : State), s.cmd.resetDue = some (at_, force) →
    (s.advance dt).tb3Passed at_ 1000 = true → s.power.supply ≠ .off → s.power.vaux = true → s.boot.resetPin = true →
      ∃ t, exec (.moduleResetBegin dt b) s = .next t ∧ t.boot.cause = (if s.anvil.hub = .fatal then 4 else 3) ∧
        t.cmd = State.reset.cmd ∧ t.place = State.reset.place ∧ (t.boot.phase = .booting ∨ t.boot.phase = .recovery)) ∧
  (∀ (dt vin : Nat) (s : State), s.power.supply = .running → vin < s.power.vinWarn →
    ∃ t, exec (.vinWarning dt vin) s = .next t ∧ t.power.supply = .warning ∧ t.power.vinMv = vin ∧
      t.power.warnings = min (s.power.warnings + 1) (2 ^ 32 - 1) ∧ t.icu.lines.getD 768 false = true ∧
      t.life 0x006 = min (s.life 0x006 + 1) (2 ^ 64 - 1)) ∧
  (∀ (dt vin : Nat) (s : State), s.power.supply = .warning →
    (s.power.vinWarn + 100 ≤ vin → exec (.vinRecovered dt vin) s = .next
      ((State.setLine { s.advance dt with power := { s.power with supply := .running, vinMv := vin } } 768 false).post 0x0107
        (le 2 vin))) ∧
    (vin < s.power.vinWarn + 100 → exec (.vinRecovered dt vin) s = .next (s.advance dt))) ∧
  (∀ (dt vin : Nat) (s : State), s.power.supply ≠ .off → vin < 2300 →
    ∃ t, exec (.vinLoss dt vin) s = .next t ∧ t.power.supply = .off ∧ t.boot.phase = .off ∧ t.recorder.queue = [] ∧
      t.recorder.log = s.recorder.log ∧ t.tap.instr = .idcode ∧
      t.life 0x007 = (if s.power.supply = .running then min (s.life 0x007 + 1) (2 ^ 64 - 1) else s.life 0x007)) ∧
  (∀ (dt : Nat) (s : State), s.power.vaux = true →
    (s.power.supply = .off → exec (.vauxLoss dt) s = .next { s.advance dt with power.vaux := false, boot.vauxSeen := true }) ∧
    (s.power.supply ≠ .off → exec (.vauxLoss dt) s = .next
      ((State.tamperLine { s.advance dt with power.vaux := false }).zeroise 2))) ∧
  (∀ (dt : Nat) (s : State), s.power.vaux = false →
    exec (.vauxLoss dt) s = .next (s.advance dt) ∧
    exec (.vauxRestored dt) s = .next (State.tamperLine { s.advance dt with power.vaux := true, horizon.tb3 := 0 })) ∧
  (∀ (dt : Nat) (s : State), s.power.vaux = true → exec (.vauxRestored dt) s = .next (s.advance dt))

/-- For every state in which every memory (of the engines, the samples, the captures and the host) is in canonical
form, at most 1 024 events wait for Contrail, at most 1 024 derived keys are cached and each belongs to a VALID slot,
and every EMPTY or ZEROISED key slot holds no key word, mask or TAG: whatever command or event stands at the front of
the queue, the state after the step is such a state again, and its queue is the rest of the queue before: no step
adds, drops or reorders a waiting command. (The canonical form of memories is the model's own, log 4; the queue of
waiting commands is the model's.) -/
def Obligations.StepKeepsTheInvariant : Prop :=
  ∀ s t : State, s.Kept → step s = .next t → t.Kept ∧ t.pending = s.pending.tail

/-- State.reset has canonical memories, an empty event queue, an empty derived-key cache and only EMPTY key slots
without any key bit, and no command waits in it. -/
def Obligations.ResetHoldsTheInvariant : Prop :=
  State.reset.Kept ∧ State.reset.pending = []
end

