-- ==== Sys2Proof/Laws/Card.lean ====
section
/-! SUPPORT. What a card's row answers, once: from the outcome of the card's own part to the next state. -/
namespace Sys2Proof.Machine

/-- A card whose checks pass runs its own part. -/
theorem Card.exec_of_passes {k : Card} {s : State} {c : Cmd} (h : k.passes s c = true) : k.exec s c = k.finish s c := by
  simp only [Card.passes, Bool.and_eq_true, beq_iff_eq] at h
  obtain ⟨⟨⟨⟨-, hp⟩, hc⟩, hg⟩, hh⟩ := h
  simp [Card.exec, hp, hc, hg, hh]

/-- The step of a card's row whose checks pass. -/
theorem runCard_of_passes {k : Card} {dt : Nat} {c : Cmd} {s : State} (h : k.passes (s.advance dt) (k.cmd c) = true) :
    runCard k dt c s = .next (k.finish (s.advance dt) (k.cmd c)) := by
  have hz : (s.advance dt).zenithUp = true := by
    simp only [Card.passes, Bool.and_eq_true] at h; exact h.1.1.1.1
  have := Card.exec_of_passes h
  simp only [Card.cmd] at this
  simp [runCard, hz, this, Card.cmd]

/-- A row completes when its card's own part answers OK. No precondition looks at ORIGIN. -/
theorem Card.completes_of {k : Card} {f : Nat → Cmd → Instr} {pre : State → Cmd → Prop} {eff : State → Cmd → State}
    {data : State → Cmd → Bytes} (hx : ∀ dt c s, Sys2Proof.Machine.exec (f dt c) s = runCard k dt c s)
    (hp : ∀ s c, pre s c → pre (s.under c) c) (hr : ∀ s c, pre s c → k.run s c = .ok (eff s c) (data s c)) :
    k.Completes f pre eff data := by
  intro dt c s h h2
  have := hr _ _ (hp _ _ h2)
  simp only [State.under] at this
  rw [hx, runCard_of_passes h]
  simp [Card.finish, this, Card.told, State.after, State.under]

/-- A row that changes nothing completes when its card's own part answers OK with the state it was given. -/
theorem Card.reads_of {k : Card} {f : Nat → Cmd → Instr} {pre : State → Cmd → Prop} {data : State → Cmd → Bytes}
    (hx : ∀ dt c s, Sys2Proof.Machine.exec (f dt c) s = runCard k dt c s) (hc : k.changes = false)
    (hp : ∀ s c, pre s c → pre (s.under c) c ∧ data (s.under c) c = data s c)
    (hr : ∀ s c, pre s c → k.run s c = .ok s (data s c)) : k.Reads f pre data := by
  intro dt c s h h2
  have := hr _ _ (hp _ _ h2).1
  rw [(hp _ _ h2).2] at this
  simp only [State.under] at this
  rw [hx, runCard_of_passes h]
  simp [Card.finish, this, State.after, hc]

/-- A row is accepted when its card's own part says so. -/
theorem Card.accepts_of {k : Card} {f : Nat → Cmd → Instr} {pre : State → Cmd → Prop} {eff : State → Cmd → State}
    {wait : State → Cmd → Wait} {committed : Bool} {result : State → Cmd → Option (Nat × Nat × Bytes)}
    (hx : ∀ dt c s, Sys2Proof.Machine.exec (f dt c) s = runCard k dt c s) (hp : ∀ s c, pre s c → pre (s.under c) c)
    (hr : ∀ s c, pre s c → k.run s c = .accepted (eff s c) (wait s c) committed (result s c)) :
    k.Accepts f pre eff wait committed result := by
  intro dt c s h h2 hn
  have := hr _ _ (hp _ _ h2)
  simp only [State.under] at this
  have hn' : ¬ (s.advance dt).pendingOn (k.cmd c).chan ≥ 32 := by simpa [Card.cmd] using hn
  rw [hx, runCard_of_passes h]
  simp only [Card.finish, this, State.after, State.under, if_neg hn']
  rfl

/-- A row's reply is deferred when its card's own part says so. -/
theorem Card.defers_of {k : Card} {f : Nat → Cmd → Instr} {pre : State → Cmd → Prop} {eff : State → Cmd → State}
    {wait : State → Cmd → Wait} (hx : ∀ dt c s, Sys2Proof.Machine.exec (f dt c) s = runCard k dt c s)
    (hp : ∀ s c, pre s c → pre (s.under c) c) (hr : ∀ s c, pre s c → k.run s c = .later (eff s c) (wait s c)) :
    k.Defers f pre eff wait := by
  intro dt c s h h2
  have := hr _ _ (hp _ _ h2)
  simp only [State.under] at this
  rw [hx, runCard_of_passes h]
  simp [Card.finish, this, State.after, State.under]

/-- A row is refused when its card's own part says so. -/
theorem Card.refuses_of {k : Card} {f : Nat → Cmd → Instr} {pre : State → Cmd → Prop} {status : Nat} {detail : State → Cmd → Nat}
    (hx : ∀ dt c s, Sys2Proof.Machine.exec (f dt c) s = runCard k dt c s)
    (hp : ∀ s c, pre s c → pre (s.under c) c ∧ detail (s.under c) c = detail s c)
    (hr : ∀ s c, pre s c → k.run s c = .err status (detail s c) []) : k.Refuses f pre status detail := by
  intro dt c s h h2
  have := hr _ _ (hp _ _ h2).1
  rw [(hp _ _ h2).2] at this
  simp only [State.under] at this
  rw [hx, runCard_of_passes h]
  simp [Card.finish, this]

end Sys2Proof.Machine
end

