-- ==== Sys2Proof/Laws/Engine.lean ====
section
/-! SUPPORT. What reading an engine's memory and fetching a word can do, once no line read is marked. -/
namespace Sys2Proof.Machine

/-- A read that meets no line in error and no POISONED line changes nothing (11 R295). -/
theorem State.readRange_clean {s : State} {a n : Nat} (h : s.markedLines a n = []) : s.readRange a n = (false, s) := by
  simp [State.readRange, h]

/-- A fetch inside CODE, aligned and from clean lines, gives the word there and changes nothing (06 R177). -/
theorem State.fetch_clean {s : State} {e : Eng} {x : Exec} {n a : Nat} (p : x.physical .fetch x.pc n = some a)
    (al : x.pc % n = 0) (h : s.markedLines (e.base + a) n = []) :
    s.fetch e x n = (.ok (leNat (memReadN (s.eng e).mem a n)), s) := by
  simp [State.fetch, p, al, State.readRange_clean h]

/-- `State.Ready`, decided. -/
def State.readyB (s : State) (e : Eng) (n word w : Nat) (x : Exec) : Bool :=
  (s.eng e).phase == .running && (s.eng e).exec == some x && x.pc % n == 0 && (if e.ls then lsLegal word else peLegal word) &&
    decide (x.ic + w ≤ x.wcic) && s.anvil.uncorrAt.isEmpty &&
    (match x.physical .fetch x.pc n with
     | some a => (s.markedLines (e.base + a) n).isEmpty && leNat (memReadN (s.eng e).mem a n) == word
     | none => false)

theorem State.ready_of {s : State} {e : Eng} {n word w : Nat} {x : Exec} (h : s.readyB e n word w x = true) :
    s.Ready e n word w x := by
  simp only [State.readyB, Bool.and_eq_true, beq_iff_eq, decide_eq_true_eq, List.isEmpty_iff] at h
  obtain ⟨⟨⟨⟨⟨⟨h1, h2⟩, h3⟩, h4⟩, h5⟩, h6⟩, h7⟩ := h
  split at h7
  · next a p =>
    simp only [Bool.and_eq_true, beq_iff_eq, List.isEmpty_iff] at h7
    exact ⟨h1, h2, by rw [State.fetch_clean p h3 h7.1, h7.2], h4, h5, h6⟩
  · exact Bool.noConfusion h7

end Sys2Proof.Machine
end

