-- ==== Sys2Proof/Laws/Tab.lean ====
section
/-! SUPPORT. Tables: a value put under a key is read back, every other key keeps its value, and the keys stay strictly
rising; the byte memories keep their canonical form. -/
namespace Sys2Proof.Machine

theorem Tab.get_put_self {α : Type} (t : Tab α) (k : Nat) (v : α) : Tab.get (t.put k v) k = some v := by
  induction t with
  | nil => simp [Tab.put, Tab.get]
  | cons e t ih =>
    obtain ⟨k', w⟩ := e
    simp only [Tab.put]
    split
    · simp [Tab.get]
    · split
      · simp [Tab.get]
      · rename_i h1 h2
        simp [Tab.get, Ne.symm h2, ih]

theorem Tab.get_put_other {α : Type} (t : Tab α) {k n : Nat} (v : α) (h : n ≠ k) : Tab.get (t.put k v) n = Tab.get t n := by
  induction t with
  | nil => simp [Tab.put, Tab.get, Ne.symm h]
  | cons e t ih =>
    obtain ⟨k', w⟩ := e
    simp only [Tab.put]
    split
    · simp [Tab.get, Ne.symm h]
    · split
      · rename_i h2; subst h2; simp [Tab.get, Ne.symm h]
      · simp [Tab.get, ih]

theorem Tab.getD_put_self {α : Type} (t : Tab α) (k : Nat) (v d : α) : Tab.getD (t.put k v) k d = v := by
  simp [Tab.getD, Tab.get_put_self]

theorem Tab.getD_put_other {α : Type} (t : Tab α) {k n : Nat} (v d : α) (h : n ≠ k) :
    Tab.getD (t.put k v) n d = Tab.getD t n d := by
  simp [Tab.getD, Tab.get_put_other t v h]

theorem Tab.mem_put {α : Type} {t : Tab α} {k : Nat} {v : α} {e : Nat × α} (h : e ∈ t.put k v) : e = (k, v) ∨ e ∈ t := by
  induction t with
  | nil => simpa [Tab.put] using h
  | cons f t ih =>
    obtain ⟨a, w⟩ := f
    simp only [Tab.put] at h
    split at h
    · simpa using h
    · split at h
      · simp only [List.mem_cons] at h ⊢
        rcases h with h | h
        · exact .inl h
        · exact .inr (.inr h)
      · simp only [List.mem_cons] at h ⊢
        rcases h with h | h
        · exact .inr (.inl h)
        · rcases ih h with h | h
          · exact .inl h
          · exact .inr (.inr h)

theorem Tab.pairwise_put {α : Type} {t : Tab α} {k : Nat} {v : α} (h : t.Pairwise (fun a b => a.1 < b.1)) :
    (t.put k v).Pairwise (fun a b => a.1 < b.1) := by
  induction t with
  | nil => simp [Tab.put]
  | cons f t ih =>
    obtain ⟨a, w⟩ := f
    have ⟨h1, h2⟩ := List.pairwise_cons.mp h
    simp only [Tab.put]
    split
    · rename_i hk
      refine List.Pairwise.cons (fun x hx => ?_) h
      rcases List.mem_cons.mp hx with rfl | hx
      · exact hk
      · exact Nat.lt_trans hk (h1 x hx)
    · split
      · rename_i hk; subst hk
        exact List.Pairwise.cons (fun x hx => h1 x hx) h2
      · refine List.Pairwise.cons (fun x hx => ?_) (ih h2)
        rcases Tab.mem_put hx with rfl | hx
        · dsimp only; omega
        · exact h1 x hx

theorem Tab.del_sublist {α : Type} (t : Tab α) (k : Nat) : (t.del k).Sublist t := by
  induction t with
  | nil => exact List.Sublist.refl _
  | cons f t ih =>
    obtain ⟨a, w⟩ := f
    simp only [Tab.del]
    split
    · exact List.sublist_cons_self _ _
    · exact ih.cons_cons _

theorem Tab.get_mem {α : Type} {t : Tab α} {k : Nat} {v : α} (h : Tab.get t k = some v) : (k, v) ∈ t := by
  induction t with
  | nil => cases h
  | cons f t ih =>
    obtain ⟨a, w⟩ := f
    simp only [Tab.get] at h
    split at h
    · rename_i e; subst e; cases h; exact List.mem_cons_self ..
    · exact List.mem_cons_of_mem _ (ih h)

theorem Tab.get_mapV {α : Type} (l : Tab α) (f : Nat → α → α) (n : Nat) : Tab.get (l.mapV f) n = (Tab.get l n).map (f n) := by
  induction l with
  | nil => rfl
  | cons e l ih =>
    obtain ⟨k, v⟩ := e
    simp only [Tab.mapV, List.map_cons, Tab.get]
    split
    · rename_i h; subst h; rfl
    · exact ih

theorem Tab.getD_mapV {α : Type} (l : Tab α) (f : Nat → α → α) (n : Nat) (d d' : α) (h : f n d = d') :
    Tab.getD (l.mapV f) n d' = f n (Tab.getD l n d) := by
  simp only [Tab.getD, Tab.get_mapV]
  cases Tab.get l n <;> simp [h]

end Sys2Proof.Machine
end

