-- ==== Sys2Proof/Laws/Memory.lean ====
section
/-! SUPPORT. Every memory operation keeps the canonical form of a memory. -/
namespace Sys2Proof.Machine
open Sys2Proof

theorem Memory.wf_iff (m : Tab Byte) : Memory.wf m = true ↔ m.Pairwise (fun a b => a.1 < b.1) ∧ ∀ e ∈ m, e.2 ≠ 0 := by
  induction m with
  | nil => simp [Memory.wf]
  | cons e m ih =>
    obtain ⟨a, v⟩ := e
    cases m with
    | nil => simp [Memory.wf]
    | cons f m =>
      obtain ⟨b, w⟩ := f
      simp only [Memory.wf, Bool.and_eq_true, bne_iff_ne, ne_eq, decide_eq_true_eq, ih]
      constructor
      · rintro ⟨⟨h1, h2⟩, h3, h4⟩
        refine ⟨List.Pairwise.cons (fun x hx => ?_) h3, fun x hx => ?_⟩
        · rcases List.mem_cons.mp hx with rfl | hx
          · exact h2
          · exact Nat.lt_trans h2 ((List.pairwise_cons.mp h3).1 x hx)
        · rcases List.mem_cons.mp hx with rfl | hx
          · exact h1
          · exact h4 x hx
      · rintro ⟨h3, h4⟩
        exact ⟨⟨h4 _ (List.mem_cons_self ..), (List.pairwise_cons.mp h3).1 _ (List.mem_cons_self ..)⟩,
          (List.pairwise_cons.mp h3).2, fun x hx => h4 x (List.mem_cons_of_mem _ hx)⟩

theorem cellsOf_wf (a : Nat) (p : List Byte) : (cellsOf a p).Pairwise (fun a b => a.1 < b.1) ∧
    ∀ e ∈ cellsOf a p, e.2 ≠ 0 ∧ a ≤ e.1 ∧ e.1 < a + p.length := by
  induction p generalizing a with
  | nil => simp [cellsOf]
  | cons b p ih =>
    have ⟨h1, h2⟩ := ih (a + 1)
    simp only [cellsOf]
    split
    · refine ⟨h1, fun e he => ?_⟩
      obtain ⟨a1, a2, a3⟩ := h2 e he
      simp only [List.length_cons]
      exact ⟨a1, by omega, by omega⟩
    · rename_i hb
      refine ⟨List.Pairwise.cons (fun x hx => ?_) h1, fun e he => ?_⟩
      · have := h2 x hx
        dsimp only
        omega
      · rcases List.mem_cons.mp he with rfl | he
        · exact ⟨hb, by simp only [List.length_cons]; omega⟩
        · obtain ⟨a1, a2, a3⟩ := h2 e he
          simp only [List.length_cons]
          exact ⟨a1, by omega, by omega⟩

theorem memWriteN_wf {m : Tab Byte} {a : Nat} {p : List Byte} (h : Memory.wf m = true) : Memory.wf
    (memWriteN m a p) = true := by
  rw [Memory.wf_iff] at h ⊢
  have ⟨c1, c2⟩ := cellsOf_wf a p
  refine ⟨?_, fun e he => ?_⟩
  · refine List.pairwise_append.mpr ⟨h.1.filter _, List.pairwise_append.mpr ⟨c1, h.1.filter _, fun x hx y hy => ?_⟩, fun x hx y hy => ?_⟩
    · have := c2 x hx
      have := (List.mem_filter.mp hy).2
      simp only [decide_eq_true_eq] at this
      omega
    · have hx := (List.mem_filter.mp hx).2
      simp only [decide_eq_true_eq] at hx
      rcases List.mem_append.mp hy with hy | hy
      · have := c2 y hy; omega
      · have := (List.mem_filter.mp hy).2
        simp only [decide_eq_true_eq] at this
        omega
  · simp only [memWriteN, List.mem_append] at he
    rcases he with he | he | he
    · exact h.2 e (List.mem_filter.mp he).1
    · exact (c2 e he).1
    · exact h.2 e (List.mem_filter.mp he).1

theorem memClear_wf {m : Tab Byte} {a n : Nat} (h : Memory.wf m = true) : Memory.wf (memClear m a n) = true := by
  rw [Memory.wf_iff] at h ⊢
  exact ⟨h.1.filter _, fun e he => h.2 e (List.mem_filter.mp he).1⟩

theorem memWrite_wf {m : Tab Byte} {a : Nat} {v : Byte} (h : Memory.wf m = true) : Memory.wf (memWrite m a v) = true
    := by
  rw [Memory.wf_iff] at h ⊢
  simp only [memWrite]
  split
  · exact ⟨h.1.sublist (Tab.del_sublist m a), fun e he => h.2 e ((Tab.del_sublist m a).subset he)⟩
  · rename_i hv
    refine ⟨Tab.pairwise_put h.1, fun e he => ?_⟩
    rcases Tab.mem_put he with rfl | he
    · exact hv
    · exact h.2 e he

end Sys2Proof.Machine
end

