-- ==== Sys2Proof/Laws/Kept.lean ====
section
/-! SUPPORT. The invariant `State.Kept` beside the pending queue, in the form in which every operation keeps it. -/
namespace Sys2Proof.Machine
open Sys2Proof

/-- The memories of 11 R285, the ring store, the capture store and the host are in their canonical form. -/
def MemsKept (pes lss : Tab Engine) (sm st hm : Tab Byte) : Prop :=
  (∀ x ∈ pes, Memory.wf x.2.mem = true) ∧ (∀ x ∈ lss, Memory.wf x.2.mem = true) ∧
  Memory.wf sm = true ∧ Memory.wf st = true ∧ Memory.wf hm = true

/-- `Kept` over the parts of the state that it reads, with the queue that is pending. -/
def KeptParts (P p : List Instr) (pes lss : Tab Engine) (sm st hm : Tab Byte) (q : List Event) (sl : Tab KeySlot) (c
    : List CacheKey) : Prop :=
  (p = P ∧ MemsKept pes lss sm st hm) ∧ q.length ≤ 1024 ∧ c.length ≤ 1024 ∧
  (∀ n, (sl.getD n {}).st = .empty ∨ (sl.getD n {}).st = .zeroised →
    (sl.getD n {}).word = 0 ∧ (sl.getD n {}).mask = 0 ∧ (sl.getD n {}).tag = 0) ∧
  ∀ e ∈ c, (sl.getD e.slot {}).st = .valid

/-- The pending queue is `P` and the invariant `State.Kept` holds, said over the parts so that an update of another field changes nothing. -/
abbrev Keeps (P : List Instr) (s : State) : Prop :=
  KeptParts P s.pending s.place.pes s.place.lss s.place.samples s.cap.store s.host.mem s.recorder.queue s.keys.slots s.keys.cache

theorem Keeps.eng {P s e} (h : Keeps P s) : Memory.wf (State.eng s e).mem = true := by
  have hg : ∀ (t : Tab Engine) (k : Nat) (d : Engine), (∀ x ∈ t, Memory.wf x.2.mem = true) → Memory.wf d.mem = true →
      Memory.wf (t.getD k d).mem = true := by
    intro t k d ht hd
    simp only [Tab.getD]
    cases hx : Tab.get t k with
    | none => exact hd
    | some g => exact ht _ (Tab.get_mem hx)
  rw [State.eng]
  split
  · exact hg _ _ _ h.1.2.2.1 rfl
  · exact hg _ _ _ h.1.2.1 rfl

theorem KeptParts.samples {P p a b c d e q l m} {c' : Tab Byte} (hc : Memory.wf c' = true) (h
    : KeptParts P p a b c d e q l m) :
    KeptParts P p a b c' d e q l m := ⟨⟨h.1.1, h.1.2.1, h.1.2.2.1, hc, h.1.2.2.2.2⟩, h.2⟩

theorem KeptParts.store {P p a b c d e q l m} {d' : Tab Byte} (hc : Memory.wf d' = true) (h
    : KeptParts P p a b c d e q l m) :
    KeptParts P p a b c d' e q l m := ⟨⟨h.1.1, h.1.2.1, h.1.2.2.1, h.1.2.2.2.1, hc, h.1.2.2.2.2.2⟩, h.2⟩

theorem KeptParts.host {P p a b c d e q l m} {e' : Tab Byte} (hc : Memory.wf e' = true) (h
    : KeptParts P p a b c d e q l m) :
    KeptParts P p a b c d e' q l m := ⟨⟨h.1.1, h.1.2.1, h.1.2.2.1, h.1.2.2.2.1, h.1.2.2.2.2.1, hc⟩, h.2⟩

theorem KeptParts.engines {P p a b c d e q l m} {f : Nat → Engine → Engine} (hf
    : ∀ n g, Memory.wf g.mem = true → Memory.wf (f n g).mem = true)
    (h : KeptParts P p a b c d e q l m) : KeptParts P p (Tab.mapV a f) (Tab.mapV b f) c d e q l m := by
  refine ⟨⟨h.1.1, fun x hx => ?_, fun x hx => ?_, h.1.2.2.2⟩, h.2⟩
  · obtain ⟨y, hy, rfl⟩ := List.mem_map.mp hx; exact hf _ _ (h.1.2.1 y hy)
  · obtain ⟨y, hy, rfl⟩ := List.mem_map.mp hx; exact hf _ _ (h.1.2.2.1 y hy)

theorem KeptParts.samplesN {P p a b c d e q l m x y} (h : KeptParts P p a b c d e q l m) :
    KeptParts P p a b (memWriteN c x y) d e q l m := KeptParts.samples (memWriteN_wf h.1.2.2.2.1) h

theorem KeptParts.samples1 {P p a b c d e q l m x y} (h : KeptParts P p a b c d e q l m) :
    KeptParts P p a b (memWrite c x y) d e q l m := KeptParts.samples (memWrite_wf h.1.2.2.2.1) h

theorem KeptParts.storeN {P p a b c d e q l m x y} (h : KeptParts P p a b c d e q l m) :
    KeptParts P p a b c (memWriteN d x y) e q l m := KeptParts.store (memWriteN_wf h.1.2.2.2.2.1) h

theorem KeptParts.store1 {P p a b c d e q l m x y} (h : KeptParts P p a b c d e q l m) :
    KeptParts P p a b c (memWrite d x y) e q l m := KeptParts.store (memWrite_wf h.1.2.2.2.2.1) h

theorem KeptParts.hostN {P p a b c d e q l m x y} (h : KeptParts P p a b c d e q l m) :
    KeptParts P p a b c d (memWriteN e x y) q l m := KeptParts.host (memWriteN_wf h.1.2.2.2.2.2) h

theorem KeptParts.host1 {P p a b c d e q l m x y} (h : KeptParts P p a b c d e q l m) :
    KeptParts P p a b c d (memWrite e x y) q l m := KeptParts.host (memWrite_wf h.1.2.2.2.2.2) h

theorem Keeps.samples {P s} (h : Keeps P s) : Memory.wf s.place.samples = true := h.1.2.2.2.1

theorem Keeps.store {P s} (h : Keeps P s) : Memory.wf s.cap.store = true := h.1.2.2.2.2.1

theorem Keeps.hmem {P s} (h : Keeps P s) : Memory.wf s.host.mem = true := h.1.2.2.2.2.2

theorem State.setEng_keeps {P s e g} (h : Keeps P s) (hg : Memory.wf g.mem = true) : Keeps P (State.setEng s e g)
    := by
  have hp : ∀ (t : Tab Engine) (k : Nat), (∀ x ∈ t, Memory.wf x.2.mem = true) → ∀ x ∈ t.put k g, Memory.wf x.2.mem = true := by
    intro t k ht x hx
    rcases Tab.mem_put hx with rfl | hx
    · exact hg
    · exact ht x hx
  rw [State.setEng]
  split
  · exact ⟨⟨h.1.1, h.1.2.1, hp _ _ h.1.2.2.1, h.1.2.2.2⟩, h.2⟩
  · exact ⟨⟨h.1.1, hp _ _ h.1.2.1, h.1.2.2⟩, h.2⟩

theorem State.modEng_keeps {P s e f} (h : Keeps P s) (hf : ∀ g, Memory.wf g.mem = true → Memory.wf (f g).mem = true) :
    Keeps P (State.modEng s e f) := State.setEng_keeps h (hf _ (Keeps.eng h))

/-- What a card's own part leaves. -/
def CardKeeps (P : List Instr) : CardOut → Prop
  | .ok t _ => Keeps P t
  | .err _ _ _ => True
  | .errWith t _ _ _ => Keeps P t
  | .accepted t _ _ _ => Keeps P t
  | .later t _ => Keeps P t

/-- What an outcome leaves. -/
def OutcomeKeeps (P : List Instr) : Host.Outcome State Fault Refusal → Prop
  | .next t => Keeps P t
  | _ => True

/-- What the use of a key leaves. -/
def UseKeeps (P : List Instr) : KeyUse → Prop
  | .integrity t => Keeps P t
  | _ => True

theorem UseKeeps.of {P t u} (e : u = KeyUse.integrity t) (h : UseKeeps P u) : Keeps P t := by subst e; exact h

theorem CardKeeps.ok {P t d} (h : Keeps P t) : CardKeeps P (.ok t d) := h

theorem CardKeeps.err {P a b d} : CardKeeps P (.err a b d) := trivial

theorem CardKeeps.errWith {P t a b d} (h : Keeps P t) : CardKeeps P (.errWith t a b d) := h

theorem CardKeeps.accepted {P t w b d} (h : Keeps P t) : CardKeeps P (.accepted t w b d) := h

theorem CardKeeps.later {P t w} (h : Keeps P t) : CardKeeps P (.later t w) := h

theorem CardKeeps.of_ok {P o t d} (e : o = CardOut.ok t d) (h : CardKeeps P o) : Keeps P t := by subst e; exact h

theorem OutcomeKeeps.next {P t} (h : Keeps P t) : OutcomeKeeps P (.next t) := h

theorem Keeps.ite {P : List Instr} {c : Prop} [Decidable c] {a b : State} (h : Keeps P a) (g : Keeps P b) : Keeps P
    (if c then a else b) := by
  split
  · exact h
  · exact g

theorem OutcomeKeeps.ite {P : List Instr} {c : Prop} [Decidable c] {a b : Host.Outcome State Fault Refusal} (h
    : OutcomeKeeps P a) (g : OutcomeKeeps P b) :
    OutcomeKeeps P (if c then a else b) := by
  split
  · exact h
  · exact g

theorem Keeps.snd {P : List Instr} {α : Type} {p : α × State} {a : α} {t : State} (e : p = (a, t)) (h : Keeps P p.2)
    : Keeps P t := by
  subst e; exact h

theorem Keeps.snd2 {P : List Instr} {α β : Type} {p : α × β × State} {a : α} {b : β} {t : State} (e : p = (a, b, t))
    (h : Keeps P p.2.2) : Keeps P t := by
  subst e; exact h

theorem Keeps.snd3 {P : List Instr} {α β γ : Type} {p : α × β × γ × State} {a : α} {b : β} {c : γ} {t : State} (e
    : p = (a, b, c, t)) (h : Keeps P p.2.2.2) : Keeps P t := by
  subst e; exact h

theorem Keeps.foldl {P : List Instr} {α : Type} {f : State → α → State} {s : State} {l : List α} (h : Keeps P s)
    (hf : ∀ s x, Keeps P s → Keeps P (f s x)) : Keeps P (l.foldl f s) := by
  induction l generalizing s with
  | nil => exact h
  | cons x l ih => exact ih (hf s x h)

theorem Keeps.foldl2 {P : List Instr} {α β : Type} {f : β × State → α → β × State} {s : β × State} {l : List α} (h
    : Keeps P s.2)
    (hf : ∀ s x, Keeps P s.2 → Keeps P (f s x).2) : Keeps P (l.foldl f s).2 := by
  induction l generalizing s with
  | nil => exact h
  | cons x l ih => exact ih (hf s x h)

theorem Keeps.foldl1 {P : List Instr} {α β : Type} {f : State × β → α → State × β} {s : State × β} {l : List α} (h
    : Keeps P s.1)
    (hf : ∀ s x, Keeps P s.1 → Keeps P (f s x).1) : Keeps P (l.foldl f s).1 := by
  induction l generalizing s with
  | nil => exact h
  | cons x l ih => exact ih (hf s x h)

theorem Keeps.ex (P : List Instr) {G : Prop} (x : State) (h : Keeps P x) (g : ∀ y, y = x → Keeps P y → G) : G
    := g x rfl h

theorem Keeps.ex2 (P : List Instr) {G : Prop} {α : Type} (x : α × State) (h : Keeps P x.2) (g
    : ∀ y, y = x → Keeps P y.2 → G) : G := g x rfl h

theorem Keeps.exD {α : Sort _} {G : Prop} (x : α) (g : ∀ y, y = x → G) : G := g x rfl

theorem Keeps.cut (P : List Instr) {G : Prop} (x : State) (h : Keeps P x) (g : Keeps P x → G) : G := g h

/-- `Keeps` is the invariant of Safety.lean beside the queue. -/
theorem keeps_iff {P : List Instr} {s : State} : Keeps P s ↔ s.pending = P ∧ s.Kept := by
  constructor
  · intro h
    exact ⟨h.1.1, h.1.2, h.2.1, h.2.2.1, h.2.2.2.1, h.2.2.2.2⟩
  · intro h
    exact ⟨⟨h.1, h.2.1⟩, h.2.2.1, h.2.2.2.1, h.2.2.2.2.1, h.2.2.2.2.2⟩

end Sys2Proof.Machine
end

