-- ==== Sys2Proof/Laws/KeptOps.lean ====
section
/-! SUPPORT. What the shared operations up to the cards leave true: each lemma `f_keeps` says that `f` keeps the pending queue
and the invariant of Safety.lean (`Keeps`). -/
namespace Sys2Proof.Machine
open Sys2Proof

theorem State.emit_keeps {P s0 a1} (h0 : Keeps P s0) : Keeps P (State.emit s0 a1) := by
  rw [State.emit]
  assumption

theorem State.raiseInt_keeps {P s0 a1} (h0 : Keeps P s0) : Keeps P (State.raiseInt s0 a1) := by
  rw [State.raiseInt]
  assumption

theorem State.bumpN_keeps {P s0 a1 a2} (h0 : Keeps P s0) : Keeps P (State.bumpN s0 a1 a2) := by
  rw [State.bumpN]
  assumption

theorem State.bump_keeps {P s0 a1} (h0 : Keeps P s0) : Keeps P (State.bump s0 a1) := by
  rw [State.bump]
  with_reducible repeat' first | assumption | refine State.bumpN_keeps ?_

theorem State.postEvent_keeps {P s e} (h : Keeps P s) : Keeps P (State.postEvent s e) := by
  rw [State.postEvent]
  split
  · exact State.bump_keeps h
  · refine ⟨h.1, ?_, h.2.2⟩
    simp only [List.length_append, List.length_cons, List.length_nil]
    omega

theorem State.postC_keeps {P s0 a1 a2 a3} (h0 : Keeps P s0) : Keeps P (State.postC s0 a1 a2 a3) := by
  rw [State.postC]
  with_reducible repeat' first | assumption | refine State.postEvent_keeps ?_

theorem State.post_keeps {P s0 a1 a2} (h0 : Keeps P s0) : Keeps P (State.post s0 a1 a2) := by
  rw [State.post]
  with_reducible repeat' first | assumption | refine State.postC_keeps ?_

theorem State.advance_keeps {P a0 s1} (h1 : Keeps P s1) : Keeps P (State.advance a0 s1) := by
  rw [State.advance]
  with_reducible repeat' first | assumption | split

theorem State.freeVal_keeps {P s0 a1} (h0 : Keeps P s0) : Keeps P (State.freeVal s0 a1).2 := by
  rw [State.freeVal]
  assumption

theorem State.setLine_keeps {P s0 a1 a2} (h0 : Keeps P s0) : Keeps P (State.setLine s0 a1 a2) := by
  rw [State.setLine]
  with_reducible repeat' first | assumption | split

theorem State.randomBytes_keeps {P s0 a1} (h0 : Keeps P s0) : Keeps P (State.randomBytes s0 a1).2 := by
  rw [State.randomBytes]
  assumption

theorem State.modHealth_keeps {P s0 a1 a2 a3} (h0 : Keeps P s0) : Keeps P (State.modHealth s0 a1 a2 a3) := by
  rw [State.modHealth]
  assumption

theorem State.lineHealth_keeps {P s0 a1 a2} (h0 : Keeps P s0) : Keeps P (State.lineHealth s0 a1 a2) := by
  rw [State.lineHealth]
  with_reducible repeat' first | assumption | refine State.modHealth_keeps ?_

theorem State.meetErr_keeps {P s0 a1} (h0 : Keeps P s0) : Keeps P (State.meetErr s0 a1) := by
  rw [State.meetErr]
  with_reducible repeat' first | assumption | refine State.lineHealth_keeps ?_ | split

theorem State.wroteRange_keeps {P s0 a1 a2} (h0 : Keeps P s0) : Keeps P (State.wroteRange s0 a1 a2) := by
  rw [State.wroteRange]
  with_reducible repeat' first
    | assumption | refine State.meetErr_keeps ?_ | split | refine Keeps.foldl ?_ (fun _ _ _ => ?_)

theorem State.readRange_keeps {P s0 a1 a2} (h0 : Keeps P s0) : Keeps P (State.readRange s0 a1 a2).2 := by
  rw [State.readRange]
  with_reducible repeat' first
    | assumption | refine State.meetErr_keeps ?_ | refine State.lineHealth_keeps ?_ | split
    | refine Keeps.foldl ?_ (fun _ _ _ => ?_)

theorem State.setPort_keeps {P s0 a1 a2} (h0 : Keeps P s0) : Keeps P (State.setPort s0 a1 a2) := by
  rw [State.setPort]
  assumption

theorem State.modPort_keeps {P s0 a1 a2} (h0 : Keeps P s0) : Keeps P (State.modPort s0 a1 a2) := by
  rw [State.modPort]
  with_reducible repeat' first | assumption | refine State.setPort_keeps ?_

theorem State.setSwp_keeps {P s0 a1 a2} (h0 : Keeps P s0) : Keeps P (State.setSwp s0 a1 a2) := by
  rw [State.setSwp]
  assumption

theorem State.modSwp_keeps {P s0 a1 a2} (h0 : Keeps P s0) : Keeps P (State.modSwp s0 a1 a2) := by
  rw [State.modSwp]
  with_reducible repeat' first | assumption | refine State.setSwp_keeps ?_

theorem State.portCountN_keeps {P s0 a1 a2 a3} (h0 : Keeps P s0) : Keeps P (State.portCountN s0 a1 a2 a3) := by
  rw [State.portCountN]
  with_reducible repeat' first | assumption | refine State.modPort_keeps ?_

theorem State.portCount_keeps {P s0 a1 a2} (h0 : Keeps P s0) : Keeps P (State.portCount s0 a1 a2) := by
  rw [State.portCount]
  with_reducible repeat' first | assumption | refine State.portCountN_keeps ?_

theorem State.checkPause_keeps {P s0} (h0 : Keeps P s0) : Keeps P (State.checkPause s0) := by
  rw [State.checkPause]
  with_reducible repeat' first
    | assumption | refine State.emit_keeps ?_ | refine State.portCount_keeps ?_ | refine State.modPort_keeps ?_
    | split | refine Keeps.foldl ?_ (fun _ _ _ => ?_) | dsimp only

theorem State.releaseId_keeps {P s0 a1} (h0 : Keeps P s0) : Keeps P (State.releaseId s0 a1) := by
  rw [State.releaseId]
  with_reducible repeat' first | assumption | refine State.checkPause_keeps ?_ | split

theorem State.qCount_keeps {P s0 a1 a2 a3} (h0 : Keeps P s0) : Keeps P (State.qCount s0 a1 a2 a3) := by
  rw [State.qCount]
  with_reducible repeat' first | assumption | refine State.modSwp_keeps ?_

theorem State.settleTx_keeps {P s0 a1} (h0 : Keeps P s0) : Keeps P (State.settleTx s0 a1) := by
  rw [State.settleTx]
  with_reducible repeat' first
    | assumption | refine State.emit_keeps ?_ | refine State.setPort_keeps ?_ | refine State.releaseId_keeps ?_
    | refine State.qCount_keeps ?_ | refine State.portCount_keeps ?_ | split

theorem State.flushPort_keeps {P s0 a1 a2 a3} (h0 : Keeps P s0) : Keeps P (State.flushPort s0 a1 a2 a3) := by
  rw [State.flushPort]
  with_reducible repeat' first
    | assumption | refine State.settleTx_keeps ?_ | refine State.emit_keeps ?_ | refine State.portCount_keeps ?_
    | refine State.setPort_keeps ?_ | refine State.modSwp_keeps ?_ | refine State.modPort_keeps ?_
    | refine State.releaseId_keeps ?_ | refine State.portCountN_keeps ?_ | split
    | refine Keeps.foldl ?_ (fun _ _ _ => ?_)

theorem State.swCount_keeps {P s0 a1 a2} (h0 : Keeps P s0) : Keeps P (State.swCount s0 a1 a2) := by
  rw [State.swCount]
  with_reducible repeat' first | assumption | refine State.modSwp_keeps ?_

theorem State.storeCells_keeps {P s0 a1 a2} (h0 : Keeps P s0) : Keeps P (State.storeCells s0 a1 a2) := by
  rw [State.storeCells]
  with_reducible repeat' first | assumption | split

theorem State.enqueue_keeps {P s0 a1 a2 a3 a4} (h0 : Keeps P s0) : Keeps P (State.enqueue s0 a1 a2 a3 a4).2 := by
  rw [State.enqueue]
  with_reducible repeat' first
    | assumption | refine State.portCount_keeps ?_ | refine State.qCount_keeps ?_ | refine State.raiseInt_keeps ?_
    | refine State.setSwp_keeps ?_ | refine State.storeCells_keeps ?_ | refine State.modSwp_keeps ?_
    | refine State.checkPause_keeps ?_ | split | dsimp only

theorem State.popQueue_keeps {P s0 a1 a2} (h0 : Keeps P s0) : Keeps P (State.popQueue s0 a1 a2) := by
  rw [State.popQueue]
  with_reducible repeat' first | assumption | refine State.modSwp_keeps ?_

theorem State.transparent_keeps {P s0 a1 a2 a3} (h0 : Keeps P s0) : Keeps P (State.transparent s0 a1 a2 a3).2 := by
  rw [State.transparent]
  with_reducible repeat' first | assumption | split | dsimp only

theorem State.startTx_keeps {P s0 a1 a2 a3 a4 a5} (h0 : Keeps P s0) : Keeps P (State.startTx s0 a1 a2 a3 a4 a5) := by
  rw [State.startTx]
  with_reducible repeat' first
    | assumption | refine State.modPort_keeps ?_ | refine State.popQueue_keeps ?_ | refine State.transparent_keeps ?_
    | refine State.setPort_keeps ?_ | refine State.portCount_keeps ?_ | split | dsimp only
    | refine Keeps.snd (by assumption) ?_

theorem State.dropHeads_keeps {P fuel s n tc} (h : Keeps P s) : Keeps P (State.dropHeads fuel s n tc) := by
  induction fuel generalizing s with
  | zero => exact h
  | succ fuel ih =>
    simp only [State.dropHeads]
    split
    · exact h
    · split
      · exact ih (State.releaseId_keeps (State.qCount_keeps (State.popQueue_keeps h)))
      · split
        · exact ih (State.releaseId_keeps (State.qCount_keeps (State.popQueue_keeps h)))
        · exact h

theorem State.guardHeld_keeps {P s0 a1 a2 a3} (h0 : Keeps P s0) : Keeps P (State.guardHeld s0 a1 a2 a3) := by
  rw [State.guardHeld]
  with_reducible repeat' first
    | assumption | refine State.portCount_keeps ?_ | refine State.modPort_keeps ?_ | refine State.modSwp_keeps ?_
    | split

theorem State.originate_keeps {P s0 a1 a2 a3 a4} (h0 : Keeps P s0) : Keeps P (State.originate s0 a1 a2 a3 a4) := by
  rw [State.originate]
  with_reducible repeat' first | assumption | refine State.enqueue_keeps ?_

theorem State.preemptNow_keeps {P s n t} (h : Keeps P s) (e : State.preemptNow s n = some t) : Keeps P t := by
  simp only [State.preemptNow] at e
  split at e
  · cases e
  · split at e
    · cases e
    · split at e
      · cases e
      · cases e
        exact State.portCount_keeps (State.portCount_keeps (State.setPort_keeps (State.emit_keeps h)))

theorem State.select_keeps {P s n t x l} (h : Keeps P s) : Keeps P (State.select s n t x l).2 := by
  induction l generalizing s with
  | nil => exact h
  | cons tc l ih =>
    simp only [State.select]
    have hd := State.dropHeads_keeps (fuel := 1024) (n := n) (tc := tc) h
    split
    · exact ih hd
    · split
      · exact ih hd
      · split
        · exact hd
        · exact ih (State.guardHeld_keeps hd)

theorem State.underrun_keeps {P s0 a1} (h0 : Keeps P s0) : Keeps P (State.underrun s0 a1) := by
  rw [State.underrun]
  with_reducible repeat' first
    | assumption | refine State.emit_keeps ?_ | refine State.setPort_keeps ?_ | refine State.releaseId_keeps ?_
    | refine State.portCount_keeps ?_ | refine State.postC_keeps ?_ | split

theorem State.transmit_keeps {P s0 a1 a2} (h0 : Keeps P s0) : Keeps P (State.transmit s0 a1 a2) := by
  rw [State.transmit]
  with_reducible repeat' first
    | assumption | refine Keeps.snd (by assumption) (State.select_keeps ?_)
    | refine State.preemptNow_keeps ?_ (by assumption) | refine State.settleTx_keeps ?_
    | refine State.startTx_keeps ?_ | refine State.underrun_keeps ?_ | refine State.setPort_keeps ?_ | split
    | dsimp only

theorem State.truncateAfter_keeps {P s0 a1} (h0 : Keeps P s0) : Keeps P (State.truncateAfter s0 a1) := by
  rw [State.truncateAfter]
  with_reducible repeat' first
    | assumption | refine State.settleTx_keeps ?_ | refine State.releaseId_keeps ?_ | refine State.modPort_keeps ?_
    | refine State.emit_keeps ?_ | refine State.modSwp_keeps ?_ | split | refine Keeps.foldl ?_ (fun _ _ _ => ?_)

theorem State.haloCount_keeps {P s0 a1} (h0 : Keeps P s0) : Keeps P (State.haloCount s0 a1) := by
  rw [State.haloCount]
  assumption

theorem State.slotUnusable_keeps {P s n} (h : Keeps P s) (hv : (s.slot n).st = .valid) : Keeps P
    (State.slotUnusable s n) := by
  rw [State.slotUnusable]
  refine State.post_keeps (State.haloCount_keeps ⟨h.1, h.2.1, ?_, fun m => ?_, fun e he => ?_⟩)
  · exact Nat.le_trans (List.length_filter_le _ _) h.2.2.1
  · have hk := h.2.2.2.1 m
    by_cases hm : m = n
    · subst hm
      intro hs
      simp only [State.setSlot, State.dropDerived, Tab.getD_put_self] at hs
      rcases hs with hs | hs <;> cases hs
    · simp only [State.setSlot, State.dropDerived, Tab.getD_put_other _ _ _ hm]
      exact hk
  · simp only [State.dropDerived, State.setSlot, List.mem_filter, bne_iff_ne, ne_eq] at he
    simp only [State.setSlot, State.dropDerived, Tab.getD_put_other _ _ _ he.2]
    exact h.2.2.2.2 e he.1

theorem State.slotFlip_keeps {P s n x} (h : Keeps P s) (hv : (s.slot n).st = .valid) : Keeps P (State.setSlot s n
    { s.slot n with word := x }) := by
  refine ⟨h.1, h.2.1, h.2.2.1, fun m => ?_, fun e he => ?_⟩
  · by_cases hm : m = n
    · subst hm
      intro hs
      simp only [State.setSlot, Tab.getD_put_self, hv] at hs
      rcases hs with hs | hs <;> cases hs
    · simp only [State.setSlot, Tab.getD_put_other _ _ _ hm]
      exact h.2.2.2.1 m
  · simp only [State.setSlot] at he ⊢
    by_cases hm : e.slot = n
    · rw [hm, Tab.getD_put_self]; exact hv
    · rw [Tab.getD_put_other _ _ _ hm]; exact h.2.2.2.2 e he

theorem State.tagCheck_keeps {P s n x} (h : Keeps P s) : Keeps P (State.tagCheck s n x) := by
  rw [State.tagCheck]
  split
  · exact h
  · rename_i hv
    have hv : (s.slot n).st = .valid := by simpa using hv
    have hf : Keeps P (s.setSlot n { s.slot n with word := ((s.slot n).word ^^^ x) % 2 ^ 512 }) := State.slotFlip_keeps h hv
    dsimp only
    split
    · exact hf
    · refine State.slotUnusable_keeps hf ?_
      simp only [State.slot, State.setSlot, Tab.getD_put_self]
      exact hv

theorem State.loadMac_keeps {P s0 a1 a2} (h0 : Keeps P s0) : Keeps P (State.loadMac s0 a1 a2) := by
  rw [State.loadMac]
  assumption

theorem State.useSlot_keeps {P s n} (h : Keeps P s) : UseKeeps P (State.useSlot s n) := by
  rw [State.useSlot]
  try dsimp only
  split
  · trivial
  · rename_i hv
    split
    · exact State.slotUnusable_keeps h (by simp only [Bool.or_eq_true, bne_iff_ne, ne_eq, not_or, Decidable.not_not] at hv; exact hv.1)
    · trivial

theorem State.derive_keeps {P s n l b} (h : Keeps P s) : Keeps P (State.derive s n l b).2 ∧ UseKeeps P
    (State.derive s n l b).1 := by
  have keep : ∀ (hit : CacheKey → Bool) (e : CacheKey), (s.slot e.slot).st = .valid →
      Keeps P { s with keys.cache := (e :: s.keys.cache.filter (fun x => !hit x)).take 1024 } := by
    intro hit e he
    refine ⟨h.1, h.2.1, List.length_take_le _ _, h.2.2.2.1, fun x hx => ?_⟩
    have hx := List.mem_of_mem_take hx
    rcases List.mem_cons.mp hx with rfl | hx
    · exact he
    · exact h.2.2.2.2 x (List.mem_filter.mp hx).1
  rw [State.derive]
  try dsimp only
  split
  · exact ⟨h, trivial⟩
  · rename_i hv
    have hv : (s.slot n).st = .valid := by
      simp only [Bool.or_eq_true, bne_iff_ne, ne_eq, not_or, Decidable.not_not] at hv; exact hv.1
    split
    · rename_i e he
      have hs := List.find?_some he
      simp only [Bool.and_eq_true, beq_iff_eq] at hs
      exact ⟨keep _ e (hs.1.1 ▸ hv), trivial⟩
    · split
      · exact ⟨State.haloCount_keeps (keep _ _ hv), trivial⟩
      · exact ⟨h, trivial⟩
      · rename_i t ht
        have := State.useSlot_keeps (n := n) h
        rw [ht] at this
        exact ⟨this, this⟩

theorem State.loadStratus_keeps {P s r n} (h : Keeps P s) : Keeps P (State.loadStratus s r n) := by
  rw [State.loadStratus]
  split
  · exact h
  · split
    · rename_i e
      exact State.loadMac_keeps (Keeps.snd e (State.derive_keeps h).1)
    · rename_i e
      exact Keeps.snd e (State.derive_keeps h).1

theorem State.reloadUsers_keeps {P s0 a1 a2} (h0 : Keeps P s0) : Keeps P (State.reloadUsers s0 a1 a2) := by
  rw [State.reloadUsers]
  with_reducible repeat' first
    | assumption | refine State.loadMac_keeps ?_ | refine State.loadStratus_keeps ?_ | split
    | refine Keeps.foldl ?_ (fun _ _ _ => ?_)

theorem State.remask_keeps {P s n} (h : Keeps P s) : Keeps P (State.remask s n) := by
  rw [State.remask]
  try dsimp only
  split
  · exact h
  · rename_i hv
    have hv : (s.slot n).st = .valid := by simpa using hv
    split
    · exact State.slotUnusable_keeps h hv
    · refine ⟨h.1, h.2.1, h.2.2.1, fun m => ?_, fun e he => ?_⟩
      · by_cases hm : m = n
        · subst hm
          intro hs
          simp only [State.maskSlot, State.setSlot, Tab.getD_put_self, hv] at hs
          rcases hs with hs | hs <;> cases hs
        · simp only [State.maskSlot, State.setSlot, Tab.getD_put_other _ _ _ hm]
          exact h.2.2.2.1 m
      · simp only [State.maskSlot, State.setSlot, State.randomBytes] at he ⊢
        by_cases hm : e.slot = n
        · rw [hm, Tab.getD_put_self]; exact hv
        · rw [Tab.getD_put_other _ _ _ hm]; exact h.2.2.2.2 e he

theorem State.macOpen_keeps {P s0 a1 a2 a3} (h0 : Keeps P s0) {t} (e : State.macOpen s0 a1 a2 a3 = some t)
    : Keeps P t := by
  rw [State.macOpen] at e
  repeat' (first | contradiction | (cases e; exact h0) | split at e)

theorem State.tamperLine_keeps {P s0} (h0 : Keeps P s0) : Keeps P (State.tamperLine s0) := by
  rw [State.tamperLine]
  with_reducible repeat' first | assumption | refine State.setLine_keeps ?_ | split

theorem State.zeroise_keeps {P s c} (h : Keeps P s) : Keeps P (State.zeroise s c) := by
  rw [State.zeroise]
  refine State.post_keeps (State.bump_keeps (State.haloCount_keeps ⟨h.1, h.2.1, Nat.zero_le _, fun n => ?_, fun e he => ?_⟩))
  · have hk := h.2.2.2.1 n
    generalize s.keys.slots = l at hk ⊢
    have := Tab.getD_mapV l (fun (_ : Nat) (k : KeySlot) => if k.st == KeySt.empty then k else
      { k with st := .zeroised, word := 0, mask := 0, tag := 0 }) n {} {} rfl
    dsimp only
    rw [this]
    split
    · exact hk
    · intro _; exact ⟨rfl, rfl, rfl⟩
  · exact absurd he (List.not_mem_nil)

theorem State.sendMgmt_keeps {P s0 a1 a2} (h0 : Keeps P s0) : Keeps P (State.sendMgmt s0 a1 a2).2 := by
  rw [State.sendMgmt]
  with_reducible repeat' first | assumption | refine State.emit_keeps ?_ | split | dsimp only

theorem State.tellBackup_keeps {P s0 a1} (h0 : Keeps P s0) : Keeps P (State.tellBackup s0 a1) := by
  rw [State.tellBackup]
  with_reducible repeat' first | assumption | refine State.sendMgmt_keeps ?_ | split

theorem State.pairSend_keeps {P s0 a1} (h0 : Keeps P s0) : Keeps P (State.pairSend s0 a1) := by
  rw [State.pairSend]
  with_reducible repeat' first | assumption | refine State.emit_keeps ?_ | split

theorem State.mirrorPacket_keeps {P s0 a1} (h0 : Keeps P s0) : Keeps P (State.mirrorPacket s0 a1) := by
  rw [State.mirrorPacket]
  with_reducible repeat' first | assumption | refine State.pairSend_keeps ?_ | split

theorem State.mirror_keeps {P s0 a1 a2} (h0 : Keeps P s0) : Keeps P (State.mirror s0 a1 a2) := by
  rw [State.mirror]
  with_reducible repeat' first | assumption | refine State.mirrorPacket_keeps ?_ | split

theorem State.sendWorkerReply_keeps {P s0 a1 a2 a3 a4 a5} (h0 : Keeps P s0) : Keeps P
    (State.sendWorkerReply s0 a1 a2 a3 a4 a5) := by
  rw [State.sendWorkerReply]
  with_reducible repeat' first | assumption | refine State.sendMgmt_keeps ?_

theorem State.sendForward_keeps {P s0 a1 a2 a3} (h0 : Keeps P s0) : Keeps P (State.sendForward s0 a1 a2 a3).2 := by
  rw [State.sendForward]
  with_reducible repeat' first | assumption | refine State.sendMgmt_keeps ?_

theorem State.mirrorPhase_keeps {P s0 a1 a2} (h0 : Keeps P s0) : Keeps P (State.mirrorPhase s0 a1 a2) := by
  rw [State.mirrorPhase]
  with_reducible repeat' first | assumption | refine State.mirrorPacket_keeps ?_

theorem State.giveUp_keeps {P s0 a1} (h0 : Keeps P s0) : Keeps P (State.giveUp s0 a1) := by
  rw [State.giveUp]
  with_reducible repeat' first
    | assumption | refine State.pairSend_keeps ?_ | refine State.post_keeps ?_ | refine State.truncateAfter_keeps ?_
    | split

theorem State.mirrorMoved_keeps {P s0 a1 a2 a3 a4} (h0 : Keeps P s0) : Keeps P (State.mirrorMoved s0 a1 a2 a3 a4)
    := by
  rw [State.mirrorMoved]
  with_reducible repeat' first | assumption | refine State.mirrorPacket_keeps ?_

theorem State.switchover_keeps {P s0} (h0 : Keeps P s0) : Keeps P (State.switchover s0) := by
  rw [State.switchover]
  with_reducible repeat' first | assumption | refine State.giveUp_keeps ?_ | split

theorem State.mirrorDelay_keeps {P s0 a1 a2 a3} (h0 : Keeps P s0) : Keeps P (State.mirrorDelay s0 a1 a2 a3) := by
  rw [State.mirrorDelay]
  with_reducible repeat' first | assumption | refine State.mirrorPacket_keeps ?_

theorem State.pairCount_keeps {P s0 a1 a2} (h0 : Keeps P s0) : Keeps P (State.pairCount s0 a1 a2) := by
  rw [State.pairCount]
  assumption

theorem State.postPair_keeps {P s0 a1 a2} (h0 : Keeps P s0) : Keeps P (State.postPair s0 a1 a2) := by
  rw [State.postPair]
  with_reducible repeat' first | assumption | refine State.post_keeps ?_

theorem State.setInst_keeps {P s0 a1 a2} (h0 : Keeps P s0) : Keeps P (State.setInst s0 a1 a2) := by
  rw [State.setInst]
  assumption

theorem State.engWrite_keeps {P s0 a1 a2 a3} (h0 : Keeps P s0) : Keeps P (State.engWrite s0 a1 a2 a3) := by
  rw [State.engWrite]
  with_reducible repeat' first
    | assumption | refine State.modEng_keeps ?_ (fun _ _ => ?_) | refine State.wroteRange_keeps ?_
    | refine memWriteN_wf ?_

theorem State.loadCode_keeps {P s0 a1 a2 a3} (h0 : Keeps P s0) : Keeps P (State.loadCode s0 a1 a2 a3) := by
  rw [State.loadCode]
  with_reducible repeat' first | assumption | refine State.engWrite_keeps ?_

theorem State.modInst_keeps {P s0 a1 a2} (h0 : Keeps P s0) : Keeps P (State.modInst s0 a1 a2) := by
  rw [State.modInst]
  assumption

theorem State.writeData_keeps {P s0 a1 a2 a3} (h0 : Keeps P s0) : Keeps P (State.writeData s0 a1 a2 a3) := by
  rw [State.writeData]
  with_reducible repeat' first | assumption | refine State.engWrite_keeps ?_ | split

theorem State.writeDataAll_keeps {P s0 a1 a2 a3} (h0 : Keeps P s0) : Keeps P (State.writeDataAll s0 a1 a2 a3) := by
  rw [State.writeDataAll]
  with_reducible repeat' first
    | assumption | refine State.writeData_keeps ?_ | refine State.engWrite_keeps ?_ | split
    | refine Keeps.foldl ?_ (fun _ _ _ => ?_)

theorem State.makeRing_keeps {P s ch c0} (h : Keeps P s) {t} (e : State.makeRing s ch c0 = .ok t) : Keeps P t := by
  simp only [State.makeRing] at e
  split at e
  · cases e; exact h
  · split at e
    · cases e
    · cases e
      exact KeptParts.samples (memWriteN_wf (Keeps.samples (State.wroteRange_keeps h))) (State.wroteRange_keeps h)

theorem State.placeRings_keeps {P s x c0} (h : Keeps P s) {t} (e : State.placeRings s x c0 = .ok t) : Keeps P t := by
  simp only [State.placeRings] at e
  have : ∀ (l : List Nat) (r : Except Nat State), (∀ t, r = .ok t → Keeps P t) → ∀ t, l.foldl (fun r ch =>
      match r with
      | .error e => .error e
      | .ok s => if s.place.rings.has ch then .ok s else s.makeRing ch c0) r = .ok t → Keeps P t := by
    intro l
    induction l with
    | nil => intro r hr t ht; exact hr t ht
    | cons a l ih =>
      intro r hr t ht
      refine ih _ (fun u hu => ?_) t ht
      cases r with
      | error => cases hu
      | ok v =>
        have hv := hr v rfl
        simp only at hu
        split at hu
        · cases hu; exact hv
        · exact State.makeRing_keeps hv hu
  exact this _ _ (fun t ht => by cases ht; exact h) _ e

theorem State.loadCodes_keeps {P s0 a1 a2 a3} (h0 : Keeps P s0) : Keeps P (State.loadCodes s0 a1 a2 a3) := by
  rw [State.loadCodes]
  with_reducible repeat' first | assumption | refine State.loadCode_keeps ?_ | split

theorem State.putCopy_keeps {P s0 a1 a2 a3 a4} (h0 : Keeps P s0) : Keeps P (State.putCopy s0 a1 a2 a3 a4) := by
  rw [State.putCopy]
  with_reducible repeat' first | assumption | refine State.setInst_keeps ?_ | refine State.loadCodes_keeps ?_ | split

theorem State.tryCopies_keeps {P f s fi x p k cl ch} (h : Keeps P s) {t} (e
    : State.tryCopies f s fi x p k cl ch = .ok t) : Keeps P t := by
  induction f generalizing s k cl ch with
  | zero => cases e; exact h
  | succ f ih =>
    simp only [State.tryCopies] at e
    split at e
    · cases e
    · exact ih (State.putCopy_keeps h) e

theorem State.tryPhases_keeps {P s fi x l r} (h : Keeps P s) {t} (e : State.tryPhases s fi x l r = .ok t) : Keeps P t
    := by
  induction l generalizing r with
  | nil => cases e
  | cons p l ih =>
    simp only [State.tryPhases] at e
    split at e
    · cases e
    · rename_i u hu
      cases e
      simp only [State.tryPhase] at hu
      split at hu
      · cases hu
      · rename_i v hv
        split at hu
        · cases hu
        · rename_i w hw
          cases hu
          exact State.placeRings_keeps (State.tryCopies_keeps (State.setInst_keeps h) hv) hw
    · exact ih e

theorem State.placeInstance_keeps {P s0 a1 a2} (h0 : Keeps P s0) {t} (e : State.placeInstance s0 a1 a2 = .ok t)
    : Keeps P t := by
  rw [State.placeInstance] at e
  with_reducible repeat' first | assumption | refine State.tryPhases_keeps ?_ (by assumption)

theorem State.takeLane_keeps {P s0 a1} (h0 : Keeps P s0) : Keeps P (State.takeLane s0 a1) := by
  rw [State.takeLane]
  with_reducible repeat' first | assumption | refine State.modInst_keeps ?_

theorem State.placeAll_keeps {P s l} (h : Keeps P s) {t} (e : State.placeAll s l = .ok t) : Keeps P t := by
  induction l generalizing s with
  | nil => cases e; exact h
  | cons fi l ih =>
    simp only [State.placeAll] at e
    split at e
    · exact ih h e
    · split at e
      · cases e
      · exact ih (State.placeInstance_keeps h (by assumption)) e

theorem State.retryRings_keeps {P s0} (h0 : Keeps P s0) : Keeps P (State.retryRings s0) := by
  rw [State.retryRings]
  with_reducible repeat' first
    | assumption | refine State.makeRing_keeps ?_ (by assumption) | split | refine Keeps.foldl ?_ (fun _ _ _ => ?_)

theorem State.checkSpares_keeps {P s0} (h0 : Keeps P s0) : Keeps P (State.checkSpares s0) := by
  rw [State.checkSpares]
  with_reducible repeat' first
    | assumption | refine State.giveUp_keeps ?_ | refine State.raiseInt_keeps ?_ | refine State.post_keeps ?_ | split

theorem State.ringAgain_keeps {P s0 a1} (h0 : Keeps P s0) : Keeps P (State.ringAgain s0 a1) := by
  rw [State.ringAgain]
  with_reducible repeat' first
    | assumption | refine State.makeRing_keeps ?_ (by assumption) | refine State.post_keeps ?_ | split

theorem State.ringsForCopy_keeps {P s0 a1} (h0 : Keeps P s0) : Keeps P (State.ringsForCopy s0 a1) := by
  rw [State.ringsForCopy]
  with_reducible repeat' first
    | assumption | refine State.ringAgain_keeps ?_ | split | refine Keeps.foldl ?_ (fun _ _ _ => ?_)

theorem State.moveCopy_keeps {P s0 a1 a2 a3} (h0 : Keeps P s0) : Keeps P (State.moveCopy s0 a1 a2 a3) := by
  rw [State.moveCopy]
  with_reducible repeat' first
    | assumption | refine State.modEng_keeps ?_ (fun _ _ => ?_) | refine State.checkSpares_keeps ?_
    | refine State.ringsForCopy_keeps ?_ | refine State.mirrorMoved_keeps ?_ | refine State.putCopy_keeps ?_ | split

theorem State.commitRetained_keeps {P s0 a1} (h0 : Keeps P s0) : Keeps P (State.commitRetained s0 a1) := by
  rw [State.commitRetained]
  with_reducible repeat' first | assumption | split

theorem State.dropRings_keeps {P s0} (h0 : Keeps P s0) : Keeps P (State.dropRings s0) := by
  rw [State.dropRings]
  assumption

theorem State.shed_keeps {P s0 a1 a2} (h0 : Keeps P s0) : Keeps P (State.shed s0 a1 a2) := by
  rw [State.shed]
  with_reducible repeat' first
    | assumption | refine State.commitRetained_keeps ?_ | refine State.giveUp_keeps ?_
    | refine State.raiseInt_keeps ?_ | refine State.post_keeps ?_ | refine State.dropRings_keeps ?_
    | refine State.setInst_keeps ?_ | split

theorem State.shedUntil_keeps {P l s fi k} (h : Keeps P s) : Keeps P (State.shedUntil l s fi k) := by
  induction l generalizing s with
  | nil => simp only [State.shedUntil]; split; exact State.moveCopy_keeps h; exact h
  | cons v l ih => simp only [State.shedUntil]; split; exact State.moveCopy_keeps h; exact ih (State.shed_keeps h)

theorem State.without_keeps {P s0 a1} (h0 : Keeps P s0) : Keeps P (State.without s0 a1) := by
  rw [State.without]
  with_reducible repeat' first | assumption | refine State.modInst_keeps ?_ | refine Keeps.foldl ?_ (fun _ _ _ => ?_)

theorem State.afterExhaustion_keeps {P s0 a1 a2} (h0 : Keeps P s0) : Keeps P (State.afterExhaustion s0 a1 a2) := by
  rw [State.afterExhaustion]
  with_reducible repeat' first
    | assumption | refine State.giveUp_keeps ?_ | refine State.raiseInt_keeps ?_ | refine State.post_keeps ?_
    | refine State.setInst_keeps ?_ | refine State.modInst_keeps ?_ | refine State.moveCopy_keeps ?_
    | refine State.shedUntil_keeps ?_ | refine State.shed_keeps ?_ | split | dsimp only

theorem State.countFault_keeps {P s0 a1} (h0 : Keeps P s0) : Keeps P (State.countFault s0 a1) := by
  rw [State.countFault]
  assumption

theorem State.dropLag_keeps {P s0 a1} (h0 : Keeps P s0) : Keeps P (State.dropLag s0 a1) := by
  rw [State.dropLag]
  assumption

theorem State.loseCopy_keeps {P s0 a1 a2} (h0 : Keeps P s0) : Keeps P (State.loseCopy s0 a1 a2) := by
  rw [State.loseCopy]
  with_reducible repeat' first | assumption | refine State.setInst_keeps ?_ | split

theorem State.moveLag_keeps {P s0 a1 a2} (h0 : Keeps P s0) : Keeps P (State.moveLag s0 a1 a2) := by
  rw [State.moveLag]
  with_reducible repeat' first | assumption | refine State.modInst_keeps ?_ | refine State.moveCopy_keeps ?_ | split

theorem State.restoreOne_keeps {P s0 a1 a2 a3} (h0 : Keeps P s0) : Keeps P (State.restoreOne s0 a1 a2 a3) := by
  rw [State.restoreOne]
  with_reducible repeat' first
    | assumption | refine State.moveLag_keeps ?_ | refine State.moveCopy_keeps ?_ | refine State.post_keeps ?_
    | refine State.afterExhaustion_keeps ?_ | split | dsimp only

theorem State.restoreAll_keeps {P s0 a1 a2} (h0 : Keeps P s0) : Keeps P (State.restoreAll s0 a1 a2) := by
  rw [State.restoreAll]
  with_reducible repeat' first
    | assumption | refine State.moveCopy_keeps ?_ | refine State.post_keeps ?_ | refine State.restoreOne_keeps ?_
    | split | refine Keeps.foldl ?_ (fun _ _ _ => ?_) | dsimp only

theorem State.restore_keeps {P s0 a1 a2} (h0 : Keeps P s0) : Keeps P (State.restore s0 a1 a2) := by
  rw [State.restore]
  with_reducible repeat' first | assumption | refine State.restoreAll_keeps ?_ | split

theorem State.failEngine_keeps {P s0 a1 a2} (h0 : Keeps P s0) : Keeps P (State.failEngine s0 a1 a2) := by
  rw [State.failEngine]
  with_reducible repeat' first
    | assumption | refine State.dropLag_keeps ?_ | refine State.modEng_keeps ?_ (fun _ _ => ?_)
    | refine State.countFault_keeps ?_ | refine State.bump_keeps ?_ | refine State.post_keeps ?_
    | refine State.restore_keeps ?_ | refine State.checkSpares_keeps ?_ | refine State.loseCopy_keeps ?_ | split
    | refine Keeps.foldl ?_ (fun _ _ _ => ?_)

theorem State.restoreDegraded_keeps {P s0} (h0 : Keeps P s0) : Keeps P (State.restoreDegraded s0) := by
  rw [State.restoreDegraded]
  with_reducible repeat' first
    | assumption | refine State.moveCopy_keeps ?_ | split | refine Keeps.foldl ?_ (fun _ _ _ => ?_)

theorem State.failCluster_keeps {P s0 a1 a2} (h0 : Keeps P s0) : Keeps P (State.failCluster s0 a1 a2) := by
  rw [State.failCluster]
  with_reducible repeat' first
    | assumption | refine State.failEngine_keeps ?_ | refine State.ringAgain_keeps ?_
    | refine Keeps.foldl ?_ (fun _ _ _ => ?_)

theorem State.restoreWaiting_keeps {P s0} (h0 : Keeps P s0) : Keeps P (State.restoreWaiting s0) := by
  rw [State.restoreWaiting]
  with_reducible repeat' first
    | assumption | refine State.restoreOne_keeps ?_ | refine Keeps.foldl ?_ (fun _ _ _ => ?_)

theorem State.beginStart_keeps {P s0 a1 a2 a3} (h0 : Keeps P s0) : Keeps P (State.beginStart s0 a1 a2 a3) := by
  rw [State.beginStart]
  with_reducible repeat' first
    | assumption | refine State.setInst_keeps ?_ | refine State.post_keeps ?_ | split | dsimp only

theorem State.autoStart_keeps {P s0 a1} (h0 : Keeps P s0) : Keeps P (State.autoStart s0 a1) := by
  rw [State.autoStart]
  with_reducible repeat' first | assumption | refine State.beginStart_keeps ?_ | split

theorem State.sendAssign_keeps {P s0 a1 a2 a3} (h0 : Keeps P s0) : Keeps P (State.sendAssign s0 a1 a2 a3).2 := by
  rw [State.sendAssign]
  with_reducible repeat' first | assumption | refine State.sendMgmt_keeps ?_

theorem State.beginAssign_keeps {P s0 a1} (h0 : Keeps P s0) : Keeps P (State.beginAssign s0 a1) := by
  rw [State.beginAssign]
  with_reducible repeat' first
    | assumption | refine Keeps.snd (by assumption) (State.sendAssign_keeps ?_) | split
    | refine Keeps.foldl2 ?_ (fun _ _ _ => ?_) | dsimp only [Keeps] | refine Keeps.snd (by assumption) ?_

theorem State.sendCommand_keeps {P s0 a1 a2 a3} (h0 : Keeps P s0) : Keeps P (State.sendCommand s0 a1 a2 a3).2 := by
  rw [State.sendCommand]
  with_reducible repeat' first | assumption | refine State.sendMgmt_keeps ?_

theorem State.managerRemove_keeps {P s0 a1} (h0 : Keeps P s0) : Keeps P (State.managerRemove s0 a1) := by
  rw [State.managerRemove]
  with_reducible repeat' first | assumption | refine State.sendCommand_keeps ?_ | split

theorem State.setAssigned_keeps {P s0 a1 a2 a3} (h0 : Keeps P s0) : Keeps P (State.setAssigned s0 a1 a2 a3) := by
  rw [State.setAssigned]
  with_reducible repeat' first | assumption | refine State.tellBackup_keeps ?_ | refine State.modInst_keeps ?_

theorem State.setSignal_keeps {P s0 a1 a2 a3 a4} (h0 : Keeps P s0) : Keeps P (State.setSignal s0 a1 a2 a3 a4) := by
  rw [State.setSignal]
  assumption

theorem State.bindSignal_keeps {P s0 a1 a2} (h0 : Keeps P s0) : Keeps P (State.bindSignal s0 a1 a2) := by
  rw [State.bindSignal]
  assumption

theorem State.releaseSignals_keeps {P s0 a1} (h0 : Keeps P s0) : Keeps P (State.releaseSignals s0 a1) := by
  rw [State.releaseSignals]
  assumption

theorem chainRecord_keeps {P s0 a1 a2 a3 a4} (h0 : Keeps P s0) : Keeps P (chainRecord s0 a1 a2 a3 a4) := by
  rw [chainRecord]
  with_reducible repeat' first | assumption | refine State.post_keeps ?_ | split

theorem State.applyChange_keeps {P s0 a1 a2 a3} (h0 : Keeps P s0) : Keeps P (State.applyChange s0 a1 a2 a3).2 := by
  rw [State.applyChange.eq_def]
  with_reducible repeat' first | assumption | refine chainRecord_keeps ?_ | split | dsimp only

theorem State.applyChanges_keeps {P s0 a1 a2 a3} (h0 : Keeps P s0) : Keeps P (State.applyChanges s0 a1 a2 a3).2 := by
  rw [State.applyChanges]
  with_reducible repeat' first
    | assumption | refine State.applyChange_keeps ?_ | refine Keeps.foldl2 ?_ (fun _ _ _ => ?_)

theorem State.putEntry_keeps {P s0 a1 a2 a3 a4 a5} (h0 : Keeps P s0) : Keeps P (State.putEntry s0 a1 a2 a3 a4 a5)
    := by
  rw [State.putEntry]
  with_reducible repeat' first | assumption | refine KeptParts.samplesN ?_ | refine State.wroteRange_keeps ?_ | split

theorem State.detSignals_keeps {P s x k n l} (h : Keeps P s) : Keeps P (State.detSignals s x k n l).2 := by
  induction l generalizing s k with
  | nil => exact h
  | cons i l ih =>
    simp only [State.detSignals]
    refine ih ?_
    split
    · split
      · exact State.setSignal_keeps h
      · exact h
    · exact h

theorem State.ringEntry_keeps {P s0 a1 a2 a3} (h0 : Keeps P s0) : Keeps P (State.ringEntry s0 a1 a2 a3).2 := by
  rw [State.ringEntry]
  with_reducible repeat' first | assumption | refine Keeps.snd (by assumption) (State.readRange_keeps ?_) | split

theorem State.takePosition_keeps {P s0 a1} (h0 : Keeps P s0) : Keeps P (State.takePosition s0 a1) := by
  rw [State.takePosition]
  with_reducible repeat' first
    | assumption | refine Keeps.snd (by assumption) (State.ringEntry_keeps ?_)
    | refine Keeps.snd (by assumption) (State.applyChanges_keeps ?_) | refine State.detSignals_keeps ?_ | split
    | dsimp only [Keeps]

theorem State.tpiSync_keeps {P s0 a1 a2} (h0 : Keeps P s0) : Keeps P (State.tpiSync s0 a1 a2) := by
  rw [State.tpiSync]
  with_reducible repeat' first
    | assumption | refine State.post_keeps ?_ | split | refine Keeps.foldl ?_ (fun _ _ _ => ?_) | dsimp only

theorem State.driveOutputs_keeps {P s0 a1 a2 a3 a4} (h0 : Keeps P s0) : Keeps P (State.driveOutputs s0 a1 a2 a3 a4)
    := by
  rw [State.driveOutputs]
  with_reducible repeat' first
    | assumption | refine State.setSignal_keeps ?_ | split | refine Keeps.foldl ?_ (fun _ _ _ => ?_)

theorem State.redriveOutputs_keeps {P s0 a1} (h0 : Keeps P s0) : Keeps P (State.redriveOutputs s0 a1) := by
  rw [State.redriveOutputs]
  with_reducible repeat' first | assumption | refine State.driveOutputs_keeps ?_ | split

theorem State.holdSafe_keeps {P s0 a1} (h0 : Keeps P s0) : Keeps P (State.holdSafe s0 a1) := by
  rw [State.holdSafe]
  with_reducible repeat' first | assumption | refine State.redriveOutputs_keeps ?_ | refine State.modInst_keeps ?_

theorem State.finishWait_keeps {P s0 a1 a2} (h0 : Keeps P s0) : Keeps P (State.finishWait s0 a1 a2) := by
  rw [State.finishWait]
  assumption

theorem State.setHif_keeps {P s0 a1 a2} (h0 : Keeps P s0) : Keeps P (State.setHif s0 a1 a2) := by
  rw [State.setHif]
  assumption

theorem State.setTu_keeps {P s0 a1 a2} (h0 : Keeps P s0) : Keeps P (State.setTu s0 a1 a2) := by
  rw [State.setTu]
  assumption

theorem State.tuFault_keeps {P s0 a1 a2} (h0 : Keeps P s0) : Keeps P (State.tuFault s0 a1 a2) := by
  rw [State.tuFault]
  with_reducible repeat' first | assumption | refine State.setTu_keeps ?_ | refine State.setHif_keeps ?_

theorem State.translate_keeps {P s0 a1 a2 a3} (h0 : Keeps P s0) : Keeps P (State.translate s0 a1 a2 a3).2 := by
  rw [State.translate]
  with_reducible repeat' first
    | assumption | refine KeptParts.host1 ?_ | refine State.tuFault_keeps ?_ | split | dsimp only

theorem State.dmaPages_keeps {P f s vi io p} (h : Keeps P s) : Keeps P (State.dmaPages f s vi io p).2 := by
  induction f generalizing s io p with
  | zero => exact h
  | succ f ih =>
    simp only [State.dmaPages]
    split
    · exact h
    · split
      · rename_i e; exact Keeps.snd e (State.translate_keeps h)
      · rename_i e
        have hn := Keeps.snd e (State.translate_keeps h)
        exact ih (KeptParts.host (memWriteN_wf (Keeps.hmem hn)) hn)

theorem State.dmaWrite_keeps {P s0 a1 a2 a3} (h0 : Keeps P s0) : Keeps P (State.dmaWrite s0 a1 a2 a3).2 := by
  rw [State.dmaWrite]
  with_reducible repeat' first
    | assumption | refine Keeps.snd (by assumption) (State.dmaPages_keeps ?_) | refine State.emit_keeps ?_ | split

theorem State.ringErr_keeps {P s0 a1 a2 a3} (h0 : Keeps P s0) : Keeps P (State.ringErr s0 a1 a2 a3) := by
  rw [State.ringErr]
  with_reducible repeat' first | assumption | refine State.raiseInt_keeps ?_ | refine State.setHif_keeps ?_

theorem State.deliver_keeps {P s0 a1 a2 a3 a4} (h0 : Keeps P s0) : Keeps P (State.deliver s0 a1 a2 a3 a4) := by
  rw [State.deliver]
  with_reducible repeat' first
    | assumption | refine Keeps.snd (by assumption) (State.dmaWrite_keeps ?_) | refine State.ringErr_keeps ?_
    | refine State.raiseInt_keeps ?_ | refine State.setHif_keeps ?_ | split | dsimp only

theorem State.releaseReservation_keeps {P s0 a1} (h0 : Keeps P s0) : Keeps P (State.releaseReservation s0 a1) := by
  rw [State.releaseReservation]
  with_reducible repeat' first | assumption | refine State.setHif_keeps ?_ | split

theorem State.dmaReadPages_keeps {P f s vi io p} (h : Keeps P s) : Keeps P (State.dmaReadPages f s vi io p).2 := by
  induction f generalizing s io p with
  | zero => exact h
  | succ f ih =>
    simp only [State.dmaReadPages]
    split
    · exact h
    · split
      · rename_i e; exact Keeps.snd e (State.translate_keeps h)
      · rename_i e
        have := Keeps.snd e (State.translate_keeps h)
        split <;> (rename_i e2; exact Keeps.snd e2 (ih this))

theorem State.dmaRead_keeps {P s0 a1 a2 a3} (h0 : Keeps P s0) : Keeps P (State.dmaRead s0 a1 a2 a3).2 := by
  rw [State.dmaRead]
  with_reducible repeat' first | assumption | refine State.dmaReadPages_keeps ?_

theorem State.accept_keeps {P s0 a1 a2 a3 a4} (h0 : Keeps P s0) : Keeps P (State.accept s0 a1 a2 a3 a4) := by
  rw [State.accept]
  assumption

theorem State.backupCmd_keeps {P s0 a1 a2} (h0 : Keeps P s0) : Keeps P (State.backupCmd s0 a1 a2) := by
  rw [State.backupCmd]
  with_reducible repeat' first | assumption | refine State.tellBackup_keeps ?_ | split

theorem State.setChan_keeps {P s0 a1 a2} (h0 : Keeps P s0) : Keeps P (State.setChan s0 a1 a2) := by
  rw [State.setChan]
  assumption

theorem State.followBusy_keeps {P s0 a1 a2} (h0 : Keeps P s0) : Keeps P (State.followBusy s0 a1 a2) := by
  rw [State.followBusy]
  with_reducible repeat' first | assumption | refine State.setChan_keeps ?_

theorem State.storeReply_keeps {P s0 a1 a2} (h0 : Keeps P s0) : Keeps P (State.storeReply s0 a1 a2) := by
  rw [State.storeReply]
  with_reducible repeat' first | assumption | refine State.setChan_keeps ?_

theorem State.answer_keeps {P s0 a1 a2 a3 a4 a5} (h0 : Keeps P s0) : Keeps P (State.answer s0 a1 a2 a3 a4 a5) := by
  rw [State.answer]
  with_reducible repeat' first
    | assumption | refine State.sendWorkerReply_keeps ?_ | refine State.storeReply_keeps ?_
    | refine State.releaseReservation_keeps ?_ | refine State.followBusy_keeps ?_ | refine State.deliver_keeps ?_
    | refine State.emit_keeps ?_ | split

theorem State.reply_keeps {P s0 a1 a2 a3 a4} (h0 : Keeps P s0) : Keeps P (State.reply s0 a1 a2 a3 a4) := by
  rw [State.reply]
  with_reducible repeat' first | assumption | refine State.answer_keeps ?_

theorem Card.finish_keeps {P k s c} (h : Keeps P s) (hr : ∀ s, Keeps P s → CardKeeps P (k.run s c)) : Keeps P
    (Card.finish k s c) := by
  rw [Card.finish]
  have := hr { s with origin := c.inst } h
  generalize k.run { s with origin := c.inst } c = o at this ⊢
  cases o with
  | ok t d =>
    have h2 : Keeps P t := this
    refine State.reply_keeps ?_
    split
    · exact State.backupCmd_keeps (State.mirror_keeps h2)
    · exact h2
  | err => exact State.reply_keeps h
  | errWith t =>
    have h2 : Keeps P t := this
    exact State.reply_keeps h2
  | accepted t =>
    have h2 : Keeps P t := this
    dsimp only
    split
    · exact State.reply_keeps h
    · refine State.reply_keeps (State.accept_keeps ?_)
      split
      · refine State.setHif_keeps ?_
        split
        · exact State.mirror_keeps h2
        · exact h2
      · split
        · exact State.mirror_keeps h2
        · exact h2
  | later t =>
    have h2 : Keeps P t := this
    dsimp only
    split
    · exact State.mirror_keeps h2
    · exact h2

theorem Card.forward_keeps {P a0 s1 a2 a3 a4} (h1 : Keeps P s1) : Keeps P (Card.forward a0 s1 a2 a3 a4) := by
  rw [Card.forward]
  with_reducible repeat' first
    | assumption | refine State.reply_keeps ?_ | refine State.mirror_keeps ?_ | refine State.sendForward_keeps ?_
    | refine State.tellBackup_keeps ?_ | refine State.accept_keeps ?_ | split

theorem Card.exec_keeps {P k s c} (h : Keeps P s) (hr : ∀ s, Keeps P s → CardKeeps P (k.run s c)) : Keeps P
    (Card.exec k s c) := by
  rw [Card.exec]
  split
  · exact State.reply_keeps h
  · split
    · exact State.reply_keeps h
    · split
      · exact State.reply_keeps h
      · split
        · exact State.reply_keeps h
        · exact Card.forward_keeps h
        · exact Card.finish_keeps h hr

theorem CardOut.noRes_keeps {P a0}  : CardKeeps P (CardOut.noRes a0) := by
  rw [CardOut.noRes]
  with_reducible repeat' first | exact CardKeeps.err

theorem CardOut.wrong_keeps {P a0}  : CardKeeps P (CardOut.wrong a0) := by
  rw [CardOut.wrong]
  with_reducible repeat' first | exact CardKeeps.err

theorem State.wrongRole_keeps {P s0} (h0 : Keeps P s0) : CardKeeps P (State.wrongRole s0) := by
  rw [State.wrongRole]
  with_reducible repeat' first | exact CardKeeps.err

theorem runCard_keeps {P k dt c s} (h : Keeps P s) (hr : ∀ s c, Keeps P s → CardKeeps P (k.run s c)) : OutcomeKeeps P
    (runCard k dt c s) := by
  rw [runCard]
  split
  · exact Card.exec_keeps (State.advance_keeps h) (fun s => hr s _)
  · exact State.advance_keeps h

end Sys2Proof.Machine
end

