-- ==== Sys2Proof/Laws/KeptPlace.lean ====
section
/-! SUPPORT. What placement and keys leave true: each lemma `f_keeps` says that `f` keeps the pending queue
and the invariant of Safety.lean (`Keeps`). -/
namespace Sys2Proof.Machine
open Sys2Proof

theorem State.commitPlaced_keeps {P s0 a1} (h0 : Keeps P s0) : Keeps P (State.commitPlaced s0 a1) := by
  rw [State.commitPlaced]
  with_reducible repeat' first
    | assumption | refine State.autoStart_keeps ?_ | refine State.holdSafe_keeps ?_ | refine State.takeLane_keeps ?_
    | refine State.mirrorPhase_keeps ?_ | split

theorem State.placeHere_keeps {P s l} (h : Keeps P s) : Keeps P (State.placeHere s l).2 := by
  rw [State.placeHere]
  split
  · exact h
  · rename_i t e
    have ht := State.placeAll_keeps h e
    split
    · exact h
    · exact State.retryRings_keeps (Keeps.foldl ht (fun _ _ h => State.commitPlaced_keeps h))

theorem State.placementShut_keeps {P s0 a1} (h0 : Keeps P s0) {t} (e : State.placementShut s0 a1 = some t)
    : CardKeeps P t := by
  rw [State.placementShut] at e
  with_reducible repeat' first
    | cases e | split at e | assumption | refine State.wrongRole_keeps ?_ | refine CardOut.wrong_keeps

theorem declareRun_keeps {P s0 a1} (h0 : Keeps P s0) : CardKeeps P (declareRun s0 a1) := by
  rw [declareRun]
  with_reducible repeat' first
    | assumption | refine State.placementShut_keeps ?_ (by assumption) | refine CardOut.wrong_keeps
    | refine CardOut.noRes_keeps | refine State.setInst_keeps ?_ | split | refine CardKeeps.ok ?_
    | exact CardKeeps.err

theorem State.canary_keeps {P s0 a1 a2} (h0 : Keeps P s0) : Keeps P (State.canary s0 a1 a2) := by
  rw [State.canary]
  with_reducible repeat' first | assumption | refine State.modEng_keeps ?_ (fun _ _ => ?_)

theorem cardDeclareInstance_keeps {P s c} (h : Keeps P s) : CardKeeps P ((cardDeclareInstance).run s c) := by
  dsimp only [cardDeclareInstance]
  with_reducible repeat' first | assumption | refine declareRun_keeps ?_

theorem cardGetCluster_keeps {P s c} (h : Keeps P s) : CardKeeps P ((cardGetCluster).run s c) := by
  dsimp only [cardGetCluster]
  with_reducible repeat' first | assumption | refine CardKeeps.ok ?_

theorem cardGetEngine_keeps {P s c} (h : Keeps P s) : CardKeeps P ((cardGetEngine).run s c) := by
  dsimp only [cardGetEngine]
  with_reducible repeat' first | assumption | refine CardKeeps.ok ?_

theorem cardGetPlacement_keeps {P s c} (h : Keeps P s) : CardKeeps P ((cardGetPlacement).run s c) := by
  dsimp only [cardGetPlacement]
  with_reducible repeat' first | assumption | refine CardOut.wrong_keeps | split | refine CardKeeps.ok ?_

theorem cardGetPlacementLimits_keeps {P s c} (h : Keeps P s) : CardKeeps P ((cardGetPlacementLimits).run s c) := by
  dsimp only [cardGetPlacementLimits]
  with_reducible repeat' first | assumption | refine CardKeeps.ok ?_

theorem cardPlace_keeps {P s c} (h : Keeps P s) : CardKeeps P ((cardPlace).run s c) := by
  dsimp only [cardPlace]
  with_reducible repeat' first
    | assumption | refine State.placementShut_keeps ?_ (by assumption) | refine State.beginAssign_keeps ?_ | split
    | refine CardKeeps.accepted ?_

theorem State.removeInst_keeps {P s0 a1} (h0 : Keeps P s0) : Keeps P (State.removeInst s0 a1) := by
  rw [State.removeInst]
  with_reducible repeat' first | assumption | refine State.dropRings_keeps ?_

theorem cardRemoveInstance_keeps {P s c} (h : Keeps P s) : CardKeeps P ((cardRemoveInstance).run s c) := by
  dsimp only [cardRemoveInstance]
  with_reducible repeat' first
    | assumption | refine State.placementShut_keeps ?_ (by assumption) | refine CardOut.wrong_keeps
    | refine State.removeInst_keeps ?_ | refine State.managerRemove_keeps ?_ | split | refine CardKeeps.ok ?_

theorem State.setExtra_keeps {P s0 a1} (h0 : Keeps P s0) : Keeps P (State.setExtra s0 a1) := by
  rw [State.setExtra]
  with_reducible repeat' first
    | assumption | exact Keeps.eng (by assumption) | refine State.setEng_keeps ?_ ?_ | split
    | refine Keeps.foldl ?_ (fun _ _ _ => ?_) | dsimp only

theorem cardSetPlacementLimits_keeps {P s c} (h : Keeps P s) : CardKeeps P ((cardSetPlacementLimits).run s c) := by
  dsimp only [cardSetPlacementLimits]
  with_reducible repeat' first
    | assumption | refine State.placementShut_keeps ?_ (by assumption) | refine CardOut.wrong_keeps
    | refine State.restoreDegraded_keeps ?_ | refine State.checkSpares_keeps ?_ | refine State.setExtra_keeps ?_
    | split | refine CardKeeps.ok ?_

theorem State.placeNow_keeps {P s} (h : Keeps P s) {a t} (e : State.placeNow s = some (a, t)) : Keeps P t := by
  simp only [State.placeNow] at e
  split at e
  · simp only [Option.some.injEq] at e
    exact Keeps.snd e (State.placeHere_keeps (h : Keeps P { s with place.placing := false }))
  · split at e
    · cases e; exact h
    · split at e
      · cases e
      · have hu : ∀ (g : Group) (t : State), Keeps P t → Keeps P ((g.places.filter (fun p => p.2.1 != s.ownNode && !p.2.2.2)).foldl
            (fun s p => (s.sendCommand p.2.1 0x0202 (le 2 p.1)).2) t) :=
          fun g t ht => Keeps.foldl ht (fun _ _ h => State.sendCommand_keeps h)
        have h' : Keeps P { s with place.placing := false, stratus.group := none } := h
        split at e
        · cases e; exact hu _ _ h'
        · split at e
          · rename_i e2
            cases e
            exact Keeps.foldl (Keeps.snd e2 (State.placeHere_keeps h')) (fun _ _ h => State.setAssigned_keeps h)
          · rename_i e2
            cases e
            exact hu _ _ (Keeps.snd e2 (State.placeHere_keeps h'))

theorem execCanaryCheck_keeps {P a0 a1 s2} (h2 : Keeps P s2) : OutcomeKeeps P (execCanaryCheck a0 a1 s2) := by
  rw [execCanaryCheck]
  with_reducible repeat' first
    | assumption | refine State.advance_keeps ?_ | refine State.canary_keeps ?_ | split | refine OutcomeKeeps.next ?_
    | refine Keeps.foldl ?_ (fun _ _ _ => ?_) | dsimp only

theorem execClusterMemoryFailed_keeps {P a0 a1 s2} (h2 : Keeps P s2) : OutcomeKeeps P
    (execClusterMemoryFailed a0 a1 s2) := by
  rw [execClusterMemoryFailed]
  with_reducible repeat' first
    | assumption | refine State.failCluster_keeps ?_ | refine State.advance_keeps ?_ | refine OutcomeKeeps.next ?_

theorem execCopyDataTransfer_keeps {P a0 a1 a2 s3} (h3 : Keeps P s3) : OutcomeKeeps P
    (execCopyDataTransfer a0 a1 a2 s3) := by
  rw [execCopyDataTransfer]
  with_reducible repeat' first
    | assumption | refine State.advance_keeps ?_ | refine State.setInst_keeps ?_ | refine State.writeData_keeps ?_
    | split | refine OutcomeKeeps.next ?_

theorem execCopyLoadComplete_keeps {P a0 a1 a2 s3} (h3 : Keeps P s3) : OutcomeKeeps P
    (execCopyLoadComplete a0 a1 a2 s3) := by
  rw [execCopyLoadComplete]
  with_reducible repeat' first
    | assumption | refine State.advance_keeps ?_ | refine State.setInst_keeps ?_ | refine State.loadCodes_keeps ?_
    | split | refine OutcomeKeeps.next ?_

theorem execDeclareInstance_keeps {P a0 a1 s2} (h2 : Keeps P s2) : OutcomeKeeps P (execDeclareInstance a0 a1 s2) := by
  rw [execDeclareInstance]
  with_reducible repeat' first
    | assumption | exact cardDeclareInstance_keeps (by assumption) | refine runCard_keeps ?_ (fun _ _ _ => ?_)

theorem execEngineFailed_keeps {P a0 a1 a2 a3 a4 s5} (h5 : Keeps P s5) : OutcomeKeeps P
    (execEngineFailed a0 a1 a2 a3 a4 s5) := by
  rw [execEngineFailed]
  with_reducible repeat' first
    | assumption | refine State.advance_keeps ?_ | refine State.failEngine_keeps ?_ | refine OutcomeKeeps.next ?_

theorem execGetCluster_keeps {P a0 a1 s2} (h2 : Keeps P s2) : OutcomeKeeps P (execGetCluster a0 a1 s2) := by
  rw [execGetCluster]
  with_reducible repeat' first
    | assumption | exact cardGetCluster_keeps (by assumption) | refine runCard_keeps ?_ (fun _ _ _ => ?_)

theorem execGetEngine_keeps {P a0 a1 s2} (h2 : Keeps P s2) : OutcomeKeeps P (execGetEngine a0 a1 s2) := by
  rw [execGetEngine]
  with_reducible repeat' first
    | assumption | exact cardGetEngine_keeps (by assumption) | refine runCard_keeps ?_ (fun _ _ _ => ?_)

theorem execGetPlacement_keeps {P a0 a1 s2} (h2 : Keeps P s2) : OutcomeKeeps P (execGetPlacement a0 a1 s2) := by
  rw [execGetPlacement]
  with_reducible repeat' first
    | assumption | exact cardGetPlacement_keeps (by assumption) | refine runCard_keeps ?_ (fun _ _ _ => ?_)

theorem execGetPlacementLimits_keeps {P a0 a1 s2} (h2 : Keeps P s2) : OutcomeKeeps P
    (execGetPlacementLimits a0 a1 s2) := by
  rw [execGetPlacementLimits]
  with_reducible repeat' first
    | assumption | exact cardGetPlacementLimits_keeps (by assumption) | refine runCard_keeps ?_ (fun _ _ _ => ?_)

theorem execMarginLostTimeout_keeps {P dt ls cc no s} (h : Keeps P s) : OutcomeKeeps P
    (execMarginLostTimeout dt ls cc no s) := by
  have h := State.advance_keeps (a0 := dt) h
  rw [execMarginLostTimeout]
  exact OutcomeKeeps.ite h (OutcomeKeeps.next (State.restore_keeps (State.checkSpares_keeps (Keeps.foldl (State.post_keeps (State.setEng_keeps h (Keeps.eng h)))
    (fun _ _ h => State.loseCopy_keeps h)))))

theorem execPlace_keeps {P a0 a1 s2} (h2 : Keeps P s2) : OutcomeKeeps P (execPlace a0 a1 s2) := by
  rw [execPlace]
  with_reducible repeat' first
    | assumption | exact cardPlace_keeps (by assumption) | refine runCard_keeps ?_ (fun _ _ _ => ?_)

theorem execRemoveInstance_keeps {P a0 a1 s2} (h2 : Keeps P s2) : OutcomeKeeps P (execRemoveInstance a0 a1 s2) := by
  rw [execRemoveInstance]
  with_reducible repeat' first
    | assumption | exact cardRemoveInstance_keeps (by assumption) | refine runCard_keeps ?_ (fun _ _ _ => ?_)

theorem execSetPlacementLimits_keeps {P a0 a1 s2} (h2 : Keeps P s2) : OutcomeKeeps P
    (execSetPlacementLimits a0 a1 s2) := by
  rw [execSetPlacementLimits]
  with_reducible repeat' first
    | assumption | exact cardSetPlacementLimits_keeps (by assumption) | refine runCard_keeps ?_ (fun _ _ _ => ?_)

theorem cardAckTamper_keeps {P s c} (h : Keeps P s) : CardKeeps P ((cardAckTamper).run s c) := by
  dsimp only [cardAckTamper]
  with_reducible repeat' first | assumption | refine CardOut.wrong_keeps | split | refine CardKeeps.ok ?_

theorem cardEraseKey_keeps {P s c} (h : Keeps P s) : CardKeeps P (cardEraseKey.run s c) := by
  dsimp only [cardEraseKey]
  split
  · exact CardKeeps.err
  · split
    · exact CardKeeps.err
    · refine ⟨h.1, h.2.1, Nat.le_trans (List.length_filter_le _ _) h.2.2.1, fun m => ?_, fun e he => ?_⟩
      · by_cases hm : m = byteAt c.params 0
        · subst hm
          simp [State.setSlot, State.dropDerived, Tab.getD_put_self]
        · simp only [State.setSlot, State.dropDerived, Tab.getD_put_other _ _ _ hm]
          exact h.2.2.2.1 m
      · simp only [State.dropDerived, State.setSlot, List.mem_filter, bne_iff_ne, ne_eq] at he
        simp only [State.setSlot, State.dropDerived, Tab.getD_put_other _ _ _ he.2]
        exact h.2.2.2.2 e he.1

theorem cardGetHaloStatus_keeps {P s c} (h : Keeps P s) : CardKeeps P ((cardGetHaloStatus).run s c) := by
  dsimp only [cardGetHaloStatus]
  with_reducible repeat' first | assumption | split | refine CardKeeps.ok ?_

theorem cardGetKeyInfo_keeps {P s c} (h : Keeps P s) : CardKeeps P ((cardGetKeyInfo).run s c) := by
  dsimp only [cardGetKeyInfo]
  with_reducible repeat' first | assumption | refine CardKeeps.ok ?_

theorem cardListKeys_keeps {P s c} (h : Keeps P s) : CardKeeps P ((cardListKeys).run s c) := by
  dsimp only [cardListKeys]
  with_reducible repeat' first | assumption | refine CardKeeps.ok ?_

theorem cardVerifyKey_keeps {P s c} (h : Keeps P s) : CardKeeps P (cardVerifyKey.run s c) := by
  dsimp only [cardVerifyKey]
  split
  · exact CardKeeps.err
  · split
    · exact CardKeeps.err
    · split
      · exact CardKeeps.err
      · split
        · split
          · exact h
          · exact CardKeeps.err
          · rename_i e; exact UseKeeps.of e (State.useSlot_keeps h)
        · have hd := State.derive_keeps (n := byteAt c.params 0) (l := slice c.params 8 (byteAt c.params 1)) (b := u16 c.params 2) h
          split
          · rename_i e; exact Keeps.snd e hd.1
          · exact CardKeeps.err
          · rename_i e; rw [e] at hd; exact hd.2

theorem cardWriteKey_keeps {P s c} (h : Keeps P s) : CardKeeps P (cardWriteKey.run s c) := by
  dsimp only [cardWriteKey]
  split
  · exact CardKeeps.err
  · split
    · exact CardKeeps.err
    · split
      · exact CardKeeps.err
      · refine State.reloadUsers_keeps ⟨h.1, h.2.1, Nat.le_trans (List.length_filter_le _ _) h.2.2.1, fun m => ?_, fun e he => ?_⟩
        · by_cases hm : m = byteAt c.params 0
          · subst hm
            intro hs
            simp only [State.maskSlot, State.setSlot, State.dropDerived, Tab.getD_put_self] at hs
            rcases hs with hs | hs <;> cases hs
          · simp only [State.maskSlot, State.setSlot, State.dropDerived, Tab.getD_put_other _ _ _ hm]
            exact h.2.2.2.1 m
        · simp only [State.maskSlot, State.dropDerived, State.setSlot, State.randomBytes, List.mem_filter, bne_iff_ne, ne_eq] at he
          simp only [State.maskSlot, State.setSlot, State.dropDerived, State.randomBytes, Tab.getD_put_other _ _ _ he.2]
          exact h.2.2.2.2 e he.1

theorem execAckTamper_keeps {P a0 a1 s2} (h2 : Keeps P s2) : OutcomeKeeps P (execAckTamper a0 a1 s2) := by
  rw [execAckTamper]
  with_reducible repeat' first
    | assumption | exact cardAckTamper_keeps (by assumption) | refine runCard_keeps ?_ (fun _ _ _ => ?_)

theorem execEraseKey_keeps {P a0 a1 s2} (h2 : Keeps P s2) : OutcomeKeeps P (execEraseKey a0 a1 s2) := by
  rw [execEraseKey]
  with_reducible repeat' first
    | assumption | exact cardEraseKey_keeps (by assumption) | refine runCard_keeps ?_ (fun _ _ _ => ?_)

theorem execGetHaloStatus_keeps {P a0 a1 s2} (h2 : Keeps P s2) : OutcomeKeeps P (execGetHaloStatus a0 a1 s2) := by
  rw [execGetHaloStatus]
  with_reducible repeat' first
    | assumption | exact cardGetHaloStatus_keeps (by assumption) | refine runCard_keeps ?_ (fun _ _ _ => ?_)

theorem execGetKeyInfo_keeps {P a0 a1 s2} (h2 : Keeps P s2) : OutcomeKeeps P (execGetKeyInfo a0 a1 s2) := by
  rw [execGetKeyInfo]
  with_reducible repeat' first
    | assumption | exact cardGetKeyInfo_keeps (by assumption) | refine runCard_keeps ?_ (fun _ _ _ => ?_)

theorem execListKeys_keeps {P a0 a1 s2} (h2 : Keeps P s2) : OutcomeKeeps P (execListKeys a0 a1 s2) := by
  rw [execListKeys]
  with_reducible repeat' first
    | assumption | exact cardListKeys_keeps (by assumption) | refine runCard_keeps ?_ (fun _ _ _ => ?_)

theorem execOldKeyExpiry_keeps {P a0 a1 s2} (h2 : Keeps P s2) : OutcomeKeeps P (execOldKeyExpiry a0 a1 s2) := by
  rw [execOldKeyExpiry]
  with_reducible repeat' first | assumption | refine State.advance_keeps ?_ | split | refine OutcomeKeeps.next ?_

theorem execRemask_keeps {P a0 a1 s2} (h2 : Keeps P s2) : OutcomeKeeps P (execRemask a0 a1 s2) := by
  rw [execRemask]
  with_reducible repeat' first
    | assumption | refine State.advance_keeps ?_ | refine State.remask_keeps ?_ | refine State.haloCount_keeps ?_
    | split | refine OutcomeKeeps.next ?_

theorem execTagCheck_keeps {P a0 a1 a2 s3} (h3 : Keeps P s3) : OutcomeKeeps P (execTagCheck a0 a1 a2 s3) := by
  rw [execTagCheck]
  with_reducible repeat' first
    | assumption | refine State.tagCheck_keeps ?_ | refine State.advance_keeps ?_ | refine OutcomeKeeps.next ?_

theorem execTamper_keeps {P a0 a1 s2} (h2 : Keeps P s2) : OutcomeKeeps P (execTamper a0 a1 s2) := by
  rw [execTamper]
  with_reducible repeat' first
    | assumption | refine State.advance_keeps ?_ | refine State.tamperLine_keeps ?_ | refine State.zeroise_keeps ?_
    | split | refine OutcomeKeeps.next ?_

theorem execTapInstruction_keeps {P dt i s} (h : Keeps P s) : OutcomeKeeps P (execTapInstruction dt i s) := by
  rw [execTapInstruction.eq_def]
  exact (State.advance_keeps h : Keeps P _)

theorem execTapReset_keeps {P a0 s1} (h1 : Keeps P s1) : OutcomeKeeps P (execTapReset a0 s1) := by
  rw [execTapReset]
  with_reducible repeat' first | assumption | refine State.advance_keeps ?_ | refine OutcomeKeeps.next ?_

theorem execVerifyKey_keeps {P a0 a1 s2} (h2 : Keeps P s2) : OutcomeKeeps P (execVerifyKey a0 a1 s2) := by
  rw [execVerifyKey]
  with_reducible repeat' first
    | assumption | exact cardVerifyKey_keeps (by assumption) | refine runCard_keeps ?_ (fun _ _ _ => ?_)

theorem execWriteKey_keeps {P a0 a1 s2} (h2 : Keeps P s2) : OutcomeKeeps P (execWriteKey a0 a1 s2) := by
  rw [execWriteKey]
  with_reducible repeat' first
    | assumption | exact cardWriteKey_keeps (by assumption) | refine runCard_keeps ?_ (fun _ _ _ => ?_)

end Sys2Proof.Machine
end

