-- ==== Sys2Proof/Laws/KeptSwitch.lean ====
section
/-! SUPPORT. What the switch, the ports and the subscriptions leave true: each lemma `f_keeps` says that `f` keeps the pending queue
and the invariant of Safety.lean (`Keeps`). -/
namespace Sys2Proof.Machine
open Sys2Proof

theorem State.setEntity_keeps {P s0 a1 a2} (h0 : Keeps P s0) : Keeps P (State.setEntity s0 a1 a2) := by
  rw [State.setEntity]
  assumption

theorem State.modEntity_keeps {P s0 a1 a2} (h0 : Keeps P s0) : Keeps P (State.modEntity s0 a1 a2) := by
  rw [State.modEntity]
  with_reducible repeat' first | assumption | refine State.setEntity_keeps ?_

theorem State.modSource_keeps {P s0 a1 a2 a3} (h0 : Keeps P s0) : Keeps P (State.modSource s0 a1 a2 a3) := by
  rw [State.modSource]
  with_reducible repeat' first | assumption | refine State.modEntity_keeps ?_

theorem State.entCount_keeps {P s0 a1 a2} (h0 : Keeps P s0) : Keeps P (State.entCount s0 a1 a2) := by
  rw [State.entCount]
  with_reducible repeat' first | assumption | refine State.modEntity_keeps ?_

theorem State.touchSource_keeps {P s0 a1 a2} (h0 : Keeps P s0) : Keeps P (State.touchSource s0 a1 a2).2 := by
  rw [State.touchSource]
  with_reducible repeat' first | assumption | refine State.modEntity_keeps ?_ | refine State.entCount_keeps ?_ | split

theorem State.consumerMark_keeps {P s0 a1} (h0 : Keeps P s0) : Keeps P (State.consumerMark s0 a1) := by
  rw [State.consumerMark]
  with_reducible repeat' first
    | assumption | refine Keeps.snd (by assumption) (State.touchSource_keeps ?_) | refine State.modSource_keeps ?_
    | split

theorem State.nextTx_keeps {P s0 a1 a2} (h0 : Keeps P s0) : Keeps P (State.nextTx s0 a1 a2).2 := by
  rw [State.nextTx]
  with_reducible repeat' first | assumption | refine State.modEntity_keeps ?_

theorem State.originateOn_keeps {P s0 a1 a2 a3 a4 a5} (h0 : Keeps P s0) : Keeps P
    (State.originateOn s0 a1 a2 a3 a4 a5) := by
  rw [State.originateOn]
  with_reducible repeat' first | assumption | refine State.originate_keeps ?_ | refine State.nextTx_keeps ?_ | split

theorem State.learn_keeps {P s0 a1 a2 a3} (h0 : Keeps P s0) : Keeps P (State.learn s0 a1 a2 a3) := by
  rw [State.learn]
  with_reducible repeat' first | assumption | refine State.swCount_keeps ?_ | split | dsimp only

theorem State.forwardTo_keeps {P s0 a1 a2 a3} (h0 : Keeps P s0) : Keeps P (State.forwardTo s0 a1 a2 a3) := by
  rw [State.forwardTo]
  with_reducible repeat' first
    | assumption | refine Keeps.snd (by assumption) (State.enqueue_keeps ?_) | refine State.settleTx_keeps ?_
    | refine State.emit_keeps ?_ | refine State.qCount_keeps ?_ | refine State.enqueue_keeps ?_
    | refine State.startTx_keeps ?_ | split

theorem State.sendOut_keeps {P s w v e l} (h : Keeps P s) : Keeps P (State.sendOut s w v e l) := by
  induction l generalizing s with
  | nil => exact h
  | cons o l ih =>
    simp only [State.sendOut]
    refine ih ?_
    split
    · split
      · exact h
      · exact State.forwardTo_keeps (State.forwardTo_keeps (State.nextTx_keeps h))
    · exact State.forwardTo_keeps h

theorem State.switchFrame_keeps {P s0 a1 a2 a3 a4 a5} (h0 : Keeps P s0) : Keeps P
    (State.switchFrame s0 a1 a2 a3 a4 a5) := by
  rw [State.switchFrame]
  with_reducible repeat' first
    | assumption | refine State.swCount_keeps ?_ | refine State.learn_keeps ?_ | refine State.modSwp_keeps ?_
    | refine State.sendOut_keeps ?_ | split | dsimp only

theorem State.drainF_keeps {P f s n x} (h : Keeps P s) : Keeps P (State.drainF f s n x) := by
  induction f generalizing s with
  | zero => exact h
  | succ f ih =>
    simp only [State.drainF]
    split
    · exact h
    · split
      · exact h
      · exact ih (State.switchFrame_keeps (State.modSource_keeps (State.modEntity_keeps h)))

theorem State.forwardMark_keeps {P s0 a1 a2 a3} (h0 : Keeps P s0) : Keeps P (State.forwardMark s0 a1 a2 a3).2 := by
  rw [State.forwardMark]
  with_reducible repeat' first
    | assumption | refine Keeps.snd (by assumption) (State.touchSource_keeps ?_) | refine State.entCount_keeps ?_
    | refine State.modSource_keeps ?_ | split

theorem State.ringForward_keeps {P s0 a1 a2 a3 a4 a5 a6} (h0 : Keeps P s0) : Keeps P
    (State.ringForward s0 a1 a2 a3 a4 a5 a6) := by
  rw [State.ringForward]
  with_reducible repeat' first
    | assumption | refine State.entCount_keeps ?_ | refine State.modSource_keeps ?_ | refine State.forwardTo_keeps ?_
    | split

theorem State.translate__keeps {P s0 a1 a2 a3 a4 a5 a6 a7} (h0 : Keeps P s0) : Keeps P
    (State.translate_ s0 a1 a2 a3 a4 a5 a6 a7) := by
  rw [State.translate_]
  with_reducible repeat' first
    | assumption | refine State.switchFrame_keeps ?_ | refine State.modSource_keeps ?_
    | refine State.entCount_keeps ?_ | refine State.modEntity_keeps ?_ | split | dsimp only

theorem State.receive_keeps {P s0 a1 a2 a3 a4} (h0 : Keeps P s0) : Keeps P (State.receive s0 a1 a2 a3 a4) := by
  rw [State.receive]
  with_reducible repeat' first
    | assumption | refine State.switchFrame_keeps ?_ | refine State.entCount_keeps ?_
    | refine State.forwardMark_keeps ?_ | refine State.ringForward_keeps ?_ | refine State.drainF_keeps ?_
    | refine State.translate__keeps ?_ | split | dsimp only

theorem State.setRec_keeps {P s0 a1 a2} (h0 : Keeps P s0) : Keeps P (State.setRec s0 a1 a2) := by
  rw [State.setRec]
  assumption

theorem State.capLate_keeps {P s0 a1 a2 a3 a4} (h0 : Keeps P s0) : Keeps P (State.capLate s0 a1 a2 a3 a4).2 := by
  rw [State.capLate]
  with_reducible repeat' first | assumption | refine Keeps.foldl ?_ (fun _ _ _ => ?_)

theorem State.fileRings_keeps {P s0 a1 a2 a3} (h0 : Keeps P s0) : Keeps P (State.fileRings s0 a1 a2 a3) := by
  rw [State.fileRings]
  with_reducible repeat' first
    | assumption | refine State.putEntry_keeps ?_ | split | refine Keeps.foldl ?_ (fun _ _ _ => ?_)

theorem State.setStream_keeps {P s0 a1 a2} (h0 : Keeps P s0) : Keeps P (State.setStream s0 a1 a2) := by
  rw [State.setStream]
  assumption

theorem State.closeSlot_keeps {P s0 a1 a2} (h0 : Keeps P s0) : Keeps P (State.closeSlot s0 a1 a2) := by
  rw [State.closeSlot]
  with_reducible repeat' first
    | assumption | refine State.setStream_keeps ?_ | refine State.fileRings_keeps ?_ | split | dsimp only

theorem State.dupDiffer_keeps {P s0 a1 a2} (h0 : Keeps P s0) : Keeps P (State.dupDiffer s0 a1 a2).2 := by
  rw [State.dupDiffer]
  with_reducible repeat' first | assumption | refine State.post_keeps ?_ | split

theorem State.filePosition_keeps {P s0 a1 a2 a3 a4} (h0 : Keeps P s0) : Keeps P (State.filePosition s0 a1 a2 a3 a4).2
    := by
  rw [State.filePosition]
  with_reducible repeat' first
    | ((try lift_lets -underBinder); intro x; first | (refine Keeps.ex P x ?_ (fun y e _ => ?_); (subst x; skip); rotate_left; ((try rw [← e]); clear e); rotate_right) | (refine Keeps.ex2 P x ?_ (fun y e _ => ?_); (subst x; skip); rotate_left; ((try rw [← e]); clear e); rotate_right) | (refine Keeps.exD x (fun y e => ?_); ((try rw [← e]); clear e)))
    | assumption | refine State.capLate_keeps ?_ | refine State.dupDiffer_keeps ?_ | refine State.fileRings_keeps ?_
    | split

theorem State.fileAll_keeps {P s n x ta l} (h : Keeps P s) : Keeps P (State.fileAll s n x ta l).2 := by
  induction l generalizing s x with
  | nil => exact h
  | cons c l ih => exact ih (State.filePosition_keeps h)

theorem State.passFive_keeps {P s0 a1 a2 a3} (h0 : Keeps P s0) : Keeps P (State.passFive s0 a1 a2 a3).2 := by
  rw [State.passFive]
  with_reducible repeat' first | assumption | refine State.post_keeps ?_ | split

theorem State.passSix_keeps {P s0 a1 a2 a3} (h0 : Keeps P s0) : Keeps P (State.passSix s0 a1 a2 a3).2.2 := by
  rw [State.passSix]
  with_reducible repeat' first
    | assumption | refine State.post_keeps ?_ | refine State.mirrorDelay_keeps ?_ | split | dsimp only

theorem State.takeAnchor_keeps {P s0 a1 a2 a3 a4 a5} (h0 : Keeps P s0) : Keeps P
    (State.takeAnchor s0 a1 a2 a3 a4 a5).2 := by
  rw [State.takeAnchor]
  with_reducible repeat' first | assumption | refine State.post_keeps ?_ | split | dsimp only

theorem State.svChecked_keeps {P s0 a1 a2 a3 a4 a5} (h0 : Keeps P s0) : Keeps P (State.svChecked s0 a1 a2 a3 a4 a5).2
    := by
  rw [State.svChecked]
  with_reducible repeat' first
    | assumption | refine Keeps.snd (by assumption) (State.passFive_keeps ?_) | refine State.setStream_keeps ?_
    | refine State.takeAnchor_keeps ?_ | refine State.passSix_keeps ?_ | refine State.fileAll_keeps ?_ | split

theorem State.twChecked_keeps {P s0 a1 a2 a3 a4} (h0 : Keeps P s0) : Keeps P (State.twChecked s0 a1 a2 a3 a4).2 := by
  rw [State.twChecked]
  with_reducible repeat' first
    | assumption | refine Keeps.snd (by assumption) (State.passFive_keeps ?_) | refine State.setStream_keeps ?_
    | refine State.takeAnchor_keeps ?_ | refine State.passSix_keeps ?_ | refine State.fileAll_keeps ?_ | split

theorem State.ingestFrame_keeps {P s0 a1 a2 a3 a4} (h0 : Keeps P s0) : Keeps P (State.ingestFrame s0 a1 a2 a3 a4).2
    := by
  rw [State.ingestFrame]
  with_reducible repeat' first
    | assumption | refine State.setStream_keeps ?_ | refine State.svChecked_keeps ?_ | refine State.twChecked_keeps ?_
    | split | dsimp only

theorem State.modStream_keeps {P s0 a1 a2} (h0 : Keeps P s0) : Keeps P (State.modStream s0 a1 a2) := by
  rw [State.modStream]
  assumption

theorem State.svFrame_keeps {P s0 a1 a2 a3} (h0 : Keeps P s0) : Keeps P (State.svFrame s0 a1 a2 a3) := by
  rw [State.svFrame]
  with_reducible repeat' first
    | assumption | refine Keeps.snd (by assumption) (State.ingestFrame_keeps ?_) | refine State.entCount_keeps ?_
    | refine State.consumerMark_keeps ?_ | split | dsimp only

theorem State.setSub_keeps {P s0 a1 a2} (h0 : Keeps P s0) : Keeps P (State.setSub s0 a1 a2) := by
  rw [State.setSub]
  assumption

theorem State.driveSub_keeps {P s0 a1 a2 a3} (h0 : Keeps P s0) : Keeps P (State.driveSub s0 a1 a2 a3) := by
  rw [State.driveSub]
  with_reducible repeat' first
    | assumption | refine State.setSignal_keeps ?_ | split | refine Keeps.foldl ?_ (fun _ _ _ => ?_)

theorem State.gooseSequence_keeps {P s0 a1 a2 a3 a4 a5} (h0 : Keeps P s0) : Keeps P
    (State.gooseSequence s0 a1 a2 a3 a4 a5) := by
  rw [State.gooseSequence]
  with_reducible repeat' first
    | assumption | refine State.driveSub_keeps ?_ | refine State.setSub_keeps ?_ | split | dsimp only

theorem State.gooseChecks_keeps {P s0 a1 a2 a3 a4} (h0 : Keeps P s0) : Keeps P (State.gooseChecks s0 a1 a2 a3 a4).2
    := by
  rw [State.gooseChecks]
  with_reducible repeat' first
    | assumption | refine State.setSub_keeps ?_ | refine State.gooseSequence_keeps ?_ | split | dsimp only

theorem State.gooseDeliver_keeps {P s0 a1 a2 a3} (h0 : Keeps P s0) : Keeps P (State.gooseDeliver s0 a1 a2 a3) := by
  rw [State.gooseDeliver]
  with_reducible repeat' first
    | assumption | refine Keeps.snd (by assumption) (State.gooseChecks_keeps ?_) | refine State.entCount_keeps ?_
    | refine State.consumerMark_keeps ?_ | split

theorem State.drainC_keeps {P f s n x} (h : Keeps P s) : Keeps P (State.drainC s f n x) := by
  induction f generalizing s with
  | zero => exact h
  | succ f ih =>
    simp only [State.drainC]
    split
    · split
      · exact h
      · exact ih (State.gooseDeliver_keeps (State.modSource_keeps (State.modEntity_keeps h)))
    · exact h

theorem State.drainAfter_keeps {P s0 a1 a2} (h0 : Keeps P s0) : Keeps P (State.drainAfter s0 a1 a2) := by
  rw [State.drainAfter]
  with_reducible repeat' first | assumption | refine State.drainC_keeps ?_ | split

theorem State.gooseFrame_keeps {P s0 a1 a2 a3} (h0 : Keeps P s0) : Keeps P (State.gooseFrame s0 a1 a2 a3) := by
  rw [State.gooseFrame]
  with_reducible repeat' first
    | assumption | refine State.gooseDeliver_keeps ?_ | refine State.entCount_keeps ?_
    | refine State.modEntity_keeps ?_ | refine State.modSource_keeps ?_ | refine State.drainC_keeps ?_ | split
    | dsimp only

theorem cardGetBufferStatus_keeps {P s c} (h : Keeps P s) : CardKeeps P ((cardGetBufferStatus).run s c) := by
  dsimp only [cardGetBufferStatus]
  with_reducible repeat' first | assumption | refine CardKeeps.ok ?_

theorem cardGetFdb_keeps {P s c} (h : Keeps P s) : CardKeeps P ((cardGetFdb).run s c) := by
  dsimp only [cardGetFdb]
  with_reducible repeat' first | assumption | split | refine CardKeeps.ok ?_

theorem cardGetQueueCounters_keeps {P s c} (h : Keeps P s) : CardKeeps P ((cardGetQueueCounters).run s c) := by
  dsimp only [cardGetQueueCounters]
  with_reducible repeat' first
    | assumption | refine State.settleTx_keeps ?_ | refine State.modSwp_keeps ?_ | split | refine CardKeeps.ok ?_

theorem cardGetRedundancyStatus_keeps {P s c} (h : Keeps P s) : CardKeeps P ((cardGetRedundancyStatus).run s c) := by
  dsimp only [cardGetRedundancyStatus]
  with_reducible repeat' first | assumption | refine State.setEntity_keeps ?_ | split | refine CardKeeps.ok ?_

theorem cardGetSwitchCounters_keeps {P s c} (h : Keeps P s) : CardKeeps P ((cardGetSwitchCounters).run s c) := by
  dsimp only [cardGetSwitchCounters]
  with_reducible repeat' first | assumption | refine State.modSwp_keeps ?_ | split | refine CardKeeps.ok ?_

theorem cardSetFdbEntry_keeps {P s c} (h : Keeps P s) : CardKeeps P ((cardSetFdbEntry).run s c) := by
  dsimp only [cardSetFdbEntry]
  with_reducible repeat' first | assumption | refine CardOut.noRes_keeps | split | refine CardKeeps.ok ?_

theorem cardSetGateList_keeps {P s c} (h : Keeps P s) : CardKeeps P ((cardSetGateList).run s c) := by
  dsimp only [cardSetGateList]
  with_reducible repeat' first
    | assumption | refine CardOut.wrong_keeps | refine State.modSwp_keeps ?_ | split | refine CardKeeps.ok ?_
    | exact CardKeeps.err

theorem cardSetPolicer_keeps {P s c} (h : Keeps P s) : CardKeeps P ((cardSetPolicer).run s c) := by
  dsimp only [cardSetPolicer]
  with_reducible repeat' first | assumption | refine State.modSwp_keeps ?_ | refine CardKeeps.ok ?_

theorem cardSetPortSwitch_keeps {P s c} (h : Keeps P s) : CardKeeps P ((cardSetPortSwitch).run s c) := by
  dsimp only [cardSetPortSwitch]
  with_reducible repeat' first
    | assumption | refine CardOut.wrong_keeps | refine State.modSwp_keeps ?_ | split | refine CardKeeps.ok ?_

theorem cardSetQueue_keeps {P s c} (h : Keeps P s) : CardKeeps P ((cardSetQueue).run s c) := by
  dsimp only [cardSetQueue]
  with_reducible repeat' first
    | assumption | refine State.modSwp_keeps ?_ | refine CardOut.noRes_keeps | split | refine CardKeeps.ok ?_

theorem cardSetRedundancy_keeps {P s c} (h : Keeps P s) : CardKeeps P ((cardSetRedundancy).run s c) := by
  dsimp only [cardSetRedundancy]
  with_reducible repeat' first
    | assumption | refine CardOut.wrong_keeps | refine State.setEntity_keeps ?_ | split | refine CardKeeps.ok ?_

theorem cardSetSwitch_keeps {P s c} (h : Keeps P s) : CardKeeps P ((cardSetSwitch).run s c) := by
  dsimp only [cardSetSwitch]
  with_reducible repeat' first | assumption | refine CardKeeps.ok ?_

theorem cardSetVlan_keeps {P s c} (h : Keeps P s) : CardKeeps P ((cardSetVlan).run s c) := by
  dsimp only [cardSetVlan]
  with_reducible repeat' first | assumption | refine CardOut.wrong_keeps | split | refine CardKeeps.ok ?_

theorem State.pauseReceived_keeps {P s0 a1 a2} (h0 : Keeps P s0) : Keeps P (State.pauseReceived s0 a1 a2) := by
  rw [State.pauseReceived]
  with_reducible repeat' first | assumption | refine State.portCount_keeps ?_ | refine State.setPort_keeps ?_ | split

theorem execFdbAgeExpiry_keeps {P a0 a1 a2 s3} (h3 : Keeps P s3) : OutcomeKeeps P (execFdbAgeExpiry a0 a1 a2 s3) := by
  rw [execFdbAgeExpiry]
  with_reducible repeat' first | assumption | refine State.advance_keeps ?_ | refine OutcomeKeeps.next ?_

theorem execFrameReceived_keeps {P a0 a1 a2 a3 a4 s5} (h5 : Keeps P s5) : OutcomeKeeps P
    (execFrameReceived a0 a1 a2 a3 a4 s5) := by
  rw [execFrameReceived]
  with_reducible repeat' first
    | ((try lift_lets -underBinder); intro x; first | (refine Keeps.ex P x ?_ (fun y e _ => ?_); (subst x; skip); rotate_left; ((try rw [← e]); clear e); rotate_right) | (refine Keeps.ex2 P x ?_ (fun y e _ => ?_); (subst x; skip); rotate_left; ((try rw [← e]); clear e); rotate_right) | subst x)
    | assumption | refine State.advance_keeps ?_ | refine State.portCountN_keeps ?_ | refine State.receive_keeps ?_
    | refine State.portCount_keeps ?_ | refine State.modPort_keeps ?_ | refine State.pauseReceived_keeps ?_
    | refine State.drainAfter_keeps ?_ | split | refine OutcomeKeeps.next ?_ | dsimp only

theorem execFrameTransmitStart_keeps {P a0 a1 a2 s3} (h3 : Keeps P s3) : OutcomeKeeps P
    (execFrameTransmitStart a0 a1 a2 s3) := by
  rw [execFrameTransmitStart]
  with_reducible repeat' first
    | assumption | refine State.advance_keeps ?_ | refine State.transmit_keeps ?_ | split
    | refine OutcomeKeeps.next ?_

theorem execGateEvent_keeps {P a0 a1 s2} (h2 : Keeps P s2) : OutcomeKeeps P (execGateEvent a0 a1 s2) := by
  rw [execGateEvent]
  with_reducible repeat' first
    | assumption | refine State.advance_keeps ?_ | refine State.setSwp_keeps ?_ | split | refine OutcomeKeeps.next ?_

theorem execGetBufferStatus_keeps {P a0 a1 s2} (h2 : Keeps P s2) : OutcomeKeeps P (execGetBufferStatus a0 a1 s2) := by
  rw [execGetBufferStatus]
  with_reducible repeat' first
    | assumption | exact cardGetBufferStatus_keeps (by assumption) | refine runCard_keeps ?_ (fun _ _ _ => ?_)

theorem execGetFdb_keeps {P a0 a1 s2} (h2 : Keeps P s2) : OutcomeKeeps P (execGetFdb a0 a1 s2) := by
  rw [execGetFdb]
  with_reducible repeat' first
    | assumption | exact cardGetFdb_keeps (by assumption) | refine runCard_keeps ?_ (fun _ _ _ => ?_)

theorem execGetQueueCounters_keeps {P a0 a1 s2} (h2 : Keeps P s2) : OutcomeKeeps P (execGetQueueCounters a0 a1 s2)
    := by
  rw [execGetQueueCounters]
  with_reducible repeat' first
    | assumption | exact cardGetQueueCounters_keeps (by assumption) | refine runCard_keeps ?_ (fun _ _ _ => ?_)

theorem execGetRedundancyStatus_keeps {P a0 a1 s2} (h2 : Keeps P s2) : OutcomeKeeps P
    (execGetRedundancyStatus a0 a1 s2) := by
  rw [execGetRedundancyStatus]
  with_reducible repeat' first
    | assumption | exact cardGetRedundancyStatus_keeps (by assumption) | refine runCard_keeps ?_ (fun _ _ _ => ?_)

theorem execGetSwitchCounters_keeps {P a0 a1 s2} (h2 : Keeps P s2) : OutcomeKeeps P (execGetSwitchCounters a0 a1 s2)
    := by
  rw [execGetSwitchCounters]
  with_reducible repeat' first
    | assumption | exact cardGetSwitchCounters_keeps (by assumption) | refine runCard_keeps ?_ (fun _ _ _ => ?_)

theorem execSetFdbEntry_keeps {P a0 a1 s2} (h2 : Keeps P s2) : OutcomeKeeps P (execSetFdbEntry a0 a1 s2) := by
  rw [execSetFdbEntry]
  with_reducible repeat' first
    | assumption | exact cardSetFdbEntry_keeps (by assumption) | refine runCard_keeps ?_ (fun _ _ _ => ?_)

theorem execSetGateList_keeps {P a0 a1 s2} (h2 : Keeps P s2) : OutcomeKeeps P (execSetGateList a0 a1 s2) := by
  rw [execSetGateList]
  with_reducible repeat' first
    | assumption | exact cardSetGateList_keeps (by assumption) | refine runCard_keeps ?_ (fun _ _ _ => ?_)

theorem execSetPolicer_keeps {P a0 a1 s2} (h2 : Keeps P s2) : OutcomeKeeps P (execSetPolicer a0 a1 s2) := by
  rw [execSetPolicer]
  with_reducible repeat' first
    | assumption | exact cardSetPolicer_keeps (by assumption) | refine runCard_keeps ?_ (fun _ _ _ => ?_)

theorem execSetPortSwitch_keeps {P a0 a1 s2} (h2 : Keeps P s2) : OutcomeKeeps P (execSetPortSwitch a0 a1 s2) := by
  rw [execSetPortSwitch]
  with_reducible repeat' first
    | assumption | exact cardSetPortSwitch_keeps (by assumption) | refine runCard_keeps ?_ (fun _ _ _ => ?_)

theorem execSetQueue_keeps {P a0 a1 s2} (h2 : Keeps P s2) : OutcomeKeeps P (execSetQueue a0 a1 s2) := by
  rw [execSetQueue]
  with_reducible repeat' first
    | assumption | exact cardSetQueue_keeps (by assumption) | refine runCard_keeps ?_ (fun _ _ _ => ?_)

theorem execSetRedundancy_keeps {P a0 a1 s2} (h2 : Keeps P s2) : OutcomeKeeps P (execSetRedundancy a0 a1 s2) := by
  rw [execSetRedundancy]
  with_reducible repeat' first
    | assumption | exact cardSetRedundancy_keeps (by assumption) | refine runCard_keeps ?_ (fun _ _ _ => ?_)

theorem execSetSwitch_keeps {P a0 a1 s2} (h2 : Keeps P s2) : OutcomeKeeps P (execSetSwitch a0 a1 s2) := by
  rw [execSetSwitch]
  with_reducible repeat' first
    | assumption | exact cardSetSwitch_keeps (by assumption) | refine runCard_keeps ?_ (fun _ _ _ => ?_)

theorem execSetVlan_keeps {P a0 a1 s2} (h2 : Keeps P s2) : OutcomeKeeps P (execSetVlan a0 a1 s2) := by
  rw [execSetVlan]
  with_reducible repeat' first
    | assumption | exact cardSetVlan_keeps (by assumption) | refine runCard_keeps ?_ (fun _ _ _ => ?_)

theorem execSourceEntryAge_keeps {P a0 a1 a2 s3} (h3 : Keeps P s3) : OutcomeKeeps P (execSourceEntryAge a0 a1 a2 s3)
    := by
  rw [execSourceEntryAge]
  with_reducible repeat' first
    | assumption | refine State.advance_keeps ?_ | refine State.entCount_keeps ?_ | refine State.modEntity_keeps ?_
    | split | refine OutcomeKeeps.next ?_

theorem execSupervisionSend_keeps {P a0 a1 s2} (h2 : Keeps P s2) : OutcomeKeeps P (execSupervisionSend a0 a1 s2) := by
  rw [execSupervisionSend]
  with_reducible repeat' first
    | assumption | refine State.advance_keeps ?_ | refine State.modEntity_keeps ?_ | refine State.nextTx_keeps ?_
    | refine State.originateOn_keeps ?_ | split | refine OutcomeKeeps.next ?_

theorem execThresholdDecay_keeps {P a0 a1 s2} (h2 : Keeps P s2) : OutcomeKeeps P (execThresholdDecay a0 a1 s2) := by
  rw [execThresholdDecay]
  with_reducible repeat' first
    | assumption | refine State.advance_keeps ?_ | refine State.setPort_keeps ?_ | split | refine OutcomeKeeps.next ?_

theorem State.setResult_keeps {P s0 a1 a2 a3} (h0 : Keeps P s0) : Keeps P (State.setResult s0 a1 a2 a3) := by
  rw [State.setResult]
  assumption

theorem State.leaveUp_keeps {P s0 a1 a2 a3 a4} (h0 : Keeps P s0) : Keeps P (State.leaveUp s0 a1 a2 a3 a4) := by
  rw [State.leaveUp]
  with_reducible repeat' first | assumption | refine State.flushPort_keeps ?_ | refine State.modPort_keeps ?_ | split

theorem State.takePorts_keeps {P s0 a1} (h0 : Keeps P s0) : Keeps P (State.takePorts s0 a1) := by
  rw [State.takePorts]
  with_reducible repeat' first
    | assumption | refine State.leaveUp_keeps ?_ | refine State.modPort_keeps ?_ | split
    | refine Keeps.foldl ?_ (fun _ _ _ => ?_)

theorem State.startVerify_keeps {P s0 a1} (h0 : Keeps P s0) : Keeps P (State.startVerify s0 a1) := by
  rw [State.startVerify]
  with_reducible repeat' first | assumption | refine State.setPort_keeps ?_ | refine State.emit_keeps ?_ | split

theorem cardGetPortCounters_keeps {P s c} (h : Keeps P s) : CardKeeps P ((cardGetPortCounters).run s c) := by
  dsimp only [cardGetPortCounters]
  with_reducible repeat' first
    | assumption | refine State.settleTx_keeps ?_ | refine State.setPort_keeps ?_ | split | refine CardKeeps.ok ?_

theorem cardGetPortStatus_keeps {P s c} (h : Keeps P s) : CardKeeps P ((cardGetPortStatus).run s c) := by
  dsimp only [cardGetPortStatus]
  with_reducible repeat' first | assumption | refine CardKeeps.ok ?_

theorem cardI2cTransfer_keeps {P s c} (h : Keeps P s) : CardKeeps P ((cardI2cTransfer).run s c) := by
  dsimp only [cardI2cTransfer]
  with_reducible repeat' first | assumption | refine CardKeeps.accepted ?_

theorem cardSetPort_keeps {P s c} (h : Keeps P s) : CardKeeps P ((cardSetPort).run s c) := by
  dsimp only [cardSetPort]
  with_reducible repeat' first
    | assumption | refine CardOut.wrong_keeps | refine State.leaveUp_keeps ?_ | refine State.modPort_keeps ?_
    | refine State.startVerify_keeps ?_ | split | refine CardKeeps.ok ?_ | exact CardKeeps.err

theorem execGetPortCounters_keeps {P a0 a1 s2} (h2 : Keeps P s2) : OutcomeKeeps P (execGetPortCounters a0 a1 s2) := by
  rw [execGetPortCounters]
  with_reducible repeat' first
    | assumption | exact cardGetPortCounters_keeps (by assumption) | refine runCard_keeps ?_ (fun _ _ _ => ?_)

theorem execGetPortStatus_keeps {P a0 a1 s2} (h2 : Keeps P s2) : OutcomeKeeps P (execGetPortStatus a0 a1 s2) := by
  rw [execGetPortStatus]
  with_reducible repeat' first
    | assumption | exact cardGetPortStatus_keeps (by assumption) | refine runCard_keeps ?_ (fun _ _ _ => ?_)

theorem execI2cTransfer_keeps {P a0 a1 s2} (h2 : Keeps P s2) : OutcomeKeeps P (execI2cTransfer a0 a1 s2) := by
  rw [execI2cTransfer]
  with_reducible repeat' first
    | assumption | exact cardI2cTransfer_keeps (by assumption) | refine runCard_keeps ?_ (fun _ _ _ => ?_)

theorem execI2cTransferComplete_keeps {P a0 a1 a2 a3 s4} (h4 : Keeps P s4) : OutcomeKeeps P
    (execI2cTransferComplete a0 a1 a2 a3 s4) := by
  rw [execI2cTransferComplete]
  with_reducible repeat' first
    | assumption | refine State.advance_keeps ?_ | refine State.setResult_keeps ?_ | refine State.emit_keeps ?_
    | split | refine OutcomeKeeps.next ?_ | dsimp only

theorem execPauseExpiry_keeps {P a0 a1 s2} (h2 : Keeps P s2) : OutcomeKeeps P (execPauseExpiry a0 a1 s2) := by
  rw [execPauseExpiry]
  with_reducible repeat' first
    | assumption | refine State.advance_keeps ?_ | refine State.modPort_keeps ?_ | split | refine OutcomeKeeps.next ?_

theorem execPauseReceived_keeps {P a0 a1 a2 s3} (h3 : Keeps P s3) : OutcomeKeeps P (execPauseReceived a0 a1 a2 s3)
    := by
  rw [execPauseReceived]
  with_reducible repeat' first
    | assumption | refine State.advance_keeps ?_ | refine State.portCount_keeps ?_ | refine State.setPort_keeps ?_
    | split | refine OutcomeKeeps.next ?_

theorem execPauseRepeat_keeps {P a0 a1 s2} (h2 : Keeps P s2) : OutcomeKeeps P (execPauseRepeat a0 a1 s2) := by
  rw [execPauseRepeat]
  with_reducible repeat' first
    | assumption | refine State.checkPause_keeps ?_ | refine State.advance_keeps ?_ | refine State.emit_keeps ?_
    | refine State.portCount_keeps ?_ | split | refine OutcomeKeeps.next ?_

theorem execPortLinkDown_keeps {P a0 a1 a2 a3 s4} (h4 : Keeps P s4) : OutcomeKeeps P
    (execPortLinkDown a0 a1 a2 a3 s4) := by
  rw [execPortLinkDown]
  with_reducible repeat' first
    | assumption | refine State.advance_keeps ?_ | refine State.portCount_keeps ?_ | refine State.leaveUp_keeps ?_
    | refine State.raiseInt_keeps ?_ | refine State.postC_keeps ?_ | refine State.modPort_keeps ?_ | split
    | refine OutcomeKeeps.next ?_

theorem execPortLinkUp_keeps {P a0 a1 a2 a3 s4} (h4 : Keeps P s4) : OutcomeKeeps P (execPortLinkUp a0 a1 a2 a3 s4)
    := by
  rw [execPortLinkUp]
  with_reducible repeat' first
    | assumption | refine State.advance_keeps ?_ | refine State.setPort_keeps ?_ | refine State.startVerify_keeps ?_
    | refine State.postC_keeps ?_ | split | refine OutcomeKeeps.next ?_

theorem execPreemptVerify_keeps {P a0 a1 a2 s3} (h3 : Keeps P s3) : OutcomeKeeps P (execPreemptVerify a0 a1 a2 s3)
    := by
  rw [execPreemptVerify]
  with_reducible repeat' first
    | assumption | refine State.advance_keeps ?_ | refine State.emit_keeps ?_ | refine State.setPort_keeps ?_ | split
    | refine OutcomeKeeps.next ?_

theorem execPreemptVerifyTimeout_keeps {P a0 a1 s2} (h2 : Keeps P s2) : OutcomeKeeps P
    (execPreemptVerifyTimeout a0 a1 s2) := by
  rw [execPreemptVerifyTimeout]
  with_reducible repeat' first
    | assumption | refine State.advance_keeps ?_ | refine State.setPort_keeps ?_ | refine State.emit_keeps ?_ | split
    | refine OutcomeKeeps.next ?_

theorem execSetPort_keeps {P a0 a1 s2} (h2 : Keeps P s2) : OutcomeKeeps P (execSetPort a0 a1 s2) := by
  rw [execSetPort]
  with_reducible repeat' first
    | assumption | exact cardSetPort_keeps (by assumption) | refine runCard_keeps ?_ (fun _ _ _ => ?_)

end Sys2Proof.Machine
end

