-- ==== Sys2Proof/Laws/KeptEngines.lean ====
section
/-! SUPPORT. What ingest, filters, the engines, the cycle and Anvil leave true: each lemma `f_keeps` says that `f` keeps the pending queue
and the invariant of Safety.lean (`Keeps`). -/
namespace Sys2Proof.Machine
open Sys2Proof

theorem cardFreeBank_keeps {P s c} (h : Keeps P s) : CardKeeps P ((cardFreeBank).run s c) := by
  dsimp only [cardFreeBank]
  with_reducible repeat' first | assumption | refine CardOut.wrong_keeps | split | refine CardKeeps.ok ?_

theorem cardGetChain_keeps {P s c} (h : Keeps P s) : CardKeeps P ((cardGetChain).run s c) := by
  dsimp only [cardGetChain]
  with_reducible repeat' first | assumption | refine CardOut.wrong_keeps | split | refine CardKeeps.ok ?_

theorem cardGetDetectors_keeps {P s c} (h : Keeps P s) : CardKeeps P ((cardGetDetectors).run s c) := by
  dsimp only [cardGetDetectors]
  with_reducible repeat' first | assumption | refine CardOut.wrong_keeps | split | refine CardKeeps.ok ?_

theorem cardLoadBank_keeps {P s c} (h : Keeps P s) : CardKeeps P ((cardLoadBank).run s c) := by
  dsimp only [cardLoadBank]
  with_reducible repeat' first
    | assumption | refine CardOut.wrong_keeps | split | refine CardKeeps.ok ?_ | exact CardKeeps.err

theorem cardReadBank_keeps {P s c} (h : Keeps P s) : CardKeeps P ((cardReadBank).run s c) := by
  dsimp only [cardReadBank]
  with_reducible repeat' first | assumption | refine CardOut.wrong_keeps | split | refine CardKeeps.ok ?_

theorem State.mapChains_keeps {P s0 a1 a2} (h0 : Keeps P s0) : Keeps P (State.mapChains s0 a1 a2) := by
  rw [State.mapChains]
  with_reducible repeat' first | assumption | refine Keeps.foldl ?_ (fun _ _ _ => ?_)

theorem cardSetChain_keeps {P s c} (h : Keeps P s) : CardKeeps P ((cardSetChain).run s c) := by
  dsimp only [cardSetChain]
  with_reducible repeat' first
    | assumption | refine CardOut.wrong_keeps | refine State.mapChains_keeps ?_ | split | refine CardKeeps.ok ?_

theorem cardSetDetector_keeps {P s c} (h : Keeps P s) : CardKeeps P ((cardSetDetector).run s c) := by
  dsimp only [cardSetDetector]
  with_reducible repeat' first
    | assumption | refine CardOut.wrong_keeps | refine State.releaseSignals_keeps ?_
    | refine State.bindSignal_keeps ?_ | split | refine CardKeeps.ok ?_

theorem cardSyncDecimators_keeps {P s c} (h : Keeps P s) : CardKeeps P ((cardSyncDecimators).run s c) := by
  dsimp only [cardSyncDecimators]
  with_reducible repeat' first
    | assumption | refine CardOut.wrong_keeps | refine State.mapChains_keeps ?_ | split | refine CardKeeps.ok ?_

theorem execChainTakePosition_keeps {P a0 a1 s2} (h2 : Keeps P s2) : OutcomeKeeps P (execChainTakePosition a0 a1 s2)
    := by
  rw [execChainTakePosition]
  with_reducible repeat' first
    | assumption | refine State.takePosition_keeps ?_ | refine State.advance_keeps ?_ | refine OutcomeKeeps.next ?_

theorem execFreeBank_keeps {P a0 a1 s2} (h2 : Keeps P s2) : OutcomeKeeps P (execFreeBank a0 a1 s2) := by
  rw [execFreeBank]
  with_reducible repeat' first
    | assumption | exact cardFreeBank_keeps (by assumption) | refine runCard_keeps ?_ (fun _ _ _ => ?_)

theorem execGetChain_keeps {P a0 a1 s2} (h2 : Keeps P s2) : OutcomeKeeps P (execGetChain a0 a1 s2) := by
  rw [execGetChain]
  with_reducible repeat' first
    | assumption | exact cardGetChain_keeps (by assumption) | refine runCard_keeps ?_ (fun _ _ _ => ?_)

theorem execGetDetectors_keeps {P a0 a1 s2} (h2 : Keeps P s2) : OutcomeKeeps P (execGetDetectors a0 a1 s2) := by
  rw [execGetDetectors]
  with_reducible repeat' first
    | assumption | exact cardGetDetectors_keeps (by assumption) | refine runCard_keeps ?_ (fun _ _ _ => ?_)

theorem execLoadBank_keeps {P a0 a1 s2} (h2 : Keeps P s2) : OutcomeKeeps P (execLoadBank a0 a1 s2) := by
  rw [execLoadBank]
  with_reducible repeat' first
    | assumption | exact cardLoadBank_keeps (by assumption) | refine runCard_keeps ?_ (fun _ _ _ => ?_)

theorem execReadBank_keeps {P a0 a1 s2} (h2 : Keeps P s2) : OutcomeKeeps P (execReadBank a0 a1 s2) := by
  rw [execReadBank]
  with_reducible repeat' first
    | assumption | exact cardReadBank_keeps (by assumption) | refine runCard_keeps ?_ (fun _ _ _ => ?_)

theorem execSetChain_keeps {P a0 a1 s2} (h2 : Keeps P s2) : OutcomeKeeps P (execSetChain a0 a1 s2) := by
  rw [execSetChain]
  with_reducible repeat' first
    | assumption | exact cardSetChain_keeps (by assumption) | refine runCard_keeps ?_ (fun _ _ _ => ?_)

theorem execSetDetector_keeps {P a0 a1 s2} (h2 : Keeps P s2) : OutcomeKeeps P (execSetDetector a0 a1 s2) := by
  rw [execSetDetector]
  with_reducible repeat' first
    | assumption | exact cardSetDetector_keeps (by assumption) | refine runCard_keeps ?_ (fun _ _ _ => ?_)

theorem execSyncDecimators_keeps {P a0 a1 s2} (h2 : Keeps P s2) : OutcomeKeeps P (execSyncDecimators a0 a1 s2) := by
  rw [execSyncDecimators]
  with_reducible repeat' first
    | assumption | exact cardSyncDecimators_keeps (by assumption) | refine runCard_keeps ?_ (fun _ _ _ => ?_)

theorem cardDefineStream_keeps {P s c} (h : Keeps P s) : CardKeeps P (cardDefineStream.run s c) := by
  dsimp only [cardDefineStream]
  split
  · exact CardKeeps.err
  · try split
    · exact CardKeeps.err
    all_goals split
    · exact CardKeeps.err
    · rename_i e
      exact CardKeeps.errWith (UseKeeps.of e (by
        split
        · trivial
        · split
          · exact State.useSlot_keeps h
          · trivial))
    · repeat' split
      all_goals first
        | exact CardKeeps.err
        | exact Keeps.foldl (State.setStream_keeps h) (fun _ _ h => h)

theorem cardEnableStream_keeps {P s c} (h : Keeps P s) : CardKeeps P ((cardEnableStream).run s c) := by
  dsimp only [cardEnableStream]
  with_reducible repeat' first
    | assumption | refine CardOut.wrong_keeps | refine State.setStream_keeps ?_ | split | refine CardKeeps.ok ?_

theorem cardGetChannel_keeps {P s c} (h : Keeps P s) : CardKeeps P ((cardGetChannel).run s c) := by
  dsimp only [cardGetChannel]
  with_reducible repeat' first | assumption | refine CardOut.wrong_keeps | split | refine CardKeeps.ok ?_

theorem cardGetIngestTotals_keeps {P s c} (h : Keeps P s) : CardKeeps P ((cardGetIngestTotals).run s c) := by
  dsimp only [cardGetIngestTotals]
  with_reducible repeat' first | assumption | refine CardKeeps.ok ?_

theorem cardGetStream_keeps {P s c} (h : Keeps P s) : CardKeeps P ((cardGetStream).run s c) := by
  dsimp only [cardGetStream]
  with_reducible repeat' first
    | assumption | refine CardOut.wrong_keeps | refine State.setStream_keeps ?_ | split | refine CardKeeps.ok ?_

theorem cardRemoveStream_keeps {P s c} (h : Keeps P s) : CardKeeps P ((cardRemoveStream).run s c) := by
  dsimp only [cardRemoveStream]
  with_reducible repeat' first
    | assumption | refine CardOut.wrong_keeps | refine State.releaseSignals_keeps ?_ | split | refine CardKeeps.ok ?_

theorem cardSetAlignment_keeps {P s c} (h : Keeps P s) : CardKeeps P ((cardSetAlignment).run s c) := by
  dsimp only [cardSetAlignment]
  with_reducible repeat' first
    | assumption | refine CardOut.wrong_keeps | refine State.setStream_keeps ?_ | split | refine CardKeeps.ok ?_

theorem State.streamLoss_keeps {P s0 a1} (h0 : Keeps P s0) : Keeps P (State.streamLoss s0 a1) := by
  rw [State.streamLoss]
  with_reducible repeat' first
    | assumption | refine State.raiseInt_keeps ?_ | refine State.post_keeps ?_ | refine State.setStream_keeps ?_
    | split

theorem execDefineStream_keeps {P a0 a1 s2} (h2 : Keeps P s2) : OutcomeKeeps P (execDefineStream a0 a1 s2) := by
  rw [execDefineStream]
  with_reducible repeat' first
    | assumption | exact cardDefineStream_keeps (by assumption) | refine runCard_keeps ?_ (fun _ _ _ => ?_)

theorem execEnableStream_keeps {P a0 a1 s2} (h2 : Keeps P s2) : OutcomeKeeps P (execEnableStream a0 a1 s2) := by
  rw [execEnableStream]
  with_reducible repeat' first
    | assumption | exact cardEnableStream_keeps (by assumption) | refine runCard_keeps ?_ (fun _ _ _ => ?_)

theorem execGetChannel_keeps {P a0 a1 s2} (h2 : Keeps P s2) : OutcomeKeeps P (execGetChannel a0 a1 s2) := by
  rw [execGetChannel]
  with_reducible repeat' first
    | assumption | exact cardGetChannel_keeps (by assumption) | refine runCard_keeps ?_ (fun _ _ _ => ?_)

theorem execGetIngestTotals_keeps {P a0 a1 s2} (h2 : Keeps P s2) : OutcomeKeeps P (execGetIngestTotals a0 a1 s2) := by
  rw [execGetIngestTotals]
  with_reducible repeat' first
    | assumption | exact cardGetIngestTotals_keeps (by assumption) | refine runCard_keeps ?_ (fun _ _ _ => ?_)

theorem execGetStream_keeps {P a0 a1 s2} (h2 : Keeps P s2) : OutcomeKeeps P (execGetStream a0 a1 s2) := by
  rw [execGetStream]
  with_reducible repeat' first
    | assumption | exact cardGetStream_keeps (by assumption) | refine runCard_keeps ?_ (fun _ _ _ => ?_)

theorem execRemoveStream_keeps {P a0 a1 s2} (h2 : Keeps P s2) : OutcomeKeeps P (execRemoveStream a0 a1 s2) := by
  rw [execRemoveStream]
  with_reducible repeat' first
    | assumption | exact cardRemoveStream_keeps (by assumption) | refine runCard_keeps ?_ (fun _ _ _ => ?_)

theorem execSetAlignment_keeps {P a0 a1 s2} (h2 : Keeps P s2) : OutcomeKeeps P (execSetAlignment a0 a1 s2) := by
  rw [execSetAlignment]
  with_reducible repeat' first
    | assumption | exact cardSetAlignment_keeps (by assumption) | refine runCard_keeps ?_ (fun _ _ _ => ?_)

theorem execSlotClose_keeps {P a0 a1 s2} (h2 : Keeps P s2) : OutcomeKeeps P (execSlotClose a0 a1 s2) := by
  rw [execSlotClose]
  with_reducible repeat' first
    | assumption | refine State.advance_keeps ?_ | refine State.closeSlot_keeps ?_ | split
    | refine OutcomeKeeps.next ?_

theorem execStreamLossTimeout_keeps {P a0 a1 s2} (h2 : Keeps P s2) : OutcomeKeeps P (execStreamLossTimeout a0 a1 s2)
    := by
  rw [execStreamLossTimeout]
  with_reducible repeat' first
    | assumption | refine State.streamLoss_keeps ?_ | refine State.advance_keeps ?_ | refine OutcomeKeeps.next ?_

theorem execSvFrameReceived_keeps {P a0 a1 a2 a3 s4} (h4 : Keeps P s4) : OutcomeKeeps P
    (execSvFrameReceived a0 a1 a2 a3 s4) := by
  rw [execSvFrameReceived]
  with_reducible repeat' first
    | assumption | refine State.svFrame_keeps ?_ | refine State.advance_keeps ?_ | refine OutcomeKeeps.next ?_

theorem State.endCopy_keeps {P s0 a1 a2} (h0 : Keeps P s0) : Keeps P (State.endCopy s0 a1 a2) := by
  rw [State.endCopy]
  with_reducible repeat' first | assumption | refine State.modEng_keeps ?_ (fun _ _ => ?_)

theorem State.noteIcount_keeps {P s0 a1} (h0 : Keeps P s0) : Keeps P (State.noteIcount s0 a1) := by
  rw [State.noteIcount]
  with_reducible repeat' first | assumption | refine State.modInst_keeps ?_

theorem State.postResult_keeps {P s0 a1 a2 a3} (h0 : Keeps P s0) : Keeps P (State.postResult s0 a1 a2 a3) := by
  rw [State.postResult]
  with_reducible repeat' first | assumption | refine State.modInst_keeps ?_ | split

theorem State.raiseExc_keeps {P s0 a1 a2 a3 a4 a5} (h0 : Keeps P s0) : Keeps P (State.raiseExc s0 a1 a2 a3 a4 a5)
    := by
  rw [State.raiseExc]
  with_reducible repeat' first
    | assumption | refine State.noteIcount_keeps ?_ | refine State.postResult_keeps ?_
    | refine State.modEng_keeps ?_ (fun _ _ => ?_)

theorem State.regionFail_keeps {P s0} (h0 : Keeps P s0) : Keeps P (State.regionFail s0) := by
  rw [State.regionFail]
  with_reducible repeat' first
    | assumption | refine State.failCluster_keeps ?_ | refine State.post_keeps ?_ | refine State.failEngine_keeps ?_
    | split | dsimp only

theorem State.postSignature_keeps {P s0 a1 a2} (h0 : Keeps P s0) : Keeps P (State.postSignature s0 a1 a2) := by
  rw [State.postSignature]
  with_reducible repeat' first
    | assumption | refine State.noteIcount_keeps ?_ | refine State.postResult_keeps ?_
    | refine State.modEng_keeps ?_ (fun _ _ => ?_)

theorem State.fetch_keeps {P s0 a1 a2 a3} (h0 : Keeps P s0) : Keeps P (State.fetch s0 a1 a2 a3).2 := by
  rw [State.fetch]
  with_reducible repeat' first | assumption | refine Keeps.snd (by assumption) (State.readRange_keeps ?_) | split

theorem State.storeBytes_keeps {P s0 a1 a2 a3 a4 a5} (h0 : Keeps P s0) : Keeps P (State.storeBytes s0 a1 a2 a3 a4 a5)
    := by
  rw [State.storeBytes]
  with_reducible repeat' first
    | assumption | refine State.modEng_keeps ?_ (fun _ _ => ?_) | refine State.engWrite_keeps ?_

theorem State.peApply_keeps {P s0 a1 a2 a3} (h0 : Keeps P s0) : Keeps P (State.peApply s0 a1 a2 a3) := by
  rw [State.peApply.eq_def]
  with_reducible repeat' first
    | assumption | refine State.modEng_keeps ?_ (fun _ _ => ?_) | refine State.raiseExc_keeps ?_
    | refine State.storeBytes_keeps ?_ | refine State.endCopy_keeps ?_ | split

theorem State.peRun_keeps {P s0 a1 a2 a3 a4} (h0 : Keeps P s0) (h4 : ∀ x0 x1 x2, Keeps P x2 → Keeps P
    (a4 x0 x1 x2).2) : Keeps P (State.peRun s0 a1 a2 a3 a4) := by
  rw [State.peRun]
  with_reducible repeat' first
    | assumption | refine h4 _ _ _ ?_ | refine Keeps.snd (by assumption) (State.fetch_keeps ?_)
    | refine State.regionFail_keeps ?_ | refine State.raiseExc_keeps ?_ | refine State.peApply_keeps ?_ | split

theorem State.peRegs_keeps {P s0 a1 a2 a3 a4} (h0 : Keeps P s0) : Keeps P (State.peRegs s0 a1 a2 a3 a4) := by
  rw [State.peRegs]
  with_reducible repeat' first | assumption | refine State.peRun_keeps ?_ ?_ | intro _

theorem State.peAcc_keeps {P s0 a1 a2 a3 a4 a5} (h0 : Keeps P s0) : Keeps P (State.peAcc s0 a1 a2 a3 a4 a5) := by
  rw [State.peAcc]
  with_reducible repeat' first | assumption | refine State.peRegs_keeps ?_

theorem State.peBr_keeps {P s0 a1 a2 a3 a4 a5 a6} (h0 : Keeps P s0) : Keeps P (State.peBr s0 a1 a2 a3 a4 a5 a6) := by
  rw [State.peBr]
  with_reducible repeat' first | assumption | refine State.peRun_keeps ?_ ?_ | intro _

theorem State.peIllegal_keeps {P s0 a1} (h0 : Keeps P s0) : Keeps P (State.peIllegal s0 a1) := by
  rw [State.peIllegal]
  with_reducible repeat' first
    | assumption | refine Keeps.snd (by assumption) (State.fetch_keeps ?_) | refine State.regionFail_keeps ?_
    | refine State.raiseExc_keeps ?_ | split

theorem State.peLoad_keeps {P s0 a1 a2 a3 a4} (h0 : Keeps P s0) : Keeps P (State.peLoad s0 a1 a2 a3 a4).2 := by
  rw [State.peLoad]
  with_reducible repeat' first | assumption | refine Keeps.snd (by assumption) (State.readRange_keeps ?_) | split

theorem State.peLd_keeps {P s0 a1 a2 a3 a4 a5 a6 a7} (h0 : Keeps P s0) : Keeps P (State.peLd s0 a1 a2 a3 a4 a5 a6 a7)
    := by
  rw [State.peLd]
  with_reducible repeat' first
    | assumption | refine Keeps.snd (by assumption) (State.peLoad_keeps ?_) | refine State.peRun_keeps ?_ ?_ | split
    | intro _ | dsimp only

theorem State.peSet_keeps {P s0 a1 a2 a3 a4 a5} (h0 : Keeps P s0) : Keeps P (State.peSet s0 a1 a2 a3 a4 a5) := by
  rw [State.peSet]
  with_reducible repeat' first | assumption | refine State.peRegs_keeps ?_

theorem State.peSt_keeps {P s0 a1 a2 a3 a4 a5 a6} (h0 : Keeps P s0) : Keeps P (State.peSt s0 a1 a2 a3 a4 a5 a6) := by
  rw [State.peSt]
  with_reducible repeat' first | assumption | refine State.peRun_keeps ?_ ?_ | intro _

theorem State.phasorRead_keeps {P s e x b st n l} (h : Keeps P s) : Keeps P (State.phasorRead s e x b st n l).2 := by
  induction l generalizing s with
  | nil => exact h
  | cons c l ih =>
    simp only [State.phasorRead]
    split
    · rename_i e; exact Keeps.snd e (State.peLoad_keeps h)
    · rename_i e
      have := Keeps.snd e (State.peLoad_keeps h)
      split
      · rename_i e; exact Keeps.snd e (ih this)
      · exact ih this

theorem State.phasor_keeps {P s0 a1 a2 a3 a4 a5 a6 a7} (h0 : Keeps P s0) : Keeps P
    (State.phasor s0 a1 a2 a3 a4 a5 a6 a7).2 := by
  rw [State.phasor]
  with_reducible repeat' first | assumption | refine Keeps.snd (by assumption) (State.phasorRead_keeps ?_) | split

theorem execPeAbss_keeps {P a0 a1 a2 s3} (h3 : Keeps P s3) : OutcomeKeeps P (execPeAbss a0 a1 a2 s3) := by
  rw [execPeAbss]
  with_reducible repeat' first | assumption | refine State.peSet_keeps ?_ | refine OutcomeKeeps.next ?_

theorem execPeAclr_keeps {P a0 a1 s2} (h2 : Keeps P s2) : OutcomeKeeps P (execPeAclr a0 a1 s2) := by
  rw [execPeAclr]
  with_reducible repeat' first | assumption | refine State.peAcc_keeps ?_ | refine OutcomeKeeps.next ?_

theorem execPeAdd_keeps {P a0 a1 a2 a3 s4} (h4 : Keeps P s4) : OutcomeKeeps P (execPeAdd a0 a1 a2 a3 s4) := by
  rw [execPeAdd]
  with_reducible repeat' first | assumption | refine State.peSet_keeps ?_ | refine OutcomeKeeps.next ?_

theorem execPeAddk_keeps {P a0 a1 a2 a3 s4} (h4 : Keeps P s4) : OutcomeKeeps P (execPeAddk a0 a1 a2 a3 s4) := by
  rw [execPeAddk]
  with_reducible repeat' first | assumption | refine State.peSet_keeps ?_ | refine OutcomeKeeps.next ?_

theorem execPeAdds_keeps {P a0 a1 a2 a3 s4} (h4 : Keeps P s4) : OutcomeKeeps P (execPeAdds a0 a1 a2 a3 s4) := by
  rw [execPeAdds]
  with_reducible repeat' first | assumption | refine State.peSet_keeps ?_ | refine OutcomeKeeps.next ?_

theorem execPeAddsk_keeps {P a0 a1 a2 a3 s4} (h4 : Keeps P s4) : OutcomeKeeps P (execPeAddsk a0 a1 a2 a3 s4) := by
  rw [execPeAddsk]
  with_reducible repeat' first | assumption | refine State.peSet_keeps ?_ | refine OutcomeKeeps.next ?_

theorem execPeAld_keeps {P a0 a1 a2 a3 s4} (h4 : Keeps P s4) : OutcomeKeeps P (execPeAld a0 a1 a2 a3 s4) := by
  rw [execPeAld]
  with_reducible repeat' first | assumption | refine State.peAcc_keeps ?_ | refine OutcomeKeeps.next ?_

theorem execPeAnd_keeps {P a0 a1 a2 a3 s4} (h4 : Keeps P s4) : OutcomeKeeps P (execPeAnd a0 a1 a2 a3 s4) := by
  rw [execPeAnd]
  with_reducible repeat' first | assumption | refine State.peSet_keeps ?_ | refine OutcomeKeeps.next ?_

theorem execPeAndk_keeps {P a0 a1 a2 a3 s4} (h4 : Keeps P s4) : OutcomeKeeps P (execPeAndk a0 a1 a2 a3 s4) := by
  rw [execPeAndk]
  with_reducible repeat' first | assumption | refine State.peSet_keeps ?_ | refine OutcomeKeeps.next ?_

theorem execPeArd_keeps {P a0 a1 a2 a3 s4} (h4 : Keeps P s4) : OutcomeKeeps P (execPeArd a0 a1 a2 a3 s4) := by
  rw [execPeArd]
  with_reducible repeat' first | assumption | refine State.peSet_keeps ?_ | refine OutcomeKeeps.next ?_

theorem execPeAtan2_keeps {P a0 a1 a2 a3 s4} (h4 : Keeps P s4) : OutcomeKeeps P (execPeAtan2 a0 a1 a2 a3 s4) := by
  rw [execPeAtan2]
  with_reducible repeat' first | assumption | refine State.peSet_keeps ?_ | refine OutcomeKeeps.next ?_

theorem execPeBrEq_keeps {P a0 a1 a2 a3 s4} (h4 : Keeps P s4) : OutcomeKeeps P (execPeBrEq a0 a1 a2 a3 s4) := by
  rw [execPeBrEq]
  with_reducible repeat' first | assumption | refine State.peBr_keeps ?_ | refine OutcomeKeeps.next ?_

theorem execPeBrGe_keeps {P a0 a1 a2 a3 s4} (h4 : Keeps P s4) : OutcomeKeeps P (execPeBrGe a0 a1 a2 a3 s4) := by
  rw [execPeBrGe]
  with_reducible repeat' first | assumption | refine State.peBr_keeps ?_ | refine OutcomeKeeps.next ?_

theorem execPeBrGeu_keeps {P a0 a1 a2 a3 s4} (h4 : Keeps P s4) : OutcomeKeeps P (execPeBrGeu a0 a1 a2 a3 s4) := by
  rw [execPeBrGeu]
  with_reducible repeat' first | assumption | refine State.peBr_keeps ?_ | refine OutcomeKeeps.next ?_

theorem execPeBrLt_keeps {P a0 a1 a2 a3 s4} (h4 : Keeps P s4) : OutcomeKeeps P (execPeBrLt a0 a1 a2 a3 s4) := by
  rw [execPeBrLt]
  with_reducible repeat' first | assumption | refine State.peBr_keeps ?_ | refine OutcomeKeeps.next ?_

theorem execPeBrLtu_keeps {P a0 a1 a2 a3 s4} (h4 : Keeps P s4) : OutcomeKeeps P (execPeBrLtu a0 a1 a2 a3 s4) := by
  rw [execPeBrLtu]
  with_reducible repeat' first | assumption | refine State.peBr_keeps ?_ | refine OutcomeKeeps.next ?_

theorem execPeBrNe_keeps {P a0 a1 a2 a3 s4} (h4 : Keeps P s4) : OutcomeKeeps P (execPeBrNe a0 a1 a2 a3 s4) := by
  rw [execPeBrNe]
  with_reducible repeat' first | assumption | refine State.peBr_keeps ?_ | refine OutcomeKeeps.next ?_

theorem execPeCall_keeps {P a0 a1 s2} (h2 : Keeps P s2) : OutcomeKeeps P (execPeCall a0 a1 s2) := by
  rw [execPeCall]
  with_reducible repeat' first | assumption | refine State.peRun_keeps ?_ ?_ | refine OutcomeKeeps.next ?_ | intro _

theorem execPeClamp_keeps {P a0 a1 a2 a3 a4 s5} (h5 : Keeps P s5) : OutcomeKeeps P (execPeClamp a0 a1 a2 a3 a4 s5)
    := by
  rw [execPeClamp]
  with_reducible repeat' first | assumption | refine State.peSet_keeps ?_ | refine OutcomeKeeps.next ?_

theorem execPeClz_keeps {P a0 a1 a2 s3} (h3 : Keeps P s3) : OutcomeKeeps P (execPeClz a0 a1 a2 s3) := by
  rw [execPeClz]
  with_reducible repeat' first | assumption | refine State.peSet_keeps ?_ | refine OutcomeKeeps.next ?_

theorem execPeCmplt_keeps {P a0 a1 a2 a3 s4} (h4 : Keeps P s4) : OutcomeKeeps P (execPeCmplt a0 a1 a2 a3 s4) := by
  rw [execPeCmplt]
  with_reducible repeat' first | assumption | refine State.peSet_keeps ?_ | refine OutcomeKeeps.next ?_

theorem execPeCmpltk_keeps {P a0 a1 a2 a3 s4} (h4 : Keeps P s4) : OutcomeKeeps P (execPeCmpltk a0 a1 a2 a3 s4) := by
  rw [execPeCmpltk]
  with_reducible repeat' first | assumption | refine State.peSet_keeps ?_ | refine OutcomeKeeps.next ?_

theorem execPeCmpltu_keeps {P a0 a1 a2 a3 s4} (h4 : Keeps P s4) : OutcomeKeeps P (execPeCmpltu a0 a1 a2 a3 s4) := by
  rw [execPeCmpltu]
  with_reducible repeat' first | assumption | refine State.peSet_keeps ?_ | refine OutcomeKeeps.next ?_

theorem execPeDivs_keeps {P a0 a1 a2 a3 s4} (h4 : Keeps P s4) : OutcomeKeeps P (execPeDivs a0 a1 a2 a3 s4) := by
  rw [execPeDivs]
  with_reducible repeat' first | assumption | refine State.peSet_keeps ?_ | refine OutcomeKeeps.next ?_

theorem execPeDivu_keeps {P a0 a1 a2 a3 s4} (h4 : Keeps P s4) : OutcomeKeeps P (execPeDivu a0 a1 a2 a3 s4) := by
  rw [execPeDivu]
  with_reducible repeat' first | assumption | refine State.peSet_keeps ?_ | refine OutcomeKeeps.next ?_

theorem execPeEnd_keeps {P a0 s1} (h1 : Keeps P s1) : OutcomeKeeps P (execPeEnd a0 s1) := by
  rw [execPeEnd]
  with_reducible repeat' first | assumption | refine State.peRun_keeps ?_ ?_ | refine OutcomeKeeps.next ?_ | intro _

theorem execPeFabs_keeps {P a0 a1 a2 s3} (h3 : Keeps P s3) : OutcomeKeeps P (execPeFabs a0 a1 a2 s3) := by
  rw [execPeFabs]
  with_reducible repeat' first | assumption | refine State.peSet_keeps ?_ | refine OutcomeKeeps.next ?_

theorem execPeFadd_keeps {P a0 a1 a2 a3 s4} (h4 : Keeps P s4) : OutcomeKeeps P (execPeFadd a0 a1 a2 a3 s4) := by
  rw [execPeFadd]
  with_reducible repeat' first | assumption | refine State.peSet_keeps ?_ | refine OutcomeKeeps.next ?_

theorem execPeFcvtfi_keeps {P a0 a1 a2 s3} (h3 : Keeps P s3) : OutcomeKeeps P (execPeFcvtfi a0 a1 a2 s3) := by
  rw [execPeFcvtfi]
  with_reducible repeat' first | assumption | refine State.peSet_keeps ?_ | refine OutcomeKeeps.next ?_

theorem execPeFcvtif_keeps {P a0 a1 a2 s3} (h3 : Keeps P s3) : OutcomeKeeps P (execPeFcvtif a0 a1 a2 s3) := by
  rw [execPeFcvtif]
  with_reducible repeat' first | assumption | refine State.peSet_keeps ?_ | refine OutcomeKeeps.next ?_

theorem execPeFdiv_keeps {P a0 a1 a2 a3 s4} (h4 : Keeps P s4) : OutcomeKeeps P (execPeFdiv a0 a1 a2 a3 s4) := by
  rw [execPeFdiv]
  with_reducible repeat' first | assumption | refine State.peSet_keeps ?_ | refine OutcomeKeeps.next ?_

theorem execPeFeq_keeps {P a0 a1 a2 a3 s4} (h4 : Keeps P s4) : OutcomeKeeps P (execPeFeq a0 a1 a2 a3 s4) := by
  rw [execPeFeq]
  with_reducible repeat' first | assumption | refine State.peSet_keeps ?_ | refine OutcomeKeeps.next ?_

theorem execPeFle_keeps {P a0 a1 a2 a3 s4} (h4 : Keeps P s4) : OutcomeKeeps P (execPeFle a0 a1 a2 a3 s4) := by
  rw [execPeFle]
  with_reducible repeat' first | assumption | refine State.peSet_keeps ?_ | refine OutcomeKeeps.next ?_

theorem execPeFlt_keeps {P a0 a1 a2 a3 s4} (h4 : Keeps P s4) : OutcomeKeeps P (execPeFlt a0 a1 a2 a3 s4) := by
  rw [execPeFlt]
  with_reducible repeat' first | assumption | refine State.peSet_keeps ?_ | refine OutcomeKeeps.next ?_

theorem execPeFma_keeps {P a0 a1 a2 a3 a4 s5} (h5 : Keeps P s5) : OutcomeKeeps P (execPeFma a0 a1 a2 a3 a4 s5) := by
  rw [execPeFma]
  with_reducible repeat' first | assumption | refine State.peSet_keeps ?_ | refine OutcomeKeeps.next ?_

theorem execPeFmax_keeps {P a0 a1 a2 a3 s4} (h4 : Keeps P s4) : OutcomeKeeps P (execPeFmax a0 a1 a2 a3 s4) := by
  rw [execPeFmax]
  with_reducible repeat' first | assumption | refine State.peSet_keeps ?_ | refine OutcomeKeeps.next ?_

theorem execPeFmin_keeps {P a0 a1 a2 a3 s4} (h4 : Keeps P s4) : OutcomeKeeps P (execPeFmin a0 a1 a2 a3 s4) := by
  rw [execPeFmin]
  with_reducible repeat' first | assumption | refine State.peSet_keeps ?_ | refine OutcomeKeeps.next ?_

theorem execPeFmul_keeps {P a0 a1 a2 a3 s4} (h4 : Keeps P s4) : OutcomeKeeps P (execPeFmul a0 a1 a2 a3 s4) := by
  rw [execPeFmul]
  with_reducible repeat' first | assumption | refine State.peSet_keeps ?_ | refine OutcomeKeeps.next ?_

theorem execPeFneg_keeps {P a0 a1 a2 s3} (h3 : Keeps P s3) : OutcomeKeeps P (execPeFneg a0 a1 a2 s3) := by
  rw [execPeFneg]
  with_reducible repeat' first | assumption | refine State.peSet_keeps ?_ | refine OutcomeKeeps.next ?_

theorem execPeFnms_keeps {P a0 a1 a2 a3 a4 s5} (h5 : Keeps P s5) : OutcomeKeeps P (execPeFnms a0 a1 a2 a3 a4 s5) := by
  rw [execPeFnms]
  with_reducible repeat' first | assumption | refine State.peSet_keeps ?_ | refine OutcomeKeeps.next ?_

theorem execPeFrcp_keeps {P a0 a1 a2 s3} (h3 : Keeps P s3) : OutcomeKeeps P (execPeFrcp a0 a1 a2 s3) := by
  rw [execPeFrcp]
  with_reducible repeat' first | assumption | refine State.peSet_keeps ?_ | refine OutcomeKeeps.next ?_

theorem execPeFsqrt_keeps {P a0 a1 a2 s3} (h3 : Keeps P s3) : OutcomeKeeps P (execPeFsqrt a0 a1 a2 s3) := by
  rw [execPeFsqrt]
  with_reducible repeat' first | assumption | refine State.peSet_keeps ?_ | refine OutcomeKeeps.next ?_

theorem execPeFsub_keeps {P a0 a1 a2 a3 s4} (h4 : Keeps P s4) : OutcomeKeeps P (execPeFsub a0 a1 a2 a3 s4) := by
  rw [execPeFsub]
  with_reducible repeat' first | assumption | refine State.peSet_keeps ?_ | refine OutcomeKeeps.next ?_

theorem execPeFtoq_keeps {P a0 a1 a2 a3 s4} (h4 : Keeps P s4) : OutcomeKeeps P (execPeFtoq a0 a1 a2 a3 s4) := by
  rw [execPeFtoq]
  with_reducible repeat' first | assumption | refine State.peSet_keeps ?_ | refine OutcomeKeeps.next ?_

theorem execPeGoto_keeps {P a0 a1 s2} (h2 : Keeps P s2) : OutcomeKeeps P (execPeGoto a0 a1 s2) := by
  rw [execPeGoto]
  with_reducible repeat' first | assumption | refine State.peRun_keeps ?_ ?_ | refine OutcomeKeeps.next ?_ | intro _

theorem execPeGotoi_keeps {P a0 a1 s2} (h2 : Keeps P s2) : OutcomeKeeps P (execPeGotoi a0 a1 s2) := by
  rw [execPeGotoi]
  with_reducible repeat' first | assumption | refine State.peRun_keeps ?_ ?_ | refine OutcomeKeeps.next ?_ | intro _

theorem execPeIllegalEncoding_keeps {P a0 s1} (h1 : Keeps P s1) : OutcomeKeeps P (execPeIllegalEncoding a0 s1) := by
  rw [execPeIllegalEncoding]
  with_reducible repeat' first | assumption | refine State.peIllegal_keeps ?_ | refine OutcomeKeeps.next ?_

theorem execPeIsqrt_keeps {P a0 a1 a2 s3} (h3 : Keeps P s3) : OutcomeKeeps P (execPeIsqrt a0 a1 a2 s3) := by
  rw [execPeIsqrt]
  with_reducible repeat' first | assumption | refine State.peSet_keeps ?_ | refine OutcomeKeeps.next ?_

theorem execPeLdB_keeps {P a0 a1 a2 a3 s4} (h4 : Keeps P s4) : OutcomeKeeps P (execPeLdB a0 a1 a2 a3 s4) := by
  rw [execPeLdB]
  with_reducible repeat' first | assumption | refine State.peLd_keeps ?_ | refine OutcomeKeeps.next ?_

theorem execPeLdBu_keeps {P a0 a1 a2 a3 s4} (h4 : Keeps P s4) : OutcomeKeeps P (execPeLdBu a0 a1 a2 a3 s4) := by
  rw [execPeLdBu]
  with_reducible repeat' first | assumption | refine State.peLd_keeps ?_ | refine OutcomeKeeps.next ?_

theorem execPeLdH_keeps {P a0 a1 a2 a3 s4} (h4 : Keeps P s4) : OutcomeKeeps P (execPeLdH a0 a1 a2 a3 s4) := by
  rw [execPeLdH]
  with_reducible repeat' first | assumption | refine State.peLd_keeps ?_ | refine OutcomeKeeps.next ?_

theorem execPeLdHu_keeps {P a0 a1 a2 a3 s4} (h4 : Keeps P s4) : OutcomeKeeps P (execPeLdHu a0 a1 a2 a3 s4) := by
  rw [execPeLdHu]
  with_reducible repeat' first | assumption | refine State.peLd_keeps ?_ | refine OutcomeKeeps.next ?_

theorem execPeLdW_keeps {P a0 a1 a2 a3 s4} (h4 : Keeps P s4) : OutcomeKeeps P (execPeLdW a0 a1 a2 a3 s4) := by
  rw [execPeLdW]
  with_reducible repeat' first | assumption | refine State.peLd_keeps ?_ | refine OutcomeKeeps.next ?_

theorem execPeMac_keeps {P a0 a1 a2 a3 s4} (h4 : Keeps P s4) : OutcomeKeeps P (execPeMac a0 a1 a2 a3 s4) := by
  rw [execPeMac]
  with_reducible repeat' first | assumption | refine State.peAcc_keeps ?_ | refine OutcomeKeeps.next ?_

theorem execPeMag_keeps {P a0 a1 a2 a3 s4} (h4 : Keeps P s4) : OutcomeKeeps P (execPeMag a0 a1 a2 a3 s4) := by
  rw [execPeMag]
  with_reducible repeat' first | assumption | refine State.peSet_keeps ?_ | refine OutcomeKeeps.next ?_

theorem execPeMax_keeps {P a0 a1 a2 a3 s4} (h4 : Keeps P s4) : OutcomeKeeps P (execPeMax a0 a1 a2 a3 s4) := by
  rw [execPeMax]
  with_reducible repeat' first | assumption | refine State.peSet_keeps ?_ | refine OutcomeKeeps.next ?_

theorem execPeMfs_keeps {P a0 a1 s2} (h2 : Keeps P s2) : OutcomeKeeps P (execPeMfs a0 a1 s2) := by
  rw [execPeMfs]
  with_reducible repeat' first | assumption | refine State.peRegs_keeps ?_ | refine OutcomeKeeps.next ?_

theorem execPeMin_keeps {P a0 a1 a2 a3 s4} (h4 : Keeps P s4) : OutcomeKeeps P (execPeMin a0 a1 a2 a3 s4) := by
  rw [execPeMin]
  with_reducible repeat' first | assumption | refine State.peSet_keeps ?_ | refine OutcomeKeeps.next ?_

theorem execPeMovh_keeps {P a0 a1 a2 s3} (h3 : Keeps P s3) : OutcomeKeeps P (execPeMovh a0 a1 a2 s3) := by
  rw [execPeMovh]
  with_reducible repeat' first | assumption | refine State.peSet_keeps ?_ | refine OutcomeKeeps.next ?_

theorem execPeMovl_keeps {P a0 a1 a2 s3} (h3 : Keeps P s3) : OutcomeKeeps P (execPeMovl a0 a1 a2 s3) := by
  rw [execPeMovl]
  with_reducible repeat' first | assumption | refine State.peSet_keeps ?_ | refine OutcomeKeeps.next ?_

theorem execPeMsu_keeps {P a0 a1 a2 a3 s4} (h4 : Keeps P s4) : OutcomeKeeps P (execPeMsu a0 a1 a2 a3 s4) := by
  rw [execPeMsu]
  with_reducible repeat' first | assumption | refine State.peAcc_keeps ?_ | refine OutcomeKeeps.next ?_

theorem execPeMts_keeps {P a0 a1 s2} (h2 : Keeps P s2) : OutcomeKeeps P (execPeMts a0 a1 s2) := by
  rw [execPeMts]
  with_reducible repeat' first | assumption | refine State.peRegs_keeps ?_ | refine OutcomeKeeps.next ?_

theorem execPeMul_keeps {P a0 a1 a2 a3 s4} (h4 : Keeps P s4) : OutcomeKeeps P (execPeMul a0 a1 a2 a3 s4) := by
  rw [execPeMul]
  with_reducible repeat' first | assumption | refine State.peSet_keeps ?_ | refine OutcomeKeeps.next ?_

theorem execPeMulhs_keeps {P a0 a1 a2 a3 s4} (h4 : Keeps P s4) : OutcomeKeeps P (execPeMulhs a0 a1 a2 a3 s4) := by
  rw [execPeMulhs]
  with_reducible repeat' first | assumption | refine State.peSet_keeps ?_ | refine OutcomeKeeps.next ?_

theorem execPeMulhu_keeps {P a0 a1 a2 a3 s4} (h4 : Keeps P s4) : OutcomeKeeps P (execPeMulhu a0 a1 a2 a3 s4) := by
  rw [execPeMulhu]
  with_reducible repeat' first | assumption | refine State.peSet_keeps ?_ | refine OutcomeKeeps.next ?_

theorem execPeMulq_keeps {P a0 a1 a2 a3 a4 s5} (h5 : Keeps P s5) : OutcomeKeeps P (execPeMulq a0 a1 a2 a3 a4 s5) := by
  rw [execPeMulq]
  with_reducible repeat' first | assumption | refine State.peSet_keeps ?_ | refine OutcomeKeeps.next ?_

theorem execPeNegs_keeps {P a0 a1 a2 s3} (h3 : Keeps P s3) : OutcomeKeeps P (execPeNegs a0 a1 a2 s3) := by
  rw [execPeNegs]
  with_reducible repeat' first | assumption | refine State.peSet_keeps ?_ | refine OutcomeKeeps.next ?_

theorem execPeOr_keeps {P a0 a1 a2 a3 s4} (h4 : Keeps P s4) : OutcomeKeeps P (execPeOr a0 a1 a2 a3 s4) := by
  rw [execPeOr]
  with_reducible repeat' first | assumption | refine State.peSet_keeps ?_ | refine OutcomeKeeps.next ?_

theorem execPeOrk_keeps {P a0 a1 a2 a3 s4} (h4 : Keeps P s4) : OutcomeKeeps P (execPeOrk a0 a1 a2 a3 s4) := by
  rw [execPeOrk]
  with_reducible repeat' first | assumption | refine State.peSet_keeps ?_ | refine OutcomeKeeps.next ?_

theorem execPePhasor_keeps {P a0 a1 a2 a3 a4 s5} (h5 : Keeps P s5) : OutcomeKeeps P (execPePhasor a0 a1 a2 a3 a4 s5)
    := by
  rw [execPePhasor]
  with_reducible repeat' first
    | assumption | refine State.peRun_keeps ?_ ?_ | refine State.phasor_keeps ?_ | refine OutcomeKeeps.next ?_
    | intro _

theorem execPeQtof_keeps {P a0 a1 a2 a3 s4} (h4 : Keeps P s4) : OutcomeKeeps P (execPeQtof a0 a1 a2 a3 s4) := by
  rw [execPeQtof]
  with_reducible repeat' first | assumption | refine State.peSet_keeps ?_ | refine OutcomeKeeps.next ?_

theorem execPeRecipq_keeps {P a0 a1 a2 a3 s4} (h4 : Keeps P s4) : OutcomeKeeps P (execPeRecipq a0 a1 a2 a3 s4) := by
  rw [execPeRecipq]
  with_reducible repeat' first | assumption | refine State.peSet_keeps ?_ | refine OutcomeKeeps.next ?_

theorem execPeRems_keeps {P a0 a1 a2 a3 s4} (h4 : Keeps P s4) : OutcomeKeeps P (execPeRems a0 a1 a2 a3 s4) := by
  rw [execPeRems]
  with_reducible repeat' first | assumption | refine State.peSet_keeps ?_ | refine OutcomeKeeps.next ?_

theorem execPeRemu_keeps {P a0 a1 a2 a3 s4} (h4 : Keeps P s4) : OutcomeKeeps P (execPeRemu a0 a1 a2 a3 s4) := by
  rw [execPeRemu]
  with_reducible repeat' first | assumption | refine State.peSet_keeps ?_ | refine OutcomeKeeps.next ?_

theorem execPeRet_keeps {P a0 s1} (h1 : Keeps P s1) : OutcomeKeeps P (execPeRet a0 s1) := by
  rw [execPeRet]
  with_reducible repeat' first | assumption | refine State.peRun_keeps ?_ ?_ | refine OutcomeKeeps.next ?_ | intro _

theorem execPeSel_keeps {P a0 a1 a2 a3 a4 s5} (h5 : Keeps P s5) : OutcomeKeeps P (execPeSel a0 a1 a2 a3 a4 s5) := by
  rw [execPeSel]
  with_reducible repeat' first | assumption | refine State.peSet_keeps ?_ | refine OutcomeKeeps.next ?_

theorem execPeShl_keeps {P a0 a1 a2 a3 s4} (h4 : Keeps P s4) : OutcomeKeeps P (execPeShl a0 a1 a2 a3 s4) := by
  rw [execPeShl]
  with_reducible repeat' first | assumption | refine State.peSet_keeps ?_ | refine OutcomeKeeps.next ?_

theorem execPeShli_keeps {P a0 a1 a2 a3 s4} (h4 : Keeps P s4) : OutcomeKeeps P (execPeShli a0 a1 a2 a3 s4) := by
  rw [execPeShli]
  with_reducible repeat' first | assumption | refine State.peSet_keeps ?_ | refine OutcomeKeeps.next ?_

theorem execPeShls_keeps {P a0 a1 a2 a3 s4} (h4 : Keeps P s4) : OutcomeKeeps P (execPeShls a0 a1 a2 a3 s4) := by
  rw [execPeShls]
  with_reducible repeat' first | assumption | refine State.peSet_keeps ?_ | refine OutcomeKeeps.next ?_

theorem execPeShr_keeps {P a0 a1 a2 a3 s4} (h4 : Keeps P s4) : OutcomeKeeps P (execPeShr a0 a1 a2 a3 s4) := by
  rw [execPeShr]
  with_reducible repeat' first | assumption | refine State.peSet_keeps ?_ | refine OutcomeKeeps.next ?_

theorem execPeShra_keeps {P a0 a1 a2 a3 s4} (h4 : Keeps P s4) : OutcomeKeeps P (execPeShra a0 a1 a2 a3 s4) := by
  rw [execPeShra]
  with_reducible repeat' first | assumption | refine State.peSet_keeps ?_ | refine OutcomeKeeps.next ?_

theorem execPeShrai_keeps {P a0 a1 a2 a3 s4} (h4 : Keeps P s4) : OutcomeKeeps P (execPeShrai a0 a1 a2 a3 s4) := by
  rw [execPeShrai]
  with_reducible repeat' first | assumption | refine State.peSet_keeps ?_ | refine OutcomeKeeps.next ?_

theorem execPeShri_keeps {P a0 a1 a2 a3 s4} (h4 : Keeps P s4) : OutcomeKeeps P (execPeShri a0 a1 a2 a3 s4) := by
  rw [execPeShri]
  with_reducible repeat' first | assumption | refine State.peSet_keeps ?_ | refine OutcomeKeeps.next ?_

theorem execPeShrr_keeps {P a0 a1 a2 a3 s4} (h4 : Keeps P s4) : OutcomeKeeps P (execPeShrr a0 a1 a2 a3 s4) := by
  rw [execPeShrr]
  with_reducible repeat' first | assumption | refine State.peSet_keeps ?_ | refine OutcomeKeeps.next ?_

theorem execPeStB_keeps {P a0 a1 a2 a3 s4} (h4 : Keeps P s4) : OutcomeKeeps P (execPeStB a0 a1 a2 a3 s4) := by
  rw [execPeStB]
  with_reducible repeat' first | assumption | refine State.peSt_keeps ?_ | refine OutcomeKeeps.next ?_

theorem execPeStH_keeps {P a0 a1 a2 a3 s4} (h4 : Keeps P s4) : OutcomeKeeps P (execPeStH a0 a1 a2 a3 s4) := by
  rw [execPeStH]
  with_reducible repeat' first | assumption | refine State.peSt_keeps ?_ | refine OutcomeKeeps.next ?_

theorem execPeStW_keeps {P a0 a1 a2 a3 s4} (h4 : Keeps P s4) : OutcomeKeeps P (execPeStW a0 a1 a2 a3 s4) := by
  rw [execPeStW]
  with_reducible repeat' first | assumption | refine State.peSt_keeps ?_ | refine OutcomeKeeps.next ?_

theorem execPeSub_keeps {P a0 a1 a2 a3 s4} (h4 : Keeps P s4) : OutcomeKeeps P (execPeSub a0 a1 a2 a3 s4) := by
  rw [execPeSub]
  with_reducible repeat' first | assumption | refine State.peSet_keeps ?_ | refine OutcomeKeeps.next ?_

theorem execPeSubs_keeps {P a0 a1 a2 a3 s4} (h4 : Keeps P s4) : OutcomeKeeps P (execPeSubs a0 a1 a2 a3 s4) := by
  rw [execPeSubs]
  with_reducible repeat' first | assumption | refine State.peSet_keeps ?_ | refine OutcomeKeeps.next ?_

theorem execPeTrap_keeps {P a0 a1 s2} (h2 : Keeps P s2) : OutcomeKeeps P (execPeTrap a0 a1 s2) := by
  rw [execPeTrap]
  with_reducible repeat' first | assumption | refine State.peRun_keeps ?_ ?_ | refine OutcomeKeeps.next ?_ | intro _

theorem execPeXor_keeps {P a0 a1 a2 a3 s4} (h4 : Keeps P s4) : OutcomeKeeps P (execPeXor a0 a1 a2 a3 s4) := by
  rw [execPeXor]
  with_reducible repeat' first | assumption | refine State.peSet_keeps ?_ | refine OutcomeKeeps.next ?_

theorem execPeXork_keeps {P a0 a1 a2 a3 s4} (h4 : Keeps P s4) : OutcomeKeeps P (execPeXork a0 a1 a2 a3 s4) := by
  rw [execPeXork]
  with_reducible repeat' first | assumption | refine State.peSet_keeps ?_ | refine OutcomeKeeps.next ?_

theorem State.lsApply_keeps {P s0 a1 a2 a3} (h0 : Keeps P s0) : Keeps P (State.lsApply s0 a1 a2 a3) := by
  rw [State.lsApply.eq_def]
  with_reducible repeat' first
    | assumption | refine State.modEng_keeps ?_ (fun _ _ => ?_) | refine State.raiseExc_keeps ?_
    | refine State.storeBytes_keeps ?_ | refine State.endCopy_keeps ?_ | split

theorem State.lsRun_keeps {P s0 a1 a2 a3} (h0 : Keeps P s0) (h3 : ∀ x0 x1 x2, Keeps P x2 → Keeps P (a3 x0 x1 x2).2)
    : Keeps P (State.lsRun s0 a1 a2 a3) := by
  rw [State.lsRun]
  with_reducible repeat' first
    | assumption | refine h3 _ _ _ ?_ | refine Keeps.snd (by assumption) (State.fetch_keeps ?_)
    | refine State.regionFail_keeps ?_ | refine State.raiseExc_keeps ?_ | refine State.lsApply_keeps ?_ | split

theorem State.lsClose_keeps {P s0 a1} (h0 : Keeps P s0) : Keeps P (State.lsClose s0 a1) := by
  rw [State.lsClose]
  with_reducible repeat' first | assumption | refine State.lsRun_keeps ?_ ?_ | intro _

theorem State.lsRead_keeps {P s0 a1 a2 a3 a4} (h0 : Keeps P s0) : Keeps P (State.lsRead s0 a1 a2 a3 a4).2 := by
  rw [State.lsRead]
  with_reducible repeat' first | assumption | refine Keeps.snd (by assumption) (State.readRange_keeps ?_) | split

theorem State.lsCounter_keeps {P s0 a1 a2 a3 a4 a5} (h0 : Keeps P s0) : Keeps P (State.lsCounter s0 a1 a2 a3 a4 a5)
    := by
  rw [State.lsCounter]
  with_reducible repeat' first
    | assumption | refine Keeps.snd (by assumption) (State.lsRead_keeps ?_) | refine State.lsRun_keeps ?_ ?_ | split
    | intro _ | dsimp only

theorem State.lsEdge_keeps {P s0 a1 a2 a3 a4} (h0 : Keeps P s0) : Keeps P (State.lsEdge s0 a1 a2 a3 a4) := by
  rw [State.lsEdge]
  with_reducible repeat' first
    | assumption | refine Keeps.snd (by assumption) (State.lsRead_keeps ?_) | refine State.lsRun_keeps ?_ ?_ | split
    | intro _ | dsimp only

theorem State.lsIllegal_keeps {P s0 a1} (h0 : Keeps P s0) : Keeps P (State.lsIllegal s0 a1) := by
  rw [State.lsIllegal]
  with_reducible repeat' first
    | assumption | refine Keeps.snd (by assumption) (State.fetch_keeps ?_) | refine State.regionFail_keeps ?_
    | refine State.raiseExc_keeps ?_ | split

theorem State.lsJump_keeps {P s0 a1 a2 a3 a4} (h0 : Keeps P s0) : Keeps P (State.lsJump s0 a1 a2 a3 a4) := by
  rw [State.lsJump]
  with_reducible repeat' first | assumption | refine State.lsRun_keeps ?_ ?_ | intro _

theorem State.lsLogic_keeps {P s0 a1 a2 a3 a4 a5} (h0 : Keeps P s0) : Keeps P (State.lsLogic s0 a1 a2 a3 a4 a5) := by
  rw [State.lsLogic]
  with_reducible repeat' first
    | assumption | refine Keeps.snd (by assumption) (State.lsRead_keeps ?_) | refine State.lsRun_keeps ?_ ?_ | split
    | intro _

theorem State.lsOpen_keeps {P s0 a1 a2} (h0 : Keeps P s0) : Keeps P (State.lsOpen s0 a1 a2) := by
  rw [State.lsOpen]
  with_reducible repeat' first | assumption | refine State.lsRun_keeps ?_ ?_ | intro _

theorem State.lsStore_keeps {P s0 a1 a2 a3 a4 a5} (h0 : Keeps P s0) : Keeps P (State.lsStore s0 a1 a2 a3 a4 a5) := by
  rw [State.lsStore]
  with_reducible repeat' first
    | assumption | refine Keeps.snd (by assumption) (State.lsRead_keeps ?_) | refine State.lsRun_keeps ?_ ?_ | split
    | intro _ | dsimp only

theorem State.lsTimer_keeps {P s0 a1 a2 a3 a4} (h0 : Keeps P s0) : Keeps P (State.lsTimer s0 a1 a2 a3 a4) := by
  rw [State.lsTimer]
  with_reducible repeat' first
    | assumption | refine Keeps.snd (by assumption) (State.lsRead_keeps ?_) | refine State.lsRun_keeps ?_ ?_ | split
    | intro _ | dsimp only

theorem execLsAnd_keeps {P a0 a1 a2 s3} (h3 : Keeps P s3) : OutcomeKeeps P (execLsAnd a0 a1 a2 s3) := by
  rw [execLsAnd]
  with_reducible repeat' first | assumption | refine State.lsLogic_keeps ?_ | refine OutcomeKeeps.next ?_

theorem execLsAndOpen_keeps {P a0 s1} (h1 : Keeps P s1) : OutcomeKeeps P (execLsAndOpen a0 s1) := by
  rw [execLsAndOpen]
  with_reducible repeat' first | assumption | refine State.lsOpen_keeps ?_ | refine OutcomeKeeps.next ?_

theorem execLsAndn_keeps {P a0 a1 a2 s3} (h3 : Keeps P s3) : OutcomeKeeps P (execLsAndn a0 a1 a2 s3) := by
  rw [execLsAndn]
  with_reducible repeat' first | assumption | refine State.lsLogic_keeps ?_ | refine OutcomeKeeps.next ?_

theorem execLsAndnOpen_keeps {P a0 s1} (h1 : Keeps P s1) : OutcomeKeeps P (execLsAndnOpen a0 s1) := by
  rw [execLsAndnOpen]
  with_reducible repeat' first | assumption | refine State.lsOpen_keeps ?_ | refine OutcomeKeeps.next ?_

theorem execLsCld_keeps {P a0 a1 s2} (h2 : Keeps P s2) : OutcomeKeeps P (execLsCld a0 a1 s2) := by
  rw [execLsCld]
  with_reducible repeat' first | assumption | refine State.lsCounter_keeps ?_ | refine OutcomeKeeps.next ?_

theorem execLsClose_keeps {P a0 s1} (h1 : Keeps P s1) : OutcomeKeeps P (execLsClose a0 s1) := by
  rw [execLsClose]
  with_reducible repeat' first | assumption | refine State.lsClose_keeps ?_ | refine OutcomeKeeps.next ?_

theorem execLsCrst_keeps {P a0 a1 s2} (h2 : Keeps P s2) : OutcomeKeeps P (execLsCrst a0 a1 s2) := by
  rw [execLsCrst]
  with_reducible repeat' first | assumption | refine State.lsCounter_keeps ?_ | refine OutcomeKeeps.next ?_

theorem execLsCtd_keeps {P a0 a1 s2} (h2 : Keeps P s2) : OutcomeKeeps P (execLsCtd a0 a1 s2) := by
  rw [execLsCtd]
  with_reducible repeat' first | assumption | refine State.lsCounter_keeps ?_ | refine OutcomeKeeps.next ?_

theorem execLsCtu_keeps {P a0 a1 s2} (h2 : Keeps P s2) : OutcomeKeeps P (execLsCtu a0 a1 s2) := by
  rw [execLsCtu]
  with_reducible repeat' first | assumption | refine State.lsCounter_keeps ?_ | refine OutcomeKeeps.next ?_

theorem execLsEdgeFall_keeps {P a0 a1 s2} (h2 : Keeps P s2) : OutcomeKeeps P (execLsEdgeFall a0 a1 s2) := by
  rw [execLsEdgeFall]
  with_reducible repeat' first | assumption | refine State.lsEdge_keeps ?_ | refine OutcomeKeeps.next ?_

theorem execLsEdgeRise_keeps {P a0 a1 s2} (h2 : Keeps P s2) : OutcomeKeeps P (execLsEdgeRise a0 a1 s2) := by
  rw [execLsEdgeRise]
  with_reducible repeat' first | assumption | refine State.lsEdge_keeps ?_ | refine OutcomeKeeps.next ?_

theorem execLsEnd_keeps {P a0 s1} (h1 : Keeps P s1) : OutcomeKeeps P (execLsEnd a0 s1) := by
  rw [execLsEnd]
  with_reducible repeat' first | assumption | refine State.lsRun_keeps ?_ ?_ | refine OutcomeKeeps.next ?_ | intro _

theorem execLsIllegalEncoding_keeps {P a0 s1} (h1 : Keeps P s1) : OutcomeKeeps P (execLsIllegalEncoding a0 s1) := by
  rw [execLsIllegalEncoding]
  with_reducible repeat' first | assumption | refine State.lsIllegal_keeps ?_ | refine OutcomeKeeps.next ?_

theorem execLsJc_keeps {P a0 a1 s2} (h2 : Keeps P s2) : OutcomeKeeps P (execLsJc a0 a1 s2) := by
  rw [execLsJc]
  with_reducible repeat' first | assumption | refine State.lsJump_keeps ?_ | refine OutcomeKeeps.next ?_

theorem execLsJmp_keeps {P a0 a1 s2} (h2 : Keeps P s2) : OutcomeKeeps P (execLsJmp a0 a1 s2) := by
  rw [execLsJmp]
  with_reducible repeat' first | assumption | refine State.lsJump_keeps ?_ | refine OutcomeKeeps.next ?_

theorem execLsJnc_keeps {P a0 a1 s2} (h2 : Keeps P s2) : OutcomeKeeps P (execLsJnc a0 a1 s2) := by
  rw [execLsJnc]
  with_reducible repeat' first | assumption | refine State.lsJump_keeps ?_ | refine OutcomeKeeps.next ?_

theorem execLsLd_keeps {P a0 a1 a2 s3} (h3 : Keeps P s3) : OutcomeKeeps P (execLsLd a0 a1 a2 s3) := by
  rw [execLsLd]
  with_reducible repeat' first | assumption | refine State.lsLogic_keeps ?_ | refine OutcomeKeeps.next ?_

theorem execLsLdn_keeps {P a0 a1 a2 s3} (h3 : Keeps P s3) : OutcomeKeeps P (execLsLdn a0 a1 a2 s3) := by
  rw [execLsLdn]
  with_reducible repeat' first | assumption | refine State.lsLogic_keeps ?_ | refine OutcomeKeeps.next ?_

theorem execLsNop_keeps {P a0 s1} (h1 : Keeps P s1) : OutcomeKeeps P (execLsNop a0 s1) := by
  rw [execLsNop]
  with_reducible repeat' first | assumption | refine State.lsRun_keeps ?_ ?_ | refine OutcomeKeeps.next ?_ | intro _

theorem execLsNot_keeps {P a0 s1} (h1 : Keeps P s1) : OutcomeKeeps P (execLsNot a0 s1) := by
  rw [execLsNot]
  with_reducible repeat' first | assumption | refine State.lsRun_keeps ?_ ?_ | refine OutcomeKeeps.next ?_ | intro _

theorem execLsOr_keeps {P a0 a1 a2 s3} (h3 : Keeps P s3) : OutcomeKeeps P (execLsOr a0 a1 a2 s3) := by
  rw [execLsOr]
  with_reducible repeat' first | assumption | refine State.lsLogic_keeps ?_ | refine OutcomeKeeps.next ?_

theorem execLsOrOpen_keeps {P a0 s1} (h1 : Keeps P s1) : OutcomeKeeps P (execLsOrOpen a0 s1) := by
  rw [execLsOrOpen]
  with_reducible repeat' first | assumption | refine State.lsOpen_keeps ?_ | refine OutcomeKeeps.next ?_

theorem execLsOrn_keeps {P a0 a1 a2 s3} (h3 : Keeps P s3) : OutcomeKeeps P (execLsOrn a0 a1 a2 s3) := by
  rw [execLsOrn]
  with_reducible repeat' first | assumption | refine State.lsLogic_keeps ?_ | refine OutcomeKeeps.next ?_

theorem execLsOrnOpen_keeps {P a0 s1} (h1 : Keeps P s1) : OutcomeKeeps P (execLsOrnOpen a0 s1) := by
  rw [execLsOrnOpen]
  with_reducible repeat' first | assumption | refine State.lsOpen_keeps ?_ | refine OutcomeKeeps.next ?_

theorem execLsRst_keeps {P a0 a1 a2 s3} (h3 : Keeps P s3) : OutcomeKeeps P (execLsRst a0 a1 a2 s3) := by
  rw [execLsRst]
  with_reducible repeat' first | assumption | refine State.lsStore_keeps ?_ | refine OutcomeKeeps.next ?_

theorem execLsSet_keeps {P a0 a1 a2 s3} (h3 : Keeps P s3) : OutcomeKeeps P (execLsSet a0 a1 a2 s3) := by
  rw [execLsSet]
  with_reducible repeat' first | assumption | refine State.lsStore_keeps ?_ | refine OutcomeKeeps.next ?_

theorem execLsSt_keeps {P a0 a1 a2 s3} (h3 : Keeps P s3) : OutcomeKeeps P (execLsSt a0 a1 a2 s3) := by
  rw [execLsSt]
  with_reducible repeat' first | assumption | refine State.lsStore_keeps ?_ | refine OutcomeKeeps.next ?_

theorem execLsStn_keeps {P a0 a1 a2 s3} (h3 : Keeps P s3) : OutcomeKeeps P (execLsStn a0 a1 a2 s3) := by
  rw [execLsStn]
  with_reducible repeat' first | assumption | refine State.lsStore_keeps ?_ | refine OutcomeKeeps.next ?_

theorem execLsTof_keeps {P a0 a1 s2} (h2 : Keeps P s2) : OutcomeKeeps P (execLsTof a0 a1 s2) := by
  rw [execLsTof]
  with_reducible repeat' first | assumption | refine State.lsTimer_keeps ?_ | refine OutcomeKeeps.next ?_

theorem execLsTon_keeps {P a0 a1 s2} (h2 : Keeps P s2) : OutcomeKeeps P (execLsTon a0 a1 s2) := by
  rw [execLsTon]
  with_reducible repeat' first | assumption | refine State.lsTimer_keeps ?_ | refine OutcomeKeeps.next ?_

theorem execLsTp_keeps {P a0 a1 s2} (h2 : Keeps P s2) : OutcomeKeeps P (execLsTp a0 a1 s2) := by
  rw [execLsTp]
  with_reducible repeat' first | assumption | refine State.lsTimer_keeps ?_ | refine OutcomeKeeps.next ?_

theorem execLsXor_keeps {P a0 a1 a2 s3} (h3 : Keeps P s3) : OutcomeKeeps P (execLsXor a0 a1 a2 s3) := by
  rw [execLsXor]
  with_reducible repeat' first | assumption | refine State.lsLogic_keeps ?_ | refine OutcomeKeeps.next ?_

theorem execLsXorOpen_keeps {P a0 s1} (h1 : Keeps P s1) : OutcomeKeeps P (execLsXorOpen a0 s1) := by
  rw [execLsXorOpen]
  with_reducible repeat' first | assumption | refine State.lsOpen_keeps ?_ | refine OutcomeKeeps.next ?_

theorem State.freeze_keeps {P s0 a1 a2} (h0 : Keeps P s0) : Keeps P (State.freeze s0 a1 a2) := by
  rw [State.freeze]
  with_reducible repeat' first
    | assumption | refine State.modInst_keeps ?_ | refine State.engWrite_keeps ?_ | split
    | refine Keeps.foldl ?_ (fun _ _ _ => ?_)

theorem State.noteMoved_keeps {P s0 a1 a2} (h0 : Keeps P s0) : Keeps P (State.noteMoved s0 a1 a2) := by
  rw [State.noteMoved]
  with_reducible repeat' first
    | assumption | refine State.post_keeps ?_ | refine State.modInst_keeps ?_ | split
    | refine Keeps.foldl ?_ (fun _ _ _ => ?_)

theorem State.beginCycle_keeps {P s0 a1 a2 a3} (h0 : Keeps P s0) : Keeps P (State.beginCycle s0 a1 a2 a3) := by
  rw [State.beginCycle]
  with_reducible repeat' first
    | assumption | refine State.freeze_keeps ?_ | refine State.engWrite_keeps ?_ | refine State.modInst_keeps ?_
    | refine State.noteMoved_keeps ?_ | split | refine Keeps.foldl ?_ (fun _ _ _ => ?_) | dsimp only

theorem State.writeSettings_keeps {P s0 a1 a2 a3} (h0 : Keeps P s0) : Keeps P (State.writeSettings s0 a1 a2 a3) := by
  rw [State.writeSettings]
  with_reducible repeat' first
    | assumption | refine State.setInst_keeps ?_ | refine State.writeDataAll_keeps ?_ | refine State.post_keeps ?_
    | refine State.finishWait_keeps ?_ | split | refine Keeps.foldl ?_ (fun _ _ _ => ?_)

theorem State.modCycle_keeps {P s0 a1 a2 a3} (h0 : Keeps P s0) : Keeps P (State.modCycle s0 a1 a2 a3) := by
  rw [State.modCycle]
  with_reducible repeat' first | assumption | refine State.modInst_keeps ?_

theorem State.startCopy_keeps {P s0 a1 a2 a3 a4} (h0 : Keeps P s0) : Keeps P (State.startCopy s0 a1 a2 a3 a4) := by
  rw [State.startCopy]
  with_reducible repeat' first
    | assumption | refine State.modEng_keeps ?_ (fun _ _ => ?_) | refine State.engWrite_keeps ?_

theorem State.copyStart_keeps {P s0 a1 a2} (h0 : Keeps P s0) : Keeps P (State.copyStart s0 a1 a2) := by
  rw [State.copyStart]
  with_reducible repeat' first
    | assumption | refine State.modCycle_keeps ?_ | refine State.startCopy_keeps ?_ | split | dsimp only

theorem State.latch_keeps {P s0 a1 a2} (h0 : Keeps P s0) : Keeps P (State.latch s0 a1 a2) := by
  rw [State.latch]
  with_reducible repeat' first
    | assumption | refine State.setInst_keeps ?_ | refine State.commitRetained_keeps ?_
    | refine State.writeSettings_keeps ?_ | refine State.writeDataAll_keeps ?_ | refine State.post_keeps ?_
    | refine State.modInst_keeps ?_ | refine State.beginCycle_keeps ?_ | split
    | refine Keeps.foldl ?_ (fun _ _ _ => ?_)

theorem State.spanEnd_keeps {P s0 a1} (h0 : Keeps P s0) : Keeps P (State.spanEnd s0 a1) := by
  rw [State.spanEnd]
  with_reducible repeat' first
    | assumption | refine State.raiseExc_keeps ?_ | refine State.modEng_keeps ?_ (fun _ _ => ?_) | split

theorem State.postInj_keeps {P s0 a1 a2 a3} (h0 : Keeps P s0) : Keeps P (State.postInj s0 a1 a2 a3) := by
  rw [State.postInj]
  with_reducible repeat' first | assumption | refine State.post_keeps ?_

theorem State.giveLanes_keeps {P f s l} (h : Keeps P s) : Keeps P (State.giveLanes f s l) := by
  induction f generalizing s l with
  | zero => exact h
  | succ f ih =>
    cases l with
    | nil => exact h
    | cons a l =>
      simp only [State.giveLanes]
      split
      · exact ih h
      · split
        · exact ih (State.takeLane_keeps h)
        · split
          · exact h
          · exact ih (State.shed_keeps h)

theorem State.comparatorFault_keeps {P s0 a1 a2} (h0 : Keeps P s0) : Keeps P (State.comparatorFault s0 a1 a2) := by
  rw [State.comparatorFault]
  with_reducible repeat' first
    | assumption | refine State.bump_keeps ?_ | refine State.postInj_keeps ?_ | refine State.modInst_keeps ?_
    | refine State.giveLanes_keeps ?_ | split | refine Keeps.foldl ?_ (fun _ _ _ => ?_)

theorem State.takeInjection_keeps {P s0 a1 a2 a3} (h0 : Keeps P s0) : Keeps P (State.takeInjection s0 a1 a2 a3).2
    := by
  rw [State.takeInjection]
  with_reducible repeat' first | assumption | split

theorem State.fatalContainment_keeps {P s0 a1} (h0 : Keeps P s0) : Keeps P (State.fatalContainment s0 a1) := by
  rw [State.fatalContainment]
  with_reducible repeat' first
    | assumption | refine State.giveUp_keeps ?_ | refine State.countFault_keeps ?_ | refine State.setLine_keeps ?_
    | refine State.bump_keeps ?_ | refine State.postInj_keeps ?_ | split

theorem State.moveLagging_keeps {P s0 a1} (h0 : Keeps P s0) : Keeps P (State.moveLagging s0 a1) := by
  rw [State.moveLagging]
  with_reducible repeat' first | assumption | refine State.moveLag_keeps ?_ | split | dsimp only

theorem State.bufferFault_keeps {P s0 a1 a2} (h0 : Keeps P s0) : Keeps P (State.bufferFault s0 a1 a2) := by
  rw [State.bufferFault]
  with_reducible repeat' first
    | assumption | refine State.postInj_keeps ?_ | refine State.modInst_keeps ?_ | refine State.moveLagging_keeps ?_
    | refine State.giveLanes_keeps ?_ | split

theorem State.countTransient_keeps {P s0 a1 a2} (h0 : Keeps P s0) : Keeps P (State.countTransient s0 a1 a2) := by
  rw [State.countTransient]
  with_reducible repeat' first
    | assumption | exact Keeps.eng (by assumption) | refine State.setEng_keeps ?_ ?_
    | refine State.failEngine_keeps ?_ | split | dsimp only

theorem State.failEngines_keeps {P s0 a1} (h0 : Keeps P s0) : Keeps P (State.failEngines s0 a1) := by
  rw [State.failEngines]
  with_reducible repeat' first
    | assumption | refine State.failEngine_keeps ?_ | refine Keeps.foldl ?_ (fun _ _ _ => ?_)

theorem State.reload_keeps {P s0 a1 a2 a3} (h0 : Keeps P s0) : Keeps P (State.reload s0 a1 a2 a3) := by
  rw [State.reload]
  with_reducible repeat' first | assumption | refine State.setInst_keeps ?_ | split

theorem State.verdictFault_keeps {P s0 a1 a2 a3 a4 a5} (h0 : Keeps P s0) : Keeps P
    (State.verdictFault s0 a1 a2 a3 a4 a5) := by
  rw [State.verdictFault]
  with_reducible repeat' first
    | assumption | refine State.modInst_keeps ?_ | refine State.postInj_keeps ?_ | refine State.countFault_keeps ?_
    | split

theorem State.conclude_keeps {P s0 a1} (h0 : Keeps P s0) : Keeps P (State.conclude s0 a1) := by
  rw [State.conclude]
  with_reducible repeat' first
    | assumption | refine State.failEngines_keeps ?_ | refine State.verdictFault_keeps ?_
    | refine State.modInst_keeps ?_ | refine State.reload_keeps ?_ | refine State.countTransient_keeps ?_ | split
    | refine Keeps.foldl ?_ (fun _ _ _ => ?_)

theorem State.sendData_keeps {P s0 a1 a2 a3 a4} (h0 : Keeps P s0) : Keeps P (State.sendData s0 a1 a2 a3 a4) := by
  rw [State.sendData]
  with_reducible repeat' first | assumption | refine State.pairSend_keeps ?_ | refine Keeps.foldl ?_ (fun _ _ _ => ?_)

theorem State.dataFor_keeps {P s0 a1 a2 a3} (h0 : Keeps P s0) : Keeps P (State.dataFor s0 a1 a2 a3) := by
  rw [State.dataFor]
  with_reducible repeat' first | assumption | refine State.sendData_keeps ?_ | split

theorem State.diagResult_keeps {P s0 a1 a2} (h0 : Keeps P s0) : Keeps P (State.diagResult s0 a1 a2) := by
  rw [State.diagResult]
  with_reducible repeat' first | assumption | refine State.conclude_keeps ?_ | refine Keeps.foldl ?_ (fun _ _ _ => ?_)

theorem State.diagnose_keeps {P s0 a1 a2 a3 a4 a5} (h0 : Keeps P s0) : Keeps P (State.diagnose s0 a1 a2 a3 a4 a5)
    := by
  rw [State.diagnose]
  with_reducible repeat' first
    | assumption | refine State.modEng_keeps ?_ (fun _ _ => ?_) | refine Keeps.foldl ?_ (fun _ _ _ => ?_)

theorem State.noteResult_keeps {P s0 a1 a2 a3 a4} (h0 : Keeps P s0) : Keeps P (State.noteResult s0 a1 a2 a3 a4) := by
  rw [State.noteResult]
  with_reducible repeat' first | assumption | refine State.pairSend_keeps ?_ | split

theorem State.withhold_keeps {P s0 a1 a2} (h0 : Keeps P s0) : Keeps P (State.withhold s0 a1 a2) := by
  rw [State.withhold]
  with_reducible repeat' first
    | assumption | refine State.noteResult_keeps ?_ | refine State.bump_keeps ?_ | refine State.modInst_keeps ?_
    | refine State.modCycle_keeps ?_

theorem State.disagree_keeps {P s0 a1 a2 a3} (h0 : Keeps P s0) : Keeps P (State.disagree s0 a1 a2 a3) := by
  rw [State.disagree]
  with_reducible repeat' first
    | assumption | refine State.modInst_keeps ?_ | refine State.withhold_keeps ?_ | refine State.verdictFault_keeps ?_
    | refine State.failEngines_keeps ?_ | refine State.reload_keeps ?_ | refine State.diagnose_keeps ?_ | split
    | refine Keeps.foldl ?_ (fun _ _ _ => ?_)

theorem State.dissent_keeps {P s0 a1 a2 a3 a4 a5 a6} (h0 : Keeps P s0) : Keeps P (State.dissent s0 a1 a2 a3 a4 a5 a6)
    := by
  rw [State.dissent]
  with_reducible repeat' first
    | assumption | refine State.modInst_keeps ?_ | refine State.failEngines_keeps ?_
    | refine State.verdictFault_keeps ?_ | refine State.reload_keeps ?_ | refine State.diagnose_keeps ?_ | split

theorem State.instanceFault_keeps {P s0 a1 a2} (h0 : Keeps P s0) : Keeps P (State.instanceFault s0 a1 a2) := by
  rw [State.instanceFault]
  with_reducible repeat' first
    | assumption | refine State.raiseInt_keeps ?_ | refine State.bump_keeps ?_ | refine State.post_keeps ?_
    | refine State.setInst_keeps ?_ | split

theorem State.outputOk_keeps {P s0 a1 a2 a3 a4} (h0 : Keeps P s0) : Keeps P (State.outputOk s0 a1 a2 a3 a4).2 := by
  rw [State.outputOk]
  with_reducible repeat' first | assumption | refine Keeps.snd (by assumption) (State.readRange_keeps ?_) | split

theorem State.snapshot_keeps {P s0 a1 a2 a3} (h0 : Keeps P s0) : Keeps P (State.snapshot s0 a1 a2 a3) := by
  rw [State.snapshot]
  with_reducible repeat' first
    | assumption | refine State.setInst_keeps ?_ | refine State.commitRetained_keeps ?_ | split | dsimp only

theorem State.release_keeps {P s fi c inj l} (h : Keeps P s) : Keeps P (State.release s fi c inj l) := by
  induction l generalizing s with
  | nil => exact State.verdictFault_keeps (State.withhold_keeps h)
  | cons a l ih =>
    obtain ⟨p, r⟩ := a
    simp only [State.release]
    split
    · rename_i e; exact ih (Keeps.snd e (State.outputOk_keeps h))
    · rename_i e
      exact State.dataFor_keeps (State.noteResult_keeps (State.snapshot_keeps (State.modCycle_keeps (Keeps.snd e (State.outputOk_keeps h)))))

theorem State.judgeBuffer_keeps {P s0 a1 a2 a3 a4} (h0 : Keeps P s0) : Keeps P (State.judgeBuffer s0 a1 a2 a3 a4)
    := by
  rw [State.judgeBuffer]
  with_reducible repeat' first
    | assumption | refine State.instanceFault_keeps ?_ | refine State.withhold_keeps ?_
    | refine State.release_keeps ?_ | refine State.bufferFault_keeps ?_ | refine State.verdictFault_keeps ?_ | split

theorem State.judgeMany_keeps {P s0 a1 a2 a3} (h0 : Keeps P s0) : Keeps P (State.judgeMany s0 a1 a2 a3) := by
  rw [State.judgeMany]
  with_reducible repeat' first
    | assumption | refine State.instanceFault_keeps ?_ | refine State.verdictFault_keeps ?_
    | refine State.withhold_keeps ?_ | refine State.release_keeps ?_ | refine State.dissent_keeps ?_
    | refine State.disagree_keeps ?_ | split

theorem State.judgeOne_keeps {P s0 a1 a2 a3} (h0 : Keeps P s0) : Keeps P (State.judgeOne s0 a1 a2 a3) := by
  rw [State.judgeOne]
  with_reducible repeat' first
    | assumption | refine State.verdictFault_keeps ?_ | refine State.withhold_keeps ?_ | refine State.release_keeps ?_
    | refine State.failEngines_keeps ?_ | refine State.instanceFault_keeps ?_ | split

theorem State.judge_keeps {P s0 a1 a2 a3 a4} (h0 : Keeps P s0) : Keeps P (State.judge s0 a1 a2 a3 a4) := by
  rw [State.judge]
  with_reducible repeat' first
    | ((try lift_lets -underBinder); intro x; first | (refine Keeps.ex P x ?_ (fun y e _ => ?_); (subst x; skip); rotate_left; ((try rw [← e]); clear e); rotate_right) | (refine Keeps.ex2 P x ?_ (fun y e _ => ?_); (subst x; skip); rotate_left; ((try rw [← e]); clear e); rotate_right) | (refine Keeps.exD x (fun y e => ?_); ((try rw [← e]); clear e)))
    | assumption | refine State.setInst_keeps ?_ | refine State.countFault_keeps ?_ | refine State.withhold_keeps ?_
    | refine State.takeInjection_keeps ?_ | refine State.comparatorFault_keeps ?_ | refine State.verdictFault_keeps ?_
    | refine State.judgeBuffer_keeps ?_ | refine State.judgeOne_keeps ?_ | refine State.judgeMany_keeps ?_ | split
    | refine Keeps.foldl ?_ (fun _ _ _ => ?_) | refine Keeps.snd (by assumption) ?_

theorem State.latent_keeps {P s0 a1 a2 a3} (h0 : Keeps P s0) : Keeps P (State.latent s0 a1 a2 a3) := by
  rw [State.latent]
  with_reducible repeat' first | assumption | refine State.postInj_keeps ?_

theorem State.backBuffer_keeps {P s0 a1 a2} (h0 : Keeps P s0) : Keeps P (State.backBuffer s0 a1 a2) := by
  rw [State.backBuffer]
  with_reducible repeat' first | assumption | refine State.countFault_keeps ?_ | refine State.latent_keeps ?_ | split

theorem State.backCmp_keeps {P s0 a1 a2} (h0 : Keeps P s0) : Keeps P (State.backCmp s0 a1 a2) := by
  rw [State.backCmp]
  with_reducible repeat' first
    | assumption | refine Keeps.snd (by assumption) (State.takeInjection_keeps ?_) | refine State.countFault_keeps ?_
    | refine State.latent_keeps ?_ | refine State.comparatorFault_keeps ?_ | split

theorem State.backEngine_keeps {P s0 a1 a2} (h0 : Keeps P s0) : Keeps P (State.backEngine s0 a1 a2) := by
  rw [State.backEngine]
  with_reducible repeat' first
    | assumption | refine State.takeInjection_keeps ?_ | refine State.failEngine_keeps ?_
    | refine State.latent_keeps ?_ | split | refine Keeps.snd (by assumption) ?_

theorem State.giveUpSlot_keeps {P s0 a1 a2} (h0 : Keeps P s0) : Keeps P (State.giveUpSlot s0 a1 a2) := by
  rw [State.giveUpSlot]
  with_reducible repeat' first | assumption | refine State.modEng_keeps ?_ (fun _ _ => ?_) | split

theorem State.scrubLine_keeps {P s0 a1} (h0 : Keeps P s0) : Keeps P (State.scrubLine s0 a1) := by
  rw [State.scrubLine]
  with_reducible repeat' first | assumption | refine State.lineHealth_keeps ?_ | refine State.meetErr_keeps ?_ | split

theorem execAnvilVerdict_keeps {P a0 a1 a2 a3 s4} (h4 : Keeps P s4) : OutcomeKeeps P
    (execAnvilVerdict a0 a1 a2 a3 s4) := by
  rw [execAnvilVerdict]
  with_reducible repeat' first
    | assumption | refine State.advance_keeps ?_ | refine State.regionFail_keeps ?_ | refine State.judge_keeps ?_
    | split | refine OutcomeKeeps.next ?_

theorem execBackgroundTest_keeps {P dt k i p m s} (h : Keeps P s) : OutcomeKeeps P (execBackgroundTest dt k i p m s)
    := by
  have h := State.advance_keeps (a0 := dt) h
  rw [execBackgroundTest.eq_def]
  try dsimp only
  split
  · exact h
  · have ht : Keeps P (match k with
      | 0 => (s.advance dt).backEngine (engOfKey false (i % 544)) p
      | 1 => (s.advance dt).backEngine (engOfKey true (i % 64)) p
      | 2 => (s.advance dt).backCmp i p
      | _ => (s.advance dt).backBuffer i p) := by
      split
      · exact State.backEngine_keeps h
      · exact State.backEngine_keeps h
      · exact State.backCmp_keeps h
      · exact State.backBuffer_keeps h
    split
    · exact ht
    · exact ht

theorem execCopyStart_keeps {P a0 a1 a2 s3} (h3 : Keeps P s3) : OutcomeKeeps P (execCopyStart a0 a1 a2 s3) := by
  rw [execCopyStart]
  with_reducible repeat' first
    | assumption | refine State.copyStart_keeps ?_ | refine State.advance_keeps ?_ | refine OutcomeKeeps.next ?_

theorem execCrossCheckFault_keeps {P a0 s1} (h1 : Keeps P s1) : OutcomeKeeps P (execCrossCheckFault a0 s1) := by
  rw [execCrossCheckFault]
  with_reducible repeat' first
    | assumption | refine State.fatalContainment_keeps ?_ | refine State.advance_keeps ?_
    | refine OutcomeKeeps.next ?_

theorem execDiagnosisEnd_keeps {P a0 a1 a2 a3 s4} (h4 : Keeps P s4) : OutcomeKeeps P
    (execDiagnosisEnd a0 a1 a2 a3 s4) := by
  rw [execDiagnosisEnd]
  with_reducible repeat' first
    | assumption | refine State.advance_keeps ?_ | refine State.takeInjection_keeps ?_
    | refine State.modEng_keeps ?_ (fun _ _ => ?_) | refine State.diagResult_keeps ?_ | split
    | refine OutcomeKeeps.next ?_ | refine Keeps.snd (by assumption) ?_

theorem execDiagnosisStart_keeps {P a0 a1 a2 s3} (h3 : Keeps P s3) : OutcomeKeeps P (execDiagnosisStart a0 a1 a2 s3)
    := by
  rw [execDiagnosisStart]
  with_reducible repeat' first
    | assumption | refine State.advance_keeps ?_ | refine State.modEng_keeps ?_ (fun _ _ => ?_)
    | refine State.giveUpSlot_keeps ?_ | split | refine OutcomeKeeps.next ?_

theorem execLatch_keeps {P a0 a1 s2} (h2 : Keeps P s2) : OutcomeKeeps P (execLatch a0 a1 s2) := by
  rw [execLatch]
  with_reducible repeat' first
    | assumption | refine State.advance_keeps ?_ | refine State.latch_keeps ?_ | split | refine OutcomeKeeps.next ?_

theorem execScrubPass_keeps {P a0 a1 a2 a3 a4 s5} (h5 : Keeps P s5) : OutcomeKeeps P
    (execScrubPass a0 a1 a2 a3 a4 s5) := by
  rw [execScrubPass]
  with_reducible repeat' first
    | assumption | refine State.advance_keeps ?_ | refine State.meetErr_keeps ?_ | refine State.scrubLine_keeps ?_
    | refine State.regionFail_keeps ?_ | refine State.modHealth_keeps ?_ | refine OutcomeKeeps.next ?_
    | refine Keeps.foldl ?_ (fun _ _ _ => ?_)

theorem execSignaturePosted_keeps {P a0 a1 a2 s3} (h3 : Keeps P s3) : OutcomeKeeps P
    (execSignaturePosted a0 a1 a2 s3) := by
  rw [execSignaturePosted]
  with_reducible repeat' first
    | assumption | refine State.advance_keeps ?_ | refine State.postSignature_keeps ?_ | split
    | refine OutcomeKeeps.next ?_

theorem execSpanEnd_keeps {P a0 a1 a2 s3} (h3 : Keeps P s3) : OutcomeKeeps P (execSpanEnd a0 a1 a2 s3) := by
  rw [execSpanEnd]
  with_reducible repeat' first
    | assumption | refine State.spanEnd_keeps ?_ | refine State.advance_keeps ?_ | refine OutcomeKeeps.next ?_

theorem execVerdictDeadline_keeps {P a0 a1 s2} (h2 : Keeps P s2) : OutcomeKeeps P (execVerdictDeadline a0 a1 s2) := by
  rw [execVerdictDeadline]
  with_reducible repeat' first
    | assumption | refine State.advance_keeps ?_ | refine State.setInst_keeps ?_ | split | refine OutcomeKeeps.next ?_

theorem cardGetAnvilStatus_keeps {P s c} (h : Keeps P s) : CardKeeps P ((cardGetAnvilStatus).run s c) := by
  dsimp only [cardGetAnvilStatus]
  with_reducible repeat' first | assumption | refine CardKeeps.ok ?_

theorem cardGetContainment_keeps {P s c} (h : Keeps P s) : CardKeeps P ((cardGetContainment).run s c) := by
  dsimp only [cardGetContainment]
  with_reducible repeat' first
    | assumption | refine CardOut.wrong_keeps | refine State.setInst_keeps ?_ | split | refine CardKeeps.ok ?_

theorem cardGetMemoryHealth_keeps {P s c} (h : Keeps P s) : CardKeeps P ((cardGetMemoryHealth).run s c) := by
  dsimp only [cardGetMemoryHealth]
  with_reducible repeat' first | assumption | split | refine CardKeeps.ok ?_

theorem injectRun_keeps {P s0 a1} (h0 : Keeps P s0) : CardKeeps P (injectRun s0 a1) := by
  rw [injectRun]
  with_reducible repeat' first
    | assumption | refine CardOut.wrong_keeps | refine State.fatalContainment_keeps ?_ | split
    | refine CardKeeps.ok ?_ | exact CardKeeps.err | dsimp only

theorem cardInjectFault_keeps {P s c} (h : Keeps P s) : CardKeeps P ((cardInjectFault).run s c) := by
  dsimp only [cardInjectFault]
  with_reducible repeat' first | assumption | refine injectRun_keeps ?_

theorem cardSetSelfTest_keeps {P s c} (h : Keeps P s) : CardKeeps P ((cardSetSelfTest).run s c) := by
  dsimp only [cardSetSelfTest]
  with_reducible repeat' first | assumption | refine CardKeeps.ok ?_

theorem execGetAnvilStatus_keeps {P a0 a1 s2} (h2 : Keeps P s2) : OutcomeKeeps P (execGetAnvilStatus a0 a1 s2) := by
  rw [execGetAnvilStatus]
  with_reducible repeat' first
    | assumption | exact cardGetAnvilStatus_keeps (by assumption) | refine runCard_keeps ?_ (fun _ _ _ => ?_)

theorem execGetContainment_keeps {P a0 a1 s2} (h2 : Keeps P s2) : OutcomeKeeps P (execGetContainment a0 a1 s2) := by
  rw [execGetContainment]
  with_reducible repeat' first
    | assumption | exact cardGetContainment_keeps (by assumption) | refine runCard_keeps ?_ (fun _ _ _ => ?_)

theorem execGetMemoryHealth_keeps {P a0 a1 s2} (h2 : Keeps P s2) : OutcomeKeeps P (execGetMemoryHealth a0 a1 s2) := by
  rw [execGetMemoryHealth]
  with_reducible repeat' first
    | assumption | exact cardGetMemoryHealth_keeps (by assumption) | refine runCard_keeps ?_ (fun _ _ _ => ?_)

theorem execInjectFault_keeps {P a0 a1 s2} (h2 : Keeps P s2) : OutcomeKeeps P (execInjectFault a0 a1 s2) := by
  rw [execInjectFault]
  with_reducible repeat' first
    | assumption | exact cardInjectFault_keeps (by assumption) | refine runCard_keeps ?_ (fun _ _ _ => ?_)

theorem execSetSelfTest_keeps {P a0 a1 s2} (h2 : Keeps P s2) : OutcomeKeeps P (execSetSelfTest a0 a1 s2) := by
  rw [execSetSelfTest]
  with_reducible repeat' first
    | assumption | exact cardSetSelfTest_keeps (by assumption) | refine runCard_keeps ?_ (fun _ _ _ => ?_)

end Sys2Proof.Machine
end

