-- ==== Sys2Proof/Laws/KeptPrograms.lean ====
section
/-! SUPPORT. What programs, publication, the pair and time leave true: each lemma `f_keeps` says that `f` keeps the pending queue
and the invariant of Safety.lean (`Keeps`). -/
namespace Sys2Proof.Machine
open Sys2Proof

theorem State.dropParts_keeps {P s0} (h0 : Keeps P s0) : Keeps P (State.dropParts s0) := by
  rw [State.dropParts]
  with_reducible repeat' first
    | assumption | refine State.sendCommand_keeps ?_ | split | refine Keeps.foldl ?_ (fun _ _ _ => ?_)

theorem State.unplace_keeps {P s0 a1} (h0 : Keeps P s0) : Keeps P (State.unplace s0 a1) := by
  rw [State.unplace]
  with_reducible repeat' first | assumption | refine State.modInst_keeps ?_

theorem State.unstage_keeps {P s0} (h0 : Keeps P s0) : Keeps P (State.unstage s0) := by
  rw [State.unstage]
  with_reducible repeat' first
    | assumption | refine State.unplace_keeps ?_ | refine State.dropRings_keeps ?_
    | refine Keeps.foldl ?_ (fun _ _ _ => ?_)

theorem State.tellNodes_keeps {P s0 a1 a2} (h0 : Keeps P s0) : Keeps P (State.tellNodes s0 a1 a2) := by
  rw [State.tellNodes]
  with_reducible repeat' first
    | assumption | refine Keeps.snd (by assumption) (State.sendCommand_keeps ?_) | split
    | refine Keeps.foldl2 ?_ (fun _ _ _ => ?_) | dsimp only [Keeps] | refine Keeps.snd (by assumption) ?_

theorem State.snapStill_keeps {P s0 a1} (h0 : Keeps P s0) : Keeps P (State.snapStill s0 a1) := by
  rw [State.snapStill]
  with_reducible repeat' first
    | assumption | refine State.commitRetained_keeps ?_ | refine State.setInst_keeps ?_ | split

theorem State.stageCopy_keeps {P s fi k i} (h : Keeps P s) {t} (e : State.stageCopy s fi k i = .ok t) : Keeps P t
    := by
  simp only [State.stageCopy] at e
  split at e
  · cases e; exact h
  · split at e
    · cases e; exact h
    · split at e
      · cases e; exact h
      · split at e
        · cases e
        · split at e
          · cases e
          · cases e
            split
            · exact State.loadCode_keeps (State.modInst_keeps h)
            · exact State.modInst_keeps h

theorem State.stageCopies_keeps {P s fi i l} (h : Keeps P s) {t} (e : State.stageCopies s fi i l = .ok t) : Keeps P t
    := by
  induction l generalizing s with
  | nil => cases e; exact h
  | cons k l ih =>
    simp only [State.stageCopies] at e
    split at e
    · cases e
    · exact ih (State.stageCopy_keeps h (by assumption)) e

theorem State.stageReplace_keeps {P s fi i} (h : Keeps P s) {t} (e : State.stageReplace s fi i = .ok t) : Keeps P t
    := by
  simp only [State.stageReplace] at e
  repeat' split at e
  all_goals first
    | (cases e; done)
    | (cases e; exact State.modInst_keeps (State.stageCopies_keeps h (by assumption)))

theorem State.stageEntry_keeps {P s x} (h : Keeps P s) {t} (e : State.stageEntry s x = .ok t) : Keeps P t := by
  cases x with
  | replace => exact State.stageReplace_keeps h e
  | add => simp only [State.stageEntry] at e; repeat' split at e
           all_goals first
             | (cases e; done)
             | (cases e; exact h)
  | remove => simp only [State.stageEntry] at e; repeat' split at e
              all_goals first
                | (cases e; done)
                | (cases e; exact h)
  | setting => simp only [State.stageEntry] at e; repeat' split at e
               all_goals first
                 | (cases e; done)
                 | (cases e; exact h)

theorem State.stageEntries_keeps {P s l} (h : Keeps P s) {t} (e : State.stageEntries s l = .ok t) : Keeps P t := by
  induction l generalizing s with
  | nil => cases e; exact h
  | cons k l ih =>
    simp only [State.stageEntries] at e
    split at e
    · cases e
    · exact ih (State.stageEntry_keeps h (by assumption)) e

theorem State.stageAll_keeps {P s} (h : Keeps P s) {t} (e : State.stageAll s = .ok t) : Keeps P t := by
  simp only [State.stageAll] at e
  split at e
  · cases e
  · rename_i u hu
    split at e
    · cases e
    · cases e
      exact Keeps.foldl (State.placeAll_keeps (State.stageEntries_keeps h hu) (by assumption)) (fun _ _ h => State.commitPlaced_keeps h)

theorem State.stageNow_keeps {P s} (h : Keeps P s) {a t} (e : State.stageNow s = some (a, t)) : Keeps P t := by
  have hr : Keeps P ({ s with prog.change := { failFi := 0, failSt := 0 } }.dropParts) := State.dropParts_keeps h
  simp only [State.stageNow] at e
  split at e
  · cases e
  · split at e
    · cases e; exact State.dropParts_keeps h
    · split at e
      · cases e
        exact (State.stageAll_keeps h (by assumption) : Keeps P _)
      · cases e; exact State.dropParts_keeps h

theorem State.completeChange_keeps {P s0} (h0 : Keeps P s0) : Keeps P (State.completeChange s0) := by
  rw [State.completeChange]
  with_reducible repeat' first
    | assumption | refine State.dropRings_keeps ?_ | refine State.finishWait_keeps ?_ | refine State.post_keeps ?_
    | split

theorem State.removeDone_keeps {P s0} (h0 : Keeps P s0) : Keeps P (State.removeDone s0) := by
  rw [State.removeDone]
  with_reducible repeat' first
    | assumption | refine State.removeInst_keeps ?_ | refine Keeps.foldl ?_ (fun _ _ _ => ?_)

theorem cardBindSignals_keeps {P s c} (h : Keeps P s) : CardKeeps P ((cardBindSignals).run s c) := by
  dsimp only [cardBindSignals]
  with_reducible repeat' first
    | assumption | refine CardOut.wrong_keeps | refine State.setInst_keeps ?_ | split | refine CardKeeps.ok ?_

theorem cardCancelChange_keeps {P s c} (h : Keeps P s) : CardKeeps P ((cardCancelChange).run s c) := by
  dsimp only [cardCancelChange]
  with_reducible repeat' first
    | assumption | refine CardOut.wrong_keeps | refine State.finishWait_keeps ?_ | refine State.dropParts_keeps ?_
    | refine State.unstage_keeps ?_ | split | refine CardKeeps.ok ?_

theorem cardFreeImage_keeps {P s c} (h : Keeps P s) : CardKeeps P ((cardFreeImage).run s c) := by
  dsimp only [cardFreeImage]
  with_reducible repeat' first | assumption | refine CardOut.wrong_keeps | split | refine CardKeeps.ok ?_

theorem cardGetChange_keeps {P s c} (h : Keeps P s) : CardKeeps P ((cardGetChange).run s c) := by
  dsimp only [cardGetChange]
  with_reducible repeat' first | assumption | refine CardKeeps.ok ?_

theorem cardGetRunState_keeps {P s c} (h : Keeps P s) : CardKeeps P ((cardGetRunState).run s c) := by
  dsimp only [cardGetRunState]
  with_reducible repeat' first | assumption | refine CardOut.wrong_keeps | split | refine CardKeeps.ok ?_

theorem State.finishImage_keeps {P s0 a1 a2} (h0 : Keeps P s0) : CardKeeps P (State.finishImage s0 a1 a2) := by
  rw [State.finishImage]
  with_reducible repeat' first | assumption | split | refine CardKeeps.ok ?_ | refine CardKeeps.errWith ?_

theorem badChunk_keeps {P a0}  : CardKeeps P (badChunk a0) := by
  rw [badChunk]
  with_reducible repeat' first | exact CardKeeps.err

theorem loadImageRun_keeps {P s0 a1} (h0 : Keeps P s0) : CardKeeps P (loadImageRun s0 a1) := by
  rw [loadImageRun]
  with_reducible repeat' first
    | assumption | refine badChunk_keeps | refine State.finishImage_keeps ?_ | refine CardOut.wrong_keeps
    | refine CardOut.noRes_keeps | split | refine CardKeeps.ok ?_ | dsimp only

theorem cardLoadImage_keeps {P s c} (h : Keeps P s) : CardKeeps P ((cardLoadImage).run s c) := by
  dsimp only [cardLoadImage]
  with_reducible repeat' first | assumption | refine loadImageRun_keeps ?_

theorem stageRun_keeps {P s0 a1} (h0 : Keeps P s0) : CardKeeps P (stageRun s0 a1) := by
  rw [stageRun]
  with_reducible repeat' first
    | assumption | refine CardOut.wrong_keeps | refine State.tellNodes_keeps ?_ | refine CardOut.noRes_keeps | split
    | refine CardKeeps.ok ?_ | refine CardKeeps.accepted ?_ | dsimp only

theorem cardStageChange_keeps {P s c} (h : Keeps P s) : CardKeeps P ((cardStageChange).run s c) := by
  dsimp only [cardStageChange]
  with_reducible repeat' first | assumption | refine stageRun_keeps ?_

theorem startRun_keeps {P s0 a1} (h0 : Keeps P s0) : CardKeeps P (startRun s0 a1) := by
  rw [startRun]
  with_reducible repeat' first
    | assumption | refine CardOut.wrong_keeps | refine CardOut.noRes_keeps | refine State.setInst_keeps ?_
    | refine State.beginStart_keeps ?_ | split | refine CardKeeps.ok ?_ | exact CardKeeps.err | dsimp only

theorem cardStartInstance_keeps {P s c} (h : Keeps P s) : CardKeeps P ((cardStartInstance).run s c) := by
  dsimp only [cardStartInstance]
  with_reducible repeat' first | assumption | refine startRun_keeps ?_

theorem cardStopInstance_keeps {P s c} (h : Keeps P s) : CardKeeps P ((cardStopInstance).run s c) := by
  dsimp only [cardStopInstance]
  with_reducible repeat' first
    | assumption | refine CardOut.wrong_keeps | refine State.writeSettings_keeps ?_ | refine State.setInst_keeps ?_
    | split | refine CardKeeps.ok ?_

theorem State.startAdded_keeps {P s0 a1 a2} (h0 : Keeps P s0) : Keeps P (State.startAdded s0 a1 a2) := by
  rw [State.startAdded]
  with_reducible repeat' first | assumption | refine State.modInst_keeps ?_

theorem cardSwitchChange_keeps {P s c} (h : Keeps P s) : CardKeeps P ((cardSwitchChange).run s c) := by
  dsimp only [cardSwitchChange]
  with_reducible repeat' first
    | assumption | refine CardOut.wrong_keeps | refine State.startAdded_keeps ?_ | refine State.tellNodes_keeps ?_
    | split | refine CardKeeps.accepted ?_ | refine Keeps.foldl ?_ (fun _ _ _ => ?_)

theorem writeSettingsRun_keeps {P s0 a1} (h0 : Keeps P s0) : CardKeeps P (writeSettingsRun s0 a1) := by
  rw [writeSettingsRun]
  with_reducible repeat' first
    | assumption | refine CardOut.wrong_keeps | refine State.setInst_keeps ?_ | refine State.post_keeps ?_
    | refine State.writeDataAll_keeps ?_ | refine State.snapStill_keeps ?_ | split | refine CardKeeps.ok ?_
    | refine CardKeeps.accepted ?_ | refine CardKeeps.later ?_ | refine Keeps.foldl ?_ (fun _ _ _ => ?_)

theorem cardWriteSettings_keeps {P s c} (h : Keeps P s) : CardKeeps P ((cardWriteSettings).run s c) := by
  dsimp only [cardWriteSettings]
  with_reducible repeat' first | assumption | refine writeSettingsRun_keeps ?_

theorem execBindSignals_keeps {P a0 a1 s2} (h2 : Keeps P s2) : OutcomeKeeps P (execBindSignals a0 a1 s2) := by
  rw [execBindSignals]
  with_reducible repeat' first
    | assumption | exact cardBindSignals_keeps (by assumption) | refine runCard_keeps ?_ (fun _ _ _ => ?_)

theorem execCancelChange_keeps {P a0 a1 s2} (h2 : Keeps P s2) : OutcomeKeeps P (execCancelChange a0 a1 s2) := by
  rw [execCancelChange]
  with_reducible repeat' first
    | assumption | exact cardCancelChange_keeps (by assumption) | refine runCard_keeps ?_ (fun _ _ _ => ?_)

theorem execChangeCompletion_keeps {P a0 s1} (h1 : Keeps P s1) : OutcomeKeeps P (execChangeCompletion a0 s1) := by
  rw [execChangeCompletion]
  with_reducible repeat' first
    | assumption | refine State.advance_keeps ?_ | refine State.removeDone_keeps ?_
    | refine State.completeChange_keeps ?_ | split | refine OutcomeKeeps.next ?_

theorem execFreeImage_keeps {P a0 a1 s2} (h2 : Keeps P s2) : OutcomeKeeps P (execFreeImage a0 a1 s2) := by
  rw [execFreeImage]
  with_reducible repeat' first
    | assumption | exact cardFreeImage_keeps (by assumption) | refine runCard_keeps ?_ (fun _ _ _ => ?_)

theorem execGetChange_keeps {P a0 a1 s2} (h2 : Keeps P s2) : OutcomeKeeps P (execGetChange a0 a1 s2) := by
  rw [execGetChange]
  with_reducible repeat' first
    | assumption | exact cardGetChange_keeps (by assumption) | refine runCard_keeps ?_ (fun _ _ _ => ?_)

theorem execGetRunState_keeps {P a0 a1 s2} (h2 : Keeps P s2) : OutcomeKeeps P (execGetRunState a0 a1 s2) := by
  rw [execGetRunState]
  with_reducible repeat' first
    | assumption | exact cardGetRunState_keeps (by assumption) | refine runCard_keeps ?_ (fun _ _ _ => ?_)

theorem execLoadImage_keeps {P a0 a1 s2} (h2 : Keeps P s2) : OutcomeKeeps P (execLoadImage a0 a1 s2) := by
  rw [execLoadImage]
  with_reducible repeat' first
    | assumption | exact cardLoadImage_keeps (by assumption) | refine runCard_keeps ?_ (fun _ _ _ => ?_)

theorem execStageChange_keeps {P a0 a1 s2} (h2 : Keeps P s2) : OutcomeKeeps P (execStageChange a0 a1 s2) := by
  rw [execStageChange]
  with_reducible repeat' first
    | assumption | exact cardStageChange_keeps (by assumption) | refine runCard_keeps ?_ (fun _ _ _ => ?_)

theorem execStartInstance_keeps {P a0 a1 s2} (h2 : Keeps P s2) : OutcomeKeeps P (execStartInstance a0 a1 s2) := by
  rw [execStartInstance]
  with_reducible repeat' first
    | assumption | exact cardStartInstance_keeps (by assumption) | refine runCard_keeps ?_ (fun _ _ _ => ?_)

theorem execStopInstance_keeps {P a0 a1 s2} (h2 : Keeps P s2) : OutcomeKeeps P (execStopInstance a0 a1 s2) := by
  rw [execStopInstance]
  with_reducible repeat' first
    | assumption | exact cardStopInstance_keeps (by assumption) | refine runCard_keeps ?_ (fun _ _ _ => ?_)

theorem execSwitchChange_keeps {P a0 a1 s2} (h2 : Keeps P s2) : OutcomeKeeps P (execSwitchChange a0 a1 s2) := by
  rw [execSwitchChange]
  with_reducible repeat' first
    | assumption | exact cardSwitchChange_keeps (by assumption) | refine runCard_keeps ?_ (fun _ _ _ => ?_)

theorem execWriteSettings_keeps {P a0 a1 s2} (h2 : Keeps P s2) : OutcomeKeeps P (execWriteSettings a0 a1 s2) := by
  rw [execWriteSettings]
  with_reducible repeat' first
    | assumption | exact cardWriteSettings_keeps (by assumption) | refine runCard_keeps ?_ (fun _ _ _ => ?_)

theorem State.outputInstant_keeps {P s0 a1 a2 a3 a4} (h0 : Keeps P s0) : Keeps P
    (State.outputInstant s0 a1 a2 a3 a4).2 := by
  rw [State.outputInstant]
  with_reducible repeat' first
    | assumption | refine State.setInst_keeps ?_ | refine State.driveOutputs_keeps ?_ | split

theorem State.pubCopies_keeps {P s0 a1 a2} (h0 : Keeps P s0) : Keeps P (State.pubCopies s0 a1 a2).2 := by
  rw [State.pubCopies]
  with_reducible repeat' first
    | assumption | refine Keeps.snd (by assumption) (State.nextTx_keeps ?_) | split
    | refine Keeps.foldl2 ?_ (fun _ _ _ => ?_)

theorem State.pubInstant_keeps {P s num n at_ cycle turn} (h : Keeps P s) : Keeps P
    (State.pubInstant s num n at_ cycle turn) := by
  rw [State.pubInstant]
  split
  · exact h
  · split
    · exact h
    · extract_lets p1 p st fresh due p2 src s1
      have h1 : Keeps P s1 := h
      have h2 : ∀ f, Keeps P (if due = true then s1.pubCopies p2.mask f else ([], s1)).2 := by
        intro f
        split
        · exact State.pubCopies_keeps h1
        · exact h1
      split
      rename_i copies s2 e
      have h3 : Keeps P s2 := Keeps.snd e (h2 _)
      clear h1 h2 e
      clear_value s1 p2 due
      extract_lets sent s4 src2 s5
      split
      · have h4 : Keeps P s4 := Keeps.foldl h3 (fun _ _ h => by
          split
          · exact State.originate_keeps h
          · exact State.originate_keeps h)
        have h5 : Keeps P s5 := by
          show Keeps P (if due = true then _ else s4)
          split
          · exact h4
          · exact h4
        clear h4
        clear_value s5
        split
        · exact State.pairSend_keeps h5
        · exact h5
      · split
        · exact h3
        · exact h3

theorem State.instantOf_keeps {P s0 a1} (h0 : Keeps P s0) : Keeps P (State.instantOf s0 a1) := by
  rw [State.instantOf]
  with_reducible repeat' first
    | assumption | refine State.outputInstant_keeps ?_ | refine State.pubInstant_keeps ?_ | split
    | refine Keeps.foldl ?_ (fun _ _ _ => ?_) | dsimp only

theorem cardBindOutputs_keeps {P s c} (h : Keeps P s) : CardKeeps P ((cardBindOutputs).run s c) := by
  dsimp only [cardBindOutputs]
  with_reducible repeat' first
    | assumption | refine CardOut.wrong_keeps | refine State.releaseSignals_keeps ?_
    | refine State.bindSignal_keeps ?_ | refine State.setInst_keeps ?_ | refine State.redriveOutputs_keeps ?_ | split
    | refine CardKeeps.ok ?_ | refine Keeps.foldl ?_ (fun _ _ _ => ?_)

theorem definePubRun_keeps {P s c} (h : Keeps P s) : CardKeeps P (definePubRun s c) := by
  rw [definePubRun]
  dsimp only
  split
  · exact CardKeeps.err
  · try split
    · exact CardKeeps.err
    all_goals split
    · exact CardKeeps.err
    · rename_i e
      exact CardKeeps.errWith (UseKeeps.of e (by
        split
        · trivial
        · split
          · exact State.useSlot_keeps h
          · trivial))
    · repeat' split
      all_goals first
        | exact CardKeeps.err
        | exact h

theorem cardDefinePublication_keeps {P s c} (h : Keeps P s) : CardKeeps P ((cardDefinePublication).run s c) := by
  dsimp only [cardDefinePublication]
  with_reducible repeat' first | assumption | refine definePubRun_keeps ?_

theorem defineSubRun_keeps {P s c} (h : Keeps P s) : CardKeeps P (defineSubRun s c) := by
  rw [defineSubRun]
  dsimp only
  split
  · exact CardKeeps.err
  · split
    · exact CardKeeps.err
    · rename_i e
      exact CardKeeps.errWith (UseKeeps.of e (by
        split
        · trivial
        · split
          · exact State.useSlot_keeps h
          · trivial))
    · repeat' split
      all_goals first
        | exact CardKeeps.err
        | exact Keeps.foldl (State.setSub_keeps h) (fun _ _ h => State.bindSignal_keeps h)

theorem cardDefineSubscription_keeps {P s c} (h : Keeps P s) : CardKeeps P ((cardDefineSubscription).run s c) := by
  dsimp only [cardDefineSubscription]
  with_reducible repeat' first | assumption | refine defineSubRun_keeps ?_

theorem enablePubRun_keeps {P s0 a1} (h0 : Keeps P s0) : CardKeeps P (enablePubRun s0 a1) := by
  rw [enablePubRun]
  with_reducible repeat' first
    | assumption | refine CardOut.wrong_keeps | refine CardOut.noRes_keeps | split | refine CardKeeps.ok ?_
    | exact CardKeeps.err | dsimp only

theorem cardEnablePublication_keeps {P s c} (h : Keeps P s) : CardKeeps P ((cardEnablePublication).run s c) := by
  dsimp only [cardEnablePublication]
  with_reducible repeat' first | assumption | refine enablePubRun_keeps ?_

theorem cardEnableSubscription_keeps {P s c} (h : Keeps P s) : CardKeeps P ((cardEnableSubscription).run s c) := by
  dsimp only [cardEnableSubscription]
  with_reducible repeat' first
    | assumption | refine CardOut.wrong_keeps | refine State.setSub_keeps ?_ | split | refine CardKeeps.ok ?_

theorem cardGetPublication_keeps {P s c} (h : Keeps P s) : CardKeeps P ((cardGetPublication).run s c) := by
  dsimp only [cardGetPublication]
  with_reducible repeat' first | assumption | refine CardOut.wrong_keeps | split | refine CardKeeps.ok ?_

theorem cardGetSignal_keeps {P s c} (h : Keeps P s) : CardKeeps P ((cardGetSignal).run s c) := by
  dsimp only [cardGetSignal]
  with_reducible repeat' first | assumption | refine CardKeeps.ok ?_

theorem cardGetSubscription_keeps {P s c} (h : Keeps P s) : CardKeeps P ((cardGetSubscription).run s c) := by
  dsimp only [cardGetSubscription]
  with_reducible repeat' first
    | assumption | refine CardOut.wrong_keeps | refine State.setSub_keeps ?_ | split | refine CardKeeps.ok ?_

theorem cardRemovePublication_keeps {P s c} (h : Keeps P s) : CardKeeps P ((cardRemovePublication).run s c) := by
  dsimp only [cardRemovePublication]
  with_reducible repeat' first | assumption | refine CardOut.wrong_keeps | split | refine CardKeeps.ok ?_

theorem cardRemoveSubscription_keeps {P s c} (h : Keeps P s) : CardKeeps P ((cardRemoveSubscription).run s c) := by
  dsimp only [cardRemoveSubscription]
  with_reducible repeat' first
    | assumption | refine CardOut.wrong_keeps | refine State.releaseSignals_keeps ?_ | split | refine CardKeeps.ok ?_

theorem setRouteRun_keeps {P s0 a1} (h0 : Keeps P s0) : CardKeeps P (setRouteRun s0 a1) := by
  rw [setRouteRun]
  with_reducible repeat' first
    | assumption | refine CardOut.wrong_keeps | split | refine CardKeeps.ok ?_ | exact CardKeeps.err | dsimp only

theorem cardSetRoute_keeps {P s c} (h : Keeps P s) : CardKeeps P ((cardSetRoute).run s c) := by
  dsimp only [cardSetRoute]
  with_reducible repeat' first | assumption | refine setRouteRun_keeps ?_

theorem State.expireHeld_keeps {P s0 a1 a2 a3} (h0 : Keeps P s0) : Keeps P (State.expireHeld s0 a1 a2 a3) := by
  rw [State.expireHeld]
  with_reducible repeat' first
    | assumption | refine State.entCount_keeps ?_ | refine State.drainC_keeps ?_ | refine State.modSource_keeps ?_
    | refine State.drainF_keeps ?_ | split

theorem execBindOutputs_keeps {P a0 a1 s2} (h2 : Keeps P s2) : OutcomeKeeps P (execBindOutputs a0 a1 s2) := by
  rw [execBindOutputs]
  with_reducible repeat' first
    | assumption | exact cardBindOutputs_keeps (by assumption) | refine runCard_keeps ?_ (fun _ _ _ => ?_)

theorem execDefinePublication_keeps {P a0 a1 s2} (h2 : Keeps P s2) : OutcomeKeeps P (execDefinePublication a0 a1 s2)
    := by
  rw [execDefinePublication]
  with_reducible repeat' first
    | assumption | exact cardDefinePublication_keeps (by assumption) | refine runCard_keeps ?_ (fun _ _ _ => ?_)

theorem execDefineSubscription_keeps {P a0 a1 s2} (h2 : Keeps P s2) : OutcomeKeeps P
    (execDefineSubscription a0 a1 s2) := by
  rw [execDefineSubscription]
  with_reducible repeat' first
    | assumption | exact cardDefineSubscription_keeps (by assumption) | refine runCard_keeps ?_ (fun _ _ _ => ?_)

theorem execEnablePublication_keeps {P a0 a1 s2} (h2 : Keeps P s2) : OutcomeKeeps P (execEnablePublication a0 a1 s2)
    := by
  rw [execEnablePublication]
  with_reducible repeat' first
    | assumption | exact cardEnablePublication_keeps (by assumption) | refine runCard_keeps ?_ (fun _ _ _ => ?_)

theorem execEnableSubscription_keeps {P a0 a1 s2} (h2 : Keeps P s2) : OutcomeKeeps P
    (execEnableSubscription a0 a1 s2) := by
  rw [execEnableSubscription]
  with_reducible repeat' first
    | assumption | exact cardEnableSubscription_keeps (by assumption) | refine runCard_keeps ?_ (fun _ _ _ => ?_)

theorem execGetPublication_keeps {P a0 a1 s2} (h2 : Keeps P s2) : OutcomeKeeps P (execGetPublication a0 a1 s2) := by
  rw [execGetPublication]
  with_reducible repeat' first
    | assumption | exact cardGetPublication_keeps (by assumption) | refine runCard_keeps ?_ (fun _ _ _ => ?_)

theorem execGetSignal_keeps {P a0 a1 s2} (h2 : Keeps P s2) : OutcomeKeeps P (execGetSignal a0 a1 s2) := by
  rw [execGetSignal]
  with_reducible repeat' first
    | assumption | exact cardGetSignal_keeps (by assumption) | refine runCard_keeps ?_ (fun _ _ _ => ?_)

theorem execGetSubscription_keeps {P a0 a1 s2} (h2 : Keeps P s2) : OutcomeKeeps P (execGetSubscription a0 a1 s2) := by
  rw [execGetSubscription]
  with_reducible repeat' first
    | assumption | exact cardGetSubscription_keeps (by assumption) | refine runCard_keeps ?_ (fun _ _ _ => ?_)

theorem execGooseFrameReceived_keeps {P a0 a1 a2 a3 s4} (h4 : Keeps P s4) : OutcomeKeeps P
    (execGooseFrameReceived a0 a1 a2 a3 s4) := by
  rw [execGooseFrameReceived]
  with_reducible repeat' first
    | assumption | refine State.gooseFrame_keeps ?_ | refine State.advance_keeps ?_ | refine OutcomeKeeps.next ?_

theorem execHoldExpiry_keeps {P a0 a1 a2 s3} (h3 : Keeps P s3) : OutcomeKeeps P (execHoldExpiry a0 a1 a2 s3) := by
  rw [execHoldExpiry]
  with_reducible repeat' first
    | assumption | refine State.advance_keeps ?_ | refine State.expireHeld_keeps ?_ | refine OutcomeKeeps.next ?_

theorem execPublicationInstant_keeps {P a0 a1 s2} (h2 : Keeps P s2) : OutcomeKeeps P
    (execPublicationInstant a0 a1 s2) := by
  rw [execPublicationInstant]
  with_reducible repeat' first
    | assumption | refine State.switchover_keeps ?_ | refine State.advance_keeps ?_ | refine State.instantOf_keeps ?_
    | refine OutcomeKeeps.next ?_ | refine Keeps.foldl ?_ (fun _ _ _ => ?_)

theorem execRemovePublication_keeps {P a0 a1 s2} (h2 : Keeps P s2) : OutcomeKeeps P (execRemovePublication a0 a1 s2)
    := by
  rw [execRemovePublication]
  with_reducible repeat' first
    | assumption | exact cardRemovePublication_keeps (by assumption) | refine runCard_keeps ?_ (fun _ _ _ => ?_)

theorem execRemoveSubscription_keeps {P a0 a1 s2} (h2 : Keeps P s2) : OutcomeKeeps P
    (execRemoveSubscription a0 a1 s2) := by
  rw [execRemoveSubscription]
  with_reducible repeat' first
    | assumption | exact cardRemoveSubscription_keeps (by assumption) | refine runCard_keeps ?_ (fun _ _ _ => ?_)

theorem execSetRoute_keeps {P a0 a1 s2} (h2 : Keeps P s2) : OutcomeKeeps P (execSetRoute a0 a1 s2) := by
  rw [execSetRoute]
  with_reducible repeat' first
    | assumption | exact cardSetRoute_keeps (by assumption) | refine runCard_keeps ?_ (fun _ _ _ => ?_)

theorem execSubscriptionStale_keeps {P a0 a1 s2} (h2 : Keeps P s2) : OutcomeKeeps P (execSubscriptionStale a0 a1 s2)
    := by
  rw [execSubscriptionStale]
  with_reducible repeat' first
    | assumption | refine State.advance_keeps ?_ | refine State.raiseInt_keeps ?_ | refine State.post_keeps ?_
    | refine State.setSub_keeps ?_ | split | refine OutcomeKeeps.next ?_

theorem State.dropConfig_keeps {P s} (h : Keeps P s) : Keeps P (State.dropConfig s) := by
  rw [State.dropConfig]
  have he := KeptParts.engines (f := fun _ g => { g with phase := .idle, exec := none }) (fun _ _ h => h) h
  exact KeptParts.store (d' := []) rfl he

theorem State.enterSync_keeps {P s0} (h0 : Keeps P s0) : Keeps P (State.enterSync s0) := by
  rw [State.enterSync]
  with_reducible repeat' first | assumption | refine State.dropConfig_keeps ?_

theorem cardGetPairStatus_keeps {P s c} (h : Keeps P s) : CardKeeps P ((cardGetPairStatus).run s c) := by
  dsimp only [cardGetPairStatus]
  with_reducible repeat' first | assumption | split | refine CardKeeps.ok ?_

theorem cardResync_keeps {P s c} (h : Keeps P s) : CardKeeps P ((cardResync).run s c) := by
  dsimp only [cardResync]
  with_reducible repeat' first
    | assumption | refine State.enterSync_keeps ?_ | refine CardOut.wrong_keeps | split | refine CardKeeps.ok ?_

theorem cardSetPair_keeps {P s c} (h : Keeps P s) : CardKeeps P (cardSetPair.run s c) := by
  dsimp only [cardSetPair]
  split
  · exact CardKeeps.err
  · split
    · exact CardKeeps.err
    · split
      · exact CardKeeps.err
      · split
        · exact CardKeeps.err
        · rename_i e; exact CardKeeps.errWith (UseKeeps.of e (State.useSlot_keeps h))
        · exact State.loadMac_keeps (State.loadMac_keeps (State.takePorts_keeps h))

theorem cardSwitchover_keeps {P s c} (h : Keeps P s) : CardKeeps P ((cardSwitchover).run s c) := by
  dsimp only [cardSwitchover]
  with_reducible repeat' first | assumption | refine CardOut.wrong_keeps | split | refine CardKeeps.accepted ?_

theorem State.followWithheld_keeps {P s0 a1 a2} (h0 : Keeps P s0) : Keeps P (State.followWithheld s0 a1 a2) := by
  rw [State.followWithheld]
  with_reducible repeat' first | assumption | refine State.modCycle_keeps ?_

theorem State.linkGaps_keeps {P s0} (h0 : Keeps P s0) : Keeps P (State.linkGaps s0) := by
  rw [State.linkGaps]
  with_reducible repeat' first | assumption | refine State.pairCount_keeps ?_ | split

theorem State.pairUnfit_keeps {P s0} (h0 : Keeps P s0) : Keeps P (State.pairUnfit s0) := by
  rw [State.pairUnfit]
  with_reducible repeat' first | assumption | refine State.enterSync_keeps ?_ | split

theorem State.pairTake_keeps {P s0 a1} (h0 : Keeps P s0) : Keeps P (State.pairTake s0 a1).2 := by
  rw [State.pairTake]
  with_reducible repeat' first
    | assumption | refine State.macOpen_keeps ?_ (by assumption) | refine State.pairUnfit_keeps ?_ | split
    | dsimp only [Keeps]

theorem State.onRecord_keeps {P s0 a1 a2} (h0 : Keeps P s0) (h2 : ∀ x0, Keeps P x0 → Keeps P (a2 x0)) : Keeps P
    (State.onRecord s0 a1 a2) := by
  rw [State.onRecord]
  with_reducible repeat' first
    | assumption | refine h2 _ ?_ | refine Keeps.snd (by assumption) (State.pairTake_keeps ?_) | split

theorem State.pairData_keeps {P s0 a1 a2 a3} (h0 : Keeps P s0) : Keeps P (State.pairData s0 a1 a2 a3) := by
  rw [State.pairData]
  with_reducible repeat' first
    | assumption | refine State.writeDataAll_keeps ?_ | refine State.modInst_keeps ?_ | split

theorem State.pairPub_keeps {P s0 a1 a2 a3 a4 a5} (h0 : Keeps P s0) : Keeps P (State.pairPub s0 a1 a2 a3 a4 a5) := by
  rw [State.pairPub]
  with_reducible repeat' first | assumption | split

theorem State.shadowMismatch_keeps {P s0 a1 a2} (h0 : Keeps P s0) : Keeps P (State.shadowMismatch s0 a1 a2) := by
  rw [State.shadowMismatch]
  with_reducible repeat' first
    | assumption | refine State.pairCount_keeps ?_ | refine State.diagnose_keeps ?_ | refine State.pairUnfit_keeps ?_
    | split

theorem State.pairResult_keeps {P s0 a1 a2} (h0 : Keeps P s0) : Keeps P (State.pairResult s0 a1 a2) := by
  rw [State.pairResult]
  with_reducible repeat' first
    | assumption | refine State.pairCount_keeps ?_ | refine State.followWithheld_keeps ?_
    | refine State.shadowMismatch_keeps ?_ | split | dsimp only

theorem State.pairTo_keeps {P s0 a1} (h0 : Keeps P s0) : Keeps P (State.pairTo s0 a1) := by
  rw [State.pairTo]
  assumption

theorem State.replay_keeps {P s0} (h0 : Keeps P s0) : Keeps P (State.replay s0) := by
  rw [State.replay]
  with_reducible repeat' first
    | assumption | refine State.pairSend_keeps ?_ | refine State.sendData_keeps ?_ | split
    | refine Keeps.foldl ?_ (fun _ _ _ => ?_)

theorem State.pairTick_keeps {P s0 a1 a2 a3} (h0 : Keeps P s0) : Keeps P (State.pairTick s0 a1 a2 a3) := by
  rw [State.pairTick]
  with_reducible repeat' first
    | assumption | refine State.post_keeps ?_ | refine State.enterSync_keeps ?_ | refine State.replay_keeps ?_
    | refine State.pairTo_keeps ?_ | refine State.postPair_keeps ?_ | refine State.pairUnfit_keeps ?_
    | refine State.linkGaps_keeps ?_ | split | dsimp only

theorem State.takeover_keeps {P s0} (h0 : Keeps P s0) : Keeps P (State.takeover s0) := by
  rw [State.takeover]
  with_reducible repeat' first
    | assumption | refine State.originate_keeps ?_ | refine State.post_keeps ?_ | refine State.bump_keeps ?_
    | refine State.pairCount_keeps ?_ | refine Keeps.foldl ?_ (fun _ _ _ => ?_)

theorem State.takeoverCondition_keeps {P s0} (h0 : Keeps P s0) : Keeps P (State.takeoverCondition s0) := by
  rw [State.takeoverCondition]
  with_reducible repeat' first
    | assumption | refine State.takeover_keeps ?_ | refine State.raiseInt_keeps ?_ | refine State.post_keeps ?_
    | split

theorem execGetPairStatus_keeps {P a0 a1 s2} (h2 : Keeps P s2) : OutcomeKeeps P (execGetPairStatus a0 a1 s2) := by
  rw [execGetPairStatus]
  with_reducible repeat' first
    | assumption | exact cardGetPairStatus_keeps (by assumption) | refine runCard_keeps ?_ (fun _ _ _ => ?_)

theorem execPairDataReceived_keeps {P a0 a1 a2 a3 a4 a5 s6} (h6 : Keeps P s6) : OutcomeKeeps P
    (execPairDataReceived a0 a1 a2 a3 a4 a5 s6) := by
  rw [execPairDataReceived]
  with_reducible repeat' first
    | assumption | refine State.onRecord_keeps ?_ ?_ | refine State.advance_keeps ?_ | refine State.pairData_keeps ?_
    | refine OutcomeKeeps.next ?_ | intro _

theorem execPairGiveUpReceived_keeps {P a0 a1 a2 a3 s4} (h4 : Keeps P s4) : OutcomeKeeps P
    (execPairGiveUpReceived a0 a1 a2 a3 s4) := by
  rw [execPairGiveUpReceived]
  with_reducible repeat' first
    | assumption | refine State.onRecord_keeps ?_ ?_ | refine State.advance_keeps ?_
    | refine State.takeoverCondition_keeps ?_ | refine OutcomeKeeps.next ?_ | intro _

theorem execPairLinkSilent_keeps {P a0 a1 s2} (h2 : Keeps P s2) : OutcomeKeeps P (execPairLinkSilent a0 a1 s2) := by
  rw [execPairLinkSilent]
  with_reducible repeat' first
    | assumption | refine State.advance_keeps ?_ | refine State.pairCount_keeps ?_ | refine State.postPair_keeps ?_
    | refine State.pairTo_keeps ?_ | split | refine OutcomeKeeps.next ?_ | dsimp only

theorem execPairOkChange_keeps {P a0 a1 s2} (h2 : Keeps P s2) : OutcomeKeeps P (execPairOkChange a0 a1 s2) := by
  rw [execPairOkChange]
  with_reducible repeat' first
    | assumption | refine State.advance_keeps ?_ | refine State.setLine_keeps ?_ | refine State.enterSync_keeps ?_
    | split | refine OutcomeKeeps.next ?_

theorem execPairPubReceived_keeps {P a0 a1 a2 a3 a4 a5 a6 s7} (h7 : Keeps P s7) : OutcomeKeeps P
    (execPairPubReceived a0 a1 a2 a3 a4 a5 a6 s7) := by
  rw [execPairPubReceived]
  with_reducible repeat' first
    | assumption | refine State.onRecord_keeps ?_ ?_ | refine State.advance_keeps ?_ | refine State.pairPub_keeps ?_
    | refine OutcomeKeeps.next ?_ | intro _

theorem execPairResultReceived_keeps {P a0 a1 a2 a3 a4 a5 a6 a7 s8} (h8 : Keeps P s8) : OutcomeKeeps P
    (execPairResultReceived a0 a1 a2 a3 a4 a5 a6 a7 s8) := by
  rw [execPairResultReceived]
  with_reducible repeat' first
    | assumption | refine State.onRecord_keeps ?_ ?_ | refine State.advance_keeps ?_
    | refine State.pairResult_keeps ?_ | refine OutcomeKeeps.next ?_ | intro _

theorem execPairTickLate_keeps {P a0 s1} (h1 : Keeps P s1) : OutcomeKeeps P (execPairTickLate a0 s1) := by
  rw [execPairTickLate]
  with_reducible repeat' first
    | assumption | refine State.advance_keeps ?_ | refine State.giveUp_keeps ?_ | split | refine OutcomeKeeps.next ?_

theorem execPairTickReceived_keeps {P a0 a1 a2 a3 a4 s5} (h5 : Keeps P s5) : OutcomeKeeps P
    (execPairTickReceived a0 a1 a2 a3 a4 s5) := by
  rw [execPairTickReceived]
  with_reducible repeat' first
    | assumption | refine State.onRecord_keeps ?_ ?_ | refine State.advance_keeps ?_ | refine State.pairTick_keeps ?_
    | refine OutcomeKeeps.next ?_ | intro _

theorem execPairTickSend_keeps {P a0 s1} (h1 : Keeps P s1) : OutcomeKeeps P (execPairTickSend a0 s1) := by
  rw [execPairTickSend]
  with_reducible repeat' first
    | assumption | refine State.switchover_keeps ?_ | refine State.advance_keeps ?_ | refine State.pairSend_keeps ?_
    | split | refine OutcomeKeeps.next ?_

theorem execPairWaitTimeout_keeps {P a0 s1} (h1 : Keeps P s1) : OutcomeKeeps P (execPairWaitTimeout a0 s1) := by
  rw [execPairWaitTimeout]
  with_reducible repeat' first | assumption | refine State.advance_keeps ?_ | split | refine OutcomeKeeps.next ?_

theorem execResync_keeps {P a0 a1 s2} (h2 : Keeps P s2) : OutcomeKeeps P (execResync a0 a1 s2) := by
  rw [execResync]
  with_reducible repeat' first
    | assumption | exact cardResync_keeps (by assumption) | refine runCard_keeps ?_ (fun _ _ _ => ?_)

theorem execSetPair_keeps {P a0 a1 s2} (h2 : Keeps P s2) : OutcomeKeeps P (execSetPair a0 a1 s2) := by
  rw [execSetPair]
  with_reducible repeat' first
    | assumption | exact cardSetPair_keeps (by assumption) | refine runCard_keeps ?_ (fun _ _ _ => ?_)

theorem execSwitchover_keeps {P a0 a1 s2} (h2 : Keeps P s2) : OutcomeKeeps P (execSwitchover a0 a1 s2) := by
  rw [execSwitchover]
  with_reducible repeat' first
    | assumption | exact cardSwitchover_keeps (by assumption) | refine runCard_keeps ?_ (fun _ _ _ => ?_)

theorem execTakeoverTimeout_keeps {P a0 s1} (h1 : Keeps P s1) : OutcomeKeeps P (execTakeoverTimeout a0 s1) := by
  rw [execTakeoverTimeout]
  with_reducible repeat' first
    | assumption | refine State.advance_keeps ?_ | refine State.takeoverCondition_keeps ?_ | split
    | refine OutcomeKeeps.next ?_

theorem State.checkDiverged_keeps {P s0} (h0 : Keeps P s0) : Keeps P (State.checkDiverged s0) := by
  rw [State.checkDiverged]
  with_reducible repeat' first | assumption | refine State.raiseInt_keeps ?_ | refine State.post_keeps ?_ | split

theorem State.ptStart_keeps {P s0 a1} (h0 : Keeps P s0) : Keeps P (State.ptStart s0 a1) := by
  rw [State.ptStart]
  assumption

theorem State.baseLocked_keeps {P s0 a1} (h0 : Keeps P s0) : Keeps P (State.baseLocked s0 a1) := by
  rw [State.baseLocked]
  with_reducible repeat' first
    | assumption | refine State.ptStart_keeps ?_ | refine State.checkDiverged_keeps ?_ | split

theorem State.switchTime_keeps {P s0 a1} (h0 : Keeps P s0) : Keeps P (State.switchTime s0 a1) := by
  rw [State.switchTime]
  with_reducible repeat' first | assumption | refine State.checkDiverged_keeps ?_ | refine State.post_keeps ?_

theorem State.baseLost_keeps {P s0 a1} (h0 : Keeps P s0) : Keeps P (State.baseLost s0 a1) := by
  rw [State.baseLost]
  with_reducible repeat' first | assumption | refine State.switchTime_keeps ?_ | split

theorem State.setPtp_keeps {P s0 a1 a2} (h0 : Keeps P s0) : Keeps P (State.setPtp s0 a1 a2) := by
  rw [State.setPtp]
  with_reducible repeat' first | assumption | split

theorem State.baseTo_keeps {P s0 a1 a2 a3} (h0 : Keeps P s0) : Keeps P (State.baseTo s0 a1 a2 a3) := by
  rw [State.baseTo]
  with_reducible repeat' first
    | assumption | refine State.setPtp_keeps ?_ | refine State.post_keeps ?_ | refine State.baseLocked_keeps ?_
    | refine State.baseLost_keeps ?_ | split

theorem State.acceptSync_keeps {P s0 a1 a2 a3} (h0 : Keeps P s0) : Keeps P (State.acceptSync s0 a1 a2 a3) := by
  rw [State.acceptSync]
  with_reducible repeat' first
    | ((try lift_lets -underBinder); intro x; first | (refine Keeps.ex P x ?_ (fun y e _ => ?_); (subst x; skip); rotate_left; ((try rw [← e]); clear e); rotate_right) | (refine Keeps.ex2 P x ?_ (fun y e _ => ?_); (subst x; skip); rotate_left; ((try rw [← e]); clear e); rotate_right) | (refine Keeps.exD x (fun y e => ?_); ((try rw [← e]); clear e)))
    | assumption | refine State.baseTo_keeps ?_ | refine State.setPtp_keeps ?_ | refine State.checkDiverged_keeps ?_
    | refine State.post_keeps ?_ | split

theorem State.hznLocked_keeps {P s0} (h0 : Keeps P s0) : Keeps P (State.hznLocked s0) := by
  rw [State.hznLocked]
  with_reducible repeat' first | assumption | refine State.checkDiverged_keeps ?_ | split

theorem State.toHoldover_keeps {P s0 a1} (h0 : Keeps P s0) : Keeps P (State.toHoldover s0 a1) := by
  rw [State.toHoldover]
  with_reducible repeat' first
    | assumption | refine State.setPtp_keeps ?_ | refine State.raiseInt_keeps ?_ | refine State.baseTo_keeps ?_
    | split

theorem State.hznUnlocked_keeps {P s0} (h0 : Keeps P s0) : Keeps P (State.hznUnlocked s0) := by
  rw [State.hznUnlocked]
  with_reducible repeat' first | assumption | refine State.toHoldover_keeps ?_ | split

theorem State.selectMaster_keeps {P s0 a1} (h0 : Keeps P s0) : Keeps P (State.selectMaster s0 a1) := by
  rw [State.selectMaster]
  with_reducible repeat' first | assumption | refine State.setPtp_keeps ?_ | refine State.baseTo_keeps ?_ | split

theorem cardGetPtpStatus_keeps {P s c} (h : Keeps P s) : CardKeeps P ((cardGetPtpStatus).run s c) := by
  dsimp only [cardGetPtpStatus]
  with_reducible repeat' first | assumption | refine State.setPtp_keeps ?_ | split | refine CardKeeps.ok ?_

theorem cardGetTime_keeps {P s c} (h : Keeps P s) : CardKeeps P ((cardGetTime).run s c) := by
  dsimp only [cardGetTime]
  with_reducible repeat' first | assumption | refine CardKeeps.ok ?_

theorem cardReadCaptures_keeps {P s c} (h : Keeps P s) : CardKeeps P ((cardReadCaptures).run s c) := by
  dsimp only [cardReadCaptures]
  with_reducible repeat' first | assumption | refine CardKeeps.ok ?_

theorem cardSelectTime_keeps {P s c} (h : Keeps P s) : CardKeeps P ((cardSelectTime).run s c) := by
  dsimp only [cardSelectTime]
  with_reducible repeat' first
    | assumption | refine CardOut.wrong_keeps | refine State.switchTime_keeps ?_ | refine State.post_keeps ?_
    | refine State.baseLocked_keeps ?_ | split | refine CardKeeps.ok ?_

theorem cardSetCaptureInput_keeps {P s c} (h : Keeps P s) : CardKeeps P ((cardSetCaptureInput).run s c) := by
  dsimp only [cardSetCaptureInput]
  with_reducible repeat' first | assumption | refine CardKeeps.ok ?_

theorem cardSetPortTiming_keeps {P s c} (h : Keeps P s) : CardKeeps P ((cardSetPortTiming).run s c) := by
  dsimp only [cardSetPortTiming]
  with_reducible repeat' first | assumption | refine CardKeeps.ok ?_

theorem cardSetPtp_keeps {P s c} (h : Keeps P s) : CardKeeps P ((cardSetPtp).run s c) := by
  dsimp only [cardSetPtp]
  with_reducible repeat' first
    | assumption | refine CardOut.wrong_keeps | refine State.baseTo_keeps ?_ | refine State.setPtp_keeps ?_ | split
    | refine CardKeeps.ok ?_

theorem State.setPulse_keeps {P s0 a1 a2} (h0 : Keeps P s0) : Keeps P (State.setPulse s0 a1 a2) := by
  rw [State.setPulse]
  assumption

theorem cardSetPulse_keeps {P s c} (h : Keeps P s) : CardKeeps P ((cardSetPulse).run s c) := by
  dsimp only [cardSetPulse]
  with_reducible repeat' first
    | assumption | refine CardOut.wrong_keeps | refine State.setPulse_keeps ?_ | split | refine CardKeeps.ok ?_

theorem cardSetUtc_keeps {P s c} (h : Keeps P s) : CardKeeps P ((cardSetUtc).run s c) := by
  dsimp only [cardSetUtc]
  with_reducible repeat' first | assumption | refine CardKeeps.ok ?_

theorem cardStepProtectionTime_keeps {P s c} (h : Keeps P s) : CardKeeps P ((cardStepProtectionTime).run s c) := by
  dsimp only [cardStepProtectionTime]
  with_reducible repeat' first
    | assumption | refine CardOut.wrong_keeps | refine State.post_keeps ?_ | refine State.checkDiverged_keeps ?_
    | split | refine CardKeeps.ok ?_

theorem State.syncFrom_keeps {P s0 a1 a2 a3 a4 a5 a6} (h0 : Keeps P s0) : Keeps P
    (State.syncFrom s0 a1 a2 a3 a4 a5 a6) := by
  rw [State.syncFrom]
  with_reducible repeat' first | assumption | refine State.acceptSync_keeps ?_ | split

theorem execGetPtpStatus_keeps {P a0 a1 s2} (h2 : Keeps P s2) : OutcomeKeeps P (execGetPtpStatus a0 a1 s2) := by
  rw [execGetPtpStatus]
  with_reducible repeat' first
    | assumption | exact cardGetPtpStatus_keeps (by assumption) | refine runCard_keeps ?_ (fun _ _ _ => ?_)

theorem execGetTime_keeps {P a0 a1 s2} (h2 : Keeps P s2) : OutcomeKeeps P (execGetTime a0 a1 s2) := by
  rw [execGetTime]
  with_reducible repeat' first
    | assumption | exact cardGetTime_keeps (by assumption) | refine runCard_keeps ?_ (fun _ _ _ => ?_)

theorem execLeapSecond_keeps {P a0 s1} (h1 : Keeps P s1) : OutcomeKeeps P (execLeapSecond a0 s1) := by
  rw [execLeapSecond]
  with_reducible repeat' first
    | assumption | refine State.advance_keeps ?_ | refine State.setPtp_keeps ?_ | split | refine OutcomeKeeps.next ?_
    | dsimp only

theorem execPdelayReq_keeps {P a0 a1 a2 a3 a4 a5 a6 s7} (h7 : Keeps P s7) : OutcomeKeeps P
    (execPdelayReq a0 a1 a2 a3 a4 a5 a6 s7) := by
  rw [execPdelayReq]
  with_reducible repeat' first
    | assumption | refine State.advance_keeps ?_ | refine State.emit_keeps ?_ | split | refine OutcomeKeeps.next ?_

theorem execPdelayResponse_keeps {P a0 a1 a2 a3 a4 a5 a6 s7} (h7 : Keeps P s7) : OutcomeKeeps P
    (execPdelayResponse a0 a1 a2 a3 a4 a5 a6 s7) := by
  rw [execPdelayResponse]
  with_reducible repeat' first | assumption | refine State.advance_keeps ?_ | split | refine OutcomeKeeps.next ?_

theorem execPtpAnnounce_keeps {P a0 a1 a2 s3} (h3 : Keeps P s3) : OutcomeKeeps P (execPtpAnnounce a0 a1 a2 s3) := by
  rw [execPtpAnnounce]
  with_reducible repeat' first
    | assumption | refine State.advance_keeps ?_ | refine State.setPtp_keeps ?_ | refine State.selectMaster_keeps ?_
    | split | refine OutcomeKeeps.next ?_

theorem execPtpFollowUp_keeps {P a0 a1 a2 s3} (h3 : Keeps P s3) : OutcomeKeeps P (execPtpFollowUp a0 a1 a2 s3) := by
  rw [execPtpFollowUp]
  with_reducible repeat' first
    | assumption | refine State.advance_keeps ?_ | refine State.syncFrom_keeps ?_ | refine State.setPtp_keeps ?_
    | split | refine OutcomeKeeps.next ?_ | dsimp only

theorem execPtpSync_keeps {P a0 a1 a2 a3 s4} (h4 : Keeps P s4) : OutcomeKeeps P (execPtpSync a0 a1 a2 a3 s4) := by
  rw [execPtpSync]
  with_reducible repeat' first
    | assumption | refine State.advance_keeps ?_ | refine State.setPtp_keeps ?_ | refine State.syncFrom_keeps ?_
    | split | refine OutcomeKeeps.next ?_ | dsimp only

theorem execPtpSyncTimeout_keeps {P a0 a1 s2} (h2 : Keeps P s2) : OutcomeKeeps P (execPtpSyncTimeout a0 a1 s2) := by
  rw [execPtpSyncTimeout]
  with_reducible repeat' first
    | assumption | refine State.advance_keeps ?_ | refine State.selectMaster_keeps ?_
    | refine State.toHoldover_keeps ?_ | split | refine OutcomeKeeps.next ?_

theorem execPulseInstant_keeps {P a0 a1 s2} (h2 : Keeps P s2) : OutcomeKeeps P (execPulseInstant a0 a1 s2) := by
  rw [execPulseInstant]
  with_reducible repeat' first
    | assumption | refine State.advance_keeps ?_ | refine State.setPulse_keeps ?_ | refine State.emit_keeps ?_ | split
    | refine OutcomeKeeps.next ?_ | dsimp only

theorem execReadCaptures_keeps {P a0 a1 s2} (h2 : Keeps P s2) : OutcomeKeeps P (execReadCaptures a0 a1 s2) := by
  rw [execReadCaptures]
  with_reducible repeat' first
    | assumption | exact cardReadCaptures_keeps (by assumption) | refine runCard_keeps ?_ (fun _ _ _ => ?_)

theorem execRevertTimeout_keeps {P a0 s1} (h1 : Keeps P s1) : OutcomeKeeps P (execRevertTimeout a0 s1) := by
  rw [execRevertTimeout]
  with_reducible repeat' first
    | assumption | refine State.advance_keeps ?_ | refine State.switchTime_keeps ?_ | split
    | refine OutcomeKeeps.next ?_

theorem execSelectTime_keeps {P a0 a1 s2} (h2 : Keeps P s2) : OutcomeKeeps P (execSelectTime a0 a1 s2) := by
  rw [execSelectTime]
  with_reducible repeat' first
    | assumption | exact cardSelectTime_keeps (by assumption) | refine runCard_keeps ?_ (fun _ _ _ => ?_)

theorem execSetCaptureInput_keeps {P a0 a1 s2} (h2 : Keeps P s2) : OutcomeKeeps P (execSetCaptureInput a0 a1 s2) := by
  rw [execSetCaptureInput]
  with_reducible repeat' first
    | assumption | exact cardSetCaptureInput_keeps (by assumption) | refine runCard_keeps ?_ (fun _ _ _ => ?_)

theorem execSetPortTiming_keeps {P a0 a1 s2} (h2 : Keeps P s2) : OutcomeKeeps P (execSetPortTiming a0 a1 s2) := by
  rw [execSetPortTiming]
  with_reducible repeat' first
    | assumption | exact cardSetPortTiming_keeps (by assumption) | refine runCard_keeps ?_ (fun _ _ _ => ?_)

theorem execSetPtp_keeps {P a0 a1 s2} (h2 : Keeps P s2) : OutcomeKeeps P (execSetPtp a0 a1 s2) := by
  rw [execSetPtp]
  with_reducible repeat' first
    | assumption | exact cardSetPtp_keeps (by assumption) | refine runCard_keeps ?_ (fun _ _ _ => ?_)

theorem execSetPulse_keeps {P a0 a1 s2} (h2 : Keeps P s2) : OutcomeKeeps P (execSetPulse a0 a1 s2) := by
  rw [execSetPulse]
  with_reducible repeat' first
    | assumption | exact cardSetPulse_keeps (by assumption) | refine runCard_keeps ?_ (fun _ _ _ => ?_)

theorem execSetUtc_keeps {P a0 a1 s2} (h2 : Keeps P s2) : OutcomeKeeps P (execSetUtc a0 a1 s2) := by
  rw [execSetUtc]
  with_reducible repeat' first
    | assumption | exact cardSetUtc_keeps (by assumption) | refine runCard_keeps ?_ (fun _ _ _ => ?_)

theorem execSlewComplete_keeps {P a0 s1} (h1 : Keeps P s1) : OutcomeKeeps P (execSlewComplete a0 s1) := by
  rw [execSlewComplete]
  with_reducible repeat' first
    | assumption | refine State.advance_keeps ?_ | refine State.checkDiverged_keeps ?_ | split
    | refine OutcomeKeeps.next ?_

theorem execStepProtectionTime_keeps {P a0 a1 s2} (h2 : Keeps P s2) : OutcomeKeeps P
    (execStepProtectionTime a0 a1 s2) := by
  rw [execStepProtectionTime]
  with_reducible repeat' first
    | assumption | exact cardStepProtectionTime_keeps (by assumption) | refine runCard_keeps ?_ (fun _ _ _ => ?_)

theorem execTb2DeltaMeasurement_keeps {P a0 s1} (h1 : Keeps P s1) : OutcomeKeeps P (execTb2DeltaMeasurement a0 s1)
    := by
  rw [execTb2DeltaMeasurement]
  with_reducible repeat' first
    | assumption | refine State.advance_keeps ?_ | refine State.post_keeps ?_ | split | refine OutcomeKeeps.next ?_

end Sys2Proof.Machine
end

