-- ==== Sys2Proof/Laws/KeptCapture.lean ====
section
/-! SUPPORT. What captures and Stratus leave true: each lemma `f_keeps` says that `f` keeps the pending queue
and the invariant of Safety.lean (`Keeps`). -/
namespace Sys2Proof.Machine
open Sys2Proof

theorem State.armRec_keeps {P s0 a1 a2} (h0 : Keeps P s0) : Keeps P (State.armRec s0 a1 a2) := by
  rw [State.armRec]
  with_reducible repeat' first | assumption | refine State.setRec_keeps ?_ | refine State.post_keeps ?_ | split

theorem State.capAvail_keeps {P s0 a1} (h0 : Keeps P s0) : Keeps P (State.capAvail s0 a1) := by
  rw [State.capAvail]
  with_reducible repeat' first | assumption | refine State.armRec_keeps ?_ | split

theorem State.capReadLines_keeps {P f s o n} (h : Keeps P s) : Keeps P (State.capReadLines f s o n).2.2 := by
  induction f generalizing s o n with
  | zero => exact h
  | succ f ih =>
    simp only [State.capReadLines]
    split
    · exact h
    · exact ih (State.readRange_keeps h)

theorem State.capRead_keeps {P s0 a1 a2} (h0 : Keeps P s0) : Keeps P (State.capRead s0 a1 a2).2.2 := by
  rw [State.capRead]
  with_reducible repeat' first | assumption | refine State.capReadLines_keeps ?_

theorem State.archiveOne_keeps {P s0} (h0 : Keeps P s0) : Keeps P (State.archiveOne s0) := by
  rw [State.archiveOne]
  with_reducible repeat' first
    | assumption | refine State.capRead_keeps ?_ | refine State.capAvail_keeps ?_ | split | dsimp only

theorem State.capWrite_keeps {P s0 a1 a2} (h0 : Keeps P s0) : Keeps P (State.capWrite s0 a1 a2) := by
  rw [State.capWrite]
  with_reducible repeat' first | assumption | refine KeptParts.storeN ?_ | refine State.wroteRange_keeps ?_

theorem State.freeBytes_keeps {P s0 a1} (h0 : Keeps P s0) : Keeps P (State.freeBytes s0 a1).2 := by
  rw [State.freeBytes]
  assumption

theorem State.writeSegment_keeps {P s0 a1 a2 a3 a4} (h0 : Keeps P s0) : Keeps P (State.writeSegment s0 a1 a2 a3 a4)
    := by
  rw [State.writeSegment]
  with_reducible repeat' first | assumption | refine State.freeBytes_keeps ?_ | refine State.capWrite_keeps ?_

theorem State.endRun_keeps {P s0 a1 a2 a3 a4} (h0 : Keeps P s0) : Keeps P (State.endRun s0 a1 a2 a3 a4) := by
  rw [State.endRun]
  with_reducible repeat' first
    | assumption | refine State.setRec_keeps ?_ | refine State.writeSegment_keeps ?_ | refine State.post_keeps ?_
    | split | dsimp only

theorem State.passDrain_keeps {P s0 a1 a2} (h0 : Keeps P s0) : Keeps P (State.passDrain s0 a1 a2) := by
  rw [State.passDrain]
  with_reducible repeat' first
    | assumption | refine State.setRec_keeps ?_ | refine State.endRun_keeps ?_ | split | dsimp only

theorem State.passRun_keeps {P f s n} (h : Keeps P s) : Keeps P (State.passRun f s n) := by
  induction f generalizing s with
  | zero => exact h
  | succ f ih =>
    simp only [State.passRun]
    split
    · exact h
    · split
      · exact h
      · split
        · exact h
        · split
          · exact State.setRec_keeps h
          · exact ih (State.endRun_keeps h)

theorem State.pruneKept_keeps {P s0} (h0 : Keeps P s0) : Keeps P (State.pruneKept s0) := by
  rw [State.pruneKept]
  assumption

theorem State.capHorizon_keeps {P s0 a1} (h0 : Keeps P s0) : Keeps P (State.capHorizon s0 a1) := by
  rw [State.capHorizon]
  with_reducible repeat' first
    | assumption | refine State.setRec_keeps ?_ | refine State.passDrain_keeps ?_ | refine State.pruneKept_keeps ?_
    | refine State.passRun_keeps ?_ | split | refine Keeps.foldl ?_ (fun _ _ _ => ?_)

theorem State.capTpi_keeps {P s0 a1 a2} (h0 : Keeps P s0) : Keeps P (State.capTpi s0 a1 a2) := by
  rw [State.capTpi]
  assumption

theorem State.completeSegment_keeps {P s0} (h0 : Keeps P s0) : Keeps P (State.completeSegment s0) := by
  rw [State.completeSegment]
  with_reducible repeat' first
    | assumption | refine State.capWrite_keeps ?_ | refine State.setRec_keeps ?_ | refine State.capAvail_keeps ?_
    | refine State.raiseInt_keeps ?_ | split | dsimp only

theorem State.disarmRec_keeps {P s0 a1 a2} (h0 : Keeps P s0) : Keeps P (State.disarmRec s0 a1 a2) := by
  rw [State.disarmRec]
  with_reducible repeat' first | assumption | refine State.setRec_keeps ?_ | split

theorem cardArmRecorder_keeps {P s c} (h : Keeps P s) : CardKeeps P ((cardArmRecorder).run s c) := by
  dsimp only [cardArmRecorder]
  with_reducible repeat' first
    | assumption | refine CardOut.wrong_keeps | refine State.disarmRec_keeps ?_ | refine State.armRec_keeps ?_ | split
    | refine CardKeeps.ok ?_

theorem cardDefineRecorder_keeps {P s c} (h : Keeps P s) : CardKeeps P ((cardDefineRecorder).run s c) := by
  dsimp only [cardDefineRecorder]
  with_reducible repeat' first
    | assumption | refine CardOut.wrong_keeps | refine CardOut.noRes_keeps | refine State.setRec_keeps ?_ | split
    | refine CardKeeps.ok ?_

theorem cardForceTrigger_keeps {P s c} (h : Keeps P s) : CardKeeps P ((cardForceTrigger).run s c) := by
  dsimp only [cardForceTrigger]
  with_reducible repeat' first
    | assumption | refine CardOut.wrong_keeps | refine State.wrongRole_keeps ?_ | refine State.setRec_keeps ?_
    | refine State.sendForward_keeps ?_ | split | refine CardKeeps.ok ?_ | refine Keeps.foldl ?_ (fun _ _ _ => ?_)

theorem cardGetCaptureTotals_keeps {P s c} (h : Keeps P s) : CardKeeps P ((cardGetCaptureTotals).run s c) := by
  dsimp only [cardGetCaptureTotals]
  with_reducible repeat' first | assumption | refine CardKeeps.ok ?_

theorem cardGetRecorder_keeps {P s c} (h : Keeps P s) : CardKeeps P ((cardGetRecorder).run s c) := by
  dsimp only [cardGetRecorder]
  with_reducible repeat' first
    | assumption | refine CardOut.wrong_keeps | refine State.setRec_keeps ?_ | split | refine CardKeeps.ok ?_

theorem cardListSegments_keeps {P s c} (h : Keeps P s) : CardKeeps P ((cardListSegments).run s c) := by
  dsimp only [cardListSegments]
  with_reducible repeat' first | assumption | refine CardOut.wrong_keeps | split | refine CardKeeps.ok ?_

theorem cardLoadMask_keeps {P s c} (h : Keeps P s) : CardKeeps P ((cardLoadMask).run s c) := by
  dsimp only [cardLoadMask]
  with_reducible repeat' first
    | assumption | refine CardOut.wrong_keeps | refine State.capWrite_keeps ?_ | refine CardOut.noRes_keeps | split
    | refine CardKeeps.ok ?_

theorem State.readSegment_keeps {P s0 a1} (h0 : Keeps P s0) : Keeps P (State.readSegment s0 a1).2.2 := by
  rw [State.readSegment]
  with_reducible repeat' first
    | assumption | refine State.capRead_keeps ?_ | split | refine Keeps.snd2 (by assumption) ?_

theorem cardReadSegment_keeps {P s c} (h : Keeps P s) : CardKeeps P ((cardReadSegment).run s c) := by
  dsimp only [cardReadSegment]
  with_reducible repeat' first
    | assumption | refine CardOut.wrong_keeps | refine State.readSegment_keeps ?_ | split | refine CardKeeps.ok ?_
    | refine CardKeeps.accepted ?_

theorem cardReleaseSegment_keeps {P s c} (h : Keeps P s) : CardKeeps P ((cardReleaseSegment).run s c) := by
  dsimp only [cardReleaseSegment]
  with_reducible repeat' first
    | assumption | refine CardOut.wrong_keeps | refine State.setRec_keeps ?_ | refine State.capAvail_keeps ?_ | split
    | refine CardKeeps.ok ?_

theorem cardRemoveRecorder_keeps {P s c} (h : Keeps P s) : CardKeeps P ((cardRemoveRecorder).run s c) := by
  dsimp only [cardRemoveRecorder]
  with_reducible repeat' first | assumption | refine CardOut.wrong_keeps | split | refine CardKeeps.ok ?_

theorem cardSetTrigger_keeps {P s c} (h : Keeps P s) : CardKeeps P ((cardSetTrigger).run s c) := by
  dsimp only [cardSetTrigger]
  with_reducible repeat' first
    | assumption | refine CardOut.wrong_keeps | refine State.setRec_keeps ?_ | split | refine CardKeeps.ok ?_

theorem State.finishSegment_keeps {P s0 a1} (h0 : Keeps P s0) : Keeps P (State.finishSegment s0 a1).2.2.2 := by
  rw [State.finishSegment]
  with_reducible repeat' first
    | assumption | refine Keeps.snd2 (by assumption) (State.readSegment_keeps ?_)
    | refine Keeps.snd (by assumption) (State.dmaWrite_keeps ?_) | split

theorem State.tpiEdge_keeps {P s0 a1 a2 a3 a4} (h0 : Keeps P s0) : Keeps P (State.tpiEdge s0 a1 a2 a3 a4) := by
  rw [State.tpiEdge]
  with_reducible repeat' first
    | assumption | refine State.setLine_keeps ?_ | refine State.capTpi_keeps ?_ | refine State.tpiSync_keeps ?_
    | split | dsimp only

theorem execArchiveCopyComplete_keeps {P a0 s1} (h1 : Keeps P s1) : OutcomeKeeps P (execArchiveCopyComplete a0 s1)
    := by
  rw [execArchiveCopyComplete]
  with_reducible repeat' first
    | assumption | refine State.archiveOne_keeps ?_ | refine State.advance_keeps ?_ | refine OutcomeKeeps.next ?_

theorem execArmRecorder_keeps {P a0 a1 s2} (h2 : Keeps P s2) : OutcomeKeeps P (execArmRecorder a0 a1 s2) := by
  rw [execArmRecorder]
  with_reducible repeat' first
    | assumption | exact cardArmRecorder_keeps (by assumption) | refine runCard_keeps ?_ (fun _ _ _ => ?_)

theorem execCaptureHorizon_keeps {P a0 a1 s2} (h2 : Keeps P s2) : OutcomeKeeps P (execCaptureHorizon a0 a1 s2) := by
  rw [execCaptureHorizon]
  with_reducible repeat' first
    | assumption | refine State.capHorizon_keeps ?_ | refine State.advance_keeps ?_ | refine OutcomeKeeps.next ?_

theorem execDefineRecorder_keeps {P a0 a1 s2} (h2 : Keeps P s2) : OutcomeKeeps P (execDefineRecorder a0 a1 s2) := by
  rw [execDefineRecorder]
  with_reducible repeat' first
    | assumption | exact cardDefineRecorder_keeps (by assumption) | refine runCard_keeps ?_ (fun _ _ _ => ?_)

theorem execForceTrigger_keeps {P a0 a1 s2} (h2 : Keeps P s2) : OutcomeKeeps P (execForceTrigger a0 a1 s2) := by
  rw [execForceTrigger]
  with_reducible repeat' first
    | assumption | exact cardForceTrigger_keeps (by assumption) | refine runCard_keeps ?_ (fun _ _ _ => ?_)

theorem execGetCaptureTotals_keeps {P a0 a1 s2} (h2 : Keeps P s2) : OutcomeKeeps P (execGetCaptureTotals a0 a1 s2)
    := by
  rw [execGetCaptureTotals]
  with_reducible repeat' first
    | assumption | exact cardGetCaptureTotals_keeps (by assumption) | refine runCard_keeps ?_ (fun _ _ _ => ?_)

theorem execGetRecorder_keeps {P a0 a1 s2} (h2 : Keeps P s2) : OutcomeKeeps P (execGetRecorder a0 a1 s2) := by
  rw [execGetRecorder]
  with_reducible repeat' first
    | assumption | exact cardGetRecorder_keeps (by assumption) | refine runCard_keeps ?_ (fun _ _ _ => ?_)

theorem execListSegments_keeps {P a0 a1 s2} (h2 : Keeps P s2) : OutcomeKeeps P (execListSegments a0 a1 s2) := by
  rw [execListSegments]
  with_reducible repeat' first
    | assumption | exact cardListSegments_keeps (by assumption) | refine runCard_keeps ?_ (fun _ _ _ => ?_)

theorem execLoadMask_keeps {P a0 a1 s2} (h2 : Keeps P s2) : OutcomeKeeps P (execLoadMask a0 a1 s2) := by
  rw [execLoadMask]
  with_reducible repeat' first
    | assumption | exact cardLoadMask_keeps (by assumption) | refine runCard_keeps ?_ (fun _ _ _ => ?_)

theorem execReadSegment_keeps {P a0 a1 s2} (h2 : Keeps P s2) : OutcomeKeeps P (execReadSegment a0 a1 s2) := by
  rw [execReadSegment]
  with_reducible repeat' first
    | assumption | exact cardReadSegment_keeps (by assumption) | refine runCard_keeps ?_ (fun _ _ _ => ?_)

theorem execReleaseSegment_keeps {P a0 a1 s2} (h2 : Keeps P s2) : OutcomeKeeps P (execReleaseSegment a0 a1 s2) := by
  rw [execReleaseSegment]
  with_reducible repeat' first
    | assumption | exact cardReleaseSegment_keeps (by assumption) | refine runCard_keeps ?_ (fun _ _ _ => ?_)

theorem execRemoveRecorder_keeps {P a0 a1 s2} (h2 : Keeps P s2) : OutcomeKeeps P (execRemoveRecorder a0 a1 s2) := by
  rw [execRemoveRecorder]
  with_reducible repeat' first
    | assumption | exact cardRemoveRecorder_keeps (by assumption) | refine runCard_keeps ?_ (fun _ _ _ => ?_)

theorem execSegmentComplete_keeps {P a0 s1} (h1 : Keeps P s1) : OutcomeKeeps P (execSegmentComplete a0 s1) := by
  rw [execSegmentComplete]
  with_reducible repeat' first
    | assumption | refine State.completeSegment_keeps ?_ | refine State.advance_keeps ?_ | refine OutcomeKeeps.next ?_

theorem execSetTrigger_keeps {P a0 a1 s2} (h2 : Keeps P s2) : OutcomeKeeps P (execSetTrigger a0 a1 s2) := by
  rw [execSetTrigger]
  with_reducible repeat' first
    | assumption | exact cardSetTrigger_keeps (by assumption) | refine runCard_keeps ?_ (fun _ _ _ => ?_)

theorem execTpiEdge_keeps {P a0 a1 a2 a3 a4 s5} (h5 : Keeps P s5) : OutcomeKeeps P (execTpiEdge a0 a1 a2 a3 a4 s5)
    := by
  rw [execTpiEdge]
  with_reducible repeat' first
    | assumption | refine State.tpiEdge_keeps ?_ | refine State.advance_keeps ?_ | refine OutcomeKeeps.next ?_

theorem State.acceptAssign_keeps {P s c} (h : Keeps P s) : Keeps P (State.acceptAssign s c) := by
  have hd : ∀ (b : Bool) f, CardKeeps P (if b = true then .ok (s.modInst (u16 c.params 0) f) [] else declareRun s c) := by
    intro b f
    cases b
    · exact declareRun_keeps h
    · exact State.modInst_keeps h
  rw [State.acceptAssign]
  split
  · rename_i e
    have ht : Keeps P _ := CardKeeps.of_ok e (hd _ _)
    split
    · rename_i e2; exact State.sendWorkerReply_keeps (Keeps.snd e2 (State.placeHere_keeps ht))
    · exact State.sendWorkerReply_keeps h
  · exact State.sendWorkerReply_keeps h
  · exact h

theorem State.postTakeover_keeps {P s0 a1 a2 a3} (h0 : Keeps P s0) : Keeps P (State.postTakeover s0 a1 a2 a3) := by
  rw [State.postTakeover]
  with_reducible repeat' first | assumption | refine State.post_keeps ?_

theorem State.stratusCount_keeps {P s0 a1} (h0 : Keeps P s0) : Keeps P (State.stratusCount s0 a1) := by
  rw [State.stratusCount]
  assumption

theorem State.backupTakeover_keeps {P s0 a1} (h0 : Keeps P s0) : Keeps P (State.backupTakeover s0 a1) := by
  rw [State.backupTakeover]
  with_reducible repeat' first
    | assumption | refine State.raiseInt_keeps ?_ | refine State.postTakeover_keeps ?_
    | refine State.stratusCount_keeps ?_ | split

theorem State.insertOwn_keeps {P s0 a1 a2 a3 a4} (h0 : Keeps P s0) : Keeps P (State.insertOwn s0 a1 a2 a3 a4).2 := by
  rw [State.insertOwn]
  with_reducible repeat' first | assumption | split

theorem State.sendRound_keeps {P s0 a1 a2} (h0 : Keeps P s0) : Keeps P (State.sendRound s0 a1 a2) := by
  rw [State.sendRound]
  with_reducible repeat' first
    | assumption | refine State.insertOwn_keeps ?_ | refine State.emit_keeps ?_ | split
    | refine Keeps.foldl ?_ (fun _ _ _ => ?_) | dsimp only

theorem State.setLevel_keeps {P s0 a1} (h0 : Keeps P s0) : Keeps P (State.setLevel s0 a1) := by
  rw [State.setLevel]
  with_reducible repeat' first | assumption | refine State.post_keeps ?_ | split

theorem State.startPolling_keeps {P s0} (h0 : Keeps P s0) : Keeps P (State.startPolling s0) := by
  rw [State.startPolling]
  with_reducible repeat' first | assumption | split

theorem State.takeHandover_keeps {P s0 a1} (h0 : Keeps P s0) : Keeps P (State.takeHandover s0 a1) := by
  rw [State.takeHandover]
  with_reducible repeat' first
    | assumption | refine State.finishWait_keeps ?_ | refine State.postTakeover_keeps ?_ | split | dsimp only

theorem State.openRound_keeps {P s0 a1 a2} (h0 : Keeps P s0) : Keeps P (State.openRound s0 a1 a2) := by
  rw [State.openRound]
  with_reducible repeat' first
    | assumption | refine State.startPolling_keeps ?_ | refine State.takeHandover_keeps ?_
    | refine State.sendRound_keeps ?_ | refine State.setLevel_keeps ?_ | split

theorem State.takeActivation_keeps {P s0} (h0 : Keeps P s0) : Keeps P (State.takeActivation s0) := by
  rw [State.takeActivation]
  with_reducible repeat' first | assumption | split

theorem State.beginRound_keeps {P s0} (h0 : Keeps P s0) : Keeps P (State.beginRound s0) := by
  rw [State.beginRound]
  with_reducible repeat' first
    | assumption | refine State.takeActivation_keeps ?_ | refine State.openRound_keeps ?_ | split | dsimp only

theorem State.commitNodes_keeps {P s0} (h0 : Keeps P s0) : Keeps P (State.commitNodes s0) := by
  rw [State.commitNodes]
  assumption

theorem State.slotSignals_keeps {P s0 a1 a2} (h0 : Keeps P s0) : Keeps P (State.slotSignals s0 a1 a2) := by
  rw [State.slotSignals]
  with_reducible repeat' first
    | assumption | refine State.setSignal_keeps ?_ | split | refine Keeps.foldl ?_ (fun _ _ _ => ?_) | dsimp only

theorem State.commitSlot_keeps {P s0 a1 a2 a3 a4} (h0 : Keeps P s0) : Keeps P (State.commitSlot s0 a1 a2 a3 a4) := by
  rw [State.commitSlot]
  with_reducible repeat' first
    | assumption | refine State.stratusCount_keeps ?_ | refine State.slotSignals_keeps ?_ | split

theorem State.correctTb2_keeps {P s0 a1} (h0 : Keeps P s0) : Keeps P (State.correctTb2 s0 a1) := by
  rw [State.correctTb2]
  with_reducible repeat' first | assumption | split

theorem State.quietRound_keeps {P s0 a1} (h0 : Keeps P s0) : Keeps P (State.quietRound s0 a1) := by
  rw [State.quietRound]
  with_reducible repeat' first
    | assumption | refine State.raiseInt_keeps ?_ | refine State.postTakeover_keeps ?_ | split | dsimp only

theorem State.commitRound_keeps {P s0} (h0 : Keeps P s0) : Keeps P (State.commitRound s0) := by
  rw [State.commitRound]
  with_reducible repeat' first
    | assumption | refine State.commitSlot_keeps ?_ | refine State.correctTb2_keeps ?_
    | refine State.commitNodes_keeps ?_ | refine State.backupTakeover_keeps ?_ | refine State.quietRound_keeps ?_
    | split | refine Keeps.foldl ?_ (fun _ _ _ => ?_)

theorem State.setActivation_keeps {P s0} (h0 : Keeps P s0) : Keeps P (State.setActivation s0) := by
  rw [State.setActivation]
  with_reducible repeat' first
    | assumption | refine State.sendMgmt_keeps ?_ | refine State.finishWait_keeps ?_ | split
    | refine Keeps.foldl ?_ (fun _ _ _ => ?_)

theorem State.forwardPoll_keeps {P s0 a1 a2 a3} (h0 : Keeps P s0) : Keeps P (State.forwardPoll s0 a1 a2 a3) := by
  rw [State.forwardPoll]
  with_reducible repeat' first | assumption | refine State.emit_keeps ?_ | split

theorem State.lap2Send_keeps {P s0} (h0 : Keeps P s0) : Keeps P (State.lap2Send s0) := by
  rw [State.lap2Send]
  with_reducible repeat' first
    | assumption | refine State.forwardPoll_keeps ?_ | split | refine Keeps.foldl ?_ (fun _ _ _ => ?_)

theorem State.lateSlot_keeps {P s0 a1} (h0 : Keeps P s0) : Keeps P (State.lateSlot s0 a1) := by
  rw [State.lateSlot]
  with_reducible repeat' first | assumption | split

theorem State.managerState_keeps {P s0 a1 a2 a3} (h0 : Keeps P s0) (h1 : ∀ x0 x1 x2, Keeps P x1 → Keeps P
    (a1 x0 x1 x2)) : Keeps P (State.managerState s0 a1 a2 a3) := by
  rw [State.managerState]
  with_reducible repeat' first
    | assumption | refine h1 _ _ _ ?_ | refine State.setInst_keeps ?_ | refine State.setExtra_keeps ?_ | split

theorem State.meetEpoch_keeps {P s0 a1 a2} (h0 : Keeps P s0) : Keeps P (State.meetEpoch s0 a1 a2) := by
  rw [State.meetEpoch]
  with_reducible repeat' first | assumption | split

theorem State.takeAck_keeps {P s0 a1 a2} (h0 : Keeps P s0) : Keeps P (State.takeAck s0 a1 a2) := by
  rw [State.takeAck]
  with_reducible repeat' first | assumption | split

theorem State.unassign_keeps {P s0 a1 a2} (h0 : Keeps P s0) : Keeps P (State.unassign s0 a1 a2) := by
  rw [State.unassign]
  with_reducible repeat' first
    | assumption | refine State.raiseInt_keeps ?_ | refine State.post_keeps ?_ | refine State.modInst_keeps ?_

theorem State.takeAnswer_keeps {P s0 a1 a2 a3 a4 a5} (h0 : Keeps P s0) : Keeps P (State.takeAnswer s0 a1 a2 a3 a4 a5)
    := by
  rw [State.takeAnswer]
  with_reducible repeat' first
    | assumption | refine State.finishWait_keeps ?_ | refine State.unassign_keeps ?_
    | refine State.setAssigned_keeps ?_ | refine State.sendCommand_keeps ?_ | split | dsimp only

theorem State.mgmtBody_keeps {P s run a b m} (h : Keeps P s) (hr : ∀ x0 x1 x2, Keeps P x1 → Keeps P (run x0 x1 x2))
    : Keeps P (State.mgmtBody s run a b m) := by
  cases m <;> simp only [State.mgmtBody]
  · exact hr _ _ _ h
  · exact State.acceptAssign_keeps h
  · exact State.managerState_keeps h hr
  · split
    · exact h
    · exact State.modInst_keeps h
  · exact h
  · exact h
  · exact h
  · split
    · exact h
    · exact State.takeAnswer_keeps h
  · exact h
  · exact State.setActivation_keeps (State.takeAck_keeps h)

theorem State.openLink_keeps {P s0 a1 a2} (h0 : Keeps P s0) {t} (e : State.openLink s0 a1 a2 = some t) : Keeps P t
    := by
  rw [State.openLink] at e
  with_reducible repeat' first
    | split at e | assumption | refine State.macOpen_keeps ?_ (by assumption) | refine State.loadStratus_keeps ?_

theorem State.passMgmt_keeps {P s0 a1 a2 a3 a4 a5} (h0 : Keeps P s0) : Keeps P (State.passMgmt s0 a1 a2 a3 a4 a5)
    := by
  rw [State.passMgmt]
  with_reducible repeat' first | assumption | refine State.emit_keeps ?_ | split

theorem State.mgmtReceived_keeps {P s0 a1 a2 a3 a4 a5 a6} (h0 : Keeps P s0) (h1 : ∀ x0 x1 x2, Keeps P x1 → Keeps P
    (a1 x0 x1 x2)) : Keeps P (State.mgmtReceived s0 a1 a2 a3 a4 a5 a6) := by
  rw [State.mgmtReceived]
  with_reducible repeat' first
    | assumption | refine State.openLink_keeps ?_ (by assumption) | refine State.stratusCount_keeps ?_
    | refine State.passMgmt_keeps ?_ | refine State.mgmtBody_keeps ?_ ?_ | refine State.emit_keeps ?_ | split
    | dsimp only

theorem State.mgmtRetry_keeps {P s0} (h0 : Keeps P s0) : Keeps P (State.mgmtRetry s0) := by
  rw [State.mgmtRetry]
  with_reducible repeat' first
    | assumption | refine State.emit_keeps ?_ | split | refine Keeps.foldl ?_ (fun _ _ _ => ?_)

theorem State.moveInst_keeps {P s0 a1 a2 a3} (h0 : Keeps P s0) : Keeps P (State.moveInst s0 a1 a2 a3) := by
  rw [State.moveInst]
  with_reducible repeat' first
    | assumption | refine Keeps.snd (by assumption) (State.placeHere_keeps ?_) | refine State.unassign_keeps ?_
    | refine State.beginStart_keeps ?_ | refine State.sendAssign_keeps ?_ | refine State.sendMgmt_keeps ?_
    | refine State.modInst_keeps ?_ | split | refine Keeps.foldl2 ?_ (fun _ _ _ => ?_) | dsimp only

theorem State.nodeLost_keeps {P s0 a1} (h0 : Keeps P s0) : Keeps P (State.nodeLost s0 a1) := by
  rw [State.nodeLost]
  with_reducible repeat' first
    | assumption | refine State.moveInst_keeps ?_ | split | refine Keeps.foldl ?_ (fun _ _ _ => ?_) | dsimp only

theorem State.readAreas_keeps {P s0 a1 a2 a3} (h0 : Keeps P s0) : Keeps P (State.readAreas s0 a1 a2 a3) := by
  rw [State.readAreas]
  with_reducible repeat' first | assumption | split | refine Keeps.foldl ?_ (fun _ _ _ => ?_) | dsimp only

theorem State.takeRecord_keeps {P s0 a1 a2 a3 a4 a5} (h0 : Keeps P s0) : Keeps P (State.takeRecord s0 a1 a2 a3 a4 a5)
    := by
  rw [State.takeRecord]
  assumption

theorem State.readSlots_keeps {P s0 a1 a2} (h0 : Keeps P s0) : Keeps P (State.readSlots s0 a1 a2) := by
  rw [State.readSlots]
  with_reducible repeat' first
    | assumption | refine State.lateSlot_keeps ?_ | refine State.takeRecord_keeps ?_ | split
    | refine Keeps.foldl ?_ (fun _ _ _ => ?_)

theorem State.readPoll_keeps {P s0 a1 a2 a3} (h0 : Keeps P s0) : Keeps P (State.readPoll s0 a1 a2 a3) := by
  rw [State.readPoll]
  with_reducible repeat' first
    | assumption | refine State.setLevel_keeps ?_ | refine State.readSlots_keeps ?_ | refine State.readAreas_keeps ?_
    | split | dsimp only

theorem State.pollFrame_keeps {P s0 a1 a2} (h0 : Keeps P s0) : Keeps P (State.pollFrame s0 a1 a2) := by
  rw [State.pollFrame]
  with_reducible repeat' first
    | ((try lift_lets -underBinder); intro x; first | (refine Keeps.ex P x ?_ (fun y e _ => ?_); (subst x; skip); rotate_left; ((try rw [← e]); clear e); rotate_right) | (refine Keeps.ex2 P x ?_ (fun y e _ => ?_); (subst x; skip); rotate_left; ((try rw [← e]); clear e); rotate_right) | (refine Keeps.exD x (fun y e => ?_); ((try rw [← e]); clear e)))
    | assumption | refine State.openLink_keeps ?_ (by assumption) | refine State.forwardPoll_keeps ?_
    | refine State.stratusCount_keeps ?_ | refine State.meetEpoch_keeps ?_ | refine State.readPoll_keeps ?_
    | refine State.insertOwn_keeps ?_ | split

theorem cardActivateSchedule_keeps {P s c} (h : Keeps P s) : CardKeeps P ((cardActivateSchedule).run s c) := by
  dsimp only [cardActivateSchedule]
  with_reducible repeat' first
    | assumption | refine State.wrongRole_keeps ?_ | refine CardOut.wrong_keeps | refine State.sendMgmt_keeps ?_
    | split | refine CardKeeps.accepted ?_ | refine Keeps.foldl ?_ (fun _ _ _ => ?_)

theorem cardBindReceive_keeps {P s c} (h : Keeps P s) : CardKeeps P ((cardBindReceive).run s c) := by
  dsimp only [cardBindReceive]
  with_reducible repeat' first
    | assumption | refine State.wrongRole_keeps ?_ | refine CardOut.wrong_keeps | refine State.releaseSignals_keeps ?_
    | split | refine CardKeeps.ok ?_ | refine Keeps.foldl ?_ (fun _ _ _ => ?_)

theorem cardGetNodes_keeps {P s c} (h : Keeps P s) : CardKeeps P ((cardGetNodes).run s c) := by
  dsimp only [cardGetNodes]
  with_reducible repeat' first | assumption | refine State.wrongRole_keeps ?_ | split | refine CardKeeps.ok ?_

theorem cardGetSlot_keeps {P s c} (h : Keeps P s) : CardKeeps P ((cardGetSlot).run s c) := by
  dsimp only [cardGetSlot]
  with_reducible repeat' first | assumption | refine State.wrongRole_keeps ?_ | split | refine CardKeeps.ok ?_

theorem cardGetStratusStatus_keeps {P s c} (h : Keeps P s) : CardKeeps P ((cardGetStratusStatus).run s c) := by
  dsimp only [cardGetStratusStatus]
  with_reducible repeat' first | assumption | split | refine CardKeeps.ok ?_

theorem cardGetSync_keeps {P s c} (h : Keeps P s) : CardKeeps P ((cardGetSync).run s c) := by
  dsimp only [cardGetSync]
  with_reducible repeat' first | assumption | refine State.wrongRole_keeps ?_ | split | refine CardKeeps.ok ?_

theorem cardHandoverManager_keeps {P s c} (h : Keeps P s) : CardKeeps P ((cardHandoverManager).run s c) := by
  dsimp only [cardHandoverManager]
  with_reducible repeat' first
    | assumption | refine State.wrongRole_keeps ?_ | refine CardOut.wrong_keeps | refine State.sendMgmt_keeps ?_
    | split | refine CardKeeps.accepted ?_ | refine Keeps.foldl ?_ (fun _ _ _ => ?_)

theorem State.finishSchedule_keeps {P s0 a1 a2} (h0 : Keeps P s0) : CardKeeps P (State.finishSchedule s0 a1 a2) := by
  rw [State.finishSchedule]
  with_reducible repeat' first
    | assumption | split | refine CardKeeps.ok ?_ | refine CardKeeps.errWith ?_ | dsimp only

theorem cardLoadSchedule_keeps {P s c} (h : Keeps P s) : CardKeeps P ((cardLoadSchedule).run s c) := by
  dsimp only [cardLoadSchedule]
  with_reducible repeat' first
    | assumption | refine State.wrongRole_keeps ?_ | refine State.finishSchedule_keeps ?_ | split
    | refine CardKeeps.ok ?_

theorem cardSetStratus_keeps {P s c} (h : Keeps P s) : CardKeeps P (cardSetStratus.run s c) := by
  dsimp only [cardSetStratus]
  split
  · exact CardKeeps.err
  · split
    · exact CardKeeps.err
    · split
      · exact CardKeeps.err
      · split
        · exact CardKeeps.err
        · split
          · exact CardKeeps.err
          · split
            · exact CardKeeps.err
            · split
              · exact CardKeeps.err
              · rename_i e; exact CardKeeps.errWith (UseKeeps.of e (State.useSlot_keeps h))
              · split
                · exact h
                · exact CardKeeps.ok (State.loadStratus_keeps (State.loadStratus_keeps (State.takePorts_keeps h)))

theorem State.scheduleDue_keeps {P s0} (h0 : Keeps P s0) : Keeps P (State.scheduleDue s0) := by
  rw [State.scheduleDue]
  with_reducible repeat' first
    | assumption | refine State.setActivation_keeps ?_ | refine State.finishWait_keeps ?_ | split

theorem execActivateSchedule_keeps {P a0 a1 s2} (h2 : Keeps P s2) : OutcomeKeeps P (execActivateSchedule a0 a1 s2)
    := by
  rw [execActivateSchedule]
  with_reducible repeat' first
    | assumption | exact cardActivateSchedule_keeps (by assumption) | refine runCard_keeps ?_ (fun _ _ _ => ?_)

theorem execBindReceive_keeps {P a0 a1 s2} (h2 : Keeps P s2) : OutcomeKeeps P (execBindReceive a0 a1 s2) := by
  rw [execBindReceive]
  with_reducible repeat' first
    | assumption | exact cardBindReceive_keeps (by assumption) | refine runCard_keeps ?_ (fun _ _ _ => ?_)

theorem execGetNodes_keeps {P a0 a1 s2} (h2 : Keeps P s2) : OutcomeKeeps P (execGetNodes a0 a1 s2) := by
  rw [execGetNodes]
  with_reducible repeat' first
    | assumption | exact cardGetNodes_keeps (by assumption) | refine runCard_keeps ?_ (fun _ _ _ => ?_)

theorem execGetSlot_keeps {P a0 a1 s2} (h2 : Keeps P s2) : OutcomeKeeps P (execGetSlot a0 a1 s2) := by
  rw [execGetSlot]
  with_reducible repeat' first
    | assumption | exact cardGetSlot_keeps (by assumption) | refine runCard_keeps ?_ (fun _ _ _ => ?_)

theorem execGetStratusStatus_keeps {P a0 a1 s2} (h2 : Keeps P s2) : OutcomeKeeps P (execGetStratusStatus a0 a1 s2)
    := by
  rw [execGetStratusStatus]
  with_reducible repeat' first
    | assumption | exact cardGetStratusStatus_keeps (by assumption) | refine runCard_keeps ?_ (fun _ _ _ => ?_)

theorem execGetSync_keeps {P a0 a1 s2} (h2 : Keeps P s2) : OutcomeKeeps P (execGetSync a0 a1 s2) := by
  rw [execGetSync]
  with_reducible repeat' first
    | assumption | exact cardGetSync_keeps (by assumption) | refine runCard_keeps ?_ (fun _ _ _ => ?_)

theorem execHandoverManager_keeps {P a0 a1 s2} (h2 : Keeps P s2) : OutcomeKeeps P (execHandoverManager a0 a1 s2) := by
  rw [execHandoverManager]
  with_reducible repeat' first
    | assumption | exact cardHandoverManager_keeps (by assumption) | refine runCard_keeps ?_ (fun _ _ _ => ?_)

theorem execLap2Send_keeps {P a0 s1} (h1 : Keeps P s1) : OutcomeKeeps P (execLap2Send a0 s1) := by
  rw [execLap2Send]
  with_reducible repeat' first
    | assumption | refine State.lap2Send_keeps ?_ | refine State.advance_keeps ?_ | refine OutcomeKeeps.next ?_

theorem execLinkDelayMeasurement_keeps {P a0 a1 a2 s3} (h3 : Keeps P s3) : OutcomeKeeps P
    (execLinkDelayMeasurement a0 a1 a2 s3) := by
  rw [execLinkDelayMeasurement]
  with_reducible repeat' first
    | assumption | refine State.advance_keeps ?_ | refine State.post_keeps ?_ | split | refine OutcomeKeeps.next ?_

theorem execLoadSchedule_keeps {P a0 a1 s2} (h2 : Keeps P s2) : OutcomeKeeps P (execLoadSchedule a0 a1 s2) := by
  rw [execLoadSchedule]
  with_reducible repeat' first
    | assumption | exact cardLoadSchedule_keeps (by assumption) | refine runCard_keeps ?_ (fun _ _ _ => ?_)

theorem execManagerListenTimeout_keeps {P a0 s1} (h1 : Keeps P s1) : OutcomeKeeps P (execManagerListenTimeout a0 s1)
    := by
  rw [execManagerListenTimeout]
  with_reducible repeat' first | assumption | refine State.advance_keeps ?_ | split | refine OutcomeKeeps.next ?_

theorem execMgmtMessageRetry_keeps {P a0 s1} (h1 : Keeps P s1) : OutcomeKeeps P (execMgmtMessageRetry a0 s1) := by
  rw [execMgmtMessageRetry]
  with_reducible repeat' first
    | assumption | refine State.mgmtRetry_keeps ?_ | refine State.advance_keeps ?_ | refine OutcomeKeeps.next ?_

theorem execNodeLost_keeps {P a0 a1 s2} (h2 : Keeps P s2) : OutcomeKeeps P (execNodeLost a0 a1 s2) := by
  rw [execNodeLost]
  with_reducible repeat' first
    | assumption | refine State.nodeLost_keeps ?_ | refine State.advance_keeps ?_ | refine OutcomeKeeps.next ?_

theorem execPollFrameReceived_keeps {P a0 a1 a2 s3} (h3 : Keeps P s3) : OutcomeKeeps P
    (execPollFrameReceived a0 a1 a2 s3) := by
  rw [execPollFrameReceived]
  with_reducible repeat' first
    | assumption | refine State.pollFrame_keeps ?_ | refine State.advance_keeps ?_ | refine OutcomeKeeps.next ?_

theorem execRoundCommit_keeps {P a0 s1} (h1 : Keeps P s1) : OutcomeKeeps P (execRoundCommit a0 s1) := by
  rw [execRoundCommit]
  with_reducible repeat' first
    | assumption | refine State.commitRound_keeps ?_ | refine State.advance_keeps ?_ | refine OutcomeKeeps.next ?_

theorem execRoundStart_keeps {P a0 s1} (h1 : Keeps P s1) : OutcomeKeeps P (execRoundStart a0 s1) := by
  rw [execRoundStart]
  with_reducible repeat' first
    | assumption | refine State.beginRound_keeps ?_ | refine State.advance_keeps ?_ | refine OutcomeKeeps.next ?_

theorem execSetStratus_keeps {P a0 a1 s2} (h2 : Keeps P s2) : OutcomeKeeps P (execSetStratus a0 a1 s2) := by
  rw [execSetStratus]
  with_reducible repeat' first
    | assumption | exact cardSetStratus_keeps (by assumption) | refine runCard_keeps ?_ (fun _ _ _ => ?_)

theorem execWorkerStateReport_keeps {P a0 s1} (h1 : Keeps P s1) : OutcomeKeeps P (execWorkerStateReport a0 s1) := by
  rw [execWorkerStateReport]
  with_reducible repeat' first
    | assumption | refine State.advance_keeps ?_ | refine State.sendMgmt_keeps ?_ | split
    | refine OutcomeKeeps.next ?_

end Sys2Proof.Machine
end

