-- ==== Sys2Proof/Laws/KeptHost.lean ====
section
/-! SUPPORT. What the host, the interrupt controller and the clocks leave true: each lemma `f_keeps` says that `f` keeps the pending queue
and the invariant of Safety.lean (`Keeps`). -/
namespace Sys2Proof.Machine
open Sys2Proof

theorem State.setSrc_keeps {P s0 a1 a2} (h0 : Keeps P s0) : Keeps P (State.setSrc s0 a1 a2) := by
  rw [State.setSrc]
  assumption

theorem State.icuRestart_keeps {P s0} (h0 : Keeps P s0) : Keeps P (State.icuRestart s0) := by
  rw [State.icuRestart]
  with_reducible repeat' first | assumption | refine State.setSrc_keeps ?_ | refine Keeps.foldl ?_ (fun _ _ _ => ?_)

theorem State.setMsix_keeps {P s0 a1 a2} (h0 : Keeps P s0) : Keeps P (State.setMsix s0 a1 a2) := by
  rw [State.setMsix]
  assumption

theorem State.icuResetVi_keeps {P s0 a1} (h0 : Keeps P s0) : Keeps P (State.icuResetVi s0 a1) := by
  rw [State.icuResetVi]
  assumption

theorem State.icuClear_keeps {P s0 a1 a2 a3} (h0 : Keeps P s0) : Keeps P (State.icuClear s0 a1 a2 a3) := by
  rw [State.icuClear]
  with_reducible repeat' first
    | assumption | refine State.setSrc_keeps ?_ | split | refine Keeps.foldl ?_ (fun _ _ _ => ?_) | dsimp only

theorem State.unmask_keeps {P s0 a1} (h0 : Keeps P s0) : Keeps P (State.unmask s0 a1) := by
  rw [State.unmask]
  with_reducible repeat' first | assumption | refine State.setSrc_keeps ?_ | split

theorem State.icuUnmask_keeps {P s0 a1 a2} (h0 : Keeps P s0) : Keeps P (State.icuUnmask s0 a1 a2) := by
  rw [State.icuUnmask]
  with_reducible repeat' first | assumption | refine State.unmask_keeps ?_ | split

theorem State.deliverZenith_keeps {P s0} (h0 : Keeps P s0) : Keeps P (State.deliverZenith s0) := by
  rw [State.deliverZenith]
  with_reducible repeat' first
    | assumption | refine State.setSrc_keeps ?_ | split | refine Keeps.foldl ?_ (fun _ _ _ => ?_)

theorem State.msixSend_keeps {P s0 a1} (h0 : Keeps P s0) : Keeps P (State.msixSend s0 a1) := by
  rw [State.msixSend]
  with_reducible repeat' first
    | assumption | refine State.setMsix_keeps ?_ | refine State.emit_keeps ?_ | refine State.setSrc_keeps ?_ | split

theorem State.hostEvent_keeps {P s0 a1} (h0 : Keeps P s0) : Keeps P (State.hostEvent s0 a1) := by
  rw [State.hostEvent]
  with_reducible repeat' first | assumption | refine State.msixSend_keeps ?_ | refine State.setSrc_keeps ?_ | split

theorem State.icuRecovered_keeps {P s0} (h0 : Keeps P s0) : Keeps P (State.icuRecovered s0) := by
  rw [State.icuRecovered]
  with_reducible repeat' first | assumption | refine State.deliverZenith_keeps ?_

theorem State.maskSource_keeps {P s0 a1 a2} (h0 : Keeps P s0) : Keeps P (State.maskSource s0 a1 a2) := by
  rw [State.maskSource]
  with_reducible repeat' first
    | assumption | refine State.setSrc_keeps ?_ | refine State.raiseInt_keeps ?_ | refine State.post_keeps ?_ | split

theorem State.msixFlush_keeps {P s0 a1} (h0 : Keeps P s0) : Keeps P (State.msixFlush s0 a1) := by
  rw [State.msixFlush]
  with_reducible repeat' first
    | assumption | refine State.setMsix_keeps ?_ | refine State.emit_keeps ?_ | split
    | refine Keeps.foldl ?_ (fun _ _ _ => ?_)

theorem State.suppress_keeps {P s0 a1} (h0 : Keeps P s0) : Keeps P (State.suppress s0 a1) := by
  rw [State.suppress]
  with_reducible repeat' first | assumption | refine State.setSrc_keeps ?_ | refine State.setMsix_keeps ?_ | split

theorem State.takeEvent_keeps {P s0 a1} (h0 : Keeps P s0) : Keeps P (State.takeEvent s0 a1) := by
  rw [State.takeEvent]
  with_reducible repeat' first
    | assumption | refine State.suppress_keeps ?_ | refine State.setSrc_keeps ?_ | refine State.maskSource_keeps ?_
    | refine State.deliverZenith_keeps ?_ | refine State.hostEvent_keeps ?_ | split | dsimp only

theorem State.takeLine_keeps {P s0 a1 a2} (h0 : Keeps P s0) : Keeps P (State.takeLine s0 a1 a2) := by
  rw [State.takeLine]
  with_reducible repeat' first | assumption | refine State.setSrc_keeps ?_ | refine State.takeEvent_keeps ?_ | split

theorem State.moduleReset_keeps {P s0 a1} (h0 : Keeps P s0) : Keeps P (State.moduleReset s0 a1) := by
  rw [State.moduleReset]
  assumption

theorem State.takeIn_keeps {P s0 a1 a2} (h0 : Keeps P s0) : Keeps P (State.takeIn s0 a1 a2) := by
  rw [State.takeIn]
  with_reducible repeat' first
    | assumption | refine State.setChan_keeps ?_ | refine State.reply_keeps ?_ | refine State.moduleReset_keeps ?_
    | refine State.raiseInt_keeps ?_ | split | dsimp only

theorem State.answerQueues_keeps {P s0 a1} (h0 : Keeps P s0) : Keeps P (State.answerQueues s0 a1) := by
  rw [State.answerQueues]
  with_reducible repeat' first
    | assumption | refine State.setChan_keeps ?_ | refine State.reply_keeps ?_
    | refine Keeps.foldl ?_ (fun _ _ _ => ?_)

theorem State.cancelWait_keeps {P s0 a1} (h0 : Keeps P s0) : Keeps P (State.cancelWait s0 a1) := by
  rw [State.cancelWait]
  with_reducible repeat' first | assumption | split

theorem State.endCommands_keeps {P s0 a1} (h0 : Keeps P s0) : Keeps P (State.endCommands s0 a1) := by
  rw [State.endCommands]
  with_reducible repeat' first
    | assumption | refine State.cancelWait_keeps ?_ | refine State.answer_keeps ?_ | split
    | refine Keeps.foldl ?_ (fun _ _ _ => ?_)

theorem State.zenithRestart_keeps {P s0} (h0 : Keeps P s0) : Keeps P (State.zenithRestart s0) := by
  rw [State.zenithRestart]
  with_reducible repeat' first
    | assumption | refine State.icuRestart_keeps ?_ | refine State.endCommands_keeps ?_
    | refine State.answerQueues_keeps ?_

theorem State.frontReply_keeps {P s0 a1 a2 a3} (h0 : Keeps P s0) : Keeps P (State.frontReply s0 a1 a2 a3) := by
  rw [State.frontReply]
  with_reducible repeat' first
    | assumption | refine State.followBusy_keeps ?_ | refine State.deliver_keeps ?_ | refine State.emit_keeps ?_
    | split

theorem State.resend_keeps {P s0 a1} (h0 : Keeps P s0) : Keeps P (State.resend s0 a1) := by
  rw [State.resend]
  with_reducible repeat' first
    | assumption | refine State.deliver_keeps ?_ | refine State.emit_keeps ?_
    | refine State.releaseReservation_keeps ?_ | split

theorem State.takeReservation_keeps {P s0 a1} (h0 : Keeps P s0) : Keeps P (State.takeReservation s0 a1) := by
  rw [State.takeReservation]
  with_reducible repeat' first | assumption | refine State.setHif_keeps ?_ | split

theorem State.arrive_keeps {P s0 a1 a2 a3} (h0 : Keeps P s0) : Keeps P (State.arrive s0 a1 a2 a3) := by
  rw [State.arrive]
  with_reducible repeat' first
    | assumption | refine State.setChan_keeps ?_ | refine State.setHif_keeps ?_
    | refine State.takeReservation_keeps ?_ | refine State.frontReply_keeps ?_ | refine State.takeIn_keeps ?_
    | refine State.resend_keeps ?_ | split | dsimp only

theorem State.managementLost_keeps {P s0} (h0 : Keeps P s0) : Keeps P (State.managementLost s0) := by
  rw [State.managementLost]
  with_reducible repeat' first
    | assumption | refine State.giveUp_keeps ?_ | refine State.setLine_keeps ?_ | refine State.icuRestart_keeps ?_
    | refine State.endCommands_keeps ?_ | refine State.answerQueues_keeps ?_

theorem State.watchdog_keeps {P s0 a1} (h0 : Keeps P s0) : Keeps P (State.watchdog s0 a1) := by
  rw [State.watchdog]
  with_reducible repeat' first
    | assumption | refine State.bump_keeps ?_ | refine State.managementLost_keeps ?_ | refine State.post_keeps ?_
    | refine State.zenithRestart_keeps ?_ | split

theorem State.setWindow_keeps {P s0 a1 a2 a3} (h0 : Keeps P s0) : Keeps P (State.setWindow s0 a1 a2 a3) := by
  rw [State.setWindow]
  assumption

theorem State.cmdTail_keeps {P s0 a1 a2} (h0 : Keeps P s0) : Keeps P (State.cmdTail s0 a1 a2) := by
  rw [State.cmdTail]
  with_reducible repeat' first
    | assumption | refine State.raiseInt_keeps ?_ | refine State.ringErr_keeps ?_ | refine State.setHif_keeps ?_
    | split

theorem State.dlvHead_keeps {P s0 a1 a2} (h0 : Keeps P s0) : Keeps P (State.dlvHead s0 a1 a2) := by
  rw [State.dlvHead]
  with_reducible repeat' first | assumption | refine State.ringErr_keeps ?_ | refine State.setHif_keeps ?_ | split

theorem State.dropTaken_keeps {P s0 a1} (h0 : Keeps P s0) : Keeps P (State.dropTaken s0 a1) := by
  rw [State.dropTaken]
  with_reducible repeat' first | assumption | refine State.setChan_keeps ?_

theorem State.hifControl_keeps {P s0 a1 a2} (h0 : Keeps P s0) : Keeps P (State.hifControl s0 a1 a2) := by
  rw [State.hifControl]
  with_reducible repeat' first
    | assumption | refine State.setHif_keeps ?_ | refine State.setChan_keeps ?_ | refine State.dropTaken_keeps ?_
    | split | dsimp only

theorem State.ringClear_keeps {P s0 a1} (h0 : Keeps P s0) : Keeps P (State.ringClear s0 a1) := by
  rw [State.ringClear]
  with_reducible repeat' first | assumption | refine State.setHif_keeps ?_ | split

theorem State.startReset_keeps {P s0 a1} (h0 : Keeps P s0) : Keeps P (State.startReset s0 a1) := by
  rw [State.startReset]
  with_reducible repeat' first
    | assumption | refine State.setHif_keeps ?_ | refine State.icuResetVi_keeps ?_ | refine State.dropTaken_keeps ?_
    | split

theorem State.bridgeRead_keeps {P s0 a1 a2 a3} (h0 : Keeps P s0) : Keeps P (State.bridgeRead s0 a1 a2 a3) := by
  rw [State.bridgeRead]
  with_reducible repeat' first
    | assumption | refine State.emit_keeps ?_ | refine State.readRange_keeps ?_ | refine State.setWindow_keeps ?_
    | split

theorem State.putInternal_keeps {P s0 a1 a2} (h0 : Keeps P s0) : Keeps P (State.putInternal s0 a1 a2) := by
  rw [State.putInternal]
  with_reducible repeat' first
    | assumption | refine State.modEng_keeps ?_ (fun _ _ => ?_) | refine memWrite_wf ?_ | split

theorem State.writeFailed_keeps {P s0 a1 a2 a3} (h0 : Keeps P s0) : Keeps P (State.writeFailed s0 a1 a2 a3) := by
  rw [State.writeFailed]
  with_reducible repeat' first | assumption | refine State.setWindow_keeps ?_ | refine State.raiseInt_keeps ?_ | split

theorem State.writeIgnored_keeps {P s0 a1 a2} (h0 : Keeps P s0) : Keeps P (State.writeIgnored s0 a1 a2) := by
  rw [State.writeIgnored]
  with_reducible repeat' first | assumption | refine State.setWindow_keeps ?_ | refine State.setHif_keeps ?_

theorem State.bridgeWrite_keeps {P s0 a1 a2 a3 a4} (h0 : Keeps P s0) : Keeps P (State.bridgeWrite s0 a1 a2 a3 a4)
    := by
  rw [State.bridgeWrite]
  with_reducible repeat' first
    | assumption | refine State.emit_keeps ?_ | refine State.writeFailed_keeps ?_ | refine State.wroteRange_keeps ?_
    | refine State.putInternal_keeps ?_ | refine State.writeIgnored_keeps ?_ | split
    | refine Keeps.foldl ?_ (fun _ _ _ => ?_) | dsimp only

theorem State.resetConfig_keeps {P s0 a1} (h0 : Keeps P s0) : Keeps P (State.resetConfig s0 a1) := by
  rw [State.resetConfig]
  with_reducible repeat' first | assumption | refine State.setMsix_keeps ?_

theorem State.clearVfs_keeps {P s0} (h0 : Keeps P s0) : Keeps P (State.clearVfs s0) := by
  rw [State.clearVfs]
  with_reducible repeat' first
    | assumption | refine State.resetConfig_keeps ?_ | refine State.startReset_keeps ?_
    | refine Keeps.foldl ?_ (fun _ _ _ => ?_)

theorem State.drainTimeout_keeps {P s0 a1} (h0 : Keeps P s0) : Keeps P (State.drainTimeout s0 a1) := by
  rw [State.drainTimeout]
  with_reducible repeat' first | assumption | refine State.setHif_keeps ?_ | split

theorem State.finishInv_keeps {P s0} (h0 : Keeps P s0) : Keeps P (State.finishInv s0) := by
  rw [State.finishInv]
  assumption

theorem State.finishReset_keeps {P s0 a1} (h0 : Keeps P s0) : Keeps P (State.finishReset s0 a1) := by
  rw [State.finishReset]
  with_reducible repeat' first | assumption | refine State.setHif_keeps ?_ | split

theorem State.flr_keeps {P s0 a1} (h0 : Keeps P s0) : Keeps P (State.flr s0 a1) := by
  rw [State.flr]
  with_reducible repeat' first
    | assumption | refine State.clearVfs_keeps ?_ | refine State.resetConfig_keeps ?_
    | refine State.startReset_keeps ?_ | split

theorem State.issueRead_keeps {P s0 a1 a2 a3 a4 a5} (h0 : Keeps P s0) : Keeps P (State.issueRead s0 a1 a2 a3 a4 a5)
    := by
  rw [State.issueRead]
  with_reducible repeat' first
    | assumption | refine Keeps.snd (by assumption) (State.dmaRead_keeps ?_) | refine State.ringErr_keeps ?_
    | refine State.emit_keeps ?_ | refine State.setHif_keeps ?_ | split

theorem State.linkReset_keeps {P s0} (h0 : Keeps P s0) : Keeps P (State.linkReset s0) := by
  rw [State.linkReset]
  with_reducible repeat' first | assumption | refine State.flr_keeps ?_

theorem State.takePacket_keeps {P s0 a1 a2 a3 a4} (h0 : Keeps P s0) : Keeps P (State.takePacket s0 a1 a2 a3 a4) := by
  rw [State.takePacket]
  with_reducible repeat' first
    | assumption | refine Keeps.snd (by assumption) (State.dmaWrite_keeps ?_) | refine State.setHif_keeps ?_
    | refine State.ringErr_keeps ?_ | refine State.arrive_keeps ?_ | split

theorem State.readDone_keeps {P s0 a1 a2 a3 a4} (h0 : Keeps P s0) : Keeps P (State.readDone s0 a1 a2 a3 a4) := by
  rw [State.readDone]
  with_reducible repeat' first
    | assumption | refine State.setHif_keeps ?_ | refine State.ringErr_keeps ?_ | refine State.takePacket_keeps ?_
    | refine State.issueRead_keeps ?_ | split | dsimp only

theorem State.readTimeout_keeps {P s0 a1 a2} (h0 : Keeps P s0) : Keeps P (State.readTimeout s0 a1 a2) := by
  rw [State.readTimeout]
  with_reducible repeat' first | assumption | refine State.setHif_keeps ?_ | refine State.ringErr_keeps ?_ | split

theorem State.takeDescriptor_keeps {P s0 a1} (h0 : Keeps P s0) : Keeps P (State.takeDescriptor s0 a1) := by
  rw [State.takeDescriptor]
  with_reducible repeat' first | assumption | refine State.issueRead_keeps ?_ | split

theorem cardGetHostCounters_keeps {P s c} (h : Keeps P s) : CardKeeps P ((cardGetHostCounters).run s c) := by
  dsimp only [cardGetHostCounters]
  with_reducible repeat' first | assumption | refine State.setHif_keeps ?_ | split | refine CardKeeps.ok ?_

theorem cardGetInstance_keeps {P s c} (h : Keeps P s) : CardKeeps P ((cardGetInstance).run s c) := by
  dsimp only [cardGetInstance]
  with_reducible repeat' first | assumption | refine CardKeeps.ok ?_

theorem cardGetWindow_keeps {P s c} (h : Keeps P s) : CardKeeps P ((cardGetWindow).run s c) := by
  dsimp only [cardGetWindow]
  with_reducible repeat' first | assumption | refine CardKeeps.ok ?_

theorem State.viShut_keeps {P s0 a1} (h0 : Keeps P s0) {t} (e : State.viShut s0 a1 = some t) : CardKeeps P t := by
  rw [State.viShut] at e
  with_reducible repeat' first | cases e | split at e | refine CardOut.wrong_keeps

theorem cardResetInstance_keeps {P s c} (h : Keeps P s) : CardKeeps P ((cardResetInstance).run s c) := by
  dsimp only [cardResetInstance]
  with_reducible repeat' first
    | assumption | refine State.viShut_keeps ?_ (by assumption) | refine CardOut.wrong_keeps
    | refine State.startReset_keeps ?_ | split | refine CardKeeps.accepted ?_

theorem cardSetInstanceResources_keeps {P s c} (h : Keeps P s) : CardKeeps P ((cardSetInstanceResources).run s c)
    := by
  dsimp only [cardSetInstanceResources]
  with_reducible repeat' first
    | assumption | refine State.viShut_keeps ?_ (by assumption) | refine State.setHif_keeps ?_ | split
    | refine CardKeeps.ok ?_

theorem cardSetWindow_keeps {P s c} (h : Keeps P s) : CardKeeps P ((cardSetWindow).run s c) := by
  dsimp only [cardSetWindow]
  with_reducible repeat' first
    | assumption | refine State.viShut_keeps ?_ (by assumption) | refine State.setWindow_keeps ?_
    | refine CardOut.wrong_keeps | split | refine CardKeeps.ok ?_

theorem execBridgeRead_keeps {P a0 a1 a2 a3 s4} (h4 : Keeps P s4) : OutcomeKeeps P (execBridgeRead a0 a1 a2 a3 s4)
    := by
  rw [execBridgeRead]
  with_reducible repeat' first
    | assumption | refine State.bridgeRead_keeps ?_ | refine State.advance_keeps ?_ | refine OutcomeKeeps.next ?_

theorem execBridgeWrite_keeps {P a0 a1 a2 a3 a4 s5} (h5 : Keeps P s5) : OutcomeKeeps P
    (execBridgeWrite a0 a1 a2 a3 a4 s5) := by
  rw [execBridgeWrite]
  with_reducible repeat' first
    | assumption | refine State.bridgeWrite_keeps ?_ | refine State.advance_keeps ?_ | refine OutcomeKeeps.next ?_

theorem execDescriptorTake_keeps {P a0 a1 s2} (h2 : Keeps P s2) : OutcomeKeeps P (execDescriptorTake a0 a1 s2) := by
  rw [execDescriptorTake]
  with_reducible repeat' first
    | assumption | refine State.advance_keeps ?_ | refine State.takeDescriptor_keeps ?_ | split
    | refine OutcomeKeeps.next ?_

theorem execDirtySwap_keeps {P a0 a1 s2} (h2 : Keeps P s2) : OutcomeKeeps P (execDirtySwap a0 a1 s2) := by
  rw [execDirtySwap]
  with_reducible repeat' first
    | assumption | refine State.advance_keeps ?_ | refine State.setTu_keeps ?_ | refine OutcomeKeeps.next ?_

theorem execDirtySwapComplete_keeps {P a0 a1 s2} (h2 : Keeps P s2) : OutcomeKeeps P (execDirtySwapComplete a0 a1 s2)
    := by
  rw [execDirtySwapComplete]
  with_reducible repeat' first
    | assumption | refine State.advance_keeps ?_ | refine State.setTu_keeps ?_ | split | refine OutcomeKeeps.next ?_

theorem execDmaCompletion_keeps {P a0 a1 a2 a3 a4 s5} (h5 : Keeps P s5) : OutcomeKeeps P
    (execDmaCompletion a0 a1 a2 a3 a4 s5) := by
  rw [execDmaCompletion]
  with_reducible repeat' first
    | assumption | refine State.readDone_keeps ?_ | refine State.advance_keeps ?_ | refine OutcomeKeeps.next ?_

theorem execDmaCompletionTimeout_keeps {P a0 a1 a2 s3} (h3 : Keeps P s3) : OutcomeKeeps P
    (execDmaCompletionTimeout a0 a1 a2 s3) := by
  rw [execDmaCompletionTimeout]
  with_reducible repeat' first
    | assumption | refine State.readTimeout_keeps ?_ | refine State.advance_keeps ?_ | refine OutcomeKeeps.next ?_

theorem execDrainTimeout_keeps {P a0 a1 s2} (h2 : Keeps P s2) : OutcomeKeeps P (execDrainTimeout a0 a1 s2) := by
  rw [execDrainTimeout]
  with_reducible repeat' first
    | assumption | refine State.drainTimeout_keeps ?_ | refine State.advance_keeps ?_ | refine OutcomeKeeps.next ?_

theorem execFlr_keeps {P a0 a1 s2} (h2 : Keeps P s2) : OutcomeKeeps P (execFlr a0 a1 s2) := by
  rw [execFlr]
  with_reducible repeat' first
    | assumption | refine State.advance_keeps ?_ | refine State.flr_keeps ?_ | split | refine OutcomeKeeps.next ?_

theorem execGetHostCounters_keeps {P a0 a1 s2} (h2 : Keeps P s2) : OutcomeKeeps P (execGetHostCounters a0 a1 s2) := by
  rw [execGetHostCounters]
  with_reducible repeat' first
    | assumption | exact cardGetHostCounters_keeps (by assumption) | refine runCard_keeps ?_ (fun _ _ _ => ?_)

theorem execGetInstance_keeps {P a0 a1 s2} (h2 : Keeps P s2) : OutcomeKeeps P (execGetInstance a0 a1 s2) := by
  rw [execGetInstance]
  with_reducible repeat' first
    | assumption | exact cardGetInstance_keeps (by assumption) | refine runCard_keeps ?_ (fun _ _ _ => ?_)

theorem execGetWindow_keeps {P a0 a1 s2} (h2 : Keeps P s2) : OutcomeKeeps P (execGetWindow a0 a1 s2) := by
  rw [execGetWindow]
  with_reducible repeat' first
    | assumption | exact cardGetWindow_keeps (by assumption) | refine runCard_keeps ?_ (fun _ _ _ => ?_)

theorem execHifCmdTail_keeps {P dt vi t w s} (h : Keeps P s) : OutcomeKeeps P (execHifCmdTail dt vi t w s) := by
  have h := State.advance_keeps (a0 := dt) h
  have hw : ∀ (w : List (Nat × Bytes)) (m : Tab Byte), Memory.wf m = true →
      Memory.wf (w.foldl (fun (m : Tab Byte) (w : Nat × Bytes) => memWriteN m w.1 w.2) m) = true := by
    intro w
    induction w with
    | nil => exact fun _ h => h
    | cons a w ih => exact fun m h => ih _ (memWriteN_wf h)
  have h2 := KeptParts.host (hw w _ (Keeps.hmem h)) h
  rw [execHifCmdTail]
  exact OutcomeKeeps.next (Keeps.ite (State.cmdTail_keeps h2) h2)

theorem execHifControlWrite_keeps {P a0 a1 a2 s3} (h3 : Keeps P s3) : OutcomeKeeps P
    (execHifControlWrite a0 a1 a2 s3) := by
  rw [execHifControlWrite]
  with_reducible repeat' first
    | assumption | refine State.advance_keeps ?_ | refine State.hifControl_keeps ?_ | split
    | refine OutcomeKeeps.next ?_

theorem execHifDlvHead_keeps {P a0 a1 a2 s3} (h3 : Keeps P s3) : OutcomeKeeps P (execHifDlvHead a0 a1 a2 s3) := by
  rw [execHifDlvHead]
  with_reducible repeat' first
    | assumption | refine State.advance_keeps ?_ | refine State.dlvHead_keeps ?_ | split | refine OutcomeKeeps.next ?_

theorem execHifReset_keeps {P a0 a1 s2} (h2 : Keeps P s2) : OutcomeKeeps P (execHifReset a0 a1 s2) := by
  rw [execHifReset]
  with_reducible repeat' first
    | assumption | refine State.advance_keeps ?_ | refine State.startReset_keeps ?_ | split
    | refine OutcomeKeeps.next ?_

theorem execInstanceResetComplete_keeps {P a0 a1 s2} (h2 : Keeps P s2) : OutcomeKeeps P
    (execInstanceResetComplete a0 a1 s2) := by
  rw [execInstanceResetComplete]
  with_reducible repeat' first
    | assumption | refine State.finishReset_keeps ?_ | refine State.advance_keeps ?_ | refine OutcomeKeeps.next ?_

theorem execPcieLinkDown_keeps {P a0 s1} (h1 : Keeps P s1) : OutcomeKeeps P (execPcieLinkDown a0 s1) := by
  rw [execPcieLinkDown]
  with_reducible repeat' first
    | assumption | refine State.linkReset_keeps ?_ | refine State.advance_keeps ?_ | refine OutcomeKeeps.next ?_

theorem execPerst_keeps {P a0 s1} (h1 : Keeps P s1) : OutcomeKeeps P (execPerst a0 s1) := by
  rw [execPerst]
  with_reducible repeat' first
    | assumption | refine State.linkReset_keeps ?_ | refine State.advance_keeps ?_ | refine OutcomeKeeps.next ?_

theorem execResetInstance_keeps {P a0 a1 s2} (h2 : Keeps P s2) : OutcomeKeeps P (execResetInstance a0 a1 s2) := by
  rw [execResetInstance]
  with_reducible repeat' first
    | assumption | exact cardResetInstance_keeps (by assumption) | refine runCard_keeps ?_ (fun _ _ _ => ?_)

theorem execRingErrorClear_keeps {P a0 a1 s2} (h2 : Keeps P s2) : OutcomeKeeps P (execRingErrorClear a0 a1 s2) := by
  rw [execRingErrorClear]
  with_reducible repeat' first
    | assumption | refine State.advance_keeps ?_ | refine State.ringClear_keeps ?_ | split
    | refine OutcomeKeeps.next ?_

theorem execSetInstanceResources_keeps {P a0 a1 s2} (h2 : Keeps P s2) : OutcomeKeeps P
    (execSetInstanceResources a0 a1 s2) := by
  rw [execSetInstanceResources]
  with_reducible repeat' first
    | assumption | exact cardSetInstanceResources_keeps (by assumption) | refine runCard_keeps ?_ (fun _ _ _ => ?_)

theorem execSetWindow_keeps {P a0 a1 s2} (h2 : Keeps P s2) : OutcomeKeeps P (execSetWindow a0 a1 s2) := by
  rw [execSetWindow]
  with_reducible repeat' first
    | assumption | exact cardSetWindow_keeps (by assumption) | refine runCard_keeps ?_ (fun _ _ _ => ?_)

theorem execTuInv_keeps {P a0 a1 a2 s3} (h3 : Keeps P s3) : OutcomeKeeps P (execTuInv a0 a1 a2 s3) := by
  rw [execTuInv]
  with_reducible repeat' first | assumption | refine State.advance_keeps ?_ | refine OutcomeKeeps.next ?_

theorem execTuInvComplete_keeps {P a0 s1} (h1 : Keeps P s1) : OutcomeKeeps P (execTuInvComplete a0 s1) := by
  rw [execTuInvComplete]
  with_reducible repeat' first
    | assumption | refine State.finishInv_keeps ?_ | refine State.advance_keeps ?_ | refine OutcomeKeeps.next ?_

theorem execVfEnableClear_keeps {P a0 s1} (h1 : Keeps P s1) : OutcomeKeeps P (execVfEnableClear a0 s1) := by
  rw [execVfEnableClear]
  with_reducible repeat' first
    | assumption | refine State.clearVfs_keeps ?_ | refine State.advance_keeps ?_ | refine OutcomeKeeps.next ?_

theorem State.bar0Clear_keeps {P s0 a1 a2} (h0 : Keeps P s0) : Keeps P (State.bar0Clear s0 a1 a2) := by
  rw [State.bar0Clear]
  with_reducible repeat' first
    | assumption | refine State.setHif_keeps ?_ | refine State.setMsix_keeps ?_ | refine State.setWindow_keeps ?_
    | refine State.setTu_keeps ?_ | split

theorem State.ringReg_keeps {P s0 a1 a2 a3} (h0 : Keeps P s0) : Keeps P (State.ringReg s0 a1 a2 a3) := by
  rw [State.ringReg.eq_def]
  with_reducible repeat' first
    | assumption | refine State.ringErr_keeps ?_ | refine State.setHif_keeps ?_ | split | dsimp only

theorem State.hifWrite_keeps {P s0 a1 a2 a3} (h0 : Keeps P s0) : Keeps P (State.hifWrite s0 a1 a2 a3) := by
  rw [State.hifWrite]
  with_reducible repeat' first
    | assumption | refine State.hifControl_keeps ?_ | refine State.ringClear_keeps ?_
    | refine State.startReset_keeps ?_ | refine State.ringReg_keeps ?_ | split

theorem State.tuWrite_keeps {P s0 a1 a2 a3} (h0 : Keeps P s0) : Keeps P (State.tuWrite s0 a1 a2 a3) := by
  rw [State.tuWrite.eq_def]
  with_reducible repeat' first | assumption | refine State.setTu_keeps ?_

theorem State.bar0Write_keeps {P s vi off v} (h : Keeps P s) : Keeps P (State.bar0Write s vi off v) := by
  rw [State.bar0Write]
  exact Keeps.ite h (Keeps.ite (State.hifWrite_keeps h) (Keeps.ite (State.cmdTail_keeps h) (Keeps.ite (State.dlvHead_keeps h) (Keeps.ite h
    (Keeps.ite (State.icuClear_keeps h) (Keeps.ite (State.icuUnmask_keeps h) (Keeps.ite (State.setWindow_keeps h) (Keeps.ite (State.tuWrite_keeps h)
      (Keeps.ite (Keeps.ite h h) h)))))))))

theorem cardGetSource_keeps {P s c} (h : Keeps P s) : CardKeeps P ((cardGetSource).run s c) := by
  dsimp only [cardGetSource]
  with_reducible repeat' first | assumption | refine State.setSrc_keeps ?_ | split | refine CardKeeps.ok ?_

theorem cardListMasked_keeps {P s c} (h : Keeps P s) : CardKeeps P ((cardListMasked).run s c) := by
  dsimp only [cardListMasked]
  with_reducible repeat' first | assumption | refine CardKeeps.ok ?_

theorem cardSetSource_keeps {P s c} (h : Keeps P s) : CardKeeps P ((cardSetSource).run s c) := by
  dsimp only [cardSetSource]
  with_reducible repeat' first
    | assumption | refine CardOut.wrong_keeps | refine State.setSrc_keeps ?_ | split | refine CardKeeps.ok ?_

theorem cardUnmaskSource_keeps {P s c} (h : Keeps P s) : CardKeeps P ((cardUnmaskSource).run s c) := by
  dsimp only [cardUnmaskSource]
  with_reducible repeat' first | assumption | refine State.unmask_keeps ?_ | refine CardKeeps.ok ?_

theorem State.msixUnmask_keeps {P s0 a1 a2} (h0 : Keeps P s0) : Keeps P (State.msixUnmask s0 a1 a2) := by
  rw [State.msixUnmask.eq_def]
  with_reducible repeat' first | assumption | refine State.msixFlush_keeps ?_ | refine State.setMsix_keeps ?_

theorem execEndOfInterrupt_keeps {P a0 a1 a2 s3} (h3 : Keeps P s3) : OutcomeKeeps P (execEndOfInterrupt a0 a1 a2 s3)
    := by
  rw [execEndOfInterrupt]
  with_reducible repeat' first
    | assumption | refine State.advance_keeps ?_ | refine State.deliverZenith_keeps ?_
    | refine State.watchdog_keeps ?_ | refine State.post_keeps ?_ | split | refine OutcomeKeeps.next ?_

theorem execGetSource_keeps {P a0 a1 s2} (h2 : Keeps P s2) : OutcomeKeeps P (execGetSource a0 a1 s2) := by
  rw [execGetSource]
  with_reducible repeat' first
    | assumption | exact cardGetSource_keeps (by assumption) | refine runCard_keeps ?_ (fun _ _ _ => ?_)

theorem execIcuPendingClear_keeps {P a0 a1 a2 a3 s4} (h4 : Keeps P s4) : OutcomeKeeps P
    (execIcuPendingClear a0 a1 a2 a3 s4) := by
  rw [execIcuPendingClear]
  with_reducible repeat' first
    | assumption | refine State.advance_keeps ?_ | refine State.icuClear_keeps ?_ | split
    | refine OutcomeKeeps.next ?_

theorem execIcuUnmask_keeps {P a0 a1 a2 s3} (h3 : Keeps P s3) : OutcomeKeeps P (execIcuUnmask a0 a1 a2 s3) := by
  rw [execIcuUnmask]
  with_reducible repeat' first
    | assumption | refine State.advance_keeps ?_ | refine State.icuUnmask_keeps ?_ | split
    | refine OutcomeKeeps.next ?_

theorem execInterruptAck_keeps {P a0 a1 s2} (h2 : Keeps P s2) : OutcomeKeeps P (execInterruptAck a0 a1 s2) := by
  rw [execInterruptAck]
  with_reducible repeat' first
    | assumption | refine State.advance_keeps ?_ | split | refine OutcomeKeeps.next ?_ | dsimp only

theorem execInterruptMessage_keeps {P a0 s1} (h1 : Keeps P s1) : OutcomeKeeps P (execInterruptMessage a0 s1) := by
  rw [execInterruptMessage]
  with_reducible repeat' first
    | assumption | refine State.advance_keeps ?_ | refine State.takeEvent_keeps ?_ | split
    | refine OutcomeKeeps.next ?_

theorem execListMasked_keeps {P a0 a1 s2} (h2 : Keeps P s2) : OutcomeKeeps P (execListMasked a0 a1 s2) := by
  rw [execListMasked]
  with_reducible repeat' first
    | assumption | exact cardListMasked_keeps (by assumption) | refine runCard_keeps ?_ (fun _ _ _ => ?_)

theorem execMsixUnmask_keeps {P a0 a1 a2 s3} (h3 : Keeps P s3) : OutcomeKeeps P (execMsixUnmask a0 a1 a2 s3) := by
  rw [execMsixUnmask]
  with_reducible repeat' first
    | assumption | refine State.advance_keeps ?_ | refine State.msixUnmask_keeps ?_ | split
    | refine OutcomeKeeps.next ?_

theorem execRcRegisterRead_keeps {P a0 a1 a2 a3 s4} (h4 : Keeps P s4) : OutcomeKeeps P
    (execRcRegisterRead a0 a1 a2 a3 s4) := by
  rw [execRcRegisterRead]
  with_reducible repeat' first
    | assumption | refine State.advance_keeps ?_ | refine State.emit_keeps ?_ | refine State.bar0Clear_keeps ?_
    | split | refine OutcomeKeeps.next ?_

theorem execRegisterWrite_keeps {P dt w s} (h : Keeps P s) : OutcomeKeeps P (execRegisterWrite dt w s) := by
  have h := State.advance_keeps (a0 := dt) h
  cases w <;> rw [execRegisterWrite]
  · exact OutcomeKeeps.next (Keeps.ite (State.bar0Write_keeps h) h)
  · exact OutcomeKeeps.next (Keeps.ite h h)
  · exact OutcomeKeeps.next (Keeps.ite (State.msixFlush_keeps (State.setMsix_keeps h)) h)
  · exact OutcomeKeeps.next (Keeps.ite (State.setMsix_keeps h) h)

theorem execSetSource_keeps {P a0 a1 s2} (h2 : Keeps P s2) : OutcomeKeeps P (execSetSource a0 a1 s2) := by
  rw [execSetSource]
  with_reducible repeat' first
    | assumption | exact cardSetSource_keeps (by assumption) | refine runCard_keeps ?_ (fun _ _ _ => ?_)

theorem execSquallRelease_keeps {P a0 a1 s2} (h2 : Keeps P s2) : OutcomeKeeps P (execSquallRelease a0 a1 s2) := by
  rw [execSquallRelease]
  with_reducible repeat' first
    | assumption | refine State.advance_keeps ?_ | refine State.unmask_keeps ?_ | split | refine OutcomeKeeps.next ?_

theorem execStuckTimeout_keeps {P a0 a1 s2} (h2 : Keeps P s2) : OutcomeKeeps P (execStuckTimeout a0 a1 s2) := by
  rw [execStuckTimeout]
  with_reducible repeat' first
    | assumption | refine State.advance_keeps ?_ | refine State.maskSource_keeps ?_ | split
    | refine OutcomeKeeps.next ?_

theorem execUnmaskSource_keeps {P a0 a1 s2} (h2 : Keeps P s2) : OutcomeKeeps P (execUnmaskSource a0 a1 s2) := by
  rw [execUnmaskSource]
  with_reducible repeat' first
    | assumption | exact cardUnmaskSource_keeps (by assumption) | refine runCard_keeps ?_ (fun _ _ _ => ?_)

theorem execWiredLineChange_keeps {P a0 s1} (h1 : Keeps P s1) : OutcomeKeeps P (execWiredLineChange a0 s1) := by
  rw [execWiredLineChange]
  with_reducible repeat' first
    | assumption | refine State.advance_keeps ?_ | refine State.takeLine_keeps ?_ | split
    | refine OutcomeKeeps.next ?_

theorem State.setClk_keeps {P s0 a1 a2} (h0 : Keeps P s0) : Keeps P (State.setClk s0 a1 a2) := by
  rw [State.setClk]
  assumption

theorem State.selectSource_keeps {P s0 a1} (h0 : Keeps P s0) : Keeps P (State.selectSource s0 a1) := by
  rw [State.selectSource.eq_def]
  with_reducible repeat' first
    | assumption | refine State.post_keeps ?_ | refine State.raiseInt_keeps ?_ | split | dsimp only

theorem State.reselect_keeps {P s0} (h0 : Keeps P s0) : Keeps P (State.reselect s0) := by
  rw [State.reselect]
  with_reducible repeat' first | assumption | refine State.selectSource_keeps ?_ | split

theorem State.openWindow_keeps {P s0 a1} (h0 : Keeps P s0) : Keeps P (State.openWindow s0 a1) := by
  rw [State.openWindow]
  with_reducible repeat' first | assumption | refine State.setClk_keeps ?_

theorem State.railStep_keeps {P s0 a1} (h0 : Keeps P s0) : Keeps P (State.railStep s0 a1) := by
  rw [State.railStep]
  with_reducible repeat' first | assumption | refine State.postC_keeps ?_ | split

theorem State.srcRecord_keeps {P s0 a1 a2 a3} (h0 : Keeps P s0) : Keeps P (State.srcRecord s0 a1 a2 a3) := by
  rw [State.srcRecord]
  with_reducible repeat' first | assumption | refine State.post_keeps ?_

theorem State.srcFail_keeps {P s0 a1 a2} (h0 : Keeps P s0) : Keeps P (State.srcFail s0 a1 a2) := by
  rw [State.srcFail]
  with_reducible repeat' first
    | assumption | refine State.setClk_keeps ?_ | refine State.raiseInt_keeps ?_ | refine State.srcRecord_keeps ?_

theorem State.srcPass_keeps {P s0 a1 a2} (h0 : Keeps P s0) : Keeps P (State.srcPass s0 a1 a2) := by
  rw [State.srcPass]
  with_reducible repeat' first | assumption | refine State.setClk_keeps ?_

theorem State.windowEnd_keeps {P s0 a1 a2 a3 a4} (h0 : Keeps P s0) : Keeps P (State.windowEnd s0 a1 a2 a3 a4) := by
  rw [State.windowEnd]
  with_reducible repeat' first
    | assumption | refine State.openWindow_keeps ?_ | refine State.reselect_keeps ?_ | refine State.srcRecord_keeps ?_
    | refine State.srcPass_keeps ?_ | refine State.srcFail_keeps ?_ | refine State.post_keeps ?_ | split | dsimp only

theorem cardGetClockStatus_keeps {P s c} (h : Keeps P s) : CardKeeps P ((cardGetClockStatus).run s c) := by
  dsimp only [cardGetClockStatus]
  with_reducible repeat' first | assumption | split | refine CardKeeps.ok ?_

theorem cardGetPllStatus_keeps {P s c} (h : Keeps P s) : CardKeeps P ((cardGetPllStatus).run s c) := by
  dsimp only [cardGetPllStatus]
  with_reducible repeat' first | assumption | split | refine CardKeeps.ok ?_

theorem cardGetPowerStatus_keeps {P s c} (h : Keeps P s) : CardKeeps P ((cardGetPowerStatus).run s c) := by
  dsimp only [cardGetPowerStatus]
  with_reducible repeat' first | assumption | refine CardKeeps.ok ?_

theorem State.enableSource_keeps {P s0 a1 a2 a3} (h0 : Keeps P s0) : Keeps P (State.enableSource s0 a1 a2 a3) := by
  rw [State.enableSource]
  with_reducible repeat' first | assumption | refine State.setClk_keeps ?_ | split

theorem cardSetClockSources_keeps {P s c} (h : Keeps P s) : CardKeeps P ((cardSetClockSources).run s c) := by
  dsimp only [cardSetClockSources]
  with_reducible repeat' first
    | assumption | refine CardOut.wrong_keeps | refine State.setClk_keeps ?_ | refine State.reselect_keeps ?_
    | refine State.enableSource_keeps ?_ | split | refine CardKeeps.ok ?_ | refine Keeps.foldl ?_ (fun _ _ _ => ?_)

theorem cardSetPower_keeps {P s c} (h : Keeps P s) : CardKeeps P ((cardSetPower).run s c) := by
  dsimp only [cardSetPower]
  with_reducible repeat' first | assumption | refine CardOut.wrong_keeps | split | refine CardKeeps.ok ?_

theorem execCoreVoltageUpdate_keeps {P a0 s1} (h1 : Keeps P s1) : OutcomeKeeps P (execCoreVoltageUpdate a0 s1) := by
  rw [execCoreVoltageUpdate]
  with_reducible repeat' first
    | assumption | refine State.advance_keeps ?_ | refine State.railStep_keeps ?_ | split
    | refine OutcomeKeeps.next ?_ | refine Keeps.foldl ?_ (fun _ _ _ => ?_)

theorem execGetClockStatus_keeps {P a0 a1 s2} (h2 : Keeps P s2) : OutcomeKeeps P (execGetClockStatus a0 a1 s2) := by
  rw [execGetClockStatus]
  with_reducible repeat' first
    | assumption | exact cardGetClockStatus_keeps (by assumption) | refine runCard_keeps ?_ (fun _ _ _ => ?_)

theorem execGetPllStatus_keeps {P a0 a1 s2} (h2 : Keeps P s2) : OutcomeKeeps P (execGetPllStatus a0 a1 s2) := by
  rw [execGetPllStatus]
  with_reducible repeat' first
    | assumption | exact cardGetPllStatus_keeps (by assumption) | refine runCard_keeps ?_ (fun _ _ _ => ?_)

theorem execGetPowerStatus_keeps {P a0 a1 s2} (h2 : Keeps P s2) : OutcomeKeeps P (execGetPowerStatus a0 a1 s2) := by
  rw [execGetPowerStatus]
  with_reducible repeat' first
    | assumption | exact cardGetPowerStatus_keeps (by assumption) | refine runCard_keeps ?_ (fun _ _ _ => ?_)

theorem execPllLockLoss_keeps {P a0 a1 a2 s3} (h3 : Keeps P s3) : OutcomeKeeps P (execPllLockLoss a0 a1 a2 s3) := by
  rw [execPllLockLoss]
  with_reducible repeat' first
    | assumption | refine State.advance_keeps ?_ | refine State.raiseInt_keeps ?_ | refine State.post_keeps ?_
    | refine State.linkReset_keeps ?_ | refine State.hznUnlocked_keeps ?_ | refine State.postC_keeps ?_
    | refine State.leaveUp_keeps ?_ | split | refine OutcomeKeeps.next ?_ | refine Keeps.foldl ?_ (fun _ _ _ => ?_)
    | dsimp only

theorem execPllRelock_keeps {P a0 a1 s2} (h2 : Keeps P s2) : OutcomeKeeps P (execPllRelock a0 a1 s2) := by
  rw [execPllRelock]
  with_reducible repeat' first
    | assumption | refine State.advance_keeps ?_ | refine State.raiseInt_keeps ?_ | refine State.post_keeps ?_
    | refine State.hznLocked_keeps ?_ | refine State.modPort_keeps ?_ | split | refine OutcomeKeeps.next ?_
    | refine Keeps.foldl ?_ (fun _ _ _ => ?_)

theorem execQualificationWindowEnd_keeps {P a0 a1 a2 a3 a4 s5} (h5 : Keeps P s5) : OutcomeKeeps P
    (execQualificationWindowEnd a0 a1 a2 a3 a4 s5) := by
  rw [execQualificationWindowEnd]
  with_reducible repeat' first
    | assumption | refine State.advance_keeps ?_ | refine State.windowEnd_keeps ?_ | split
    | refine OutcomeKeeps.next ?_

theorem execRatioCheck_keeps {P a0 a1 a2 s3} (h3 : Keeps P s3) : OutcomeKeeps P (execRatioCheck a0 a1 a2 s3) := by
  rw [execRatioCheck]
  with_reducible repeat' first
    | assumption | refine State.advance_keeps ?_ | refine State.post_keeps ?_ | refine State.reselect_keeps ?_
    | refine State.setClk_keeps ?_ | refine State.srcFail_keeps ?_ | split | refine OutcomeKeeps.next ?_
    | refine Keeps.foldl ?_ (fun _ _ _ => ?_) | dsimp only

theorem execReferenceSwitchComplete_keeps {P a0 a1 s2} (h2 : Keeps P s2) : OutcomeKeeps P
    (execReferenceSwitchComplete a0 a1 s2) := by
  rw [execReferenceSwitchComplete]
  with_reducible repeat' first | assumption | refine State.advance_keeps ?_ | split | refine OutcomeKeeps.next ?_

theorem execRefinementEnd_keeps {P a0 a1 a2 s3} (h3 : Keeps P s3) : OutcomeKeeps P (execRefinementEnd a0 a1 a2 s3)
    := by
  rw [execRefinementEnd]
  with_reducible repeat' first
    | assumption | refine State.advance_keeps ?_ | refine State.setClk_keeps ?_ | refine State.reselect_keeps ?_
    | refine State.srcFail_keeps ?_ | split | refine OutcomeKeeps.next ?_

theorem execSetClockSources_keeps {P a0 a1 s2} (h2 : Keeps P s2) : OutcomeKeeps P (execSetClockSources a0 a1 s2) := by
  rw [execSetClockSources]
  with_reducible repeat' first
    | assumption | exact cardSetClockSources_keeps (by assumption) | refine runCard_keeps ?_ (fun _ _ _ => ?_)

theorem execSetPower_keeps {P a0 a1 s2} (h2 : Keeps P s2) : OutcomeKeeps P (execSetPower a0 a1 s2) := by
  rw [execSetPower]
  with_reducible repeat' first
    | assumption | exact cardSetPower_keeps (by assumption) | refine runCard_keeps ?_ (fun _ _ _ => ?_)

theorem execSourceActivity_keeps {P a0 a1 s2} (h2 : Keeps P s2) : OutcomeKeeps P (execSourceActivity a0 a1 s2) := by
  rw [execSourceActivity]
  with_reducible repeat' first
    | assumption | refine State.advance_keeps ?_ | refine State.openWindow_keeps ?_ | refine State.setClk_keeps ?_
    | split | refine OutcomeKeeps.next ?_

theorem execSourceLossOfActivity_keeps {P a0 a1 s2} (h2 : Keeps P s2) : OutcomeKeeps P
    (execSourceLossOfActivity a0 a1 s2) := by
  rw [execSourceLossOfActivity]
  with_reducible repeat' first
    | assumption | refine State.advance_keeps ?_ | refine State.srcFail_keeps ?_ | refine State.reselect_keeps ?_
    | refine State.setClk_keeps ?_ | split | refine OutcomeKeeps.next ?_

theorem execSourceRetry_keeps {P a0 a1 s2} (h2 : Keeps P s2) : OutcomeKeeps P (execSourceRetry a0 a1 s2) := by
  rw [execSourceRetry]
  with_reducible repeat' first
    | assumption | refine State.advance_keeps ?_ | refine State.openWindow_keeps ?_ | split
    | refine OutcomeKeeps.next ?_

theorem execWaitToRestoreExpiry_keeps {P a0 s1} (h1 : Keeps P s1) : OutcomeKeeps P (execWaitToRestoreExpiry a0 s1)
    := by
  rw [execWaitToRestoreExpiry]
  with_reducible repeat' first
    | assumption | refine State.advance_keeps ?_ | refine State.selectSource_keeps ?_ | split
    | refine OutcomeKeeps.next ?_ | dsimp only

end Sys2Proof.Machine
end

