-- ==== Sys2Proof/Laws/KeptBoot.lean ====
section
/-! SUPPORT. What recorder, serial channels, boot and commands leave true: each lemma `f_keeps` says that `f` keeps the pending queue
and the invariant of Safety.lean (`Keeps`). -/
namespace Sys2Proof.Machine
open Sys2Proof

theorem State.clearLog_keeps {P s0 a1} (h0 : Keeps P s0) : Keeps P (State.clearLog s0 a1) := by
  rw [State.clearLog]
  with_reducible repeat' first | assumption | refine State.bump_keeps ?_

theorem State.commitEvent_keeps {P s0 a1} (h0 : Keeps P s0) : Keeps P (State.commitEvent s0 a1) := by
  rw [State.commitEvent]
  with_reducible repeat' first | assumption | refine State.bump_keeps ?_ | refine State.setResult_keeps ?_ | split

theorem State.commitHead_keeps {P s} (h : Keeps P s) : Keeps P (State.commitHead s) := by
  rw [State.commitHead.eq_def]
  split
  · exact h
  · rename_i e q hq
    have hl : q.length ≤ 1024 := by
      have := h.2.1
      rw [hq] at this
      exact Nat.le_of_succ_le this
    refine State.commitEvent_keeps ?_
    split
    · exact State.post_keeps ⟨h.1, hl, h.2.2⟩
    · exact ⟨h.1, hl, h.2.2⟩

theorem State.commitN_keeps {P n s} (h : Keeps P s) : Keeps P (State.commitN n s) := by
  induction n generalizing s with
  | zero => exact h
  | succ n ih =>
    simp only [State.commitN]
    split
    · exact h
    · exact ih (State.commitHead_keeps h)

theorem State.commitAll_keeps {P s0} (h0 : Keeps P s0) : Keeps P (State.commitAll s0) := by
  rw [State.commitAll]
  with_reducible repeat' first | assumption | refine State.commitN_keeps ?_

theorem State.refuseClear_keeps {P s0 a1 a2} (h0 : Keeps P s0) : CardKeeps P (State.refuseClear s0 a1 a2) := by
  rw [State.refuseClear]
  with_reducible repeat' first | assumption | refine State.post_keeps ?_ | refine CardKeeps.errWith ?_

theorem cardClearRecorder_keeps {P s c} (h : Keeps P s) : CardKeeps P ((cardClearRecorder).run s c) := by
  dsimp only [cardClearRecorder]
  with_reducible repeat' first
    | assumption | refine UseKeeps.of (by assumption) (State.useSlot_keeps ?_) | refine State.refuseClear_keeps ?_
    | refine State.clearLog_keeps ?_ | split | refine CardKeeps.ok ?_

theorem cardGetChipletIdentity_keeps {P s c} (h : Keeps P s) : CardKeeps P ((cardGetChipletIdentity).run s c) := by
  dsimp only [cardGetChipletIdentity]
  with_reducible repeat' first | assumption | refine CardKeeps.ok ?_

theorem cardGetClearNonce_keeps {P s c} (h : Keeps P s) : CardKeeps P ((cardGetClearNonce).run s c) := by
  dsimp only [cardGetClearNonce]
  with_reducible repeat' first | assumption | refine State.randomBytes_keeps ?_ | refine CardKeeps.ok ?_

theorem cardGetRecorderStatus_keeps {P s c} (h : Keeps P s) : CardKeeps P ((cardGetRecorderStatus).run s c) := by
  dsimp only [cardGetRecorderStatus]
  with_reducible repeat' first | assumption | refine CardKeeps.ok ?_

theorem cardPostRecord_keeps {P s c} (h : Keeps P s) : CardKeeps P ((cardPostRecord).run s c) := by
  dsimp only [cardPostRecord]
  with_reducible repeat' first
    | assumption | refine CardOut.noRes_keeps | refine State.postEvent_keeps ?_ | split | refine CardKeeps.later ?_

theorem cardReadCounters_keeps {P s c} (h : Keeps P s) : CardKeeps P ((cardReadCounters).run s c) := by
  dsimp only [cardReadCounters]
  with_reducible repeat' first | assumption | refine CardKeeps.ok ?_

theorem cardReadHistogram_keeps {P s c} (h : Keeps P s) : CardKeeps P ((cardReadHistogram).run s c) := by
  dsimp only [cardReadHistogram]
  with_reducible repeat' first | assumption | refine CardKeeps.ok ?_

theorem cardReadRecords_keeps {P s c} (h : Keeps P s) : CardKeeps P ((cardReadRecords).run s c) := by
  dsimp only [cardReadRecords]
  with_reducible repeat' first | assumption | refine CardKeeps.ok ?_

theorem execClearRecorder_keeps {P a0 a1 s2} (h2 : Keeps P s2) : OutcomeKeeps P (execClearRecorder a0 a1 s2) := by
  rw [execClearRecorder]
  with_reducible repeat' first
    | assumption | exact cardClearRecorder_keeps (by assumption) | refine runCard_keeps ?_ (fun _ _ _ => ?_)

theorem execGetChipletIdentity_keeps {P a0 a1 s2} (h2 : Keeps P s2) : OutcomeKeeps P
    (execGetChipletIdentity a0 a1 s2) := by
  rw [execGetChipletIdentity]
  with_reducible repeat' first
    | assumption | exact cardGetChipletIdentity_keeps (by assumption) | refine runCard_keeps ?_ (fun _ _ _ => ?_)

theorem execGetClearNonce_keeps {P a0 a1 s2} (h2 : Keeps P s2) : OutcomeKeeps P (execGetClearNonce a0 a1 s2) := by
  rw [execGetClearNonce]
  with_reducible repeat' first
    | assumption | exact cardGetClearNonce_keeps (by assumption) | refine runCard_keeps ?_ (fun _ _ _ => ?_)

theorem execGetRecorderStatus_keeps {P a0 a1 s2} (h2 : Keeps P s2) : OutcomeKeeps P (execGetRecorderStatus a0 a1 s2)
    := by
  rw [execGetRecorderStatus]
  with_reducible repeat' first
    | assumption | exact cardGetRecorderStatus_keeps (by assumption) | refine runCard_keeps ?_ (fun _ _ _ => ?_)

theorem execNonceExpiry_keeps {P a0 s1} (h1 : Keeps P s1) : OutcomeKeeps P (execNonceExpiry a0 s1) := by
  rw [execNonceExpiry]
  with_reducible repeat' first | assumption | refine State.advance_keeps ?_ | split | refine OutcomeKeeps.next ?_

theorem execPostRecord_keeps {P a0 a1 s2} (h2 : Keeps P s2) : OutcomeKeeps P (execPostRecord a0 a1 s2) := by
  rw [execPostRecord]
  with_reducible repeat' first
    | assumption | exact cardPostRecord_keeps (by assumption) | refine runCard_keeps ?_ (fun _ _ _ => ?_)

theorem execReadCounters_keeps {P a0 a1 s2} (h2 : Keeps P s2) : OutcomeKeeps P (execReadCounters a0 a1 s2) := by
  rw [execReadCounters]
  with_reducible repeat' first
    | assumption | exact cardReadCounters_keeps (by assumption) | refine runCard_keeps ?_ (fun _ _ _ => ?_)

theorem execReadHistogram_keeps {P a0 a1 s2} (h2 : Keeps P s2) : OutcomeKeeps P (execReadHistogram a0 a1 s2) := by
  rw [execReadHistogram]
  with_reducible repeat' first
    | assumption | exact cardReadHistogram_keeps (by assumption) | refine runCard_keeps ?_ (fun _ _ _ => ?_)

theorem execReadRecords_keeps {P a0 a1 s2} (h2 : Keeps P s2) : OutcomeKeeps P (execReadRecords a0 a1 s2) := by
  rw [execReadRecords]
  with_reducible repeat' first
    | assumption | exact cardReadRecords_keeps (by assumption) | refine runCard_keeps ?_ (fun _ _ _ => ?_)

theorem execRecordCommit_keeps {P a0 s1} (h1 : Keeps P s1) : OutcomeKeeps P (execRecordCommit a0 s1) := by
  rw [execRecordCommit]
  with_reducible repeat' first
    | assumption | refine State.advance_keeps ?_ | refine State.commitHead_keeps ?_ | split
    | refine OutcomeKeeps.next ?_

theorem State.modUart_keeps {P s0 a1 a2} (h0 : Keeps P s0) : Keeps P (State.modUart s0 a1 a2) := by
  rw [State.modUart]
  assumption

theorem State.driveBin_keeps {P s0 a1} (h0 : Keeps P s0) : Keeps P (State.driveBin s0 a1) := by
  rw [State.driveBin]
  with_reducible repeat' first | assumption | refine State.setLine_keeps ?_ | refine State.setSignal_keeps ?_ | split

theorem State.setBin_keeps {P s0 a1 a2} (h0 : Keeps P s0) : Keeps P (State.setBin s0 a1 a2) := by
  rw [State.setBin]
  with_reducible repeat' first | assumption | refine State.driveBin_keeps ?_

theorem State.binAccept_keeps {P s0 a1 a2 a3} (h0 : Keeps P s0) : Keeps P (State.binAccept s0 a1 a2 a3) := by
  rw [State.binAccept]
  with_reducible repeat' first
    | assumption | refine State.setBin_keeps ?_ | refine State.post_keeps ?_ | split | dsimp only

theorem State.binRelease_keeps {P s0 a1 a2 a3} (h0 : Keeps P s0) : Keeps P (State.binRelease s0 a1 a2 a3) := by
  rw [State.binRelease]
  with_reducible repeat' first | assumption | refine State.post_keeps ?_ | refine State.setBin_keeps ?_ | split

theorem State.binStuck_keeps {P s0 a1} (h0 : Keeps P s0) : Keeps P (State.binStuck s0 a1) := by
  rw [State.binStuck]
  with_reducible repeat' first | assumption | refine State.post_keeps ?_ | refine State.setBin_keeps ?_ | split

theorem State.framingError_keeps {P s0} (h0 : Keeps P s0) : Keeps P (State.framingError s0) := by
  rw [State.framingError]
  with_reducible repeat' first | assumption | refine State.setChan_keeps ?_

theorem State.uartCount_keeps {P s0 a1 a2 a3} (h0 : Keeps P s0) : Keeps P (State.uartCount s0 a1 a2 a3) := by
  rw [State.uartCount]
  with_reducible repeat' first | assumption | refine State.modUart_keeps ?_

theorem State.uartBreak_keeps {P s0 a1} (h0 : Keeps P s0) : Keeps P (State.uartBreak s0 a1) := by
  rw [State.uartBreak]
  with_reducible repeat' first
    | assumption | refine State.uartCount_keeps ?_ | refine State.framingError_keeps ?_ | split | dsimp only

theorem State.uartTake_keeps {P s0 a1 a2} (h0 : Keeps P s0) : Keeps P (State.uartTake s0 a1 a2) := by
  rw [State.uartTake]
  with_reducible repeat' first
    | assumption | refine State.modUart_keeps ?_ | refine State.uartCount_keeps ?_ | refine State.post_keeps ?_
    | split | dsimp only

theorem State.unstuff_keeps {P s0 a1} (h0 : Keeps P s0) : Keeps P (State.unstuff s0 a1) := by
  rw [State.unstuff]
  with_reducible repeat' first
    | assumption | refine State.framingError_keeps ?_ | refine State.arrive_keeps ?_ | split | dsimp only

theorem State.uartChar_keeps {P s0 a1 a2} (h0 : Keeps P s0) : Keeps P (State.uartChar s0 a1 a2) := by
  rw [State.uartChar]
  with_reducible repeat' first
    | assumption | refine State.uartCount_keeps ?_ | refine State.unstuff_keeps ?_ | refine State.uartTake_keeps ?_
    | split | dsimp only

theorem State.uartSent_keeps {P s0 a1} (h0 : Keeps P s0) : Keeps P (State.uartSent s0 a1) := by
  rw [State.uartSent]
  with_reducible repeat' first | assumption | refine State.emit_keeps ?_ | refine State.modUart_keeps ?_ | split

theorem cardGetBinaryIo_keeps {P s c} (h : Keeps P s) : CardKeeps P ((cardGetBinaryIo).run s c) := by
  dsimp only [cardGetBinaryIo]
  with_reducible repeat' first | assumption | refine CardKeeps.ok ?_

theorem cardGetUartStatus_keeps {P s c} (h : Keeps P s) : CardKeeps P ((cardGetUartStatus).run s c) := by
  dsimp only [cardGetUartStatus]
  with_reducible repeat' first | assumption | refine State.modUart_keeps ?_ | split | refine CardKeeps.ok ?_

theorem cardSetBinaryInput_keeps {P s c} (h : Keeps P s) : CardKeeps P ((cardSetBinaryInput).run s c) := by
  dsimp only [cardSetBinaryInput]
  with_reducible repeat' first
    | assumption | refine State.setBin_keeps ?_ | refine State.releaseSignals_keeps ?_ | refine CardOut.wrong_keeps
    | refine State.bindSignal_keeps ?_ | split | refine CardKeeps.ok ?_

theorem cardSetBinaryOutput_keeps {P s c} (h : Keeps P s) : CardKeeps P ((cardSetBinaryOutput).run s c) := by
  dsimp only [cardSetBinaryOutput]
  with_reducible repeat' first | assumption | refine CardKeeps.ok ?_

theorem cardSetUart_keeps {P s c} (h : Keeps P s) : CardKeeps P ((cardSetUart).run s c) := by
  dsimp only [cardSetUart]
  with_reducible repeat' first | assumption | refine State.modUart_keeps ?_ | split | refine CardKeeps.ok ?_

theorem cardUartRead_keeps {P s c} (h : Keeps P s) : CardKeeps P ((cardUartRead).run s c) := by
  dsimp only [cardUartRead]
  with_reducible repeat' first | assumption | refine State.modUart_keeps ?_ | refine CardKeeps.ok ?_

theorem cardUartWrite_keeps {P s c} (h : Keeps P s) : CardKeeps P ((cardUartWrite).run s c) := by
  dsimp only [cardUartWrite]
  with_reducible repeat' first
    | assumption | refine CardOut.wrong_keeps | refine CardOut.noRes_keeps | refine State.modUart_keeps ?_ | split
    | refine CardKeeps.ok ?_

theorem execBinChangeAccepted_keeps {P a0 a1 a2 a3 s4} (h4 : Keeps P s4) : OutcomeKeeps P
    (execBinChangeAccepted a0 a1 a2 a3 s4) := by
  rw [execBinChangeAccepted]
  with_reducible repeat' first
    | assumption | refine State.binAccept_keeps ?_ | refine State.advance_keeps ?_ | refine OutcomeKeeps.next ?_

theorem execBinStuckTimeout_keeps {P a0 a1 s2} (h2 : Keeps P s2) : OutcomeKeeps P (execBinStuckTimeout a0 a1 s2) := by
  rw [execBinStuckTimeout]
  with_reducible repeat' first
    | assumption | refine State.binStuck_keeps ?_ | refine State.advance_keeps ?_ | refine OutcomeKeeps.next ?_

theorem execChatterRelease_keeps {P a0 a1 a2 a3 s4} (h4 : Keeps P s4) : OutcomeKeeps P
    (execChatterRelease a0 a1 a2 a3 s4) := by
  rw [execChatterRelease]
  with_reducible repeat' first
    | assumption | refine State.binRelease_keeps ?_ | refine State.advance_keeps ?_ | refine OutcomeKeeps.next ?_

theorem execGetBinaryIo_keeps {P a0 a1 s2} (h2 : Keeps P s2) : OutcomeKeeps P (execGetBinaryIo a0 a1 s2) := by
  rw [execGetBinaryIo]
  with_reducible repeat' first
    | assumption | exact cardGetBinaryIo_keeps (by assumption) | refine runCard_keeps ?_ (fun _ _ _ => ?_)

theorem execGetUartStatus_keeps {P a0 a1 s2} (h2 : Keeps P s2) : OutcomeKeeps P (execGetUartStatus a0 a1 s2) := by
  rw [execGetUartStatus]
  with_reducible repeat' first
    | assumption | exact cardGetUartStatus_keeps (by assumption) | refine runCard_keeps ?_ (fun _ _ _ => ?_)

theorem execSetBinaryInput_keeps {P a0 a1 s2} (h2 : Keeps P s2) : OutcomeKeeps P (execSetBinaryInput a0 a1 s2) := by
  rw [execSetBinaryInput]
  with_reducible repeat' first
    | assumption | exact cardSetBinaryInput_keeps (by assumption) | refine runCard_keeps ?_ (fun _ _ _ => ?_)

theorem execSetBinaryOutput_keeps {P a0 a1 s2} (h2 : Keeps P s2) : OutcomeKeeps P (execSetBinaryOutput a0 a1 s2) := by
  rw [execSetBinaryOutput]
  with_reducible repeat' first
    | assumption | exact cardSetBinaryOutput_keeps (by assumption) | refine runCard_keeps ?_ (fun _ _ _ => ?_)

theorem execSetUart_keeps {P a0 a1 s2} (h2 : Keeps P s2) : OutcomeKeeps P (execSetUart a0 a1 s2) := by
  rw [execSetUart]
  with_reducible repeat' first
    | assumption | exact cardSetUart_keeps (by assumption) | refine runCard_keeps ?_ (fun _ _ _ => ?_)

theorem execUartBreak_keeps {P a0 a1 s2} (h2 : Keeps P s2) : OutcomeKeeps P (execUartBreak a0 a1 s2) := by
  rw [execUartBreak]
  with_reducible repeat' first
    | assumption | refine State.advance_keeps ?_ | refine State.uartBreak_keeps ?_ | split
    | refine OutcomeKeeps.next ?_

theorem execUartCharacter_keeps {P a0 a1 a2 s3} (h3 : Keeps P s3) : OutcomeKeeps P (execUartCharacter a0 a1 a2 s3)
    := by
  rw [execUartCharacter]
  with_reducible repeat' first
    | assumption | refine State.advance_keeps ?_ | refine State.uartChar_keeps ?_ | split
    | refine OutcomeKeeps.next ?_

theorem execUartRead_keeps {P a0 a1 s2} (h2 : Keeps P s2) : OutcomeKeeps P (execUartRead a0 a1 s2) := by
  rw [execUartRead]
  with_reducible repeat' first
    | assumption | exact cardUartRead_keeps (by assumption) | refine runCard_keeps ?_ (fun _ _ _ => ?_)

theorem execUartTxComplete_keeps {P a0 a1 s2} (h2 : Keeps P s2) : OutcomeKeeps P (execUartTxComplete a0 a1 s2) := by
  rw [execUartTxComplete]
  with_reducible repeat' first
    | assumption | refine State.uartSent_keeps ?_ | refine State.advance_keeps ?_ | refine OutcomeKeeps.next ?_

theorem execUartWrite_keeps {P a0 a1 s2} (h2 : Keeps P s2) : OutcomeKeeps P (execUartWrite a0 a1 s2) := by
  rw [execUartWrite]
  with_reducible repeat' first
    | assumption | exact cardUartWrite_keeps (by assumption) | refine runCard_keeps ?_ (fun _ _ _ => ?_)

theorem State.bootClocks_keeps {P s0 a1} (h0 : Keeps P s0) : Keeps P (State.bootClocks s0 a1) := by
  rw [State.bootClocks]
  with_reducible repeat' first | assumption | refine State.setClk_keeps ?_ | refine State.post_keeps ?_ | split

theorem State.cellRecovered_keeps {P s0 a1 a2} (h0 : Keeps P s0) : Keeps P (State.cellRecovered s0 a1 a2) := by
  rw [State.cellRecovered]
  with_reducible repeat' first | assumption | refine State.post_keeps ?_ | refine State.bump_keeps ?_

theorem State.recoverRetained_keeps {P s0 a1 a2} (h0 : Keeps P s0) : Keeps P (State.recoverRetained s0 a1 a2) := by
  rw [State.recoverRetained]
  with_reducible repeat' first | assumption | refine State.cellRecovered_keeps ?_ | split

theorem State.recoverCells_keeps {P s0 a1} (h0 : Keeps P s0) : Keeps P (State.recoverCells s0 a1) := by
  rw [State.recoverCells]
  with_reducible repeat' first
    | assumption | refine State.recoverRetained_keeps ?_ | refine State.cellRecovered_keeps ?_ | split
    | refine Keeps.foldl ?_ (fun _ _ _ => ?_)

theorem State.checkStored_keeps {P s0 a1} (h0 : Keeps P s0) : Keeps P (State.checkStored s0 a1) := by
  rw [State.checkStored]
  with_reducible repeat' first
    | assumption | refine State.tagCheck_keeps ?_ | refine State.recoverCells_keeps ?_
    | refine Keeps.foldl ?_ (fun _ _ _ => ?_)

theorem State.selfTest_keeps {P s f} (h : Keeps P s) : Keeps P (State.selfTest s f) := by
  rw [State.selfTest]
  have hf : ∀ (s : State) (e : Eng), Keeps P s → Keeps P (s.modEng e (fun g => { g with st := .failed })) :=
    fun s e h => State.modEng_keeps h (fun g h => h)
  exact (Keeps.foldl (Keeps.foldl h (fun _ _ h => Keeps.foldl h (fun _ _ h => hf _ _ h)))
    (fun _ _ h => Keeps.foldl h (fun _ _ h => hf _ _ h)) : Keeps P _)

theorem State.startPair_keeps {P s0} (h0 : Keeps P s0) : Keeps P (State.startPair s0) := by
  rw [State.startPair]
  with_reducible repeat' first | assumption | refine State.enterSync_keeps ?_ | split | dsimp only

theorem State.bootSteps_keeps {P s0 a1} (h0 : Keeps P s0) : Keeps P (State.bootSteps s0 a1) := by
  rw [State.bootSteps]
  with_reducible repeat' first
    | assumption | refine State.bootClocks_keeps ?_ | refine State.selfTest_keeps ?_
    | refine State.checkStored_keeps ?_ | refine State.post_keeps ?_ | refine State.startPair_keeps ?_
    | refine State.fatalContainment_keeps ?_ | refine State.checkSpares_keeps ?_ | split
    | refine Keeps.foldl ?_ (fun _ _ _ => ?_)

theorem State.entryRemask_keeps {P s0} (h0 : Keeps P s0) : Keeps P (State.entryRemask s0) := by
  rw [State.entryRemask]
  with_reducible repeat' first
    | assumption | refine State.haloCount_keeps ?_ | refine State.remask_keeps ?_
    | refine Keeps.foldl ?_ (fun _ _ _ => ?_)

theorem State.postPowerUp_keeps {P s0} (h0 : Keeps P s0) : Keeps P (State.postPowerUp s0) := by
  rw [State.postPowerUp]
  with_reducible repeat' first | assumption | refine State.post_keeps ?_

theorem State.finishBoot_keeps {P s f} (h : Keeps P s) : Keeps P (State.finishBoot s f) := by
  have h1 := State.bootSteps_keeps (a1 := f) h
  rw [State.finishBoot]
  revert h1
  generalize s.bootSteps f = t
  intro h1
  exact Keeps.foldl (State.postPowerUp_keeps ⟨h1.1, h.2.1, h1.2.2⟩) (fun _ _ h => State.postEvent_keeps h)

theorem State.inReset_keeps {P s ph} (h : Keeps P s) : Keeps P (State.inReset s ph) := by
  have h1 : Keeps P (if s.power.vaux then s.commitAll else s) := Keeps.ite (State.commitAll_keeps h) h
  rw [State.inReset]
  revert h1
  generalize (if s.power.vaux then s.commitAll else s) = t
  intro h1
  exact ⟨⟨h1.1.1, fun _ h => absurd h List.not_mem_nil, fun _ h => absurd h List.not_mem_nil, rfl, rfl, h1.1.2.2.2.2.2⟩, h1.2.1,
    Nat.zero_le _, h1.2.2.2.1, fun e he => absurd he List.not_mem_nil⟩

theorem State.operatingSecond_keeps {P s0} (h0 : Keeps P s0) : Keeps P (State.operatingSecond s0) := by
  rw [State.operatingSecond]
  with_reducible repeat' first | assumption | refine State.bump_keeps ?_ | refine Keeps.foldl ?_ (fun _ _ _ => ?_)

theorem State.startBoot_keeps {P s0 a1 a2} (h0 : Keeps P s0) : Keeps P (State.startBoot s0 a1 a2) := by
  rw [State.startBoot]
  with_reducible repeat' first
    | assumption | refine State.tamperLine_keeps ?_ | refine State.entryRemask_keeps ?_ | split

theorem State.vinWarning_keeps {P s0 a1} (h0 : Keeps P s0) : Keeps P (State.vinWarning s0 a1) := by
  rw [State.vinWarning]
  with_reducible repeat' first
    | assumption | refine State.giveUp_keeps ?_ | refine State.setLine_keeps ?_ | refine State.bump_keeps ?_
    | refine State.post_keeps ?_ | refine State.commitAll_keeps ?_ | split

theorem cardConfirmImage_keeps {P s c} (h : Keeps P s) : CardKeeps P ((cardConfirmImage).run s c) := by
  dsimp only [cardConfirmImage]
  with_reducible repeat' first | assumption | refine CardOut.wrong_keeps | split | refine CardKeeps.ok ?_

theorem cardGetBootReport_keeps {P s c} (h : Keeps P s) : CardKeeps P ((cardGetBootReport).run s c) := by
  dsimp only [cardGetBootReport]
  with_reducible repeat' first | assumption | refine CardKeeps.ok ?_

theorem cardSelectImage_keeps {P s c} (h : Keeps P s) : CardKeeps P ((cardSelectImage).run s c) := by
  dsimp only [cardSelectImage]
  with_reducible repeat' first | assumption | refine CardOut.wrong_keeps | split | refine CardKeeps.ok ?_

theorem State.storeChunk_keeps {P s0 a1 a2 a3 a4} (h0 : Keeps P s0) : Keeps P (State.storeChunk s0 a1 a2 a3 a4) := by
  rw [State.storeChunk]
  assumption

theorem cardWriteFirmware_keeps {P s c} (h : Keeps P s) : CardKeeps P ((cardWriteFirmware).run s c) := by
  dsimp only [cardWriteFirmware]
  with_reducible repeat' first
    | assumption | refine CardOut.wrong_keeps | refine State.storeChunk_keeps ?_ | refine State.bump_keeps ?_ | split
    | refine CardKeeps.ok ?_ | refine CardKeeps.accepted ?_

theorem execCommandReady_keeps {P a0 a1 s2} (h2 : Keeps P s2) : OutcomeKeeps P (execCommandReady a0 a1 s2) := by
  rw [execCommandReady]
  with_reducible repeat' first
    | assumption | refine State.advance_keeps ?_ | refine State.finishBoot_keeps ?_ | split
    | refine OutcomeKeeps.next ?_

theorem execConfirmImage_keeps {P a0 a1 s2} (h2 : Keeps P s2) : OutcomeKeeps P (execConfirmImage a0 a1 s2) := by
  rw [execConfirmImage]
  with_reducible repeat' first
    | assumption | exact cardConfirmImage_keeps (by assumption) | refine runCard_keeps ?_ (fun _ _ _ => ?_)

theorem execGetBootReport_keeps {P a0 a1 s2} (h2 : Keeps P s2) : OutcomeKeeps P (execGetBootReport a0 a1 s2) := by
  rw [execGetBootReport]
  with_reducible repeat' first
    | assumption | exact cardGetBootReport_keeps (by assumption) | refine runCard_keeps ?_ (fun _ _ _ => ?_)

theorem execModuleResetBegin_keeps {P a0 a1 s2} (h2 : Keeps P s2) : OutcomeKeeps P (execModuleResetBegin a0 a1 s2)
    := by
  rw [execModuleResetBegin]
  with_reducible repeat' first
    | assumption | refine State.advance_keeps ?_ | refine State.post_keeps ?_ | refine State.giveUp_keeps ?_
    | refine State.startBoot_keeps ?_ | refine State.inReset_keeps ?_ | split | refine OutcomeKeeps.next ?_

theorem execOperatingSecond_keeps {P a0 a1 a2 a3 s4} (h4 : Keeps P s4) : OutcomeKeeps P
    (execOperatingSecond a0 a1 a2 a3 s4) := by
  rw [execOperatingSecond]
  with_reducible repeat' first
    | assumption | refine State.advance_keeps ?_ | refine State.operatingSecond_keeps ?_ | split
    | refine OutcomeKeeps.next ?_

theorem execPowerUp_keeps {P a0 a1 a2 a3 s4} (h4 : Keeps P s4) : OutcomeKeeps P (execPowerUp a0 a1 a2 a3 s4) := by
  rw [execPowerUp]
  with_reducible repeat' first
    | assumption | refine State.advance_keeps ?_ | refine State.zeroise_keeps ?_ | refine State.startBoot_keeps ?_
    | refine State.bump_keeps ?_ | split | refine OutcomeKeeps.next ?_

theorem execResetN_keeps {P a0 a1 a2 s3} (h3 : Keeps P s3) : OutcomeKeeps P (execResetN a0 a1 a2 s3) := by
  rw [execResetN]
  with_reducible repeat' first
    | assumption | refine State.advance_keeps ?_ | refine State.inReset_keeps ?_ | refine State.startBoot_keeps ?_
    | split | refine OutcomeKeeps.next ?_ | dsimp only

theorem execSelectImage_keeps {P a0 a1 s2} (h2 : Keeps P s2) : OutcomeKeeps P (execSelectImage a0 a1 s2) := by
  rw [execSelectImage]
  with_reducible repeat' first
    | assumption | exact cardSelectImage_keeps (by assumption) | refine runCard_keeps ?_ (fun _ _ _ => ?_)

theorem execVauxLoss_keeps {P a0 s1} (h1 : Keeps P s1) : OutcomeKeeps P (execVauxLoss a0 s1) := by
  rw [execVauxLoss]
  with_reducible repeat' first
    | assumption | refine State.advance_keeps ?_ | refine State.zeroise_keeps ?_ | refine State.tamperLine_keeps ?_
    | split | refine OutcomeKeeps.next ?_

theorem execVauxRestored_keeps {P a0 s1} (h1 : Keeps P s1) : OutcomeKeeps P (execVauxRestored a0 s1) := by
  rw [execVauxRestored]
  with_reducible repeat' first
    | assumption | refine State.advance_keeps ?_ | refine State.tamperLine_keeps ?_ | split
    | refine OutcomeKeeps.next ?_

theorem execVinLoss_keeps {P dt v s} (h : Keeps P s) : OutcomeKeeps P (execVinLoss dt v s) := by
  have h := State.advance_keeps (a0 := dt) h
  rw [execVinLoss]
  revert h
  generalize s.advance dt = t
  intro h
  dsimp only
  split
  · exact h
  · have h1 : Keeps P (if t.power.supply = .running then t.bump 0x007 else t) := Keeps.ite (State.bump_keeps h) h
    revert h1
    generalize (if t.power.supply = .running then t.bump 0x007 else t) = u
    intro h1
    exact State.inReset_keeps ⟨h1.1, Nat.zero_le _, h1.2.2⟩

theorem execVinRecovered_keeps {P a0 a1 s2} (h2 : Keeps P s2) : OutcomeKeeps P (execVinRecovered a0 a1 s2) := by
  rw [execVinRecovered]
  with_reducible repeat' first
    | assumption | refine State.advance_keeps ?_ | refine State.post_keeps ?_ | refine State.setLine_keeps ?_ | split
    | refine OutcomeKeeps.next ?_

theorem execVinWarning_keeps {P a0 a1 s2} (h2 : Keeps P s2) : OutcomeKeeps P (execVinWarning a0 a1 s2) := by
  rw [execVinWarning]
  with_reducible repeat' first
    | assumption | refine State.advance_keeps ?_ | refine State.vinWarning_keeps ?_ | split
    | refine OutcomeKeeps.next ?_

theorem execWriteFirmware_keeps {P a0 a1 s2} (h2 : Keeps P s2) : OutcomeKeeps P (execWriteFirmware a0 a1 s2) := by
  rw [execWriteFirmware]
  with_reducible repeat' first
    | assumption | exact cardWriteFirmware_keeps (by assumption) | refine runCard_keeps ?_ (fun _ _ _ => ?_)

theorem State.applyChannel_keeps {P s0 a1} (h0 : Keeps P s0) : Keeps P (State.applyChannel s0 a1) := by
  rw [State.applyChannel]
  with_reducible repeat' first
    | assumption | refine State.modUart_keeps ?_ | refine State.reply_keeps ?_ | refine State.setChan_keeps ?_ | split
    | refine Keeps.foldl ?_ (fun _ _ _ => ?_)

theorem State.afterReply_keeps {P s0} (h0 : Keeps P s0) : Keeps P (State.afterReply s0) := by
  rw [State.afterReply]
  with_reducible repeat' first
    | assumption | refine State.applyChannel_keeps ?_ | refine State.moduleReset_keeps ?_
    | refine State.freeVal_keeps ?_ | refine State.zenithRestart_keeps ?_ | refine State.post_keeps ?_ | split

theorem cardEcho_keeps {P s c} (h : Keeps P s) : CardKeeps P ((cardEcho).run s c) := by
  dsimp only [cardEcho]
  with_reducible repeat' first | assumption | refine CardKeeps.ok ?_

theorem cardGetFirmwareInfo_keeps {P s c} (h : Keeps P s) : CardKeeps P ((cardGetFirmwareInfo).run s c) := by
  dsimp only [cardGetFirmwareInfo]
  with_reducible repeat' first | assumption | refine CardKeeps.ok ?_

theorem cardGetIdentity_keeps {P s c} (h : Keeps P s) : CardKeeps P ((cardGetIdentity).run s c) := by
  dsimp only [cardGetIdentity]
  with_reducible repeat' first | assumption | refine CardKeeps.ok ?_

theorem cardGetStatus_keeps {P s c} (h : Keeps P s) : CardKeeps P ((cardGetStatus).run s c) := by
  dsimp only [cardGetStatus]
  with_reducible repeat' first | assumption | refine CardKeeps.ok ?_

theorem cardGetZenithLoad_keeps {P s c} (h : Keeps P s) : CardKeeps P ((cardGetZenithLoad).run s c) := by
  dsimp only [cardGetZenithLoad]
  with_reducible repeat' first | assumption | refine CardKeeps.ok ?_

theorem cardReset_keeps {P s c} (h : Keeps P s) : CardKeeps P ((cardReset).run s c) := by
  dsimp only [cardReset]
  with_reducible repeat' first | assumption | refine CardOut.wrong_keeps | split | refine CardKeeps.ok ?_

theorem cardSetChannel_keeps {P s c} (h : Keeps P s) : CardKeeps P ((cardSetChannel).run s c) := by
  dsimp only [cardSetChannel]
  with_reducible repeat' first | assumption | refine CardOut.wrong_keeps | split | refine CardKeeps.ok ?_

theorem execEcho_keeps {P a0 a1 s2} (h2 : Keeps P s2) : OutcomeKeeps P (execEcho a0 a1 s2) := by
  rw [execEcho]
  with_reducible repeat' first
    | assumption | exact cardEcho_keeps (by assumption) | refine runCard_keeps ?_ (fun _ _ _ => ?_)

theorem execGetFirmwareInfo_keeps {P a0 a1 s2} (h2 : Keeps P s2) : OutcomeKeeps P (execGetFirmwareInfo a0 a1 s2) := by
  rw [execGetFirmwareInfo]
  with_reducible repeat' first
    | assumption | exact cardGetFirmwareInfo_keeps (by assumption) | refine runCard_keeps ?_ (fun _ _ _ => ?_)

theorem execGetIdentity_keeps {P a0 a1 s2} (h2 : Keeps P s2) : OutcomeKeeps P (execGetIdentity a0 a1 s2) := by
  rw [execGetIdentity]
  with_reducible repeat' first
    | assumption | exact cardGetIdentity_keeps (by assumption) | refine runCard_keeps ?_ (fun _ _ _ => ?_)

theorem execGetStatus_keeps {P a0 a1 s2} (h2 : Keeps P s2) : OutcomeKeeps P (execGetStatus a0 a1 s2) := by
  rw [execGetStatus]
  with_reducible repeat' first
    | assumption | exact cardGetStatus_keeps (by assumption) | refine runCard_keeps ?_ (fun _ _ _ => ?_)

theorem execGetZenithLoad_keeps {P a0 a1 s2} (h2 : Keeps P s2) : OutcomeKeeps P (execGetZenithLoad a0 a1 s2) := by
  rw [execGetZenithLoad]
  with_reducible repeat' first
    | assumption | exact cardGetZenithLoad_keeps (by assumption) | refine runCard_keeps ?_ (fun _ _ _ => ?_)

theorem runAfter_keeps {P k dt c s} (h : Keeps P s) (hr : ∀ s c, Keeps P s → CardKeeps P (k.run s c))
    : OutcomeKeeps P (runAfter k dt c s) := by
  have h1 := runCard_keeps (dt := dt) (c := c) h hr
  rw [runAfter]
  revert h1
  generalize runCard k dt c s = o
  intro h1
  split
  · exact State.afterReply_keeps (h1 : Keeps P _)
  · exact h1

theorem execReset_keeps {P a0 a1 s2} (h2 : Keeps P s2) : OutcomeKeeps P (execReset a0 a1 s2) := by
  rw [execReset]
  with_reducible repeat' first
    | assumption | exact cardReset_keeps (by assumption) | refine runAfter_keeps ?_ (fun _ _ _ => ?_)

theorem execSetChannel_keeps {P a0 a1 s2} (h2 : Keeps P s2) : OutcomeKeeps P (execSetChannel a0 a1 s2) := by
  rw [execSetChannel]
  with_reducible repeat' first
    | assumption | exact cardSetChannel_keeps (by assumption) | refine runAfter_keeps ?_ (fun _ _ _ => ?_)

theorem State.commitLate_keeps {P s0 a1} (h0 : Keeps P s0) : Keeps P (State.commitLate s0 a1) := by
  rw [State.commitLate]
  with_reducible repeat' first | assumption | refine State.backupCmd_keeps ?_ | refine State.mirror_keeps ?_ | split

theorem State.outcome_keeps {P s0 a1} (h0 : Keeps P s0) : Keeps P (State.outcome s0 a1).2 := by
  rw [State.outcome]
  with_reducible repeat' first
    | assumption | refine State.placeNow_keeps ?_ (by assumption) | refine State.stageNow_keeps ?_ (by assumption)
    | refine State.finishSegment_keeps ?_ | split | dsimp only

theorem State.completeOne_keeps {P s0 a1} (h0 : Keeps P s0) : Keeps P (State.completeOne s0 a1) := by
  rw [State.completeOne]
  with_reducible repeat' first
    | assumption | refine Keeps.snd (by assumption) (State.outcome_keeps ?_) | refine State.commitLate_keeps ?_
    | refine State.answer_keeps ?_ | refine State.capAvail_keeps ?_ | split | dsimp only [Keeps]

theorem State.complete_keeps {P s0 a1 a2} (h0 : Keeps P s0) : Keeps P (State.complete s0 a1 a2) := by
  rw [State.complete]
  with_reducible repeat' first
    | assumption | refine State.switchover_keeps ?_ | refine State.scheduleDue_keeps ?_
    | refine State.completeOne_keeps ?_ | split

theorem State.dequeue_keeps {P s0 a1} (h0 : Keeps P s0) : Keeps P (State.dequeue s0 a1) := by
  rw [State.dequeue]
  with_reducible repeat' first | assumption | refine State.setChan_keeps ?_

/-- The card's own part keeps what `Keeps` says. -/
def Card.RunKeeps (k : Card) : Prop := ∀ P s c, Keeps P s → CardKeeps P (k.run s c)

theorem Card.keeps_cons {k : Card} {l : List Card} (h : k.RunKeeps) (g : ∀ x ∈ l, x.RunKeeps) : ∀ x ∈ k
    :: l, x.RunKeeps :=
  fun _ hx => (List.mem_cons.mp hx).elim (fun e => e ▸ h) (g _)

theorem Card.keeps_append {l m : List Card} (h : ∀ x ∈ l, x.RunKeeps) (g : ∀ x ∈ m, x.RunKeeps)
    : ∀ x ∈ l ++ m, x.RunKeeps :=
  fun _ hx => (List.mem_append.mp hx).elim (h _) (g _)

theorem cardsSystem_keeps : ∀ k ∈ cardsSystem, k.RunKeeps :=
  Card.keeps_cons (fun _ _ _ h => cardGetIdentity_keeps h) <|
  Card.keeps_cons (fun _ _ _ h => cardGetStatus_keeps h) <|
  Card.keeps_cons (fun _ _ _ h => cardReset_keeps h) <|
  Card.keeps_cons (fun _ _ _ h => cardGetFirmwareInfo_keeps h) <|
  Card.keeps_cons (fun _ _ _ h => cardEcho_keeps h) <|
  Card.keeps_cons (fun _ _ _ h => cardGetZenithLoad_keeps h) <|
  Card.keeps_cons (fun _ _ _ h => cardSetChannel_keeps h) <|
  Card.keeps_cons (fun _ _ _ h => cardWriteFirmware_keeps h) <|
  Card.keeps_cons (fun _ _ _ h => cardSelectImage_keeps h) <|
  Card.keeps_cons (fun _ _ _ h => cardConfirmImage_keeps h) <|
  Card.keeps_cons (fun _ _ _ h => cardGetBootReport_keeps h) <|
  fun _ h => absurd h List.not_mem_nil

theorem cardsPlacement_keeps : ∀ k ∈ cardsPlacement, k.RunKeeps :=
  Card.keeps_cons (fun _ _ _ h => cardDeclareInstance_keeps h) <|
  Card.keeps_cons (fun _ _ _ h => cardRemoveInstance_keeps h) <|
  Card.keeps_cons (fun _ _ _ h => cardPlace_keeps h) <|
  Card.keeps_cons (fun _ _ _ h => cardGetPlacement_keeps h) <|
  Card.keeps_cons (fun _ _ _ h => cardGetEngine_keeps h) <|
  Card.keeps_cons (fun _ _ _ h => cardSetPlacementLimits_keeps h) <|
  Card.keeps_cons (fun _ _ _ h => cardGetPlacementLimits_keeps h) <|
  Card.keeps_cons (fun _ _ _ h => cardGetCluster_keeps h) <|
  fun _ h => absurd h List.not_mem_nil

theorem cardsProgram_keeps : ∀ k ∈ cardsProgram, k.RunKeeps :=
  Card.keeps_cons (fun _ _ _ h => cardLoadImage_keeps h) <|
  Card.keeps_cons (fun _ _ _ h => cardFreeImage_keeps h) <|
  Card.keeps_cons (fun _ _ _ h => cardBindSignals_keeps h) <|
  Card.keeps_cons (fun _ _ _ h => cardStartInstance_keeps h) <|
  Card.keeps_cons (fun _ _ _ h => cardStopInstance_keeps h) <|
  Card.keeps_cons (fun _ _ _ h => cardWriteSettings_keeps h) <|
  Card.keeps_cons (fun _ _ _ h => cardStageChange_keeps h) <|
  Card.keeps_cons (fun _ _ _ h => cardSwitchChange_keeps h) <|
  Card.keeps_cons (fun _ _ _ h => cardCancelChange_keeps h) <|
  Card.keeps_cons (fun _ _ _ h => cardGetRunState_keeps h) <|
  Card.keeps_cons (fun _ _ _ h => cardGetChange_keeps h) <|
  fun _ h => absurd h List.not_mem_nil

theorem cardsIngest_keeps : ∀ k ∈ cardsIngest, k.RunKeeps :=
  Card.keeps_cons (fun _ _ _ h => cardDefineStream_keeps h) <|
  Card.keeps_cons (fun _ _ _ h => cardRemoveStream_keeps h) <|
  Card.keeps_cons (fun _ _ _ h => cardEnableStream_keeps h) <|
  Card.keeps_cons (fun _ _ _ h => cardSetAlignment_keeps h) <|
  Card.keeps_cons (fun _ _ _ h => cardGetStream_keeps h) <|
  Card.keeps_cons (fun _ _ _ h => cardGetIngestTotals_keeps h) <|
  Card.keeps_cons (fun _ _ _ h => cardGetChannel_keeps h) <|
  fun _ h => absurd h List.not_mem_nil

theorem cardsFilter_keeps : ∀ k ∈ cardsFilter, k.RunKeeps :=
  Card.keeps_cons (fun _ _ _ h => cardLoadBank_keeps h) <|
  Card.keeps_cons (fun _ _ _ h => cardReadBank_keeps h) <|
  Card.keeps_cons (fun _ _ _ h => cardFreeBank_keeps h) <|
  Card.keeps_cons (fun _ _ _ h => cardSetChain_keeps h) <|
  Card.keeps_cons (fun _ _ _ h => cardGetChain_keeps h) <|
  Card.keeps_cons (fun _ _ _ h => cardSyncDecimators_keeps h) <|
  Card.keeps_cons (fun _ _ _ h => cardSetDetector_keeps h) <|
  Card.keeps_cons (fun _ _ _ h => cardGetDetectors_keeps h) <|
  fun _ h => absurd h List.not_mem_nil

theorem cardsPublish_keeps : ∀ k ∈ cardsPublish, k.RunKeeps :=
  Card.keeps_cons (fun _ _ _ h => cardBindOutputs_keeps h) <|
  Card.keeps_cons (fun _ _ _ h => cardDefinePublication_keeps h) <|
  Card.keeps_cons (fun _ _ _ h => cardRemovePublication_keeps h) <|
  Card.keeps_cons (fun _ _ _ h => cardEnablePublication_keeps h) <|
  Card.keeps_cons (fun _ _ _ h => cardSetRoute_keeps h) <|
  Card.keeps_cons (fun _ _ _ h => cardGetPublication_keeps h) <|
  Card.keeps_cons (fun _ _ _ h => cardDefineSubscription_keeps h) <|
  Card.keeps_cons (fun _ _ _ h => cardRemoveSubscription_keeps h) <|
  Card.keeps_cons (fun _ _ _ h => cardEnableSubscription_keeps h) <|
  Card.keeps_cons (fun _ _ _ h => cardGetSubscription_keeps h) <|
  Card.keeps_cons (fun _ _ _ h => cardGetSignal_keeps h) <|
  fun _ h => absurd h List.not_mem_nil

theorem cardsCapture_keeps : ∀ k ∈ cardsCapture, k.RunKeeps :=
  Card.keeps_cons (fun _ _ _ h => cardDefineRecorder_keeps h) <|
  Card.keeps_cons (fun _ _ _ h => cardRemoveRecorder_keeps h) <|
  Card.keeps_cons (fun _ _ _ h => cardSetTrigger_keeps h) <|
  Card.keeps_cons (fun _ _ _ h => cardLoadMask_keeps h) <|
  Card.keeps_cons (fun _ _ _ h => cardArmRecorder_keeps h) <|
  Card.keeps_cons (fun _ _ _ h => cardForceTrigger_keeps h) <|
  Card.keeps_cons (fun _ _ _ h => cardGetRecorder_keeps h) <|
  Card.keeps_cons (fun _ _ _ h => cardListSegments_keeps h) <|
  Card.keeps_cons (fun _ _ _ h => cardReadSegment_keeps h) <|
  Card.keeps_cons (fun _ _ _ h => cardReleaseSegment_keeps h) <|
  Card.keeps_cons (fun _ _ _ h => cardGetCaptureTotals_keeps h) <|
  fun _ h => absurd h List.not_mem_nil

theorem cardsAnvil_keeps : ∀ k ∈ cardsAnvil, k.RunKeeps :=
  Card.keeps_cons (fun _ _ _ h => cardGetAnvilStatus_keeps h) <|
  Card.keeps_cons (fun _ _ _ h => cardGetContainment_keeps h) <|
  Card.keeps_cons (fun _ _ _ h => cardGetMemoryHealth_keeps h) <|
  Card.keeps_cons (fun _ _ _ h => cardSetSelfTest_keeps h) <|
  Card.keeps_cons (fun _ _ _ h => cardInjectFault_keeps h) <|
  Card.keeps_cons (fun _ _ _ h => cardSetPair_keeps h) <|
  Card.keeps_cons (fun _ _ _ h => cardGetPairStatus_keeps h) <|
  Card.keeps_cons (fun _ _ _ h => cardSwitchover_keeps h) <|
  Card.keeps_cons (fun _ _ _ h => cardResync_keeps h) <|
  fun _ h => absurd h List.not_mem_nil

theorem cardsStratus_keeps : ∀ k ∈ cardsStratus, k.RunKeeps :=
  Card.keeps_cons (fun _ _ _ h => cardSetStratus_keeps h) <|
  Card.keeps_cons (fun _ _ _ h => cardLoadSchedule_keeps h) <|
  Card.keeps_cons (fun _ _ _ h => cardActivateSchedule_keeps h) <|
  Card.keeps_cons (fun _ _ _ h => cardBindReceive_keeps h) <|
  Card.keeps_cons (fun _ _ _ h => cardGetStratusStatus_keeps h) <|
  Card.keeps_cons (fun _ _ _ h => cardGetSlot_keeps h) <|
  Card.keeps_cons (fun _ _ _ h => cardGetSync_keeps h) <|
  Card.keeps_cons (fun _ _ _ h => cardHandoverManager_keeps h) <|
  Card.keeps_cons (fun _ _ _ h => cardGetNodes_keeps h) <|
  fun _ h => absurd h List.not_mem_nil

theorem cardsTime_keeps : ∀ k ∈ cardsTime, k.RunKeeps :=
  Card.keeps_cons (fun _ _ _ h => cardSetPtp_keeps h) <|
  Card.keeps_cons (fun _ _ _ h => cardGetPtpStatus_keeps h) <|
  Card.keeps_cons (fun _ _ _ h => cardSetPortTiming_keeps h) <|
  Card.keeps_cons (fun _ _ _ h => cardSelectTime_keeps h) <|
  Card.keeps_cons (fun _ _ _ h => cardGetTime_keeps h) <|
  Card.keeps_cons (fun _ _ _ h => cardSetPulse_keeps h) <|
  Card.keeps_cons (fun _ _ _ h => cardSetCaptureInput_keeps h) <|
  Card.keeps_cons (fun _ _ _ h => cardReadCaptures_keeps h) <|
  Card.keeps_cons (fun _ _ _ h => cardSetUtc_keeps h) <|
  Card.keeps_cons (fun _ _ _ h => cardStepProtectionTime_keeps h) <|
  fun _ h => absurd h List.not_mem_nil

theorem cardsClock_keeps : ∀ k ∈ cardsClock, k.RunKeeps :=
  Card.keeps_cons (fun _ _ _ h => cardSetClockSources_keeps h) <|
  Card.keeps_cons (fun _ _ _ h => cardGetClockStatus_keeps h) <|
  Card.keeps_cons (fun _ _ _ h => cardGetPllStatus_keeps h) <|
  Card.keeps_cons (fun _ _ _ h => cardSetPower_keeps h) <|
  Card.keeps_cons (fun _ _ _ h => cardGetPowerStatus_keeps h) <|
  fun _ h => absurd h List.not_mem_nil

theorem cardsSwitch_keeps : ∀ k ∈ cardsSwitch, k.RunKeeps :=
  Card.keeps_cons (fun _ _ _ h => cardSetVlan_keeps h) <|
  Card.keeps_cons (fun _ _ _ h => cardSetFdbEntry_keeps h) <|
  Card.keeps_cons (fun _ _ _ h => cardGetFdb_keeps h) <|
  Card.keeps_cons (fun _ _ _ h => cardSetPortSwitch_keeps h) <|
  Card.keeps_cons (fun _ _ _ h => cardSetSwitch_keeps h) <|
  Card.keeps_cons (fun _ _ _ h => cardSetQueue_keeps h) <|
  Card.keeps_cons (fun _ _ _ h => cardSetPolicer_keeps h) <|
  Card.keeps_cons (fun _ _ _ h => cardSetGateList_keeps h) <|
  Card.keeps_cons (fun _ _ _ h => cardSetRedundancy_keeps h) <|
  Card.keeps_cons (fun _ _ _ h => cardGetRedundancyStatus_keeps h) <|
  Card.keeps_cons (fun _ _ _ h => cardGetBufferStatus_keeps h) <|
  Card.keeps_cons (fun _ _ _ h => cardGetQueueCounters_keeps h) <|
  Card.keeps_cons (fun _ _ _ h => cardGetSwitchCounters_keeps h) <|
  Card.keeps_cons (fun _ _ _ h => cardSetPort_keeps h) <|
  Card.keeps_cons (fun _ _ _ h => cardGetPortStatus_keeps h) <|
  Card.keeps_cons (fun _ _ _ h => cardGetPortCounters_keeps h) <|
  Card.keeps_cons (fun _ _ _ h => cardI2cTransfer_keeps h) <|
  fun _ h => absurd h List.not_mem_nil

theorem cardsHost_keeps : ∀ k ∈ cardsHost, k.RunKeeps :=
  Card.keeps_cons (fun _ _ _ h => cardSetInstanceResources_keeps h) <|
  Card.keeps_cons (fun _ _ _ h => cardGetInstance_keeps h) <|
  Card.keeps_cons (fun _ _ _ h => cardSetWindow_keeps h) <|
  Card.keeps_cons (fun _ _ _ h => cardGetWindow_keeps h) <|
  Card.keeps_cons (fun _ _ _ h => cardResetInstance_keeps h) <|
  Card.keeps_cons (fun _ _ _ h => cardGetHostCounters_keeps h) <|
  fun _ h => absurd h List.not_mem_nil

theorem cardsInterrupt_keeps : ∀ k ∈ cardsInterrupt, k.RunKeeps :=
  Card.keeps_cons (fun _ _ _ h => cardSetSource_keeps h) <|
  Card.keeps_cons (fun _ _ _ h => cardGetSource_keeps h) <|
  Card.keeps_cons (fun _ _ _ h => cardUnmaskSource_keeps h) <|
  Card.keeps_cons (fun _ _ _ h => cardListMasked_keeps h) <|
  fun _ h => absurd h List.not_mem_nil

theorem cardsKey_keeps : ∀ k ∈ cardsKey, k.RunKeeps :=
  Card.keeps_cons (fun _ _ _ h => cardWriteKey_keeps h) <|
  Card.keeps_cons (fun _ _ _ h => cardEraseKey_keeps h) <|
  Card.keeps_cons (fun _ _ _ h => cardGetKeyInfo_keeps h) <|
  Card.keeps_cons (fun _ _ _ h => cardListKeys_keeps h) <|
  Card.keeps_cons (fun _ _ _ h => cardVerifyKey_keeps h) <|
  Card.keeps_cons (fun _ _ _ h => cardAckTamper_keeps h) <|
  Card.keeps_cons (fun _ _ _ h => cardGetHaloStatus_keeps h) <|
  fun _ h => absurd h List.not_mem_nil

theorem cardsRecorder_keeps : ∀ k ∈ cardsRecorder, k.RunKeeps :=
  Card.keeps_cons (fun _ _ _ h => cardGetRecorderStatus_keeps h) <|
  Card.keeps_cons (fun _ _ _ h => cardReadRecords_keeps h) <|
  Card.keeps_cons (fun _ _ _ h => cardGetClearNonce_keeps h) <|
  Card.keeps_cons (fun _ _ _ h => cardClearRecorder_keeps h) <|
  Card.keeps_cons (fun _ _ _ h => cardReadCounters_keeps h) <|
  Card.keeps_cons (fun _ _ _ h => cardPostRecord_keeps h) <|
  Card.keeps_cons (fun _ _ _ h => cardGetChipletIdentity_keeps h) <|
  Card.keeps_cons (fun _ _ _ h => cardReadHistogram_keeps h) <|
  fun _ h => absurd h List.not_mem_nil

theorem cardsSerial_keeps : ∀ k ∈ cardsSerial, k.RunKeeps :=
  Card.keeps_cons (fun _ _ _ h => cardSetUart_keeps h) <|
  Card.keeps_cons (fun _ _ _ h => cardUartWrite_keeps h) <|
  Card.keeps_cons (fun _ _ _ h => cardUartRead_keeps h) <|
  Card.keeps_cons (fun _ _ _ h => cardGetUartStatus_keeps h) <|
  Card.keeps_cons (fun _ _ _ h => cardSetBinaryInput_keeps h) <|
  Card.keeps_cons (fun _ _ _ h => cardSetBinaryOutput_keeps h) <|
  Card.keeps_cons (fun _ _ _ h => cardGetBinaryIo_keeps h) <|
  fun _ h => absurd h List.not_mem_nil

theorem allCards_keeps : ∀ k ∈ allCards, k.RunKeeps :=
  (Card.keeps_append (Card.keeps_append (Card.keeps_append (Card.keeps_append (Card.keeps_append (Card.keeps_append (Card.keeps_append (Card.keeps_append (Card.keeps_append (Card.keeps_append (Card.keeps_append (Card.keeps_append (Card.keeps_append (Card.keeps_append (Card.keeps_append (Card.keeps_append cardsSystem_keeps cardsPlacement_keeps)
    cardsProgram_keeps)
    cardsIngest_keeps)
    cardsFilter_keeps)
    cardsPublish_keeps)
    cardsCapture_keeps)
    cardsAnvil_keeps)
    cardsStratus_keeps)
    cardsTime_keeps)
    cardsClock_keeps)
    cardsSwitch_keeps)
    cardsHost_keeps)
    cardsInterrupt_keeps)
    cardsKey_keeps)
    cardsRecorder_keeps)
    cardsSerial_keeps)

theorem State.runOpcode_keeps {P o s c} (h : Keeps P s) : Keeps P (State.runOpcode o s c) := by
  rw [State.runOpcode]
  split
  · rename_i e
    exact Card.exec_keeps h (fun s hs => allCards_keeps _ (List.mem_of_find?_eq_some e) P s _ hs)
  · exact Keeps.ite (State.reply_keeps h) (State.reply_keeps h)

theorem State.runMirror_keeps {P s0 a1} (h0 : Keeps P s0) : Keeps P (State.runMirror s0 a1) := by
  rw [State.runMirror]
  with_reducible repeat' first
    | assumption | refine State.runOpcode_keeps ?_ | refine State.completeOne_keeps ?_ | split

theorem State.pairMirror_keeps {P s0 a1 a2} (h0 : Keeps P s0) : Keeps P (State.pairMirror s0 a1 a2) := by
  rw [State.pairMirror]
  with_reducible repeat' first
    | assumption | refine State.pairUnfit_keeps ?_ | refine State.runMirror_keeps ?_ | split | dsimp only

theorem State.startNext_keeps {P s0} (h0 : Keeps P s0) : Keeps P (State.startNext s0) := by
  rw [State.startNext]
  with_reducible repeat' first
    | assumption | refine State.afterReply_keeps ?_ | refine State.runOpcode_keeps ?_ | refine State.dequeue_keeps ?_
    | split

theorem execCommandCompletion_keeps {P a0 a1 a2 s3} (h3 : Keeps P s3) : OutcomeKeeps P
    (execCommandCompletion a0 a1 a2 s3) := by
  rw [execCommandCompletion]
  with_reducible repeat' first
    | assumption | refine State.advance_keeps ?_ | refine State.complete_keeps ?_ | split
    | refine OutcomeKeeps.next ?_

theorem execCommandStart_keeps {P a0 s1} (h1 : Keeps P s1) : OutcomeKeeps P (execCommandStart a0 s1) := by
  rw [execCommandStart]
  with_reducible repeat' first
    | assumption | refine State.advance_keeps ?_ | refine State.startNext_keeps ?_ | split
    | refine OutcomeKeeps.next ?_

theorem execMgmtEthernetFrame_keeps {P a0 a1 a2 s3} (h3 : Keeps P s3) : OutcomeKeeps P
    (execMgmtEthernetFrame a0 a1 a2 s3) := by
  rw [execMgmtEthernetFrame]
  with_reducible repeat' first
    | assumption | refine State.advance_keeps ?_ | refine State.arrive_keeps ?_ | refine State.setChan_keeps ?_
    | split | refine OutcomeKeeps.next ?_

theorem execMgmtMessageReceived_keeps {P a0 a1 a2 a3 a4 a5 s6} (h6 : Keeps P s6) : OutcomeKeeps P
    (execMgmtMessageReceived a0 a1 a2 a3 a4 a5 s6) := by
  rw [execMgmtMessageReceived]
  with_reducible repeat' first
    | assumption | refine State.mgmtReceived_keeps ?_ ?_ | refine State.advance_keeps ?_
    | refine State.runOpcode_keeps ?_ | refine OutcomeKeeps.next ?_ | intro _

theorem execPacketArrival_keeps {P a0 a1 a2 a3 a4 a5 a6 s7} (h7 : Keeps P s7) : OutcomeKeeps P
    (execPacketArrival a0 a1 a2 a3 a4 a5 a6 s7) := by
  rw [execPacketArrival]
  with_reducible repeat' first
    | assumption | refine State.advance_keeps ?_ | refine State.arrive_keeps ?_ | split | refine OutcomeKeeps.next ?_

theorem execPairMirrorReceived_keeps {P a0 a1 a2 a3 s4} (h4 : Keeps P s4) : OutcomeKeeps P
    (execPairMirrorReceived a0 a1 a2 a3 s4) := by
  rw [execPairMirrorReceived]
  with_reducible repeat' first
    | assumption | refine State.onRecord_keeps ?_ ?_ | refine State.advance_keeps ?_
    | refine State.pairMirror_keeps ?_ | refine OutcomeKeeps.next ?_ | intro _

theorem execWatchdogExpiry_keeps {P a0 a1 s2} (h2 : Keeps P s2) : OutcomeKeeps P (execWatchdogExpiry a0 a1 s2) := by
  rw [execWatchdogExpiry]
  with_reducible repeat' first
    | assumption | refine State.advance_keeps ?_ | refine State.watchdog_keeps ?_ | split
    | refine OutcomeKeeps.next ?_

theorem execZenithLoadUpdate_keeps {P a0 a1 s2} (h2 : Keeps P s2) : OutcomeKeeps P (execZenithLoadUpdate a0 a1 s2)
    := by
  rw [execZenithLoadUpdate]
  with_reducible repeat' first
    | assumption | refine State.advance_keeps ?_ | refine State.bump_keeps ?_ | split | refine OutcomeKeeps.next ?_
    | dsimp only

theorem execZenithRecovered_keeps {P a0 s1} (h1 : Keeps P s1) : OutcomeKeeps P (execZenithRecovered a0 s1) := by
  rw [execZenithRecovered]
  with_reducible repeat' first
    | assumption | refine State.advance_keeps ?_ | refine State.restoreWaiting_keeps ?_
    | refine State.icuRecovered_keeps ?_ | split | refine OutcomeKeeps.next ?_

end Sys2Proof.Machine
end

