-- ==== Sys2Proof/Laws/Reply.lean ====
section
/-! SUPPORT. What a reply can change, said once (02 R36, R46, 18 R444). -/
namespace Sys2Proof.Machine

/-- `t` differs from `s` only where DMA and a delivery reach: what has left, the host side, the interrupt events that wait. -/
def HostOnly (s t : State) : Prop := t = { s with sent := t.sent, host := t.host, icu.inbox := t.icu.inbox }

theorem HostOnly.refl (s : State) : HostOnly s s := rfl

theorem HostOnly.trans {a b c : State} (h : HostOnly a b) (h' : HostOnly b c) : HostOnly a c := by
  unfold HostOnly at *; rw [h'] ; rw [h]

theorem setHif_hostOnly (s : State) (vi : Nat) (h : Hif) : HostOnly s (s.setHif vi h) := rfl
theorem setTu_hostOnly (s : State) (vi : Nat) (t : Tu) : HostOnly s (s.setTu vi t) := rfl
theorem emit_hostOnly (s : State) (x : Sent) : HostOnly s (s.emit x) := rfl
theorem raiseInt_hostOnly (s : State) (n : Nat) : HostOnly s (s.raiseInt n) := rfl

theorem tuFault_hostOnly (s : State) (vi iova : Nat) : HostOnly s (s.tuFault vi iova) := rfl

theorem translate_hostOnly (s : State) (vi iova : Nat) (w : Bool) : HostOnly s (s.translate vi iova w).2 := by
  unfold State.translate
  dsimp only
  (repeat' split) <;> rfl

theorem dmaPages_hostOnly (n : Nat) (s : State) (vi iova : Nat) (p : Bytes) : HostOnly s (s.dmaPages n vi iova p).2 := by
  induction n generalizing s iova p with
  | zero => rfl
  | succ n ih =>
    unfold State.dmaPages
    dsimp only
    split
    · rfl
    · have ht := translate_hostOnly s vi iova true
      split
      · rename_i h; rw [h] at ht; exact ht
      · rename_i bus t h; rw [h] at ht; refine HostOnly.trans (b := { t with host.mem := memWriteN t.host.mem bus (p.take (min p.length (4096 - iova % 4096))) }) ?_ (ih ..)
        exact ht.trans rfl

theorem dmaWrite_hostOnly (s : State) (vi iova : Nat) (p : Bytes) : HostOnly s (s.dmaWrite vi iova p).2 := by
  unfold State.dmaWrite
  have := dmaPages_hostOnly (p.length + 1) s vi iova p
  split <;> rename_i h <;> rw [h] at this
  · exact this.trans rfl
  · exact this

theorem ringErr_hostOnly (s : State) (vi code index : Nat) : HostOnly s (s.ringErr vi code index) := rfl

/-- A delivery changes nothing else. -/
theorem deliver_hostOnly (s : State) (c : Cmd) (status detail : Nat) (b : Bytes) : HostOnly s (s.deliver c status detail b) := by
  unfold State.deliver
  dsimp only
  split
  · rfl
  · have h1 := dmaWrite_hostOnly s c.chan c.replyTo b
    generalize s.dmaWrite c.chan c.replyTo b = r at h1
    obtain ⟨ok, s1⟩ := r
    dsimp only at h1 ⊢
    split <;> rename_i h2
    all_goals
      have h3 := congrArg Prod.snd h2
      dsimp only at h3
      rw [← h3]
      exact (h1.trans (dmaWrite_hostOnly ..)).trans rfl

/-- Every part a reply can change on one of the module's own channels. -/
theorem answer_frame (s : State) (c : Cmd) (completion : Bool) (status detail : Nat) (data : Bytes) (h : c.own = true) :
    s.answer c completion status detail data =
      { s with cmd.channels := (s.answer c completion status detail data).cmd.channels,
               cmd.busyReplies := (s.answer c completion status detail data).cmd.busyReplies,
               sent := (s.answer c completion status detail data).sent,
               host := (s.answer c completion status detail data).host,
               icu.inbox := (s.answer c completion status detail data).icu.inbox } := by
  have hc : ¬ c.chan ≥ 66 := by simp [Cmd.own] at h; omega
  unfold State.answer
  rw [if_neg hc]
  split
  · dsimp only
    split
    · unfold State.releaseReservation; split <;> rfl
    · rfl
  · dsimp only
    split
    · generalize hu : (if status = stBusyRetry then _ else _ : State) = u
      have hd := deliver_hostOnly u c status detail (replyPacket c completion status detail data)
      unfold HostOnly at hd
      rw [hd]
      subst hu
      split <;> rfl
    · split <;> rfl

end Sys2Proof.Machine
end

