-- ==== Sys2Proof/Laws/State.lean ====
section
/-! SUPPORT. The parts of State that each shared update leaves as they are, one lemma per part and update, so that no later
proof unfolds an update. -/
namespace Sys2Proof.Machine

/-! `advance` changes `horizon` only. -/

@[simp] theorem State.advance_pending (s : State) (n : Nat) : (State.advance n s).pending = s.pending := by unfold State.advance; (repeat' split) <;> rfl
@[simp] theorem State.advance_sent (s : State) (n : Nat) : (State.advance n s).sent = s.sent := by unfold State.advance; (repeat' split) <;> rfl
@[simp] theorem State.advance_free (s : State) (n : Nat) : (State.advance n s).free = s.free := by unfold State.advance; (repeat' split) <;> rfl
@[simp] theorem State.advance_origin (s : State) (n : Nat) : (State.advance n s).origin = s.origin := by unfold State.advance; (repeat' split) <;> rfl
@[simp] theorem State.advance_injected (s : State) (n : Nat) : (State.advance n s).injected = s.injected := by unfold State.advance; (repeat' split) <;> rfl
@[simp] theorem State.advance_cmd (s : State) (n : Nat) : (State.advance n s).cmd = s.cmd := by unfold State.advance; (repeat' split) <;> rfl
@[simp] theorem State.advance_place (s : State) (n : Nat) : (State.advance n s).place = s.place := by unfold State.advance; (repeat' split) <;> rfl
@[simp] theorem State.advance_ingest (s : State) (n : Nat) : (State.advance n s).ingest = s.ingest := by unfold State.advance; (repeat' split) <;> rfl
@[simp] theorem State.advance_filter (s : State) (n : Nat) : (State.advance n s).filter = s.filter := by unfold State.advance; (repeat' split) <;> rfl
@[simp] theorem State.advance_prog (s : State) (n : Nat) : (State.advance n s).prog = s.prog := by unfold State.advance; (repeat' split) <;> rfl
@[simp] theorem State.advance_pub (s : State) (n : Nat) : (State.advance n s).pub = s.pub := by unfold State.advance; (repeat' split) <;> rfl
@[simp] theorem State.advance_cap (s : State) (n : Nat) : (State.advance n s).cap = s.cap := by unfold State.advance; (repeat' split) <;> rfl
@[simp] theorem State.advance_anvil (s : State) (n : Nat) : (State.advance n s).anvil = s.anvil := by unfold State.advance; (repeat' split) <;> rfl
@[simp] theorem State.advance_pair (s : State) (n : Nat) : (State.advance n s).pair = s.pair := by unfold State.advance; (repeat' split) <;> rfl
@[simp] theorem State.advance_power (s : State) (n : Nat) : (State.advance n s).power = s.power := by unfold State.advance; (repeat' split) <;> rfl
@[simp] theorem State.advance_clocks (s : State) (n : Nat) : (State.advance n s).clocks = s.clocks := by unfold State.advance; (repeat' split) <;> rfl
@[simp] theorem State.advance_serial (s : State) (n : Nat) : (State.advance n s).serial = s.serial := by unfold State.advance; (repeat' split) <;> rfl
@[simp] theorem State.advance_host (s : State) (n : Nat) : (State.advance n s).host = s.host := by unfold State.advance; (repeat' split) <;> rfl
@[simp] theorem State.advance_icu (s : State) (n : Nat) : (State.advance n s).icu = s.icu := by unfold State.advance; (repeat' split) <;> rfl
@[simp] theorem State.advance_recorder (s : State) (n : Nat) : (State.advance n s).recorder = s.recorder := by unfold State.advance; (repeat' split) <;> rfl
@[simp] theorem State.advance_boot (s : State) (n : Nat) : (State.advance n s).boot = s.boot := by unfold State.advance; (repeat' split) <;> rfl
@[simp] theorem State.advance_stratus (s : State) (n : Nat) : (State.advance n s).stratus = s.stratus := by unfold State.advance; (repeat' split) <;> rfl
@[simp] theorem State.advance_keys (s : State) (n : Nat) : (State.advance n s).keys = s.keys := by unfold State.advance; (repeat' split) <;> rfl
@[simp] theorem State.advance_tap (s : State) (n : Nat) : (State.advance n s).tap = s.tap := by unfold State.advance; (repeat' split) <;> rfl
@[simp] theorem State.advance_sw (s : State) (n : Nat) : (State.advance n s).sw = s.sw := by unfold State.advance; (repeat' split) <;> rfl
@[simp] theorem State.advance_ports (s : State) (n : Nat) : (State.advance n s).ports = s.ports := by unfold State.advance; (repeat' split) <;> rfl
@[simp] theorem State.advance_i2c (s : State) (n : Nat) : (State.advance n s).i2c = s.i2c := by unfold State.advance; (repeat' split) <;> rfl

/-! `under` changes `origin` only. -/

@[simp] theorem State.under_pending (s : State) (c : Cmd) : (s.under c).pending = s.pending := rfl
@[simp] theorem State.under_sent (s : State) (c : Cmd) : (s.under c).sent = s.sent := rfl
@[simp] theorem State.under_free (s : State) (c : Cmd) : (s.under c).free = s.free := rfl
@[simp] theorem State.under_injected (s : State) (c : Cmd) : (s.under c).injected = s.injected := rfl
@[simp] theorem State.under_cmd (s : State) (c : Cmd) : (s.under c).cmd = s.cmd := rfl
@[simp] theorem State.under_place (s : State) (c : Cmd) : (s.under c).place = s.place := rfl
@[simp] theorem State.under_ingest (s : State) (c : Cmd) : (s.under c).ingest = s.ingest := rfl
@[simp] theorem State.under_filter (s : State) (c : Cmd) : (s.under c).filter = s.filter := rfl
@[simp] theorem State.under_prog (s : State) (c : Cmd) : (s.under c).prog = s.prog := rfl
@[simp] theorem State.under_pub (s : State) (c : Cmd) : (s.under c).pub = s.pub := rfl
@[simp] theorem State.under_cap (s : State) (c : Cmd) : (s.under c).cap = s.cap := rfl
@[simp] theorem State.under_anvil (s : State) (c : Cmd) : (s.under c).anvil = s.anvil := rfl
@[simp] theorem State.under_pair (s : State) (c : Cmd) : (s.under c).pair = s.pair := rfl
@[simp] theorem State.under_horizon (s : State) (c : Cmd) : (s.under c).horizon = s.horizon := rfl
@[simp] theorem State.under_power (s : State) (c : Cmd) : (s.under c).power = s.power := rfl
@[simp] theorem State.under_clocks (s : State) (c : Cmd) : (s.under c).clocks = s.clocks := rfl
@[simp] theorem State.under_serial (s : State) (c : Cmd) : (s.under c).serial = s.serial := rfl
@[simp] theorem State.under_host (s : State) (c : Cmd) : (s.under c).host = s.host := rfl
@[simp] theorem State.under_icu (s : State) (c : Cmd) : (s.under c).icu = s.icu := rfl
@[simp] theorem State.under_recorder (s : State) (c : Cmd) : (s.under c).recorder = s.recorder := rfl
@[simp] theorem State.under_boot (s : State) (c : Cmd) : (s.under c).boot = s.boot := rfl
@[simp] theorem State.under_stratus (s : State) (c : Cmd) : (s.under c).stratus = s.stratus := rfl
@[simp] theorem State.under_keys (s : State) (c : Cmd) : (s.under c).keys = s.keys := rfl
@[simp] theorem State.under_tap (s : State) (c : Cmd) : (s.under c).tap = s.tap := rfl
@[simp] theorem State.under_sw (s : State) (c : Cmd) : (s.under c).sw = s.sw := rfl
@[simp] theorem State.under_ports (s : State) (c : Cmd) : (s.under c).ports = s.ports := rfl
@[simp] theorem State.under_i2c (s : State) (c : Cmd) : (s.under c).i2c = s.i2c := rfl

/-! `after` changes `origin` only. -/

@[simp] theorem State.after_pending (s : State) : (s.after).pending = s.pending := rfl
@[simp] theorem State.after_sent (s : State) : (s.after).sent = s.sent := rfl
@[simp] theorem State.after_free (s : State) : (s.after).free = s.free := rfl
@[simp] theorem State.after_injected (s : State) : (s.after).injected = s.injected := rfl
@[simp] theorem State.after_cmd (s : State) : (s.after).cmd = s.cmd := rfl
@[simp] theorem State.after_place (s : State) : (s.after).place = s.place := rfl
@[simp] theorem State.after_ingest (s : State) : (s.after).ingest = s.ingest := rfl
@[simp] theorem State.after_filter (s : State) : (s.after).filter = s.filter := rfl
@[simp] theorem State.after_prog (s : State) : (s.after).prog = s.prog := rfl
@[simp] theorem State.after_pub (s : State) : (s.after).pub = s.pub := rfl
@[simp] theorem State.after_cap (s : State) : (s.after).cap = s.cap := rfl
@[simp] theorem State.after_anvil (s : State) : (s.after).anvil = s.anvil := rfl
@[simp] theorem State.after_pair (s : State) : (s.after).pair = s.pair := rfl
@[simp] theorem State.after_horizon (s : State) : (s.after).horizon = s.horizon := rfl
@[simp] theorem State.after_power (s : State) : (s.after).power = s.power := rfl
@[simp] theorem State.after_clocks (s : State) : (s.after).clocks = s.clocks := rfl
@[simp] theorem State.after_serial (s : State) : (s.after).serial = s.serial := rfl
@[simp] theorem State.after_host (s : State) : (s.after).host = s.host := rfl
@[simp] theorem State.after_icu (s : State) : (s.after).icu = s.icu := rfl
@[simp] theorem State.after_recorder (s : State) : (s.after).recorder = s.recorder := rfl
@[simp] theorem State.after_boot (s : State) : (s.after).boot = s.boot := rfl
@[simp] theorem State.after_stratus (s : State) : (s.after).stratus = s.stratus := rfl
@[simp] theorem State.after_keys (s : State) : (s.after).keys = s.keys := rfl
@[simp] theorem State.after_tap (s : State) : (s.after).tap = s.tap := rfl
@[simp] theorem State.after_sw (s : State) : (s.after).sw = s.sw := rfl
@[simp] theorem State.after_ports (s : State) : (s.after).ports = s.ports := rfl
@[simp] theorem State.after_i2c (s : State) : (s.after).i2c = s.i2c := rfl

/-! `emit` changes `sent` only. -/

@[simp] theorem State.emit_pending (s : State) (x : Sent) : (s.emit x).pending = s.pending := rfl
@[simp] theorem State.emit_free (s : State) (x : Sent) : (s.emit x).free = s.free := rfl
@[simp] theorem State.emit_origin (s : State) (x : Sent) : (s.emit x).origin = s.origin := rfl
@[simp] theorem State.emit_injected (s : State) (x : Sent) : (s.emit x).injected = s.injected := rfl
@[simp] theorem State.emit_cmd (s : State) (x : Sent) : (s.emit x).cmd = s.cmd := rfl
@[simp] theorem State.emit_place (s : State) (x : Sent) : (s.emit x).place = s.place := rfl
@[simp] theorem State.emit_ingest (s : State) (x : Sent) : (s.emit x).ingest = s.ingest := rfl
@[simp] theorem State.emit_filter (s : State) (x : Sent) : (s.emit x).filter = s.filter := rfl
@[simp] theorem State.emit_prog (s : State) (x : Sent) : (s.emit x).prog = s.prog := rfl
@[simp] theorem State.emit_pub (s : State) (x : Sent) : (s.emit x).pub = s.pub := rfl
@[simp] theorem State.emit_cap (s : State) (x : Sent) : (s.emit x).cap = s.cap := rfl
@[simp] theorem State.emit_anvil (s : State) (x : Sent) : (s.emit x).anvil = s.anvil := rfl
@[simp] theorem State.emit_pair (s : State) (x : Sent) : (s.emit x).pair = s.pair := rfl
@[simp] theorem State.emit_horizon (s : State) (x : Sent) : (s.emit x).horizon = s.horizon := rfl
@[simp] theorem State.emit_power (s : State) (x : Sent) : (s.emit x).power = s.power := rfl
@[simp] theorem State.emit_clocks (s : State) (x : Sent) : (s.emit x).clocks = s.clocks := rfl
@[simp] theorem State.emit_serial (s : State) (x : Sent) : (s.emit x).serial = s.serial := rfl
@[simp] theorem State.emit_host (s : State) (x : Sent) : (s.emit x).host = s.host := rfl
@[simp] theorem State.emit_icu (s : State) (x : Sent) : (s.emit x).icu = s.icu := rfl
@[simp] theorem State.emit_recorder (s : State) (x : Sent) : (s.emit x).recorder = s.recorder := rfl
@[simp] theorem State.emit_boot (s : State) (x : Sent) : (s.emit x).boot = s.boot := rfl
@[simp] theorem State.emit_stratus (s : State) (x : Sent) : (s.emit x).stratus = s.stratus := rfl
@[simp] theorem State.emit_keys (s : State) (x : Sent) : (s.emit x).keys = s.keys := rfl
@[simp] theorem State.emit_tap (s : State) (x : Sent) : (s.emit x).tap = s.tap := rfl
@[simp] theorem State.emit_sw (s : State) (x : Sent) : (s.emit x).sw = s.sw := rfl
@[simp] theorem State.emit_ports (s : State) (x : Sent) : (s.emit x).ports = s.ports := rfl
@[simp] theorem State.emit_i2c (s : State) (x : Sent) : (s.emit x).i2c = s.i2c := rfl

/-! `raiseInt` changes `icu` only. -/

@[simp] theorem State.raiseInt_pending (s : State) (n : Nat) : (s.raiseInt n).pending = s.pending := rfl
@[simp] theorem State.raiseInt_sent (s : State) (n : Nat) : (s.raiseInt n).sent = s.sent := rfl
@[simp] theorem State.raiseInt_free (s : State) (n : Nat) : (s.raiseInt n).free = s.free := rfl
@[simp] theorem State.raiseInt_origin (s : State) (n : Nat) : (s.raiseInt n).origin = s.origin := rfl
@[simp] theorem State.raiseInt_injected (s : State) (n : Nat) : (s.raiseInt n).injected = s.injected := rfl
@[simp] theorem State.raiseInt_cmd (s : State) (n : Nat) : (s.raiseInt n).cmd = s.cmd := rfl
@[simp] theorem State.raiseInt_place (s : State) (n : Nat) : (s.raiseInt n).place = s.place := rfl
@[simp] theorem State.raiseInt_ingest (s : State) (n : Nat) : (s.raiseInt n).ingest = s.ingest := rfl
@[simp] theorem State.raiseInt_filter (s : State) (n : Nat) : (s.raiseInt n).filter = s.filter := rfl
@[simp] theorem State.raiseInt_prog (s : State) (n : Nat) : (s.raiseInt n).prog = s.prog := rfl
@[simp] theorem State.raiseInt_pub (s : State) (n : Nat) : (s.raiseInt n).pub = s.pub := rfl
@[simp] theorem State.raiseInt_cap (s : State) (n : Nat) : (s.raiseInt n).cap = s.cap := rfl
@[simp] theorem State.raiseInt_anvil (s : State) (n : Nat) : (s.raiseInt n).anvil = s.anvil := rfl
@[simp] theorem State.raiseInt_pair (s : State) (n : Nat) : (s.raiseInt n).pair = s.pair := rfl
@[simp] theorem State.raiseInt_horizon (s : State) (n : Nat) : (s.raiseInt n).horizon = s.horizon := rfl
@[simp] theorem State.raiseInt_power (s : State) (n : Nat) : (s.raiseInt n).power = s.power := rfl
@[simp] theorem State.raiseInt_clocks (s : State) (n : Nat) : (s.raiseInt n).clocks = s.clocks := rfl
@[simp] theorem State.raiseInt_serial (s : State) (n : Nat) : (s.raiseInt n).serial = s.serial := rfl
@[simp] theorem State.raiseInt_host (s : State) (n : Nat) : (s.raiseInt n).host = s.host := rfl
@[simp] theorem State.raiseInt_recorder (s : State) (n : Nat) : (s.raiseInt n).recorder = s.recorder := rfl
@[simp] theorem State.raiseInt_boot (s : State) (n : Nat) : (s.raiseInt n).boot = s.boot := rfl
@[simp] theorem State.raiseInt_stratus (s : State) (n : Nat) : (s.raiseInt n).stratus = s.stratus := rfl
@[simp] theorem State.raiseInt_keys (s : State) (n : Nat) : (s.raiseInt n).keys = s.keys := rfl
@[simp] theorem State.raiseInt_tap (s : State) (n : Nat) : (s.raiseInt n).tap = s.tap := rfl
@[simp] theorem State.raiseInt_sw (s : State) (n : Nat) : (s.raiseInt n).sw = s.sw := rfl
@[simp] theorem State.raiseInt_ports (s : State) (n : Nat) : (s.raiseInt n).ports = s.ports := rfl
@[simp] theorem State.raiseInt_i2c (s : State) (n : Nat) : (s.raiseInt n).i2c = s.i2c := rfl

/-! `setLine` changes `icu` only. -/

@[simp] theorem State.setLine_pending (s : State) (n : Nat) (b : Bool) : (s.setLine n b).pending = s.pending := by unfold State.setLine; split <;> rfl
@[simp] theorem State.setLine_sent (s : State) (n : Nat) (b : Bool) : (s.setLine n b).sent = s.sent := by unfold State.setLine; split <;> rfl
@[simp] theorem State.setLine_free (s : State) (n : Nat) (b : Bool) : (s.setLine n b).free = s.free := by unfold State.setLine; split <;> rfl
@[simp] theorem State.setLine_origin (s : State) (n : Nat) (b : Bool) : (s.setLine n b).origin = s.origin := by unfold State.setLine; split <;> rfl
@[simp] theorem State.setLine_injected (s : State) (n : Nat) (b : Bool) : (s.setLine n b).injected = s.injected := by unfold State.setLine; split <;> rfl
@[simp] theorem State.setLine_cmd (s : State) (n : Nat) (b : Bool) : (s.setLine n b).cmd = s.cmd := by unfold State.setLine; split <;> rfl
@[simp] theorem State.setLine_place (s : State) (n : Nat) (b : Bool) : (s.setLine n b).place = s.place := by unfold State.setLine; split <;> rfl
@[simp] theorem State.setLine_ingest (s : State) (n : Nat) (b : Bool) : (s.setLine n b).ingest = s.ingest := by unfold State.setLine; split <;> rfl
@[simp] theorem State.setLine_filter (s : State) (n : Nat) (b : Bool) : (s.setLine n b).filter = s.filter := by unfold State.setLine; split <;> rfl
@[simp] theorem State.setLine_prog (s : State) (n : Nat) (b : Bool) : (s.setLine n b).prog = s.prog := by unfold State.setLine; split <;> rfl
@[simp] theorem State.setLine_pub (s : State) (n : Nat) (b : Bool) : (s.setLine n b).pub = s.pub := by unfold State.setLine; split <;> rfl
@[simp] theorem State.setLine_cap (s : State) (n : Nat) (b : Bool) : (s.setLine n b).cap = s.cap := by unfold State.setLine; split <;> rfl
@[simp] theorem State.setLine_anvil (s : State) (n : Nat) (b : Bool) : (s.setLine n b).anvil = s.anvil := by unfold State.setLine; split <;> rfl
@[simp] theorem State.setLine_pair (s : State) (n : Nat) (b : Bool) : (s.setLine n b).pair = s.pair := by unfold State.setLine; split <;> rfl
@[simp] theorem State.setLine_horizon (s : State) (n : Nat) (b : Bool) : (s.setLine n b).horizon = s.horizon := by unfold State.setLine; split <;> rfl
@[simp] theorem State.setLine_power (s : State) (n : Nat) (b : Bool) : (s.setLine n b).power = s.power := by unfold State.setLine; split <;> rfl
@[simp] theorem State.setLine_clocks (s : State) (n : Nat) (b : Bool) : (s.setLine n b).clocks = s.clocks := by unfold State.setLine; split <;> rfl
@[simp] theorem State.setLine_serial (s : State) (n : Nat) (b : Bool) : (s.setLine n b).serial = s.serial := by unfold State.setLine; split <;> rfl
@[simp] theorem State.setLine_host (s : State) (n : Nat) (b : Bool) : (s.setLine n b).host = s.host := by unfold State.setLine; split <;> rfl
@[simp] theorem State.setLine_recorder (s : State) (n : Nat) (b : Bool) : (s.setLine n b).recorder = s.recorder := by unfold State.setLine; split <;> rfl
@[simp] theorem State.setLine_boot (s : State) (n : Nat) (b : Bool) : (s.setLine n b).boot = s.boot := by unfold State.setLine; split <;> rfl
@[simp] theorem State.setLine_stratus (s : State) (n : Nat) (b : Bool) : (s.setLine n b).stratus = s.stratus := by unfold State.setLine; split <;> rfl
@[simp] theorem State.setLine_keys (s : State) (n : Nat) (b : Bool) : (s.setLine n b).keys = s.keys := by unfold State.setLine; split <;> rfl
@[simp] theorem State.setLine_tap (s : State) (n : Nat) (b : Bool) : (s.setLine n b).tap = s.tap := by unfold State.setLine; split <;> rfl
@[simp] theorem State.setLine_sw (s : State) (n : Nat) (b : Bool) : (s.setLine n b).sw = s.sw := by unfold State.setLine; split <;> rfl
@[simp] theorem State.setLine_ports (s : State) (n : Nat) (b : Bool) : (s.setLine n b).ports = s.ports := by unfold State.setLine; split <;> rfl
@[simp] theorem State.setLine_i2c (s : State) (n : Nat) (b : Bool) : (s.setLine n b).i2c = s.i2c := by unfold State.setLine; split <;> rfl

/-! `bump` changes `recorder` only. -/

@[simp] theorem State.bump_pending (s : State) (id : Nat) : (s.bump id).pending = s.pending := rfl
@[simp] theorem State.bump_sent (s : State) (id : Nat) : (s.bump id).sent = s.sent := rfl
@[simp] theorem State.bump_free (s : State) (id : Nat) : (s.bump id).free = s.free := rfl
@[simp] theorem State.bump_origin (s : State) (id : Nat) : (s.bump id).origin = s.origin := rfl
@[simp] theorem State.bump_injected (s : State) (id : Nat) : (s.bump id).injected = s.injected := rfl
@[simp] theorem State.bump_cmd (s : State) (id : Nat) : (s.bump id).cmd = s.cmd := rfl
@[simp] theorem State.bump_place (s : State) (id : Nat) : (s.bump id).place = s.place := rfl
@[simp] theorem State.bump_ingest (s : State) (id : Nat) : (s.bump id).ingest = s.ingest := rfl
@[simp] theorem State.bump_filter (s : State) (id : Nat) : (s.bump id).filter = s.filter := rfl
@[simp] theorem State.bump_prog (s : State) (id : Nat) : (s.bump id).prog = s.prog := rfl
@[simp] theorem State.bump_pub (s : State) (id : Nat) : (s.bump id).pub = s.pub := rfl
@[simp] theorem State.bump_cap (s : State) (id : Nat) : (s.bump id).cap = s.cap := rfl
@[simp] theorem State.bump_anvil (s : State) (id : Nat) : (s.bump id).anvil = s.anvil := rfl
@[simp] theorem State.bump_pair (s : State) (id : Nat) : (s.bump id).pair = s.pair := rfl
@[simp] theorem State.bump_horizon (s : State) (id : Nat) : (s.bump id).horizon = s.horizon := rfl
@[simp] theorem State.bump_power (s : State) (id : Nat) : (s.bump id).power = s.power := rfl
@[simp] theorem State.bump_clocks (s : State) (id : Nat) : (s.bump id).clocks = s.clocks := rfl
@[simp] theorem State.bump_serial (s : State) (id : Nat) : (s.bump id).serial = s.serial := rfl
@[simp] theorem State.bump_host (s : State) (id : Nat) : (s.bump id).host = s.host := rfl
@[simp] theorem State.bump_icu (s : State) (id : Nat) : (s.bump id).icu = s.icu := rfl
@[simp] theorem State.bump_boot (s : State) (id : Nat) : (s.bump id).boot = s.boot := rfl
@[simp] theorem State.bump_stratus (s : State) (id : Nat) : (s.bump id).stratus = s.stratus := rfl
@[simp] theorem State.bump_keys (s : State) (id : Nat) : (s.bump id).keys = s.keys := rfl
@[simp] theorem State.bump_tap (s : State) (id : Nat) : (s.bump id).tap = s.tap := rfl
@[simp] theorem State.bump_sw (s : State) (id : Nat) : (s.bump id).sw = s.sw := rfl
@[simp] theorem State.bump_ports (s : State) (id : Nat) : (s.bump id).ports = s.ports := rfl
@[simp] theorem State.bump_i2c (s : State) (id : Nat) : (s.bump id).i2c = s.i2c := rfl

/-! `postEvent` changes `recorder` only. -/

@[simp] theorem State.postEvent_pending (s : State) (e : Event) : (s.postEvent e).pending = s.pending := by unfold State.postEvent; split <;> rfl
@[simp] theorem State.postEvent_sent (s : State) (e : Event) : (s.postEvent e).sent = s.sent := by unfold State.postEvent; split <;> rfl
@[simp] theorem State.postEvent_free (s : State) (e : Event) : (s.postEvent e).free = s.free := by unfold State.postEvent; split <;> rfl
@[simp] theorem State.postEvent_origin (s : State) (e : Event) : (s.postEvent e).origin = s.origin := by unfold State.postEvent; split <;> rfl
@[simp] theorem State.postEvent_injected (s : State) (e : Event) : (s.postEvent e).injected = s.injected := by unfold State.postEvent; split <;> rfl
@[simp] theorem State.postEvent_cmd (s : State) (e : Event) : (s.postEvent e).cmd = s.cmd := by unfold State.postEvent; split <;> rfl
@[simp] theorem State.postEvent_place (s : State) (e : Event) : (s.postEvent e).place = s.place := by unfold State.postEvent; split <;> rfl
@[simp] theorem State.postEvent_ingest (s : State) (e : Event) : (s.postEvent e).ingest = s.ingest := by unfold State.postEvent; split <;> rfl
@[simp] theorem State.postEvent_filter (s : State) (e : Event) : (s.postEvent e).filter = s.filter := by unfold State.postEvent; split <;> rfl
@[simp] theorem State.postEvent_prog (s : State) (e : Event) : (s.postEvent e).prog = s.prog := by unfold State.postEvent; split <;> rfl
@[simp] theorem State.postEvent_pub (s : State) (e : Event) : (s.postEvent e).pub = s.pub := by unfold State.postEvent; split <;> rfl
@[simp] theorem State.postEvent_cap (s : State) (e : Event) : (s.postEvent e).cap = s.cap := by unfold State.postEvent; split <;> rfl
@[simp] theorem State.postEvent_anvil (s : State) (e : Event) : (s.postEvent e).anvil = s.anvil := by unfold State.postEvent; split <;> rfl
@[simp] theorem State.postEvent_pair (s : State) (e : Event) : (s.postEvent e).pair = s.pair := by unfold State.postEvent; split <;> rfl
@[simp] theorem State.postEvent_horizon (s : State) (e : Event) : (s.postEvent e).horizon = s.horizon := by unfold State.postEvent; split <;> rfl
@[simp] theorem State.postEvent_power (s : State) (e : Event) : (s.postEvent e).power = s.power := by unfold State.postEvent; split <;> rfl
@[simp] theorem State.postEvent_clocks (s : State) (e : Event) : (s.postEvent e).clocks = s.clocks := by unfold State.postEvent; split <;> rfl
@[simp] theorem State.postEvent_serial (s : State) (e : Event) : (s.postEvent e).serial = s.serial := by unfold State.postEvent; split <;> rfl
@[simp] theorem State.postEvent_host (s : State) (e : Event) : (s.postEvent e).host = s.host := by unfold State.postEvent; split <;> rfl
@[simp] theorem State.postEvent_icu (s : State) (e : Event) : (s.postEvent e).icu = s.icu := by unfold State.postEvent; split <;> rfl
@[simp] theorem State.postEvent_boot (s : State) (e : Event) : (s.postEvent e).boot = s.boot := by unfold State.postEvent; split <;> rfl
@[simp] theorem State.postEvent_stratus (s : State) (e : Event) : (s.postEvent e).stratus = s.stratus := by unfold State.postEvent; split <;> rfl
@[simp] theorem State.postEvent_keys (s : State) (e : Event) : (s.postEvent e).keys = s.keys := by unfold State.postEvent; split <;> rfl
@[simp] theorem State.postEvent_tap (s : State) (e : Event) : (s.postEvent e).tap = s.tap := by unfold State.postEvent; split <;> rfl
@[simp] theorem State.postEvent_sw (s : State) (e : Event) : (s.postEvent e).sw = s.sw := by unfold State.postEvent; split <;> rfl
@[simp] theorem State.postEvent_ports (s : State) (e : Event) : (s.postEvent e).ports = s.ports := by unfold State.postEvent; split <;> rfl
@[simp] theorem State.postEvent_i2c (s : State) (e : Event) : (s.postEvent e).i2c = s.i2c := by unfold State.postEvent; split <;> rfl

/-! `post` changes `recorder` only. -/

@[simp] theorem State.post_pending (s : State) (code : Nat) (data : Bytes) : (s.post code data).pending = s.pending := State.postEvent_pending ..
@[simp] theorem State.post_sent (s : State) (code : Nat) (data : Bytes) : (s.post code data).sent = s.sent := State.postEvent_sent ..
@[simp] theorem State.post_free (s : State) (code : Nat) (data : Bytes) : (s.post code data).free = s.free := State.postEvent_free ..
@[simp] theorem State.post_origin (s : State) (code : Nat) (data : Bytes) : (s.post code data).origin = s.origin := State.postEvent_origin ..
@[simp] theorem State.post_injected (s : State) (code : Nat) (data : Bytes) : (s.post code data).injected = s.injected := State.postEvent_injected ..
@[simp] theorem State.post_cmd (s : State) (code : Nat) (data : Bytes) : (s.post code data).cmd = s.cmd := State.postEvent_cmd ..
@[simp] theorem State.post_place (s : State) (code : Nat) (data : Bytes) : (s.post code data).place = s.place := State.postEvent_place ..
@[simp] theorem State.post_ingest (s : State) (code : Nat) (data : Bytes) : (s.post code data).ingest = s.ingest := State.postEvent_ingest ..
@[simp] theorem State.post_filter (s : State) (code : Nat) (data : Bytes) : (s.post code data).filter = s.filter := State.postEvent_filter ..
@[simp] theorem State.post_prog (s : State) (code : Nat) (data : Bytes) : (s.post code data).prog = s.prog := State.postEvent_prog ..
@[simp] theorem State.post_pub (s : State) (code : Nat) (data : Bytes) : (s.post code data).pub = s.pub := State.postEvent_pub ..
@[simp] theorem State.post_cap (s : State) (code : Nat) (data : Bytes) : (s.post code data).cap = s.cap := State.postEvent_cap ..
@[simp] theorem State.post_anvil (s : State) (code : Nat) (data : Bytes) : (s.post code data).anvil = s.anvil := State.postEvent_anvil ..
@[simp] theorem State.post_pair (s : State) (code : Nat) (data : Bytes) : (s.post code data).pair = s.pair := State.postEvent_pair ..
@[simp] theorem State.post_horizon (s : State) (code : Nat) (data : Bytes) : (s.post code data).horizon = s.horizon := State.postEvent_horizon ..
@[simp] theorem State.post_power (s : State) (code : Nat) (data : Bytes) : (s.post code data).power = s.power := State.postEvent_power ..
@[simp] theorem State.post_clocks (s : State) (code : Nat) (data : Bytes) : (s.post code data).clocks = s.clocks := State.postEvent_clocks ..
@[simp] theorem State.post_serial (s : State) (code : Nat) (data : Bytes) : (s.post code data).serial = s.serial := State.postEvent_serial ..
@[simp] theorem State.post_host (s : State) (code : Nat) (data : Bytes) : (s.post code data).host = s.host := State.postEvent_host ..
@[simp] theorem State.post_icu (s : State) (code : Nat) (data : Bytes) : (s.post code data).icu = s.icu := State.postEvent_icu ..
@[simp] theorem State.post_boot (s : State) (code : Nat) (data : Bytes) : (s.post code data).boot = s.boot := State.postEvent_boot ..
@[simp] theorem State.post_stratus (s : State) (code : Nat) (data : Bytes) : (s.post code data).stratus = s.stratus := State.postEvent_stratus ..
@[simp] theorem State.post_keys (s : State) (code : Nat) (data : Bytes) : (s.post code data).keys = s.keys := State.postEvent_keys ..
@[simp] theorem State.post_tap (s : State) (code : Nat) (data : Bytes) : (s.post code data).tap = s.tap := State.postEvent_tap ..
@[simp] theorem State.post_sw (s : State) (code : Nat) (data : Bytes) : (s.post code data).sw = s.sw := State.postEvent_sw ..
@[simp] theorem State.post_ports (s : State) (code : Nat) (data : Bytes) : (s.post code data).ports = s.ports := State.postEvent_ports ..
@[simp] theorem State.post_i2c (s : State) (code : Nat) (data : Bytes) : (s.post code data).i2c = s.i2c := State.postEvent_i2c ..

/-! `setChan` changes `cmd` only. -/

@[simp] theorem State.setChan_pending (s : State) (n : Nat) (c : Channel) : (s.setChan n c).pending = s.pending := rfl
@[simp] theorem State.setChan_sent (s : State) (n : Nat) (c : Channel) : (s.setChan n c).sent = s.sent := rfl
@[simp] theorem State.setChan_free (s : State) (n : Nat) (c : Channel) : (s.setChan n c).free = s.free := rfl
@[simp] theorem State.setChan_origin (s : State) (n : Nat) (c : Channel) : (s.setChan n c).origin = s.origin := rfl
@[simp] theorem State.setChan_injected (s : State) (n : Nat) (c : Channel) : (s.setChan n c).injected = s.injected := rfl
@[simp] theorem State.setChan_place (s : State) (n : Nat) (c : Channel) : (s.setChan n c).place = s.place := rfl
@[simp] theorem State.setChan_ingest (s : State) (n : Nat) (c : Channel) : (s.setChan n c).ingest = s.ingest := rfl
@[simp] theorem State.setChan_filter (s : State) (n : Nat) (c : Channel) : (s.setChan n c).filter = s.filter := rfl
@[simp] theorem State.setChan_prog (s : State) (n : Nat) (c : Channel) : (s.setChan n c).prog = s.prog := rfl
@[simp] theorem State.setChan_pub (s : State) (n : Nat) (c : Channel) : (s.setChan n c).pub = s.pub := rfl
@[simp] theorem State.setChan_cap (s : State) (n : Nat) (c : Channel) : (s.setChan n c).cap = s.cap := rfl
@[simp] theorem State.setChan_anvil (s : State) (n : Nat) (c : Channel) : (s.setChan n c).anvil = s.anvil := rfl
@[simp] theorem State.setChan_pair (s : State) (n : Nat) (c : Channel) : (s.setChan n c).pair = s.pair := rfl
@[simp] theorem State.setChan_horizon (s : State) (n : Nat) (c : Channel) : (s.setChan n c).horizon = s.horizon := rfl
@[simp] theorem State.setChan_power (s : State) (n : Nat) (c : Channel) : (s.setChan n c).power = s.power := rfl
@[simp] theorem State.setChan_clocks (s : State) (n : Nat) (c : Channel) : (s.setChan n c).clocks = s.clocks := rfl
@[simp] theorem State.setChan_serial (s : State) (n : Nat) (c : Channel) : (s.setChan n c).serial = s.serial := rfl
@[simp] theorem State.setChan_host (s : State) (n : Nat) (c : Channel) : (s.setChan n c).host = s.host := rfl
@[simp] theorem State.setChan_icu (s : State) (n : Nat) (c : Channel) : (s.setChan n c).icu = s.icu := rfl
@[simp] theorem State.setChan_recorder (s : State) (n : Nat) (c : Channel) : (s.setChan n c).recorder = s.recorder := rfl
@[simp] theorem State.setChan_boot (s : State) (n : Nat) (c : Channel) : (s.setChan n c).boot = s.boot := rfl
@[simp] theorem State.setChan_stratus (s : State) (n : Nat) (c : Channel) : (s.setChan n c).stratus = s.stratus := rfl
@[simp] theorem State.setChan_keys (s : State) (n : Nat) (c : Channel) : (s.setChan n c).keys = s.keys := rfl
@[simp] theorem State.setChan_tap (s : State) (n : Nat) (c : Channel) : (s.setChan n c).tap = s.tap := rfl
@[simp] theorem State.setChan_sw (s : State) (n : Nat) (c : Channel) : (s.setChan n c).sw = s.sw := rfl
@[simp] theorem State.setChan_ports (s : State) (n : Nat) (c : Channel) : (s.setChan n c).ports = s.ports := rfl
@[simp] theorem State.setChan_i2c (s : State) (n : Nat) (c : Channel) : (s.setChan n c).i2c = s.i2c := rfl

/-! `accept` changes `cmd` only. -/

@[simp] theorem State.accept_pending (s : State) (c : Cmd) (w : Wait) (b : Bool) (r : Option (Nat × Nat × Bytes)) : (s.accept c w b r).pending = s.pending := rfl
@[simp] theorem State.accept_sent (s : State) (c : Cmd) (w : Wait) (b : Bool) (r : Option (Nat × Nat × Bytes)) : (s.accept c w b r).sent = s.sent := rfl
@[simp] theorem State.accept_free (s : State) (c : Cmd) (w : Wait) (b : Bool) (r : Option (Nat × Nat × Bytes)) : (s.accept c w b r).free = s.free := rfl
@[simp] theorem State.accept_origin (s : State) (c : Cmd) (w : Wait) (b : Bool) (r : Option (Nat × Nat × Bytes)) : (s.accept c w b r).origin = s.origin := rfl
@[simp] theorem State.accept_injected (s : State) (c : Cmd) (w : Wait) (b : Bool) (r : Option (Nat × Nat × Bytes)) : (s.accept c w b r).injected = s.injected := rfl
@[simp] theorem State.accept_place (s : State) (c : Cmd) (w : Wait) (b : Bool) (r : Option (Nat × Nat × Bytes)) : (s.accept c w b r).place = s.place := rfl
@[simp] theorem State.accept_ingest (s : State) (c : Cmd) (w : Wait) (b : Bool) (r : Option (Nat × Nat × Bytes)) : (s.accept c w b r).ingest = s.ingest := rfl
@[simp] theorem State.accept_filter (s : State) (c : Cmd) (w : Wait) (b : Bool) (r : Option (Nat × Nat × Bytes)) : (s.accept c w b r).filter = s.filter := rfl
@[simp] theorem State.accept_prog (s : State) (c : Cmd) (w : Wait) (b : Bool) (r : Option (Nat × Nat × Bytes)) : (s.accept c w b r).prog = s.prog := rfl
@[simp] theorem State.accept_pub (s : State) (c : Cmd) (w : Wait) (b : Bool) (r : Option (Nat × Nat × Bytes)) : (s.accept c w b r).pub = s.pub := rfl
@[simp] theorem State.accept_cap (s : State) (c : Cmd) (w : Wait) (b : Bool) (r : Option (Nat × Nat × Bytes)) : (s.accept c w b r).cap = s.cap := rfl
@[simp] theorem State.accept_anvil (s : State) (c : Cmd) (w : Wait) (b : Bool) (r : Option (Nat × Nat × Bytes)) : (s.accept c w b r).anvil = s.anvil := rfl
@[simp] theorem State.accept_pair (s : State) (c : Cmd) (w : Wait) (b : Bool) (r : Option (Nat × Nat × Bytes)) : (s.accept c w b r).pair = s.pair := rfl
@[simp] theorem State.accept_horizon (s : State) (c : Cmd) (w : Wait) (b : Bool) (r : Option (Nat × Nat × Bytes)) : (s.accept c w b r).horizon = s.horizon := rfl
@[simp] theorem State.accept_power (s : State) (c : Cmd) (w : Wait) (b : Bool) (r : Option (Nat × Nat × Bytes)) : (s.accept c w b r).power = s.power := rfl
@[simp] theorem State.accept_clocks (s : State) (c : Cmd) (w : Wait) (b : Bool) (r : Option (Nat × Nat × Bytes)) : (s.accept c w b r).clocks = s.clocks := rfl
@[simp] theorem State.accept_serial (s : State) (c : Cmd) (w : Wait) (b : Bool) (r : Option (Nat × Nat × Bytes)) : (s.accept c w b r).serial = s.serial := rfl
@[simp] theorem State.accept_host (s : State) (c : Cmd) (w : Wait) (b : Bool) (r : Option (Nat × Nat × Bytes)) : (s.accept c w b r).host = s.host := rfl
@[simp] theorem State.accept_icu (s : State) (c : Cmd) (w : Wait) (b : Bool) (r : Option (Nat × Nat × Bytes)) : (s.accept c w b r).icu = s.icu := rfl
@[simp] theorem State.accept_recorder (s : State) (c : Cmd) (w : Wait) (b : Bool) (r : Option (Nat × Nat × Bytes)) : (s.accept c w b r).recorder = s.recorder := rfl
@[simp] theorem State.accept_boot (s : State) (c : Cmd) (w : Wait) (b : Bool) (r : Option (Nat × Nat × Bytes)) : (s.accept c w b r).boot = s.boot := rfl
@[simp] theorem State.accept_stratus (s : State) (c : Cmd) (w : Wait) (b : Bool) (r : Option (Nat × Nat × Bytes)) : (s.accept c w b r).stratus = s.stratus := rfl
@[simp] theorem State.accept_keys (s : State) (c : Cmd) (w : Wait) (b : Bool) (r : Option (Nat × Nat × Bytes)) : (s.accept c w b r).keys = s.keys := rfl
@[simp] theorem State.accept_tap (s : State) (c : Cmd) (w : Wait) (b : Bool) (r : Option (Nat × Nat × Bytes)) : (s.accept c w b r).tap = s.tap := rfl
@[simp] theorem State.accept_sw (s : State) (c : Cmd) (w : Wait) (b : Bool) (r : Option (Nat × Nat × Bytes)) : (s.accept c w b r).sw = s.sw := rfl
@[simp] theorem State.accept_ports (s : State) (c : Cmd) (w : Wait) (b : Bool) (r : Option (Nat × Nat × Bytes)) : (s.accept c w b r).ports = s.ports := rfl
@[simp] theorem State.accept_i2c (s : State) (c : Cmd) (w : Wait) (b : Bool) (r : Option (Nat × Nat × Bytes)) : (s.accept c w b r).i2c = s.i2c := rfl

/-! `setHif` changes `host` only. -/

@[simp] theorem State.setHif_pending (s : State) (vi : Nat) (h : Hif) : (s.setHif vi h).pending = s.pending := rfl
@[simp] theorem State.setHif_sent (s : State) (vi : Nat) (h : Hif) : (s.setHif vi h).sent = s.sent := rfl
@[simp] theorem State.setHif_free (s : State) (vi : Nat) (h : Hif) : (s.setHif vi h).free = s.free := rfl
@[simp] theorem State.setHif_origin (s : State) (vi : Nat) (h : Hif) : (s.setHif vi h).origin = s.origin := rfl
@[simp] theorem State.setHif_injected (s : State) (vi : Nat) (h : Hif) : (s.setHif vi h).injected = s.injected := rfl
@[simp] theorem State.setHif_cmd (s : State) (vi : Nat) (h : Hif) : (s.setHif vi h).cmd = s.cmd := rfl
@[simp] theorem State.setHif_place (s : State) (vi : Nat) (h : Hif) : (s.setHif vi h).place = s.place := rfl
@[simp] theorem State.setHif_ingest (s : State) (vi : Nat) (h : Hif) : (s.setHif vi h).ingest = s.ingest := rfl
@[simp] theorem State.setHif_filter (s : State) (vi : Nat) (h : Hif) : (s.setHif vi h).filter = s.filter := rfl
@[simp] theorem State.setHif_prog (s : State) (vi : Nat) (h : Hif) : (s.setHif vi h).prog = s.prog := rfl
@[simp] theorem State.setHif_pub (s : State) (vi : Nat) (h : Hif) : (s.setHif vi h).pub = s.pub := rfl
@[simp] theorem State.setHif_cap (s : State) (vi : Nat) (h : Hif) : (s.setHif vi h).cap = s.cap := rfl
@[simp] theorem State.setHif_anvil (s : State) (vi : Nat) (h : Hif) : (s.setHif vi h).anvil = s.anvil := rfl
@[simp] theorem State.setHif_pair (s : State) (vi : Nat) (h : Hif) : (s.setHif vi h).pair = s.pair := rfl
@[simp] theorem State.setHif_horizon (s : State) (vi : Nat) (h : Hif) : (s.setHif vi h).horizon = s.horizon := rfl
@[simp] theorem State.setHif_power (s : State) (vi : Nat) (h : Hif) : (s.setHif vi h).power = s.power := rfl
@[simp] theorem State.setHif_clocks (s : State) (vi : Nat) (h : Hif) : (s.setHif vi h).clocks = s.clocks := rfl
@[simp] theorem State.setHif_serial (s : State) (vi : Nat) (h : Hif) : (s.setHif vi h).serial = s.serial := rfl
@[simp] theorem State.setHif_icu (s : State) (vi : Nat) (h : Hif) : (s.setHif vi h).icu = s.icu := rfl
@[simp] theorem State.setHif_recorder (s : State) (vi : Nat) (h : Hif) : (s.setHif vi h).recorder = s.recorder := rfl
@[simp] theorem State.setHif_boot (s : State) (vi : Nat) (h : Hif) : (s.setHif vi h).boot = s.boot := rfl
@[simp] theorem State.setHif_stratus (s : State) (vi : Nat) (h : Hif) : (s.setHif vi h).stratus = s.stratus := rfl
@[simp] theorem State.setHif_keys (s : State) (vi : Nat) (h : Hif) : (s.setHif vi h).keys = s.keys := rfl
@[simp] theorem State.setHif_tap (s : State) (vi : Nat) (h : Hif) : (s.setHif vi h).tap = s.tap := rfl
@[simp] theorem State.setHif_sw (s : State) (vi : Nat) (h : Hif) : (s.setHif vi h).sw = s.sw := rfl
@[simp] theorem State.setHif_ports (s : State) (vi : Nat) (h : Hif) : (s.setHif vi h).ports = s.ports := rfl
@[simp] theorem State.setHif_i2c (s : State) (vi : Nat) (h : Hif) : (s.setHif vi h).i2c = s.i2c := rfl

/-! `setInst` changes `place` only. -/

@[simp] theorem State.setInst_pending (s : State) (fi : Nat) (x : Inst) : (s.setInst fi x).pending = s.pending := rfl
@[simp] theorem State.setInst_sent (s : State) (fi : Nat) (x : Inst) : (s.setInst fi x).sent = s.sent := rfl
@[simp] theorem State.setInst_free (s : State) (fi : Nat) (x : Inst) : (s.setInst fi x).free = s.free := rfl
@[simp] theorem State.setInst_origin (s : State) (fi : Nat) (x : Inst) : (s.setInst fi x).origin = s.origin := rfl
@[simp] theorem State.setInst_injected (s : State) (fi : Nat) (x : Inst) : (s.setInst fi x).injected = s.injected := rfl
@[simp] theorem State.setInst_cmd (s : State) (fi : Nat) (x : Inst) : (s.setInst fi x).cmd = s.cmd := rfl
@[simp] theorem State.setInst_ingest (s : State) (fi : Nat) (x : Inst) : (s.setInst fi x).ingest = s.ingest := rfl
@[simp] theorem State.setInst_filter (s : State) (fi : Nat) (x : Inst) : (s.setInst fi x).filter = s.filter := rfl
@[simp] theorem State.setInst_prog (s : State) (fi : Nat) (x : Inst) : (s.setInst fi x).prog = s.prog := rfl
@[simp] theorem State.setInst_pub (s : State) (fi : Nat) (x : Inst) : (s.setInst fi x).pub = s.pub := rfl
@[simp] theorem State.setInst_cap (s : State) (fi : Nat) (x : Inst) : (s.setInst fi x).cap = s.cap := rfl
@[simp] theorem State.setInst_anvil (s : State) (fi : Nat) (x : Inst) : (s.setInst fi x).anvil = s.anvil := rfl
@[simp] theorem State.setInst_pair (s : State) (fi : Nat) (x : Inst) : (s.setInst fi x).pair = s.pair := rfl
@[simp] theorem State.setInst_horizon (s : State) (fi : Nat) (x : Inst) : (s.setInst fi x).horizon = s.horizon := rfl
@[simp] theorem State.setInst_power (s : State) (fi : Nat) (x : Inst) : (s.setInst fi x).power = s.power := rfl
@[simp] theorem State.setInst_clocks (s : State) (fi : Nat) (x : Inst) : (s.setInst fi x).clocks = s.clocks := rfl
@[simp] theorem State.setInst_serial (s : State) (fi : Nat) (x : Inst) : (s.setInst fi x).serial = s.serial := rfl
@[simp] theorem State.setInst_host (s : State) (fi : Nat) (x : Inst) : (s.setInst fi x).host = s.host := rfl
@[simp] theorem State.setInst_icu (s : State) (fi : Nat) (x : Inst) : (s.setInst fi x).icu = s.icu := rfl
@[simp] theorem State.setInst_recorder (s : State) (fi : Nat) (x : Inst) : (s.setInst fi x).recorder = s.recorder := rfl
@[simp] theorem State.setInst_boot (s : State) (fi : Nat) (x : Inst) : (s.setInst fi x).boot = s.boot := rfl
@[simp] theorem State.setInst_stratus (s : State) (fi : Nat) (x : Inst) : (s.setInst fi x).stratus = s.stratus := rfl
@[simp] theorem State.setInst_keys (s : State) (fi : Nat) (x : Inst) : (s.setInst fi x).keys = s.keys := rfl
@[simp] theorem State.setInst_tap (s : State) (fi : Nat) (x : Inst) : (s.setInst fi x).tap = s.tap := rfl
@[simp] theorem State.setInst_sw (s : State) (fi : Nat) (x : Inst) : (s.setInst fi x).sw = s.sw := rfl
@[simp] theorem State.setInst_ports (s : State) (fi : Nat) (x : Inst) : (s.setInst fi x).ports = s.ports := rfl
@[simp] theorem State.setInst_i2c (s : State) (fi : Nat) (x : Inst) : (s.setInst fi x).i2c = s.i2c := rfl

/-! `setEng` changes `place` only. -/

@[simp] theorem State.setEng_pending (s : State) (e : Eng) (g : Engine) : (s.setEng e g).pending = s.pending := by unfold State.setEng; split <;> rfl
@[simp] theorem State.setEng_sent (s : State) (e : Eng) (g : Engine) : (s.setEng e g).sent = s.sent := by unfold State.setEng; split <;> rfl
@[simp] theorem State.setEng_free (s : State) (e : Eng) (g : Engine) : (s.setEng e g).free = s.free := by unfold State.setEng; split <;> rfl
@[simp] theorem State.setEng_origin (s : State) (e : Eng) (g : Engine) : (s.setEng e g).origin = s.origin := by unfold State.setEng; split <;> rfl
@[simp] theorem State.setEng_injected (s : State) (e : Eng) (g : Engine) : (s.setEng e g).injected = s.injected := by unfold State.setEng; split <;> rfl
@[simp] theorem State.setEng_cmd (s : State) (e : Eng) (g : Engine) : (s.setEng e g).cmd = s.cmd := by unfold State.setEng; split <;> rfl
@[simp] theorem State.setEng_ingest (s : State) (e : Eng) (g : Engine) : (s.setEng e g).ingest = s.ingest := by unfold State.setEng; split <;> rfl
@[simp] theorem State.setEng_filter (s : State) (e : Eng) (g : Engine) : (s.setEng e g).filter = s.filter := by unfold State.setEng; split <;> rfl
@[simp] theorem State.setEng_prog (s : State) (e : Eng) (g : Engine) : (s.setEng e g).prog = s.prog := by unfold State.setEng; split <;> rfl
@[simp] theorem State.setEng_pub (s : State) (e : Eng) (g : Engine) : (s.setEng e g).pub = s.pub := by unfold State.setEng; split <;> rfl
@[simp] theorem State.setEng_cap (s : State) (e : Eng) (g : Engine) : (s.setEng e g).cap = s.cap := by unfold State.setEng; split <;> rfl
@[simp] theorem State.setEng_anvil (s : State) (e : Eng) (g : Engine) : (s.setEng e g).anvil = s.anvil := by unfold State.setEng; split <;> rfl
@[simp] theorem State.setEng_pair (s : State) (e : Eng) (g : Engine) : (s.setEng e g).pair = s.pair := by unfold State.setEng; split <;> rfl
@[simp] theorem State.setEng_horizon (s : State) (e : Eng) (g : Engine) : (s.setEng e g).horizon = s.horizon := by unfold State.setEng; split <;> rfl
@[simp] theorem State.setEng_power (s : State) (e : Eng) (g : Engine) : (s.setEng e g).power = s.power := by unfold State.setEng; split <;> rfl
@[simp] theorem State.setEng_clocks (s : State) (e : Eng) (g : Engine) : (s.setEng e g).clocks = s.clocks := by unfold State.setEng; split <;> rfl
@[simp] theorem State.setEng_serial (s : State) (e : Eng) (g : Engine) : (s.setEng e g).serial = s.serial := by unfold State.setEng; split <;> rfl
@[simp] theorem State.setEng_host (s : State) (e : Eng) (g : Engine) : (s.setEng e g).host = s.host := by unfold State.setEng; split <;> rfl
@[simp] theorem State.setEng_icu (s : State) (e : Eng) (g : Engine) : (s.setEng e g).icu = s.icu := by unfold State.setEng; split <;> rfl
@[simp] theorem State.setEng_recorder (s : State) (e : Eng) (g : Engine) : (s.setEng e g).recorder = s.recorder := by unfold State.setEng; split <;> rfl
@[simp] theorem State.setEng_boot (s : State) (e : Eng) (g : Engine) : (s.setEng e g).boot = s.boot := by unfold State.setEng; split <;> rfl
@[simp] theorem State.setEng_stratus (s : State) (e : Eng) (g : Engine) : (s.setEng e g).stratus = s.stratus := by unfold State.setEng; split <;> rfl
@[simp] theorem State.setEng_keys (s : State) (e : Eng) (g : Engine) : (s.setEng e g).keys = s.keys := by unfold State.setEng; split <;> rfl
@[simp] theorem State.setEng_tap (s : State) (e : Eng) (g : Engine) : (s.setEng e g).tap = s.tap := by unfold State.setEng; split <;> rfl
@[simp] theorem State.setEng_sw (s : State) (e : Eng) (g : Engine) : (s.setEng e g).sw = s.sw := by unfold State.setEng; split <;> rfl
@[simp] theorem State.setEng_ports (s : State) (e : Eng) (g : Engine) : (s.setEng e g).ports = s.ports := by unfold State.setEng; split <;> rfl
@[simp] theorem State.setEng_i2c (s : State) (e : Eng) (g : Engine) : (s.setEng e g).i2c = s.i2c := by unfold State.setEng; split <;> rfl

/-! `modEng` changes `place` only. -/

@[simp] theorem State.modEng_pending (s : State) (e : Eng) (f : Engine → Engine) : (s.modEng e f).pending = s.pending := State.setEng_pending ..
@[simp] theorem State.modEng_sent (s : State) (e : Eng) (f : Engine → Engine) : (s.modEng e f).sent = s.sent := State.setEng_sent ..
@[simp] theorem State.modEng_free (s : State) (e : Eng) (f : Engine → Engine) : (s.modEng e f).free = s.free := State.setEng_free ..
@[simp] theorem State.modEng_origin (s : State) (e : Eng) (f : Engine → Engine) : (s.modEng e f).origin = s.origin := State.setEng_origin ..
@[simp] theorem State.modEng_injected (s : State) (e : Eng) (f : Engine → Engine) : (s.modEng e f).injected = s.injected := State.setEng_injected ..
@[simp] theorem State.modEng_cmd (s : State) (e : Eng) (f : Engine → Engine) : (s.modEng e f).cmd = s.cmd := State.setEng_cmd ..
@[simp] theorem State.modEng_ingest (s : State) (e : Eng) (f : Engine → Engine) : (s.modEng e f).ingest = s.ingest := State.setEng_ingest ..
@[simp] theorem State.modEng_filter (s : State) (e : Eng) (f : Engine → Engine) : (s.modEng e f).filter = s.filter := State.setEng_filter ..
@[simp] theorem State.modEng_prog (s : State) (e : Eng) (f : Engine → Engine) : (s.modEng e f).prog = s.prog := State.setEng_prog ..
@[simp] theorem State.modEng_pub (s : State) (e : Eng) (f : Engine → Engine) : (s.modEng e f).pub = s.pub := State.setEng_pub ..
@[simp] theorem State.modEng_cap (s : State) (e : Eng) (f : Engine → Engine) : (s.modEng e f).cap = s.cap := State.setEng_cap ..
@[simp] theorem State.modEng_anvil (s : State) (e : Eng) (f : Engine → Engine) : (s.modEng e f).anvil = s.anvil := State.setEng_anvil ..
@[simp] theorem State.modEng_pair (s : State) (e : Eng) (f : Engine → Engine) : (s.modEng e f).pair = s.pair := State.setEng_pair ..
@[simp] theorem State.modEng_horizon (s : State) (e : Eng) (f : Engine → Engine) : (s.modEng e f).horizon = s.horizon := State.setEng_horizon ..
@[simp] theorem State.modEng_power (s : State) (e : Eng) (f : Engine → Engine) : (s.modEng e f).power = s.power := State.setEng_power ..
@[simp] theorem State.modEng_clocks (s : State) (e : Eng) (f : Engine → Engine) : (s.modEng e f).clocks = s.clocks := State.setEng_clocks ..
@[simp] theorem State.modEng_serial (s : State) (e : Eng) (f : Engine → Engine) : (s.modEng e f).serial = s.serial := State.setEng_serial ..
@[simp] theorem State.modEng_host (s : State) (e : Eng) (f : Engine → Engine) : (s.modEng e f).host = s.host := State.setEng_host ..
@[simp] theorem State.modEng_icu (s : State) (e : Eng) (f : Engine → Engine) : (s.modEng e f).icu = s.icu := State.setEng_icu ..
@[simp] theorem State.modEng_recorder (s : State) (e : Eng) (f : Engine → Engine) : (s.modEng e f).recorder = s.recorder := State.setEng_recorder ..
@[simp] theorem State.modEng_boot (s : State) (e : Eng) (f : Engine → Engine) : (s.modEng e f).boot = s.boot := State.setEng_boot ..
@[simp] theorem State.modEng_stratus (s : State) (e : Eng) (f : Engine → Engine) : (s.modEng e f).stratus = s.stratus := State.setEng_stratus ..
@[simp] theorem State.modEng_keys (s : State) (e : Eng) (f : Engine → Engine) : (s.modEng e f).keys = s.keys := State.setEng_keys ..
@[simp] theorem State.modEng_tap (s : State) (e : Eng) (f : Engine → Engine) : (s.modEng e f).tap = s.tap := State.setEng_tap ..
@[simp] theorem State.modEng_sw (s : State) (e : Eng) (f : Engine → Engine) : (s.modEng e f).sw = s.sw := State.setEng_sw ..
@[simp] theorem State.modEng_ports (s : State) (e : Eng) (f : Engine → Engine) : (s.modEng e f).ports = s.ports := State.setEng_ports ..
@[simp] theorem State.modEng_i2c (s : State) (e : Eng) (f : Engine → Engine) : (s.modEng e f).i2c = s.i2c := State.setEng_i2c ..

/-! `setStream` changes `ingest` only. -/

@[simp] theorem State.setStream_pending (s : State) (n : Nat) (x : Stream) : (s.setStream n x).pending = s.pending := rfl
@[simp] theorem State.setStream_sent (s : State) (n : Nat) (x : Stream) : (s.setStream n x).sent = s.sent := rfl
@[simp] theorem State.setStream_free (s : State) (n : Nat) (x : Stream) : (s.setStream n x).free = s.free := rfl
@[simp] theorem State.setStream_origin (s : State) (n : Nat) (x : Stream) : (s.setStream n x).origin = s.origin := rfl
@[simp] theorem State.setStream_injected (s : State) (n : Nat) (x : Stream) : (s.setStream n x).injected = s.injected := rfl
@[simp] theorem State.setStream_cmd (s : State) (n : Nat) (x : Stream) : (s.setStream n x).cmd = s.cmd := rfl
@[simp] theorem State.setStream_place (s : State) (n : Nat) (x : Stream) : (s.setStream n x).place = s.place := rfl
@[simp] theorem State.setStream_filter (s : State) (n : Nat) (x : Stream) : (s.setStream n x).filter = s.filter := rfl
@[simp] theorem State.setStream_prog (s : State) (n : Nat) (x : Stream) : (s.setStream n x).prog = s.prog := rfl
@[simp] theorem State.setStream_pub (s : State) (n : Nat) (x : Stream) : (s.setStream n x).pub = s.pub := rfl
@[simp] theorem State.setStream_cap (s : State) (n : Nat) (x : Stream) : (s.setStream n x).cap = s.cap := rfl
@[simp] theorem State.setStream_anvil (s : State) (n : Nat) (x : Stream) : (s.setStream n x).anvil = s.anvil := rfl
@[simp] theorem State.setStream_pair (s : State) (n : Nat) (x : Stream) : (s.setStream n x).pair = s.pair := rfl
@[simp] theorem State.setStream_horizon (s : State) (n : Nat) (x : Stream) : (s.setStream n x).horizon = s.horizon := rfl
@[simp] theorem State.setStream_power (s : State) (n : Nat) (x : Stream) : (s.setStream n x).power = s.power := rfl
@[simp] theorem State.setStream_clocks (s : State) (n : Nat) (x : Stream) : (s.setStream n x).clocks = s.clocks := rfl
@[simp] theorem State.setStream_serial (s : State) (n : Nat) (x : Stream) : (s.setStream n x).serial = s.serial := rfl
@[simp] theorem State.setStream_host (s : State) (n : Nat) (x : Stream) : (s.setStream n x).host = s.host := rfl
@[simp] theorem State.setStream_icu (s : State) (n : Nat) (x : Stream) : (s.setStream n x).icu = s.icu := rfl
@[simp] theorem State.setStream_recorder (s : State) (n : Nat) (x : Stream) : (s.setStream n x).recorder = s.recorder := rfl
@[simp] theorem State.setStream_boot (s : State) (n : Nat) (x : Stream) : (s.setStream n x).boot = s.boot := rfl
@[simp] theorem State.setStream_stratus (s : State) (n : Nat) (x : Stream) : (s.setStream n x).stratus = s.stratus := rfl
@[simp] theorem State.setStream_keys (s : State) (n : Nat) (x : Stream) : (s.setStream n x).keys = s.keys := rfl
@[simp] theorem State.setStream_tap (s : State) (n : Nat) (x : Stream) : (s.setStream n x).tap = s.tap := rfl
@[simp] theorem State.setStream_sw (s : State) (n : Nat) (x : Stream) : (s.setStream n x).sw = s.sw := rfl
@[simp] theorem State.setStream_ports (s : State) (n : Nat) (x : Stream) : (s.setStream n x).ports = s.ports := rfl
@[simp] theorem State.setStream_i2c (s : State) (n : Nat) (x : Stream) : (s.setStream n x).i2c = s.i2c := rfl

/-! `setSub` changes `pub` only. -/

@[simp] theorem State.setSub_pending (s : State) (n : Nat) (x : Subscription) : (s.setSub n x).pending = s.pending := rfl
@[simp] theorem State.setSub_sent (s : State) (n : Nat) (x : Subscription) : (s.setSub n x).sent = s.sent := rfl
@[simp] theorem State.setSub_free (s : State) (n : Nat) (x : Subscription) : (s.setSub n x).free = s.free := rfl
@[simp] theorem State.setSub_origin (s : State) (n : Nat) (x : Subscription) : (s.setSub n x).origin = s.origin := rfl
@[simp] theorem State.setSub_injected (s : State) (n : Nat) (x : Subscription) : (s.setSub n x).injected = s.injected := rfl
@[simp] theorem State.setSub_cmd (s : State) (n : Nat) (x : Subscription) : (s.setSub n x).cmd = s.cmd := rfl
@[simp] theorem State.setSub_place (s : State) (n : Nat) (x : Subscription) : (s.setSub n x).place = s.place := rfl
@[simp] theorem State.setSub_ingest (s : State) (n : Nat) (x : Subscription) : (s.setSub n x).ingest = s.ingest := rfl
@[simp] theorem State.setSub_filter (s : State) (n : Nat) (x : Subscription) : (s.setSub n x).filter = s.filter := rfl
@[simp] theorem State.setSub_prog (s : State) (n : Nat) (x : Subscription) : (s.setSub n x).prog = s.prog := rfl
@[simp] theorem State.setSub_cap (s : State) (n : Nat) (x : Subscription) : (s.setSub n x).cap = s.cap := rfl
@[simp] theorem State.setSub_anvil (s : State) (n : Nat) (x : Subscription) : (s.setSub n x).anvil = s.anvil := rfl
@[simp] theorem State.setSub_pair (s : State) (n : Nat) (x : Subscription) : (s.setSub n x).pair = s.pair := rfl
@[simp] theorem State.setSub_horizon (s : State) (n : Nat) (x : Subscription) : (s.setSub n x).horizon = s.horizon := rfl
@[simp] theorem State.setSub_power (s : State) (n : Nat) (x : Subscription) : (s.setSub n x).power = s.power := rfl
@[simp] theorem State.setSub_clocks (s : State) (n : Nat) (x : Subscription) : (s.setSub n x).clocks = s.clocks := rfl
@[simp] theorem State.setSub_serial (s : State) (n : Nat) (x : Subscription) : (s.setSub n x).serial = s.serial := rfl
@[simp] theorem State.setSub_host (s : State) (n : Nat) (x : Subscription) : (s.setSub n x).host = s.host := rfl
@[simp] theorem State.setSub_icu (s : State) (n : Nat) (x : Subscription) : (s.setSub n x).icu = s.icu := rfl
@[simp] theorem State.setSub_recorder (s : State) (n : Nat) (x : Subscription) : (s.setSub n x).recorder = s.recorder := rfl
@[simp] theorem State.setSub_boot (s : State) (n : Nat) (x : Subscription) : (s.setSub n x).boot = s.boot := rfl
@[simp] theorem State.setSub_stratus (s : State) (n : Nat) (x : Subscription) : (s.setSub n x).stratus = s.stratus := rfl
@[simp] theorem State.setSub_keys (s : State) (n : Nat) (x : Subscription) : (s.setSub n x).keys = s.keys := rfl
@[simp] theorem State.setSub_tap (s : State) (n : Nat) (x : Subscription) : (s.setSub n x).tap = s.tap := rfl
@[simp] theorem State.setSub_sw (s : State) (n : Nat) (x : Subscription) : (s.setSub n x).sw = s.sw := rfl
@[simp] theorem State.setSub_ports (s : State) (n : Nat) (x : Subscription) : (s.setSub n x).ports = s.ports := rfl
@[simp] theorem State.setSub_i2c (s : State) (n : Nat) (x : Subscription) : (s.setSub n x).i2c = s.i2c := rfl

/-! `setRec` changes `cap` only. -/

@[simp] theorem State.setRec_pending (s : State) (n : Nat) (r : Recorder) : (s.setRec n r).pending = s.pending := rfl
@[simp] theorem State.setRec_sent (s : State) (n : Nat) (r : Recorder) : (s.setRec n r).sent = s.sent := rfl
@[simp] theorem State.setRec_free (s : State) (n : Nat) (r : Recorder) : (s.setRec n r).free = s.free := rfl
@[simp] theorem State.setRec_origin (s : State) (n : Nat) (r : Recorder) : (s.setRec n r).origin = s.origin := rfl
@[simp] theorem State.setRec_injected (s : State) (n : Nat) (r : Recorder) : (s.setRec n r).injected = s.injected := rfl
@[simp] theorem State.setRec_cmd (s : State) (n : Nat) (r : Recorder) : (s.setRec n r).cmd = s.cmd := rfl
@[simp] theorem State.setRec_place (s : State) (n : Nat) (r : Recorder) : (s.setRec n r).place = s.place := rfl
@[simp] theorem State.setRec_ingest (s : State) (n : Nat) (r : Recorder) : (s.setRec n r).ingest = s.ingest := rfl
@[simp] theorem State.setRec_filter (s : State) (n : Nat) (r : Recorder) : (s.setRec n r).filter = s.filter := rfl
@[simp] theorem State.setRec_prog (s : State) (n : Nat) (r : Recorder) : (s.setRec n r).prog = s.prog := rfl
@[simp] theorem State.setRec_pub (s : State) (n : Nat) (r : Recorder) : (s.setRec n r).pub = s.pub := rfl
@[simp] theorem State.setRec_anvil (s : State) (n : Nat) (r : Recorder) : (s.setRec n r).anvil = s.anvil := rfl
@[simp] theorem State.setRec_pair (s : State) (n : Nat) (r : Recorder) : (s.setRec n r).pair = s.pair := rfl
@[simp] theorem State.setRec_horizon (s : State) (n : Nat) (r : Recorder) : (s.setRec n r).horizon = s.horizon := rfl
@[simp] theorem State.setRec_power (s : State) (n : Nat) (r : Recorder) : (s.setRec n r).power = s.power := rfl
@[simp] theorem State.setRec_clocks (s : State) (n : Nat) (r : Recorder) : (s.setRec n r).clocks = s.clocks := rfl
@[simp] theorem State.setRec_serial (s : State) (n : Nat) (r : Recorder) : (s.setRec n r).serial = s.serial := rfl
@[simp] theorem State.setRec_host (s : State) (n : Nat) (r : Recorder) : (s.setRec n r).host = s.host := rfl
@[simp] theorem State.setRec_icu (s : State) (n : Nat) (r : Recorder) : (s.setRec n r).icu = s.icu := rfl
@[simp] theorem State.setRec_recorder (s : State) (n : Nat) (r : Recorder) : (s.setRec n r).recorder = s.recorder := rfl
@[simp] theorem State.setRec_boot (s : State) (n : Nat) (r : Recorder) : (s.setRec n r).boot = s.boot := rfl
@[simp] theorem State.setRec_stratus (s : State) (n : Nat) (r : Recorder) : (s.setRec n r).stratus = s.stratus := rfl
@[simp] theorem State.setRec_keys (s : State) (n : Nat) (r : Recorder) : (s.setRec n r).keys = s.keys := rfl
@[simp] theorem State.setRec_tap (s : State) (n : Nat) (r : Recorder) : (s.setRec n r).tap = s.tap := rfl
@[simp] theorem State.setRec_sw (s : State) (n : Nat) (r : Recorder) : (s.setRec n r).sw = s.sw := rfl
@[simp] theorem State.setRec_ports (s : State) (n : Nat) (r : Recorder) : (s.setRec n r).ports = s.ports := rfl
@[simp] theorem State.setRec_i2c (s : State) (n : Nat) (r : Recorder) : (s.setRec n r).i2c = s.i2c := rfl

/-! `setPort` changes `ports` only. -/

@[simp] theorem State.setPort_pending (s : State) (n : Nat) (p : Port) : (s.setPort n p).pending = s.pending := rfl
@[simp] theorem State.setPort_sent (s : State) (n : Nat) (p : Port) : (s.setPort n p).sent = s.sent := rfl
@[simp] theorem State.setPort_free (s : State) (n : Nat) (p : Port) : (s.setPort n p).free = s.free := rfl
@[simp] theorem State.setPort_origin (s : State) (n : Nat) (p : Port) : (s.setPort n p).origin = s.origin := rfl
@[simp] theorem State.setPort_injected (s : State) (n : Nat) (p : Port) : (s.setPort n p).injected = s.injected := rfl
@[simp] theorem State.setPort_cmd (s : State) (n : Nat) (p : Port) : (s.setPort n p).cmd = s.cmd := rfl
@[simp] theorem State.setPort_place (s : State) (n : Nat) (p : Port) : (s.setPort n p).place = s.place := rfl
@[simp] theorem State.setPort_ingest (s : State) (n : Nat) (p : Port) : (s.setPort n p).ingest = s.ingest := rfl
@[simp] theorem State.setPort_filter (s : State) (n : Nat) (p : Port) : (s.setPort n p).filter = s.filter := rfl
@[simp] theorem State.setPort_prog (s : State) (n : Nat) (p : Port) : (s.setPort n p).prog = s.prog := rfl
@[simp] theorem State.setPort_pub (s : State) (n : Nat) (p : Port) : (s.setPort n p).pub = s.pub := rfl
@[simp] theorem State.setPort_cap (s : State) (n : Nat) (p : Port) : (s.setPort n p).cap = s.cap := rfl
@[simp] theorem State.setPort_anvil (s : State) (n : Nat) (p : Port) : (s.setPort n p).anvil = s.anvil := rfl
@[simp] theorem State.setPort_pair (s : State) (n : Nat) (p : Port) : (s.setPort n p).pair = s.pair := rfl
@[simp] theorem State.setPort_horizon (s : State) (n : Nat) (p : Port) : (s.setPort n p).horizon = s.horizon := rfl
@[simp] theorem State.setPort_power (s : State) (n : Nat) (p : Port) : (s.setPort n p).power = s.power := rfl
@[simp] theorem State.setPort_clocks (s : State) (n : Nat) (p : Port) : (s.setPort n p).clocks = s.clocks := rfl
@[simp] theorem State.setPort_serial (s : State) (n : Nat) (p : Port) : (s.setPort n p).serial = s.serial := rfl
@[simp] theorem State.setPort_host (s : State) (n : Nat) (p : Port) : (s.setPort n p).host = s.host := rfl
@[simp] theorem State.setPort_icu (s : State) (n : Nat) (p : Port) : (s.setPort n p).icu = s.icu := rfl
@[simp] theorem State.setPort_recorder (s : State) (n : Nat) (p : Port) : (s.setPort n p).recorder = s.recorder := rfl
@[simp] theorem State.setPort_boot (s : State) (n : Nat) (p : Port) : (s.setPort n p).boot = s.boot := rfl
@[simp] theorem State.setPort_stratus (s : State) (n : Nat) (p : Port) : (s.setPort n p).stratus = s.stratus := rfl
@[simp] theorem State.setPort_keys (s : State) (n : Nat) (p : Port) : (s.setPort n p).keys = s.keys := rfl
@[simp] theorem State.setPort_tap (s : State) (n : Nat) (p : Port) : (s.setPort n p).tap = s.tap := rfl
@[simp] theorem State.setPort_sw (s : State) (n : Nat) (p : Port) : (s.setPort n p).sw = s.sw := rfl
@[simp] theorem State.setPort_i2c (s : State) (n : Nat) (p : Port) : (s.setPort n p).i2c = s.i2c := rfl

/-! `setSwp` changes `sw` only. -/

@[simp] theorem State.setSwp_pending (s : State) (n : Nat) (p : SwPort) : (s.setSwp n p).pending = s.pending := rfl
@[simp] theorem State.setSwp_sent (s : State) (n : Nat) (p : SwPort) : (s.setSwp n p).sent = s.sent := rfl
@[simp] theorem State.setSwp_free (s : State) (n : Nat) (p : SwPort) : (s.setSwp n p).free = s.free := rfl
@[simp] theorem State.setSwp_origin (s : State) (n : Nat) (p : SwPort) : (s.setSwp n p).origin = s.origin := rfl
@[simp] theorem State.setSwp_injected (s : State) (n : Nat) (p : SwPort) : (s.setSwp n p).injected = s.injected := rfl
@[simp] theorem State.setSwp_cmd (s : State) (n : Nat) (p : SwPort) : (s.setSwp n p).cmd = s.cmd := rfl
@[simp] theorem State.setSwp_place (s : State) (n : Nat) (p : SwPort) : (s.setSwp n p).place = s.place := rfl
@[simp] theorem State.setSwp_ingest (s : State) (n : Nat) (p : SwPort) : (s.setSwp n p).ingest = s.ingest := rfl
@[simp] theorem State.setSwp_filter (s : State) (n : Nat) (p : SwPort) : (s.setSwp n p).filter = s.filter := rfl
@[simp] theorem State.setSwp_prog (s : State) (n : Nat) (p : SwPort) : (s.setSwp n p).prog = s.prog := rfl
@[simp] theorem State.setSwp_pub (s : State) (n : Nat) (p : SwPort) : (s.setSwp n p).pub = s.pub := rfl
@[simp] theorem State.setSwp_cap (s : State) (n : Nat) (p : SwPort) : (s.setSwp n p).cap = s.cap := rfl
@[simp] theorem State.setSwp_anvil (s : State) (n : Nat) (p : SwPort) : (s.setSwp n p).anvil = s.anvil := rfl
@[simp] theorem State.setSwp_pair (s : State) (n : Nat) (p : SwPort) : (s.setSwp n p).pair = s.pair := rfl
@[simp] theorem State.setSwp_horizon (s : State) (n : Nat) (p : SwPort) : (s.setSwp n p).horizon = s.horizon := rfl
@[simp] theorem State.setSwp_power (s : State) (n : Nat) (p : SwPort) : (s.setSwp n p).power = s.power := rfl
@[simp] theorem State.setSwp_clocks (s : State) (n : Nat) (p : SwPort) : (s.setSwp n p).clocks = s.clocks := rfl
@[simp] theorem State.setSwp_serial (s : State) (n : Nat) (p : SwPort) : (s.setSwp n p).serial = s.serial := rfl
@[simp] theorem State.setSwp_host (s : State) (n : Nat) (p : SwPort) : (s.setSwp n p).host = s.host := rfl
@[simp] theorem State.setSwp_icu (s : State) (n : Nat) (p : SwPort) : (s.setSwp n p).icu = s.icu := rfl
@[simp] theorem State.setSwp_recorder (s : State) (n : Nat) (p : SwPort) : (s.setSwp n p).recorder = s.recorder := rfl
@[simp] theorem State.setSwp_boot (s : State) (n : Nat) (p : SwPort) : (s.setSwp n p).boot = s.boot := rfl
@[simp] theorem State.setSwp_stratus (s : State) (n : Nat) (p : SwPort) : (s.setSwp n p).stratus = s.stratus := rfl
@[simp] theorem State.setSwp_keys (s : State) (n : Nat) (p : SwPort) : (s.setSwp n p).keys = s.keys := rfl
@[simp] theorem State.setSwp_tap (s : State) (n : Nat) (p : SwPort) : (s.setSwp n p).tap = s.tap := rfl
@[simp] theorem State.setSwp_ports (s : State) (n : Nat) (p : SwPort) : (s.setSwp n p).ports = s.ports := rfl
@[simp] theorem State.setSwp_i2c (s : State) (n : Nat) (p : SwPort) : (s.setSwp n p).i2c = s.i2c := rfl

/-! `setSlot` changes `keys` only. -/

@[simp] theorem State.setSlot_pending (s : State) (n : Nat) (k : KeySlot) : (s.setSlot n k).pending = s.pending := rfl
@[simp] theorem State.setSlot_sent (s : State) (n : Nat) (k : KeySlot) : (s.setSlot n k).sent = s.sent := rfl
@[simp] theorem State.setSlot_free (s : State) (n : Nat) (k : KeySlot) : (s.setSlot n k).free = s.free := rfl
@[simp] theorem State.setSlot_origin (s : State) (n : Nat) (k : KeySlot) : (s.setSlot n k).origin = s.origin := rfl
@[simp] theorem State.setSlot_injected (s : State) (n : Nat) (k : KeySlot) : (s.setSlot n k).injected = s.injected := rfl
@[simp] theorem State.setSlot_cmd (s : State) (n : Nat) (k : KeySlot) : (s.setSlot n k).cmd = s.cmd := rfl
@[simp] theorem State.setSlot_place (s : State) (n : Nat) (k : KeySlot) : (s.setSlot n k).place = s.place := rfl
@[simp] theorem State.setSlot_ingest (s : State) (n : Nat) (k : KeySlot) : (s.setSlot n k).ingest = s.ingest := rfl
@[simp] theorem State.setSlot_filter (s : State) (n : Nat) (k : KeySlot) : (s.setSlot n k).filter = s.filter := rfl
@[simp] theorem State.setSlot_prog (s : State) (n : Nat) (k : KeySlot) : (s.setSlot n k).prog = s.prog := rfl
@[simp] theorem State.setSlot_pub (s : State) (n : Nat) (k : KeySlot) : (s.setSlot n k).pub = s.pub := rfl
@[simp] theorem State.setSlot_cap (s : State) (n : Nat) (k : KeySlot) : (s.setSlot n k).cap = s.cap := rfl
@[simp] theorem State.setSlot_anvil (s : State) (n : Nat) (k : KeySlot) : (s.setSlot n k).anvil = s.anvil := rfl
@[simp] theorem State.setSlot_pair (s : State) (n : Nat) (k : KeySlot) : (s.setSlot n k).pair = s.pair := rfl
@[simp] theorem State.setSlot_horizon (s : State) (n : Nat) (k : KeySlot) : (s.setSlot n k).horizon = s.horizon := rfl
@[simp] theorem State.setSlot_power (s : State) (n : Nat) (k : KeySlot) : (s.setSlot n k).power = s.power := rfl
@[simp] theorem State.setSlot_clocks (s : State) (n : Nat) (k : KeySlot) : (s.setSlot n k).clocks = s.clocks := rfl
@[simp] theorem State.setSlot_serial (s : State) (n : Nat) (k : KeySlot) : (s.setSlot n k).serial = s.serial := rfl
@[simp] theorem State.setSlot_host (s : State) (n : Nat) (k : KeySlot) : (s.setSlot n k).host = s.host := rfl
@[simp] theorem State.setSlot_icu (s : State) (n : Nat) (k : KeySlot) : (s.setSlot n k).icu = s.icu := rfl
@[simp] theorem State.setSlot_recorder (s : State) (n : Nat) (k : KeySlot) : (s.setSlot n k).recorder = s.recorder := rfl
@[simp] theorem State.setSlot_boot (s : State) (n : Nat) (k : KeySlot) : (s.setSlot n k).boot = s.boot := rfl
@[simp] theorem State.setSlot_stratus (s : State) (n : Nat) (k : KeySlot) : (s.setSlot n k).stratus = s.stratus := rfl
@[simp] theorem State.setSlot_tap (s : State) (n : Nat) (k : KeySlot) : (s.setSlot n k).tap = s.tap := rfl
@[simp] theorem State.setSlot_sw (s : State) (n : Nat) (k : KeySlot) : (s.setSlot n k).sw = s.sw := rfl
@[simp] theorem State.setSlot_ports (s : State) (n : Nat) (k : KeySlot) : (s.setSlot n k).ports = s.ports := rfl
@[simp] theorem State.setSlot_i2c (s : State) (n : Nat) (k : KeySlot) : (s.setSlot n k).i2c = s.i2c := rfl

/-! `dropDerived` changes `keys` only. -/

@[simp] theorem State.dropDerived_pending (s : State) (n : Nat) : (s.dropDerived n).pending = s.pending := rfl
@[simp] theorem State.dropDerived_sent (s : State) (n : Nat) : (s.dropDerived n).sent = s.sent := rfl
@[simp] theorem State.dropDerived_free (s : State) (n : Nat) : (s.dropDerived n).free = s.free := rfl
@[simp] theorem State.dropDerived_origin (s : State) (n : Nat) : (s.dropDerived n).origin = s.origin := rfl
@[simp] theorem State.dropDerived_injected (s : State) (n : Nat) : (s.dropDerived n).injected = s.injected := rfl
@[simp] theorem State.dropDerived_cmd (s : State) (n : Nat) : (s.dropDerived n).cmd = s.cmd := rfl
@[simp] theorem State.dropDerived_place (s : State) (n : Nat) : (s.dropDerived n).place = s.place := rfl
@[simp] theorem State.dropDerived_ingest (s : State) (n : Nat) : (s.dropDerived n).ingest = s.ingest := rfl
@[simp] theorem State.dropDerived_filter (s : State) (n : Nat) : (s.dropDerived n).filter = s.filter := rfl
@[simp] theorem State.dropDerived_prog (s : State) (n : Nat) : (s.dropDerived n).prog = s.prog := rfl
@[simp] theorem State.dropDerived_pub (s : State) (n : Nat) : (s.dropDerived n).pub = s.pub := rfl
@[simp] theorem State.dropDerived_cap (s : State) (n : Nat) : (s.dropDerived n).cap = s.cap := rfl
@[simp] theorem State.dropDerived_anvil (s : State) (n : Nat) : (s.dropDerived n).anvil = s.anvil := rfl
@[simp] theorem State.dropDerived_pair (s : State) (n : Nat) : (s.dropDerived n).pair = s.pair := rfl
@[simp] theorem State.dropDerived_horizon (s : State) (n : Nat) : (s.dropDerived n).horizon = s.horizon := rfl
@[simp] theorem State.dropDerived_power (s : State) (n : Nat) : (s.dropDerived n).power = s.power := rfl
@[simp] theorem State.dropDerived_clocks (s : State) (n : Nat) : (s.dropDerived n).clocks = s.clocks := rfl
@[simp] theorem State.dropDerived_serial (s : State) (n : Nat) : (s.dropDerived n).serial = s.serial := rfl
@[simp] theorem State.dropDerived_host (s : State) (n : Nat) : (s.dropDerived n).host = s.host := rfl
@[simp] theorem State.dropDerived_icu (s : State) (n : Nat) : (s.dropDerived n).icu = s.icu := rfl
@[simp] theorem State.dropDerived_recorder (s : State) (n : Nat) : (s.dropDerived n).recorder = s.recorder := rfl
@[simp] theorem State.dropDerived_boot (s : State) (n : Nat) : (s.dropDerived n).boot = s.boot := rfl
@[simp] theorem State.dropDerived_stratus (s : State) (n : Nat) : (s.dropDerived n).stratus = s.stratus := rfl
@[simp] theorem State.dropDerived_tap (s : State) (n : Nat) : (s.dropDerived n).tap = s.tap := rfl
@[simp] theorem State.dropDerived_sw (s : State) (n : Nat) : (s.dropDerived n).sw = s.sw := rfl
@[simp] theorem State.dropDerived_ports (s : State) (n : Nat) : (s.dropDerived n).ports = s.ports := rfl
@[simp] theorem State.dropDerived_i2c (s : State) (n : Nat) : (s.dropDerived n).i2c = s.i2c := rfl

/-! `haloCount` changes `keys` only. -/

@[simp] theorem State.haloCount_pending (s : State) (i : Nat) : (s.haloCount i).pending = s.pending := rfl
@[simp] theorem State.haloCount_sent (s : State) (i : Nat) : (s.haloCount i).sent = s.sent := rfl
@[simp] theorem State.haloCount_free (s : State) (i : Nat) : (s.haloCount i).free = s.free := rfl
@[simp] theorem State.haloCount_origin (s : State) (i : Nat) : (s.haloCount i).origin = s.origin := rfl
@[simp] theorem State.haloCount_injected (s : State) (i : Nat) : (s.haloCount i).injected = s.injected := rfl
@[simp] theorem State.haloCount_cmd (s : State) (i : Nat) : (s.haloCount i).cmd = s.cmd := rfl
@[simp] theorem State.haloCount_place (s : State) (i : Nat) : (s.haloCount i).place = s.place := rfl
@[simp] theorem State.haloCount_ingest (s : State) (i : Nat) : (s.haloCount i).ingest = s.ingest := rfl
@[simp] theorem State.haloCount_filter (s : State) (i : Nat) : (s.haloCount i).filter = s.filter := rfl
@[simp] theorem State.haloCount_prog (s : State) (i : Nat) : (s.haloCount i).prog = s.prog := rfl
@[simp] theorem State.haloCount_pub (s : State) (i : Nat) : (s.haloCount i).pub = s.pub := rfl
@[simp] theorem State.haloCount_cap (s : State) (i : Nat) : (s.haloCount i).cap = s.cap := rfl
@[simp] theorem State.haloCount_anvil (s : State) (i : Nat) : (s.haloCount i).anvil = s.anvil := rfl
@[simp] theorem State.haloCount_pair (s : State) (i : Nat) : (s.haloCount i).pair = s.pair := rfl
@[simp] theorem State.haloCount_horizon (s : State) (i : Nat) : (s.haloCount i).horizon = s.horizon := rfl
@[simp] theorem State.haloCount_power (s : State) (i : Nat) : (s.haloCount i).power = s.power := rfl
@[simp] theorem State.haloCount_clocks (s : State) (i : Nat) : (s.haloCount i).clocks = s.clocks := rfl
@[simp] theorem State.haloCount_serial (s : State) (i : Nat) : (s.haloCount i).serial = s.serial := rfl
@[simp] theorem State.haloCount_host (s : State) (i : Nat) : (s.haloCount i).host = s.host := rfl
@[simp] theorem State.haloCount_icu (s : State) (i : Nat) : (s.haloCount i).icu = s.icu := rfl
@[simp] theorem State.haloCount_recorder (s : State) (i : Nat) : (s.haloCount i).recorder = s.recorder := rfl
@[simp] theorem State.haloCount_boot (s : State) (i : Nat) : (s.haloCount i).boot = s.boot := rfl
@[simp] theorem State.haloCount_stratus (s : State) (i : Nat) : (s.haloCount i).stratus = s.stratus := rfl
@[simp] theorem State.haloCount_tap (s : State) (i : Nat) : (s.haloCount i).tap = s.tap := rfl
@[simp] theorem State.haloCount_sw (s : State) (i : Nat) : (s.haloCount i).sw = s.sw := rfl
@[simp] theorem State.haloCount_ports (s : State) (i : Nat) : (s.haloCount i).ports = s.ports := rfl
@[simp] theorem State.haloCount_i2c (s : State) (i : Nat) : (s.haloCount i).i2c = s.i2c := rfl

/-! `setClk` changes `clocks` only. -/

@[simp] theorem State.setClk_pending (s : State) (i : Nat) (x : ClkSource) : (s.setClk i x).pending = s.pending := rfl
@[simp] theorem State.setClk_sent (s : State) (i : Nat) (x : ClkSource) : (s.setClk i x).sent = s.sent := rfl
@[simp] theorem State.setClk_free (s : State) (i : Nat) (x : ClkSource) : (s.setClk i x).free = s.free := rfl
@[simp] theorem State.setClk_origin (s : State) (i : Nat) (x : ClkSource) : (s.setClk i x).origin = s.origin := rfl
@[simp] theorem State.setClk_injected (s : State) (i : Nat) (x : ClkSource) : (s.setClk i x).injected = s.injected := rfl
@[simp] theorem State.setClk_cmd (s : State) (i : Nat) (x : ClkSource) : (s.setClk i x).cmd = s.cmd := rfl
@[simp] theorem State.setClk_place (s : State) (i : Nat) (x : ClkSource) : (s.setClk i x).place = s.place := rfl
@[simp] theorem State.setClk_ingest (s : State) (i : Nat) (x : ClkSource) : (s.setClk i x).ingest = s.ingest := rfl
@[simp] theorem State.setClk_filter (s : State) (i : Nat) (x : ClkSource) : (s.setClk i x).filter = s.filter := rfl
@[simp] theorem State.setClk_prog (s : State) (i : Nat) (x : ClkSource) : (s.setClk i x).prog = s.prog := rfl
@[simp] theorem State.setClk_pub (s : State) (i : Nat) (x : ClkSource) : (s.setClk i x).pub = s.pub := rfl
@[simp] theorem State.setClk_cap (s : State) (i : Nat) (x : ClkSource) : (s.setClk i x).cap = s.cap := rfl
@[simp] theorem State.setClk_anvil (s : State) (i : Nat) (x : ClkSource) : (s.setClk i x).anvil = s.anvil := rfl
@[simp] theorem State.setClk_pair (s : State) (i : Nat) (x : ClkSource) : (s.setClk i x).pair = s.pair := rfl
@[simp] theorem State.setClk_horizon (s : State) (i : Nat) (x : ClkSource) : (s.setClk i x).horizon = s.horizon := rfl
@[simp] theorem State.setClk_power (s : State) (i : Nat) (x : ClkSource) : (s.setClk i x).power = s.power := rfl
@[simp] theorem State.setClk_serial (s : State) (i : Nat) (x : ClkSource) : (s.setClk i x).serial = s.serial := rfl
@[simp] theorem State.setClk_host (s : State) (i : Nat) (x : ClkSource) : (s.setClk i x).host = s.host := rfl
@[simp] theorem State.setClk_icu (s : State) (i : Nat) (x : ClkSource) : (s.setClk i x).icu = s.icu := rfl
@[simp] theorem State.setClk_recorder (s : State) (i : Nat) (x : ClkSource) : (s.setClk i x).recorder = s.recorder := rfl
@[simp] theorem State.setClk_boot (s : State) (i : Nat) (x : ClkSource) : (s.setClk i x).boot = s.boot := rfl
@[simp] theorem State.setClk_stratus (s : State) (i : Nat) (x : ClkSource) : (s.setClk i x).stratus = s.stratus := rfl
@[simp] theorem State.setClk_keys (s : State) (i : Nat) (x : ClkSource) : (s.setClk i x).keys = s.keys := rfl
@[simp] theorem State.setClk_tap (s : State) (i : Nat) (x : ClkSource) : (s.setClk i x).tap = s.tap := rfl
@[simp] theorem State.setClk_sw (s : State) (i : Nat) (x : ClkSource) : (s.setClk i x).sw = s.sw := rfl
@[simp] theorem State.setClk_ports (s : State) (i : Nat) (x : ClkSource) : (s.setClk i x).ports = s.ports := rfl
@[simp] theorem State.setClk_i2c (s : State) (i : Nat) (x : ClkSource) : (s.setClk i x).i2c = s.i2c := rfl

/-! `modUart` changes `serial` only. -/

@[simp] theorem State.modUart_pending (s : State) (n : Nat) (f : Uart → Uart) : (s.modUart n f).pending = s.pending := rfl
@[simp] theorem State.modUart_sent (s : State) (n : Nat) (f : Uart → Uart) : (s.modUart n f).sent = s.sent := rfl
@[simp] theorem State.modUart_free (s : State) (n : Nat) (f : Uart → Uart) : (s.modUart n f).free = s.free := rfl
@[simp] theorem State.modUart_origin (s : State) (n : Nat) (f : Uart → Uart) : (s.modUart n f).origin = s.origin := rfl
@[simp] theorem State.modUart_injected (s : State) (n : Nat) (f : Uart → Uart) : (s.modUart n f).injected = s.injected := rfl
@[simp] theorem State.modUart_cmd (s : State) (n : Nat) (f : Uart → Uart) : (s.modUart n f).cmd = s.cmd := rfl
@[simp] theorem State.modUart_place (s : State) (n : Nat) (f : Uart → Uart) : (s.modUart n f).place = s.place := rfl
@[simp] theorem State.modUart_ingest (s : State) (n : Nat) (f : Uart → Uart) : (s.modUart n f).ingest = s.ingest := rfl
@[simp] theorem State.modUart_filter (s : State) (n : Nat) (f : Uart → Uart) : (s.modUart n f).filter = s.filter := rfl
@[simp] theorem State.modUart_prog (s : State) (n : Nat) (f : Uart → Uart) : (s.modUart n f).prog = s.prog := rfl
@[simp] theorem State.modUart_pub (s : State) (n : Nat) (f : Uart → Uart) : (s.modUart n f).pub = s.pub := rfl
@[simp] theorem State.modUart_cap (s : State) (n : Nat) (f : Uart → Uart) : (s.modUart n f).cap = s.cap := rfl
@[simp] theorem State.modUart_anvil (s : State) (n : Nat) (f : Uart → Uart) : (s.modUart n f).anvil = s.anvil := rfl
@[simp] theorem State.modUart_pair (s : State) (n : Nat) (f : Uart → Uart) : (s.modUart n f).pair = s.pair := rfl
@[simp] theorem State.modUart_horizon (s : State) (n : Nat) (f : Uart → Uart) : (s.modUart n f).horizon = s.horizon := rfl
@[simp] theorem State.modUart_power (s : State) (n : Nat) (f : Uart → Uart) : (s.modUart n f).power = s.power := rfl
@[simp] theorem State.modUart_clocks (s : State) (n : Nat) (f : Uart → Uart) : (s.modUart n f).clocks = s.clocks := rfl
@[simp] theorem State.modUart_host (s : State) (n : Nat) (f : Uart → Uart) : (s.modUart n f).host = s.host := rfl
@[simp] theorem State.modUart_icu (s : State) (n : Nat) (f : Uart → Uart) : (s.modUart n f).icu = s.icu := rfl
@[simp] theorem State.modUart_recorder (s : State) (n : Nat) (f : Uart → Uart) : (s.modUart n f).recorder = s.recorder := rfl
@[simp] theorem State.modUart_boot (s : State) (n : Nat) (f : Uart → Uart) : (s.modUart n f).boot = s.boot := rfl
@[simp] theorem State.modUart_stratus (s : State) (n : Nat) (f : Uart → Uart) : (s.modUart n f).stratus = s.stratus := rfl
@[simp] theorem State.modUart_keys (s : State) (n : Nat) (f : Uart → Uart) : (s.modUart n f).keys = s.keys := rfl
@[simp] theorem State.modUart_tap (s : State) (n : Nat) (f : Uart → Uart) : (s.modUart n f).tap = s.tap := rfl
@[simp] theorem State.modUart_sw (s : State) (n : Nat) (f : Uart → Uart) : (s.modUart n f).sw = s.sw := rfl
@[simp] theorem State.modUart_ports (s : State) (n : Nat) (f : Uart → Uart) : (s.modUart n f).ports = s.ports := rfl
@[simp] theorem State.modUart_i2c (s : State) (n : Nat) (f : Uart → Uart) : (s.modUart n f).i2c = s.i2c := rfl

end Sys2Proof.Machine
end

