-- ==== Sys2Proof/Tests/Slice0.lean ====
section
/-! SUPPORT. Small tests: the checks of WellFormed refuse, each statement's hypotheses are met somewhere, and results worked
out by hand from the spec come out. -/
namespace Sys2Proof.Tests
set_option Elab.async false
open Sys2Proof Sys2Proof.Machine

/-! ### Small states and packets -/

/-- `n` bytes with the little-endian fields (offset, width, value). -/
def fields (n : Nat) (fs : List (Nat × Nat × Nat)) : Bytes :=
  (List.range n).map (fun i => match fs.find? (fun f => decide (f.1 ≤ i) && decide (i < f.1 + f.2.1)) with
    | some f => BitVec.ofNat 8 (f.2.2 / 256 ^ (i - f.1))
    | none => 0)

/-- A packet of channel `chan` from VI `inst` with the parameters `p`. -/
def pkt (chan inst : Nat) (p : Bytes) : Cmd :=
  { chan := chan, opcode := 0, flags := 0, inst := inst, tag := 0, seq := 1, replyLimit := 1020, replyTo := 0, index := 0,
    user := 0, gen := 0, params := p }

/-- The packet passes every check of the card in the state, and the statement's condition holds. -/
def Met (k : Card) (pre : State → Cmd → Prop) (s : State) (c : Cmd) : Prop :=
  k.passes (s.advance 0) (k.cmd c) = true ∧ pre (s.advance 0) (k.cmd c)

/-- The reset state: command-ready, nothing configured. -/
def w0 : State := State.reset

/-- A PE image of 32 code bytes with 64 bytes of DATA and one setting, and its container. -/
def imgB : Bytes := fields 132 [(0, 4, 5), (6, 2, 1), (0x14, 4, 32), (0x18, 4, 64), (0x20, 4, 64), (0x2A, 2, 1), (0x2C, 4, 32),
  (0x30, 4, 4), (0x34, 4, 136), (0x40, 2, 32), (0x42, 2, 4)]
def img : Bytes := imgB ++ le 4 (crc32c imgB)

/-- The same with one signal and one output word. -/
def img2B : Bytes := fields 136 [(0, 4, 6), (6, 2, 1), (0x14, 4, 32), (0x18, 4, 64), (0x20, 4, 96), (0x26, 2, 1), (0x28, 2, 1), (0x2A, 2, 1),
  (0x2C, 4, 32), (0x30, 4, 4), (0x34, 4, 140), (0x40, 2, 32), (0x42, 2, 4)]
def img2 : Bytes := img2B ++ le 4 (crc32c img2B)

/-- An instance of that image, declared, and placed as a single copy on PE 0.0. -/
def i0 : Inst :=
  { owner := 0, cls := 0, cycle := 2, phaseDecl := 0, kind := 0, shedPrio := 0, image := 5, wcic := 100, codeBytes := 32,
    dataBytes := 64, imageBytes := 128, nodeMask := 0, channels := [], declNo := 1 }
def c1 : Copy :=
  { eng := some { ls := false, cc := 0, no := 0 }, st := .running, span := 1,
    areas := { codeBytes := 32, dataBase := 32, dataBytes := 64, inBase := 96, inBytes := 64, outBase := 224 } }
def i1 : Inst := { i0 with place := .placed, phase := 0, copies := [c1] }
def wImg : State := { w0 with prog.images := [(5, { owner := 0, total := 136, got := [], loaded := true, bytes := img }),
  (6, { owner := 0, total := 140, got := [], loaded := true, bytes := img2 })] }
def wInst (x : Inst) : State := { wImg with place.insts := [(1, x)] }
/-- Protection time is valid. -/
def timed (s : State) : State := { s with horizon.ptSt := .synced }

/-- A stream of one channel. -/
def strCfg : StreamDef :=
  { fmt := 0, rate := 1, nAsdu := 1, nEntries := 1, auth := 0, syncReq := 0, portMask := 1, destMac := 0, appid := 0x4000, vlan := 0,
    keySlot := 0xFFFF, confRev := 1, ringSpan := 2000, lossTime := 0, svid := [0x41], acceptSim := false, channels := [7] }
def str0 : Machine.Stream := { cfg := strCfg, owner := 0 }
def wStr (x : Machine.Stream) : State :=
  { w0 with ingest.streams := [(1, x)], ingest.chanOf := [(7, (1, 0))], filter.chains := [(7, { bank := 0 })] }

/-- A filter bank, a chain with one output record, and a chain of nothing. -/
def bank0 : Bank := { owner := 0, taps := [1073741824], firR := 1, cicR := 1, rates := 0xFFFF }
def wBank : State := { w0 with filter.banks := [(16, bank0)] }
def out0 : OutRec := { pos := 0, value := 1, sqw := 0, peak := 0, rms := 0, env := 0 }
def wOuts : State := { wStr str0 with filter.chains := [(7, { bank := 0, outs := [out0] })] }

/-- The on-line change in a given state, with the instance in place. -/
def wChange (c : OnLine) : State := timed { wInst i1 with prog.change := c }

/-- A publication driven by instance 1, of one signal, and a subscription. -/
def pub0 : Publication :=
  { owner := 0, driver := 1, cls := 2, auth := 0, keySlot := 0xFFFF, mask := 1, destMac := 0x010CCD010001, appid := 1, vlan := 0, pcp := 4,
    sim := false, confRev := 1, minI := 2, maxI := 1000, gocb := [0x41], datset := [0x42], goid := [0x43], entries := [(2, 0)],
    frameBytes := 150 }
def wPub (q : Publication) : State := timed { wInst i1 with pub.pubs := [(1, q)] }
def sub0 : Subscription :=
  { owner := 0, auth := 0, accSim := false, accTest := false, mask := 1, destMac := 0x010CCD010001, appid := 1, vlan := 0, keySlot := 0xFFFF,
    confRev := 1, gocb := [0x41], entries := [] }
def wSub (q : Subscription) : State := { w0 with pub.subs := [(1, q)] }

/-- A recorder of one lane, with one segment of two blocks. -/
def rec0 : Recorder :=
  { owner := 0, overwrite := false, pre := 10, post := 10, grace := 0, holdMode := 0, holdoff := 0, archive := false,
    lanes := [{ chan := 7, tap := 0, fmt := 0, rate := 1, cap := 1 }], signals := [5], first := 0, segBytes := 8192, rate := 1000,
    segs := [{}] }
def run0 : Run := { seg := 0, h := 0, a := 0, next := [0], ents := [[]], nextSig := 0, snapTo := 0 }
def wRec (r : Recorder) : State := { wStr str0 with cap.recs := [(1, r)] }

/-- A VALID slot with an intact key, its mask 0. -/
def slotOf (n type usage bits : Nat) (key : Bytes) : KeySlot :=
  let k : KeySlot := { st := .valid, type := type, usage := usage, owner := 0xFF, version := 1, bits := bits, word := leNat key }
  { k with tag := slotTag n k key }
def keyed (s : State) (n type usage bits : Nat) (key : Bytes) : State :=
  { s with keys.slots := [(n, slotOf n type usage bits key)] }
def key32 : Bytes := List.replicate 32 1

/-- A module of a given role with Stratus configured and a schedule of one slot. -/
def schB : Bytes := fields 40 [(0, 2, 7), (2, 1, 4), (8, 1, 0), (9, 1, 1), (0x0C, 8, 0xFFFFFFFFFFFFFFFF), (0x14, 4, 3), (0x18, 2, 1), (0x1C, 4, 44), (0x20, 1, 0), (0x21, 1, 1), (0x24, 2, 9)]
def sch : Bytes := schB ++ le 4 (crc32c schB)
def stCfg : StratusCfg := { node := 0, enable := true, ports := [0, 4, 8, 12], keySlot := 3, linkDelay := 1, devices := 2, groupMac := 0x030000000001 }
def wRole (r : Nat) (t : StratusState) : State := { w0 with boot.role := r, stratus := t }

theorem some_with {α : Type} {o : Option α} {P : α → Prop} [DecidablePred P] (h : o.any (fun x => decide (P x)) = true) :
    ∃ x, o = some x ∧ P x := by
  cases o with
  | none => exact Bool.noConfusion h
  | some x => exact ⟨x, rfl, of_decide_eq_true h⟩

theorem slotOf_key (n type usage : Nat) : (slotOf n type usage 256 key32).key = key32 := by
  have h : le (256 / 8) (leNat key32 ^^^ 0) = key32 := by decide +kernel
  simp only [KeySlot.key, slotOf]
  exact h

theorem slotOf_whole (n type usage : Nat) : (slotOf n type usage 256 key32).tagOk n = true := by
  unfold KeySlot.tagOk
  rw [slotOf_key]
  simp [slotOf, slotTag]

theorem use_ok {s : State} {n : Nat} (h : (s.slot n).st = .valid) (p : s.haloPhase = .service)
    (t : (s.slot n).tagOk n = true) : s.useSlot n = .ok (s.slot n).key := by
  simp [State.useSlot, h, p, t]

theorem use_key {s : State} {n : Nat} (h : (s.slot n).st = .valid) (p : s.haloPhase = .service)
    (t : (s.slot n).tagOk n = true) (k : (s.slot n).key = key32) : s.useSlot n = .ok key32 := by
  rw [use_ok h p t, k]

/-- The same slot with a TAG that does not hold. -/
def torn (s : State) (n : Nat) : State :=
  { s with keys.slots := [(n, { slotOf n 3 4 256 key32 with tag := (slotOf n 3 4 256 key32).tag + 1 })] }

theorem torn_tag (n : Nat) :
    ¬ KeySlot.tagOk n { slotOf n 3 4 256 key32 with tag := (slotOf n 3 4 256 key32).tag + 1 } = true := by
  have e : KeySlot.key { slotOf n 3 4 256 key32 with tag := (slotOf n 3 4 256 key32).tag + 1 } = key32 := by
    have h : le (256 / 8) (leNat key32 ^^^ 0) = key32 := by decide +kernel
    simp only [KeySlot.key, slotOf]
    exact h
  unfold KeySlot.tagOk
  rw [e]
  simp [slotOf, slotTag]

theorem slice_tail (n : Nat) (h : Bytes) (e : h.length = 32) : slice (le 4 n ++ h) 4 32 = h := by
  have l : (le 4 n).length = 4 := by simp [le]
  rw [slice, List.drop_append_of_le_length (by omega), List.drop_of_length_le (by omega)]
  simp [← e]

theorem shaRound_length (h : List Nat) (kw : Nat × Nat) (e : h.length = 8) : (shaRound h kw).length = 8 := by
  unfold shaRound
  split
  · rfl
  · exact e

theorem shaRounds_length (l : List (Nat × Nat)) : ∀ h : List Nat, h.length = 8 → (l.foldl shaRound h).length = 8 := by
  induction l with
  | nil => exact fun _ e => e
  | cons x l ih => exact fun h e => ih _ (shaRound_length h x e)

theorem shaBlocks_length (n : Nat) : ∀ (h : List Nat) (p : Bytes), h.length = 8 → (shaBlocks n h p).length = 8 := by
  induction n with
  | zero => exact fun _ _ e => e
  | succ n ih =>
    intro h p e
    exact ih _ _ (by simp [shaBlock, e, shaRounds_length _ h e])

theorem be4_length (n : Nat) : (be 4 n).length = 4 := by simp [be, le]

theorem hmac_length (k d : Bytes) : (hmac k d).length = 32 := by
  have h : ∀ l : List Nat, (l.flatMap (be 4)).length = 4 * l.length := by
    intro l
    induction l with
    | nil => rfl
    | cons a l ih => simp only [List.flatMap_cons, List.length_append, ih, be4_length, List.length_cons]; omega
  simp only [hmac, sha256]
  rw [h, shaBlocks_length _ _ _ rfl]

/-- The token of a recorder clear under key 3 of this module. -/
def tokenOf (n : Bytes) : Bytes := hmac key32 (clearLabel ++ n ++ le 8 Config.serial.toNat)
def wNonce (n : Bytes) : State := { keyed w0 3 1 8 256 key32 with recorder.nonce := some (n, 0) }

theorem clear_passes (h : Bytes) (e : h.length = 32) :
    cardClearRecorder.passes ((wNonce (zeros 16)).advance 0) (cardClearRecorder.cmd (pkt 64 0 (le 4 3 ++ h))) = true := by
  match h, e with
  | [_, _, _, _, _, _, _, _, _, _, _, _, _, _, _, _, _, _, _, _, _, _, _, _, _, _, _, _, _, _, _, _], _ => with_unfolding_all rfl
def wPair : State := keyed { w0 with pair.st := .waiting } 3 3 4 256 key32

/-! ### Copies that come to a word -/

def peE : Eng := engOfKey false 543
def lsE : Eng := engOfKey true 63
/-- A copy at PC 0 of the area, with 32 bytes of CODE, 4 KB of DATA, one KB of INPUT and 32 words of OUTPUT. -/
def xRun : Exec :=
  { fi := 1, copy := 1, tick := 0, flags := 0, frozen := 0, wcic := 1000, cycle := 2, span := 1, pc := 0, ic := 0, log := [], exc := none,
    areas := { codeBytes := 32, dataBase := 32, dataBytes := 4096, inBase := 4128, inBytes := 1024, outBase := 6176, outWords := 32 } }
def regsOf (l : List (Nat × Word)) : PeRegs := { g := (List.range 32).map (fun i => ((l.find? (fun p => p.1 == i)).map (·.2)).getD 0) }
/-- The state in which the PE, or the LS, comes to the word with these registers and this copy. -/
def peAt (w : Nat) (r : PeRegs) (x : Exec) : State :=
  w0.setEng peE { phase := .running, mem := memWriteN [] 0 (le 4 w), pe := r, exec := some x }
def lsAt (w : Nat) (r : LsRegs) (x : Exec) : State :=
  w0.setEng lsE { phase := .running, mem := memWriteN [] 0 (le 2 w), lsr := r, exec := some x }
def peOk (w c : Nat) (r : PeRegs) (x : Exec) : Bool := (peAt w r x).readyB peE 4 w c x
def lsOk (w : Nat) (r : LsRegs) (x : Exec) : Bool := (lsAt w r x).readyB lsE 2 w 1 x


/-- The on-board management channel with a queued command of each kind, and the Ethernet channel. -/
def q0 : Queued := { arrival := 0, urgent := false, cmd := pkt 64 0 [] }
def qU : Queued := { arrival := 1, urgent := true, cmd := { pkt 64 0 [] with flags := 1 } }
def wQueue (q : List Queued) : State := { w0 with cmd.channels := [(64, { enabled := true, queue := q })] }
def wBound : State := { w0 with cmd.channels := [(65, { enabled := true })], cmd.ethPort := 8, cmd.ethMac := 2 }
def wEth : State := wBound.modPort 8 (fun q => { q with st := .up })
def mgmt (a b : Nat) : Bytes := be 6 2 ++ be 6 4 ++ be 2 etG5128 ++ le 1 a ++ le 1 b ++ zeros 44
def waiting : Accepted := { cmd := pkt 64 0 [], wait := .image, committed := true, result := some (0, 0, []) }
def wWait (a : Accepted) : State := { w0 with cmd.accepted := [a] }
def lostZ (s : State) : State := { s with cmd.mgmt := .lost }

/-- A copy whose engine loads it, alone or beside a copy that runs. -/
def cLoad : Copy := { c1 with st := .loading }
def cIn : Copy := { cLoad with codeIn := true }
def c2 : Copy := { c1 with eng := some { ls := false, cc := 1, no := 0 } }
def iOf (l : List Copy) : Inst := { i1 with copies := l }
def peN (no : Nat) : Eng := { ls := false, cc := 0, no := no }
def wEng (e : Engine) : State := w0.setEng (peN 0) e
def wSlow : State := wEng { canary := 1, lostSince := some 0 }

theorem opt_all {α : Type} {o : Option α} {P : α → Prop} [DecidablePred P] (h : o.all (fun x => decide (P x)) = true) :
    ∀ x, o = some x → P x := by
  intro x e
  subst e
  exact of_decide_eq_true h

/-- The value of a success, the given one otherwise. -/
def okOf {ε α : Type} (d : α) : Except ε α → α
  | .ok a => a
  | .error _ => d
def isOk {ε α : Type} : Except ε α → Bool
  | .ok _ => true
  | .error _ => false
theorem ok_of {ε α : Type} {x : Except ε α} {d : α} (h : isOk x = true) : x = .ok (okOf d x) := by
  cases x with
  | ok => rfl
  | error => exact Bool.noConfusion h

def isErr {ε α : Type} [DecidableEq ε] (e : ε) : Except ε α → Bool
  | .error f => decide (f = e)
  | .ok _ => false
theorem err_of {ε α : Type} [DecidableEq ε] {x : Except ε α} {e : ε} (h : isErr e x = true) : x = .error e := by
  cases x with
  | error f => exact congrArg _ (of_decide_eq_true h)
  | ok => exact Bool.noConfusion h

/-- An instance too big for any engine, and its PLACE command accepted. -/
def iLs : Inst := { i0 with kind := 1 }
def iBig : Inst := { iLs with codeBytes := 999936 }
def placing : Accepted := { cmd := pkt 64 0 [], wait := .place, committed := true, result := none }
def wBig : State := { wInst iBig with cmd.accepted := [placing] }

/-- A sampled-value frame of the test stream with smpCnt `cnt`, and the stream on a port that is up. -/
def tlv (t : Nat) (p : Bytes) : Bytes := le 1 t ++ le 1 p.length ++ p
def svAsdu (cnt : Nat) : Bytes :=
  tlv 0x30 (tlv 0x80 [0x41] ++ tlv 0x82 (be 2 cnt) ++ tlv 0x83 (be 4 1) ++ tlv 0x85 [2] ++ tlv 0x87 (be 4 5 ++ zeros 4))
def svApdu (cnt : Nat) : Bytes := tlv 0x60 (tlv 0x80 [1] ++ tlv 0xA2 (svAsdu cnt))
def svFrame (cnt : Nat) : Bytes :=
  padFrame (be 6 0 ++ be 6 1 ++ be 2 0x88BA ++ be 2 0x4000 ++ be 2 (8 + (svApdu cnt).length) ++ zeros 4 ++ svApdu cnt)
def upPort (s : State) (n : Nat) : State := s.modPort n (fun q => { q with st := .up })
def strR : Machine.Stream := { str0 with st := .running }
def strF : Machine.Stream := { strR with slots := [(1, { filed := some [(5, 0)] })] }
def strL : Machine.Stream := { strR with closedTo := 2 }
def wSv (x : Machine.Stream) : State := timed (upPort (wStr x) 0)


def late60 (s : State) : State := { s with horizon.pt := 2 ^ 80 }
def svPdu : IecPdu :=
  { appid := 0x4000, sim := false, apdu := svApdu 1, ext := [], body := (ethParse (svFrame 1)).payload.take (8 + (svApdu 1).length) }
def svOne : Asdu := { svid := [0x41], cnt := 1, rev := 1, synch := 2, data := be 4 5 ++ zeros 4 }
def strF0 : Machine.Stream := { strR with slots := [(0, { filed := some [(5, 0)] })] }
def ring0 : Ring := { cc := 0, depth := 4, addr := 0, bytes := 32, units := 1 }
def kIn (n : Nat) : Chain := { bank := 0, next := some n, started := true, needStart := false }
def wChain (x : Machine.Stream) : State := { wStr x with filter.chains := [(7, kIn 3)], place.rings := [(7, ring0)] }

/-- Protection time valid and in tick `n`. -/
def atTick (s : State) (n : Nat) : State := { timed s with horizon.pt := (n * qTick + 8) / 9 * 2 ^ 24 }
def pe1 : Eng := { ls := false, cc := 1, no := 0 }
def partOf (k : Nat) (e : Eng) : Part := { k := k, eng := e, areas := c1.areas, span := 1 }
def cyc (l : List (Option Posted)) (v : Option Verdict) : Machine.Cycle :=
  { tick := 2, ran := true, cyc := 1, image := 5, who := [partOf 1 (peN 0), partOf 2 pe1], displaced := [], imgCrc := 0, posts := l, verdict := v }
def post0 : Posted := { tick := 2, sig := 1, outCrc := 0, exc := none, outs := [] }
def noPosts : List (Option Posted) := [none, none, none]
def iRun : Inst := { i1 with run := .running }
def iCyc (c : Machine.Cycle) : Inst := { iRun with copies := [c1, c2], cycles := [c], cls := 1 }
def iSw : Inst := { iRun with firstNew := some 2, newOut := true }
def xTick : Exec := { xRun with tick := 2 }
/-- PE 0.0 with a copy in some phase, instance 1 in a cycle. -/
def wCopy (p : Phase) (x : Inst) : State := (wInst x).setEng (peN 0) { phase := p, exec := some xTick }

def gooseApdu : Bytes :=
  tlv 0x61 (tlv 0x80 [0x41] ++ tlv 0x81 [1] ++ tlv 0x82 [0x42] ++ tlv 0x83 [0x43] ++ tlv 0x84 (zeros 8) ++ tlv 0x85 [1] ++ tlv 0x86 [0] ++
    tlv 0x87 [0] ++ tlv 0x88 [1] ++ tlv 0x89 [0] ++ tlv 0x8A [0] ++ tlv 0xAB [])
def gooseFrame : Bytes :=
  padFrame (be 6 0x010CCD010001 ++ be 6 1 ++ be 2 etGoose ++ be 2 1 ++ be 2 (8 + gooseApdu.length) ++ zeros 4 ++ gooseApdu)
def goosePdu : IecPdu :=
  { appid := 1, sim := false, apdu := gooseApdu, ext := [], body := (ethParse gooseFrame).payload.take (8 + gooseApdu.length) }
def goose0 : Goose := { tal := 1, stNum := 1, sqNum := 0, sim := false, rev := 1, nds := false, n := 0, data := [] }
def wGoose (x : Subscription) : State := upPort (wSub x) 0
def subH : Subscription := { sub0 with st := .healthy, arrivals := [(0, 0)] }

def trig0 : Trig := { seq := 1, t := 0, sources := 1, start := 0, stop := 0, follow1 := false, tb0 := none, heldOff := 0 }
def runT : Run := { run0 with trig := some trig0 }
def recA : Recorder := { rec0 with st := .armed, run := some run0 }
def wClosing (s : State) : State := { s with cap.closing := [(1, 0)], cap.copies := [(1, 0)] }

/-- The results of a duplex or triplex instance whose copies have all posted. -/
def duo (a b : Posted) : Inst := iCyc (cyc [some a, some b, none] none)
def trio (a b c : Posted) : Inst := iCyc { cyc [some a, some b, some c] none with who := [partOf 1 (peN 0), partOf 2 pe1, partOf 3 { ls := false, cc := 2, no := 0 }] }
def post1 : Posted := { post0 with sig := 2 }
def wDuo : Inst := { duo post0 post0 with cmp := some (0, 0) }

def diag0 : Diag := { fi := 1, tick := 2, engs := [pe1, peN 0], due := 3, results := [(pe1, true)], good := none, cps := [], injected := false }
def wDiag (on : Bool) (n : Nat) : State :=
  { (atTick (wInst iRun) n).setEng (peN 0) { diagDue := some 3, diagOn := on } with anvil.diags := [diag0] }

/-- A paired module in a given state, link A up under the key, and a record of the partner. -/
def mac0 : MacKey := { cur := some key32 }
def pairUp (p : PairState) : State :=
  { upPort w0 0 with pair := { p with configured := true, linkA := 0, linkB := 4 }, keys.macsec := [(0, mac0)] }
def rx0 : PairRx := { link := 0, fseq := 1, idx := 0, key := key32, pn := 0 }
def taken (s : State) : State := ((s.advance 0).pairTake rx0).2
def pWait : PairState := { st := .waiting }
def pAlone : PairState := { st := .activeAlone, lastTickTx := some 2 }
def pStandby : PairState := { st := .standby }
/-- TB3 late in its range; Protection time 6 µs after tick boundary `n`. -/
def late3 (s : State) : State := { s with horizon.tb3 := 2 ^ 80 }
def after6 (s : State) (n : Nat) : State := late3 { timed s with horizon.pt := (n * qTick + 6000 * qNs + 8) / 9 * 2 ^ 24 }
def sh0 : ShadowResult := { tick := 1, held := false, sig := 1, outCrc := 2, imgCrc := 3 }
def pShadow : PairState := { pStandby with results := [(1, [sh0])], mirrorRx := some 5 }
def wShadow : State := pairUp pShadow
def wShadowI : State := { wShadow with place.insts := [(1, i1)] }
def mirrorOf (op : Nat) (p : Bytes) : Bytes := packet op 0 0 0 0 p
def mSysInfo : Bytes := mirrorOf 0x0101 (fields 4 [(0, 1, 1)])
def wShadowS : State := { wShadow with pub.subs := [(1, sub0)] }

/-- A device on ring A under the test schedule, TB2 at 0 or late in round 0. -/
def macRing : MacKey := { cur := some key32 }
def rg0 : StratusState := { cfg := some { stCfg with node := 2 }, st := .running, tables := [(7, sch)], version := 7, started := some 0, manager := 0 }
def wRing (r : Nat) (t : StratusState) : State :=
  { upPort w0 0 with boot.role := r, stratus := t, keys.macsec := [(macStratus 0 1, macRing)] }
def late2 (s : State) : State := { s with horizon.tb2 := 1000000 * 2 ^ 40 }
def rxS : StratusRx := { port := 0, from_ := 1, key := key32, pn := 0, tIn := 0, tOut := 0 }
def rxBad : StratusRx := { rxS with key := [] }
def openedS (s : State) : State := (((s.advance 0).openLink 0 rxS).getD w0)
/-- A poll frame of round 0 on lap 2 with one slot record, of a given epoch. -/
def poll (epoch : Nat) : Bytes :=
  fields 0x18 [(0x0C, 2, 7), (0x0E, 1, 1), (0x0F, 1, 1), (0x12, 1, 2), (0x14, 4, epoch)] ++ slotRecord 0 0 1 [{ value := 5, flags := 1 }]
def rgM : StratusState := { rg0 with polling := true, epoch := 2, nodeGone := [(1, 16)], nodeLast := [(1, [0, 0, 2])] }
def rgW : StratusState := { rgM with nodeLast := [(1, [0, 0, 0])] }
def msg0 : MgmtMsg := { dst := 1, mseq := 1, body := .ack, tries := 1, at_ := 0 }
def bind0 : SlotBind := { ageLimit := 1, signals := [9], values := [0], safes := [false], ages := [0], ever := [false], counters := [0, 0, 0, 0, 0] }
def rgC : StratusState := { rg0 with started := some 0, round := 1, binds := [(0, bind0)] }
def heldP : HeldPoll := { index := 0, ring := 0, pdu := poll 0 }

/-- Time base 0 in a given state with a selected master, its Sync and Announce messages, and pulse pins. -/
def tb (st : BaseSt) : PtpBase := { enable := true, ports := 1, st := st, selected := some (0, 5) }
def wTb (x : PtpBase) : State := { timed w0 with horizon.tb0 := x }
def syn0 : PtpSync := { domain := 0, vlan := 0, sender := 5, seq := 1, twoStep := false, corr := 0, origin := 0, logInt := 0 }
def ann0 : PtpAnnounce :=
  { domain := 0, vlan := 0, sender := 5, prio1 := 1, cls := 6, accuracy := 0, variance := 0, prio2 := 1, gmId := 1, steps := 0, ptpScale := true,
    utc := none, leap := 0, logInt := 0 }
def wLeap (n : Nat) : State := { late60 (timed w0) with horizon.utcFixed := true, horizon.leap := n }
def strOn (s : State) : State := { timed s with stratus.st := .running }
def pul (mode : Nat) : Pulse := { cfg := { mode := mode, base := 4, period := 1000 } }
def wPulse (x : Pulse) : State := { w0 with horizon.pulses := [(0, x)] }
def wTpi (x : Tpi) : State := { w0 with horizon.tpis := [(0, x)] }

/-- The clock unit with given sources. -/
def wClk (l : List ClkSource) (s : State) : State := { late3 s with clocks.srcs := l }
def xoQ : ClkSource := { st := .qualified }
def srcF : ClkSource := { st := .failed, edgeAt := some 0 }
def srcQ : ClkSource := { st := .qualifying }
def only (i : Nat) (x : ClkSource) : State := wClk ((List.range 4).map (fun j => if j = i then x else {})) w0
def two (x y : ClkSource) : State := wClk [x, y, {}, {}] w0
def srcT : ClkSource := { xoQ with ratios := [1000] }
def wSel (s : State) : State := { s with clocks.revertive := true, clocks.selected := some 1 }
def rails (s : State) : State := { s with place.begun := true }
theorem trips_all : ∀ i, i < 4 → (((only 0 srcT).advance 0).clk i).st ≠ .disabled → (((only 0 srcT).advance 0).clk i).st ≠ .absent →
    ((((only 0 srcT).advance 0).clk i).trips ([2000].getD i 0) (([] : List Int).getD i 0)) = true := by decide +kernel

/-- A plain frame, and ports 0 and 1 up in VLAN 1. -/
def plain : Bytes := be 6 2 ++ be 6 4 ++ be 2 0x0800 ++ zeros 46
def rxOk : Rx := { err := 0, frags := 0, fecFix := 0, fecBad := 0 }
def vlan1 (s : State) : State := { s with sw.vlans := [(1, (3, 3))] }
def both : State := vlan1 (upPort (upPort w0 0) 1)
/-- Port 0 with the port and switch settings changed. -/
def wPort (f : Port → Port) : State := late3 (w0.modPort 0 f)
def wSwp (f : SwPort → SwPort) : State := (upPort w0 0).modSwp 0 f
def fr0 : QFrame := { id := 1, bytes := plain ++ zeros 250, charge := 1, local_ := false, tc := 7, at_ := 0, ready := 0 }
def sq7 (p : SwPort) : SwPort := { p with queues := List.replicate 7 { reserved := 8 } ++ [{ reserved := 32, frames := [fr0] }] }
def wSend (k : Nat) : State := (wSwp sq7).modPort 0 (fun q => { q with thresh := k })
def wEnt (e : Entity) : State := { w0 with sw.entities := [(1, e)] }
def held0 : HeldFrame := { goose := false, port := 0, seq := 1, src := 7, bytes := plain, ta := 0, at_ := 0 }
def entH : Entity := { sources := [(7, {})], held := [held0], holdNs := 1 }
def verifying (p : Port) : Port := { p with st := .up, preempt := true, verify := .verifying }
def wI2c : State := { wWait waiting with i2c := [(0, { queue := [(64, 1)] })] }

/-- Virtual instance 0 with a given host interface; an outstanding read. -/
def wHif (h : Hif) : State := late3 { w0 with host.hifs := [(0, h)] }
def hifOn : Hif := { enable := true, cmdLog2 := 4, dlvLog2 := 4 }
def hifR : Hif := { resetting := true }
def read0 : HostRead := { tag := 1, gen := 0, at_ := 0, index := 0, desc := none, data := [] }
def hifRd (r : HostRead) : Hif := { hifOn with reads := [r] }
def wTu (s : State) : State := { s with host.tus := [(0, { mode := 2 })] }

/-- Virtual instance 0 with one window; the interrupt controller with given contents. -/
def win0 : Window := { enabled := true, log2 := 12, write := true }
def wWin (x : Window) : State := { w0 with host.windows := [(0, x)] }
def wIcu (i : IcuState) : State := late3 { w0 with icu := i }
def wSrc (n : Nat) (x : Source) : State := wIcu { sources := [(n, x)], inbox := [n] }
def core0 : Core := { stack := [(5, 1)], delivered := [5] }

/-- A key slot in service and out of service, and with bits flipped. -/
def kSrv : State := keyed w0 3 3 4 256 key32
def kTest : State := { kSrv with tap.instr := .extest }
theorem kSrv_slot : kSrv.slot 3 = slotOf 3 3 4 256 key32 := by
  simp [kSrv, State.slot, keyed, Tab.getD, Tab.get]
theorem kTest_whole : (kTest.slot 3).tagOk 3 = true := by
  have e : kTest.slot 3 = slotOf 3 3 4 256 key32 := kSrv_slot
  rw [e]
  exact slotOf_whole 3 3 4
theorem flipped {k : KeySlot} (h : k.word < 2 ^ 512) : { k with word := (k.word ^^^ 0) % 2 ^ 512 } = k := by
  rw [Nat.xor_zero, Nat.mod_eq_of_lt h]
theorem word_small (n : Nat) : (slotOf n 3 4 256 key32).word < 2 ^ 512 := by
  have h : leNat key32 < 2 ^ 512 := by decide +kernel
  exact h
theorem flip_none : KeySlot.tagOk 3 { kSrv.slot 3 with word := ((kSrv.slot 3).word ^^^ 0) % 2 ^ 512 } = true := by
  rw [kSrv_slot, flipped (word_small 3)]
  exact slotOf_whole 3 3 4
def tornSlot : KeySlot := { slotOf 3 3 4 256 key32 with tag := (slotOf 3 3 4 256 key32).tag + 1 }
def kTorn : State := { w0 with keys.slots := [(3, tornSlot)] }
theorem flip_torn : KeySlot.tagOk 3 { kTorn.slot 3 with word := ((kTorn.slot 3).word ^^^ 0) % 2 ^ 512 } = false := by
  have e : kTorn.slot 3 = tornSlot := by simp [kTorn, State.slot, Tab.getD, Tab.get]
  have h : tornSlot.word < 2 ^ 512 := word_small 3
  rw [e, flipped h]
  exact Bool.eq_false_iff.mpr (torn_tag 3)
def wMac (k : MacKey) : State := late3 { w0 with keys.macsec := [(0, k)] }

/-- The event queue, supplies, binary inputs and UART 1. -/
def ev0 : Event := { code := 1, tb0Valid := false, tb0Hold := false, tb0 := 0, tb3Ns := 0, data := [] }
def wRecd (r : RecorderState) : State := late3 { w0 with recorder := r }
def noPower (s : State) : State := { s with power.supply := .off }
def uart1 : Uart := { enable := true }
def wUart (u : Uart) : State := { w0 with serial.uarts := [uart1, u, {}, {}], serial.frame := { open_ := true } }
def wBin (x : BinIn) : State := late3 { w0 with serial.ins := [(1, x)] }
def binN : BinIn := { st := .normal, debounce := 1 }
def scan0 : BootScan := { straps := 0, badA := false, badB := false, record := 0 }
def pinLow (s : State) : State := { s with boot.resetPin := false }
def find0 : BootFindings :=
  { pes := [], lss := [], cmps := [], clusters := [], fatal := 0, rows := 0, xo := true, slots := [], records := [], cells := [], msAuth := 0,
    msReady := 0, msSelf := 0 }
def resetting : State := late3 { w0 with cmd.resetDue := some (0, false) }
def warned : State := { w0 with power.supply := .warning }
def full : RecorderState := { queue := List.replicate 1024 ev0 }

/-! ### The checks of WellFormed refuse -/

theorem test_channel_68_is_refused : (pkt 68 0 []).wf = false := by decide
theorem test_wide_tag_is_refused : ({ pkt 64 0 [] with tag := 65536 } : Cmd).wf = false := by decide
theorem test_wide_opcode_is_refused : ({ pkt 64 0 [] with opcode := 65536 } : Cmd).wf = false := by decide
theorem test_half_word_is_refused : (pkt 64 0 [0, 0]).wf = false := by decide
theorem test_long_packet_is_refused : (pkt 64 0 (zeros 4100)).wf = false := by decide +kernel
theorem test_plain_packet_is_well_formed : (pkt 64 0 (zeros 4)).wf = true := by decide

/-! ### Results worked out outside the model -/

/-- The check value of CRC-32C over the digits 1 to 9 (RFC 3720 form, 02 R35). -/
theorem test_crc32c : crc32c (ascii [0x31, 0x32, 0x33, 0x34, 0x35, 0x36, 0x37, 0x38, 0x39]) = 0xE3069283 := by decide +kernel

/-- SHA-256 of the letters a, b, c (FIPS 180-4). -/
theorem test_sha256 : beNat (sha256 (ascii [0x61, 0x62, 0x63])) =
    0xBA7816BF8F01CFEA414140DE5DAE2223B00361A396177A9CB410FF61F20015AD := by decide +kernel

/-- AES-128 (FIPS 197, C.1). -/
theorem test_aes128 : beNat (aesEncrypt (be 16 0x000102030405060708090A0B0C0D0E0F) (be 16 0x00112233445566778899AABBCCDDEEFF)) =
    0x69C4E0D86A7B0430D8CDB78070B4C55A := by decide +kernel

/-- AES-256 (FIPS 197, C.3). -/
theorem test_aes256 : beNat (aesEncrypt (be 32 0x000102030405060708090A0B0C0D0E0F101112131415161718191A1B1C1D1E1F)
    (be 16 0x00112233445566778899AABBCCDDEEFF)) = 0x8EA2B7CA516745BFEAFC49904B496089 := by decide +kernel

/-- Bank 1, the 3-tap bank (05 R125). -/
theorem test_three_tap_bank : (romBank 1).taps = [0x100000, 0x200000, 0x100000] := by decide +kernel

/-- The schedule of 24 entries of 8 signals in the worked example of 13: 13 records in frame 0, PDUs of 1 408 and 816 bytes,
TRAIN 956.48 ns, D2 7.000 µs and T_COMMIT 16.413 µs with 7 devices and LINK_DELAY 250 ns. -/
def tarnmoor : Bytes :=
  fields 0x20 [(0, 2, 1), (2, 1, 3), (0x14, 4, 0x3F), (0x18, 2, 24)] ++ (List.replicate 24 (fields 20 [(0, 1, 2), (1, 1, 8)])).flatten

theorem test_schedule_frames : (schFrames tarnmoor).map (fun f => (f.length, pduBytes (schEntries tarnmoor) (if f.head? = some 0 then 0 else 1) f)) =
    [(13, 1408), (11, 816)] := by decide +kernel
theorem test_schedule_train : trainTo tarnmoor 2 = 95648 := by decide +kernel
theorem test_schedule_commit : d2 tarnmoor 7 250 = 700000 ∧ tCommit tarnmoor 7 250 = 1641296 := by decide +kernel

/-- Retransmissions of PUB 1 in the worked example of 09: I_j in cycles, timeAllowedtoLive 2, 4, 8, 16 and 2 000 ms. -/
def pubT : Publication := { pub0 with minI := 96, maxI := 96000 }
theorem test_goose_intervals : [0, 1, 2, 3, 10, 11].map pubT.interval = [96, 192, 384, 768, 96000, 96000] ∧
    [0, 1, 2, 3, 10].map (fun j => ({ pubT with j := j } : Publication).tal 1) = [2, 4, 8, 16, 2000] := by decide +kernel

/-- The preemptable frame before the express window in the worked example of 17: with 150 ns to the close at 10 Gb/s a
1 518-byte frame stops after 160 bytes; with 50 ns it does not start. -/
def gateT : GateList := { enable := true, cycle := 1, entries := [(0xFF, 150), (0x80, 10000)] }
def frT (n : Nat) : QFrame := { id := 1, bytes := zeros n, charge := 6, local_ := false, tc := 2, at_ := 0, ready := 0 }
def wGate : State :=
  (wPort (fun p => { p with st := .up, phy := 3, preempt := true, verify := .active })).modSwp 0 (fun p => { p with gate := gateT })
theorem test_fragment : wGate.fits 0 (frT 1514) 0 = some 160 ∧ wGate.fits 0 (frT 1514) (100 * qNs) = none := by decide +kernel

/-- BUSY_RETRY DETAIL 10 doubles to 640 (02 R51). -/
theorem test_busy_retry : (List.range 8).map (fun k => cardReset.check { w0 with
    cmd.busy := true, cmd.channels := [(64, { enabled := true, busyK := k })] } (pkt 64 0 [])) =
    [10, 20, 40, 80, 160, 320, 640, 640].map (fun d => some (0x0100, d)) := by decide +kernel

/-- The position series of R132 and the numbers of 04: D 31.25 µs puts position 0 on tick 3 and its cutoff at 29.25 µs. -/
theorem test_cutoff : ({ str0 with d := some 31250 } : Machine.Stream).boundary 0 = 3 * qTick ∧
    ({ str0 with d := some 31250 } : Machine.Stream).cutoff 0 = 29250 * qNs := by decide +kernel

/-- An empty queue idles one period; a queued command runs and leaves the queue. -/
theorem test_idle : step w0 = .next (w0.advance 1) := rfl
theorem test_front_runs : (match step { w0 with pending := [.pcieLinkDown 0, .perst 0] } with
    | .next t => t.pending
    | _ => []) = [.perst 0] := by decide +kernel

/-! ### The hypotheses of the statements are met -/

/-- The hypotheses of `Obligations.IdleStepPassesOnePeriod` are met. -/
theorem witness_IdleStepPassesOnePeriod :
  (let s : State := w0;
    s.pending = []) := by
  decide +kernel

/-- The hypotheses of `Obligations.FirstFailingCheckDecides` are met. -/
theorem witness_FirstFailingCheckDecides :
  (let kf := (cardReset, Instr.reset);
    let dt : Nat := 0;
    let c : Cmd := { pkt 64 0 [] with flags := 8 };
    let s : State := w0;
    let k := kf.1;
    let s1 := s.advance dt;
    let flagsOk := c.flags / 8 = 0 ∧ (c.urgent = true → k.urgent = true);
    s1.zenithUp = true ∧ s.boot.phase = .ready ∧ s.cmd.after = none ∧ c.own = true ∧ c.flags < 256 ∧ (¬ flagsOk)) ∧
  (let kf := (cardReset, Instr.reset);
    let dt : Nat := 0;
    let c : Cmd := pkt 64 0 [];
    let s : State := { w0 with cmd.busy := true };
    let k := kf.1;
    let s1 := s.advance dt;
    let flagsOk := c.flags / 8 = 0 ∧ (c.urgent = true → k.urgent = true);
    let notBusy := s.cmd.busy = false ∨ c.urgent = true;
    s1.zenithUp = true ∧ s.boot.phase = .ready ∧ s.cmd.after = none ∧ c.own = true ∧ c.flags < 256 ∧ flagsOk ∧ (¬ notBusy)) ∧
  (let kf := (cardReset, Instr.reset);
    let dt : Nat := 0;
    let c : Cmd := pkt 0 1 [];
    let s : State := w0;
    let k := kf.1;
    let s1 := s.advance dt;
    let flagsOk := c.flags / 8 = 0 ∧ (c.urgent = true → k.urgent = true);
    let notBusy := s.cmd.busy = false ∨ c.urgent = true;
    s1.zenithUp = true ∧ s.boot.phase = .ready ∧ s.cmd.after = none ∧ c.own = true ∧ c.flags < 256 ∧ flagsOk ∧ notBusy ∧ k.level = .m ∧ c.inst ≠ 0) ∧
  (let kf := (cardDeclareInstance, Instr.declareInstance);
    let dt : Nat := 0;
    let c : Cmd := pkt 64 64 [];
    let s : State := w0;
    let k := kf.1;
    let s1 := s.advance dt;
    let flagsOk := c.flags / 8 = 0 ∧ (c.urgent = true → k.urgent = true);
    let notBusy := s.cmd.busy = false ∨ c.urgent = true;
    s1.zenithUp = true ∧ s.boot.phase = .ready ∧ s.cmd.after = none ∧ c.own = true ∧ c.flags < 256 ∧ flagsOk ∧ notBusy ∧ k.level = .o ∧ c.inst ≠ 0 ∧ ((c.inst ≥ 64 ∨ ∃ o, k.owner s1 c.params = some o ∧ o ≠ c.inst))) ∧
  (let kf := (cardReset, Instr.reset);
    let dt : Nat := 0;
    let c : Cmd := pkt 64 0 [];
    let s : State := w0;
    let k := kf.1;
    let s1 := s.advance dt;
    let d := k.cmd c;
    let flagsOk := c.flags / 8 = 0 ∧ (c.urgent = true → k.urgent = true);
    let notBusy := s.cmd.busy = false ∨ c.urgent = true;
    s1.zenithUp = true ∧ s.boot.phase = .ready ∧ s.cmd.after = none ∧ c.own = true ∧ c.flags < 256 ∧ flagsOk ∧ notBusy ∧ k.allowed s1 d = true ∧
    let n := 1;
    k.len.bad d = some n) ∧
  (let kf := (cardReset, Instr.reset);
    let dt : Nat := 0;
    let c : Cmd := { pkt 64 0 (fields 4 [(0, 1, 1)]) with replyLimit := 0 };
    let s : State := w0;
    let k := kf.1;
    let s1 := s.advance dt;
    let d := k.cmd c;
    let flagsOk := c.flags / 8 = 0 ∧ (c.urgent = true → k.urgent = true);
    let notBusy := s.cmd.busy = false ∨ c.urgent = true;
    s1.zenithUp = true ∧ s.boot.phase = .ready ∧ s.cmd.after = none ∧ c.own = true ∧ c.flags < 256 ∧ flagsOk ∧ notBusy ∧ k.allowed s1 d = true ∧ k.len.bad d = none ∧ k.most s1 d > c.replyLimit) ∧
  (let kf := (cardReset, Instr.reset);
    let dt : Nat := 0;
    let c : Cmd := pkt 64 0 (fields 4 [(1, 1, 2)]);
    let s : State := w0;
    let k := kf.1;
    let s1 := s.advance dt;
    let d := k.cmd c;
    let flagsOk := c.flags / 8 = 0 ∧ (c.urgent = true → k.urgent = true);
    let notBusy := s.cmd.busy = false ∨ c.urgent = true;
    s1.zenithUp = true ∧ s.boot.phase = .ready ∧ s.cmd.after = none ∧ c.own = true ∧ c.flags < 256 ∧ flagsOk ∧ notBusy ∧ k.allowed s1 d = true ∧ k.len.bad d = none ∧ k.most s1 d ≤ c.replyLimit ∧
    let n := 1;
    k.reserved c.params = some n) ∧
  (let kf := (cardReset, Instr.reset);
    let dt : Nat := 0;
    let c : Cmd := pkt 64 0 (fields 4 [(0, 1, 3)]);
    let s : State := w0;
    let k := kf.1;
    let s1 := s.advance dt;
    let d := k.cmd c;
    let flagsOk := c.flags / 8 = 0 ∧ (c.urgent = true → k.urgent = true);
    let notBusy := s.cmd.busy = false ∨ c.urgent = true;
    s1.zenithUp = true ∧ s.boot.phase = .ready ∧ s.cmd.after = none ∧ c.own = true ∧ c.flags < 256 ∧ flagsOk ∧ notBusy ∧ k.allowed s1 d = true ∧ k.len.bad d = none ∧ k.most s1 d ≤ c.replyLimit ∧ k.reserved c.params = none ∧
    let n := 0;
    k.params s1 d = some n) := by
  repeat' with_reducible apply And.intro
  all_goals decide +kernel

/-- The hypotheses of `Obligations.ReplyPacketLayout` are met. -/
theorem witness_ReplyPacketLayout :
  (let c : Cmd := pkt 64 0 [];
    let status : Nat := 0x202;
    let detail : Nat := 65535;
    let data : Bytes := [1];
    c.wf = true ∧ c.own = true ∧ status < 2 ^ 16 ∧ detail < 2 ^ 16 ∧ data.length ≤ 4072) := by
  repeat' with_reducible apply And.intro
  all_goals decide +kernel

/-- The hypotheses of `Obligations.CompletingReplyFrame` are met. -/
theorem witness_CompletingReplyFrame :
  (let c : Cmd := pkt 64 0 [];
    c.own = true ∧
    let n := 65;
    n ≠ c.chan) ∧
  (let c : Cmd := pkt 64 0 [];
    c.own = true ∧ c.chan ≥ 64) := by
  repeat' with_reducible apply And.intro
  all_goals decide +kernel

/-- The hypotheses of `Obligations.SystemCommandsComplete` are met. -/
theorem witness_SystemCommandsComplete :
  (
  Met cardGetIdentity (fun _ _ => True)
    w0 (pkt 64 0 []) ∧
  Met cardGetStatus (fun _ _ => True)
    w0 (pkt 64 0 []) ∧
  Met cardGetFirmwareInfo (fun _ _ => True)
    w0 (pkt 64 0 []) ∧
  Met cardEcho (fun _ _ => True)
    w0 (pkt 64 0 []) ∧
  Met cardGetZenithLoad (fun _ _ => True)
    w0 (pkt 64 0 []) ∧
  (Met cardReset (fun s c => byteAt c.params 0 = 2 ∧ (bit (byteAt c.params 1) 0 = true ∨ s.moduleState ≠ 2))
    w0 (pkt 64 0 (fields 4 [(0, 1, 2), (2, 2, 0x5128)])) ∧
  Met cardSetChannel (fun s c => byteAt c.params 0 = 1 → s.linkPort (u16 c.params 4) = false)
    w0 (pkt 64 0 (fields 16 [(0, 1, 1), (2, 1, 1), (4, 2, 8), (8, 1, 2)])))) ∧
  (
  (let image (c : Cmd) : Bool := byteAt c.params 0 == 1
   let stored (s : State) (c : Cmd) : State := s.storeChunk (image c) (u32 c.params 8) (u32 c.params 4) (c.params.drop 12)
   let slot (s : State) (c : Cmd) : FwSlot := (stored s c).boot.slot (image c)
   let bytes (s : State) (c : Cmd) : Bytes := memReadN (slot s c).chunks 0 (slot s c).total
   let free (s : State) (c : Cmd) : Prop := s.runs (image c) = false ∧ s.power.supply ≠ .warning
   Met cardWriteFirmware (fun s c => free s c ∧ (slot s c).writing = true)
    w0 (pkt 64 0 (fields 16 [(0, 1, 1), (8, 4, 1000)])) ∧
   Met cardWriteFirmware (fun s c => free s c ∧ (slot s c).writing = false ∧ fwVerdict (bytes s c) = 1)
    w0 (pkt 64 0 (fields 176 [(0, 1, 1), (4, 4, 0), (8, 4, 164)])) ∧
   Met cardWriteFirmware (fun s c => s.runs (image c) = true)
    w0 (pkt 64 0 (fields 176 [(0, 1, 0), (4, 4, 0), (8, 4, 164)])) ∧
   Met cardWriteFirmware (fun s c => s.runs (image c) = false ∧ s.power.supply = .warning)
    ({ w0 with power.supply := .warning }) (pkt 64 0 (fields 176 [(0, 1, 1), (4, 4, 0), (8, 4, 164)])) ∧
   Met cardSelectImage (fun s c => (s.boot.slot (image c)).valid = true)
    w0 (pkt 64 0 (fields 4 [(0, 1, 0)])) ∧
   Met cardSelectImage (fun s c => (s.boot.slot (image c)).valid = false)
    w0 (pkt 64 0 (fields 4 [(0, 1, 1)])) ) ∧
  Met cardConfirmImage (fun s _ => s.boot.record.trial = true ∧ s.runs s.boot.record.next = true)
    ({ w0 with boot.record := { next := false, trial := true } }) (pkt 64 0 []) ∧
  Met cardConfirmImage (fun s _ => s.boot.record.trial = false ∨ s.runs s.boot.record.next = false)
    w0 (pkt 64 0 []) ∧
  Met cardGetBootReport (fun _ _ => True)
    w0 (pkt 64 0 []) ) := by
  repeat' with_reducible apply And.intro
  all_goals refine ⟨by decide +kernel, ?_⟩
  all_goals try dsimp only
  all_goals first
    | exact True.intro
    | decide +kernel

/-- The hypotheses of `Obligations.ZenithRestartAnswers` are met. -/
theorem witness_ZenithRestartAnswers :
  (let dt : Nat := 0;
    let c : Cmd := pkt 64 0 (fields 4 [(0, 1, 1), (2, 2, 0x5128)]);
    let s : State := w0;
    let s1 := s.advance dt;
    let d := cardReset.cmd c;
    cardReset.passes s1 d = true ∧ c.own = true ∧ byteAt c.params 0 = 1) ∧
  (let dt : Nat := 0;
    let core : Nat := 3;
    let s : State := w0;
    let s1 := s.advance dt;
    let recent := s.cmd.expiries.filter (fun x => decide (tDiff s1.tb3 x < 60000000000 * 2 ^ 40));
    s.boot.phase = .ready ∧ core < 4 ∧ s.cmd.mgmt = .running ∧ recent.length < 2) ∧
  (let dt : Nat := 0;
    let core : Nat := 3;
    let s : State := { w0 with cmd.expiries := [0, 0] };
    let s1 := s.advance dt;
    let recent := s.cmd.expiries.filter (fun x => decide (tDiff s1.tb3 x < 60000000000 * 2 ^ 40));
    s.boot.phase = .ready ∧ core < 4 ∧ ((s.cmd.mgmt = .running ∧ recent.length ≥ 2 ∨ s.cmd.mgmt = .restarting))) ∧
  (let s : State := { w0 with cmd.mgmt := .restarting };
    s.cmd.mgmt = .restarting) ∧
  (let s : State := w0;
    s.cmd.mgmt ≠ .restarting) := by
  repeat' with_reducible apply And.intro
  all_goals decide +kernel

/-- The hypotheses of `Obligations.PacketsQueueAndStartInOrder` are met. -/
theorem witness_PacketsQueueAndStartInOrder :
  (let dt : Nat := 0;
    let chan : Nat := 64;
    let pkt : Bytes := packet 0x0101 4 0 0 1 [];
    let replyTo : Nat := 0;
    let replyBytes : Nat := 1020;
    let index : Nat := 0;
    let user : Nat := 0;
    let s : State := w0;
    let s1 := s.advance dt;
    let v : Via := { replyTo := replyTo, replyBytes := replyBytes, index := index, user := user };
    let ch := s1.chan chan;
    let c := s1.parsed chan v pkt;
    let diff := ch.last.map (fun h => sdiff 32 c.seq (u32 h 8));
    s1.channelOpen chan = true ∧ chan ≤ 65 ∧ ((chan < 64 → (s1.hif chan).enable = true)) ∧ s.cmd.mgmt = .running ∧ 16 ≤ pkt.length ∧ crc16 (pkt.take 14) = u16 pkt 14 ∧ badPacket chan pkt = none ∧ c.inst = ch.binding ∧ ((∀ x, diff = some x → x > 0)) ∧ ch.room c.urgent = true) ∧
  (let dt : Nat := 0;
    let chan : Nat := 64;
    let pkt : Bytes := zeros 15 ++ [1];
    let s : State := w0;
    let s1 := s.advance dt;
    s1.channelOpen chan = true ∧ 64 ≤ chan ∧ chan ≤ 65 ∧ crc16 (pkt.take 14) ≠ u16 pkt 14) ∧
  (let dt : Nat := 0;
    let port : Nat := 8;
    let frame : Bytes := mgmt 1 1;
    let s : State := wEth;
    let s1 := s.advance dt;
    let e := ethParse frame;
    s1.channelOpen 65 = true ∧ s1.portUp port = true ∧ s1.mgmtMatches port e = true ∧ byteAt e.payload 0 = 1 ∧ byteAt e.payload 1 = 1) ∧
  (let dt : Nat := 0;
    let port : Nat := 8;
    let frame : Bytes := mgmt 1 2;
    let s : State := wEth;
    let s1 := s.advance dt;
    let e := ethParse frame;
    s1.channelOpen 65 = true ∧ s1.portUp port = true ∧ s1.mgmtMatches port e = true ∧ (byteAt e.payload 0 ≠ 1 ∨ byteAt e.payload 1 ≠ 1)) ∧
  (let s : State := wQueue [q0, qU];
    let q : Queued := qU;
    s.zenithUp = true ∧ q.urgent = true ∧ (∃ e ∈ s.cmd.channels, q ∈ e.2.queue) ∧ ((∀ e ∈ s.cmd.channels, ∀ x ∈ e.2.queue, x.urgent = true → x = q ∨ q.arrival < x.arrival))) ∧
  (let s : State := wQueue [q0];
    let i : Nat := 64;
    let q : Queued := q0;
    let rest : List Queued := [];
    let n := (s.cmd.rrNext + i) % 66;
    s.zenithUp = true ∧ (∀ e ∈ s.cmd.channels, ∀ x ∈ e.2.queue, x.urgent = false) ∧ i < 66 ∧ ((∀ j, j < i → (s.chan ((s.cmd.rrNext + j) % 66)).queue = [] ∨ s.unanswered ((s.cmd.rrNext + j) % 66) = true)) ∧ s.unanswered n = false ∧ (s.chan n).queue = q :: rest ∧ q.urgent = false ∧ q.cmd.chan = n) ∧
  (let c : Cmd := pkt 64 0 [];
    c.chan ≤ 65) := by
  repeat' with_reducible apply And.intro
  all_goals decide +kernel

/-- The hypotheses of `Obligations.LoadDecidesBusy` are met. -/
theorem witness_LoadDecidesBusy :
  (let load : Nat := 10000;
    let s : State := w0;
    s.zenithUp = true ∧ load ≤ 10000) := by
  repeat' with_reducible apply And.intro
  all_goals decide +kernel

/-- The hypotheses of `Obligations.CompletionReportEndsCommand` are met. -/
theorem witness_CompletionReportEndsCommand :
  (let chan : Nat := 64;
    let seq : Nat := 1;
    let s : State := wWait waiting;
    s.zenithUp = true ∧ s.stratus.activation = none ∧ s.pair.switchTick = none ∧
    let a : Accepted := waiting;
    let status : Nat := 0;
    let detail : Nat := 0;
    let data : Bytes := [];
    s.cmd.accepted.find? (fun x => x.cmd.chan == chan && x.cmd.seq == seq) = some a ∧ a.result = some (status, detail, data) ∧ a.wait ≠ .place ∧ a.wait ≠ .segment ∧ ((a.committed = true ∨ status ≠ stOk))) ∧
  (let chan : Nat := 64;
    let seq : Nat := 2;
    let s : State := wWait waiting;
    s.zenithUp = true ∧ s.stratus.activation = none ∧ s.pair.switchTick = none ∧ s.cmd.accepted.find? (fun x => x.cmd.chan == chan && x.cmd.seq == seq) = none) := by
  repeat' with_reducible apply And.intro
  all_goals decide +kernel

/-- The hypotheses of `Obligations.PlacementCommandsComplete` are met. -/
theorem witness_PlacementCommandsComplete :
  let free (s : State) (c : Cmd) : Prop :=
    (s.boot.role ≠ 2 ∨ 65 < c.chan) ∧ s.place.placing = false ∧ s.prog.change.st = .none
  let declared (s : State) (c : Cmd) : Inst :=
    { owner := c.inst, cls := byteAt c.params 2, cycle := byteAt c.params 3, phaseDecl := byteAt c.params 4,
      kind := byteAt c.params 5, shedPrio := u16 c.params 6, image := u32 c.params 8, wcic := u32 c.params 0x0C,
      codeBytes := u32 c.params 0x10, dataBytes := u32 c.params 0x14, imageBytes := u32 c.params 0x18,
      nodeMask := u32 c.params 0x1C,
      channels := (List.range (u16 c.params 0x20)).map (fun i => u16 c.params (0x24 + 2 * i)), declNo := s.place.nextDecl }
  Met cardDeclareInstance (fun s c => free s c ∧ s.boot.role ≠ 1 ∧ s.place.insts.get (u16 c.params 0) = none ∧
      (∀ ch ∈ (declared s c).channels, s.ingest.chanOf.has ch = true) ∧ (s.image (u32 c.params 8)).isSome = true ∧
      declareDiffers c.params (s.imageD (u32 c.params 8)) = none ∧
      u32 c.params 0x0C ≤ wcicLimit (byteAt c.params 5 == 1) s.place.point (byteAt c.params 3) ∧
      u32 c.params 0x10 + u32 c.params 0x14 + u32 c.params 0x18 ≤ (if byteAt c.params 5 = 1 then 30720 else 155648))
    wImg (pkt 64 0 (fields 36 [(0, 2, 1), (2, 1, 0), (3, 1, 2), (4, 1, 0), (5, 1, 0), (8, 4, 5), (12, 4, 100), (16, 4, 32), (20, 4, 64), (24, 4, 128), (32, 2, 0)])) ∧
  Met cardDeclareInstance (fun s c => free s c ∧ (s.place.insts.get (u16 c.params 0)).isSome = true)
    (wInst i0) (pkt 64 0 (fields 36 [(0, 2, 1), (2, 1, 0), (3, 1, 2), (4, 1, 0), (5, 1, 0), (8, 4, 5), (12, 4, 100), (16, 4, 32), (20, 4, 64), (24, 4, 128), (32, 2, 0)])) ∧
  Met cardRemoveInstance (fun s c => free s c ∧ ∃ x, s.inst (u16 c.params 0) = some x ∧ x.isRunning = false ∧ x.place ≠ .assigned)
    (wInst i0) (pkt 64 0 (fields 4 [(0, 2, 1)])) ∧
  Met cardRemoveInstance (fun s c => free s c ∧ ∃ x, s.inst (u16 c.params 0) = some x ∧ x.isRunning = true)
    (wInst { i1 with run := .running }) (pkt 64 0 (fields 4 [(0, 2, 1)])) ∧
  Met cardPlace (fun s c => free s c ∧ s.boot.role ≠ 1)
    w0 (pkt 64 0 []) ∧
  Met cardPlace (fun s c => (s.boot.role ≠ 2 ∨ 65 < c.chan) ∧ s.place.placing = true)
    ({ w0 with place.placing := true }) (pkt 64 0 []) ∧
  Met cardSetPlacementLimits (fun s c => free s c ∧
      (byteAt c.params 0 = s.place.point ∨ ∀ p ∈ s.place.insts, p.2.isPlaced = false) ∧
      ∀ e ∈ allEngs false, 12 ≤ e.no → e.no < 16 → 16 - byteAt c.params 1 ≤ e.no →
        (s.eng e).st = .spare ∨ s.copiesOn e = [])
    w0 (pkt 64 0 (fields 4 [])) ∧
  Met cardGetPlacement (fun s c => (s.inst (u16 c.params 0)).isSome = true)
    (wInst i1) (pkt 64 0 (fields 4 [(0, 2, 1)])) ∧
  Met cardGetEngine (fun _ _ => True)
    w0 (pkt 64 0 (fields 4 [])) ∧
  Met cardGetPlacementLimits (fun _ _ => True)
    w0 (pkt 64 0 []) ∧
  Met cardGetCluster (fun _ _ => True)
    w0 (pkt 64 0 (fields 4 [])) := by
  repeat' with_reducible apply And.intro
  all_goals refine ⟨by decide +kernel, ?_⟩
  all_goals try dsimp only
  all_goals first
    | exact True.intro
    | decide +kernel

/-- The hypotheses of `Obligations.PlacementAndEngineFaults` are met. -/
theorem witness_PlacementAndEngineFaults :
  (let s : State := wInst iLs;
    let t : State := okOf w0 ((wInst iLs).placeAll [1]);
    let l : List Nat := [1];
    s.placeAll l = .ok t ∧
    let fi := 1;
    fi ∈ l ∧
    let x := iLs;
    s.inst fi = some x) ∧
  (let s : State := wBig;
    let l : List Nat := [1];
    let fi : Nat := 1;
    let r : Nat := 2;
    s.placeAll l = .error (fi, r)) ∧
  (let dt : Nat := 0;
    let chan : Nat := 64;
    let seq : Nat := 1;
    let fi : Nat := 1;
    let r : Nat := 2;
    let s : State := wBig;
    let a : Accepted := placing;
    let s1 := s.advance dt;
    let s2 := { s1 with origin := a.cmd.inst, place.placing := false };
    s.zenithUp = true ∧ s.boot.role ≠ 1 ∧ s.stratus.activation = none ∧ s.pair.switchTick = none ∧ s.cmd.accepted.find? (fun x => x.cmd.chan == chan && x.cmd.seq == seq) = some a ∧ a.wait = .place ∧ a.result = none ∧ s2.placeAll s2.pendingPlace = .error (fi, r)) ∧
  (let cc : Nat := 0;
    let no : Nat := 16;
    let s : State := lostZ w0;
    let e : Eng := { ls := false, cc := cc, no := no };
    cc < 32 ∧ no < 17 ∧ (s.eng e).st ≠ .failed ∧ s.cmd.mgmt = .lost) ∧
  (let cc : Nat := 31;
    let no : Nat := 1;
    let ls : Bool := true;
    let s : State := w0.setEng { ls := true, cc := 31, no := 1 } { st := .failed };
    cc < 32 ∧ no < (if ls then 2 else 17) ∧ (s.eng { ls := ls, cc := cc, no := no }).st = .failed) ∧
  (let fi : Nat := 1;
    let k : Nat := 1;
    let s : State := wInst (iOf [cLoad]);
    let x : Inst := iOf [cLoad];
    let c : Copy := cLoad;
    let e : Eng := peN 0;
    s.inst fi = some x ∧ x.copy k = some c ∧ c.eng = some e ∧ c.st = .loading ∧ c.codeIn = false) ∧
  (let fi : Nat := 1;
    let k : Nat := 1;
    let s : State := wInst (iOf [cIn]);
    let x : Inst := iOf [cIn];
    let c : Copy := cIn;
    s.inst fi = some x ∧ x.copy k = some c ∧ c.eng.isSome = true ∧ c.st = .loading ∧ c.codeIn = true ∧ s.survivors x k = []) ∧
  (let fi : Nat := 1;
    let k : Nat := 1;
    let s : State := wInst (iOf [cIn, c2]);
    let x : Inst := iOf [cIn, c2];
    let c : Copy := cIn;
    s.inst fi = some x ∧ x.copy k = some c ∧ c.eng.isSome = true ∧ c.st = .loading ∧ c.codeIn = true ∧
    let j := 2;
    let d := c2;
    let rest := [];
    s.survivors x k = j :: rest ∧ x.copy j = some d ∧ s.copyBusy fi d = false) ∧
  (let ls : Bool := false;
    let cc : Nat := 0;
    let no : Nat := 0;
    cc < 32 ∧ no < (if ls then 2 else 17)) ∧
  (let dt : Nat := 0;
    let cc : Nat := 0;
    let no : Nat := 0;
    let ls : Bool := false;
    let s : State := { wSlow with power.ceilAt := [some 0], horizon.tb3 := 2 ^ 60 };
    cc < 32 ∧ no < (if ls then 2 else 17) ∧
    let e : Eng := { ls := ls, cc := cc, no := no };
    let s1 := s.advance dt;
    (s.eng e).st = .inService ∧ (s.eng e).lostSince.isSome = true ∧
    let t0 := 0;
    s.power.ceilAt.getD (cc / 8) none = some t0 ∧ s1.tb3Passed t0 1000 = true) ∧
  (let dt : Nat := 0;
    let cc : Nat := 0;
    let no : Nat := 0;
    let ls : Bool := false;
    let s : State := { wSlow with power.ceilAt := [some 0] };
    cc < 32 ∧ no < (if ls then 2 else 17) ∧
    let e : Eng := { ls := ls, cc := cc, no := no };
    let s1 := s.advance dt;
    (s.eng e).st = .inService ∧ (s.eng e).lostSince.isSome = true ∧
    let t0 := 0;
    s.power.ceilAt.getD (cc / 8) none = some t0 ∧ s1.tb3Passed t0 1000 = false) ∧
  (let cc : Nat := 31;
    let s : State := lostZ w0;
    cc < 32 ∧ s.cmd.mgmt = .lost ∧ s.place.insts = []) := by
  repeat' with_reducible apply And.intro
  all_goals decide +kernel

/-- The hypotheses of `Obligations.IngestCommandsComplete` are met. -/
theorem witness_IngestCommandsComplete :
  let st (s : State) (c : Cmd) : Option Stream := s.ingest.streams.get (u16 c.params 0)
  let chans (c : Cmd) : List Nat := (List.range (byteAt c.params 5)).map (fun i => u16 c.params (0x78 + 2 * i))
  let units (s : State) : Nat :=
    (s.ingest.streams.map (fun p => (p.2.cfg.channels.filter (· != 0xFFFF)).length * unitsOf p.2.cfg.rate)).foldl (· + ·) 0
  let read (s : State) (x : Stream) : Prop :=
    ∃ q ∈ s.place.insts, ∃ ch ∈ x.cfg.channels, ch ≠ 0xFFFF ∧ ch ∈ q.2.channels
  Met cardDefineStream (fun s c => st s c = none ∧ byteAt c.params 6 = 0 ∧
      (∀ ch ∈ chans c, ch = 0xFFFF ∨ s.ingest.chanOf.has ch = false) ∧
      (∀ q ∈ s.ingest.streams, keysOverlap q.2.cfg (streamDefOf c.params) = false) ∧
      units s + ((chans c).filter (· != 0xFFFF)).length * unitsOf (byteAt c.params 3) ≤ 65536)
    w0 (pkt 64 0 (fields 124 [(0, 2, 1), (6, 1, 0), (5, 1, 1), (120, 2, 7), (52, 1, 1), (34, 2, 65535), (8, 1, 1), (4, 1, 1)])) ∧
  Met cardDefineStream (fun s c => byteAt c.params 6 = 0 ∧ (st s c).isSome = true)
    (wStr str0) (pkt 64 0 (fields 124 [(0, 2, 1), (6, 1, 0), (52, 1, 1), (34, 2, 65535), (8, 1, 1), (5, 1, 1), (4, 1, 1)])) ∧
  Met cardRemoveStream (fun s c => ∃ x, st s c = some x ∧ ¬ read s x)
    (wStr str0) (pkt 64 0 (fields 4 [(0, 2, 1)])) ∧
  Met cardRemoveStream (fun s c => st s c = none)
    w0 (pkt 64 0 (fields 4 [(0, 2, 1)])) ∧
  Met cardRemoveStream (fun s c => ∃ x, st s c = some x ∧ read s x)
    ({ wStr str0 with place.insts := [(1, { i1 with run := .running, channels := [7] })] }) (pkt 64 0 (fields 4 [(0, 2, 1)])) ∧
  Met cardEnableStream (fun s c => byteAt c.params 2 = 1 ∧ ∃ x, st s c = some x ∧ x.st = .disabled)
    (wStr str0) (pkt 64 0 (fields 4 [(0, 2, 1), (2, 1, 1)])) ∧
  Met cardEnableStream (fun s c => byteAt c.params 2 = 1 ∧ ∃ x, st s c = some x ∧ x.st ≠ .disabled)
    (wStr { str0 with st := .running }) (pkt 64 0 (fields 4 [(0, 2, 1), (2, 1, 1)])) ∧
  Met cardEnableStream (fun s c => byteAt c.params 2 = 0 ∧ (st s c).isSome = true)
    (wStr str0) (pkt 64 0 (fields 4 [(0, 2, 1), (2, 1, 0)])) ∧
  Met cardSetAlignment (fun s c => ∃ x, st s c = some x ∧ s.streamRunning x = false)
    (wStr str0) (pkt 64 0 (fields 12 [(0, 2, 1)])) ∧
  Met cardSetAlignment (fun s c => c.chan ≤ 65 ∧ ∃ x, st s c = some x ∧ s.streamRunning x = true)
    ({ wStr str0 with place.insts := [(1, { i1 with run := .running, channels := [7] })] }) (pkt 64 0 (fields 12 [(0, 2, 1)])) ∧
  Met cardGetStream (fun s c => (st s c).isSome = true)
    (wStr str0) (pkt 64 0 (fields 4 [(0, 2, 1)])) ∧
  Met cardGetIngestTotals (fun _ _ => True)
    w0 (pkt 64 0 []) ∧
  Met cardGetChannel (fun s c => (s.ingest.chanOf.get (u16 c.params 0)).isSome = true)
    (wStr str0) (pkt 64 0 (fields 4 [(0, 2, 7)])) := by
  repeat' with_reducible apply And.intro
  all_goals refine ⟨by decide +kernel, ?_⟩
  all_goals try dsimp only
  all_goals first
    | exact True.intro
    | decide +kernel

/-- The hypotheses of `Obligations.SampleIsFiledByItsCount` are met. -/
theorem witness_SampleIsFiledByItsCount :
  (let dt : Nat := 0;
    let port : Nat := 0;
    let ta : Nat := 0;
    let n : Nat := 1;
    let m : Nat := 1;
    let frame : Bytes := svFrame 1;
    let s : State := wSv strR;
    let x : Stream := strR;
    let u : IecPdu := svPdu;
    let a : Asdu := svOne;
    let s1 := s.advance dt;
    let e := ethParse frame;
    s1.rxGood port frame = true ∧ s1.isSwitchPort port = true ∧ s1.portEntity port = none ∧ e.etype = 0x88BA ∧ s1.findStream port e = some n ∧ s.stream n = some x ∧ x.cfg.fmt = 0 ∧ x.cfg.auth = 0 ∧ x.cfg.nAsdu = 1 ∧ x.st = .running ∧ iecParse e.payload = some u ∧ u.sim = false ∧ svParse u.apdu = some [a] ∧ a.rev = x.cfg.confRev ∧ a.data.length = 8 * x.cfg.nEntries ∧ a.cnt < rateHz x.cfg.rate ∧ a.synch = 2 ∧ s1.ptValid = true ∧ x.resolve a.cnt (9 * ta) = (m : Int) ∧ x.cutoff m ≤ 9 * ta + x.cfg.ringSpan * 1000 * 589824 ∧ x.closedTo ≤ m ∧ 9 * ta ≤ x.cutoff m ∧ (x.slots.getD m {}).filed = none) ∧
  (let dt : Nat := 0;
    let port : Nat := 0;
    let ta : Nat := 0;
    let n : Nat := 1;
    let m : Nat := 1;
    let frame : Bytes := svFrame 1;
    let s : State := wSv strF;
    let x : Stream := strF;
    let u : IecPdu := svPdu;
    let a : Asdu := svOne;
    let s1 := s.advance dt;
    let e := ethParse frame;
    let es := (asduEntries x.cfg.nEntries a.data).map (fun v => (v.1, v.2 ||| 0 ||| (if s1.horizon.ptSt = .holdover then 2 ^ 14 else 0)));
    s1.rxGood port frame = true ∧ s1.isSwitchPort port = true ∧ s1.portEntity port = none ∧ e.etype = 0x88BA ∧ s1.findStream port e = some n ∧ s.stream n = some x ∧ x.cfg.fmt = 0 ∧ x.cfg.auth = 0 ∧ x.cfg.nAsdu = 1 ∧ x.st = .running ∧ iecParse e.payload = some u ∧ u.sim = false ∧ svParse u.apdu = some [a] ∧ a.rev = x.cfg.confRev ∧ a.data.length = 8 * x.cfg.nEntries ∧ a.cnt < rateHz x.cfg.rate ∧ a.synch = 2 ∧ s1.ptValid = true ∧ x.resolve a.cnt (9 * ta) = (m : Int) ∧ x.cutoff m ≤ 9 * ta + x.cfg.ringSpan * 1000 * 589824 ∧
    let old := [(5, 0)];
    x.closedTo ≤ m ∧ 9 * ta ≤ x.cutoff m ∧ (x.slots.getD m {}).filed = some old ∧ old.map (fun v => (v.1, v.2 &&& 0xFF0)) = es.map (fun v => (v.1, v.2 &&& 0xFF0))) ∧
  (let dt : Nat := 0;
    let port : Nat := 0;
    let ta : Nat := 0;
    let n : Nat := 1;
    let m : Nat := 1;
    let frame : Bytes := svFrame 1;
    let s : State := wSv strL;
    let x : Stream := strL;
    let u : IecPdu := svPdu;
    let a : Asdu := svOne;
    let s1 := s.advance dt;
    let e := ethParse frame;
    s1.rxGood port frame = true ∧ s1.isSwitchPort port = true ∧ s1.portEntity port = none ∧ e.etype = 0x88BA ∧ s1.findStream port e = some n ∧ s.stream n = some x ∧ x.cfg.fmt = 0 ∧ x.cfg.auth = 0 ∧ x.cfg.nAsdu = 1 ∧ x.st = .running ∧ iecParse e.payload = some u ∧ u.sim = false ∧ svParse u.apdu = some [a] ∧ a.rev = x.cfg.confRev ∧ a.data.length = 8 * x.cfg.nEntries ∧ a.cnt < rateHz x.cfg.rate ∧ a.synch = 2 ∧ s1.ptValid = true ∧ x.resolve a.cnt (9 * ta) = (m : Int) ∧ x.cutoff m ≤ 9 * ta + x.cfg.ringSpan * 1000 * 589824 ∧ m < x.closedTo ∧ s.cap.recs = []) ∧
  (let dt : Nat := 0;
    let port : Nat := 0;
    let frame : Bytes := svFrame 1;
    let s : State := upPort w0 0;
    let s1 := s.advance dt;
    s1.rxGood port frame = true ∧ s1.isSwitchPort port = true ∧ s1.portEntity port = none ∧ ((ethParse frame).etype = 0x88BA ∨ (ethParse frame).etype = 0x88B5) ∧ s1.findStream port (ethParse frame) = none) ∧
  (let dt : Nat := 0;
    let port : Nat := 0;
    let frame : Bytes := svFrame 1;
    let s : State := wSv str0;
    let s1 := s.advance dt;
    s1.rxGood port frame = true ∧ s1.isSwitchPort port = true ∧ s1.portEntity port = none ∧ ((ethParse frame).etype = 0x88BA ∨ (ethParse frame).etype = 0x88B5) ∧
    let n := 1;
    let x := str0;
    s1.findStream port (ethParse frame) = some n ∧ s.stream n = some x ∧ x.st = .disabled) ∧
  (let dt : Nat := 0;
    let n : Nat := 1;
    let s : State := wSv strR;
    let x : Stream := strR;
    s.stream n = some x ∧
    let s1 := s.advance dt;
    let p := x.closedTo;
    s1.now < x.cutoff p) ∧
  (let dt : Nat := 0;
    let n : Nat := 1;
    let s : State := late60 (wSv strR);
    let x : Stream := strR;
    s.stream n = some x ∧
    let s1 := s.advance dt;
    let p := x.closedTo;
    x.cutoff p ≤ s1.now ∧ x.st = .running ∧ s1.ptValid = true ∧ (x.slots.getD p {}).filed = none ∧ s.cap.recs = []) ∧
  (let dt : Nat := 0;
    let n : Nat := 1;
    let s : State := late60 (wSv strF0);
    let x : Stream := strF0;
    s.stream n = some x ∧
    let s1 := s.advance dt;
    let p := x.closedTo;
    x.cutoff p ≤ s1.now ∧ (x.slots.getD p {}).filed.isSome = true ∧ s.cap.recs = []) ∧
  (let dt : Nat := 0;
    let n : Nat := 1;
    let s : State := late60 (wSv strR);
    let x : Stream := strR;
    s.stream n = some x ∧ x.st = .running ∧ (s.advance dt).now ≥ x.lastFrame + x.lossQ) ∧
  (let dt : Nat := 0;
    let n : Nat := 1;
    let s : State := wSv strR;
    let x : Stream := strR;
    s.stream n = some x ∧ x.st = .running ∧ (s.advance dt).now < x.lastFrame + x.lossQ) := by
  repeat' with_reducible apply And.intro
  all_goals decide +kernel

/-- The hypotheses of `Obligations.FilterCommandsComplete` are met. -/
theorem witness_FilterCommandsComplete :
  let chs (c : Cmd) : List Nat := (List.range (u16 c.params 0x14)).map (fun i => u16 c.params (0x18 + 2 * i))
  let rate (s : State) (ch : Nat) : Nat := ((s.chanStream ch).map (fun x => x.2.cfg.rate)).getD 0
  let bankNo (s : State) (c : Cmd) (ch : Nat) : Nat :=
    if byteAt c.params 0 = 0 then clearBank (rate s ch) + byteAt c.params 1 else byteAt c.params 1
  let chain (s : State) (c : Cmd) : Option Chain := s.filter.chains.get (u16 c.params 0)
  Met cardLoadBank (fun s c => crc32c (c.params.take 8 ++ c.params.drop 0x0C) = u32 c.params 8 ∧ 16 ≤ byteAt c.params 0 ∧
      s.bankInUse (byteAt c.params 0) = false)
    w0 (pkt 64 0 ((fun p => p.take 8 ++ le 4 (crc32c (p.take 8 ++ p.drop 12)) ++ p.drop 12) (fields 16 [(0, 1, 16), (1, 1, 1), (2, 1, 1), (3, 1, 0), (4, 1, 1), (5, 1, 255), (6, 2, 0), (12, 4, 4194304)]))) ∧
  Met cardLoadBank (fun _ c => crc32c (c.params.take 8 ++ c.params.drop 0x0C) ≠ u32 c.params 8)
    w0 (pkt 64 0 (fields 16 [(0, 1, 16), (1, 1, 1), (2, 1, 1), (3, 1, 0), (4, 1, 1), (5, 1, 255), (6, 2, 0), (12, 4, 4194304)])) ∧
  Met cardFreeBank (fun s c => 16 ≤ byteAt c.params 0 ∧ s.bankInUse (byteAt c.params 0) = false ∧ s.filter.banks.has (byteAt c.params 0) = true)
    wBank (pkt 64 0 (fields 4 [(0, 1, 16)])) ∧
  Met cardReadBank (fun s c => (s.bank (byteAt c.params 0)).isSome = true)
    wBank (pkt 64 0 (fields 4 [(0, 1, 16)])) ∧
  Met cardSetChain (fun s c => (∀ ch ∈ chs c, s.ingest.chanOf.has ch = true ∧
        ∃ b, s.bank (bankNo s c ch) = some b ∧ bit b.rates (rate s ch) = true) ∧
      s.listRefusal (decide (c.chan ≤ 65)) (chs c) (u64 c.params 0x0C) false = none)
    (wStr str0) (pkt 64 0 (fields 28 [(0, 1, 0), (20, 2, 1), (24, 2, 7)])) ∧
  Met cardSyncDecimators (fun s c => byteAt c.params 0 = 0 ∧ (∀ ch ∈ chs c, s.ingest.chanOf.has ch = true) ∧
      s.listRefusal (decide (c.chan ≤ 65)) (chs c) (u64 c.params 0x0C) true = none)
    (wStr str0) (pkt 64 0 (fields 28 [(0, 1, 0), (20, 2, 1), (24, 2, 7)])) ∧
  Met cardSyncDecimators (fun s c => byteAt c.params 0 = 1 ∧ ∀ ch ∈ chs c, s.ingest.chanOf.has ch = true)
    (wStr str0) (pkt 64 0 (fields 28 [(0, 1, 1), (20, 2, 1), (24, 2, 7)])) ∧
  Met cardSyncDecimators (fun s c => byteAt c.params 0 = 2 ∧ ∀ ch ∈ chs c, s.ingest.chanOf.has ch = true)
    (wStr str0) (pkt 64 0 (fields 28 [(0, 1, 2), (20, 2, 1), (24, 2, 7)])) ∧
  Met cardSetDetector (fun s c => (chain s c).isSome = true ∧ s.readerRunning (u16 c.params 0) = false ∧
      (byteAt c.params 3 = 0 ∨ bit (byteAt c.params 0x10) 0 = false))
    (wStr str0) (pkt 64 0 (fields 24 [(0, 2, 7), (3, 1, 0)])) ∧
  Met cardGetChain (fun s c => (chain s c).isSome = true)
    (wStr str0) (pkt 64 0 (fields 4 [(0, 2, 7)])) ∧
  Met cardGetDetectors (fun s c => ∃ k r, chain s c = some k ∧ k.outs.head? = some r)
    wOuts (pkt 64 0 (fields 4 [(0, 2, 7)])) := by
  repeat' with_reducible apply And.intro
  all_goals refine ⟨by decide +kernel, ?_⟩
  all_goals try dsimp only
  all_goals first
    | exact True.intro
    | decide +kernel
    | exact some_with (by decide +kernel)
    | skip
  · exact ⟨{ bank := 0, outs := [out0] }, out0, by decide +kernel⟩

/-- The hypotheses of `Obligations.ChainTakesPositionsInOrder` are met. -/
theorem witness_ChainTakesPositionsInOrder :
  (let ch : Nat := 7;
    let n : Nat := 3;
    let st : Nat := 1;
    let s : State := wChain { strR with closedTo := 4 };
    let r : Ring := ring0;
    let x : Stream := { strR with closedTo := 4 };
    let k : Chain := kIn 3;
    let off := r.addr + n % max r.depth 1 * (if x.cfg.fmt = 0 then 8 else 4);
    s.place.rings.get ch = some r ∧ s.chanStream ch = some (st, x) ∧ s.filter.chains.get ch = some k ∧ k.next = some n ∧ k.changes = [] ∧ (∀ d ∈ k.det, d.enabled = false ∧ d.level = false) ∧ ((n < x.closedTo ∨ (∃ t, x.slots.get n = some t ∧ t.filed.isSome = true))) ∧ s.markedLines (32 * ((0x0100000000 + r.cc * 0x200000 + off) / 32)) 32 = []) ∧
  (let ch : Nat := 7;
    let n : Nat := 3;
    let st : Nat := 1;
    let s : State := wChain strR;
    let r : Ring := ring0;
    let x : Stream := strR;
    let k : Chain := kIn 3;
    s.place.rings.get ch = some r ∧ s.chanStream ch = some (st, x) ∧ s.filter.chains.get ch = some k ∧ k.next = some n ∧ x.closedTo ≤ n ∧ x.slots.get n = none) ∧
  (let ch : Nat := 7;
    let other : Nat := 8;
    other ≠ ch) ∧
  (let k : Chain := kIn 3;
    let v : Int := -2147483648;
    -2147483648 ≤ v ∧ v ≤ 2147483647 ∧ k.bank = 0 ∧ k.gain = 0x40000000 ∧ k.offset = 0 ∧ k.started = true ∧ k.needStart = false ∧ k.single = false ∧ (∀ w ∈ k.window, w.epoch = k.epoch) ∧ k.phaseCh = false ∧ k.det = [{}, {}, {}] ∧
    let cause := 7;
    cause < 8) ∧
  (let hist : List Int := [1];
    let taps : List Int := [-8388608];
    (∀ x ∈ hist, -2147483648 ≤ x ∧ x ≤ 2147483647) ∧ taps.length ≤ 128 ∧ (taps.map Int.natAbs).sum ≤ 0x800000) ∧
  (let b := 15;
    b < 16) := by
  repeat' with_reducible apply And.intro
  all_goals decide +kernel

/-- The hypotheses of `Obligations.ProgramCommandsComplete` are met. -/
theorem witness_ProgramCommandsComplete :
  let id (c : Cmd) : Nat := u32 c.params 0
  let fi (c : Cmd) : Nat := u16 c.params 0
  let total (c : Cmd) : Nat := u32 c.params 8
  let im (s : State) (c : Cmd) : FnImage := (s.prog.images.get (id c)).getD
    { owner := c.inst, total := total c, got := [], loaded := false, bytes := [] }
  let got (s : State) (c : Cmd) : Tab Byte := putChunk (im s c).got (u32 c.params 4) (c.params.drop 0x0C)
  let chunkOk (s : State) (c : Cmd) : Prop :=
    id c ≠ 0 ∧ id c ≠ 0xFFFFFFFF ∧ u32 c.params 4 % 4 = 0 ∧ u32 c.params 4 + (c.params.drop 0x0C).length ≤ total c ∧
      total c % 4 = 0 ∧ 0x44 ≤ total c ∧ total c ≤ 67108864 ∧ (im s c).loaded = false ∧ (im s c).total = total c ∧
      (s.prog.images.get (id c) = none → s.prog.images.length < 1024 ∧
        (s.prog.images.map (fun e => e.2.total)).foldl (· + ·) 0 + total c ≤ 67108864)
  let settingsOk (s : State) (c : Cmd) (x : Inst) : Prop :=
    x.isPlaced = true ∧ s.inChange (fi c) = false ∧
      ∀ e ∈ settingsOf c.params, (imgSettings (s.imageD x.image)).contains (e.2.1, e.2.2) = true
  let runningWrite (s : State) (c : Cmd) (far : Bool) : Prop :=
    ∃ x n e, s.inst (fi c) = some x ∧ x.isRunning = true ∧ settingsOf c.params = [e] ∧ settingsOk s c x ∧
      s.resolveLatch x (u64 c.params 4) c.own = some n ∧ decide (boundaryQ n > s.now + 1000000 * qNs) = far
  let ch (s : State) : OnLine := s.prog.change
  Met cardLoadImage (fun s c => chunkOk s c ∧ (got s c).length < total c)
    w0 (pkt 64 0 (fields 16 [(0, 4, 5), (4, 4, 0), (8, 4, 136)])) ∧
  Met cardLoadImage (fun s c => chunkOk s c ∧ (got s c).length = total c ∧
      let b := (got s c).map (·.2)
      crc32c (b.take (total c - 4)) = u32 b (total c - 4) ∧ imgFault b (id c) (total c) = none)
    w0 (pkt 64 0 (le 4 5 ++ le 4 0 ++ le 4 136 ++ img)) ∧
  Met cardFreeImage (fun s c => ∃ m, s.prog.images.get (id c) = some m ∧ (m.loaded = true → s.imageUsed (id c) = false))
    wImg (pkt 64 0 (fields 4 [(0, 4, 5)])) ∧
  Met cardBindSignals (fun s c => s.inChange (fi c) = false ∧ ∃ x, s.inst (fi c) = some x ∧ x.isRunning = false ∧ x.isPlaced = true ∧
      (u16 c.params 4 = 0 ∨ x.binds ≠ [] ∧ x.bindN = u16 c.params 2))
    (wInst { i1 with image := 6 }) (pkt 64 0 (fields 12 [(0, 2, 1), (2, 2, 1), (4, 2, 0), (6, 2, 1), (8, 2, 9), (10, 2, 0)])) ∧
  Met cardStartInstance (fun s c => byteAt c.params 2 = 0 ∧ s.inChange (fi c) = false ∧ s.ptValid = true ∧ ∃ x n, s.inst (fi c) = some x ∧
      (x.run = .ready ∨ x.run = .stopped ∨ x.run = .faulted) ∧ x.isPlaced = true ∧ s.signalsBound x = true ∧
      s.resolveLatch x (u64 c.params 4) c.own = some n ∧ s.retainFull (fi c) x.image = false ∧
      ∀ q ∈ s.pub.pubs, (q.2.enabled && q.2.cls == 0 && q.2.driver == fi c) = false)
    (timed (wInst i1)) (pkt 64 0 (fields 16 [(0, 2, 1), (2, 1, 0)])) ∧
  Met cardStopInstance (fun s c => s.inChange (fi c) = false ∧ ∃ x n, s.inst (fi c) = some x ∧ x.run = .running ∧
      s.resolveLatch x (u64 c.params 4) c.own = some n)
    (timed (wInst { i1 with run := .running })) (pkt 64 0 (fields 12 [(0, 2, 1)])) ∧
  Met cardStopInstance (fun s c => s.inChange (fi c) = false ∧ ∃ x, s.inst (fi c) = some x ∧ x.run = .starting ∧ x.setWrites = [])
    (timed (wInst { i1 with run := .starting })) (pkt 64 0 (fields 12 [(0, 2, 1)])) ∧
  Met cardWriteSettings (fun s c => ∃ x, s.inst (fi c) = some x ∧ x.isRunning = false ∧ settingsOk s c x)
    (wInst i1) (pkt 64 0 (fields 20 [(0, 2, 1), (2, 2, 1), (12, 2, 32), (14, 2, 4)])) ∧
  Met cardWriteSettings (fun s c => runningWrite s c false)
    (timed (wInst { i1 with run := .running })) (pkt 64 0 (fields 20 [(0, 2, 1), (2, 2, 1), (12, 2, 32), (14, 2, 4)])) ∧
  Met cardWriteSettings (fun s c => runningWrite s c true)
    (timed (wInst { i1 with run := .running })) (pkt 64 0 (fields 20 [(0, 2, 1), (2, 2, 1), (12, 2, 32), (14, 2, 4), (4, 8, 1000)])) ∧
  Met cardStageChange (fun s c => byteAt c.params 0 = 0 ∧ (ch s).st = .none)
    w0 (pkt 64 0 (fields 12 [(0, 1, 0)])) ∧
  Met cardStageChange (fun s c => 1 ≤ byteAt c.params 0 ∧ byteAt c.params 0 ≤ 4 ∧ (ch s).st = .open_ ∧ (ch s).entries.length < 4095 ∧
      (s.inst (u16 c.params 2)).isSome = true ∧ (byteAt c.params 0 = 1 → (s.image (u32 c.params 4)).isSome = true) ∧
      (byteAt c.params 0 ≠ 4 → ∀ e ∈ (ch s).entries, e.fi = u16 c.params 2 → ∃ o v, e = .setting (u16 c.params 2) o v))
    (wChange { st := .open_ }) (pkt 64 0 (fields 12 [(0, 1, 1), (2, 2, 1), (4, 4, 5)])) ∧
  Met cardStageChange (fun s c => byteAt c.params 0 = 5 ∧ (ch s).st = .open_)
    (wChange { st := .open_ }) (pkt 64 0 (fields 12 [(0, 1, 5)])) ∧
  Met cardSwitchChange (fun s c => (ch s).st = .staged ∧ (ch s).tick = 0 ∧ (s.resolveSwitch (u64 c.params 0) c.own).isSome = true)
    (wChange { st := .staged }) (pkt 64 0 (fields 8 [(0, 8, 0)])) ∧
  Met cardCancelChange (fun s _ => (ch s).st = .open_ ∧ (ch s).tick = 0 ∧ s.stratus.changeNodes = [] ∧
      (∀ e ∈ (ch s).entries, ∀ f, e ≠ .add f) ∧ ∀ a ∈ s.cmd.accepted, a.wait ≠ .switch)
    (wChange { st := .open_ }) (pkt 64 0 []) ∧
  Met cardGetRunState (fun s c => (s.inst (fi c)).isSome = true)
    (wInst i1) (pkt 64 0 (fields 4 [(0, 2, 1)])) ∧
  Met cardGetChange (fun _ _ => True)
    w0 (pkt 64 0 []) := by
  repeat' with_reducible apply And.intro
  all_goals refine ⟨by decide +kernel, ?_⟩
  all_goals try dsimp only
  all_goals first
    | exact True.intro
    | decide +kernel
    | exact some_with (by decide +kernel)
    | exact ⟨by decide +kernel, some_with (by decide +kernel)⟩
    | skip
  · exact ⟨by decide +kernel, by decide +kernel, by decide +kernel, i1, 20, by decide +kernel⟩
  · exact ⟨by decide +kernel, { i1 with run := .running }, 20, by decide +kernel⟩
  · exact ⟨{ i1 with run := .running }, 20, (12, 32, 4), by decide +kernel⟩
  · exact ⟨{ i1 with run := .running }, 1000, (12, 32, 4), by decide +kernel⟩
  · exact ⟨by decide +kernel, by decide +kernel, by decide +kernel, by decide +kernel, by decide +kernel, by decide +kernel,
      fun _ e h => absurd h (by decide +revert)⟩
  · exact ⟨by decide +kernel, by decide +kernel, by decide +kernel, fun e h => absurd h (by decide +revert), by decide +kernel⟩

/-- The hypotheses of `Obligations.LatchesAndCyclesAreExact` are met. -/
theorem witness_LatchesAndCyclesAreExact :
  (let x : Inst := iRun;
    0 < x.cycle ∧ x.phase < x.cycle ∧
    let t := 1;
    t ≠ 0) ∧
  (let t : Nat := 1;
    t ≠ 0) ∧
  (let dt : Nat := 0;
    let fi : Nat := 1;
    let n : Nat := 2;
    let s : State := atTick (wInst iRun) 2;
    let x : Inst := iRun;
    let s1 := s.advance dt;
    s.inst fi = some x ∧ x.isPlaced = true ∧ s1.ptValid = true ∧ s1.latchNow x = some n ∧ x.lastTick ≠ some n ∧ s.prog.change.st ≠ .staged ∧ x.faultNext = false ∧ x.coldNext = false ∧ x.warmAfter = none ∧ x.setWrites = [] ∧ x.run = .running ∧ s.partsOf x ≠ []) ∧
  (let dt : Nat := 0;
    let fi : Nat := 1;
    let n : Nat := 2;
    let s : State := atTick (wInst i1) 2;
    let x : Inst := i1;
    let s1 := s.advance dt;
    s.inst fi = some x ∧ x.isPlaced = true ∧ s1.ptValid = true ∧ s1.latchNow x = some n ∧ x.lastTick ≠ some n ∧ s.prog.change.st ≠ .staged ∧ x.faultNext = false ∧ x.coldNext = false ∧ x.warmAfter = none ∧ x.setWrites = [] ∧ x.run = .ready) ∧
  (let dt : Nat := 0;
    let fi : Nat := 1;
    let n : Nat := 2;
    let s : State := atTick (wInst { iRun with lastTick := some 2 }) 3;
    let x : Inst := { iRun with lastTick := some 2 };
    s.inst fi = some x ∧ (s.advance dt).latchNow x = some n ∧ x.lastTick = some n) ∧
  (let dt : Nat := 0;
    let fi : Nat := 1;
    let k : Nat := 1;
    let s : State := atTick (wInst (iCyc (cyc noPosts none))) 3;
    let x : Inst := iCyc (cyc noPosts none);
    let c : Cycle := cyc noPosts none;
    let p : Part := partOf 1 (peN 0);
    let s1 := s.advance dt;
    s.inst fi = some x ∧ x.cycles.getLast? = some c ∧ c.who.find? (fun q => q.k == k) = some p ∧ p.eng.cc < 32 ∧ p.eng.no < (if p.eng.ls then 2 else 17) ∧ c.displaced.contains k = false ∧ c.posts.getD (k - 1) none = none ∧ c.verdict = none ∧ s1.reached (boundaryQ c.tick + startOffset x.cls k * 100 * qNs) = true ∧ (s.eng p.eng).phase = .idle ∧ (s.eng p.eng).st ≠ .failed ∧ (s.eng p.eng).diagDue = none) ∧
  (let k : Nat := 0;
    let ls : Bool := false;
    let s : State := wCopy .signing (iCyc (cyc noPosts none));
    let x : Exec := xTick;
    let i : Inst := iCyc (cyc noPosts none);
    let c : Cycle := cyc noPosts none;
    let e := engOfKey ls k;
    (s.eng e).phase = .signing ∧ (s.eng e).exec = some x ∧ s.inst x.fi = some i ∧ c ∈ i.cycles ∧ c.tick = x.tick ∧ c.verdict = none ∧ 0 < x.copy ∧ x.copy ≤ c.posts.length ∧ c.posts.getD (x.copy - 1) none = none) ∧
  (let dt : Nat := 0;
    let k : Nat := 0;
    let ls : Bool := false;
    let s : State := atTick (wCopy .running iRun) 3;
    let x : Exec := xTick;
    let e := engOfKey ls k;
    (s.eng e).exec = some x ∧ (s.advance dt).reached (boundaryQ (x.tick + x.span)) = true) ∧
  (let dt : Nat := 0;
    let k : Nat := 0;
    let ls : Bool := false;
    let s : State := atTick (wCopy .running iRun) 2;
    let x : Exec := xTick;
    let e := engOfKey ls k;
    (s.eng e).exec = some x ∧ (s.advance dt).reached (boundaryQ (x.tick + x.span)) = false) := by
  repeat' with_reducible apply And.intro
  all_goals decide +kernel

/-- The hypotheses of `Obligations.ChangeCompletes` are met. -/
theorem witness_ChangeCompletes :
  (let dt : Nat := 0;
    let s : State := w0;
    (s.advance dt).switched (s.advance dt).tickNow = false) ∧
  (let dt : Nat := 0;
    let s : State := atTick { wInst iSw with prog.change := { st := .staged, tick := 2, entries := [.replace 1 6] } } 3;
    let s1 := s.advance dt;
    s1.switched s1.tickNow = true ∧ s.stratus.changeNodes = [] ∧ (∀ e ∈ s.prog.change.entries, ∃ f i x, e = .replace f i ∧ s.inst f = some x ∧ x.firstNew.isSome = true ∧ x.newOut = true) ∧ (∀ p ∈ s.place.insts, p.2.removeNext = false)) := by
  repeat' with_reducible apply And.intro
  all_goals try decide +kernel
  · exact fun e m => ⟨1, 6, iSw, List.mem_singleton.mp m, by decide +kernel⟩

/-- The hypotheses of `Obligations.PublishCommandsComplete` are met. -/
theorem witness_PublishCommandsComplete :
  let num (c : Cmd) : Nat := u16 c.params 0
  let binds (c : Cmd) : List OutBind := (List.range (u16 c.params 2)).map (fun i =>
    { signal := u16 c.params (4 + 4 * i), word := u16 c.params (6 + 4 * i) % 1024, bit := u16 c.params (6 + 4 * i) / 1024 })
  let keyFor (s : State) (c : Cmd) (auth n : Nat) (need : Nat × Nat) : Option (Option Bytes) :=
    if auth = 0 then some none
    else if s.slotFits c.inst n need then match s.useSlot n with
      | .ok k => some (some k)
      | _ => none
    else none
  let pub (s : State) (c : Cmd) : Publication :=
    pubOf c.params c.inst ((keyFor s c (byteAt c.params 5) (u16 c.params 6) (needGenerate (byteAt c.params 5))).getD none)
  let sub (s : State) (c : Cmd) : Subscription :=
    subOf c.params c.inst ((keyFor s c (byteAt c.params 2) (u16 c.params 0x1E) (needVerify (byteAt c.params 2))).getD none)
  let enabled (s : State) (c : Cmd) (q : Publication) : State := { s with
    pub.pubs := s.pub.pubs.put (num c) { q with
      enabled := true, first := (s.inst q.driver).map s.firstPub, stNum := 0, sqNum := 0, j := 0, state := [] } }
  let route (c : Cmd) (n : Nat) : Route :=
    { tick := n, mask := if bit (byteAt c.params 2) 0 then some (uN c.params 0x0C 16) else none
      entries := if bit (byteAt c.params 2) 1 then some (dataEntries c.params 0x20 (u16 c.params 0x1C)) else none }
  let routed (s : State) (c : Cmd) (q : Publication) (n : Nat) : State := { s with
    pub.pubs := s.pub.pubs.put (num c) { q with routes := q.routes ++ [route c n] } }
  Met cardBindOutputs (fun s c => (∃ x, s.inst (num c) = some x ∧ x.isRunning = false) ∧
      ∀ b ∈ binds c, (s.signal b.signal).src = .none ∨ (s.signal b.signal).src = SigSrc.output (num c))
    (wInst { i1 with image := 6 }) (pkt 64 0 (fields 8 [(0, 2, 1), (2, 2, 1), (4, 2, 9), (6, 2, 0)])) ∧
  Met cardDefinePublication (fun s c => s.pub.pubs.get (num c) = none ∧ (s.inst (u16 c.params 2)).isSome = true ∧
      (keyFor s c (byteAt c.params 5) (u16 c.params 6) (needGenerate (byteAt c.params 5))).isSome = true ∧
      (pub s c).frameBytes ≤ 1518 ∧ s.pub.pubs.length < 1024)
    (wInst i1) (pkt 64 0 (fields 252 [(0, 2, 1), (2, 2, 1), (5, 1, 0), (52, 2, 1), (250, 1, 1), (50, 1, 1), (49, 1, 1), (48, 1, 1), (44, 1, 1), (40, 1, 1), (24, 1, 1), (8, 1, 1), (6, 2, 65535)])) ∧
  Met cardRemovePublication (fun s c => ∃ q, s.pub.pubs.get (num c) = some q ∧ q.enabled = false)
    (wPub pub0) (pkt 64 0 (fields 4 [(0, 2, 1)])) ∧
  Met cardRemovePublication (fun s c => ∃ q, s.pub.pubs.get (num c) = some q ∧ q.enabled = true)
    (wPub { pub0 with enabled := true }) (pkt 64 0 (fields 4 [(0, 2, 1)])) ∧
  Met cardEnablePublication (fun s c => byteAt c.params 2 = 0 ∧ (s.pub.pubs.get (num c)).isSome = true)
    (wPub { pub0 with enabled := true }) (pkt 64 0 (fields 4 [(0, 2, 1), (2, 1, 0)])) ∧
  Met cardEnablePublication (fun s c => byteAt c.params 2 = 1 ∧ ∃ q x, s.pub.pubs.get (num c) = some q ∧ q.enabled = false ∧ s.inst q.driver = some x ∧
      x.knownPhase.isSome = true ∧ (q.cls = 0 → (enabled s c q).expressFail = none) ∧ (enabled s c q).pairOver = false)
    (wPub pub0) (pkt 64 0 (fields 4 [(0, 2, 1), (2, 1, 1)])) ∧
  Met cardSetRoute (fun s c => ∃ q n, s.pub.pubs.get (num c) = some q ∧ s.routeLatch q (u64 c.params 4) c.own = some n ∧
      (q.enabled = true → q.cls = 0 → (routed s c q n).expressFail = none))
    (wPub pub0) (pkt 64 0 (fields 32 [(0, 2, 1), (12, 1, 1), (2, 1, 1)])) ∧
  Met cardGetPublication (fun s c => (s.pub.pubs.get (num c)).isSome = true)
    (wPub pub0) (pkt 64 0 (fields 4 [(0, 2, 1)])) ∧
  Met cardDefineSubscription (fun s c => s.pub.subs.get (num c) = none ∧
      (keyFor s c (byteAt c.params 2) (u16 c.params 0x1E) (needVerify (byteAt c.params 2))).isSome = true ∧
      (∀ q ∈ s.pub.subs, subsOverlap q.2 (sub s c) = false) ∧ s.pub.subs.length < 1024 ∧
      ∀ g ∈ valueSignals (sub s c).entries, (s.signal g).src = .none)
    w0 (pkt 64 0 (fields 108 [(0, 2, 1), (2, 1, 0), (38, 2, 1), (36, 1, 1), (30, 2, 65535), (20, 1, 1), (4, 1, 1)])) ∧
  Met cardRemoveSubscription (fun s c => ∃ x, s.pub.subs.get (num c) = some x ∧ x.st = .disabled)
    (wSub sub0) (pkt 64 0 (fields 4 [(0, 2, 1)])) ∧
  Met cardEnableSubscription (fun s c => (s.pub.subs.get (num c)).isSome = true)
    (wSub sub0) (pkt 64 0 (fields 4 [(0, 2, 1)])) ∧
  Met cardGetSubscription (fun s c => (s.pub.subs.get (num c)).isSome = true)
    (wSub sub0) (pkt 64 0 (fields 4 [(0, 2, 1)])) ∧
  Met cardGetSignal (fun _ _ => True)
    w0 (pkt 64 0 (fields 4 [])) := by
  repeat' with_reducible apply And.intro
  all_goals refine ⟨by decide +kernel, ?_⟩
  all_goals try dsimp only
  all_goals first
    | exact True.intro
    | decide +kernel
    | exact some_with (by decide +kernel)
    | exact ⟨by decide +kernel, some_with (by decide +kernel)⟩
    | skip
  · exact ⟨by decide +kernel, pub0, i1, by decide +kernel⟩
  · exact ⟨pub0, 2, by decide +kernel⟩

/-- The hypotheses of `Obligations.PublicationFollowsItsSchedule` are met. -/
theorem witness_PublicationFollowsItsSchedule :
  (let dt : Nat := 0;
    let fi : Nat := 1;
    let n : Nat := 2;
    let num : Nat := 1;
    let s : State := { atTick (wInst (iCyc (cyc noPosts (some (.released [7]))))) 4 with pub.pubs := [(1, { pub0 with enabled := true })] };
    let x : Inst := iCyc (cyc noPosts (some (.released [7])));
    let p0 : Publication := { pub0 with enabled := true };
    let s1 := s.advance dt;
    s.pair.switchTick = none ∧ s.anvil.hub ≠ .fatal ∧ (s.place.insts.map (·.1)).Nodup ∧ (s.pub.pubs.map (·.1)).Nodup ∧ ((∀ e ∈ s.place.insts, e.1 ≤ fi → e.1 = fi)) ∧ s.inst fi = some x ∧ s1.instantDue x = some n ∧ s.pub.pubs.get num = some p0 ∧ p0.driver = fi ∧ p0.enabled = true ∧ p0.first.getD 0 ≤ n) ∧
  (let n : Nat := 2;
    let x : Inst := iCyc (cyc noPosts (some (.released [7])));
    let c : Cycle := cyc noPosts (some (.released [7]));
    let outs : List Nat := [7];
    x.cycles.find? (fun c => c.tick == n) = some c ∧ c.ran = true ∧ c.verdict = some (.released outs)) ∧
  (let dt : Nat := 0;
    let fi : Nat := 1;
    let s : State := wInst iRun;
    s.pair.switchTick = none ∧ ((∀ e ∈ s.place.insts, e.1 ≤ fi → ∀ x, s.inst e.1 = some x → (s.advance dt).instantDue x = none))) := by
  repeat' with_reducible apply And.intro
  all_goals decide +kernel

/-- The hypotheses of `Obligations.SubscriptionFollowsItsStream` are met. -/
theorem witness_SubscriptionFollowsItsStream :
  (let dt : Nat := 0;
    let port : Nat := 0;
    let n : Nat := 1;
    let f : Bytes := gooseFrame;
    let s : State := wGoose sub0;
    let x : Subscription := sub0;
    let s1 := s.advance dt;
    let r := s1.redStrip port f;
    let e := ethParse r.frame;
    s1.rxGood port f = true ∧ s1.isSwitchPort port = true ∧ r.ent = none ∧ e.etype = etGoose ∧ s1.findSub port e = some n ∧ s.pub.subs.get n = some x ∧ x.st = .disabled) ∧
  (let dt : Nat := 0;
    let port : Nat := 0;
    let n : Nat := 1;
    let f : Bytes := gooseFrame;
    let s : State := wGoose subH;
    let x : Subscription := subH;
    let u : IecPdu := goosePdu;
    let g : Goose := goose0;
    let v : List Nat := [];
    let s1 := s.advance dt;
    let r := s1.redStrip port f;
    let e := ethParse r.frame;
    s1.rxGood port f = true ∧ s1.isSwitchPort port = true ∧ r.ent = none ∧ e.etype = etGoose ∧ s1.findSub port e = some n ∧ s.pub.subs.get n = some x ∧ x.st ≠ .disabled ∧ iecParse e.payload = some u ∧ gooseParse u.apdu = some g ∧ decodeEntries x.entries g.data = some v ∧ g.nds = false ∧ g.stNum ≠ 0 ∧ g.n = x.entries.length ∧ (((g.sim || u.sim) = true → x.accSim = true)) ∧ tagPasses x.auth x.key u = true ∧ g.rev = x.confRev) ∧
  (let dt : Nat := 0;
    let n : Nat := 1;
    let s : State := late60 (wSub subH);
    let x : Subscription := subH;
    let a : Nat := 0;
    let b : Nat := 0;
    let l : List (Nat × Nat) := [];
    let s1 := s.advance dt;
    s.pub.subs.get n = some x ∧ x.st = .healthy ∧ x.arrivals = (a, b) :: l ∧ s1.now > b + 2000 * qNs) ∧
  (let dt : Nat := 0;
    let n : Nat := 1;
    let s : State := wSub subH;
    let x : Subscription := subH;
    let a : Nat := 0;
    let b : Nat := 0;
    let l : List (Nat × Nat) := [];
    let s1 := s.advance dt;
    s.pub.subs.get n = some x ∧ x.st = .healthy ∧ x.arrivals = (a, b) :: l ∧ s1.now ≤ b + 2000 * qNs) ∧
  (let n : Nat := 1;
    let s : State := wSub sub0;
    let x : Subscription := sub0;
    s.pub.subs.get n = some x ∧ x.st ≠ .healthy) := by
  repeat' with_reducible apply And.intro
  all_goals decide +kernel

/-- The hypotheses of `Obligations.CaptureCommandsComplete` are met. -/
theorem witness_CaptureCommandsComplete :
  let n (c : Cmd) : Nat := byteAt c.params 0
  let ticks (c : Cmd) : Nat := u32 c.params 4 + u32 c.params 8
  let sigs (c : Cmd) : List Nat := (List.range (u16 c.params 0x14)).map (fun i => u16 c.params (0x18 + 4 * byteAt c.params 2 + 2 * i))
  let lanes (s : State) (c : Cmd) : List Lane := (List.range (byteAt c.params 2)).map (fun i =>
    s.laneOf (ticks c) (u16 c.params (0x18 + 4 * i)) (byteAt c.params (0x18 + 4 * i + 2)))
  let rate (s : State) (c : Cmd) : Nat := ((lanes s c).map s.laneRate).foldl (· + ·) 0 +
    (if (sigs c).isEmpty then 0 else 8 * (sigs c).length * 96000)
  let size (s : State) (c : Cmd) : Nat := (laneOffsets (256 + 32 * ((lanes s c).length + boolNat (!(sigs c).isEmpty)))
    (laneSizes (lanes s c) (sigs c).length (ticks c))).2
  let run (s : State) (c : Cmd) : Option Nat := lowestRun (byteAt c.params 1 * blocksOf (size s c)) 0 s.capRuns
  let idle (s : State) (c : Cmd) (p : Recorder → Prop) : Prop :=
    ∃ r, s.recd (n c) = some r ∧ (r.st = .disabled ∨ r.st = .stopped) ∧ p r
  let trigAt (s : State) (c : Cmd) : Nat := if u64 c.params 4 = 0 then s.now else u64 c.params 4 * qNs
  Met cardDefineRecorder (fun s c => s.recd (n c) = none ∧ (∀ l ∈ lanes s c, s.ingest.chanOf.has l.chan = true) ∧ (run s c).isSome = true ∧
      s.capRate + rate s c ≤ 2400000000)
    (wStr str0) (pkt 64 0 (fields 28 [(0, 1, 1), (2, 1, 1), (20, 2, 0), (24, 2, 7), (8, 1, 1), (1, 1, 1)])) ∧
  Met cardRemoveRecorder (fun s c => idle s c (fun r => s.anyLocked (n c) r = false))
    (wRec rec0) (pkt 64 0 (fields 4 [(0, 1, 1)])) ∧
  Met cardSetTrigger (fun s c => idle s c (fun r => (byteAt c.params 2 = 3 → s.maskLoaded (byteAt c.params 7) = true) ∧
      (byteAt c.params 2 = 1 → u16 c.params 4 ∈ r.signals) ∧
      (byteAt c.params 2 = 2 ∨ byteAt c.params 2 = 3 → u16 c.params 4 < r.lanes.length)))
    (wRec rec0) (pkt 64 0 (fields 20 [(0, 1, 1), (2, 1, 1), (4, 2, 5)])) ∧
  Met cardLoadMask (fun s c => s.maskInUse (n c) = false ∧ u16 c.params 2 = 0 ∧ s.cap.masks.has (n c) = true)
    ({ w0 with cap.masks := [(1, { owner := 0, m := 8, first := 0 })] }) (pkt 64 0 (fields 8 [(0, 1, 1), (2, 2, 0)])) ∧
  Met cardLoadMask (fun s c => s.maskInUse (n c) = false ∧ u16 c.params 2 ≠ 0 ∧
      (s.cap.masks.get (n c) = none → (lowestRun (blocksOf (8 * u16 c.params 2)) 0 s.capRuns).isSome = true))
    w0 (pkt 64 0 (fields 16 [(0, 1, 1), (2, 2, 8), (6, 1, 1)])) ∧
  Met cardArmRecorder (fun s c => byteAt c.params 1 = 1 ∧ idle s c (fun r => (∃ x ∈ r.segs, x.st = .free) ∧
      ∀ k ∈ r.conds, ∀ x, k = some x → x.type = 3 → s.maskLoaded x.mask = true))
    (wRec rec0) (pkt 64 0 (fields 4 [(0, 1, 1), (1, 1, 1)])) ∧
  Met cardArmRecorder (fun s c => byteAt c.params 1 = 0 ∧ ∃ r u, s.recd (n c) = some r ∧ r.st = .armed ∧ r.run = some u)
    (wRec { rec0 with st := .armed, run := some run0 }) (pkt 64 0 (fields 4 [(0, 1, 1), (1, 1, 0)])) ∧
  Met cardForceTrigger (fun s c => bit (byteAt c.params 1) 0 = false ∧ ∃ r u, s.recd (n c) = some r ∧ r.run = some u ∧ s.now ≤ trigAt s c + u.h)
    (timed (wRec { rec0 with st := .armed, run := some run0 })) (pkt 64 0 (fields 12 [(0, 1, 1), (1, 1, 0)])) ∧
  Met cardGetRecorder (fun s c => (s.recd (n c)).isSome = true)
    (wRec rec0) (pkt 64 0 (fields 4 [(0, 1, 1)])) ∧
  Met cardListSegments (fun s c => (s.recd (n c)).isSome = true)
    (wRec rec0) (pkt 64 0 (fields 4 [(0, 1, 1)])) ∧
  Met cardReadSegment (fun s c => byteAt c.params 2 = 1 ∧ ∃ r, s.recd (n c) = some r ∧ (r.segs.getD (byteAt c.params 1) {}).st = .complete)
    (wRec { rec0 with segs := [{ st := .complete, seq := 1 }] }) (pkt 64 0 (fields 24 [(0, 1, 1), (1, 1, 0), (2, 1, 1)])) ∧
  Met cardReadSegment (fun s c => byteAt c.params 2 = 0 ∧ c.chan < 64 ∧
      ∃ r, s.recd (n c) = some r ∧ (r.segs.getD (byteAt c.params 1) {}).st = .complete)
    (wRec { rec0 with segs := [{ st := .complete, seq := 1 }] }) (pkt 0 0 (fields 24 [(0, 1, 1), (1, 1, 0), (2, 1, 0)])) ∧
  Met cardReleaseSegment (fun s c => ∃ r, s.recd (n c) = some r ∧ r.st ≠ .full ∧ (r.segs.getD (byteAt c.params 1) {}).st = .complete)
    (wRec { rec0 with segs := [{ st := .complete, seq := 1 }] }) (pkt 64 0 (fields 4 [(0, 1, 1), (1, 1, 0)])) ∧
  Met cardGetCaptureTotals (fun _ _ => True)
    w0 (pkt 64 0 []) := by
  repeat' with_reducible apply And.intro
  all_goals refine ⟨by decide +kernel, ?_⟩
  all_goals try dsimp only
  all_goals first
    | exact True.intro
    | decide +kernel
    | exact some_with (by decide +kernel)
    | exact ⟨by decide +kernel, some_with (by decide +kernel)⟩
    | skip
  · exact ⟨by decide +kernel, { rec0 with st := .armed, run := some run0 }, run0, by decide +kernel⟩
  · exact ⟨by decide +kernel, { rec0 with st := .armed, run := some run0 }, run0, by decide +kernel⟩

/-- The hypotheses of `Obligations.RecorderWorksAtItsHorizon` are met. -/
theorem witness_RecorderWorksAtItsHorizon :
  (let dt : Nat := 0;
    let n : Nat := 1;
    let s : State := wRec recA;
    let r : Recorder := recA;
    let u : Run := run0;
    let s1 := s.advance dt;
    s.recd n = some r ∧ r.run = some u ∧ r.drains = [] ∧ u.h ≤ s1.now ∧ u.trig = none ∧ u.tpi = [] ∧ u.forced = [] ∧ (∀ k ∈ r.conds, k = none) ∧ u.next.length = r.lanes.length ∧ u.ents.length = r.lanes.length ∧ (∀ l ∈ r.lanes, l.rate < 6)) ∧
  (let r : Recorder := { recA with holdMode := 2, holdN := 1 };
    let u : Run := run0;
    let t : Nat := 0;
    let src : Nat := 1;
    let stop : Bool := false;
    let held := (r.holdMode = 1 ∧ t < r.holdTo) ∨ (r.holdMode = 2 ∧ 0 < r.holdN);
    u.trig = none ∧ held ∧ stop = false ∧ bit src 8 = false) ∧
  (let r : Recorder := recA;
    let u : Run := run0;
    let t : Nat := 0;
    let src : Nat := 256;
    let stop : Bool := false;
    let held := (r.holdMode = 1 ∧ t < r.holdTo) ∨ (r.holdMode = 2 ∧ 0 < r.holdN);
    u.trig = none ∧ ((¬ held ∨ stop = true ∨ bit src 8 = true)) ∧ r.st = .armed) ∧
  (let u : Run := runT;
    let g := trig0;
    u.trig = some g) ∧
  (let n : Nat := 1;
    let i : Nat := 0;
    let rest : List (Nat × Nat) := [];
    let s : State := wClosing (wRec recA);
    let r : Recorder := recA;
    let x : Seg := {};
    s.cap.closing = (n, i) :: rest ∧ s.recd n = some r ∧ r.st ≠ .full ∧ r.segs[i]? = some x) ∧
  (let s : State := w0;
    s.cap.closing = []) ∧
  (let n : Nat := 1;
    let i : Nat := 0;
    let rest : List (Nat × Nat) := [];
    let s : State := wClosing (wRec recA);
    let r : Recorder := recA;
    s.power.supply = .running ∧ s.cap.copies = (n, i) :: rest ∧ s.recd n = some r ∧ r.st ≠ .full ∧ r.segBytes ≤ archiveBytes) ∧
  (let s : State := { w0 with power.supply := .warning };
    s.power.supply ≠ .running) := by
  repeat' with_reducible apply And.intro
  all_goals decide +kernel

/-- The hypotheses of `Obligations.AnvilAndPairCommandsComplete` are met. -/
theorem witness_AnvilAndPairCommandsComplete :
  (
  let fi (c : Cmd) : Nat := u16 c.params 0
  let tgt (c : Cmd) : Nat := u16 c.params 4
  let ty (c : Cmd) : Nat := byteAt c.params 0
  let fit (s : State) (c : Cmd) : Prop := s.anvil.hub = .normal ∧ s.injectPending (ty c) (tgt c) = false
  Met cardGetAnvilStatus (fun _ _ => True)
    w0 (pkt 64 0 []) ∧
  Met cardGetContainment (fun s c => ∃ x, s.inst (fi c) = some x ∧ x.isPlaced = true)
    (wInst i1) (pkt 64 0 (fields 4 [(0, 2, 1)])) ∧
  Met cardGetMemoryHealth (fun _ _ => True)
    w0 (pkt 64 0 (fields 4 [])) ∧
  Met cardSetSelfTest (fun _ _ => True)
    w0 (pkt 64 0 (fields 4 [(2, 2, 20776)])) ∧
  Met cardInjectFault (fun s c => (ty c = 1 ∨ ty c = 4) ∧ fit s c ∧ ∃ x, s.inst (tgt c) = some x ∧ x.isPlaced = true ∧ x.cls ≠ 0 ∧
      byteAt c.params 1 ≤ copiesOf x.cls)
    (timed (wInst { i1 with cls := 1 })) (pkt 64 0 (fields 16 [(0, 1, 1), (1, 1, 1), (4, 2, 1), (2, 2, 20776)])) ∧
  Met cardInjectFault (fun s c => fit s c ∧ ((ty c = 2 ∧ ((s.eng { ls := false, cc := tgt c / 256, no := tgt c % 256 }).st = .inService ∨
        (s.eng { ls := false, cc := tgt c / 256, no := tgt c % 256 }).st = .spare)) ∨
      (ty c = 3 ∧ s.anvil.cmps[tgt c]? = some .inService)))
    w0 (pkt 64 0 (fields 16 [(0, 1, 2), (4, 2, 0), (2, 2, 20776)])) ∧
  Met cardInjectFault (fun s c => s.anvil.hub = .normal ∧ (ty c = 5 ∨ ty c = 6) ∧ s.anvil.errs.has (u64 c.params 8 / 32) = false ∧
      u64 c.params 8 / 32 ∉ s.anvil.poison)
    w0 (pkt 64 0 (fields 16 [(0, 1, 5), (2, 2, 20776)])) ∧
  Met cardInjectFault (fun s c => s.anvil.hub = .normal ∧ ty c = 7)
    w0 (pkt 64 0 (fields 16 [(0, 1, 7), (2, 2, 20776)])) ∧
  Met cardInjectFault (fun s c => ty c = 7 ∧ s.anvil.hub = .fatal)
    ({ w0 with anvil.hub := .fatal }) (pkt 64 0 (fields 16 [(0, 1, 7), (2, 2, 20776)])) ) ∧
  (
  let key (s : State) (c : Cmd) : Option Bytes := match s.useSlot (u16 c.params 2) with
    | .ok k => some k
    | _ => none
  Met cardSetPair (fun s c => s.pair.st ≠ .unpaired ∧ (∀ p ∈ s.place.insts, p.2.isPlaced = false) ∧
      s.slotFits c.inst (u16 c.params 2) needPair = true ∧ (key s c).isSome = true ∧
      s.quadConflict [byteAt c.params 0, byteAt c.params 1] = false)
    wPair (pkt 64 0 (fields 20 [(2, 2, 3), (1, 1, 1400), (0, 1, 100)])) ∧
  Met cardSetPair (fun s _ => s.pair.st = .unpaired)
    w0 (pkt 64 0 (fields 20 [(1, 1, 1400), (0, 1, 100)])) ∧
  Met cardGetPairStatus (fun _ _ => True)
    w0 (pkt 64 0 (fields 4 [])) ∧
  Met cardSwitchover (fun s _ => s.pair.st = .active)
    ({ w0 with pair.st := .active }) (pkt 64 0 (fields 8 [])) ∧
  Met cardSwitchover (fun s _ => s.pair.st ≠ .active)
    w0 (pkt 64 0 (fields 8 [])) ∧
  Met cardResync (fun s _ => s.pair.st = .standby)
    ({ w0 with pair.st := .standby }) (pkt 64 0 []) ∧
  Met cardResync (fun s _ => s.pair.st ≠ .standby)
    w0 (pkt 64 0 [])) := by
  repeat' with_reducible apply And.intro
  all_goals refine ⟨by decide +kernel, ?_⟩
  · exact True.intro
  · exact some_with (by decide +kernel)
  · exact True.intro
  · exact True.intro
  · exact ⟨by decide +kernel, by decide +kernel, some_with (by decide +kernel)⟩
  · first | exact True.intro | (try dsimp only); decide +kernel
  · first | exact True.intro | (try dsimp only); decide +kernel
  · first | exact True.intro | (try dsimp only); decide +kernel
  · first | exact True.intro | (try dsimp only); decide +kernel
  · refine ⟨by decide +kernel, by decide +kernel, by decide +kernel, ?_, by decide +kernel⟩
    dsimp only
    split
    · rfl
    · next h => exact (h key32 (use_key (n := 3) (by decide +kernel) (by decide +kernel) (slotOf_whole 3 3 4) (slotOf_key 3 3 4))).elim
  · first | exact True.intro | (try dsimp only); decide +kernel
  · exact True.intro
  · first | exact True.intro | (try dsimp only); decide +kernel
  · first | exact True.intro | (try dsimp only); decide +kernel
  · first | exact True.intro | (try dsimp only); decide +kernel
  · first | exact True.intro | (try dsimp only); decide +kernel

/-- The hypotheses of `Obligations.VerdictContainsFaults` are met. -/
theorem witness_VerdictContainsFaults :
  (let ready (s : State) (fi : Nat) (x : Inst) (c : Cycle) (ps : List Part) (rs : List Posted) : Prop :=
      s.anvil.hub = .normal ∧ s.anvil.injections = [] ∧ s.anvil.uncorrAt = [] ∧ s.inst fi = some x ∧
      x.cycles.find? Cycle.complete = some c ∧ c.who = ps ∧ ps.map (·.k) = (List.range ps.length).map (· + 1) ∧
      c.displaced = [] ∧ c.posts.take ps.length = rs.map some ∧ rs.length = ps.length ∧ (∀ r ∈ rs, r.exc = none);
    let windowOk (s : State) (p : Part) (r : Posted) : Prop :=
      s.markedLines (p.eng.base + p.areas.outBase) (4 * p.areas.outWords) = [] ∧
      crc32c (memReadN (s.eng p.eng).mem p.areas.outBase (4 * p.areas.outWords)) = r.outCrc;
    let fi : Nat := 1;
    let s : State := wInst (duo post0 post0);
    let x : Inst := duo post0 post0;
    let c : Cycle := cyc [some post0, some post0, none] none;
    let p1 : Part := partOf 1 (peN 0);
    let p2 : Part := partOf 2 pe1;
    let r1 : Posted := post0;
    let r2 : Posted := post0;
    ready s fi x c [p1, p2] [r1, r2] ∧ r1.agrees r2 = true ∧ windowOk s p1 r1) ∧
  (let ready (s : State) (fi : Nat) (x : Inst) (c : Cycle) (ps : List Part) (rs : List Posted) : Prop :=
      s.anvil.hub = .normal ∧ s.anvil.injections = [] ∧ s.anvil.uncorrAt = [] ∧ s.inst fi = some x ∧
      x.cycles.find? Cycle.complete = some c ∧ c.who = ps ∧ ps.map (·.k) = (List.range ps.length).map (· + 1) ∧
      c.displaced = [] ∧ c.posts.take ps.length = rs.map some ∧ rs.length = ps.length ∧ (∀ r ∈ rs, r.exc = none);
    let fi : Nat := 1;
    let s : State := wInst (duo post0 post1);
    let x : Inst := duo post0 post1;
    let c : Cycle := cyc [some post0, some post1, none] none;
    let p1 : Part := partOf 1 (peN 0);
    let p2 : Part := partOf 2 pe1;
    let r1 : Posted := post0;
    let r2 : Posted := post1;
    ready s fi x c [p1, p2] [r1, r2] ∧ r1.agrees r2 = false) ∧
  (let ready (s : State) (fi : Nat) (x : Inst) (c : Cycle) (ps : List Part) (rs : List Posted) : Prop :=
      s.anvil.hub = .normal ∧ s.anvil.injections = [] ∧ s.anvil.uncorrAt = [] ∧ s.inst fi = some x ∧
      x.cycles.find? Cycle.complete = some c ∧ c.who = ps ∧ ps.map (·.k) = (List.range ps.length).map (· + 1) ∧
      c.displaced = [] ∧ c.posts.take ps.length = rs.map some ∧ rs.length = ps.length ∧ (∀ r ∈ rs, r.exc = none);
    let windowOk (s : State) (p : Part) (r : Posted) : Prop :=
      s.markedLines (p.eng.base + p.areas.outBase) (4 * p.areas.outWords) = [] ∧
      crc32c (memReadN (s.eng p.eng).mem p.areas.outBase (4 * p.areas.outWords)) = r.outCrc;
    let fi : Nat := 1;
    let s : State := wInst (trio post0 post0 post1);
    let x : Inst := trio post0 post0 post1;
    let c : Cycle := { cyc [some post0, some post0, some post1] none with who := [partOf 1 (peN 0), partOf 2 pe1, partOf 3 { ls := false, cc := 2, no := 0 }] };
    let p1 : Part := partOf 1 (peN 0);
    let p2 : Part := partOf 2 pe1;
    let p3 : Part := partOf 3 { ls := false, cc := 2, no := 0 };
    let r1 : Posted := post0;
    let r2 : Posted := post0;
    let r3 : Posted := post1;
    ready s fi x c [p1, p2, p3] [r1, r2, r3] ∧ r1.agrees r2 = true ∧ r1.agrees r3 = false ∧ windowOk s p1 r1) ∧
  (let ready (s : State) (fi : Nat) (x : Inst) (c : Cycle) (ps : List Part) (rs : List Posted) : Prop :=
      s.anvil.hub = .normal ∧ s.anvil.injections = [] ∧ s.anvil.uncorrAt = [] ∧ s.inst fi = some x ∧
      x.cycles.find? Cycle.complete = some c ∧ c.who = ps ∧ ps.map (·.k) = (List.range ps.length).map (· + 1) ∧
      c.displaced = [] ∧ c.posts.take ps.length = rs.map some ∧ rs.length = ps.length ∧ (∀ r ∈ rs, r.exc = none);
    let fi : Nat := 1;
    let m : Nat := 0;
    let l : Nat := 0;
    let n : Nat := 40;
    let s : State := wInst wDuo;
    let x : Inst := wDuo;
    let c : Cycle := cyc [some post0, some post0, none] none;
    let ps : List Part := [partOf 1 (peN 0), partOf 2 pe1];
    let rs : List Posted := [post0, post0];
    ready s fi x c ps rs ∧ x.cmp = some (m, l) ∧ m < 48 ∧ s.anvil.cmps.length = 48 ∧ s.anvil.cmps[m]? = some .inService ∧ n < 48 ∧ s.anvil.cmps[n]? = some .spare ∧ ((∀ i, i < n → s.anvil.cmps[i]? ≠ some .spare)) ∧ (∀ q ∈ s.anvil.retired, q.1 ≠ n) ∧ (s.place.insts.map (·.1)).Pairwise (· < ·)) ∧
  (let fi : Nat := 1;
    let s : State := w0;
    (s.inst fi).bind (fun x => x.cycles.find? Cycle.complete) = none) ∧
  (let fi : Nat := 1;
    let s : State := wInst (duo post0 post1);
    let x : Inst := duo post0 post1;
    s.inst fi = some x) := by
  repeat' with_reducible apply And.intro
  all_goals decide +kernel

/-- The hypotheses of `Obligations.DiagnosisAndLatentFaults` are met. -/
theorem witness_DiagnosisAndLatentFaults :
  (let dt : Nat := 0;
    let k : Nat := 0;
    let b : Nat := 3;
    let ls : Bool := false;
    let s : State := wDiag false 3;
    let e := engOfKey ls k;
    let s1 := s.advance dt;
    (s.eng e).diagDue = some b ∧ (s.eng e).diagOn = false ∧ (s.eng e).st ≠ .failed ∧ s1.reached (boundaryQ b + 100 * qNs) = false) ∧
  (let dt : Nat := 0;
    let k : Nat := 0;
    let b : Nat := 3;
    let ls : Bool := false;
    let s : State := wDiag false 4;
    let e := engOfKey ls k;
    let s1 := s.advance dt;
    (s.eng e).diagDue = some b ∧ (s.eng e).diagOn = false ∧ (s.eng e).st ≠ .failed ∧ s1.reached (boundaryQ b + 100 * qNs) = true) ∧
  (let dt : Nat := 0;
    let k : Nat := 0;
    let b : Nat := 3;
    let s : State := wDiag true 3;
    let x : Inst := iRun;
    let d : Diag := diag0;
    let a : Eng := pe1;
    let e := engOfKey false k;
    let s1 := s.advance dt;
    k < 544 ∧ (s.eng e).diagDue = some b ∧ (s.eng e).diagOn = true ∧ s.anvil.injections = [] ∧ s1.now ≤ boundaryQ b + 6100 * qNs ∧ s.anvil.diags = [d] ∧ d.engs = [a, e] ∧ a ≠ e ∧ d.results = [(a, true)] ∧ d.good = none ∧ d.due = b ∧ s.inst d.fi = some x ∧ (s.eng a).transients = [] ∧ (s.eng e).transients = []) ∧
  (let s : State := w0;
    s.anvil.uncorrAt = [] ∧ s.anvil.errs = []) ∧
  (let region : Nat := 0;
    let cc : Nat := 31;
    let s : State := { w0 with anvil.errs := [(0x7C0000 * 17 / 32, false)] };
    s.anvil.uncorrAt = [] ∧
    let here (l : Nat) : Prop := lineRegion l = (region, if region ≤ 2 then cc else 0);
    let l := 0x7C0000 * 17 / 32;
    s.anvil.errs = [(l, false)] ∧ here l) ∧
  (let region : Nat := 0;
    let cc : Nat := 0;
    let s : State := { w0 with anvil.errs := [(1, true)] };
    s.anvil.uncorrAt = [] ∧
    let here (l : Nat) : Prop := lineRegion l = (region, if region ≤ 2 then cc else 0);
    let l := 1;
    s.anvil.errs = [(l, true)] ∧ here l ∧ s.anvil.rewritten = []) ∧
  (let s : State := { w0 with anvil.selfTest := false };
    s.anvil.selfTest = false) ∧
  (let id : Nat := 543;
    let s : State := w0;
    s.anvil.selfTest = true ∧ s.anvil.injections = [] ∧ id < 544) ∧
  (let id : Nat := 543;
    let s : State := w0.setEng (engOfKey false 543) { st := .spare };
    s.anvil.selfTest = true ∧ s.anvil.injections = [] ∧ id < 544 ∧ (s.eng (engOfKey false id)).st = .spare) ∧
  (let id : Nat := 47;
    let s : State := w0;
    s.anvil.selfTest = true ∧ s.anvil.injections = [] ∧ s.anvil.cmps[id]? = some .spare) ∧
  (let id : Nat := 128;
    let s : State := w0;
    s.anvil.selfTest = true ∧ s.anvil.injections = [] ∧ s.laneFree (id / 128, id % 128) = true ∧ s.anvil.cmps[id / 128]? = some .inService) := by
  repeat' with_reducible apply And.intro
  all_goals decide +kernel

/-- The hypotheses of `Obligations.PairStateMachine` are met. -/
theorem witness_PairStateMachine :
  (w0.pair.st = .unpaired) ∧
  (let dt : Nat := 0;
    let s : State := late3 (pairUp pWait);
    s.pair.st = .waiting ∧ s.pair.pairOk = false ∧ (s.advance dt).tb3Passed s.pair.waitSince (if s.boot.pairStrap = 2 then 150000 else 100000) = true) ∧
  (let s : State := w0;
    s.pair.st ≠ .waiting) ∧
  (let level : Bool := false;
    let s : State := w0;
    level = s.pair.pairOk) ∧
  (let level : Bool := true;
    let s : State := w0;
    level ≠ s.pair.pairOk) ∧
  (let dt : Nat := 0;
    let rx : PairRx := rx0;
    let s : State := pairUp pWait;
    let u : State := taken (pairUp pWait);
    s.pair.st ≠ .unpaired ∧ (s.advance dt).pairTake rx = (true, u)) ∧
  (let dt : Nat := 0;
    let rx : PairRx := rx0;
    let s : State := pairUp pStandby;
    let u : State := taken (pairUp pStandby);
    s.pair.st ≠ .unpaired ∧ (s.advance dt).pairTake rx = (true, u)) ∧
  (let dt : Nat := 0;
    let b : Nat := 2;
    let s : State := after6 (pairUp pStandby) 2;
    let s1 := s.advance dt;
    s1.tickDue 5000 = some b ∧ s.pair.pairOk = false ∧ s1.tb3Passed s.pair.okSince 1 = true ∧ ((∀ n, s.pair.lastTickRx = some n → n < b))) ∧
  (let s : State := { w0 with pair.pairOk := true };
    s.pair.pairOk = true) ∧
  (let dt : Nat := 0;
    let b : Nat := 2;
    let s : State := after6 (pairUp pAlone) 2;
    (s.advance dt).tickDue 3000 = some b ∧ (∃ n, s.pair.lastTickTx = some n ∧ b ≤ n)) ∧
  (let dt : Nat := 0;
    let b : Nat := 3;
    let s : State := after6 (pairUp pAlone) 3;
    (s.advance dt).tickDue 3000 = some b ∧ ((∀ n, s.pair.lastTickTx = some n → n < b)) ∧ ((s.pair.st = .active ∨ s.pair.st = .activeAlone))) ∧
  (let dt : Nat := 0;
    let b : Nat := 2;
    let s : State := after6 (pairUp pAlone) 2;
    s.pair.switchTick = none ∧ (s.advance dt).tickDue 1000 = some b ∧ s.pair.st ≠ .unpaired ∧ s.pair.lastTickTx = some b) ∧
  (let dt : Nat := 0;
    let b : Nat := 3;
    let s : State := after6 (pairUp pAlone) 3;
    s.pair.switchTick = none ∧ (s.advance dt).tickDue 1000 = some b ∧ s.pair.st ≠ .unpaired ∧ s.pair.lastTickTx ≠ some b) ∧
  (let dt : Nat := 0;
    let t0 : Nat := 0;
    let s : State := late3 (pairUp { pAlone with silentA := false, lastA := some 0 });
    s.pair.silentA = false ∧ s.pair.silentB = true ∧ s.pair.lastA = some t0 ∧ (s.advance dt).tb3Passed t0 5 = true) := by
  repeat' with_reducible apply And.intro
  all_goals decide +kernel

/-- The hypotheses of `Obligations.StandbyFollowsTheActive` are met. -/
theorem witness_StandbyFollowsTheActive :
  (let shadow (s u : State) (dt : Nat) (rx : PairRx) : Prop :=
      s.pair.st ≠ .unpaired ∧ (s.advance dt).pairTake rx = (true, u) ∧ (u.pair.st = .standby ∨ u.pair.st = .standbySync);
    let dt : Nat := 0;
    let fi : Nat := 1;
    let tick : Nat := 1;
    let sig : Nat := 1;
    let outCrc : Nat := 2;
    let imgCrc : Nat := 3;
    let held : Bool := false;
    let rx : PairRx := rx0;
    let s : State := wShadow;
    let u : State := taken wShadow;
    let o : ShadowResult := sh0;
    let l := u.pair.results.getD fi [];
    let same := o.imgCrc = imgCrc ∧ o.held = held;
    shadow s u dt rx ∧ l.find? (fun r => r.tick == tick) = some o ∧ same ∧ ((held = true ∨ (o.sig = sig ∧ o.outCrc = outCrc)))) ∧
  (let shadow (s u : State) (dt : Nat) (rx : PairRx) : Prop :=
      s.pair.st ≠ .unpaired ∧ (s.advance dt).pairTake rx = (true, u) ∧ (u.pair.st = .standby ∨ u.pair.st = .standbySync);
    let dt : Nat := 0;
    let fi : Nat := 1;
    let tick : Nat := 1;
    let imgCrc : Nat := 4;
    let rx : PairRx := rx0;
    let s : State := wShadow;
    let u : State := taken wShadow;
    let o : ShadowResult := sh0;
    let l := u.pair.results.getD fi [];
    shadow s u dt rx ∧ l.find? (fun r => r.tick == tick) = some o ∧ o.imgCrc ≠ imgCrc) ∧
  (let shadow (s u : State) (dt : Nat) (rx : PairRx) : Prop :=
      s.pair.st ≠ .unpaired ∧ (s.advance dt).pairTake rx = (true, u) ∧ (u.pair.st = .standby ∨ u.pair.st = .standbySync);
    let dt : Nat := 0;
    let fi : Nat := 1;
    let tick : Nat := 1;
    let imgCrc : Nat := 3;
    let held : Bool := true;
    let rx : PairRx := rx0;
    let s : State := wShadow;
    let u : State := taken wShadow;
    let o : ShadowResult := sh0;
    let l := u.pair.results.getD fi [];
    shadow s u dt rx ∧ l.find? (fun r => r.tick == tick) = some o ∧ o.imgCrc = imgCrc ∧ o.held ≠ held) ∧
  (let shadow (s u : State) (dt : Nat) (rx : PairRx) : Prop :=
      s.pair.st ≠ .unpaired ∧ (s.advance dt).pairTake rx = (true, u) ∧ (u.pair.st = .standby ∨ u.pair.st = .standbySync);
    let dt : Nat := 0;
    let fi : Nat := 1;
    let tick : Nat := 1;
    let sig : Nat := 9;
    let outCrc : Nat := 2;
    let imgCrc : Nat := 3;
    let held : Bool := false;
    let rx : PairRx := rx0;
    let s : State := wShadow;
    let u : State := taken wShadow;
    let o : ShadowResult := sh0;
    let l := u.pair.results.getD fi [];
    let same := o.imgCrc = imgCrc ∧ o.held = held;
    shadow s u dt rx ∧ l.find? (fun r => r.tick == tick) = some o ∧ same ∧ held = false ∧ ((o.sig ≠ sig ∨ o.outCrc ≠ outCrc)) ∧ u.pair.mismatches = []) ∧
  (let shadow (s u : State) (dt : Nat) (rx : PairRx) : Prop :=
      s.pair.st ≠ .unpaired ∧ (s.advance dt).pairTake rx = (true, u) ∧ (u.pair.st = .standby ∨ u.pair.st = .standbySync);
    let dt : Nat := 0;
    let rx : PairRx := rx0;
    let s : State := wShadow;
    let u : State := taken wShadow;
    shadow s u dt rx) ∧
  (let shadow (s u : State) (dt : Nat) (rx : PairRx) : Prop :=
      s.pair.st ≠ .unpaired ∧ (s.advance dt).pairTake rx = (true, u) ∧ (u.pair.st = .standby ∨ u.pair.st = .standbySync);
    let dt : Nat := 0;
    let fi : Nat := 1;
    let off : Nat := 1;
    let rx : PairRx := rx0;
    let s : State := wShadowI;
    let u : State := taken wShadowI;
    let x : Inst := i1;
    shadow s u dt rx ∧ u.inst fi = some x ∧ 0 < off) ∧
  (let shadow (s u : State) (dt : Nat) (rx : PairRx) : Prop :=
      s.pair.st ≠ .unpaired ∧ (s.advance dt).pairTake rx = (true, u) ∧ (u.pair.st = .standby ∨ u.pair.st = .standbySync);
    let dt : Nat := 0;
    let mseq : Nat := 6;
    let m : Nat := 5;
    let rx : PairRx := rx0;
    let s : State := wShadow;
    let u : State := taken wShadow;
    shadow s u dt rx ∧ u.zenithUp = true ∧ u.pair.mirrorRx = some m ∧ m ≠ mseq ∧ u.pair.st = .standby) ∧
  (let shadow (s u : State) (dt : Nat) (rx : PairRx) : Prop :=
      s.pair.st ≠ .unpaired ∧ (s.advance dt).pairTake rx = (true, u) ∧ (u.pair.st = .standby ∨ u.pair.st = .standbySync);
    let dt : Nat := 0;
    let mseq : Nat := 5;
    let pkt : Bytes := mirrorOf 1 [1, 0, 2, 0];
    let rx : PairRx := rx0;
    let s : State := wShadow;
    let u : State := taken wShadow;
    shadow s u dt rx ∧ u.zenithUp = true ∧ ((u.pair.mirrorRx = none ∨ u.pair.mirrorRx = some mseq)) ∧ u16 pkt 0 = opMirrorPhase) ∧
  (let shadow (s u : State) (dt : Nat) (rx : PairRx) : Prop :=
      s.pair.st ≠ .unpaired ∧ (s.advance dt).pairTake rx = (true, u) ∧ (u.pair.st = .standby ∨ u.pair.st = .standbySync);
    let dt : Nat := 0;
    let mseq : Nat := 5;
    let pkt : Bytes := mirrorOf 0x0608 (le 4 1);
    let rx : PairRx := rx0;
    let s : State := wShadowS;
    let u : State := taken wShadowS;
    shadow s u dt rx ∧ u.zenithUp = true ∧ ((u.pair.mirrorRx = none ∨ u.pair.mirrorRx = some mseq)) ∧ u16 pkt 0 ≠ opMirrorPhase ∧ u16 pkt 0 ≠ opMirrorMoved ∧
    let v := ({ u with
      pair.mirrorRx := some ((mseq + 1) % 2 ^ 32), pair.mirrorLog := u.pair.mirrorLog ++ [pkt] } : State).runMirror pkt;
    let d := 0;
    let b := ([] : Bytes);
    v.cmd.remote = some (stOk, d, b)) := by
  repeat' with_reducible apply And.intro
  all_goals decide +kernel

/-- The hypotheses of `Obligations.StratusCommandsComplete` are met. -/
theorem witness_StratusCommandsComplete :
  let ports (c : Cmd) : List Nat := [byteAt c.params 2, byteAt c.params 3, byteAt c.params 4, byteAt c.params 5]
  let manager (s : State) (c : Cmd) : Prop := s.boot.role = 1 ∨ (s.boot.role = 2 ∧ c.own = false)
  let mayset (s : State) (c : Cmd) : Prop := s.boot.role ≠ 0 ∧ (∀ p ∈ s.place.insts, p.2.isPlaced = false) ∧
    (∀ n ∈ ports c, (s.pair.configured = true → s.pair.linkA ≠ n ∧ s.pair.linkB ≠ n) ∧
      ((s.chan 65).enabled = true → s.cmd.ethPort ≠ n)) ∧
    s.slotFits c.inst (u16 c.params 6) needStratus = true ∧ (s.pair.configured = true → s.pair.node = byteAt c.params 0) ∧
    s.quadConflict (ports c) = false ∧ ∃ k, s.useSlot (u16 c.params 6) = .ok k
  let v (c : Cmd) : Nat := u16 c.params 0
  let load (s : State) (c : Cmd) : SchedLoad :=
    let x := s.stratus.loads.getD (v c) { total := u32 c.params 8, got := [] }
    { x with got := putChunk x.got (u32 c.params 4) (c.params.drop 12) }
  let bytes (s : State) (c : Cmd) : Bytes := (load s c).got.map (·.2)
  let sigs (c : Cmd) : List Nat := bindSignalsOf c.params
  let free (s : State) (c : Cmd) : Prop := s.boot.role ≠ 0 ∧ ∀ g ∈ sigs c, g ≠ 0xFFFF → s.drivenByOther g (.stratus (v c)) = false
  let next (s : State) : Nat := roundFrom (s.stratus.tables.getD s.stratus.version []) (s.tb2Q + 10000000 * qNs)
  let round (s : State) (c : Cmd) : Nat := if u64 c.params 0 = 0 then next s else u64 c.params 0
  Met cardSetStratus (fun s c => mayset s c ∧ byteAt c.params 1 = 0)
    (keyed (wRole 1 {}) 3 4 0x14 256 key32) (pkt 64 0 (fields 20 [(1, 1, 0), (6, 2, 3), (2, 4, 1818780768), (10, 1, 2), (12, 1, 1)])) ∧
  Met cardSetStratus (fun s c => mayset s c ∧ byteAt c.params 1 = 1)
    (keyed (wRole 1 {}) 3 4 0x14 256 key32) (pkt 64 0 (fields 20 [(1, 1, 1), (6, 2, 3), (2, 4, 1818780768), (10, 1, 2), (12, 1, 1)])) ∧
  Met cardLoadSchedule (fun s c => manager s c ∧ (load s c).got.length ≠ (load s c).total)
    (wRole 1 {}) (pkt 64 0 (fields 16 [(0, 2, 7), (4, 4, 0), (8, 4, 44)])) ∧
  Met cardLoadSchedule (fun s c => manager s c ∧ (load s c).got.length = (load s c).total ∧
      crc32c ((bytes s c).take ((load s c).total - 4)) = u32 (bytes s c) ((load s c).total - 4) ∧
      schFault (bytes s c) (v c) (load s c).total = none ∧ (schFrames (bytes s c)).length ≤ 32 ∧ s.roundFits (bytes s c) = true)
    (wRole 1 { cfg := some stCfg }) (pkt 64 0 (le 2 7 ++ le 2 0 ++ le 4 0 ++ le 4 44 ++ sch)) ∧
  Met cardActivateSchedule (fun s c => manager s c ∧ s.stratus.tables.has (v c) = true ∧ v c ≠ s.stratus.version ∧ s.stratus.activation = none)
    (wRole 1 { cfg := some stCfg, backup := 1, tables := [(7, sch)], version := 0, nodes := [(1, [1])] }) (pkt 64 0 (fields 4 [(0, 2, 7)])) ∧
  Met cardActivateSchedule (fun s c => manager s c ∧ (s.stratus.tables.has (v c) = false ∨ v c = s.stratus.version))
    (wRole 1 { cfg := some stCfg, backup := 1, tables := [(7, sch)], version := 7, nodes := [(1, [1])] }) (pkt 64 0 (fields 4 [(0, 2, 7)])) ∧
  Met cardBindReceive (fun s c => free s c ∧ u16 c.params 2 = 0)
    (wRole 1 {}) (pkt 64 0 (fields 8 [(0, 2, 0), (2, 2, 0)])) ∧
  Met cardBindReceive (fun s c => free s c ∧ 0 < u16 c.params 2)
    (wRole 1 {}) (pkt 64 0 (fields 12 [(0, 2, 0), (2, 2, 1)])) ∧
  Met cardGetStratusStatus (fun _ _ => True)
    w0 (pkt 64 0 (fields 4 [])) ∧
  Met cardGetSlot (fun s c => s.boot.role ≠ 0 ∧ s.stratus.binds.has (v c) = true)
    (wRole 1 { binds := [(0, { ageLimit := 1, signals := [9], values := [0], safes := [false], ages := [0], ever := [false], counters := [0, 0, 0, 0, 0] })] }) (pkt 64 0 (fields 4 [(0, 2, 0)])) ∧
  Met cardGetSlot (fun s c => s.boot.role ≠ 0 ∧ s.stratus.binds.has (v c) = false)
    (wRole 1 {}) (pkt 64 0 (fields 4 [(0, 2, 0)])) ∧
  Met cardGetSync (fun s _ => s.boot.role ≠ 0)
    (wRole 1 {}) (pkt 64 0 []) ∧
  Met cardHandoverManager (fun s c => manager s c ∧ s.stratus.tables.has s.stratus.version = true ∧ s.stratus.backup ∈ s.presentNodes ∧
      next s ≤ round s c)
    (timed (wRole 1 { cfg := some stCfg, backup := 1, tables := [(7, sch)], version := 7, nodes := [(1, [1])] })) (pkt 64 0 (fields 8 [(0, 8, 0)])) ∧
  Met cardHandoverManager (fun s c => manager s c ∧ s.stratus.tables.has s.stratus.version = true ∧ s.stratus.backup ∈ s.presentNodes ∧
      round s c < next s)
    (timed (wRole 1 { cfg := some stCfg, backup := 1, tables := [(7, sch)], version := 7, nodes := [(1, [1])] })) (pkt 64 0 (fields 8 [(0, 8, 1)])) ∧
  Met cardGetNodes (fun s _ => s.boot.role ≠ 0)
    (wRole 1 {}) (pkt 64 0 []) ∧
  Met cardSetStratus (fun s _ => s.boot.role = 0) w0 (pkt 64 0 (fields 20 [(1, 1, 0), (6, 2, 3), (2, 4, 1818780768), (10, 1, 2), (12, 1, 1)])) ∧
  Met cardBindReceive (fun s _ => s.boot.role = 0) w0 (pkt 64 0 (fields 8 [(0, 2, 0), (2, 2, 0)])) ∧
  Met cardGetSlot (fun s _ => s.boot.role = 0) w0 (pkt 64 0 (fields 4 [(0, 2, 0)])) ∧
  Met cardGetSync (fun s _ => s.boot.role = 0) w0 (pkt 64 0 []) ∧
  Met cardLoadSchedule (fun s _ => s.boot.role = 0) w0 (pkt 64 0 (fields 16 [(0, 2, 7), (4, 4, 0), (8, 4, 44)])) ∧
  Met cardActivateSchedule (fun s _ => s.boot.role = 0) w0 (pkt 64 0 (fields 4 [(0, 2, 7)])) ∧
  Met cardHandoverManager (fun s _ => s.boot.role = 0) w0 (pkt 64 0 (fields 8 [(0, 8, 0)])) ∧
  Met cardGetNodes (fun s _ => s.boot.role = 0) w0 (pkt 64 0 []) ∧
  Met cardLoadSchedule (fun s c => s.boot.role ≠ 1 ∧ c.own = true) (wRole 2 {}) (pkt 64 0 (fields 16 [(0, 2, 7), (4, 4, 0), (8, 4, 44)])) ∧
  Met cardActivateSchedule (fun s c => s.boot.role ≠ 1 ∧ c.own = true) (wRole 2 {}) (pkt 64 0 (fields 4 [(0, 2, 7)])) ∧
  Met cardHandoverManager (fun s c => s.boot.role ≠ 1 ∧ c.own = true) (wRole 2 {}) (pkt 64 0 (fields 8 [(0, 8, 0)])) := by
  repeat' with_reducible apply And.intro
  all_goals refine ⟨by decide +kernel, ?_⟩
  · exact ⟨⟨by decide +kernel, by decide +kernel, by decide +kernel, by decide +kernel, by decide +kernel, by decide +kernel, _, use_ok (n := 3) (by decide +kernel) (by decide +kernel) (slotOf_whole 3 4 0x14)⟩, by decide +kernel⟩
  · exact ⟨⟨by decide +kernel, by decide +kernel, by decide +kernel, by decide +kernel, by decide +kernel, by decide +kernel, _, use_ok (n := 3) (by decide +kernel) (by decide +kernel) (slotOf_whole 3 4 0x14)⟩, by decide +kernel⟩
  · first | exact True.intro | (try dsimp only); decide +kernel
  · first | exact True.intro | (try dsimp only); decide +kernel
  · first | exact True.intro | (try dsimp only); decide +kernel
  · first | exact True.intro | (try dsimp only); decide +kernel
  · first | exact True.intro | (try dsimp only); decide +kernel
  · first | exact True.intro | (try dsimp only); decide +kernel
  · exact True.intro
  · first | exact True.intro | (try dsimp only); decide +kernel
  · first | exact True.intro | (try dsimp only); decide +kernel
  · first | exact True.intro | (try dsimp only); decide +kernel
  · first | exact True.intro | (try dsimp only); decide +kernel
  · first | exact True.intro | (try dsimp only); decide +kernel
  · first | exact True.intro | (try dsimp only); decide +kernel
  · first | exact True.intro | (try dsimp only); decide +kernel
  · first | exact True.intro | (try dsimp only); decide +kernel
  · first | exact True.intro | (try dsimp only); decide +kernel
  · first | exact True.intro | (try dsimp only); decide +kernel
  · first | exact True.intro | (try dsimp only); decide +kernel
  · first | exact True.intro | (try dsimp only); decide +kernel
  · first | exact True.intro | (try dsimp only); decide +kernel
  · first | exact True.intro | (try dsimp only); decide +kernel
  · first | exact True.intro | (try dsimp only); decide +kernel
  · first | exact True.intro | (try dsimp only); decide +kernel
  · first | exact True.intro | (try dsimp only); decide +kernel

/-- The hypotheses of `Obligations.StratusRoundsAndCommits` are met. -/
theorem witness_StratusRoundsAndCommits :
  (let live (s : State) (b : Bytes) : Prop := s.stratus.st ≠ .disabled ∧ s.stratus.tables.get s.stratus.version = some b;
    let dt : Nat := 0;
    let r : Nat := 0;
    let b : Bytes := sch;
    let s : State := wRing 2 rg0;
    let s1 := s.advance dt;
    live s1 b ∧ s1.stratus.activation = none ∧ s1.stratus.handover = none ∧ roundAt b s1.tb2Q = some r ∧ (∃ k, s1.stratus.started = some k ∧ r ≤ k)) ∧
  (let live (s : State) (b : Bytes) : Prop := s.stratus.st ≠ .disabled ∧ s.stratus.tables.get s.stratus.version = some b;
    let dt : Nat := 0;
    let r : Nat := 0;
    let b : Bytes := sch;
    let s : State := wRing 2 { rg0 with started := none };
    let s1 := s.advance dt;
    live s1 b ∧ s1.stratus.activation = none ∧ s1.stratus.handover = none ∧ roundAt b s1.tb2Q = some r ∧ ((∀ k, s1.stratus.started = some k → k < r)) ∧ s1.stratus.polling = false ∧ s1.boot.role = 2) ∧
  (let live (s : State) (b : Bytes) : Prop := s.stratus.st ≠ .disabled ∧ s.stratus.tables.get s.stratus.version = some b;
    let dt : Nat := 0;
    let r : Nat := 0;
    let b : Bytes := sch;
    let h : HeldPoll := heldP;
    let s : State := late2 (wRing 2 { rg0 with held := [heldP] });
    let s1 := s.advance dt;
    let at_ := roundStart b r + centQ (trainTo b h.index + d2 b s1.devices s1.delayMax);
    live s1 b ∧ s1.stratus.started = some r ∧ s1.stratus.held = [h] ∧ at_ ≤ s1.tb2Q) ∧
  (let live (s : State) (b : Bytes) : Prop := s.stratus.st ≠ .disabled ∧ s.stratus.tables.get s.stratus.version = some b;
    let dt : Nat := 0;
    let r : Nat := 0;
    let b : Bytes := sch;
    let h : HeldPoll := heldP;
    let s : State := wRing 2 { rg0 with held := [heldP] };
    let s1 := s.advance dt;
    let at_ := roundStart b r + centQ (trainTo b h.index + d2 b s1.devices s1.delayMax);
    live s1 b ∧ s1.stratus.started = some r ∧ s1.stratus.held = [h] ∧ s1.tb2Q < at_) ∧
  (let dt : Nat := 0;
    let inR : Nat := 0;
    let rx : StratusRx := rxBad;
    let s : State := wRing 2 rg0;
    let s1 := s.advance dt;
    s1.stratus.st ≠ .disabled ∧ s1.portUp rx.port = true ∧ s1.inRing rx.port = some inR ∧ s1.openLink inR rx = none) ∧
  (let dt : Nat := 0;
    let inR : Nat := 0;
    let rx : StratusRx := rxS;
    let p : Bytes := poll 1;
    let s : State := wRing 1 rgM;
    let s1 := s.advance dt;
    s1.stratus.st ≠ .disabled ∧ s1.portUp rx.port = true ∧ s1.inRing rx.port = some inR ∧
    let u := openedS (wRing 1 rgM);
    s1.openLink inR rx = some u ∧ byteAt p 0x0F ≠ 0 ∧ u32 p 0x14 < u.stratus.epoch) ∧
  (let dt : Nat := 0;
    let inR : Nat := 0;
    let rx : StratusRx := rxS;
    let p : Bytes := poll 1;
    let s : State := wRing 1 { rgM with epoch := 0 };
    let s1 := s.advance dt;
    s1.stratus.st ≠ .disabled ∧ s1.portUp rx.port = true ∧ s1.inRing rx.port = some inR ∧
    let u := openedS (wRing 1 { rgM with epoch := 0 });
    s1.openLink inR rx = some u ∧ byteAt p 0x0F ≠ 0 ∧ u.stratus.epoch < u32 p 0x14 ∧ u.boot.role = 1) ∧
  (let live (s : State) (b : Bytes) : Prop := s.stratus.st ≠ .disabled ∧ s.stratus.tables.get s.stratus.version = some b;
    let dt : Nat := 0;
    let inR : Nat := 0;
    let rx : StratusRx := rxS;
    let p : Bytes := poll 0;
    let s : State := wRing 2 rg0;
    let s1 := s.advance dt;
    s1.stratus.st ≠ .disabled ∧ s1.portUp rx.port = true ∧ s1.inRing rx.port = some inR ∧
    let u := openedS (wRing 2 rg0);
    s1.openLink inR rx = some u ∧ byteAt p 0x0F ≠ 0 ∧
    let b := sch;
    let o := 0x18;
    let slot := 0;
    let sigs := ([{ value := 5, flags := 1 }] : List SlotSig);
    u32 p 0x14 = u.stratus.epoch ∧ u.stratus.polling = false ∧ u.stratus.listenAt = none ∧ live u b ∧ byteAt p 0x12 = 2 ∧ u64 p 4 < 2 ^ 64 ∧ u.stratus.started = some (u64 p 4) ∧ u16 p 0x0C = u.stratus.version ∧ 9 * rx.tIn ≤ u.commitAt b (u64 p 4) ∧ byteAt p 0x13 ≤ 1 ∧ readRecords 200 (u64 p 4) p 0x18 = [(o, slot, sigs, true)] ∧ u.stratus.seen.get (2 * slot + byteAt p 0x13) = none) ∧
  (let live (s : State) (b : Bytes) : Prop := s.stratus.st ≠ .disabled ∧ s.stratus.tables.get s.stratus.version = some b;
    let dt : Nat := 0;
    let r : Nat := 0;
    let b : Bytes := sch;
    let s : State := wRing 2 rg0;
    let s1 := s.advance dt;
    live s1 b ∧ s1.stratus.started = some r ∧ s1.tb2Q < s1.commitAt b r) ∧
  (let live (s : State) (b : Bytes) : Prop := s.stratus.st ≠ .disabled ∧ s.stratus.tables.get s.stratus.version = some b;
    let commit (s : State) (b : Bytes) (r : Nat) : Prop := live s b ∧ s.stratus.started = some r ∧ s.commitAt b r ≤ s.tb2Q ∧
      s.stratus.round ≠ r;
    let dt : Nat := 0;
    let r : Nat := 0;
    let b : Bytes := sch;
    let s : State := late2 (wRing 2 rgC);
    let s1 := s.advance dt;
    live s1 b ∧ s1.stratus.started = some r ∧ commit s1 b r ∧ (s1.stratus.binds.map (·.1)).Nodup) ∧
  (let dt : Nat := 0;
    let n : Nat := 2;
    let s : State := wRing 1 rgM;
    let s1 := s.advance dt;
    s1.stratus.polling = true ∧ s1.stratus.nodeGone.getD n 0 < 16) ∧
  (let dt : Nat := 0;
    let n : Nat := 1;
    let e : Bytes := ([0, 0, 2] : Bytes);
    let s : State := wRing 1 rgM;
    let s1 := s.advance dt;
    s1.stratus.polling = true ∧ 16 ≤ s1.stratus.nodeGone.getD n 0 ∧ s1.stratus.nodeLast.get n = some e ∧ bit (byteAt e 2) 1 = true) ∧
  (let dt : Nat := 0;
    let n : Nat := 1;
    let e : Bytes := ([0, 0, 0] : Bytes);
    let s : State := wRing 1 rgW;
    let s1 := s.advance dt;
    s1.stratus.polling = true ∧ 16 ≤ s1.stratus.nodeGone.getD n 0 ∧ s1.stratus.nodeLast.get n = some e ∧ bit (byteAt e 2) 1 = false ∧ ((∀ q ∈ s1.place.insts, q.2.place ≠ .assigned ∨ q.2.node ≠ n))) ∧
  (let dt : Nat := 0;
    let dst : Nat := 3;
    let ring : Nat := 0;
    let rx : StratusRx := rxS;
    let s : State := wRing 2 rg0;
    let u : State := openedS (wRing 2 rg0);
    let s1 := s.advance dt;
    s1.stratus.st ≠ .disabled ∧ s1.portUp rx.port = true ∧ s1.inRing rx.port = some ring ∧ s1.openLink ring rx = some u ∧ dst ≠ u.ownNode ∧ dst ≠ 0xFF) ∧
  (let dt : Nat := 0;
    let src : Nat := 1;
    let dst : Nat := 2;
    let ring : Nat := 0;
    let rx : StratusRx := rxS;
    let s : State := wRing 2 rg0;
    let u : State := openedS (wRing 2 rg0);
    let s1 := s.advance dt;
    s1.stratus.st ≠ .disabled ∧ s1.portUp rx.port = true ∧ s1.inRing rx.port = some ring ∧ s1.openLink ring rx = some u ∧ src ≠ u.ownNode ∧ dst = u.ownNode ∧ u.zenithUp = true ∧ u.mute = false) ∧
  (let dt : Nat := 0;
    let m : MgmtMsg := msg0;
    let s : State := wRing 2 { rg0 with outbox := [msg0] };
    let s1 := s.advance dt;
    s1.stratus.outbox = [m] ∧ visNs s1.tb3 < m.at_ + 10000000) ∧
  (let dt : Nat := 0;
    let m : MgmtMsg := { msg0 with tries := 100 };
    let s : State := late3 (wRing 2 { rg0 with outbox := [{ msg0 with tries := 100 }] });
    let s1 := s.advance dt;
    s1.stratus.outbox = [m] ∧ m.at_ + 10000000 ≤ visNs s1.tb3 ∧ 100 ≤ m.tries) ∧
  (let dt : Nat := 0;
    let m : MgmtMsg := msg0;
    let s : State := late3 (wRing 2 { rg0 with outbox := [msg0] });
    let s1 := s.advance dt;
    s1.stratus.outbox = [m] ∧ m.at_ + 10000000 ≤ visNs s1.tb3 ∧ m.tries < 100) ∧
  (let dt : Nat := 0;
    let s : State := late3 (wRing 2 rg0);
    let s1 := s.advance dt;
    let may := s1.boot.role = 2 ∧ s1.stratus.st ≠ .disabled ∧ s1.stratus.manager ≠ 0xFF ∧ (s1.pair.st = .unpaired ∨ s1.inControl = true);
    may ∧ s1.stratus.reportAt + 100000000 ≤ visNs s1.tb3) ∧
  (let dt : Nat := 0;
    let s : State := w0;
    let s1 := s.advance dt;
    let may := s1.boot.role = 2 ∧ s1.stratus.st ≠ .disabled ∧ s1.stratus.manager ≠ 0xFF ∧ (s1.pair.st = .unpaired ∨ s1.inControl = true);
    (¬ may)) ∧
  (let dt : Nat := 0;
    let t0 : Nat := 0;
    let s : State := late3 (wRing 2 { rg0 with listenAt := some 0 });
    s.stratus.listenAt = some t0 ∧ t0 + 2000000 ≤ visNs (s.advance dt).tb3) ∧
  (let dt : Nat := 0;
    let t0 : Nat := 0;
    let s : State := wRing 2 { rg0 with listenAt := some 0 };
    s.stratus.listenAt = some t0 ∧ visNs (s.advance dt).tb3 < t0 + 2000000) ∧
  (let dt : Nat := 0;
    let port : Nat := 0;
    let ring : Nat := 0;
    let rtt : Nat := 100;
    let s : State := wRing 2 rg0;
    let s1 := s.advance dt;
    s1.inRing port = some ring ∧ rtt / 2 ≤ s1.delayMax * 65536) ∧
  (let dt : Nat := 0;
    let port : Nat := 0;
    let ring : Nat := 0;
    let rtt : Nat := 1000000;
    let s : State := wRing 2 rg0;
    let s1 := s.advance dt;
    s1.inRing port = some ring ∧ s1.delayMax * 65536 < rtt / 2) := by
  repeat' with_reducible apply And.intro
  all_goals decide +kernel

/-- The hypotheses of `Obligations.TimeCommandsComplete` are met. -/
theorem witness_TimeCommandsComplete :
  let b (c : Cmd) : Nat := byteAt c.params 0
  let want (s : State) (c : Cmd) : PtpBase := { s.ptp (b c) with
    enable := byteAt c.params 1 == 1, profile := byteAt c.params 2, domain := byteAt c.params 3, ports := uN c.params 4 16
    vlan := u16 c.params 0x14, bw := byteAt c.params 0x16
    lockNs := if u16 c.params 0x18 = 0 then 100 else u16 c.params 0x18 }
  let free (s : State) (c : Cmd) : Prop := (b c = s.followNo → s.anyRunning = false) ∧
    (∀ n ∈ bitList 128 (uN c.params 4 16), s.portRole n = 0 ∧ ((s.chan 65).enabled = true → n ≠ s.cmd.ethPort)) ∧
    (byteAt c.params 1 = 1 → (s.ptp (1 - b c)).enable = true → (s.ptp (1 - b c)).domain = byteAt c.params 3 →
      (s.ptp (1 - b c)).ports &&& uN c.params 4 16 = 0)
  let now (s : State) (c : Cmd) : Nat := (s.pulseBase (byteAt c.params 2)).1
  let ahead (s : State) (c : Cmd) : Int := sdiff 80 (time80 c.params 4) (now s c)
  let still (s : State) : Prop := s.anyRunning = false ∧ ∀ q ∈ s.ingest.streams, q.2.st = .disabled
  Met cardSetPtp (fun s c => free s c ∧ want s c ≠ s.ptp (b c))
    w0 (pkt 64 0 (fields 28 [(0, 1, 0), (1, 1, 1), (4, 1, 1)])) ∧
  Met cardSetPtp (fun s c => free s c ∧ want s c = s.ptp (b c))
    w0 (pkt 64 0 (fields 28 [(0, 1, 0), (1, 1, 0), (4, 8, 0), (12, 8, 0), (20, 2, 0), (22, 1, 1), (24, 2, 0)])) ∧
  Met cardSetPtp (fun s c => b c = s.followNo ∧ s.anyRunning = true)
    (wInst { i1 with run := .running }) (pkt 64 0 (fields 28 [(0, 1, 0)])) ∧
  Met cardGetPtpStatus (fun _ _ => True)
    w0 (pkt 64 0 (fields 4 [])) ∧
  Met cardSetPortTiming (fun _ _ => True)
    w0 (pkt 64 0 (fields 16 [])) ∧
  Met cardSelectTime (fun s c => b c = s.followNo ∧ s.horizon.ptSt = .synced)
    (timed w0) (pkt 64 0 (fields 8 [(0, 1, 0), (4, 1, 1), (2, 1, 1)])) ∧
  Met cardSelectTime (fun s c => b c ≠ s.followNo ∧ (s.ptp (b c)).st = .locked ∧ s.horizon.ptSt = .synced)
    (timed { w0 with horizon.tb1.st := .locked }) (pkt 64 0 (fields 8 [(0, 1, 1), (4, 1, 1), (2, 1, 1)])) ∧
  Met cardSelectTime (fun s c => b c ≠ s.followNo ∧ (s.ptp (b c)).st ≠ .locked)
    w0 (pkt 64 0 (fields 8 [(0, 1, 1), (4, 1, 1), (2, 1, 1)])) ∧
  Met cardGetTime (fun _ _ => True)
    w0 (pkt 64 0 []) ∧
  Met cardSetPulse (fun s c => byteAt c.params 1 = 1 → (ns10us : Nat) ≤ ahead s c)
    w0 (pkt 64 0 (fields 36 [(1, 1, 0), (28, 1, 8)])) ∧
  Met cardSetPulse (fun s c => byteAt c.params 1 = 1 ∧ ahead s c < (ns10us : Nat))
    w0 (pkt 64 0 (fields 36 [(1, 1, 1), (28, 1, 8)])) ∧
  Met cardSetCaptureInput (fun _ _ => True)
    w0 (pkt 64 0 (fields 4 [])) ∧
  Met cardReadCaptures (fun _ _ => True)
    w0 (pkt 64 0 (fields 4 [(1, 1, 1)])) ∧
  Met cardSetUtc (fun _ _ => True)
    w0 (pkt 64 0 (fields 12 [])) ∧
  Met cardStepProtectionTime (fun s _ => still s ∧ s.ptValid = true)
    (timed w0) (pkt 64 0 (fields 4 [(0, 2, 20776)])) ∧
  Met cardStepProtectionTime (fun s _ => ¬ still s)
    (timed (wInst { i1 with run := .running })) (pkt 64 0 (fields 4 [(0, 2, 20776)])) ∧
  Met cardStepProtectionTime (fun s _ => still s ∧ s.ptValid = false)
    w0 (pkt 64 0 (fields 4 [(0, 2, 20776)])) := by
  repeat' with_reducible apply And.intro
  all_goals refine ⟨by decide +kernel, ?_⟩
  all_goals try dsimp only
  all_goals first
    | exact True.intro
    | decide +kernel

/-- The hypotheses of `Obligations.TimeBasesFollowTheirRules` are met. -/
theorem witness_TimeBasesFollowTheirRules :
  (let dt : Nat := 0;
    let port : Nat := 0;
    let b : Nat := 0;
    let m : PtpSync := syn0;
    let s : State := wTb { tb .locked with selected := none };
    let s1 := s.advance dt;
    let x := s1.ptp b;
    s1.ptpBaseOf port m.domain m.vlan = some b ∧ x.selected ≠ some (port, m.sender)) ∧
  (let dt : Nat := 0;
    let port : Nat := 0;
    let b : Nat := 0;
    let m : PtpSync := { syn0 with twoStep := true };
    let s : State := wTb (tb .locked);
    let s1 := s.advance dt;
    let x := s1.ptp b;
    s1.ptpBaseOf port m.domain m.vlan = some b ∧ x.selected = some (port, m.sender) ∧ m.twoStep = true) ∧
  (let dt : Nat := 0;
    let port : Nat := 0;
    let b : Nat := 0;
    let m : PtpSync := syn0;
    let s : State := { wTb (tb .locked) with horizon.pllLock := false };
    let s1 := s.advance dt;
    let x := s1.ptp b;
    s1.ptpBaseOf port m.domain m.vlan = some b ∧ x.selected = some (port, m.sender) ∧ m.twoStep = false ∧ s1.horizon.pllLock = false) ∧
  (let dt : Nat := 0;
    let port : Nat := 0;
    let b : Nat := 0;
    let t2 : Nat := 1001 * 65536;
    let m : PtpSync := syn0;
    let s : State := wTb (tb .acquiring);
    let s1 := s.advance dt;
    let x := s1.ptp b;
    let o := s1.syncOffset port t2 m.origin m.corr;
    s1.ptpBaseOf port m.domain m.vlan = some b ∧ x.selected = some (port, m.sender) ∧ m.twoStep = false ∧ s1.horizon.pllLock = true ∧ x.st = .acquiring ∧ 1000 * 65536 < o.natAbs) ∧
  (let dt : Nat := 0;
    let port : Nat := 0;
    let b : Nat := 0;
    let t2 : Nat := 0;
    let m : PtpSync := syn0;
    let s : State := wTb (tb .acquiring);
    let s1 := s.advance dt;
    let x := s1.ptp b;
    let o := s1.syncOffset port t2 m.origin m.corr;
    s1.ptpBaseOf port m.domain m.vlan = some b ∧ x.selected = some (port, m.sender) ∧ m.twoStep = false ∧ s1.horizon.pllLock = true ∧ x.st = .acquiring ∧ o.natAbs ≤ 1000 * 65536) ∧
  (let dt : Nat := 0;
    let port : Nat := 0;
    let b : Nat := 0;
    let t2 : Nat := 0;
    let m : PtpSync := syn0;
    let s : State := wTb (tb .locked);
    let s1 := s.advance dt;
    let x := s1.ptp b;
    let o := s1.syncOffset port t2 m.origin m.corr;
    s1.ptpBaseOf port m.domain m.vlan = some b ∧ x.selected = some (port, m.sender) ∧ m.twoStep = false ∧ s1.horizon.pllLock = true ∧ x.st = .locked ∧ x.outlier o = false ∧ o.natAbs ≤ 1000 * 65536) ∧
  (let dt : Nat := 0;
    let port : Nat := 0;
    let b : Nat := 0;
    let t2 : Nat := 100;
    let m : PtpSync := syn0;
    let s : State := wTb { tb .locked with absLast := [1] };
    let s1 := s.advance dt;
    let x := s1.ptp b;
    let o := s1.syncOffset port t2 m.origin m.corr;
    s1.ptpBaseOf port m.domain m.vlan = some b ∧ x.selected = some (port, m.sender) ∧ m.twoStep = false ∧ s1.horizon.pllLock = true ∧ x.st = .locked ∧ x.outlier o = true ∧ o.natAbs ≤ 1000 * 65536) ∧
  (let dt : Nat := 0;
    let port : Nat := 0;
    let b : Nat := 0;
    let m : PtpSync := syn0;
    let s : State := wTb (tb .locked);
    let s1 := s.advance dt;
    let x := s1.ptp b;
    s1.ptpBaseOf port m.domain m.vlan = some b ∧ x.selected = some (port, m.sender) ∧ x.twoStep = none) ∧
  (let dt : Nat := 0;
    let port : Nat := 0;
    let b : Nat := 0;
    let t2 : Nat := 0;
    let corr : Int := 0;
    let m : PtpSync := syn0;
    let s : State := wTb { tb .locked with twoStep := some (5, 1, 0, 0) };
    let s1 := s.advance dt;
    let x := s1.ptp b;
    s1.ptpBaseOf port m.domain m.vlan = some b ∧ x.selected = some (port, m.sender) ∧ x.twoStep = some (m.sender, m.seq, t2, corr)) ∧
  (let dt : Nat := 0;
    let port : Nat := 0;
    let b : Nat := 0;
    let m : PtpAnnounce := { ann0 with ptpScale := false };
    let s : State := wTb (tb .locked);
    let s1 := s.advance dt;
    s1.ptpBaseOf port m.domain m.vlan = some b ∧ m.ptpScale = false) ∧
  (let dt : Nat := 0;
    let port : Nat := 0;
    let b : Nat := 0;
    let m : PtpAnnounce := ann0;
    let s : State := wTb (tb .locked);
    let s1 := s.advance dt;
    s1.ptpBaseOf port m.domain m.vlan = some b ∧ m.ptpScale = true) ∧
  (let dt : Nat := 0;
    let port : Nat := 0;
    let s : State := upPort (wTb (tb .locked)) 0;
    let s1 := s.advance dt;
    port < 128 ∧ s1.ptpPort port = true ∧ s1.portUp port = true) ∧
  (let dt : Nat := 0;
    let port : Nat := 0;
    let s : State := w0;
    let s1 := s.advance dt;
    s1.ptpPort port = false) ∧
  (let dt : Nat := 0;
    let b : Nat := 0;
    let s : State := late3 (wTb (tb .locked));
    let s1 := s.advance dt;
    let x := s1.ptp b;
    b < 2 ∧ ((x.st = .acquiring ∨ x.st = .locked)) ∧ (3 * x.syncIntNs * 2 ^ 40 : Nat) ≤ tDiff s1.tb3 x.lastSync) ∧
  (let dt : Nat := 0;
    let s : State := w0;
    let s1 := s.advance dt;
    let h := s1.horizon;
    let due := h.auto = true ∧ h.revert = true ∧ h.follow1 = true ∧ s1.ptValid = true ∧ h.tb0.st = .locked ∧
      s1.tb3Passed h.tb0LockAt (h.revertS * 1000000) = true;
    (¬ due)) ∧
  (let dt : Nat := 0;
    let s : State := { late3 (wTb (tb .locked)) with horizon.auto := true, horizon.revert := true, horizon.follow1 := true };
    let s1 := s.advance dt;
    let h := s1.horizon;
    let due := h.auto = true ∧ h.revert = true ∧ h.follow1 = true ∧ s1.ptValid = true ∧ h.tb0.st = .locked ∧
      s1.tb3Passed h.tb0LockAt (h.revertS * 1000000) = true;
    due) ∧
  (let dt : Nat := 0;
    let s : State := timed w0;
    let s1 := s.advance dt;
    s1.ptValid = true ∧ s1.slewE.natAbs < 2 ^ 24 ∧ s1.horizon.diverged = false) ∧
  (let dt : Nat := 0;
    let s : State := wLeap 1;
    let s1 := s.advance dt;
    let h := s1.horizon;
    let ended := s1.ptValid = true ∧ (h.leapEnd * 1000000000 : Int) ≤ (s1.nowNs : Int) - s1.utcOffset * 1000000000;
    h.utcFixed = true ∧ ended ∧ h.leap = 1) ∧
  (let dt : Nat := 0;
    let s : State := wLeap 2;
    let s1 := s.advance dt;
    let h := s1.horizon;
    let ended := s1.ptValid = true ∧ (h.leapEnd * 1000000000 : Int) ≤ (s1.nowNs : Int) - s1.utcOffset * 1000000000;
    h.utcFixed = true ∧ ended ∧ h.leap = 2) ∧
  (let dt : Nat := 0;
    let s : State := wLeap 0;
    let s1 := s.advance dt;
    let h := s1.horizon;
    let ended := s1.ptValid = true ∧ (h.leapEnd * 1000000000 : Int) ≤ (s1.nowNs : Int) - s1.utcOffset * 1000000000;
    h.utcFixed = true ∧ (h.leap = 0 ∨ ¬ ended)) ∧
  (let dt : Nat := 0;
    let s : State := strOn w0;
    let s1 := s.advance dt;
    let d := tDiff s1.horizon.tb2 s1.horizon.pt;
    s1.ptValid = true ∧ s1.stratus.st ≠ .disabled ∧ d.natAbs ≤ 1000 * 2 ^ 40) ∧
  (let dt : Nat := 0;
    let s : State := { strOn w0 with horizon.tb2 := 2 ^ 60 };
    let s1 := s.advance dt;
    let d := tDiff s1.horizon.tb2 s1.horizon.pt;
    s1.ptValid = true ∧ s1.stratus.st ≠ .disabled ∧ 1000 * 2 ^ 40 < d.natAbs) ∧
  (let dt : Nat := 0;
    let pin : Nat := 0;
    let s : State := w0;
    let s1 := s.advance dt;
    let x := s1.pulse pin;
    let now := (s1.pulseBase x.cfg.base).1;
    pin < 8 ∧ x.waiting = none ∧ s1.pulseBusy x = false ∧ (x.cfg.mode = 0 ∨ sdiff 80 now x.next < 0)) ∧
  (let dt : Nat := 0;
    let pin : Nat := 0;
    let s : State := wPulse { pul 2 with cfg := { mode := 2, base := 1, period := 1000 } };
    let s1 := s.advance dt;
    let x := s1.pulse pin;
    let now := (s1.pulseBase x.cfg.base).1;
    pin < 8 ∧ x.waiting = none ∧ s1.pulseBusy x = false ∧ ((x.cfg.mode = 1 ∨ x.cfg.mode = 2)) ∧ 0 ≤ sdiff 80 now x.next ∧ ((x.cfg.mode = 2 → sdiff 80 now x.next < (x.cfg.period : Int))) ∧ (s1.pulseBase x.cfg.base).2 = false) ∧
  (let dt : Nat := 0;
    let pin : Nat := 0;
    let s : State := { wPulse { pul 2 with cfg := { mode := 2, base := 4, period := 1000, gated := true } } with pair.pubEnable := false };
    let s1 := s.advance dt;
    let x := s1.pulse pin;
    let now := (s1.pulseBase x.cfg.base).1;
    pin < 8 ∧ x.waiting = none ∧ s1.pulseBusy x = false ∧ ((x.cfg.mode = 1 ∨ x.cfg.mode = 2)) ∧ 0 ≤ sdiff 80 now x.next ∧ ((x.cfg.mode = 2 → sdiff 80 now x.next < (x.cfg.period : Int))) ∧ (s1.pulseBase x.cfg.base).2 = true ∧ x.cfg.gated = true ∧ s1.pair.pubEnable = false) ∧
  (let dt : Nat := 0;
    let pin : Nat := 0;
    let s : State := wPulse (pul 1);
    let s1 := s.advance dt;
    let x := s1.pulse pin;
    let now := (s1.pulseBase x.cfg.base).1;
    pin < 8 ∧ x.waiting = none ∧ s1.pulseBusy x = false ∧ ((x.cfg.mode = 1 ∨ x.cfg.mode = 2)) ∧ 0 ≤ sdiff 80 now x.next ∧ ((x.cfg.mode = 2 → sdiff 80 now x.next < (x.cfg.period : Int))) ∧ (s1.pulseBase x.cfg.base).2 = true ∧ (x.cfg.gated = false ∨ s1.pair.pubEnable = true)) ∧
  (let dt : Nat := 0;
    let pin : Nat := 0;
    let width : Nat := 5;
    let rising : Bool := true;
    let s : State := w0;
    let s1 := s.advance dt;
    let x := s1.horizon.tpis.getD pin {};
    let wanted := bit x.edges (if rising then 0 else 1) = true ∧ minWidthNs x.minWidth ≤ width;
    pin ≤ 7 ∧ (¬ wanted)) ∧
  (let dt : Nat := 0;
    let pin : Nat := 0;
    let pt : Nat := 10;
    let width : Nat := 5;
    let rising : Bool := true;
    let s : State := wTpi { edges := 1, lastEdge := some 0 };
    let s1 := s.advance dt;
    let x := s1.horizon.tpis.getD pin {};
    let wanted := bit x.edges (if rising then 0 else 1) = true ∧ minWidthNs x.minWidth ≤ width;
    let soon := ∃ t, x.lastEdge = some t ∧ t ≤ pt ∧ pt < t + 100 * 65536;
    pin ≤ 7 ∧ wanted ∧ soon) ∧
  (let dt : Nat := 0;
    let pin : Nat := 0;
    let pt : Nat := 10;
    let width : Nat := 5;
    let rising : Bool := true;
    let s : State := wTpi { edges := 1 };
    let s1 := s.advance dt;
    let x := s1.horizon.tpis.getD pin {};
    let wanted := bit x.edges (if rising then 0 else 1) = true ∧ minWidthNs x.minWidth ≤ width;
    let soon := ∃ t, x.lastEdge = some t ∧ t ≤ pt ∧ pt < t + 100 * 65536;
    pin ≤ 7 ∧ wanted ∧ (¬ soon) ∧ s1.horizon.ptSt = .invalid ∧ x.queue.length < 64) := by
  repeat' with_reducible apply And.intro
  all_goals decide +kernel

/-- The hypotheses of `Obligations.ClockAndPowerCommandsComplete` are met. -/
theorem witness_ClockAndPowerCommandsComplete :
  let p (c : Cmd) (i : Nat) : Nat := byteAt c.params i
  Met cardSetClockSources (fun _ c => p c 0 ≠ 0 ∧ p c 2 ≠ p c 3)
    w0 (pkt 64 0 (fields 16 [(0, 1, 1), (2, 1, 1), (3, 1, 2), (10, 1, 1), (7, 1, 1), (6, 1, 1), (5, 1, 1), (4, 1, 1)])) ∧
  Met cardSetClockSources (fun _ c => p c 0 = 0)
    w0 (pkt 64 0 (fields 16 [(0, 1, 0), (10, 1, 1), (7, 1, 1), (6, 1, 1), (5, 1, 1), (4, 1, 1)])) ∧
  Met cardSetClockSources (fun _ c => p c 0 ≠ 0 ∧ p c 2 = p c 3)
    w0 (pkt 64 0 (fields 16 [(0, 1, 1), (2, 1, 1), (3, 1, 1), (10, 1, 1), (7, 1, 1), (6, 1, 1), (5, 1, 1), (4, 1, 1)])) ∧
  Met cardGetClockStatus (fun _ _ => True)
    w0 (pkt 64 0 (fields 4 [])) ∧
  Met cardGetPllStatus (fun _ _ => True)
    w0 (pkt 64 0 (fields 4 [])) ∧
  Met cardSetPower (fun s _ => s.power.supply ≠ .warning)
    w0 (pkt 64 0 (fields 4 [(0, 2, 2600), (2, 2, 20776)])) ∧
  Met cardSetPower (fun s _ => s.power.supply = .warning)
    ({ w0 with power.supply := .warning }) (pkt 64 0 (fields 4 [(0, 2, 2600), (2, 2, 20776)])) ∧
  Met cardGetPowerStatus (fun _ _ => True)
    w0 (pkt 64 0 []) := by
  repeat' with_reducible apply And.intro
  all_goals refine ⟨by decide +kernel, ?_⟩
  all_goals try dsimp only
  all_goals first
    | exact True.intro
    | decide +kernel

/-- The hypotheses of `Obligations.ClockSourcesAndRails` are met. -/
theorem witness_ClockSourcesAndRails :
  (let four (s : State) : Prop := s.clocks.srcs.length = 4;
    let dt : Nat := 0;
    let i : Nat := 2;
    let s : State := w0;
    let s1 := s.advance dt;
    four s1 ∧ i < 4 ∧ 2 ≤ i ∧ s1.portUp (if i = 2 then s1.clocks.rcv0 else s1.clocks.rcv1) = false) ∧
  (let four (s : State) : Prop := s.clocks.srcs.length = 4;
    let dt : Nat := 0;
    let i : Nat := 0;
    let s : State := only 0 { st := .absent };
    let s1 := s.advance dt;
    let x := s1.clk i;
    four s1 ∧ i < 4 ∧ ((i < 2 ∨ s1.portUp (if i = 2 then s1.clocks.rcv0 else s1.clocks.rcv1) = true)) ∧ x.st = .absent) ∧
  (let four (s : State) : Prop := s.clocks.srcs.length = 4;
    let dt : Nat := 0;
    let i : Nat := 0;
    let s : State := only 0 srcF;
    let s1 := s.advance dt;
    let x := s1.clk i;
    four s1 ∧ i < 4 ∧ ((i < 2 ∨ s1.portUp (if i = 2 then s1.clocks.rcv0 else s1.clocks.rcv1) = true)) ∧ x.st = .failed) ∧
  (let four (s : State) : Prop := s.clocks.srcs.length = 4;
    let dt : Nat := 0;
    let i : Nat := 0;
    let s : State := only 0 {};
    let s1 := s.advance dt;
    let x := s1.clk i;
    four s1 ∧ i < 4 ∧ ((i < 2 ∨ s1.portUp (if i = 2 then s1.clocks.rcv0 else s1.clocks.rcv1) = true)) ∧ ((x.st = .disabled ∨ x.st = .qualifying ∨ x.st = .qualified))) ∧
  (let four (s : State) : Prop := s.clocks.srcs.length = 4;
    let dt : Nat := 0;
    let i : Nat := 0;
    let s : State := only 0 {};
    let s1 := s.advance dt;
    let x := s1.clk i;
    four s1 ∧ i < 4 ∧
    let over_ := s1.tb3Passed x.winAt (if x.ref.isSome then 1000 else 10);
    (x.st ≠ .qualifying ∨ over_ = false)) ∧
  (let four (s : State) : Prop := s.clocks.srcs.length = 4;
    let dt : Nat := 0;
    let i : Nat := 1;
    let s : State := only 1 srcQ;
    let s1 := s.advance dt;
    let x := s1.clk i;
    four s1 ∧ i < 4 ∧
    let off : Int := 0;
    let tol : Nat := if x.ref.isSome then 100000 else 30000000;
    let over_ := s1.tb3Passed x.winAt (if x.ref.isSome then 1000 else 10);
    x.st = .qualifying ∧ over_ = true ∧ x.deferred = false ∧ ((x.ref = none → s1.clocks.iroFault = false)) ∧ off.natAbs ≤ tol) ∧
  (let four (s : State) : Prop := s.clocks.srcs.length = 4;
    let dt : Nat := 0;
    let i : Nat := 1;
    let s : State := only 1 srcQ;
    let s1 := s.advance dt;
    let x := s1.clk i;
    four s1 ∧ i < 4 ∧
    let off : Int := 30000001;
    let tol : Nat := if x.ref.isSome then 100000 else 30000000;
    let over_ := s1.tb3Passed x.winAt (if x.ref.isSome then 1000 else 10);
    x.st = .qualifying ∧ over_ = true ∧ x.deferred = false ∧ ((x.ref = none → s1.clocks.iroFault = false)) ∧ tol < off.natAbs) ∧
  (let four (s : State) : Prop := s.clocks.srcs.length = 4;
    let dt : Nat := 0;
    let i : Nat := 0;
    let s : State := only 0 { srcQ with ref := some 2, deferred := true };
    let s1 := s.advance dt;
    let x := s1.clk i;
    four s1 ∧ i < 4 ∧
    let over_ := s1.tb3Passed x.winAt (if x.ref.isSome then 1000 else 10);
    let r := 2;
    x.st = .qualifying ∧ over_ = true ∧ x.deferred = true ∧ x.ref = some r ∧ (s1.clk r).st ≠ .qualified ∧ s1.clocks.iroFault = false) ∧
  (let four (s : State) : Prop := s.clocks.srcs.length = 4;
    let free (s : State) (i : Nat) : Prop := ∀ j, j < 4 → j ≠ i → (s.clk j).st ≠ .qualified;
    let dt : Nat := 0;
    let i : Nat := 0;
    let s : State := w0;
    let s1 := s.advance dt;
    let x := s1.clk i;
    four s1 ∧ i < 4 ∧ x.st = .qualified ∧ s1.clocks.selected = some i ∧ s1.clocks.refSt = .locked ∧ free s1 i) ∧
  (let four (s : State) : Prop := s.clocks.srcs.length = 4;
    let dt : Nat := 0;
    let i : Nat := 0;
    let s : State := only 0 srcQ;
    let s1 := s.advance dt;
    let x := s1.clk i;
    four s1 ∧ i < 4 ∧ x.st = .qualifying) ∧
  (let four (s : State) : Prop := s.clocks.srcs.length = 4;
    let dt : Nat := 0;
    let i : Nat := 0;
    let s : State := only 0 srcF;
    let s1 := s.advance dt;
    let x := s1.clk i;
    four s1 ∧ i < 4 ∧ x.st = .failed) ∧
  (let four (s : State) : Prop := s.clocks.srcs.length = 4;
    let dt : Nat := 0;
    let i : Nat := 0;
    let s : State := { only 0 xoQ with horizon.tb0 := tb .locked };
    let s1 := s.advance dt;
    let x := s1.clk i;
    four s1 ∧ i < 4 ∧
    let off : Int := 0;
    x.st = .qualified ∧ s1.canRefine i = true ∧ (if x.level = 2 then s1.tb3Passed x.fineAt 10000000 else s1.tb3Passed x.qualAt 1000000) = true ∧ off.natAbs ≤ 5000) ∧
  (let four (s : State) : Prop := s.clocks.srcs.length = 4;
    let dt : Nat := 0;
    let i : Nat := 0;
    let s : State := { only 0 xoQ with horizon.tb0 := tb .locked };
    let s1 := s.advance dt;
    let x := s1.clk i;
    four s1 ∧ i < 4 ∧
    let off : Int := 5001;
    x.st = .qualified ∧ s1.canRefine i = true ∧ (if x.level = 2 then s1.tb3Passed x.fineAt 10000000 else s1.tb3Passed x.qualAt 1000000) = true ∧ 5000 < off.natAbs) ∧
  (let four (s : State) : Prop := s.clocks.srcs.length = 4;
    let dt : Nat := 0;
    let i : Nat := 0;
    let s : State := only 0 srcF;
    let s1 := s.advance dt;
    let x := s1.clk i;
    four s1 ∧ i < 4 ∧
    let t0 := 0;
    x.st = .failed ∧ x.edgeAt = some t0 ∧ s1.tb3Passed t0 (s1.clocks.retryS * 1000000) = true) ∧
  (let four (s : State) : Prop := s.clocks.srcs.length = 4;
    let dt : Nat := 0;
    let i : Nat := 0;
    let s : State := { only 0 srcF with horizon.tb3 := 0 };
    let s1 := s.advance dt;
    let x := s1.clk i;
    four s1 ∧ i < 4 ∧
    let t0 := 0;
    x.st = .failed ∧ x.edgeAt = some t0 ∧ s1.tb3Passed t0 (s1.clocks.retryS * 1000000) = false) ∧
  (let four (s : State) : Prop := s.clocks.srcs.length = 4;
    let dt : Nat := 0;
    let ratios : List Nat := [2000];
    let offs : List Int := ([] : List Int);
    let s : State := only 0 srcT;
    let s1 := s.advance dt;
    let live (i : Nat) : Prop := i < 4 ∧ (s1.clk i).st ≠ .disabled ∧ (s1.clk i).st ≠ .absent;
    let trip (i : Nat) : Prop := (s1.clk i).trips (ratios.getD i 0) (offs.getD i 0) = true;
    four s1 ∧ (∃ i, live i) ∧ ((∀ i, live i → trip i))) ∧
  (let four (s : State) : Prop := s.clocks.srcs.length = 4;
    let dt : Nat := 0;
    let ratios : List Nat := ([] : List Nat);
    let offs : List Int := [30000001];
    let s : State := two srcQ xoQ;
    let s1 := s.advance dt;
    let live (i : Nat) : Prop := i < 4 ∧ (s1.clk i).st ≠ .disabled ∧ (s1.clk i).st ≠ .absent;
    let trip (i : Nat) : Prop := (s1.clk i).trips (ratios.getD i 0) (offs.getD i 0) = true;
    four s1 ∧
    let i := 0;
    let j := 1;
    live i ∧ live j ∧ trip i ∧ (¬ trip j) ∧ (s1.clk i).st = .qualifying) ∧
  (let dt : Nat := 0;
    let s : State := w0;
    let s1 := s.advance dt;
    (s1.clocks.revertive = false ∨ s1.clocks.selected = none)) ∧
  (let four (s : State) : Prop := s.clocks.srcs.length = 4;
    let dt : Nat := 0;
    let s : State := wSel (two { xoQ with prio := 0 } xoQ);
    let s1 := s.advance dt;
    let i := 1;
    let j := 0;
    four s1 ∧ j < 4 ∧ s1.clocks.revertive = true ∧ s1.clocks.selected = some i ∧ (s1.clk j).st = .qualified ∧ (s1.clk j).prio < (s1.clk i).prio ∧ s1.tb3Passed (s1.clk j).qualAt (s1.clocks.restoreS * 1000000) = true ∧ ((∀ k, k < 4 → k ≠ j → (s1.clk j).prio < (s1.clk k).prio))) ∧
  (let dt : Nat := 0;
    let d : Nat := 0;
    let x : ClkDomain := {};
    let s : State := w0;
    let s1 := s.advance dt;
    s1.clocks.doms[d]? = some x ∧ x.next = none) ∧
  (let dt : Nat := 0;
    let d : Nat := 0;
    let x : ClkDomain := { next := some 5 };
    let s : State := { w0 with clocks.doms := [{ next := some 5 }] };
    let s1 := s.advance dt;
    s1.clocks.doms[d]? = some x ∧
    let r := 5;
    x.next = some r) ∧
  (let dt : Nat := 0;
    let d : Nat := 0;
    let s : State := w0;
    let s1 := s.advance dt;
    s1.clocks.quadLock.length = 32 ∧ d < 32 ∧ s1.clocks.quadLock.getD d true = true) ∧
  (let dt : Nat := 0;
    let d : Nat := 0;
    let s : State := { w0 with clocks.quadLock := [false] };
    let s1 := s.advance dt;
    s1.clocks.quadLock.getD d true = false ∧ d < 32) ∧
  (let dt : Nat := 0;
    let s : State := w0;
    let s1 := s.advance dt;
    s1.horizon.pllLock = true) ∧
  (let dt : Nat := 0;
    let s : State := { w0 with horizon.pllLock := false };
    let s1 := s.advance dt;
    s1.horizon.pllLock = false) ∧
  (let dt : Nat := 0;
    let s : State := { w0 with place.begun := false };
    let s1 := s.advance dt;
    s1.place.begun = false) ∧
  (let dt : Nat := 0;
    let s : State := rails w0;
    let s1 := s.advance dt;
    s1.place.begun = true ∧ s1.power.coreMv.length = 4) := by
  repeat' with_reducible apply And.intro
  all_goals try decide +kernel
  · exact fun i h => trips_all i h.1 h.2.1 h.2.2

/-- The hypotheses of `Obligations.SwitchAndPortCommandsComplete` are met. -/
theorem witness_SwitchAndPortCommandsComplete :
  let p (c : Cmd) (i : Nat) : Nat := byteAt c.params i
  let only (s : State) (m : Nat) : Prop := ∀ n ∈ bitList 128 m, s.isSwitchPort n = true
  let mac (c : Cmd) (o : Nat) : Nat := beNat (slice c.params o 6)
  let others (s : State) (c : Cmd) : List FdbEntry := s.sw.fdb.filter (fun e => !(e.mac == mac c 0 && e.vid == u16 c.params 6))
  let queue (s : State) (c : Cmd) : State := s.modSwp (p c 0) (fun w => { w with
    queues := modAt w.queues (p c 1) (fun q => { q with
      alpha := toSigned 8 (p c 2), reserved := u32 c.params 4
      green := (u32 c.params 8, u32 c.params 0xC, u16 c.params 0x18)
      yellow := (u32 c.params 0x10, u32 c.params 0x14, u16 c.params 0x1A) }) })
  let gates (c : Cmd) : GateList := {
    enable := p c 1 == 1, cycle := u32 c.params 4, phase := u32 c.params 8
    entries := (List.range (u16 c.params 2)).map (fun i => (p c (0x14 + 8 * i), u32 c.params (0x18 + 8 * i))) }
  let line (s : State) (c : Cmd) : Prop :=
    p c 2 = (s.port (p c 0)).phy ∧ p c 3 = (s.port (p c 0)).fec ∧ (s.port (p c 0)).enable = true ∧ p c 1 = 1
  let old (s : State) (c : Cmd) : List Nat :=
    if (s.entity (p c 0)).mode = 0 then [] else [(s.entity (p c 0)).a, (s.entity (p c 0)).b]
  Met cardSetVlan (fun s c => only s (uN c.params 4 16))
    w0 (pkt 64 0 (fields 36 [(4, 8, 1), (12, 8, 0), (0, 1, 1)])) ∧
  Met cardSetVlan (fun s c => ¬ only s (uN c.params 4 16))
    ({ w0 with boot.role := 1, pair.configured := true }) (pkt 64 0 (fields 36 [(4, 8, 18446744073709551615), (12, 8, 18446744073709551615), (0, 1, 1)])) ∧
  Met cardSetFdbEntry (fun _ c => p c 8 = 0)
    w0 (pkt 64 0 (fields 28 [(8, 1, 0), (6, 1, 1)])) ∧
  Met cardSetFdbEntry (fun s c => p c 8 = 1 ∧ (State.bucket { s with sw.fdb := others s c } (mac c 0) (u16 c.params 6)).length < 8)
    w0 (pkt 64 0 (fields 28 [(8, 1, 1), (6, 1, 1)])) ∧
  Met cardGetFdb (fun _ _ => True)
    w0 (pkt 64 0 (fields 8 [(6, 1, 1)])) ∧
  Met cardSetPortSwitch (fun s c => s.isSwitchPort (p c 0) = true)
    w0 (pkt 64 0 (fields 20 [(0, 1, 0), (12, 1, 10), (2, 1, 1)])) ∧
  Met cardSetPortSwitch (fun s c => s.isSwitchPort (p c 0) = false)
    ({ w0 with pair.configured := true }) (pkt 64 0 (fields 20 [(0, 1, 0), (12, 1, 10), (2, 1, 1)])) ∧
  Met cardSetSwitch (fun _ _ => True)
    w0 (pkt 64 0 (fields 68 [(0, 1, 10)])) ∧
  Met cardSetQueue (fun s c => (queue s c).reservedTotal ≤ 49152)
    w0 (pkt 64 0 (fields 28 [(0, 1, 0), (4, 4, 8)])) ∧
  Met cardSetQueue (fun s c => 49152 < (queue s c).reservedTotal)
    w0 (pkt 64 0 (fields 28 [(0, 1, 0), (4, 4, 49152)])) ∧
  Met cardSetPolicer (fun _ _ => True)
    w0 (pkt 64 0 (fields 20 [])) ∧
  Met cardSetGateList (fun s c => s.isSwitchPort (p c 0) = true ∧ s.expressFailOn (p c 0) (gates c) (s.port (p c 0)).phy = none)
    w0 (pkt 64 0 (fields 28 [(0, 1, 0), (1, 1, 0), (2, 2, 1), (4, 4, 1), (8, 4, 0)])) ∧
  Met cardSetRedundancy (fun s c => (∀ n ∈ [p c 2, p c 3], s.isSwitchPort n = true ∧ ∀ m, s.portEntity n = some m → m = p c 0) ∧
      ∀ n ∈ [p c 2, p c 3] ++ old s c, s.portCarries n = false)
    w0 (pkt 64 0 (fields 20 [(0, 1, 0), (3, 1, 1)])) ∧
  Met cardGetRedundancyStatus (fun _ _ => True)
    w0 (pkt 64 0 (fields 4 [])) ∧
  Met cardGetBufferStatus (fun _ _ => True)
    w0 (pkt 64 0 []) ∧
  Met cardGetQueueCounters (fun s c => (s.port (p c 0)).tx = none ∧ (p c 1) < (s.swp (p c 0)).queues.length)
    w0 (pkt 64 0 (fields 4 [(0, 1, 0), (1, 1, 0)])) ∧
  Met cardGetSwitchCounters (fun _ _ => True)
    w0 (pkt 64 0 (fields 4 [])) ∧
  Met cardSetPort (fun s c => s.isSwitchPort (p c 0) = true ∧ s.lineRateClash (p c 0) (p c 2) (p c 1 == 1) = false ∧ line s c ∧ p c 2 ≠ 0 ∧
      (s.port (p c 0)).preempt = bit (p c 7) 0 ∧ (s.port (p c 0)).verifyOff = bit (p c 7) 1)
    (w0.modPort 0 (fun q => { q with enable := true, phy := 3 })) (pkt 64 0 (fields 20 [(0, 1, 0), (1, 1, 1), (2, 1, 3), (3, 1, 0)])) ∧
  Met cardSetPort (fun s c => s.isSwitchPort (p c 0) = true ∧ s.lineRateClash (p c 0) (p c 2) (p c 1 == 1) = false ∧ ¬ line s c ∧
      rate10 (p c 2) = rate10 (s.port (p c 0)).phy)
    (w0.modPort 0 (fun q => { q with phy := 3 })) (pkt 64 0 (fields 20 [(0, 1, 0), (1, 1, 0), (2, 1, 3), (3, 1, 0)])) ∧
  Met cardSetPort (fun s c => s.isSwitchPort (p c 0) = true ∧ s.lineRateClash (p c 0) (p c 2) (p c 1 == 1) = true)
    (w0.modPort 1 (fun q => { q with enable := true, phy := 1 })) (pkt 64 0 (fields 20 [(0, 1, 0), (1, 1, 1), (2, 1, 3), (3, 1, 0)])) ∧
  Met cardGetPortStatus (fun _ _ => True)
    w0 (pkt 64 0 (fields 4 [])) ∧
  Met cardGetPortCounters (fun s c => (s.port (p c 0)).tx = none)
    w0 (pkt 64 0 (fields 4 [])) ∧
  Met cardI2cTransfer (fun _ _ => True)
    w0 (pkt 64 0 (fields 16 [(8, 1, 1), (3, 1, 8)])) := by
  repeat' with_reducible apply And.intro
  all_goals refine ⟨by decide +kernel, ?_⟩
  all_goals try dsimp only
  all_goals first
    | exact True.intro
    | decide +kernel

/-- The hypotheses of `Obligations.SwitchMovesFramesByItsRules` are met. -/
theorem witness_SwitchMovesFramesByItsRules :
  (let dt : Nat := 0;
    let n : Nat := 0;
    let s : State := w0;
    let s1 := s.advance dt;
    (128 ≤ n ∨ s1.portUp n = false)) ∧
  (let dt : Nat := 0;
    let n : Nat := 0;
    let f : Bytes := ([] : Bytes);
    let rx : Rx := rxOk;
    let s : State := upPort w0 0;
    let s1 := s.advance dt;
    n < 128 ∧ s1.portUp n = true ∧ f.length < 60 ∧ rx.err = 0) ∧
  (let dt : Nat := 0;
    let n : Nat := 0;
    let f : Bytes := plain;
    let rx : Rx := { rxOk with err := 3 };
    let s : State := upPort { w0 with pair.configured := true } 0;
    let s1 := s.advance dt;
    n < 128 ∧ s1.portUp n = true ∧ s1.isSwitchPort n = false ∧ 60 ≤ f.length ∧ f.length + 4 ≤ (s1.port n).maxFrame ∧ rx.err = 3) ∧
  (let dt : Nat := 0;
    let n : Nat := 0;
    let f : Bytes := plain;
    let rx : Rx := rxOk;
    let s : State := { upPort w0 0 with sw.vlans := [] };
    let s1 := s.advance dt;
    let e := ethParse f;
    let vid := s1.frameVid n e;
    s1.isSwitchPort n = true ∧ s1.portUp n = true ∧ 60 ≤ f.length ∧ f.length + 4 ≤ (s1.port n).maxFrame ∧ rx.err = 0 ∧ e.etype ≠ 0x8808 ∧ e.etype ≠ etPtp ∧ e.dst / 16 ≠ 0x0180C200000 ∧ isMulticast e.src = false ∧ s1.sw.entities = [] ∧ s1.mgmtTakes n e = false ∧ (s1.swp n).filter = false ∧ (s1.swp n).learn = false ∧ (∀ m ∈ (s1.swp n).meters, m.enable = false) ∧ s1.destSet n e.dst vid = [] ∧ s1.consumerTakes n e = false) ∧
  (let dt : Nat := 0;
    let n : Nat := 0;
    let f : Bytes := plain;
    let rx : Rx := rxOk;
    let s : State := both;
    let s1 := s.advance dt;
    let e := ethParse f;
    let vid := s1.frameVid n e;
    let tc := s1.classOf n e;
    s1.isSwitchPort n = true ∧ s1.portUp n = true ∧ 60 ≤ f.length ∧ f.length + 4 ≤ (s1.port n).maxFrame ∧ rx.err = 0 ∧ e.etype ≠ 0x8808 ∧ e.etype ≠ etPtp ∧ e.dst / 16 ≠ 0x0180C200000 ∧ isMulticast e.src = false ∧ s1.sw.entities = [] ∧ s1.mgmtTakes n e = false ∧ (s1.swp n).filter = false ∧ (s1.swp n).learn = false ∧ (∀ m ∈ (s1.swp n).meters, m.enable = false) ∧
    let out := 1;
    let q := { reserved := 8 };
    s1.destSet n e.dst vid = [out] ∧ (s1.swp out).queues[tc]? = some q ∧ s1.portUp out = true ∧ (s1.port out).tx = none ∧ bit (s1.swp out).ct tc = false ∧ q.green.2.1 = 0 ∧
    let b := s1.egressBytes out vid (match e.tci with
      | some t => t / 8192
      | none => (s1.swp n).dpcp) e
    let cells := ceilDiv (b.length + 4) 256;
    s1.queueUsed out tc + cells ≤ q.reserved) ∧
  (let dt : Nat := 0;
    let n : Nat := 0;
    let f : QFrame := fr0;
    let q : Queue := { reserved := 32, frames := [fr0] };
    let rest : List QFrame := ([] : List QFrame);
    let s : State := wSend 0;
    let s1 := s.advance dt;
    n < 128 ∧ s1.portUp n = true ∧ (s1.port n).tx = none ∧ (s1.port n).cut = [] ∧ (s1.swp n).queues[7]? = some q ∧ q.frames = f :: rest ∧ f.tc = 7 ∧ f.sof = none ∧ f.sent = 0 ∧ f.ready ≤ s1.now ∧ s1.now ≤ f.at_ + (s1.swp n).residenceUs * 1000 * qNs ∧ s1.anvil.poison = [] ∧ (s1.swp n).gate.enable = false ∧ (s1.swp n).nextGate = none ∧ f.local_ = false ∧ (s1.port n).threshold < f.bytes.length + 4) ∧
  (let dt : Nat := 0;
    let n : Nat := 0;
    let s : State := wPort (fun p => { p with thresh := 1 });
    let s1 := s.advance dt;
    let q := s1.port n;
    0 < q.thresh ∧ s1.tb3Passed q.threshAt 1000000 = true) ∧
  (let dt : Nat := 0;
    let n : Nat := 0;
    let s : State := wPort (fun p => p);
    let s1 := s.advance dt;
    let q := s1.port n;
    (q.thresh = 0 ∨ s1.tb3Passed q.threshAt 1000000 = false)) ∧
  (let dt : Nat := 0;
    let n : Nat := 0;
    let tick : Nat := 0;
    let g : GateList := {};
    let s : State := wSwp (fun p => { p with nextGate := some (0, {}) });
    let s1 := s.advance dt;
    (s1.swp n).nextGate = some (tick, g) ∧ tick * qTick ≤ s1.now) ∧
  (let dt : Nat := 0;
    let n : Nat := 0;
    let tick : Nat := 1;
    let g : GateList := {};
    let s : State := wSwp (fun p => { p with nextGate := some (1, {}) });
    let s1 := s.advance dt;
    (s1.swp n).nextGate = some (tick, g) ∧ s1.now < tick * qTick) ∧
  (let dt : Nat := 0;
    let n : Nat := 1;
    let src : Nat := 7;
    let x : SrcEntry := {};
    let s : State := wEnt entH;
    let s1 := s.advance dt;
    (s1.entity n).sources.get src = some x ∧ ((s1.entity n).sources.map (·.1)).Nodup ∧ visNs s1.tb3 < x.at_ + (s1.entity n).ageMs * 1000000) ∧
  (let dt : Nat := 0;
    let n : Nat := 1;
    let src : Nat := 7;
    let x : SrcEntry := {};
    let s : State := late3 (wEnt entH);
    let s1 := s.advance dt;
    (s1.entity n).sources.get src = some x ∧ ((s1.entity n).sources.map (·.1)).Nodup ∧ x.at_ + (s1.entity n).ageMs * 1000000 ≤ visNs s1.tb3) ∧
  (let dt : Nat := 0;
    let n : Nat := 1;
    let src : Nat := 7;
    let h : HeldFrame := held0;
    let s : State := wEnt entH;
    let s1 := s.advance dt;
    (s1.entity n).held = [h] ∧ h.src = src ∧ ((s1.entity n).sources.get src).isSome = true ∧ visNs s1.tb3 < h.at_ + (s1.entity n).holdNs) ∧
  (let dt : Nat := 0;
    let n : Nat := 1;
    let src : Nat := 7;
    let h : HeldFrame := held0;
    let s : State := late3 (wEnt entH);
    let s1 := s.advance dt;
    (s1.entity n).held = [h] ∧ h.src = src ∧ ((s1.entity n).sources.get src).isSome = true ∧ h.at_ + (s1.entity n).holdNs ≤ visNs s1.tb3 ∧ h.goose = false) ∧
  (let dt : Nat := 0;
    let n : Nat := 1;
    let s : State := w0;
    let s1 := s.advance dt;
    let e := s1.entity n;
    (e.mode = 0 ∨ e.supMs = 0 ∨ s1.tb3Passed e.supAt (1000 * e.supMs) = false)) ∧
  (let dt : Nat := 0;
    let n : Nat := 1;
    let s : State := late3 (wEnt { mode := 1, supMs := 1 });
    let s1 := s.advance dt;
    let e := s1.entity n;
    e.mode ≠ 0 ∧ e.supMs ≠ 0 ∧ s1.tb3Passed e.supAt (1000 * e.supMs) = true) ∧
  (let dt : Nat := 0;
    let n : Nat := 0;
    let s : State := wPort (fun p => p);
    let s1 := s.advance dt;
    (128 ≤ n ∨ s1.portUp n = false)) ∧
  (let dt : Nat := 0;
    let n : Nat := 0;
    let s : State := wPort (fun p => { p with st := .up });
    let s1 := s.advance dt;
    n < 128 ∧ s1.portUp n = true) ∧
  (let dt : Nat := 0;
    let n : Nat := 0;
    let s : State := wPort (fun p => { p with pauseTo := some 0 });
    let s1 := s.advance dt;
    let t0 := 0;
    (s1.port n).pauseTo = some t0 ∧ t0 ≤ s1.now) ∧
  (let dt : Nat := 0;
    let n : Nat := 0;
    let s : State := wPort (fun p => { p with pauseTo := some 1 });
    let s1 := s.advance dt;
    let t0 := 1;
    (s1.port n).pauseTo = some t0 ∧ s1.now < t0) ∧
  (let dt : Nat := 0;
    let n : Nat := 0;
    let s : State := w0;
    let s1 := s.advance dt;
    s1.checkPause = s1 ∧ (s1.port n).pausing = false) ∧
  (let dt : Nat := 0;
    let n : Nat := 0;
    let s : State := w0.modPort 0 (fun p => { p with st := .up, pausing := true });
    let s1 := s.advance dt;
    s1.checkPause = s1 ∧ (s1.port n).pausing = true ∧ s1.portUp n = true) ∧
  (let dt : Nat := 0;
    let n : Nat := 0;
    let s : State := wPort (fun p => verifying p);
    let s1 := s.advance dt;
    let q := s1.port n;
    n < 128 ∧ s1.portUp n = true ∧ q.preempt = true ∧ q.verify = .verifying) ∧
  (let dt : Nat := 0;
    let n : Nat := 0;
    let s : State := wPort (fun p => { p with st := .up });
    let s1 := s.advance dt;
    let q := s1.port n;
    n < 128 ∧ s1.portUp n = true ∧ q.preempt = false) ∧
  (let dt : Nat := 0;
    let n : Nat := 0;
    let s : State := wPort (fun p => { verifying p with attempts := 3 });
    let s1 := s.advance dt;
    let q := s1.port n;
    n < 128 ∧ s1.portUp n = true ∧ q.verify = .verifying ∧ s1.tb3Passed q.verifyAt 10000 = true ∧ 3 ≤ q.attempts) ∧
  (let dt : Nat := 0;
    let n : Nat := 0;
    let s : State := wPort (fun p => verifying p);
    let s1 := s.advance dt;
    let q := s1.port n;
    n < 128 ∧ s1.portUp n = true ∧ q.verify = .verifying ∧ s1.tb3Passed q.verifyAt 10000 = true ∧ q.attempts < 3) ∧
  (let dt : Nat := 0;
    let n : Nat := 0;
    let s : State := wPort (fun p => { p with st := .up });
    let s1 := s.advance dt;
    let q := s1.port n;
    n < 128 ∧ s1.portUp n = true ∧ q.verify ≠ .verifying) ∧
  (let dt : Nat := 0;
    let n : Nat := 0;
    let ok : Bool := false;
    let s : State := wPort (fun p => { p with st := .down, phy := 1 });
    let s1 := s.advance dt;
    let q := s1.port n;
    n < 128 ∧ q.st = .down ∧ s1.clocks.refSt ≠ .unreferenced ∧ s1.clocks.quadLock.getD (n / 4) true = true ∧ q.phy = 1 ∧ ok = false) ∧
  (let dt : Nat := 0;
    let n : Nat := 0;
    let ok : Bool := false;
    let s : State := wPort (fun p => { p with st := .down });
    let s1 := s.advance dt;
    let q := s1.port n;
    n < 128 ∧ q.st = .down ∧ s1.clocks.refSt ≠ .unreferenced ∧ s1.clocks.quadLock.getD (n / 4) true = true ∧ (q.phy ≠ 1 ∨ ok = true)) ∧
  (let dt : Nat := 0;
    let n : Nat := 0;
    let s : State := wPort (fun p => p);
    let s1 := s.advance dt;
    let q := s1.port n;
    n < 128 ∧ q.st ≠ .down) ∧
  (let dt : Nat := 0;
    let n : Nat := 0;
    let s : State := wPort (fun p => { p with st := .up });
    let s1 := s.advance dt;
    let q := s1.port n;
    n < 128 ∧ q.st = .up ∧ q.tx = none) ∧
  (let dt : Nat := 0;
    let n : Nat := 0;
    let s : State := wPort (fun p => p);
    let s1 := s.advance dt;
    let q := s1.port n;
    n < 128 ∧ q.st ≠ .up) ∧
  (let dt : Nat := 0;
    let m : Nat := 0;
    let chan : Nat := 64;
    let sq : Nat := 1;
    let rest : List (Nat × Nat) := ([] : List (Nat × Nat));
    let a : Accepted := waiting;
    let s : State := wI2c;
    let s1 := s.advance dt;
    (s1.i2c.getD m {}).queue = (chan, sq) :: rest ∧ s1.cmd.accepted.find? (fun x => x.cmd.chan == chan && x.cmd.seq == sq) = some a) := by
  repeat' with_reducible apply And.intro
  all_goals decide +kernel

/-- The hypotheses of `Obligations.HostAndInterruptCommandsComplete` are met. -/
theorem witness_HostAndInterruptCommandsComplete :
  let p (c : Cmd) (i : Nat) : Nat := byteAt c.params i
  let vi (c : Cmd) : Nat := p c 0
  let open_ (s : State) (c : Cmd) : Prop := s.viPresent (vi c) = true ∧ (s.hif (vi c)).resetting = false
  let shut (k : Card) (c d : Cmd) : Prop :=
    Met k (fun s c => s.viPresent (vi c) = false) w0 c ∧
    Met k (fun s c => s.viPresent (vi c) = true ∧ (s.hif (vi c)).resetting = true)
      (w0.setHif 0 { w0.hif 0 with resetting := true }) d
  let overlaps (s : State) (c : Cmd) (w : Nat) : Prop :=
    w ≠ p c 1 ∧ (s.window (vi c) w).enabled = true ∧ (s.window (vi c) w).aperture < u64 c.params 8 + 2 ^ p c 4 ∧
      u64 c.params 8 < (s.window (vi c) w).aperture + 2 ^ (s.window (vi c) w).log2
  let n (c : Cmd) : Nat := u16 c.params 0
  let routed (s : State) (c : Cmd) : Prop := routeOk (n c) (p c 2) = true ∧ (p c 2 = 0xFF ∨ s.viPresent (p c 2) = true)
  Met cardSetInstanceResources open_
    w0 (pkt 64 0 (fields 8 [(2, 1, 1), (1, 1, 1)])) ∧
  shut cardSetInstanceResources (pkt 64 0 (fields 8 [(0, 1, 5), (2, 1, 1), (1, 1, 1)])) (pkt 64 0 (fields 8 [(2, 1, 1), (1, 1, 1)])) ∧
  Met cardGetInstance (fun _ _ => True)
    w0 (pkt 64 0 (fields 4 [])) ∧
  Met cardSetWindow (fun s c => open_ s c ∧ p c 2 = 0)
    w0 (pkt 64 0 (fields 24 [(2, 1, 0), (4, 1, 16)])) ∧
  Met cardSetWindow (fun s c => open_ s c ∧ p c 2 = 1 ∧ ∀ w, w < 8 → ¬ overlaps s c w)
    w0 (pkt 64 0 (fields 24 [(2, 1, 1), (4, 1, 16)])) ∧
  Met cardSetWindow (fun s c => open_ s c ∧ p c 2 = 1 ∧ ∃ w, w < 8 ∧ overlaps s c w)
    ({ w0 with host.windows := [(1, { enabled := true, log2 := 20, aperture := 0 })] }) (pkt 64 0 (fields 24 [(0, 1, 0), (1, 1, 0), (2, 1, 1), (8, 8, 0), (4, 1, 16)])) ∧
  shut cardSetWindow (pkt 64 0 (fields 24 [(0, 1, 5), (4, 1, 16)])) (pkt 64 0 (fields 24 [(4, 1, 16)])) ∧
  Met cardGetWindow (fun _ _ => True)
    w0 (pkt 64 0 (fields 4 [])) ∧
  Met cardResetInstance (fun s c => open_ s c ∧ c.chan ≠ vi c)
    w0 (pkt 64 0 (fields 4 [(0, 1, 0)])) ∧
  Met cardResetInstance (fun s c => open_ s c ∧ c.chan = vi c)
    w0 (pkt 0 0 (fields 4 [(0, 1, 0)])) ∧
  shut cardResetInstance (pkt 64 0 (fields 4 [(0, 1, 5)])) (pkt 64 0 (fields 4 [])) ∧
  Met cardGetHostCounters (fun _ _ => True)
    w0 (pkt 64 0 (fields 4 [])) ∧
  Met cardSetSource routed
    w0 (pkt 64 0 (fields 20 [(0, 2, 0), (2, 1, 255), (8, 1, 10), (6, 1, 1), (5, 1, 255)])) ∧
  Met cardSetSource (fun s c => ¬ routed s c)
    w0 (pkt 64 0 (fields 20 [(8, 1, 10), (6, 1, 1), (5, 1, 255)])) ∧
  Met cardGetSource (fun _ _ => True)
    w0 (pkt 64 0 (fields 4 [])) ∧
  Met cardUnmaskSource (fun s c => (s.src (n c)).masked ≠ .none)
    ({ w0 with icu.sources := [(3, { masked := .squall })] }) (pkt 64 0 (fields 4 [(0, 2, 3)])) ∧
  Met cardUnmaskSource (fun s c => (s.src (n c)).masked = .none)
    w0 (pkt 64 0 (fields 4 [(0, 2, 3)])) ∧
  Met cardListMasked (fun _ _ => True)
    w0 (pkt 64 0 []) := by
  repeat' with_reducible apply And.intro
  all_goals refine ⟨by decide +kernel, ?_⟩
  all_goals try dsimp only
  all_goals first
    | exact True.intro
    | decide +kernel

/-- The hypotheses of `Obligations.HostRingsAndResets` are met. -/
theorem witness_HostRingsAndResets :
  (let dt : Nat := 0;
    let vi : Nat := 0;
    let tail : Nat := 0;
    let s : State := wHif hifR;
    let s1 := s.advance dt;
    let h := s1.hif vi;
    s1.viPresent vi = true ∧ tail < 65536 ∧ h.resetting = true) ∧
  (let dt : Nat := 0;
    let vi : Nat := 0;
    let tail : Nat := 0;
    let s : State := wHif {};
    let s1 := s.advance dt;
    let h := s1.hif vi;
    s1.viPresent vi = true ∧ tail < 65536 ∧ h.resetting = false ∧ h.enable = false) ∧
  (let dt : Nat := 0;
    let vi : Nat := 0;
    let tail : Nat := 1;
    let s : State := wHif hifOn;
    let s1 := s.advance dt;
    let h := s1.hif vi;
    let n := 2 ^ h.cmdLog2;
    s1.viPresent vi = true ∧ tail < 65536 ∧ h.resetting = false ∧ h.enable = true ∧ tail < n ∧ ringDist n h.cmdHead h.cmdTail ≤ ringDist n h.cmdHead tail) ∧
  (let dt : Nat := 0;
    let vi : Nat := 0;
    let tail : Nat := 16;
    let s : State := wHif hifOn;
    let s1 := s.advance dt;
    let h := s1.hif vi;
    let n := 2 ^ h.cmdLog2;
    s1.viPresent vi = true ∧ tail < 65536 ∧ h.resetting = false ∧ h.enable = true ∧ (n ≤ tail ∨ ringDist n h.cmdHead tail < ringDist n h.cmdHead h.cmdTail)) ∧
  (let dt : Nat := 0;
    let vi : Nat := 0;
    let head : Nat := 0;
    let s : State := wHif {};
    let s1 := s.advance dt;
    let h := s1.hif vi;
    s1.viPresent vi = true ∧ head < 65536 ∧ (h.resetting = true ∨ h.enable = false)) ∧
  (let dt : Nat := 0;
    let vi : Nat := 0;
    let head : Nat := 0;
    let s : State := wHif hifOn;
    let s1 := s.advance dt;
    let h := s1.hif vi;
    let n := 2 ^ h.dlvLog2;
    s1.viPresent vi = true ∧ head < 65536 ∧ h.resetting = false ∧ h.enable = true ∧ head < n ∧ ringDist n h.dlvHead head ≤ ringDist n h.dlvHead h.dlvTail) ∧
  (let dt : Nat := 0;
    let vi : Nat := 0;
    let head : Nat := 1;
    let s : State := wHif hifOn;
    let s1 := s.advance dt;
    let h := s1.hif vi;
    let n := 2 ^ h.dlvLog2;
    s1.viPresent vi = true ∧ head < 65536 ∧ h.resetting = false ∧ h.enable = true ∧ (n ≤ head ∨ ringDist n h.dlvHead h.dlvTail < ringDist n h.dlvHead head)) ∧
  (let dt : Nat := 0;
    let vi : Nat := 0;
    let s : State := wHif hifR;
    let s1 := s.advance dt;
    let h := s1.hif vi;
    s1.viPresent vi = true ∧ h.resetting = true) ∧
  (let dt : Nat := 0;
    let vi : Nat := 0;
    let v : Nat := 1;
    let s : State := wHif {};
    let s1 := s.advance dt;
    let h := s1.hif vi;
    s1.viPresent vi = true ∧ h.resetting = false ∧ bit v 0 = true ∧ h.enable = false) ∧
  (let dt : Nat := 0;
    let vi : Nat := 0;
    let v : Nat := 0;
    let s : State := wHif hifOn;
    let s1 := s.advance dt;
    let h := s1.hif vi;
    s1.viPresent vi = true ∧ h.resetting = false ∧ bit v 0 = false ∧ h.enable = true) ∧
  (let dt : Nat := 0;
    let vi : Nat := 0;
    let v : Nat := 0;
    let s : State := wHif {};
    let s1 := s.advance dt;
    let h := s1.hif vi;
    s1.viPresent vi = true ∧ h.resetting = false ∧ bit v 0 = h.enable) ∧
  (let dt : Nat := 0;
    let vi : Nat := 0;
    let s : State := wHif {};
    let s1 := s.advance dt;
    let h := s1.hif vi;
    (h.enable = false ∨ h.ringError = true ∨ h.resetting = true ∨ h.cmdHead = h.cmdTail ∨ (∃ r ∈ h.reads, r.life = .live) ∨
      (s1.chan vi).room true = false)) ∧
  (let dt : Nat := 0;
    let vi : Nat := 0;
    let s : State := wTu (wHif { hifOn with cmdTail := 1 });
    let s1 := s.advance dt;
    let h := s1.hif vi;
    vi = 0 ∧ s1.boot.phase = .ready ∧ h.enable = true ∧ h.ringError = false ∧ h.resetting = false ∧ h.cmdHead ≠ h.cmdTail ∧ h.reads = [] ∧ 0 < h.maxReads ∧ s1.readsOut < 768 ∧ (s1.chan 0).room true = true ∧ (s1.tu 0).mode = 2 ∧ h.cmdBase % 64 = 0 ∧ h.reserved + 2 ≤ 2 ^ h.dlvLog2 - 1 - ringDist (2 ^ h.dlvLog2) h.dlvHead h.dlvTail) ∧
  (let dt : Nat := 0;
    let vi : Nat := 0;
    let tag : Nat := 1;
    let s : State := wHif {};
    let s1 := s.advance dt;
    let h := s1.hif vi;
    h.reads.find? (fun (x : HostRead) => x.tag == tag) = none) ∧
  (let dt : Nat := 0;
    let vi : Nat := 0;
    let tag : Nat := 1;
    let gen : Nat := 1;
    let r : HostRead := read0;
    let s : State := wHif (hifRd read0);
    let s1 := s.advance dt;
    let h := s1.hif vi;
    h.reads.find? (fun (x : HostRead) => x.tag == tag) = some r ∧ (r.life = .late ∨ (r.life = .live ∧ gen ≠ h.generation))) ∧
   (let dt : Nat := 0;
    let vi : Nat := 0;
    let tag : Nat := 1;
    let r : HostRead := { read0 with life := .silent };
    let s : State := wHif (hifRd { read0 with life := .silent });
    let s1 := s.advance dt;
    let h := s1.hif vi;
    h.reads.find? (fun (x : HostRead) => x.tag == tag) = some r ∧ r.life = .silent) ∧
  (let dt : Nat := 0;
    let vi : Nat := 0;
    let tag : Nat := 1;
    let gen : Nat := 0;
    let err : Bool := true;
    let r : HostRead := read0;
    let s : State := wHif (hifRd read0);
    let s1 := s.advance dt;
    let h := s1.hif vi;
    h.reads.find? (fun (x : HostRead) => x.tag == tag) = some r ∧ r.life = .live ∧ gen = h.generation ∧ h.ringError = false ∧ h.enable = true ∧ err = true) ∧
  (let dt : Nat := 0;
    let vi : Nat := 0;
    let tag : Nat := 1;
    let gen : Nat := 0;
    let err : Bool := false;
    let r : HostRead := { read0 with desc := some [] };
    let s : State := wHif (hifRd { read0 with desc := some [] });
    let s1 := s.advance dt;
    let h := s1.hif vi;
    h.reads.find? (fun (x : HostRead) => x.tag == tag) = some r ∧ r.life = .live ∧ gen = h.generation ∧ h.ringError = false ∧ h.enable = true ∧ err = false ∧
    let d := ([] : Bytes);
    r.desc = some d) ∧
  (let dt : Nat := 0;
    let vi : Nat := 0;
    let tag : Nat := 1;
    let gen : Nat := 0;
    let err : Bool := false;
    let r : HostRead := read0;
    let s : State := wHif (hifRd read0);
    let s1 := s.advance dt;
    let h := s1.hif vi;
    h.reads.find? (fun (x : HostRead) => x.tag == tag) = some r ∧ r.life = .live ∧ gen = h.generation ∧ h.ringError = false ∧ h.enable = true ∧ err = false ∧ r.desc = none ∧ descOk r.data = false) ∧
  (let dt : Nat := 0;
    let vi : Nat := 0;
    let tag : Nat := 1;
    let r : HostRead := read0;
    let s : State := { wHif (hifRd read0) with horizon.tb3 := 0 };
    let s1 := s.advance dt;
    let h := s1.hif vi;
    h.reads.find? (fun (x : HostRead) => x.tag == tag) = some r ∧ s1.tb3Passed r.at_ 50000 = false) ∧
  (let dt : Nat := 0;
    let vi : Nat := 0;
    let tag : Nat := 1;
    let r : HostRead := read0;
    let s : State := wHif (hifRd read0);
    let s1 := s.advance dt;
    let h := s1.hif vi;
    h.reads.find? (fun (x : HostRead) => x.tag == tag) = some r ∧ s1.tb3Passed r.at_ 50000 = true ∧ r.life = .live ∧ h.ringError = false ∧ h.enable = true) ∧
  (let dt : Nat := 0;
    let vi : Nat := 0;
    let s : State := wHif hifR;
    let s1 := s.advance dt;
    let h := s1.hif vi;
    h.resetting = true ∧ h.generMode = false ∧ s1.tb3Passed h.resetAt 200 = true) ∧
  (let dt : Nat := 0;
    let vi : Nat := 0;
    let s : State := wHif {};
    let s1 := s.advance dt;
    let h := s1.hif vi;
    (h.resetting = false ∨ h.generMode = true ∨ s1.tb3Passed h.resetAt 200 = false)) ∧
  (let dt : Nat := 0;
    let vi : Nat := 0;
    let s : State := wHif {};
    let s1 := s.advance dt;
    let h := s1.hif vi;
    (h.resetting = false ∨ (∃ r ∈ h.reads, r.life = .silent))) ∧
  (let dt : Nat := 0;
    let vi : Nat := 0;
    let s : State := wHif hifR;
    let s1 := s.advance dt;
    let h := s1.hif vi;
    h.resetting = true ∧ (∀ r ∈ h.reads, r.life ≠ .silent)) ∧
  (let dt : Nat := 0;
    let vi : Nat := 1;
    let s : State := { w0 with host.numVfs := 2 };
    let s1 := s.advance dt;
    0 < vi ∧ vi ≤ 63 ∧ vi ≤ s1.host.numVfs ∧ (s1.hif vi).resetting = false) ∧
  (let dt : Nat := 0;
    let vi : Nat := 5;
    let s : State := wHif {};
    let s1 := s.advance dt;
    s1.viPresent vi = false) := by
  repeat' with_reducible apply And.intro
  all_goals decide +kernel

/-- The hypotheses of `Obligations.BridgeTranslationAndRegisters` are met. -/
theorem witness_BridgeTranslationAndRegisters :
  (let dt : Nat := 0;
    let vi : Nat := 0;
    let s : State := { w0 with host.tus := [(0, { swapBusy := true })] };
    let s1 := s.advance dt;
    let x := s1.tu vi;
    vi < 64 ∧ x.swapBusy = true) ∧
  (let dt : Nat := 0;
    let vi : Nat := 0;
    let s : State := w0;
    let s1 := s.advance dt;
    let x := s1.tu vi;
    vi < 64 ∧ x.swapBusy = false) ∧
  (let dt : Nat := 0;
    let vi : Nat := 0;
    let addr : Nat := 0;
    let len : Nat := 1;
    let s : State := w0;
    let s1 := s.advance dt;
    let covers (x : Window) (n : Nat) : Prop := x.enabled = true ∧ x.aperture ≤ addr ∧ addr + n ≤ x.aperture + 2 ^ x.log2;
    ((s1.hif vi).resetting = true ∨ s1.viPresent vi = false ∨ (∀ w, w < 8 → ¬ covers (s1.window vi w) len))) ∧
  (let dt : Nat := 0;
    let vi : Nat := 0;
    let addr : Nat := 0;
    let data : Bytes := ([1] : Bytes);
    let s : State := w0;
    let s1 := s.advance dt;
    let covers (x : Window) (n : Nat) : Prop := x.enabled = true ∧ x.aperture ≤ addr ∧ addr + n ≤ x.aperture + 2 ^ x.log2;
    ((s1.hif vi).resetting = true ∨ s1.viPresent vi = false ∨ (∀ w, w < 8 → ¬ covers (s1.window vi w) data.length))) ∧
  (let dt : Nat := 0;
    let vi : Nat := 0;
    let w : Nat := 0;
    let addr : Nat := 0;
    let s : State := wWin { win0 with write := false };
    let s1 := s.advance dt;
    let x := s1.window vi w;
    let k := addr - x.aperture;
    let el := if x.dataInv then 2 ^ (x.element + 1) else 1;
    let a := x.internal + (k / el * el + (el - 1 - k % el));
    (s1.hif vi).resetting = false ∧ s1.viPresent vi = true ∧ s1.windowOf vi addr 1 = some (w, x) ∧ s1.anvil.errs = [] ∧ s1.anvil.poison = [] ∧ (x.write = false ∨ (0x0100000000 ≤ a ∧ a ≤ 0x0201FFFFFF))) ∧
  (let dt : Nat := 0;
    let vi : Nat := 0;
    let w : Nat := 0;
    let addr : Nat := 0;
    let s : State := wWin win0;
    let s1 := s.advance dt;
    let x := s1.window vi w;
    let k := addr - x.aperture;
    let el := if x.dataInv then 2 ^ (x.element + 1) else 1;
    let a := x.internal + (k / el * el + (el - 1 - k % el));
    (s1.hif vi).resetting = false ∧ s1.viPresent vi = true ∧ s1.windowOf vi addr 1 = some (w, x) ∧ s1.anvil.errs = [] ∧ s1.anvil.poison = [] ∧ x.write = true ∧
    let e := engOfKey false 0;
    let o := 0;
    engOfAddr a = some (e, o) ∧ o < (if e.ls then 0x7800 else 0x26000) ∧ s1.lineHeld e o = false) ∧
  (let dt : Nat := 0;
    let vi : Nat := 0;
    let off : Nat := 0x5000;
    let s : State := w0;
    let s1 := s.advance dt;
    s1.viPresent vi = true ∧ 0x5000 ≤ off ∧ off < 0x8000 ∧ off % 4 = 0) ∧
  (let dt : Nat := 0;
    let vi : Nat := 0;
    let s : State := wHif hifOn;
    let s1 := s.advance dt;
    let h := s1.hif vi;
    s1.viPresent vi = true ∧ h.resetting = false ∧ h.enable = true) ∧
  (let dt : Nat := 0;
    let vi : Nat := 0;
    let v : Nat := 1;
    let s : State := w0;
    let s1 := s.advance dt;
    let h := s1.hif vi;
    s1.viPresent vi = true ∧ h.resetting = false ∧ h.enable = false ∧ v < 2 ^ 32) ∧
  (let dt : Nat := 0;
    let vi : Nat := 0;
    let v : Nat := 1;
    let s : State := w0;
    let s1 := s.advance dt;
    s1.viPresent vi = true ∧ v ≤ 63 ∧ s1.host.numVfs = 0) := by
  repeat' with_reducible apply And.intro
  all_goals decide +kernel

/-- The hypotheses of `Obligations.InterruptControllerRules` are met. -/
theorem witness_InterruptControllerRules :
  (let dt : Nat := 0;
    let s : State := w0;
    let s1 := s.advance dt;
    s1.icu.inbox = []) ∧
  (let dt : Nat := 0;
    let n : Nat := 1;
    let rest : List Nat := ([] : List Nat);
    let s : State := wSrc 1 { masked := .squall };
    let s1 := s.advance dt;
    let x := s1.src n;
    s1.icu.inbox = n :: rest ∧ x.masked ≠ .none) ∧
  (let us (n : Nat) : Int := ((n * 1000 * 2 ^ 40 : Nat) : Int);
    let dt : Nat := 0;
    let n : Nat := 1;
    let rest : List Nat := ([] : List Nat);
    let s : State := wSrc 1 { limit := 1, windowUs := 10, hist := [2 ^ 80 - 1] };
    let s1 := s.advance dt;
    let x := s1.src n;
    let recent := x.hist.filter (fun t => decide (tDiff s1.tb3 t < us x.windowUs) && decide (tDiff s1.tb3 t > 0));
    s1.icu.inbox = n :: rest ∧ x.masked = .none ∧ srcLevel n x.mode = false ∧ n ≠ 148 ∧ 0 < x.limit ∧ x.limit ≤ recent.length) ∧
  (let us (n : Nat) : Int := ((n * 1000 * 2 ^ 40 : Nat) : Int);
    let dt : Nat := 0;
    let n : Nat := 1;
    let rest : List Nat := ([] : List Nat);
    let s : State := wSrc 1 {};
    let s1 := s.advance dt;
    let x := s1.src n;
    let recent := x.hist.filter (fun t => decide (tDiff s1.tb3 t < us x.windowUs) && decide (tDiff s1.tb3 t > 0));
    s1.icu.inbox = n :: rest ∧ x.masked = .none ∧ ((srcLevel n x.mode = true ∨ n = 148 ∨ x.limit = 0 ∨ recent.length < x.limit))) ∧
  (let dt : Nat := 0;
    let s : State := w0;
    let s1 := s.advance dt;
    s1.icu.wired = []) ∧
  (let dt : Nat := 0;
    let n : Nat := 768;
    let level : Bool := false;
    let rest : List (Nat × Bool) := ([] : List (Nat × Bool));
    let s : State := wIcu { sources := [(768, {})], wired := [(768, false)] };
    let s1 := s.advance dt;
    let x := s1.src n;
    s1.icu.wired = (n, level) :: rest ∧ (srcMode n x.mode = 2 ∧ level = false ∨ srcMode n x.mode = 3 ∧ level = true)) ∧
  (let dt : Nat := 0;
    let n : Nat := 772;
    let level : Bool := true;
    let rest : List (Nat × Bool) := ([] : List (Nat × Bool));
    let s : State := wIcu { sources := [(772, {})], wired := [(772, true)] };
    let s1 := s.advance dt;
    let x := s1.src n;
    s1.icu.wired = (n, level) :: rest ∧ (srcMode n x.mode = 4 ∨ srcMode n x.mode = 2 ∧ level = true ∨ srcMode n x.mode = 3 ∧ level = false)) ∧
  (let dt : Nat := 0;
    let n : Nat := 1;
    let s : State := wSrc 1 { masked := .squall, releaseUs := 1 };
    let s1 := s.advance dt;
    let x := s1.src n;
    srcDefined n = true ∧ x.masked = .squall ∧ 0 < x.releaseUs ∧ s1.tb3Passed x.lastEvent x.releaseUs = true) ∧
  (let dt : Nat := 0;
    let n : Nat := 800;
    let s : State := wSrc 800 { masked := .stuck, releaseUs := 1, mode := 0 };
    let s1 := s.advance dt;
    let x := s1.src n;
    let act := srcLevel n x.mode = true ∧ x.line = (srcMode n x.mode == 0);
    srcDefined n = true ∧ x.masked = .stuck ∧ 0 < x.releaseUs ∧ (¬ act) ∧ s1.tb3Passed x.idleAt x.releaseUs = true) ∧
  (let dt : Nat := 0;
    let n : Nat := 1;
    let s : State := wSrc 1 {};
    let s1 := s.advance dt;
    let x := s1.src n;
    srcDefined n = true ∧ (x.masked = .none ∨ x.releaseUs = 0)) ∧
  (let us (n : Nat) : Int := ((n * 1000 * 2 ^ 40 : Nat) : Int);
    let dt : Nat := 0;
    let n : Nat := 800;
    let s : State := wSrc 800 { mode := 0, line := true };
    let s1 := s.advance dt;
    let x := s1.src n;
    let act := srcLevel n x.mode = true ∧ x.line = (srcMode n x.mode == 0);
    srcDefined n = true ∧ n ≠ 770 ∧ x.masked = .none ∧ act ∧ us x.maxUs < tDiff s1.tb3 x.activeAt) ∧
  (let dt : Nat := 0;
    let n : Nat := 770;
    let s : State := wSrc 770 {};
    let s1 := s.advance dt;
    let x := s1.src n;
    let act := srcLevel n x.mode = true ∧ x.line = (srcMode n x.mode == 0);
    srcDefined n = true ∧ (n = 770 ∨ ¬ act)) ∧
  (let dt : Nat := 0;
    let i : Nat := 0;
    let c : Core := {};
    let s : State := w0;
    let s1 := s.advance dt;
    s1.icu.cores[i]? = some c ∧ c.delivered = []) ∧
  (let dt : Nat := 0;
    let i : Nat := 0;
    let n : Nat := 5;
    let c : Core := { delivered := [5] };
    let s : State := wIcu { cores := [{ delivered := [5] }] };
    let s1 := s.advance dt;
    s1.icu.cores[i]? = some c ∧ c.delivered = [n] ∧ c.stack.length < 16) ∧
  (let dt : Nat := 0;
    let i : Nat := 0;
    let n : Nat := 5;
    let p : Nat := 1;
    let src : Nat := 6;
    let c : Core := core0;
    let rest : List (Nat × Nat) := ([] : List (Nat × Nat));
    let s : State := wIcu { cores := [core0] };
    let s1 := s.advance dt;
    s1.icu.cores[i]? = some c ∧ c.stack = (n, p) :: rest ∧ src ≠ n) ∧
  (let dt : Nat := 0;
    let vi : Nat := 0;
    let v : Nat := 3;
    let s : State := wIcu { fns := [(0, { enabled := true, vecMask := [3], vecPend := [3] })] };
    let s1 := s.advance dt;
    let f := s1.msix vi;
    s1.viPresent vi = true ∧ f.enabled = true ∧ f.fnMask = false ∧ f.vecMask = [v] ∧ f.vecPend = [v]) ∧
  (let dt : Nat := 0;
    let vi : Nat := 0;
    let w : Nat := 0;
    let b : Nat := 1;
    let s : State := wSrc 1 { hostVi := 0, hPending := true };
    let s1 := s.advance dt;
    let n := 32 * w + b;
    let x := s1.src n;
    s1.viPresent vi = true ∧ w < 32 ∧ b < 32 ∧ x.hostVi = vi ∧ x.hPending = true ∧ x.active n = false) ∧
  (let dt : Nat := 0;
    let vi : Nat := 0;
    let w : Nat := 0;
    let b : Nat := 1;
    let s : State := wSrc 1 {};
    let s1 := s.advance dt;
    let n := 32 * w + b;
    let x := s1.src n;
    s1.viPresent vi = true ∧ w < 32 ∧ b < 32 ∧ (x.hostVi ≠ vi ∨ x.active n = true)) ∧
  (let dt : Nat := 0;
    let vi : Nat := 0;
    let w : Nat := 0;
    let b : Nat := 1;
    let s : State := wSrc 1 { hostVi := 0, masked := .squall };
    let s1 := s.advance dt;
    let n := 32 * w + b;
    let x := s1.src n;
    s1.viPresent vi = true ∧ w < 32 ∧ b < 32 ∧ srcDefined n = true ∧ x.hostVi = vi ∧ x.masked ≠ .none) ∧
  (let dt : Nat := 0;
    let vi : Nat := 0;
    let w : Nat := 0;
    let b : Nat := 1;
    let s : State := wSrc 1 {};
    let s1 := s.advance dt;
    let n := 32 * w + b;
    let x := s1.src n;
    s1.viPresent vi = true ∧ w < 32 ∧ b < 32 ∧ x.hostVi ≠ vi) := by
  repeat' with_reducible apply And.intro
  all_goals decide +kernel

/-- The hypotheses of `Obligations.KeyCommandsComplete` are met. -/
theorem witness_KeyCommandsComplete :
  (let slot (c : Cmd) : Nat := byteAt c.params 0
   let fit (s : State) (c : Cmd) : Bool := (s.slotUsers (slot c)).all (fun need =>
      byteAt c.params 1 == need.1 && (byteAt c.params 2 &&& need.2 == need.2))
   let service (s : State) : Prop := s.haloPhase = .service
   Met cardWriteKey (fun s c => fit s c = true ∧ s.keys.tamperCause = 0 ∧ service s)
    w0 (pkt 64 0 (fields 72 [(0, 1, 3), (1, 1, 3), (2, 1, 4), (4, 2, 256)])) ∧
   Met cardWriteKey (fun s c => fit s c = false)
    (keyed { w0 with pair.configured := true, pair.keySlot := 3 } 3 3 4 256 key32) (pkt 64 0 (fields 72 [(0, 1, 3), (1, 1, 1), (4, 1, 128), (2, 1, 1)])) ∧
   Met cardWriteKey (fun s c => fit s c = true ∧ s.keys.tamperCause ≠ 0)
    ({ w0 with keys.tamperCause := 1 }) (pkt 64 0 (fields 72 [(0, 1, 3), (4, 1, 128), (2, 1, 1), (1, 1, 1)])) ∧
   Met cardWriteKey (fun s c => fit s c = true ∧ s.keys.tamperCause = 0 ∧ ¬ service s)
    ({ w0 with tap.instr := .extest }) (pkt 64 0 (fields 72 [(0, 1, 3), (4, 1, 128), (2, 1, 1), (1, 1, 1)])) ∧
   Met cardEraseKey (fun s c => ((s.slot (slot c)).st ≠ .valid ∨ s.slotUsers (slot c) = []) ∧ service s)
    w0 (pkt 64 0 (fields 4 [(0, 1, 3)])) ∧
   Met cardEraseKey (fun s c => (s.slot (slot c)).st = .valid ∧ s.slotUsers (slot c) ≠ [])
    (keyed { w0 with pair.configured := true, pair.keySlot := 3 } 3 3 4 256 key32) (pkt 64 0 (fields 4 [(0, 1, 3)])) ∧
   Met cardEraseKey (fun s c => ((s.slot (slot c)).st ≠ .valid ∨ s.slotUsers (slot c) = []) ∧ ¬ service s)
    ({ w0 with tap.instr := .extest }) (pkt 64 0 (fields 4 [(0, 1, 3)])) ∧
   Met cardGetKeyInfo (fun _ _ => True)
    w0 (pkt 64 0 (fields 4 [(0, 1, 3)])) ∧
   Met cardListKeys (fun _ _ => True)
    w0 (pkt 64 0 []) ∧
   (let own (c : Cmd) : Prop := byteAt c.params 1 = 0
    let parent (s : State) (c : Cmd) : Prop := (s.slot (slot c)).type = 4 ∧ bit (s.slot (slot c)).usage 4 = true
    let usable (s : State) (c : Cmd) : Prop := (s.slot (slot c)).st = .valid ∧ service s
    let whole (s : State) (c : Cmd) : Prop := (s.slot (slot c)).tagOk (slot c) = true
    Met cardVerifyKey (fun s c => usable s c ∧ own c ∧ whole s c)
    (keyed w0 3 4 0x14 256 key32) (pkt 64 0 (fields 72 [(0, 1, 3), (1, 1, 0)])) ∧
    Met cardVerifyKey (fun s c => usable s c ∧ ¬ own c ∧ parent s c ∧ whole s c ∧ s.keys.cache = [])
    (keyed w0 3 4 0x14 256 key32) (pkt 64 0 (fields 72 [(0, 1, 3), (1, 1, 4), (2, 1, 128)])) ∧
    Met cardVerifyKey (fun s c => (s.slot (slot c)).st ≠ .valid)
    w0 (pkt 64 0 (fields 72 [(0, 1, 3)])) ∧
    Met cardVerifyKey (fun s c => (s.slot (slot c)).st = .valid ∧ ¬ service s)
    ({ (keyed w0 3 4 0x14 256 key32) with tap.instr := .extest }) (pkt 64 0 (fields 72 [(0, 1, 3)])) ∧
    Met cardVerifyKey (fun s c => usable s c ∧ ¬ own c ∧ ¬ parent s c)
    (keyed w0 3 1 1 256 key32) (pkt 64 0 (fields 72 [(0, 1, 3), (1, 1, 4), (2, 1, 128)])) ∧
    Met cardVerifyKey (fun s c => usable s c ∧ own c ∧ ¬ whole s c) (torn w0 3) (pkt 64 0 (fields 72 [(0, 1, 3), (1, 1, 0)])))) ∧
  Met cardAckTamper (fun s _ => s.keys.tamperCause = 0 ∨ s.keys.tamperLow = false)
    w0 (pkt 64 0 []) ∧
  Met cardAckTamper (fun s _ => s.keys.tamperCause ≠ 0 ∧ s.keys.tamperLow = true)
    ({ w0 with keys.tamperCause := 1, keys.tamperLow := true }) (pkt 64 0 []) ∧
  Met cardGetHaloStatus (fun _ _ => True)
    w0 (pkt 64 0 (fields 4 [])) := by
  repeat' with_reducible apply And.intro
  all_goals refine ⟨by decide +kernel, ?_⟩
  · first | exact True.intro | (try dsimp only); decide +kernel
  · first | exact True.intro | (try dsimp only); decide +kernel
  · first | exact True.intro | (try dsimp only); decide +kernel
  · first | exact True.intro | (try dsimp only); decide +kernel
  · first | exact True.intro | (try dsimp only); decide +kernel
  · first | exact True.intro | (try dsimp only); decide +kernel
  · first | exact True.intro | (try dsimp only); decide +kernel
  · exact True.intro
  · exact True.intro
  · exact ⟨by decide +kernel, by decide +kernel, slotOf_whole 3 4 0x14⟩
  · exact ⟨by decide +kernel, by decide +kernel, by decide +kernel, slotOf_whole 3 4 0x14, by decide +kernel⟩
  · first | exact True.intro | (try dsimp only); decide +kernel
  · first | exact True.intro | (try dsimp only); decide +kernel
  · first | exact True.intro | (try dsimp only); decide +kernel
  · exact ⟨⟨by decide +kernel, by decide +kernel⟩, by decide +kernel, torn_tag 3⟩
  · first | exact True.intro | (try dsimp only); decide +kernel
  · first | exact True.intro | (try dsimp only); decide +kernel
  · exact True.intro

/-- The hypotheses of `Obligations.HaloEventsFollowTheirRules` are met. -/
theorem witness_HaloEventsFollowTheirRules :
  (let s : State := w0;
    s.power.vaux = true ∧ s.keys.tamperLow = false) ∧
  (let n : Nat := 3;
    let s : State := kTest;
    s.haloPhase ≠ .service ∧ s.power.supply ≠ .off ∧ (s.slot n).st = .valid ∧ (s.slot n).tagOk n = true) ∧
  (let s : State := w0;
    s.haloPhase = .service) ∧
  (let n : Nat := 3;
    let flip : Nat := 0;
    let s : State := kSrv;
    (s.slot n).st = .valid ∧
    let k : KeySlot := { s.slot n with word := ((s.slot n).word ^^^ flip) % 2 ^ 512 };
    k.tagOk n = true) ∧
  (let n : Nat := 3;
    let flip : Nat := 0;
    let s : State := kTorn;
    (s.slot n).st = .valid ∧
    let k : KeySlot := { s.slot n with word := ((s.slot n).word ^^^ flip) % 2 ^ 512 };
    k.tagOk n = false) ∧
  (let n : Nat := 3;
    let s : State := w0;
    (s.slot n).st ≠ .valid) ∧
  (let dt : Nat := 0;
    let link : Nat := 0;
    let k : MacKey := { prev := some [] };
    let s : State := wMac { prev := some [] };
    s.keys.macsec.get link = some k ∧ k.prev.isSome = true ∧ (s.advance dt).tb3Passed k.prevAt 1000000 = true) ∧
  (let dt : Nat := 0;
    let link : Nat := 0;
    let k : MacKey := {};
    let s : State := { wMac {} with horizon.tb3 := 0 };
    s.keys.macsec.get link = some k ∧ (s.advance dt).tb3Passed k.prevAt 1000000 = false) ∧
  (let s : State := w0;
    s.anvil.hub ≠ .fatal ∧ s.boot.phase = .ready) ∧
  (let i : Nat := 3;
    3 ≤ i ∧ i ≤ 8) ∧
  (let s : State := { w0 with anvil.hub := .fatal };
    s.anvil.hub = .fatal) := by
  refine ⟨?_, ⟨?_, ?_, ?_, kTest_whole⟩, ?_, ⟨?_, flip_none⟩, ⟨?_, flip_torn⟩, ?_, ?_, ?_, ?_, ?_, ?_⟩
  all_goals decide +kernel

/-- The hypotheses of `Obligations.RecorderCommandsComplete` are met. -/
theorem witness_RecorderCommandsComplete :
  Met cardGetRecorderStatus (fun _ _ => True)
    w0 (pkt 64 0 []) ∧
   (Met cardReadRecords (fun _ _ => True)
    w0 (pkt 64 0 (fields 12 [(8, 1, 1)])) ) ∧
  Met cardReadCounters (fun _ _ => True)
    w0 (pkt 64 0 (fields 4 [(0, 2, 0), (2, 1, 1)])) ∧
  Met cardReadHistogram (fun _ _ => True)
    w0 (pkt 64 0 (fields 4 [(0, 1, 0)])) ∧
  Met cardGetChipletIdentity (fun _ _ => True)
    w0 (pkt 64 0 (fields 4 [(0, 1, 0)])) ∧
  Met cardGetClearNonce (fun _ _ => True)
    w0 (pkt 64 0 []) ∧
  Met cardClearRecorder (fun s c => s.recorder.nonce = some (zeros 16, 0) ∧ s.tb3Passed 0 60000000 = false ∧
        (s.slot (byteAt c.params 0)).st = .valid ∧ (s.slot (byteAt c.params 0)).fits needClear = true ∧
        State.useSlot { s with origin := c.inst, recorder.nonce := none } (byteAt c.params 0) = .ok key32 ∧
        slice c.params 4 32 = hmac key32 (clearLabel ++ zeros 16 ++ le 8 Config.serial.toNat))
    (wNonce (zeros 16)) (pkt 64 0 (le 4 3 ++ tokenOf (zeros 16))) ∧
  Met cardClearRecorder (fun s _ => s.recorder.nonce = none) w0 (pkt 64 0 (fields 36 [(0, 1, 3)])) ∧
  Met cardClearRecorder (fun s _ => ∃ x, s.recorder.nonce = some x ∧ s.tb3Passed x.2 60000000 = true)
    { w0 with recorder.nonce := some (zeros 16, 0), horizon.tb3 := 2 ^ 80 } (pkt 64 0 (fields 36 [(0, 1, 3)])) ∧
  Met cardPostRecord (fun s _ => s.recorder.queue.length < 1024)
    w0 (pkt 64 0 (fields 28 [(0, 2, 4336)])) := by
  repeat' with_reducible apply And.intro
  case right.right.right.right.right.right.left =>
    refine ⟨clear_passes _ (hmac_length _ _), by decide +kernel, by decide +kernel, ?_⟩
    have p : ∀ h : Bytes, byteAt (cardClearRecorder.cmd (pkt 64 0 (le 4 3 ++ h))).params 0 = 3 := fun _ => rfl
    dsimp only
    rw [tokenOf, p]
    exact ⟨by decide +kernel, by decide +kernel,
      use_key (by decide +kernel) (by decide +kernel) (slotOf_whole 3 1 8) (slotOf_key 3 1 8),
      slice_tail 3 _ (hmac_length _ _)⟩
  all_goals refine ⟨by decide +kernel, ?_⟩
  all_goals try dsimp only
  all_goals first
    | exact True.intro
    | decide +kernel

/-- The hypotheses of `Obligations.RecorderEventsFollowTheirRules` are met. -/
theorem witness_RecorderEventsFollowTheirRules :
  (let s : State := wRecd { queue := [ev0] };
    let e : Event := ev0;
    let rest : List Event := ([] : List Event);
    let r := s.recorder;
    s.power.vaux = true ∧ r.queue = e :: rest ∧ r.lost = 0 ∧ e.asked = none ∧ r.oldest ≤ r.next) ∧
  (let dt : Nat := 0;
    let s : State := wRecd { nonce := some ([], 0) };
    let n : Bytes := ([] : Bytes);
    let at_ : Nat := 0;
    s.recorder.nonce = some (n, at_) ∧ (s.advance dt).tb3Passed at_ 60000000 = true) ∧
  (let dt : Nat := 0;
    let s : State := { w0 with recorder.nonce := some ([], 0) };
    let n : Bytes := ([] : Bytes);
    let at_ : Nat := 0;
    s.recorder.nonce = some (n, at_) ∧ (s.advance dt).tb3Passed at_ 60000000 = false) ∧
  (let s : State := w0;
    s.recorder.nonce = none) ∧
  (let s : State := w0;
    s.power.supply ≠ .off) ∧
  (let s : State := noPower w0;
    s.power.supply = .off) := by
  repeat' with_reducible apply And.intro
  all_goals decide +kernel

/-- The hypotheses of `Obligations.EventQueueHolds1024` are met. -/
theorem witness_EventQueueHolds1024 :
  (let s : State := w0;
    s.recorder.queue.length < 1024) ∧
  (let s : State := wRecd full;
    1024 ≤ s.recorder.queue.length) ∧
  (let s : State := wRecd { queue := [ev0], lost := 1 };
    let e : Event := ev0;
    let rest : List Event := ([] : List Event);
    s.power.vaux = true ∧ s.recorder.queue = e :: rest ∧ rest.length < 1024 ∧ e.asked = none ∧ 0 < s.recorder.lost) := by
  repeat' with_reducible apply And.intro
  all_goals decide +kernel

/-- The hypotheses of `Obligations.SerialCommandsComplete` are met. -/
theorem witness_SerialCommandsComplete :
   (let waits (s : State) (c : Cmd) : Prop :=
      (s.uart (byteAt c.params 0)).sending.isSome = true ∨ (byteAt c.params 0 = 0 ∧ c.chan = 64)
    Met cardSetUart waits
    w0 (pkt 64 0 (fields 8 [(0, 1, 0), (1, 1, 1)])) ∧
    Met cardSetUart (fun s c => ¬ waits s c)
    w0 (pkt 64 0 (fields 8 [(0, 1, 1)])) ) ∧
  Met cardUartWrite (fun s c => (s.uart (byteAt c.params 0)).enable = true ∧
      (s.uart (byteAt c.params 0)).tx.length + (slice c.params 4 (u16 c.params 2)).length ≤ 4096)
    ({ w0 with serial.uarts := List.replicate 4 { enable := true } }) (pkt 64 0 (fields 8 [(0, 1, 1), (2, 2, 1)])) ∧
  Met cardUartWrite (fun s c => (s.uart (byteAt c.params 0)).enable = false)
    w0 (pkt 64 0 (fields 8 [(0, 1, 1), (2, 2, 1)])) ∧
  Met cardUartWrite (fun s c => (s.uart (byteAt c.params 0)).enable = true ∧
      4096 < (s.uart (byteAt c.params 0)).tx.length + (slice c.params 4 (u16 c.params 2)).length)
    ({ w0 with serial.uarts := List.replicate 4 { enable := true, tx := List.replicate 4096 0 } }) (pkt 64 0 (fields 8 [(0, 1, 1), (2, 2, 1)])) ∧
  Met cardUartRead (fun _ _ => True)
    w0 (pkt 64 0 (fields 4 [(0, 1, 1), (2, 1, 1)])) ∧
  Met cardGetUartStatus (fun _ _ => True)
    w0 (pkt 64 0 (fields 4 [(0, 1, 1)])) ∧
   (let src (c : Cmd) : SigSrc := .binaryIn (byteAt c.params 0)
    Met cardSetBinaryInput (fun _ c => bit (byteAt c.params 1) 0 = false)
    w0 (pkt 64 0 (fields 16 [(0, 1, 0), (1, 1, 0), (10, 1, 100), (8, 1, 10), (6, 1, 1)])) ∧
    Met cardSetBinaryInput (fun s c => bit (byteAt c.params 1) 0 = true ∧ s.drivenByOther (u16 c.params 2) (src c) = false ∧
        (s.serial.ins.getD (byteAt c.params 0) {}).st = .disabled)
    w0 (pkt 64 0 (fields 16 [(0, 1, 0), (1, 1, 1), (2, 2, 9), (10, 1, 100), (8, 1, 10), (6, 1, 1)])) ∧
    Met cardSetBinaryInput (fun s c => bit (byteAt c.params 1) 0 = true ∧ s.drivenByOther (u16 c.params 2) (src c) = false ∧
        (s.serial.ins.getD (byteAt c.params 0) {}).st ≠ .disabled ∧
        (s.serial.ins.getD (byteAt c.params 0) {}).signal = u16 c.params 2)
    ({ w0 with serial.ins := [(0, { st := .normal, signal := 9 })] }) (pkt 64 0 (fields 16 [(0, 1, 0), (1, 1, 1), (2, 2, 9), (10, 1, 100), (8, 1, 10), (6, 1, 1)])) ∧
    Met cardSetBinaryInput (fun s c => bit (byteAt c.params 1) 0 = true ∧ s.drivenByOther (u16 c.params 2) (src c) = true)
    ({ w0 with prog.signals := [(9, { src := .output 1 })] }) (pkt 64 0 (fields 16 [(0, 1, 0), (1, 1, 1), (2, 2, 9), (10, 1, 100), (8, 1, 10), (6, 1, 1)])) ) ∧
  (Met cardSetBinaryOutput (fun _ _ => True)
    w0 (pkt 64 0 (fields 4 [])) ) ∧
  Met cardGetBinaryIo (fun _ _ => True)
    w0 (pkt 64 0 []) := by
  repeat' with_reducible apply And.intro
  all_goals refine ⟨by decide +kernel, ?_⟩
  all_goals try dsimp only
  all_goals first
    | exact True.intro
    | decide +kernel

/-- The hypotheses of `Obligations.SerialEventsFollowTheirRules` are met. -/
theorem witness_SerialEventsFollowTheirRules :
  (let n : Nat := 1;
    let smp : List Nat := [7];
    let s : State := wUart uart1;
    let u := s.uart n;
    let x (i : Nat) : Nat := smp.getD i 7;
    s.running = true ∧ n < 4 ∧ s.serial.uarts.length = 4 ∧ u.counters.length = 6 ∧ u.enable = true ∧ u.format = 0 ∧ (∀ k ∈ u.counters, k < 2 ^ 32) ∧ majority (x 0) = true) ∧
  (let n : Nat := 1;
    let smp : List Nat := [0, 7, 7, 7, 7, 7, 7, 7, 7, 0];
    let s : State := wUart uart1;
    let u := s.uart n;
    let x (i : Nat) : Nat := smp.getD i 7;
    s.running = true ∧ n < 4 ∧ s.serial.uarts.length = 4 ∧ u.counters.length = 6 ∧ u.enable = true ∧ u.format = 0 ∧ (∀ k ∈ u.counters, k < 2 ^ 32) ∧ majority (x 0) = false ∧ majority (x 9) = false) ∧
  (let n : Nat := 1;
    let smp : List Nat := [0, 7, 7, 7, 7, 7, 7, 7, 7, 7];
    let s : State := wUart uart1;
    let u := s.uart n;
    let x (i : Nat) : Nat := smp.getD i 7;
    s.running = true ∧ n < 4 ∧ s.serial.uarts.length = 4 ∧ u.counters.length = 6 ∧ u.enable = true ∧ u.format = 0 ∧ (∀ k ∈ u.counters, k < 2 ^ 32) ∧ majority (x 0) = false ∧ majority (x 9) = true ∧ 1 ≤ n ∧ u.rx.length < 4096) ∧
  (let smp : List Nat := [0, 7, 7, 7, 7, 7, 7, 7, 7, 7];
    let s : State := wUart uart1;
    let u := s.uart 0;
    let x (i : Nat) : Nat := smp.getD i 7;
    let v : Byte := BitVec.ofNat 8 (bitsNat ((List.range 8).map (fun i => majority (x (1 + i)))));
    s.running = true ∧ u.enable = true ∧ u.format = 0 ∧ majority (x 0) = false ∧ majority (x 9) = true ∧ s.serial.frame.open_ = true ∧ s.serial.frame.esc = false ∧ v ≠ 0x7E#8 ∧ v ≠ 0x7D#8) ∧
  (let n : Nat := 1;
    let s : State := wUart uart1;
    s.running = true ∧ (s.uart n).enable = true ∧ 1 ≤ n) ∧
  (let n : Nat := 1;
    let v : Nat := 1;
    let s : State := wUart { uart1 with sending := some 1 };
    (s.uart n).sending = some v) ∧
  (let dt : Nat := 0;
    let n : Nat := 1;
    let level : Bool := true;
    let held : Nat := 5;
    let s : State := wBin binN;
    let x : BinIn := binN;
    let s1 := s.advance dt;
    let raw := level != x.invert;
    let recent := x.changes.filter (fun t => decide (tDiff s1.tb3 t ≤ x.windowMs * 1000000 * 2 ^ 40));
    s.serial.ins.get n = some x ∧ x.first = false ∧ x.st = .normal ∧ raw ≠ x.value ∧ held ≥ x.debounce + 1 ∧ recent.length < x.count) ∧
  (let dt : Nat := 0;
    let n : Nat := 1;
    let level : Bool := true;
    let held : Nat := 5;
    let s : State := wBin { binN with changes := [2 ^ 80] };
    let x : BinIn := { binN with changes := [2 ^ 80] };
    let s1 := s.advance dt;
    let raw := level != x.invert;
    let recent := x.changes.filter (fun t => decide (tDiff s1.tb3 t ≤ x.windowMs * 1000000 * 2 ^ 40));
    s.serial.ins.get n = some x ∧ x.first = false ∧ x.st = .normal ∧ raw ≠ x.value ∧ held ≥ x.debounce + 1 ∧ x.count ≤ recent.length) ∧
  (let n : Nat := 1;
    let level : Bool := true;
    let held : Nat := 0;
    let s : State := wBin binN;
    let x : BinIn := binN;
    let raw := level != x.invert;
    s.serial.ins.get n = some x ∧ x.first = false ∧ (raw = x.value ∨ held < x.debounce + 1)) ∧
  (let n : Nat := 1;
    let level : Bool := true;
    let held : Nat := 5;
    let s : State := wBin { binN with st := .stuck };
    let x : BinIn := { binN with st := .stuck };
    let raw := level != x.invert;
    s.serial.ins.get n = some x ∧ x.first = false ∧ x.st = .stuck ∧ raw ≠ x.value ∧ held ≥ x.debounce + 1) ∧
  (let n : Nat := 1;
    let held : Nat := 100000;
    let s : State := wBin { binN with st := .chatter };
    let x : BinIn := { binN with st := .chatter };
    s.serial.ins.get n = some x ∧ x.first = false ∧ x.st = .chatter ∧ held ≥ x.release * 1000) ∧
  (let n : Nat := 1;
    let held : Nat := 5;
    let s : State := wBin binN;
    let x : BinIn := binN;
    s.serial.ins.get n = some x ∧ x.first = false ∧ (x.st ≠ .chatter ∨ held < x.release * 1000)) ∧
  (let dt : Nat := 0;
    let n : Nat := 1;
    let s : State := wBin { binN with stuckMs := 1, value := true };
    let x : BinIn := { binN with stuckMs := 1, value := true };
    s.serial.ins.get n = some x ∧ x.st = .normal ∧ 0 < x.stuckMs ∧ x.value = true ∧ (s.advance dt).tb3Passed x.oneAt (x.stuckMs * 1000) = true) ∧
  (let x : BinIn := binN;
    x.st ≠ .disabled) := by
  repeat' with_reducible apply And.intro
  all_goals decide +kernel

/-- The hypotheses of `Obligations.ModuleResetKeepsOnly` are met. -/
theorem witness_ModuleResetKeepsOnly :
  (let s : State := w0;
    s.boot.resetPin = true ∧ s.power.supply ≠ .off ∧ s.recorder.queue = [] ∧ s.recorder.lost = 0 ∧ s.boot.slotA.writing = false ∧ s.boot.slotB.writing = false) := by
  repeat' with_reducible apply And.intro
  all_goals decide +kernel

/-- The hypotheses of `Obligations.BootChoosesImage` are met. -/
theorem witness_BootChoosesImage :
  (let b : BootScan := scan0;
    let s : State := pinLow w0;
    s.boot.resetPin = false ∧ s.power.supply ≠ .off ∧ s.power.vaux = true ∧ b.record % 4 = 0) := by
  repeat' with_reducible apply And.intro
  all_goals decide +kernel

/-- The hypotheses of `Obligations.SupplyAndResetEventsComplete` are met. -/
theorem witness_SupplyAndResetEventsComplete :
  (let vin : Nat := 12000;
    let vaux : Nat := 3300;
    let s : State := noPower w0;
    s.power.supply = .off ∧ 2700 ≤ vin ∧ 2500 ≤ vaux) ∧
  (let vin : Nat := 12000;
    let vaux : Nat := 3300;
    let s : State := w0;
    (s.power.supply ≠ .off ∨ vin < 2700 ∨ vaux < 2500)) ∧
  (let f : BootFindings := find0;
    let s : State := { w0 with boot.phase := .booting };
    s.boot.phase = .booting ∧ f.fatal = 0 ∧ s.recorder.queue.length < 1024) ∧
  (let s : State := w0;
    s.boot.phase ≠ .booting) ∧
  (let s : State := pinLow w0;
    s.boot.resetPin = false ∧ s.power.supply ≠ .off ∧ s.power.vaux = true) ∧
  (let dt : Nat := 0;
    let at_ : Nat := 0;
    let force : Bool := false;
    let s : State := resetting;
    s.cmd.resetDue = some (at_, force) ∧ (s.advance dt).tb3Passed at_ 1000 = true ∧ s.power.supply ≠ .off ∧ s.power.vaux = true ∧ s.boot.resetPin = true) ∧
  (let vin : Nat := 2500;
    let s : State := w0;
    s.power.supply = .running ∧ vin < s.power.vinWarn) ∧
  (let vin : Nat := 12000;
    let s : State := warned;
    s.power.supply = .warning ∧ s.power.vinWarn + 100 ≤ vin) ∧
  (let vin : Nat := 2500;
    let s : State := warned;
    s.power.supply = .warning ∧ vin < s.power.vinWarn + 100) ∧
  (let vin : Nat := 2000;
    let s : State := w0;
    s.power.supply ≠ .off ∧ vin < 2300) ∧
  (let s : State := noPower w0;
    s.power.vaux = true ∧ s.power.supply = .off) ∧
  (let s : State := w0;
    s.power.vaux = true ∧ s.power.supply ≠ .off) ∧
  (let s : State := { w0 with power.vaux := false };
    s.power.vaux = false) := by
  repeat' with_reducible apply And.intro
  all_goals decide +kernel


/-- The words of the register instructions with their weights: fields at the ends of their ranges. -/
def regWords : List (Nat × Nat) :=
  ([(0x10, 1), (0x11, 1), (0x12, 1), (0x13, 1), (0x14, 1), (0x15, 1), (0x16, 1), (0x17, 1), (0x18, 1), (0x19, 1), (0x1A, 2), (0x1B, 2),
    (0x1C, 2), (0x1D, 34), (0x1E, 34), (0x1F, 34), (0x20, 34), (0x21, 1), (0x22, 1), (0x30, 1), (0x31, 1), (0x40, 2), (0x41, 2),
    (0x42, 2), (0x43, 14), (0x48, 2), (0x49, 2), (0x4C, 2), (0x4D, 2), (0x4E, 2), (0x61, 16), (0x62, 30)].map
      (fun p => (encR p.1 31 30 29 0, p.2))) ++
  ([(0x23, 1), (0x34, 2), (0x37, 1), (0x44, 3), (0x45, 3)].map (fun p => (encR p.1 31 30 29 28, p.2))) ++
  ([(0x24, 1), (0x32, 1), (0x33, 1), (0x46, 14), (0x47, 10), (0x4A, 1), (0x4B, 1), (0x4F, 2), (0x50, 2), (0x60, 12)].map
      (fun p => (encR p.1 31 30 0 0, p.2))) ++
  ([(0x25, 1), (0x26, 1), (0x27, 1), (0x35, 1), (0x36, 1), (0x51, 2), (0x52, 2), (0x63, 36)].map
      (fun p => (encR p.1 31 30 0 30, p.2))) ++
  ([0x70, 0x71, 0x72, 0x73, 0x74, 0x75].map (fun o => (encK o 31 30 0x3FFF, 1))) ++
  [(encW 0x78 31 0xFFFF, 1), (encW 0x79 31 0xFFFF, 1), (encR 0xF1 31 0 0 0, 1), (encR 0xF2 0 31 0 0, 1)]

/-- The hypotheses of `Obligations.PeRegisterInstructions` are met, for every word of its rows. -/
theorem witness_PeRegisterInstructions : ∀ p ∈ regWords, (peAt p.1 {} xRun).Ready peE 4 p.1 p.2 xRun := by
  have h : regWords.all (fun p => peOk p.1 p.2 {} xRun) = true := by decide +kernel
  exact fun p m => State.ready_of (List.all_eq_true.mp h p m)

/-- Registers with an address in DATA in r30, and a buffer of 4 samples there in r29. -/
def rData : PeRegs := regsOf [(30, 0x10000020), (29, 4)]
def rCall (n : Nat) : PeRegs := { rs := List.replicate n 8 }

/-- The hypotheses of `Obligations.PeAccumulatorMemoryAndFlow` are met. -/
theorem witness_PeAccumulatorMemoryAndFlow :
    (∀ p ∈ [(encR 0x58 0 31 30 3, 2), (encR 0x59 0 31 30 3, 2), (encR 0x5A 0 0 0 3, 1), (encR 0x5B 0 31 30 3, 1), (encR 0x5C 31 0 30 3, 1)],
      (peAt p.1 {} xRun).Ready peE 4 p.1 p.2 xRun) ∧
    (∀ p ∈ [(0x80, 4), (0x81, 2), (0x82, 2), (0x83, 1), (0x84, 1), (0x88, 4), (0x89, 2), (0x8A, 1)],
      (peAt (encK p.1 31 30 0) rData xRun).Ready peE 4 (encK p.1 31 30 0) 1 xRun ∧ 0x10000020 % p.2 = 0 ∧
        (rData.get 30 + (0 : BitVec 14).signExtend 32).toNat = 0x10000020 ∧
        xRun.physical .load 0x10000020 p.2 = some 64 ∧ xRun.physical .store 0x10000020 p.2 = some 64 ∧
        (peAt (encK p.1 31 30 0) rData xRun).markedLines (peE.base + 64) p.2 = []) ∧
    (∀ o ∈ [0x90, 0x91, 0x92, 0x93, 0x94, 0x95], (peAt (encK o 31 30 0x3FFF) {} xRun).Ready peE 4 (encK o 31 30 0x3FFF) 1 xRun) ∧
    (∀ p ∈ [(encJ 0x98 0xFFFFFF, 0), (encJ 0x99 0xFFFFFF, 7), (encR 0x9A 0 0 0 0, 1), (encR 0x9B 0 31 0 0, 0)],
      (peAt p.1 (rCall p.2) xRun).Ready peE 4 p.1 1 xRun) ∧
    ((peAt (encR 0x64 28 30 29 1) rData xRun).Ready peE 4 (encR 0x64 28 30 29 1) 10 xRun ∧
      (∀ i, i < 4 → xRun.physical .load (0x10000020 + 4 * i) 4 = some (64 + 4 * i)) ∧
      ∀ i, i < 4 → (peAt (encR 0x64 28 30 29 1) rData xRun).markedLines (peE.base + (64 + 4 * i)) 4 = []) ∧
    (peAt 0xF0000000 {} xRun).Ready peE 4 0xF0000000 4 xRun := by
  refine ⟨fun p m => State.ready_of ?_, fun p m => ⟨State.ready_of ?_, ?_⟩, fun o m => State.ready_of ?_, fun p m => State.ready_of ?_,
    ⟨State.ready_of (by decide +kernel), by decide +kernel, by decide +kernel⟩, State.ready_of (by decide +kernel)⟩
  · revert p; decide +kernel
  · revert p; decide +kernel
  · revert p; decide +kernel
  · revert o; decide +kernel
  · revert p; decide +kernel

/-- The hypotheses of `Obligations.PeRootsAndQuotients` are met. -/
theorem witness_PeRootsAndQuotients :
    ((1 : Word) ≠ 0 ∧ ¬ ((0x80000000 : Word) = 0x80000000 ∧ (1 : Word) = 0xFFFFFFFF)) ∧
    (30 ≤ 30 ∧ 0 < (0x7FFFFFFF : Word).toInt ∧ (recipq 0x7FFFFFFF 30).2 = 0) := by
  decide +kernel

def xData (n : Nat) : Exec := { xRun with areas := { xRun.areas with dataBytes := n } }

/-- The hypotheses of `Obligations.LsInstructions` are met. -/
theorem witness_LsInstructions :
    (∀ o ∈ [1, 2, 3, 4, 5, 6, 7, 8, 9, 10, 11], ∀ sp ∈ (if o ≤ 7 then [0, 1, 2] else [1, 2]),
      (lsAt (o * 4096 + sp * 1024 + 1023) {} xRun).Ready lsE 2 (o * 4096 + sp * 1024 + 1023) 1 xRun) ∧
    (∀ o ∈ [1, 2, 3, 4, 5, 6, 7], (lsAt (o * 4096 + 3072 + 4) {} xRun).Ready lsE 2 (o * 4096 + 3072 + 4) 1 xRun) ∧
    (∀ p ∈ [(0x20000000, 4128), (0x10000020, 64), (0x30000000, 6176)], xRun.physical .load (p.1 + 1023 / 8) 1 = some (p.2 + 127)) ∧
    (∀ p ∈ [(0x10000020, 64), (0x30000000, 6176)], xRun.physical .store (p.1 + 1023 / 8) 1 = some (p.2 + 127)) ∧
    (∀ w ∈ [0xC3FF, 0xC7FF, 0xD07F, 0xD47F, 0xD87F, 0xE07F, 0xE47F, 0xE87F, 0xEC7F, 0xF006, 0xF008, 0xF1FF, 0xF2FF, 0xF3FF],
      (lsAt w {} xRun).Ready lsE 2 w 1 xRun) ∧
    (xRun.physical .load (0x100000A0 + 16 * 127) 16 = some (192 + 16 * 127) ∧
      xRun.physical .store (0x100000A0 + 16 * 127) 16 = some (192 + 16 * 127) ∧
      xRun.physical .load (0x100008A0 + 8 * 127) 8 = some (2240 + 8 * 127) ∧
      xRun.physical .store (0x100008A0 + 8 * 127) 8 = some (2240 + 8 * 127) ∧
      (lsAt 0xD07F {} xRun).markedLines (lsE.base + (192 + 16 * 127)) 16 = []) ∧
    (∀ o ∈ [0, 1, 2, 3, 4], (lsAt (0xF000 + o) { stack := List.replicate 7 (true, o) } xRun).Ready lsE 2 (0xF000 + o) 1 xRun ∧
      (lsAt 0xF005 { stack := [(true, o)] } xRun).Ready lsE 2 0xF005 1 xRun) ∧
    (lsAt 0xF007 {} xRun).Ready lsE 2 0xF007 1 xRun := by
  refine ⟨fun o m sp n => State.ready_of ?_, fun o m => State.ready_of ?_, by decide +kernel, by decide +kernel,
    fun w m => State.ready_of ?_, by decide +kernel, fun o m => ⟨State.ready_of ?_, State.ready_of ?_⟩, State.ready_of (by decide +kernel)⟩
  · revert o sp; decide +kernel
  · revert o; decide +kernel
  · revert w; decide +kernel
  · revert o; decide +kernel
  · revert o; decide +kernel

/-- The hypotheses of `Obligations.ExceptionsStopTheCopy` are met. -/
theorem witness_ExceptionsStopTheCopy :
    (∀ p ∈ [(encK 0xF3 0 0 0x3FFF, 0), (encJ 0x99 0, 8), (encR 0x9A 0 0 0 0, 0)], (peAt p.1 (rCall p.2) xRun).Ready peE 4 p.1 1 xRun) ∧
    (∀ p ∈ [(0x80, 4), (0x81, 2), (0x82, 2), (0x88, 4), (0x89, 2)],
      (peAt (encK p.1 31 30 1) rData xRun).Ready peE 4 (encK p.1 31 30 1) 1 xRun ∧
        (rData.get 30 + (1 : BitVec 14).signExtend 32).toNat % p.2 ≠ 0) ∧
    (∀ p ∈ [(0x80, 4, Access.load), (0x81, 2, .load), (0x82, 2, .load), (0x83, 1, .load), (0x84, 1, .load), (0x88, 4, .store), (0x89, 2, .store),
        (0x8A, 1, .store)],
      (peAt (encK p.1 31 30 0) (regsOf [(30, 0x40000000)]) xRun).Ready peE 4 (encK p.1 31 30 0) 1 xRun ∧
        xRun.physical p.2.2 0x40000000 p.2.1 = none) ∧
    (∀ p ∈ [(3, 1), (257, 1), (0x40004, 1), (4, 0), (4, 2)],
      (peAt (encR 0x64 28 30 29 (Fin.ofNat 32 p.2)) (regsOf [(29, BitVec.ofNat 32 p.1)]) xRun).Ready peE 4
        (encR 0x64 28 30 29 (Fin.ofNat 32 p.2)) (6 + p.1 % 65536) xRun) ∧
    (∀ p ∈ [(encR 0x10 31 30 29 0, 1), (encR 0x1D 31 30 29 0, 34), (encR 0x46 31 30 0 0, 14), (encK 0x88 31 30 0, 1), (encK 0x90 31 30 0, 1),
        (0xF0000000, 4)], (peAt p.1 {} { xRun with wcic := p.2 - 1 }).fetch peE { xRun with wcic := p.2 - 1 } 4 =
          (.ok p.1, peAt p.1 {} { xRun with wcic := p.2 - 1 }) ∧ p.2 - 1 < 0 + p.2) ∧
    ((peAt 0 {} xRun).fetch peE xRun 4 = (.ok 0, peAt 0 {} xRun) ∧ peLegal 0 = false) ∧
    ((lsAt 0 {} xRun).fetch lsE xRun 2 = (.ok 0, lsAt 0 {} xRun) ∧ lsLegal 0 = false) ∧
    (∀ o ∈ [0, 1, 2, 3, 4], (lsAt (0xF000 + o) { stack := List.replicate 8 (true, o) } xRun).Ready lsE 2 (0xF000 + o) 1 xRun) ∧
    (lsAt 0xF005 {} xRun).Ready lsE 2 0xF005 1 xRun ∧
    (∀ w ∈ [0xF007, 0xF101, 0xF201, 0xF301], (lsAt w { stack := [(true, 0)] } xRun).Ready lsE 2 w 1 xRun) ∧
    (∀ o ∈ [10, 11], (lsAt (o * 4096 + 1024) {} (xData 32)).Ready lsE 2 (o * 4096 + 1024) 1 (xData 32) ∧
      (xData 32).physical .store 0x10000020 1 = none) ∧
    (({ lsAt 0xD000 {} xRun with anvil.poison := [(lsE.base + 192) / 32] } : State).Ready lsE 2 0xD000 1 xRun ∧
      xRun.physical .load 0x100000A0 16 = some 192 ∧
      (lsE.base + 192) / 32 ∈ ({ lsAt 0xD000 {} xRun with anvil.poison := [(lsE.base + 192) / 32] } : State).anvil.poison) ∧
    (lsAt 0xF008 {} { xRun with wcic := 0 }).fetch lsE { xRun with wcic := 0 } 2 = (.ok 0xF008, lsAt 0xF008 {} { xRun with wcic := 0 }) := by
  refine ⟨fun p m => State.ready_of ?_, fun p m => ⟨State.ready_of ?_, ?_⟩, fun p m => ⟨State.ready_of ?_, ?_⟩, fun p m => State.ready_of ?_,
    fun p m => ⟨?_, ?_⟩, ⟨rfl, by decide +kernel⟩, ⟨rfl, by decide +kernel⟩, fun o m => State.ready_of ?_,
    State.ready_of (by decide +kernel), fun w m => State.ready_of ?_, fun o m => ⟨State.ready_of ?_, ?_⟩,
    ⟨State.ready_of (by decide +kernel), by decide +kernel, by decide +kernel⟩, rfl⟩
  · revert p; decide +kernel
  · revert p; decide +kernel
  · revert p; decide +kernel
  · revert p; decide +kernel
  · revert p; decide +kernel
  · revert p; decide +kernel
  · have h : Exec.physical { xRun with wcic := p.2 - 1 } .fetch 0 4 = some 0 ∧
        (peAt p.1 {} { xRun with wcic := p.2 - 1 }).markedLines (peE.base + 0) 4 = [] ∧
        leNat (memReadN ((peAt p.1 {} { xRun with wcic := p.2 - 1 }).eng peE).mem 0 4) = p.1 := by
      revert p; decide +kernel
    rw [State.fetch_clean h.1 rfl h.2.1, h.2.2]
  · revert p; decide +kernel
  · revert o; decide +kernel
  · revert w; decide +kernel
  · revert o; decide +kernel
  · revert o; decide +kernel

/-- A byte of host memory and one waiting event. -/
def wKept : State := { late3 w0 with host.mem := [(5, 7)], recorder.queue := [ev0] }

/-- The hypotheses of `Obligations.StepKeepsTheInvariant` are met. -/
theorem witness_StepKeepsTheInvariant : wKept.Kept ∧ step wKept = .next (wKept.advance 1) := by
  refine ⟨⟨?_, ?_, ?_, fun n _ => ⟨rfl, rfl, rfl⟩, ?_⟩, rfl⟩
  · refine ⟨?_, ?_, ?_, ?_, ?_⟩ <;> decide +kernel
  · decide +kernel
  · decide +kernel
  · decide +kernel

end Sys2Proof.Tests
end

/-! SUPPORT. Every command answers a next state (00 R5): a row of the table ends in a next state on every branch of its
meaning. `Answers` is closed under the branches that meanings are made of. -/
namespace Sys2Proof.Machine
open Sys2Proof

/-- The outcome is a next state: neither a fault nor a refusal. -/
def Answers (o : Host.Outcome State Fault Refusal) : Prop := ∃ t, o = .next t

theorem Answers.next {t : State} : Answers (.next t) := ⟨t, rfl⟩

theorem Answers.ite {p : Prop} [Decidable p] {a b : Host.Outcome State Fault Refusal} (ha : Answers a)
    (hb : Answers b) : Answers (if p then a else b) := by
  split
  · exact ha
  · exact hb

/-! ### Rows of cards -/

/-- A card's row answers with Zenith up, where the card runs, and with Zenith down, where only time passes. -/
theorem runCard_answers {k : Card} {dt : Nat} {c : Cmd} {s : State} : Answers (runCard k dt c s) := .ite .next .next

theorem runAfter_answers {k : Card} {dt : Nat} {c : Cmd} {s : State} : Answers (runAfter k dt c s) := by
  obtain ⟨t, ht⟩ := runCard_answers (k := k) (dt := dt) (c := c) (s := s)
  rw [runAfter, ht]
  exact .next

/-! ### Events whose branches have a shape of their own -/

theorem execCopyLoadComplete_answers {dt fi k s} : Answers (execCopyLoadComplete dt fi k s) := by
  rw [execCopyLoadComplete]
  split
  · exact .next
  · split
    · exact .next
    · split
      · exact .next
      · exact .ite .next .next

theorem execCopyDataTransfer_answers {dt fi k s} : Answers (execCopyDataTransfer dt fi k s) := by
  rw [execCopyDataTransfer]
  split
  · exact .next
  · split
    · exact .next
    · refine .ite .next ?_
      split
      · exact .next
      · exact .ite .next .next

theorem execPairLinkSilent_answers {dt link s} : Answers (execPairLinkSilent dt link s) := by
  rw [execPairLinkSilent]
  refine .ite .next (.ite .next ?_)
  split <;> exact .next

theorem execSourceActivity_answers {dt src s} : Answers (execSourceActivity dt src s) := by
  rw [execSourceActivity]
  refine .ite .next ?_
  split <;> exact .next

theorem execWaitToRestoreExpiry_answers {dt s} : Answers (execWaitToRestoreExpiry dt s) := by
  rw [execWaitToRestoreExpiry]
  split
  · exact .next
  · dsimp only
    split <;> exact .next

theorem execInterruptAck_answers {dt core s} : Answers (execInterruptAck dt core s) := by
  rw [execInterruptAck]
  split
  · exact .next
  · dsimp only
    split
    · exact .next
    · exact .ite .next .next

theorem execEndOfInterrupt_answers {dt core src s} : Answers (execEndOfInterrupt dt core src s) := by
  rw [execEndOfInterrupt]
  split
  · exact .next
  · split
    · exact .ite .next .next
    · exact .next

theorem execRegisterWrite_answers {dt w s} : Answers (execRegisterWrite dt w s) := by
  cases w <;> exact .next

theorem execI2cTransferComplete_answers {dt master result data s} :
    Answers (execI2cTransferComplete dt master result data s) := by
  rw [execI2cTransferComplete]
  split
  · exact .next
  · dsimp only
    split <;> exact .next

theorem execSubscriptionStale_answers {dt sub s} : Answers (execSubscriptionStale dt sub s) := by
  rw [execSubscriptionStale]
  split
  · exact .next
  · split
    · exact .ite .next .next
    · exact .next

theorem execManagerListenTimeout_answers {dt s} : Answers (execManagerListenTimeout dt s) := by
  rw [execManagerListenTimeout]
  split
  · exact .ite .next .next
  · exact .next

theorem execPtpSync_answers {dt port m t2 s} : Answers (execPtpSync dt port m t2 s) := by
  rw [execPtpSync]
  split
  · exact .next
  · exact .ite .next (.ite .next .next)

theorem execPtpFollowUp_answers {dt port m s} : Answers (execPtpFollowUp dt port m s) := by
  rw [execPtpFollowUp]
  split
  · exact .next
  · dsimp only
    split
    · exact .ite .next .next
    · exact .next

theorem execLeapSecond_answers {dt s} : Answers (execLeapSecond dt s) := by
  rw [execLeapSecond]
  split <;> exact .ite .next .next

theorem execLatch_answers {dt fi s} : Answers (execLatch dt fi s) := by
  rw [execLatch]
  split
  · exact .next
  · refine .ite .next ?_
    split
    · exact .next
    · exact .ite .next .next

theorem execBackgroundTest_answers {dt kind id pass passMs s} :
    Answers (execBackgroundTest dt kind id pass passMs s) := by
  cases passMs <;> exact .ite .next .next

/-! ### The dispatch -/

/-- Every arm of the dispatch answers. The arms stand in groups, each with the shape that its meanings share. -/
theorem exec_answers (c : Instr) (s : State) : Answers (exec c s) := by
  cases c with
  -- The rows of cards.
  | getAnvilStatus | getContainment | getMemoryHealth | setSelfTest | injectFault | declareInstance | removeInstance
  | place | getPlacement | getEngine | setPlacementLimits | getPlacementLimits | getCluster | setPair | getPairStatus
  | switchover | resync | writeKey | eraseKey | getKeyInfo | listKeys | verifyKey | ackTamper | getHaloStatus
  | writeFirmware | selectImage | confirmImage | getBootReport | defineRecorder | removeRecorder | setTrigger
  | loadMask | armRecorder | forceTrigger | getRecorder | listSegments | readSegment | releaseSegment
  | getCaptureTotals | setClockSources | getClockStatus | getPllStatus | setPower | getPowerStatus | loadBank
  | readBank | freeBank | setChain | getChain | syncDecimators | setDetector | getDetectors | setInstanceResources
  | getInstance | setWindow | getWindow | resetInstance | getHostCounters | setSource | getSource | unmaskSource
  | listMasked | defineStream | removeStream | enableStream | setAlignment | getStream | getIngestTotals | getChannel
  | setPort | getPortStatus | getPortCounters | i2cTransfer | loadImage | freeImage | bindSignals | startInstance
  | stopInstance | writeSettings | stageChange | switchChange | cancelChange | getRunState | getChange | bindOutputs
  | definePublication | removePublication | enablePublication | setRoute | getPublication | defineSubscription
  | removeSubscription | enableSubscription | getSubscription | getSignal | getRecorderStatus | readRecords
  | getClearNonce | clearRecorder | readCounters | postRecord | getChipletIdentity | readHistogram | setUart
  | uartWrite | uartRead | getUartStatus | setBinaryInput | setBinaryOutput | getBinaryIo | setStratus | loadSchedule
  | activateSchedule | bindReceive | getStratusStatus | getSlot | getSync | handoverManager | getNodes | setVlan
  | setFdbEntry | getFdb | setPortSwitch | setSwitch | setQueue | setPolicer | setGateList | setRedundancy
  | getRedundancyStatus | getBufferStatus | getQueueCounters | getSwitchCounters | getIdentity | getStatus
  | getFirmwareInfo | echo | getZenithLoad | setPtp | getPtpStatus | setPortTiming | selectTime | getTime | setPulse
  | setCaptureInput | readCaptures | setUtc | stepProtectionTime => exact runCard_answers
  | reset | setChannel => exact runAfter_answers
  -- Events that are one or several tests of the state, one after another.
  | marginLostTimeout | pairOkChange | pairWaitTimeout | tamper | remask | powerUp | vinRecovered | vinLoss
  | vauxLoss | vauxRestored | operatingSecond | refinementEnd | pauseReceived | portLinkDown | changeCompletion
  | workerStateReport | supervisionSend | pdelayReq | pdelayResponse | revertTimeout | slewComplete
  | tb2DeltaMeasurement | zenithRecovered => exact .ite .next .next
  | ratioCheck | rcRegisterRead | preemptVerifyTimeout | portLinkUp | ptpSyncTimeout | mgmtEthernetFrame
  | zenithLoadUpdate => exact .ite .next (.ite .next .next)
  | resetN | pllLockLoss | pllRelock | preemptVerify => exact .ite .next (.ite .next (.ite .next .next))
  | pulseInstant => exact .ite .next (.ite .next (.ite .next (.ite .next .next)))
  | frameReceived =>
    exact .ite .next (.ite .next (.ite .next (.ite .next (.ite .next (.ite .next (.ite .next (.ite .next .next)))))))
  -- Events that are one match on what the state holds.
  | pairTickLate | takeoverTimeout | oldKeyExpiry | sourceLossOfActivity | referenceSwitchComplete | interruptMessage
  | wiredLineChange | nonceExpiry | sourceEntryAge | linkDelayMeasurement | signaturePosted | anvilVerdict
  | verdictDeadline =>
    dsimp only [exec, execPairTickLate, execTakeoverTimeout, execOldKeyExpiry, execSourceLossOfActivity,
      execReferenceSwitchComplete, execInterruptMessage, execWiredLineChange, execNonceExpiry, execSourceEntryAge,
      execLinkDelayMeasurement, execSignaturePosted, execAnvilVerdict, execVerdictDeadline]
    split <;> exact .next
  -- Events that look for an entry and, with one found, test the state.
  | pairTickSend | moduleResetBegin | ptpAnnounce | diagnosisStart | diagnosisEnd =>
    dsimp only [exec, execPairTickSend, execModuleResetBegin, execPtpAnnounce, execDiagnosisStart, execDiagnosisEnd]
    split
    · exact .next
    · exact .ite .next .next
  -- Events whose branches have a shape of their own.
  | copyLoadComplete => exact execCopyLoadComplete_answers
  | copyDataTransfer => exact execCopyDataTransfer_answers
  | pairLinkSilent => exact execPairLinkSilent_answers
  | sourceActivity => exact execSourceActivity_answers
  | waitToRestoreExpiry => exact execWaitToRestoreExpiry_answers
  | interruptAck => exact execInterruptAck_answers
  | endOfInterrupt => exact execEndOfInterrupt_answers
  | registerWrite => exact execRegisterWrite_answers
  | i2cTransferComplete => exact execI2cTransferComplete_answers
  | subscriptionStale => exact execSubscriptionStale_answers
  | managerListenTimeout => exact execManagerListenTimeout_answers
  | ptpSync => exact execPtpSync_answers
  | ptpFollowUp => exact execPtpFollowUp_answers
  | leapSecond => exact execLeapSecond_answers
  | latch => exact execLatch_answers
  | backgroundTest => exact execBackgroundTest_answers
  -- The other events and the instructions of the engines have no branch: they are a next state as they stand.
  | _ => exact .next

/-- Settles O3, arm by arm of the dispatch (`exec_answers`). -/
theorem everyCommandAnswersNext : Obligations.EveryCommandAnswersNext := exec_answers

end Sys2Proof.Machine

/-! SUPPORT. The event queue of Contrail (01 R30): what a post and a commit of its head do to the queue and to the lost-event
counts. -/
namespace Sys2Proof.Machine
open Sys2Proof

/-- A write of a lifetime cell is read back, whichever copy is current (21 R496). -/
@[simp] theorem Cell.value_write (c : Cell) (v : Nat) : (c.write v).value = v := by
  rw [Cell.write]
  split <;> rfl

/-- The counter that is bumped saturates at all ones (21 R496). -/
@[simp] theorem State.bump_life_self (s : State) (id : Nat) : (s.bump id).life id = satAdd 64 (s.life id) 1 := by
  simp [State.life, State.bump, State.bumpN, Tab.modD, Tab.getD_put_self]

theorem State.postEvent_of_space {s : State} {e : Event} (h : s.recorder.queue.length < 1024) :
    s.postEvent e = { s with recorder.queue := s.recorder.queue ++ [e] } := by
  rw [State.postEvent, if_neg (by omega)]

theorem State.postEvent_of_full {s : State} {e : Event} (h : 1024 ≤ s.recorder.queue.length) :
    s.postEvent e =
      ({ s with recorder.lost := s.recorder.lost + 1, recorder.lostUp := inc32 s.recorder.lostUp }).bump 0x003 := by
  rw [State.postEvent, if_pos h]

/-! The commit of an event that no POST_RECORD waits for touches neither the queue nor the count of lost events. -/

theorem State.commitEvent_queue {s : State} {e : Event} (ha : e.asked = none) :
    (s.commitEvent e).recorder.queue = s.recorder.queue := by
  simp only [State.commitEvent, ha, State.bump, State.bumpN]

theorem State.commitEvent_lost {s : State} {e : Event} (ha : e.asked = none) :
    (s.commitEvent e).recorder.lost = s.recorder.lost := by
  simp only [State.commitEvent, ha, State.bump, State.bumpN]

/-- The head leaves, the space it leaves takes the EVENTS_LOST record, and the count of lost events starts again (01 R30). -/
theorem State.commitHead_of_lost {s : State} {e : Event} {rest : List Event} (hq : s.recorder.queue = e :: rest)
    (hr : rest.length < 1024) (ha : e.asked = none) (hl : 0 < s.recorder.lost) :
    s.commitHead.recorder.lost = 0 ∧
      s.commitHead.recorder.queue = rest ++ [s.mkEvent 0x0108 (le 4 s.recorder.lost) 5] := by
  rw [State.commitHead, hq]
  simp only [gt_iff_lt, if_pos hl, State.post, State.postC]
  rw [State.postEvent_of_space hr]
  exact ⟨State.commitEvent_lost ha, State.commitEvent_queue ha⟩

theorem execRecordCommit_of_vaux {dt : Nat} {s : State} (hv : s.power.vaux = true) :
    execRecordCommit dt s = .next (s.advance dt).commitHead := by
  simp [execRecordCommit, hv]

/-- Settles O52: a post by the two branches of `postEvent`, the commit by `commitHead_of_lost`. -/
theorem eventQueueHolds1024 : Obligations.EventQueueHolds1024 := by
  refine ⟨fun s e => ⟨State.postEvent_of_space, fun hf => ?_⟩, fun dt s e rest hv hq hr ha hl => ?_⟩
  · rw [State.postEvent_of_full hf]
    exact ⟨rfl, rfl, rfl, State.bump_life_self _ _, rfl⟩
  · have hr' := State.advance_recorder s dt
    have hc := State.commitHead_of_lost (s := s.advance dt) (hr'.symm ▸ hq) hr ha (hr'.symm ▸ hl)
    rw [hr'] at hc
    exact ⟨(s.advance dt).commitHead, execRecordCommit_of_vaux hv, hc⟩

end Sys2Proof.Machine

/-! SUPPORT. The invariant of Safety.lean through the dispatch: every command keeps it beside the queue of waiting commands, so
every step does and takes one command off that queue. -/
namespace Sys2Proof.Machine
open Sys2Proof

/-- Every arm of the dispatch keeps the invariant and the queue, by the lemma about its meaning. Two meanings leave an
argument unread; their arms name it. -/
theorem exec_keeps {P : List Instr} {s : State} (h : Keeps P s) (i : Instr) : OutcomeKeeps P (exec i s) := by
  cases i with
  -- Command channels and Zenith (02).
  | packetArrival => exact execPacketArrival_keeps h
  | commandStart => exact execCommandStart_keeps h
  | commandCompletion => exact execCommandCompletion_keeps h
  | zenithLoadUpdate => exact execZenithLoadUpdate_keeps h
  | watchdogExpiry => exact execWatchdogExpiry_keeps h
  | zenithRecovered => exact execZenithRecovered_keeps h
  | uartCharacter => exact execUartCharacter_keeps h
  | uartBreak => exact execUartBreak_keeps h
  | mgmtEthernetFrame => exact execMgmtEthernetFrame_keeps h
  -- The rows of cards, family by family; CHANGE_COMPLETION (08) stands among the program rows.
  | getIdentity => exact execGetIdentity_keeps h
  | getStatus => exact execGetStatus_keeps h
  | reset => exact execReset_keeps h
  | getFirmwareInfo => exact execGetFirmwareInfo_keeps h
  | echo => exact execEcho_keeps h
  | getZenithLoad => exact execGetZenithLoad_keeps h
  | setChannel => exact execSetChannel_keeps h
  | writeFirmware => exact execWriteFirmware_keeps h
  | selectImage => exact execSelectImage_keeps h
  | confirmImage => exact execConfirmImage_keeps h
  | getBootReport => exact execGetBootReport_keeps h
  | declareInstance => exact execDeclareInstance_keeps h
  | removeInstance => exact execRemoveInstance_keeps h
  | place => exact execPlace_keeps h
  | getPlacement => exact execGetPlacement_keeps h
  | getEngine => exact execGetEngine_keeps h
  | setPlacementLimits => exact execSetPlacementLimits_keeps h
  | getPlacementLimits => exact execGetPlacementLimits_keeps h
  | getCluster => exact execGetCluster_keeps h
  | loadImage => exact execLoadImage_keeps h
  | freeImage => exact execFreeImage_keeps h
  | bindSignals => exact execBindSignals_keeps h
  | startInstance => exact execStartInstance_keeps h
  | stopInstance => exact execStopInstance_keeps h
  | writeSettings => exact execWriteSettings_keeps h
  | stageChange => exact execStageChange_keeps h
  | switchChange => exact execSwitchChange_keeps h
  | cancelChange => exact execCancelChange_keeps h
  | changeCompletion => exact execChangeCompletion_keeps h
  | getRunState => exact execGetRunState_keeps h
  | getChange => exact execGetChange_keeps h
  | defineStream => exact execDefineStream_keeps h
  | removeStream => exact execRemoveStream_keeps h
  | enableStream => exact execEnableStream_keeps h
  | setAlignment => exact execSetAlignment_keeps h
  | getStream => exact execGetStream_keeps h
  | getIngestTotals => exact execGetIngestTotals_keeps h
  | getChannel => exact execGetChannel_keeps h
  | loadBank => exact execLoadBank_keeps h
  | readBank => exact execReadBank_keeps h
  | freeBank => exact execFreeBank_keeps h
  | setChain => exact execSetChain_keeps h
  | getChain => exact execGetChain_keeps h
  | syncDecimators => exact execSyncDecimators_keeps h
  | setDetector => exact execSetDetector_keeps h
  | getDetectors => exact execGetDetectors_keeps h
  | bindOutputs => exact execBindOutputs_keeps h
  | definePublication => exact execDefinePublication_keeps h
  | removePublication => exact execRemovePublication_keeps h
  | enablePublication => exact execEnablePublication_keeps h
  | setRoute => exact execSetRoute_keeps h
  | getPublication => exact execGetPublication_keeps h
  | defineSubscription => exact execDefineSubscription_keeps h
  | removeSubscription => exact execRemoveSubscription_keeps h
  | enableSubscription => exact execEnableSubscription_keeps h
  | getSubscription => exact execGetSubscription_keeps h
  | getSignal => exact execGetSignal_keeps h
  | defineRecorder => exact execDefineRecorder_keeps h
  | removeRecorder => exact execRemoveRecorder_keeps h
  | setTrigger => exact execSetTrigger_keeps h
  | loadMask => exact execLoadMask_keeps h
  | armRecorder => exact execArmRecorder_keeps h
  | forceTrigger => exact execForceTrigger_keeps h
  | getRecorder => exact execGetRecorder_keeps h
  | listSegments => exact execListSegments_keeps h
  | readSegment => exact execReadSegment_keeps h
  | releaseSegment => exact execReleaseSegment_keeps h
  | getCaptureTotals => exact execGetCaptureTotals_keeps h
  | getAnvilStatus => exact execGetAnvilStatus_keeps h
  | getContainment => exact execGetContainment_keeps h
  | getMemoryHealth => exact execGetMemoryHealth_keeps h
  | setSelfTest => exact execSetSelfTest_keeps h
  | injectFault => exact execInjectFault_keeps h
  | setPair => exact execSetPair_keeps h
  | getPairStatus => exact execGetPairStatus_keeps h
  | switchover => exact execSwitchover_keeps h
  | resync => exact execResync_keeps h
  | setStratus => exact execSetStratus_keeps h
  | loadSchedule => exact execLoadSchedule_keeps h
  | activateSchedule => exact execActivateSchedule_keeps h
  | bindReceive => exact execBindReceive_keeps h
  | getStratusStatus => exact execGetStratusStatus_keeps h
  | getSlot => exact execGetSlot_keeps h
  | getSync => exact execGetSync_keeps h
  | handoverManager => exact execHandoverManager_keeps h
  | getNodes => exact execGetNodes_keeps h
  | setPtp => exact execSetPtp_keeps h
  | getPtpStatus => exact execGetPtpStatus_keeps h
  | setPortTiming => exact execSetPortTiming_keeps h
  | selectTime => exact execSelectTime_keeps h
  | getTime => exact execGetTime_keeps h
  | setPulse => exact execSetPulse_keeps h
  | setCaptureInput => exact execSetCaptureInput_keeps h
  | readCaptures => exact execReadCaptures_keeps h
  | setUtc => exact execSetUtc_keeps h
  | stepProtectionTime => exact execStepProtectionTime_keeps h
  | setClockSources => exact execSetClockSources_keeps h
  | getClockStatus => exact execGetClockStatus_keeps h
  | getPllStatus => exact execGetPllStatus_keeps h
  | setPower => exact execSetPower_keeps h
  | getPowerStatus => exact execGetPowerStatus_keeps h
  | setVlan => exact execSetVlan_keeps h
  | setFdbEntry => exact execSetFdbEntry_keeps h
  | getFdb => exact execGetFdb_keeps h
  | setPortSwitch => exact execSetPortSwitch_keeps h
  | setSwitch => exact execSetSwitch_keeps h
  | setQueue => exact execSetQueue_keeps h
  | setPolicer => exact execSetPolicer_keeps h
  | setGateList => exact execSetGateList_keeps h
  | setRedundancy => exact execSetRedundancy_keeps h
  | getRedundancyStatus => exact execGetRedundancyStatus_keeps h
  | getBufferStatus => exact execGetBufferStatus_keeps h
  | getQueueCounters => exact execGetQueueCounters_keeps h
  | getSwitchCounters => exact execGetSwitchCounters_keeps h
  | setPort => exact execSetPort_keeps h
  | getPortStatus => exact execGetPortStatus_keeps h
  | getPortCounters => exact execGetPortCounters_keeps h
  | i2cTransfer => exact execI2cTransfer_keeps h
  | setInstanceResources => exact execSetInstanceResources_keeps h
  | getInstance => exact execGetInstance_keeps h
  | setWindow => exact execSetWindow_keeps h
  | getWindow => exact execGetWindow_keeps h
  | resetInstance => exact execResetInstance_keeps h
  | getHostCounters => exact execGetHostCounters_keeps h
  | setSource => exact execSetSource_keeps h
  | getSource => exact execGetSource_keeps h
  | unmaskSource => exact execUnmaskSource_keeps h
  | listMasked => exact execListMasked_keeps h
  | writeKey => exact execWriteKey_keeps h
  | eraseKey => exact execEraseKey_keeps h
  | getKeyInfo => exact execGetKeyInfo_keeps h
  | listKeys => exact execListKeys_keeps h
  | verifyKey => exact execVerifyKey_keeps h
  | ackTamper => exact execAckTamper_keeps h
  | getHaloStatus => exact execGetHaloStatus_keeps h
  | getRecorderStatus => exact execGetRecorderStatus_keeps h
  | readRecords => exact execReadRecords_keeps h
  | getClearNonce => exact execGetClearNonce_keeps h
  | clearRecorder => exact execClearRecorder_keeps h
  | readCounters => exact execReadCounters_keeps h
  | postRecord => exact execPostRecord_keeps h
  | getChipletIdentity => exact execGetChipletIdentity_keeps h
  | readHistogram => exact execReadHistogram_keeps h
  | setUart => exact execSetUart_keeps h
  | uartWrite => exact execUartWrite_keeps h
  | uartRead => exact execUartRead_keeps h
  | getUartStatus => exact execGetUartStatus_keeps h
  | setBinaryInput => exact execSetBinaryInput_keeps h
  | setBinaryOutput => exact execSetBinaryOutput_keeps h
  | getBinaryIo => exact execGetBinaryIo_keeps h
  -- Ports and the switch core (16, 17).
  | frameReceived => exact execFrameReceived_keeps h
  | frameTransmitStart => exact execFrameTransmitStart_keeps h
  | thresholdDecay => exact execThresholdDecay_keeps h
  | gateEvent => exact execGateEvent_keeps h
  | fdbAgeExpiry => exact execFdbAgeExpiry_keeps h
  | sourceEntryAge => exact execSourceEntryAge_keeps h
  | holdExpiry => exact execHoldExpiry_keeps h
  | supervisionSend => exact execSupervisionSend_keeps h
  | pauseReceived => exact execPauseReceived_keeps h
  | pauseExpiry => exact execPauseExpiry_keeps h
  | pauseRepeat => exact execPauseRepeat_keeps h
  | preemptVerify => exact execPreemptVerify_keeps h
  | preemptVerifyTimeout => exact execPreemptVerifyTimeout_keeps h
  | portLinkUp => exact execPortLinkUp_keeps h
  | portLinkDown => exact execPortLinkDown_keeps h
  | i2cTransferComplete => exact execI2cTransferComplete_keeps h
  -- Streams, chains and subscriptions (04, 05, 09).
  | svFrameReceived => exact execSvFrameReceived_keeps h
  | streamLossTimeout => exact execStreamLossTimeout_keeps h
  | slotClose => exact execSlotClose_keeps h
  | chainTakePosition => exact execChainTakePosition_keeps h
  | gooseFrameReceived => exact execGooseFrameReceived_keeps h
  | subscriptionStale => exact execSubscriptionStale_keeps h
  -- Cycles, verdicts and containment (08, 09, 11).
  | latch => exact execLatch_keeps h
  | copyStart => exact execCopyStart_keeps h
  | signaturePosted => exact execSignaturePosted_keeps h
  | spanEnd => exact execSpanEnd_keeps h
  | anvilVerdict => exact execAnvilVerdict_keeps h
  | verdictDeadline => exact execVerdictDeadline_keeps h
  | diagnosisStart => exact execDiagnosisStart_keeps h
  | diagnosisEnd => exact execDiagnosisEnd_keeps h
  | crossCheckFault => exact execCrossCheckFault_keeps h
  | publicationInstant => exact execPublicationInstant_keeps h
  -- Engines, copies and cluster memory (03, 11).
  | engineFailed => exact execEngineFailed_keeps h
  | copyLoadComplete => exact execCopyLoadComplete_keeps h
  | copyDataTransfer => exact execCopyDataTransfer_keeps h
  | clusterMemoryFailed => exact execClusterMemoryFailed_keeps h
  | canaryCheck => exact execCanaryCheck_keeps h
  | marginLostTimeout => exact execMarginLostTimeout_keeps h
  | coreVoltageUpdate => exact execCoreVoltageUpdate_keeps h
  | scrubPass => exact execScrubPass_keeps h
  | backgroundTest => exact execBackgroundTest_keeps h
  -- Captures (10).
  | captureHorizon => exact execCaptureHorizon_keeps h
  | segmentComplete => exact execSegmentComplete_keeps h
  | archiveCopyComplete => exact execArchiveCopyComplete_keeps h
  -- Module pairs (12).
  | pairTickSend => exact execPairTickSend_keeps h
  | pairTickLate => exact execPairTickLate_keeps h
  | pairTickReceived => exact execPairTickReceived_keeps h
  | pairResultReceived => exact execPairResultReceived_keeps h
  | pairPubReceived => exact execPairPubReceived_keeps h
  | pairMirrorReceived => exact execPairMirrorReceived_keeps h
  | pairDataReceived _ _ _ tick => exact execPairDataReceived_keeps (a3 := tick) h
  | pairGiveUpReceived _ _ cause tick => exact execPairGiveUpReceived_keeps (a2 := cause) (a3 := tick) h
  | takeoverTimeout => exact execTakeoverTimeout_keeps h
  | pairOkChange => exact execPairOkChange_keeps h
  | pairWaitTimeout => exact execPairWaitTimeout_keeps h
  | pairLinkSilent => exact execPairLinkSilent_keeps h
  -- Stratus (13).
  | roundStart => exact execRoundStart_keeps h
  | lap2Send => exact execLap2Send_keeps h
  | pollFrameReceived => exact execPollFrameReceived_keeps h
  | roundCommit => exact execRoundCommit_keeps h
  | nodeLost => exact execNodeLost_keeps h
  | mgmtMessageReceived => exact execMgmtMessageReceived_keeps h
  | mgmtMessageRetry => exact execMgmtMessageRetry_keeps h
  -- Time (14).
  | ptpSync => exact execPtpSync_keeps h
  | ptpFollowUp => exact execPtpFollowUp_keeps h
  | ptpAnnounce => exact execPtpAnnounce_keeps h
  | pdelayReq => exact execPdelayReq_keeps h
  | ptpSyncTimeout => exact execPtpSyncTimeout_keeps h
  | revertTimeout => exact execRevertTimeout_keeps h
  | slewComplete => exact execSlewComplete_keeps h
  | leapSecond => exact execLeapSecond_keeps h
  | pulseInstant => exact execPulseInstant_keeps h
  | tpiEdge => exact execTpiEdge_keeps h
  -- Clocks and power (15, 23).
  | pllLockLoss => exact execPllLockLoss_keeps h
  | pllRelock => exact execPllRelock_keeps h
  | sourceActivity => exact execSourceActivity_keeps h
  | qualificationWindowEnd => exact execQualificationWindowEnd_keeps h
  | sourceLossOfActivity => exact execSourceLossOfActivity_keeps h
  | ratioCheck => exact execRatioCheck_keeps h
  | refinementEnd => exact execRefinementEnd_keeps h
  | sourceRetry => exact execSourceRetry_keeps h
  | waitToRestoreExpiry => exact execWaitToRestoreExpiry_keeps h
  | referenceSwitchComplete => exact execReferenceSwitchComplete_keeps h
  | powerUp => exact execPowerUp_keeps h
  | commandReady => exact execCommandReady_keeps h
  | resetN => exact execResetN_keeps h
  | vinWarning => exact execVinWarning_keeps h
  | vinRecovered => exact execVinRecovered_keeps h
  | vinLoss => exact execVinLoss_keeps h
  | vauxLoss => exact execVauxLoss_keeps h
  -- Keys, test access and Contrail (20, 21).
  | tamper => exact execTamper_keeps h
  | remask => exact execRemask_keeps h
  | tagCheck => exact execTagCheck_keeps h
  | tapInstruction => exact execTapInstruction_keeps h
  | oldKeyExpiry => exact execOldKeyExpiry_keeps h
  | nonceExpiry => exact execNonceExpiry_keeps h
  | recordCommit => exact execRecordCommit_keeps h
  -- Binary inputs and the interrupt controller (19, 22).
  | binChangeAccepted => exact execBinChangeAccepted_keeps h
  | chatterRelease => exact execChatterRelease_keeps h
  | binStuckTimeout => exact execBinStuckTimeout_keeps h
  | interruptMessage => exact execInterruptMessage_keeps h
  | wiredLineChange => exact execWiredLineChange_keeps h
  | squallRelease => exact execSquallRelease_keeps h
  | stuckTimeout => exact execStuckTimeout_keeps h
  | interruptAck => exact execInterruptAck_keeps h
  | endOfInterrupt => exact execEndOfInterrupt_keeps h
  | msixUnmask => exact execMsixUnmask_keeps h
  | icuPendingClear => exact execIcuPendingClear_keeps h
  | icuUnmask => exact execIcuUnmask_keeps h
  -- Host rings, bridges and resets (18).
  | hifCmdTail => exact execHifCmdTail_keeps h
  | hifDlvHead => exact execHifDlvHead_keeps h
  | hifControlWrite => exact execHifControlWrite_keeps h
  | hifReset => exact execHifReset_keeps h
  | ringErrorClear => exact execRingErrorClear_keeps h
  | descriptorTake => exact execDescriptorTake_keeps h
  | tuInv => exact execTuInv_keeps h
  | tuInvComplete => exact execTuInvComplete_keeps h
  | dirtySwap => exact execDirtySwap_keeps h
  | dirtySwapComplete => exact execDirtySwapComplete_keeps h
  | bridgeRead => exact execBridgeRead_keeps h
  | bridgeWrite => exact execBridgeWrite_keeps h
  | flr => exact execFlr_keeps h
  | vfEnableClear => exact execVfEnableClear_keeps h
  | perst => exact execPerst_keeps h
  | pcieLinkDown => exact execPcieLinkDown_keeps h
  | drainTimeout => exact execDrainTimeout_keeps h
  | instanceResetComplete => exact execInstanceResetComplete_keeps h
  | dmaCompletion => exact execDmaCompletion_keeps h
  | dmaCompletionTimeout => exact execDmaCompletionTimeout_keeps h
  | rcRegisterRead => exact execRcRegisterRead_keeps h
  | registerWrite => exact execRegisterWrite_keeps h
  -- The instructions of the PEs (06).
  | peAdd => exact execPeAdd_keeps h
  | peSub => exact execPeSub_keeps h
  | peAnd => exact execPeAnd_keeps h
  | peOr => exact execPeOr_keeps h
  | peXor => exact execPeXor_keeps h
  | peShl => exact execPeShl_keeps h
  | peShr => exact execPeShr_keeps h
  | peShra => exact execPeShra_keeps h
  | peCmplt => exact execPeCmplt_keeps h
  | peCmpltu => exact execPeCmpltu_keeps h
  | peMul => exact execPeMul_keeps h
  | peMulhs => exact execPeMulhs_keeps h
  | peMulhu => exact execPeMulhu_keeps h
  | peDivs => exact execPeDivs_keeps h
  | peDivu => exact execPeDivu_keeps h
  | peRems => exact execPeRems_keeps h
  | peRemu => exact execPeRemu_keeps h
  | peMin => exact execPeMin_keeps h
  | peMax => exact execPeMax_keeps h
  | peSel => exact execPeSel_keeps h
  | peClz => exact execPeClz_keeps h
  | peShli => exact execPeShli_keeps h
  | peShri => exact execPeShri_keeps h
  | peShrai => exact execPeShrai_keeps h
  | peAdds => exact execPeAdds_keeps h
  | peSubs => exact execPeSubs_keeps h
  | peNegs => exact execPeNegs_keeps h
  | peAbss => exact execPeAbss_keeps h
  | peMulq => exact execPeMulq_keeps h
  | peShls => exact execPeShls_keeps h
  | peShrr => exact execPeShrr_keeps h
  | peClamp => exact execPeClamp_keeps h
  | peFadd => exact execPeFadd_keeps h
  | peFsub => exact execPeFsub_keeps h
  | peFmul => exact execPeFmul_keeps h
  | peFdiv => exact execPeFdiv_keeps h
  | peFma => exact execPeFma_keeps h
  | peFnms => exact execPeFnms_keeps h
  | peFsqrt => exact execPeFsqrt_keeps h
  | peFrcp => exact execPeFrcp_keeps h
  | peFmin => exact execPeFmin_keeps h
  | peFmax => exact execPeFmax_keeps h
  | peFabs => exact execPeFabs_keeps h
  | peFneg => exact execPeFneg_keeps h
  | peFeq => exact execPeFeq_keeps h
  | peFlt => exact execPeFlt_keeps h
  | peFle => exact execPeFle_keeps h
  | peFcvtfi => exact execPeFcvtfi_keeps h
  | peFcvtif => exact execPeFcvtif_keeps h
  | peQtof => exact execPeQtof_keeps h
  | peFtoq => exact execPeFtoq_keeps h
  | peMac => exact execPeMac_keeps h
  | peMsu => exact execPeMsu_keeps h
  | peAclr => exact execPeAclr_keeps h
  | peAld => exact execPeAld_keeps h
  | peArd => exact execPeArd_keeps h
  | peIsqrt => exact execPeIsqrt_keeps h
  | peMag => exact execPeMag_keeps h
  | peAtan2 => exact execPeAtan2_keeps h
  | peRecipq => exact execPeRecipq_keeps h
  | pePhasor => exact execPePhasor_keeps h
  | peAddk => exact execPeAddk_keeps h
  | peAndk => exact execPeAndk_keeps h
  | peOrk => exact execPeOrk_keeps h
  | peXork => exact execPeXork_keeps h
  | peCmpltk => exact execPeCmpltk_keeps h
  | peAddsk => exact execPeAddsk_keeps h
  | peMovl => exact execPeMovl_keeps h
  | peMovh => exact execPeMovh_keeps h
  | peLdW => exact execPeLdW_keeps h
  | peLdH => exact execPeLdH_keeps h
  | peLdHu => exact execPeLdHu_keeps h
  | peLdB => exact execPeLdB_keeps h
  | peLdBu => exact execPeLdBu_keeps h
  | peStW => exact execPeStW_keeps h
  | peStH => exact execPeStH_keeps h
  | peStB => exact execPeStB_keeps h
  | peBrEq => exact execPeBrEq_keeps h
  | peBrNe => exact execPeBrNe_keeps h
  | peBrLt => exact execPeBrLt_keeps h
  | peBrGe => exact execPeBrGe_keeps h
  | peBrLtu => exact execPeBrLtu_keeps h
  | peBrGeu => exact execPeBrGeu_keeps h
  | peGoto => exact execPeGoto_keeps h
  | peCall => exact execPeCall_keeps h
  | peRet => exact execPeRet_keeps h
  | peGotoi => exact execPeGotoi_keeps h
  | peEnd => exact execPeEnd_keeps h
  | peMfs => exact execPeMfs_keeps h
  | peMts => exact execPeMts_keeps h
  | peTrap => exact execPeTrap_keeps h
  | peIllegalEncoding => exact execPeIllegalEncoding_keeps h
  -- The instructions of the LSs (07).
  | lsLd => exact execLsLd_keeps h
  | lsLdn => exact execLsLdn_keeps h
  | lsAnd => exact execLsAnd_keeps h
  | lsAndn => exact execLsAndn_keeps h
  | lsOr => exact execLsOr_keeps h
  | lsOrn => exact execLsOrn_keeps h
  | lsXor => exact execLsXor_keeps h
  | lsSt => exact execLsSt_keeps h
  | lsStn => exact execLsStn_keeps h
  | lsSet => exact execLsSet_keeps h
  | lsRst => exact execLsRst_keeps h
  | lsEdgeRise => exact execLsEdgeRise_keeps h
  | lsEdgeFall => exact execLsEdgeFall_keeps h
  | lsTon => exact execLsTon_keeps h
  | lsTof => exact execLsTof_keeps h
  | lsTp => exact execLsTp_keeps h
  | lsCtu => exact execLsCtu_keeps h
  | lsCtd => exact execLsCtd_keeps h
  | lsCrst => exact execLsCrst_keeps h
  | lsCld => exact execLsCld_keeps h
  | lsAndOpen => exact execLsAndOpen_keeps h
  | lsAndnOpen => exact execLsAndnOpen_keeps h
  | lsOrOpen => exact execLsOrOpen_keeps h
  | lsOrnOpen => exact execLsOrnOpen_keeps h
  | lsXorOpen => exact execLsXorOpen_keeps h
  | lsClose => exact execLsClose_keeps h
  | lsNot => exact execLsNot_keeps h
  | lsEnd => exact execLsEnd_keeps h
  | lsNop => exact execLsNop_keeps h
  | lsJmp => exact execLsJmp_keeps h
  | lsJc => exact execLsJc_keeps h
  | lsJnc => exact execLsJnc_keeps h
  | lsIllegalEncoding => exact execLsIllegalEncoding_keeps h
  -- The events that the other chapters leave (13, 14, 15, 18 to 23).
  | moduleResetBegin => exact execModuleResetBegin_keeps h
  | operatingSecond => exact execOperatingSecond_keeps h
  | vauxRestored => exact execVauxRestored_keeps h
  | pdelayResponse => exact execPdelayResponse_keeps h
  | linkDelayMeasurement => exact execLinkDelayMeasurement_keeps h
  | tapReset => exact execTapReset_keeps h
  | uartTxComplete => exact execUartTxComplete_keeps h
  | workerStateReport => exact execWorkerStateReport_keeps h
  | managerListenTimeout => exact execManagerListenTimeout_keeps h
  | tb2DeltaMeasurement => exact execTb2DeltaMeasurement_keeps h

/-- A step keeps the invariant and leaves the rest of the queue. Idle, it only lets time pass; else the front command runs on
the state whose queue is the rest. -/
theorem step_keeps {s : State} (h : s.Kept) : OutcomeKeeps s.pending.tail (step s) := by
  rw [step]
  split
  · next hp => exact State.advance_keeps (keeps_iff.mpr ⟨by rw [hp, List.tail_nil], h⟩)
  · next c rest hp =>
    rw [hp, List.tail_cons]
    exact exec_keeps (s := { s with pending := rest }) (keeps_iff.mpr ⟨rfl, h⟩) c

/-- Settles O58, command by command (`exec_keeps`). -/
theorem stepKeepsTheInvariant : Obligations.StepKeepsTheInvariant := by
  intro s t h ht
  have hk : Keeps s.pending.tail t := by
    have := step_keeps h
    rwa [ht] at this
  exact (keeps_iff.mp hk).symm

/-- At reset every table that the invariant reads is empty. -/
theorem State.reset_kept : State.reset.Kept :=
  ⟨⟨List.forall_mem_nil _, List.forall_mem_nil _, rfl, rfl, rfl⟩, Nat.zero_le _, Nat.zero_le _, fun _ _ => ⟨rfl, rfl, rfl⟩,
    List.forall_mem_nil _⟩

/-- Settles O59, from `State.reset_kept`. -/
theorem resetHoldsTheInvariant : Obligations.ResetHoldsTheInvariant := ⟨State.reset_kept, rfl⟩

end Sys2Proof.Machine

/-! SUPPORT. The state of the command channels and of Zenith (02): what an answer leaves of it, the rows of the cards, and checks
8 to 13 of R41. -/
namespace Sys2Proof.Machine
open Sys2Proof

/-! ### The record of a channel -/

@[simp] theorem State.chan_setChan_self (s : State) (n : Nat) (c : Channel) : (s.setChan n c).chan n = c :=
  Tab.getD_put_self _ _ _ _

theorem State.chan_setChan_other {s : State} {n m : Nat} {c : Channel} (h : m ≠ n) : (s.setChan n c).chan m = s.chan m :=
  Tab.getD_put_other _ _ _ h

theorem State.chan_congr {s t : State} (h : t.cmd.channels = s.cmd.channels) (n : Nat) : t.chan n = s.chan n := by
  rw [State.chan, State.chan, h]

/-- An update of a channel's record that keeps the queue keeps every channel's queue. -/
theorem State.queue_setChan {s : State} {n : Nat} {c : Channel} (h : c.queue = (s.chan n).queue) (m : Nat) :
    ((s.setChan n c).chan m).queue = (s.chan m).queue := by
  by_cases hm : m = n
  · subst hm
    rw [State.chan_setChan_self, h]
  · rw [State.chan_setChan_other hm]

@[simp] theorem State.advance_chan (s : State) (dt n : Nat) : (s.advance dt).chan n = s.chan n := by
  simp [State.chan]

/-- A part of the state that every turn of a loop leaves as it is. -/
theorem State.foldl_same {α β : Type} {f : State → α → State} (p : State → β) (h : ∀ s x, p (f s x) = p s) (l : List α)
    (s : State) : p (l.foldl f s) = p s := by
  induction l generalizing s with
  | nil => rfl
  | cons x l ih => rw [List.foldl_cons, ih, h]

/-! ### What an answer leaves of the state of the channels and of Zenith (02 R36, R46, R51) -/

@[simp] theorem State.deliver_cmd (s : State) (c : Cmd) (status detail : Nat) (b : Bytes) :
    (s.deliver c status detail b).cmd = s.cmd := by
  have h := deliver_hostOnly s c status detail b
  unfold HostOnly at h
  rw [h]

@[simp] theorem State.releaseReservation_cmd (s : State) (c : Cmd) : (s.releaseReservation c).cmd = s.cmd := by
  rw [State.releaseReservation]
  split <;> rfl

@[simp] theorem State.sendMgmt_cmd (s : State) (dst : Nat) (body : MgmtBody) : (s.sendMgmt dst body).2.cmd = s.cmd := by
  rw [State.sendMgmt]
  split
  · rfl
  · dsimp only
    split <;> rfl

@[simp] theorem State.sendWorkerReply_cmd (s : State) (c : Cmd) (completion : Bool) (status detail : Nat) (data : Bytes) :
    (s.sendWorkerReply c completion status detail data).cmd = s.cmd := State.sendMgmt_cmd ..

/-- `t` differs from `s`, in what belongs to the commands, only where answers reach: the channels' records, the count of
BUSY_RETRY replies, and the answer kept for the partner. -/
def CmdAnswered (s t : State) : Prop :=
  t.cmd = { s.cmd with channels := t.cmd.channels, busyReplies := t.cmd.busyReplies, remote := t.cmd.remote }

section
variable {s t : State} (h : CmdAnswered s t)
include h

theorem CmdAnswered.accepted_eq : t.cmd.accepted = s.cmd.accepted := by rw [CmdAnswered] at h; rw [h]
theorem CmdAnswered.after_eq : t.cmd.after = s.cmd.after := by rw [CmdAnswered] at h; rw [h]
theorem CmdAnswered.mgmt_eq : t.cmd.mgmt = s.cmd.mgmt := by rw [CmdAnswered] at h; rw [h]
theorem CmdAnswered.restarts_eq : t.cmd.restarts = s.cmd.restarts := by rw [CmdAnswered] at h; rw [h]
theorem CmdAnswered.expiries_eq : t.cmd.expiries = s.cmd.expiries := by rw [CmdAnswered] at h; rw [h]

end

theorem CmdAnswered.of_cmd {s t : State} (h : t.cmd = s.cmd) : CmdAnswered s t := by
  rw [CmdAnswered, h]

theorem CmdAnswered.trans {a b c : State} (h : CmdAnswered a b) (h' : CmdAnswered b c) : CmdAnswered a c := by
  rw [CmdAnswered] at h h' ⊢
  rw [h', h]

/-- What an answer can change of the commands' state: nothing beside `CmdAnswered`, and no queue. -/
def AnswerOnly (s t : State) : Prop := CmdAnswered s t ∧ ∀ n, (t.chan n).queue = (s.chan n).queue

theorem AnswerOnly.of_cmd {s t : State} (h : t.cmd = s.cmd) : AnswerOnly s t :=
  ⟨.of_cmd h, fun n => congrArg Channel.queue (State.chan_congr (by rw [h]) n)⟩

theorem AnswerOnly.trans {a b c : State} (h : AnswerOnly a b) (h' : AnswerOnly b c) : AnswerOnly a c :=
  ⟨h.1.trans h'.1, fun n => (h'.2 n).trans (h.2 n)⟩

theorem State.setChan_answerOnly {s : State} {n : Nat} {c : Channel} (h : c.queue = (s.chan n).queue) :
    AnswerOnly s (s.setChan n c) := ⟨rfl, State.queue_setChan h⟩

theorem State.storeReply_answerOnly (s : State) (c : Cmd) (r : StoredReply) : AnswerOnly s (s.storeReply c r) := by
  refine State.setChan_answerOnly ?_
  split <;> rfl

theorem State.followBusy_answerOnly (s : State) (chan status : Nat) : AnswerOnly s (s.followBusy chan status) :=
  State.setChan_answerOnly rfl

theorem State.countBusy_answerOnly (s : State) (status : Nat) :
    AnswerOnly s (if status = stBusyRetry then { s with cmd.busyReplies := inc32 s.cmd.busyReplies } else s) := by
  split
  · exact ⟨rfl, fun _ => rfl⟩
  · exact .of_cmd rfl

/-- An answer of any channel, suppressed or sent, changes nothing else of the commands' state. -/
theorem State.answer_answerOnly (s : State) (c : Cmd) (completion : Bool) (status detail : Nat) (data : Bytes) :
    AnswerOnly s (s.answer c completion status detail data) := by
  rw [State.answer]
  split
  · have h : AnswerOnly s { s with cmd.remote := some (status, detail, data) } := ⟨rfl, fun _ => rfl⟩
    dsimp only
    split
    · exact h.trans (.of_cmd (State.sendWorkerReply_cmd ..))
    · exact h
  · split
    · have h := State.storeReply_answerOnly s c .suppressed
      dsimp only
      split
      · exact h.trans (.of_cmd (State.releaseReservation_cmd ..))
      · exact h
    · have h := ((State.followBusy_answerOnly s c.chan status).trans (State.storeReply_answerOnly _ c
        (.sent (replyPacket c completion status detail data)))).trans (State.countBusy_answerOnly _ status)
      dsimp only
      split
      · exact h.trans (.of_cmd (State.deliver_cmd ..))
      · exact h.trans (.of_cmd rfl)

@[simp] theorem State.answer_after (s : State) (c : Cmd) (completion : Bool) (status detail : Nat) (data : Bytes) :
    (s.answer c completion status detail data).cmd.after = s.cmd.after := (State.answer_answerOnly ..).1.after_eq

/-! ### The rows of the cards -/

/-- Every row of the table runs its card; RESET and SET_CHANNEL act after their reply (02 R60, R61). -/
theorem exec_cardRow : ∀ kf ∈ cardRows, ∀ (dt : Nat) (c : Cmd) (s : State), exec (kf.2 dt c) s =
    (if kf.1.opcode = 0x0103 ∨ kf.1.opcode = 0x0107 then runAfter else runCard) kf.1 dt c s := by
  simp only [cardRows, rowsSystem, rowsPlacement, rowsProgram, rowsIngest, rowsFilter, rowsPublish, rowsCapture, rowsAnvil,
    rowsStratus, rowsTime, rowsClock, rowsSwitch, rowsHost, rowsInterrupt, rowsKey, rowsRecorder, rowsSerial,
    List.forall_mem_append, List.forall_mem_cons, List.not_mem_nil, false_imp_iff, implies_true,
    and_true]
  and_intros
  all_goals exact fun _ _ _ => rfl

theorem State.afterReply_of_none {s : State} (h : s.cmd.after = none) : s.afterReply = s := by
  rw [State.afterReply, h]

theorem runAfter_of_runCard {k : Card} {dt : Nat} {c : Cmd} {s t : State} (h : runCard k dt c s = .next t) :
    runAfter k dt c s = .next t.afterReply := by
  rw [runAfter, h]

/-- A row whose command is only answered: nothing begins after the reply. -/
theorem exec_cardRow_of_answer {kf : Card × (Nat → Cmd → Instr)} (hk : kf ∈ cardRows) {dt : Nat} {c : Cmd} {s : State}
    (ha : s.cmd.after = none) {st d : Nat}
    (h : runCard kf.1 dt c s = .next ((s.advance dt).reply (kf.1.cmd c) st d)) :
    exec (kf.2 dt c) s = .next ((s.advance dt).reply (kf.1.cmd c) st d) := by
  rw [exec_cardRow kf hk]
  split
  · rw [runAfter_of_runCard h, State.afterReply_of_none]
    simp [State.reply, ha]
  · exact h

/-- A command-ready module answers a command that fails one of checks 8 to 13 with what the check says (02 R41). -/
theorem runCard_of_check {k : Card} {dt : Nat} {c : Cmd} {s : State} {st d : Nat} (hz : (s.advance dt).zenithUp = true)
    (hr : s.boot.phase = .ready) (h : k.check (s.advance dt) (k.cmd c) = some (st, d)) :
    runCard k dt c s = .next ((s.advance dt).reply (k.cmd c) st d) := by
  simp only [Card.cmd] at h ⊢
  simp [runCard, Card.exec, hz, hr, h]

/-! ### Checks 8 to 13 of R41, one lemma per check: what it answers once every check before it passed -/

section
variable {k : Card} {s : State} {c : Cmd}

/-- Check 8 passes. -/
def Card.FlagsOk (k : Card) (c : Cmd) : Prop := bitsOf c.flags 3 5 = 0 ∧ (c.urgent = true → k.urgent = true)

/-- Check 9 passes for a command of one of the module's own channels. -/
def State.NotBusyFor (s : State) (c : Cmd) : Prop := s.cmd.busy = false ∨ c.urgent = true

/-- The reserved, REPLY and COMPLETION bits of FLAGS are clear (02 R34). -/
theorem bitsOf_flags_eq_zero_iff {f : Nat} (h : f < 256) : bitsOf f 3 5 = 0 ↔ f / 8 = 0 := by
  simp only [bitsOf]
  omega

theorem Card.flagsOk_iff_test : k.FlagsOk c ↔ (bitsOf c.flags 3 5 ≠ 0 || (c.urgent && !k.urgent)) = false := by
  simp [Card.FlagsOk]

theorem State.busyTest_of_notBusyFor (hb : s.NotBusyFor c) : (s.cmd.busy && !c.urgent && c.own) = false := by
  obtain h | h := hb <;> simp [h]

theorem Card.check_of_badFlags (hf : ¬ k.FlagsOk c) : k.check s c = some (stBadFlags, 0) := by
  rw [Card.flagsOk_iff_test, Bool.not_eq_false] at hf
  rw [Card.check, if_pos hf]

theorem Card.check_of_busy (hf : k.FlagsOk c) (ho : c.own = true) (hb : ¬ s.NotBusyFor c) :
    k.check s c = some (stBusyRetry, 10 * 2 ^ min (s.chan c.chan).busyK 6) := by
  have hb' : (s.cmd.busy && !c.urgent && c.own) = true := by simpa [State.NotBusyFor, ho] using hb
  simp only [Card.check, Card.flagsOk_iff_test.mp hf, hb', Bool.false_eq_true, if_false, if_true]

theorem Card.check_of_not_allowed (hf : k.FlagsOk c) (hb : s.NotBusyFor c) (ha : k.allowed s c = false) :
    k.check s c = some (stPrivilege, if k.level = .m then 1 else 2) := by
  simp only [Card.check, Card.flagsOk_iff_test.mp hf, State.busyTest_of_notBusyFor hb, ha, Bool.false_eq_true, if_false,
    Bool.not_false, if_true]
  cases k.level <;> rfl

section
variable (hf : k.FlagsOk c) (hb : s.NotBusyFor c) (ha : k.allowed s c = true)
include hf hb ha

/-- What is left to check once checks 8 to 10 passed. -/
theorem Card.check_of_allowed : k.check s c =
    (k.len.bad c).elim
      (if k.most s c > c.replyLimit then some (stBadLength, c.replyLimit)
        else (k.reserved c.params).elim ((k.params s c).map (stBadParameter, ·)) (fun n => some (stBadReserved, n)))
      (fun n => some (stBadLength, n)) := by
  simp only [Card.check, Card.flagsOk_iff_test.mp hf, State.busyTest_of_notBusyFor hb, ha, Bool.false_eq_true, if_false,
    Bool.not_true]
  cases k.len.bad c <;> cases k.reserved c.params <;> cases k.params s c <;> rfl

theorem Card.check_of_badLength {n : Nat} (hl : k.len.bad c = some n) : k.check s c = some (stBadLength, n) := by
  rw [Card.check_of_allowed hf hb ha, hl]
  rfl

theorem Card.check_of_no_room (hl : k.len.bad c = none) (hm : k.most s c > c.replyLimit) :
    k.check s c = some (stBadLength, c.replyLimit) := by
  rw [Card.check_of_allowed hf hb ha, hl, Option.elim_none, if_pos hm]

theorem Card.check_of_reserved (hl : k.len.bad c = none) (hm : k.most s c ≤ c.replyLimit) {n : Nat}
    (hr : k.reserved c.params = some n) : k.check s c = some (stBadReserved, n) := by
  rw [Card.check_of_allowed hf hb ha, hl, Option.elim_none, if_neg (Nat.not_lt.mpr hm), hr]
  rfl

theorem Card.check_of_badParameter (hl : k.len.bad c = none) (hm : k.most s c ≤ c.replyLimit)
    (hr : k.reserved c.params = none) {n : Nat} (hp : k.params s c = some n) : k.check s c = some (stBadParameter, n) := by
  rw [Card.check_of_allowed hf hb ha, hl, Option.elim_none, if_neg (Nat.not_lt.mpr hm), hr, hp]
  rfl

end

/-- A level M opcode is for VI00 only (02 R47). -/
theorem Card.not_allowed_of_m (hk : k.level = .m) (hi : c.inst ≠ 0) : k.allowed s c = false := by
  simp [Card.allowed, hk, hi]

/-- A level O opcode is for VI00 and for the owner of the object named; OBSERVER is no owner (02 R47). -/
theorem Card.not_allowed_of_o (hk : k.level = .o) (hi : c.inst ≠ 0)
    (ho : c.inst ≥ 64 ∨ ∃ o, k.owner s c.params = some o ∧ o ≠ c.inst) : k.allowed s c = false := by
  simp only [Card.allowed, hk]
  obtain h | ⟨o, h, hne⟩ := ho
  · simp [hi, Nat.not_lt.mpr h]
  · simp [hi, h, hne]

end

/-- Settles O4: the row answers what `Card.check` says (`exec_cardRow_of_answer`, `runCard_of_check`), and the checks are
judged in their order. -/
theorem firstFailingCheckDecides : Obligations.FirstFailingCheckDecides := by
  intro kf hk dt c s k s1 d flagsOk notBusy hz hready hafter hown hflags
  have hrow {st n : Nat} (h : k.check s1 d = some (st, n)) : exec (kf.2 dt c) s = .next (s1.reply d st n) :=
    exec_cardRow_of_answer hk hafter (runCard_of_check hz hready h)
  have hf : flagsOk ↔ k.FlagsOk d := and_congr_left' (bitsOf_flags_eq_zero_iff hflags).symm
  have hb : notBusy ↔ s1.NotBusyFor d := by
    rw [State.NotBusyFor, State.advance_cmd]
    rfl
  rw [hf, hb]
  refine ⟨fun h => hrow (Card.check_of_badFlags h), fun h h' => ?_, fun h h' hm hi => ?_, fun h h' ho hi hown => ?_,
    fun h h' ha n hl => hrow (Card.check_of_badLength h h' ha hl), fun h h' ha hl hm => hrow (Card.check_of_no_room h h' ha hl hm),
    fun h h' ha hl hm n hr => hrow (Card.check_of_reserved h h' ha hl hm hr),
    fun h h' ha hl hm hr n hp => hrow (Card.check_of_badParameter h h' ha hl hm hr hp)⟩
  · have hcheck := Card.check_of_busy h hown h'
    rw [State.advance_chan] at hcheck
    exact hrow hcheck
  · have hcheck := Card.check_of_not_allowed h h' (Card.not_allowed_of_m hm hi)
    rw [if_pos hm] at hcheck
    exact hrow hcheck
  · have hcheck := Card.check_of_not_allowed h h' (Card.not_allowed_of_o ho hi hown)
    rw [if_neg (by rw [ho]; decide)] at hcheck
    exact hrow hcheck

end Sys2Proof.Machine

/-! SUPPORT. The step, the load of Zenith (02 R51) and the completion of accepted commands (02 R53). -/
namespace Sys2Proof.Machine
open Sys2Proof

/-- Settles O1: `step` takes the front command off the queue by its definition. -/
theorem stepRunsFrontCommand : Obligations.StepRunsFrontCommand := fun _ _ _ => rfl

/-- Whether Zenith can execute does not depend on the time. -/
@[simp] theorem State.advance_zenithUp (s : State) (dt : Nat) : (s.advance dt).zenithUp = s.zenithUp := by
  simp [State.zenithUp]

/-- Settles O10: the load is stored as it stands, and `busy` is the threshold test of 02 R51 with its hysteresis; the tenth
update ends the window. -/
theorem loadDecidesBusy : Obligations.LoadDecidesBusy := by
  intro dt load s hz hl busy s1
  have hb : (decide (7500 < load) || (s.cmd.busy && decide (7000 < load))) = busy := by
    simp [busy, Bool.decide_or, Bool.decide_and]
  change execZenithLoadUpdate dt load s = _
  by_cases h9 : s.cmd.loadUpdates < 9
  · have h9' : ¬ 9 ≤ s.cmd.loadUpdates := by omega
    simp [execZenithLoadUpdate, hz, Nat.min_eq_left hl, hb, h9, h9', s1]
  · have h9' : 9 ≤ s.cmd.loadUpdates := by omega
    simp [execZenithLoadUpdate, hz, Nat.min_eq_left hl, hb, h9, h9', s1, binId]

/-- No schedule activation and no switchover is under way: neither has anything due. -/
theorem State.due_of_none {s : State} (ha : s.stratus.activation = none) (hs : s.pair.switchTick = none) :
    s.scheduleDue.switchover = s := by
  have h : s.scheduleDue = s := by simp [State.scheduleDue, State.setActivation, ha]
  rw [h, State.switchover, hs]

/-- The outcome of a command that holds nothing until it completes, once it is known. -/
theorem State.outcome_of_result {s : State} {a : Accepted} {r : Nat × Nat × Bytes} (hr : a.result = some r)
    (hp : a.wait ≠ .place) : s.outcome a = (some r, s) := by
  simp [State.outcome, hr, hp]

/-- A command that committed before its completion is told to nobody at its completion (12 R311). -/
theorem State.commitLate_of_committed {s : State} {a : Accepted} (h : a.committed = true) : s.commitLate a = s := by
  rw [State.commitLate]
  split
  · simp [h]
  · rfl

section
variable {dt chan seq : Nat} {s : State} (hz : s.zenithUp = true) (ha : s.stratus.activation = none)
  (hs : s.pair.switchTick = none)
include hz ha hs

theorem execCommandCompletion_of_found {a : Accepted}
    (hf : s.cmd.accepted.find? (fun x => x.cmd.chan == chan && x.cmd.seq == seq) = some a) :
    execCommandCompletion dt chan seq s = .next ((s.advance dt).completeOne a) := by
  have hd : (s.advance dt).scheduleDue.switchover = s.advance dt := State.due_of_none (by simpa) (by simpa)
  simp [execCommandCompletion, hz, State.complete, hd, hf]

theorem execCommandCompletion_of_not_found
    (hf : s.cmd.accepted.find? (fun x => x.cmd.chan == chan && x.cmd.seq == seq) = none) :
    execCommandCompletion dt chan seq s = .next (s.advance dt) := by
  have hd : (s.advance dt).scheduleDue.switchover = s.advance dt := State.due_of_none (by simpa) (by simpa)
  simp [execCommandCompletion, hz, State.complete, hd, hf]

end

/-- Settles O11: `completeOne` of a command whose outcome is known and that is told to nobody any more is its answer. -/
theorem completionReportEndsCommand : Obligations.CompletionReportEndsCommand := by
  intro dt chan seq s s1 hz ha hs
  refine ⟨fun a status detail data hf hr hp hg hc => ?_, fun hf => execCommandCompletion_of_not_found hz ha hs hf⟩
  refine (execCommandCompletion_of_found hz ha hs hf).trans ?_
  have hl (t : State) : (if status = stOk then t.commitLate a else t) = t := by
    split
    · next h => exact State.commitLate_of_committed (hc.resolve_right (· h))
    · rfl
  simp [State.completeOne, State.outcome_of_result hr hp, hl, hg, State.after, s1]

end Sys2Proof.Machine

/-! SUPPORT. The front ends and the order in which commands start (02 R41 to R50). -/
namespace Sys2Proof.Machine
open Sys2Proof

/-! ### The card of an opcode (02 R55) -/

/-- In a list whose keys differ, an element is found by its key. -/
theorem find?_key_eq_some {α : Type} {f : α → Nat} {l : List α} (h : l.Pairwise (fun a b => f a ≠ f b)) {a : α} (ha : a ∈ l) :
    l.find? (fun x => f x == f a) = some a := by
  induction l with
  | nil => cases ha
  | cons b l ih =>
    obtain ⟨hb, hl⟩ := List.pairwise_cons.mp h
    rcases List.mem_cons.mp ha with rfl | ha
    · simp
    · rw [List.find?_cons_of_neg (by simpa using hb a ha), ih hl ha]

/-- The opcodes of the table rise from card to card. -/
theorem allCards_opcodes_rise : allCards.Pairwise (fun a b => a.opcode < b.opcode) := by
  have h : (allCards.map (·.opcode)).IsChain (· < ·) := by decide +kernel
  exact List.pairwise_map.mp (List.isChain_iff_pairwise.mp h)

theorem cardOf_opcode {k : Card} (h : k ∈ allCards) : cardOf k.opcode = some k :=
  find?_key_eq_some (allCards_opcodes_rise.imp Nat.ne_of_lt) h

theorem card_mem_allCards {kf : Card × (Nat → Cmd → Instr)} (h : kf ∈ cardRows) : kf.1 ∈ allCards := by
  have hc : cardRows.map Prod.fst = allCards := rfl
  rw [← hc]
  exact List.mem_map_of_mem h

/-- On one of the module's own channels a defined opcode runs its card. -/
theorem State.runOpcode_of_row {kf : Card × (Nat → Cmd → Instr)} (hk : kf ∈ cardRows) {s : State} {c : Cmd} (hc : c.chan ≤ 65) :
    State.runOpcode kf.1.opcode s c = kf.1.exec s (kf.1.cmd c) := by
  have h : ¬ (kf.1.opcode = 0x0604 ∧ c.chan ≥ 66) := by omega
  simp only [State.runOpcode, if_neg h, cardOf_opcode (card_mem_allCards hk)]
  rfl

/-! ### A packet at a front end (02 R41, R45, R49) -/

@[simp] theorem State.takeReservation_cmd (s : State) (chan : Nat) : (s.takeReservation chan).cmd = s.cmd := by
  rw [State.takeReservation]
  split <;> rfl

@[simp] theorem State.takeReservation_chan (s : State) (chan n : Nat) : (s.takeReservation chan).chan n = s.chan n :=
  State.chan_congr (by rw [State.takeReservation_cmd]) n

@[simp] theorem State.setChan_mgmt (s : State) (n : Nat) (c : Channel) : (s.setChan n c).cmd.mgmt = s.cmd.mgmt := rfl
@[simp] theorem State.setChan_arrivals (s : State) (n : Nat) (c : Channel) :
    (s.setChan n c).cmd.arrivals = s.cmd.arrivals := rfl

/-- The channel's record once a packet is the last accepted one, its reply unsent (02 R45). -/
def Channel.accepting (ch : Channel) (c : Cmd) (hdr : Bytes) : Channel :=
  let gap := match ch.lastSeq with
    | some l => decide (sdiff 32 c.seq l > 1)
    | none => false
  { ch with last := some hdr, reply := .unsent, gaps := if gap then inc32 ch.gaps else ch.gaps }

theorem Channel.accepting_gaps_of_gap {ch : Channel} {c : Cmd} (hdr : Bytes)
    (h : ∃ l, ch.lastSeq = some l ∧ sdiff 32 c.seq l > 1) : (ch.accepting c hdr).gaps = inc32 ch.gaps := by
  obtain ⟨l, hl, hd⟩ := h
  simp [Channel.accepting, hl, hd]

theorem Channel.accepting_gaps_of_no_gap {ch : Channel} {c : Cmd} (hdr : Bytes)
    (h : ¬ ∃ l, ch.lastSeq = some l ∧ sdiff 32 c.seq l > 1) : (ch.accepting c hdr).gaps = ch.gaps := by
  cases hl : ch.lastSeq with
  | none => simp [Channel.accepting, hl]
  | some l =>
    have hd : ¬ sdiff 32 c.seq l > 1 := fun hd => h ⟨l, hl, hd⟩
    simp [Channel.accepting, hl, hd]

/-- The channel's record with a command at the end of its queue (02 R49). -/
def Channel.queueing (ch : Channel) (c : Cmd) (arrival : Nat) : Channel :=
  { ch with queue := ch.queue ++ [{ arrival := arrival, urgent := c.urgent, cmd := c }] }

/-- With Zenith RUNNING and an entry free, a packet that passed checks 1 to 5 joins its channel's queue. -/
theorem State.takeIn_of_room {s : State} {c : Cmd} {hdr : Bytes} (hm : s.cmd.mgmt = .running)
    (hr : (s.chan c.chan).room c.urgent = true) :
    (s.takeIn c hdr).chan c.chan = ((s.chan c.chan).accepting c hdr).queueing c s.cmd.arrivals ∧
      (s.takeIn c hdr).cmd.arrivals = s.cmd.arrivals + 1 ∧ ∀ n, n ≠ c.chan → (s.takeIn c hdr).chan n = s.chan n := by
  generalize hu : s.setChan c.chan ((s.chan c.chan).accepting c hdr) = u
  generalize ht : u.setChan c.chan (((s.chan c.chan).accepting c hdr).queueing c s.cmd.arrivals) = t
  have hcmd : (s.takeIn c hdr).cmd = { t.cmd with arrivals := s.cmd.arrivals + 1 } := by
    have hr' : ((s.chan c.chan).accepting c hdr).room c.urgent = true := hr
    have hrun : s.takeIn c hdr =
        if !(u.chan c.chan).room c.urgent then u.reply c stQueueFull 0
        else
          let v := u.setChan c.chan ((u.chan c.chan).queueing c u.cmd.arrivals)
          let v := { v with cmd.arrivals := v.cmd.arrivals + 1 }
          if c.chan = 64 then v.raiseInt 64 else if c.chan = 65 then v.raiseInt 65 else v := by
      simp only [State.takeIn, State.setChan_mgmt, hm, ← hu]
      rfl
    rw [hrun, ← hu, State.chan_setChan_self, hr']
    subst hu ht
    split
    · contradiction
    · dsimp only
      split
      · rfl
      · split <;> rfl
  have hchan (n : Nat) : (s.takeIn c hdr).chan n = t.chan n := State.chan_congr (by rw [hcmd]) n
  refine ⟨?_, by rw [hcmd], fun n hn => ?_⟩
  · rw [hchan, ← ht, State.chan_setChan_self]
  · rw [hchan, ← ht, State.chan_setChan_other hn, ← hu, State.chan_setChan_other hn]

/-- Checks 1 to 5 pass: what is left is check 6 (02 R41). -/
theorem State.arrive_of_new {s : State} {chan : Nat} {v : Via} {pkt : Bytes} (hl : 16 ≤ pkt.length)
    (hh : crc16 (pkt.take 14) = u16 pkt 14) (hb : badPacket chan pkt = none)
    (hi : (s.parsed chan v pkt).inst = (s.chan chan).binding)
    (hs : ∀ h, (s.chan chan).last = some h → sdiff 32 (s.parsed chan v pkt).seq (u32 h 8) > 0) :
    s.arrive chan v pkt = (s.takeReservation chan).takeIn (s.parsed chan v pkt) (pkt.take 14) := by
  have h1 : ¬ (pkt.length < 16 ∨ crc16 (pkt.take 14) ≠ u16 pkt 14) := by
    simp [hh, Nat.not_lt.mpr hl]
  simp only [State.arrive, if_neg h1, hb, hi, ne_eq, not_true_eq_false, if_false]
  cases hlast : (s.chan chan).last with
  | none => rfl
  | some h => simp only [if_pos (hs h hlast)]

/-- A header whose HCRC is wrong only counts (02 R41, check 1). -/
theorem State.arrive_of_bad_hcrc {s : State} {chan : Nat} {v : Via} {pkt : Bytes} (hc : 64 ≤ chan)
    (hh : crc16 (pkt.take 14) ≠ u16 pkt 14) :
    s.arrive chan v pkt = s.setChan chan { s.chan chan with hdrErrs := inc32 (s.chan chan).hdrErrs } := by
  rw [State.arrive, if_pos (.inr hh)]
  exact if_neg (Nat.not_lt.mpr hc)

theorem execPacketArrival_of_open {dt chan : Nat} {pkt : Bytes} {replyTo replyBytes index user : Nat} {s : State}
    (ho : (s.advance dt).channelOpen chan = true) (hc : chan ≤ 65) (hr : chan < 64 → ((s.advance dt).hif chan).enable = true) :
    execPacketArrival dt chan pkt replyTo replyBytes index user s =
      .next ((s.advance dt).arrive chan { replyTo := replyTo, replyBytes := replyBytes, index := index, user := user } pkt) := by
  have h : (decide (chan ≤ 65) && (s.advance dt).channelOpen chan &&
      (decide (chan ≥ 64) || ((s.advance dt).hif chan).enable)) = true := by
    by_cases h64 : chan < 64
    · simp [hc, ho, hr h64]
    · simp [hc, ho, Nat.not_lt.mp h64]
  simp only [execPacketArrival, h, if_true]

/-! ### Which command starts (02 R50) -/

theorem mem_insertBy {α : Type} {before : α → α → Bool} {x y : α} {l : List α} : y ∈ insertBy before x l ↔ y = x ∨ y ∈ l := by
  induction l with
  | nil => simp [insertBy]
  | cons z l ih =>
    rw [insertBy]
    split
    · exact List.mem_cons
    · rw [List.mem_cons, ih, List.mem_cons, or_left_comm]

theorem mem_sortBy {α : Type} {before : α → α → Bool} {y : α} {l : List α} : y ∈ sortBy before l ↔ y ∈ l := by
  induction l with
  | nil => rfl
  | cons z l ih => rw [sortBy, mem_insertBy, ih, List.mem_cons]

/-- Packets in order of arrival. -/
def Queued.before (a b : Queued) : Bool := decide (a.arrival < b.arrival)

/-- The packet that arrived before every other one heads the sorted list. -/
theorem head?_sortBy_before {l : List Queued} {q : Queued} (hq : q ∈ l) (hm : ∀ x ∈ l, x = q ∨ q.arrival < x.arrival) :
    (sortBy Queued.before l).head? = some q := by
  induction l with
  | nil => cases hq
  | cons x l ih =>
    rw [sortBy]
    by_cases hx : x = q
    · subst hx
      cases hs : sortBy Queued.before l with
      | nil => rfl
      | cons y t =>
        have hy : y ∈ x :: l := List.mem_cons_of_mem _ (mem_sortBy.mp (hs ▸ List.mem_cons_self))
        rw [insertBy]
        split
        · rfl
        · next hb => rw [(hm y hy).resolve_right (by simpa [Queued.before] using hb), List.head?_cons]
    · have hlt := (hm x List.mem_cons_self).resolve_left hx
      have hh := ih ((List.mem_cons.mp hq).resolve_left (Ne.symm hx)) (fun y hy => hm y (List.mem_cons_of_mem _ hy))
      obtain ⟨t, ht⟩ := List.head?_eq_some_iff.mp hh
      rw [ht, insertBy, if_neg (by simpa [Queued.before] using hlt.le), List.head?_cons]

/-- The URGENT packets of all queues. -/
theorem mem_urgents {s : State} {q : Queued} : q ∈ (s.cmd.channels.flatMap (fun e => e.2.queue)).filter (·.urgent) ↔
    (∃ e ∈ s.cmd.channels, q ∈ e.2.queue) ∧ q.urgent = true := by
  rw [List.mem_filter, List.mem_flatMap]

/-- An URGENT packet that arrived before every other one is next. -/
theorem State.nextUrgent_of_first {s : State} {q : Queued} (hu : q.urgent = true) (hq : ∃ e ∈ s.cmd.channels, q ∈ e.2.queue)
    (hm : ∀ e ∈ s.cmd.channels, ∀ x ∈ e.2.queue, x.urgent = true → x = q ∨ q.arrival < x.arrival) :
    s.nextUrgent = some q := by
  refine head?_sortBy_before (mem_urgents.mpr ⟨hq, hu⟩) fun x hx => ?_
  obtain ⟨⟨e, he, hxe⟩, hxu⟩ := mem_urgents.mp hx
  exact hm e he x hxe hxu

theorem State.nextUrgent_of_none {s : State} (h : ∀ e ∈ s.cmd.channels, ∀ x ∈ e.2.queue, x.urgent = false) :
    s.nextUrgent = none := by
  have he : (s.cmd.channels.flatMap (fun e => e.2.queue)).filter (·.urgent) = [] := by
    refine List.eq_nil_iff_forall_not_mem.mpr fun x hx => ?_
    obtain ⟨⟨e, he, hxe⟩, hxu⟩ := mem_urgents.mp hx
    rw [h e he x hxe] at hxu
    cases hxu
  rw [State.nextUrgent, he]
  rfl

/-- The first channel in turn that has a packet and no command without its reply starts its oldest packet. -/
theorem State.nextNormal_of_turn {s : State} {i : Nat} {q : Queued} {rest : List Queued} (hi : i < 66)
    (hb : ∀ j, j < i → (s.chan ((s.cmd.rrNext + j) % 66)).queue = [] ∨ s.unanswered ((s.cmd.rrNext + j) % 66) = true)
    (ha : s.unanswered ((s.cmd.rrNext + i) % 66) = false) (hq : (s.chan ((s.cmd.rrNext + i) % 66)).queue = q :: rest)
    (hu : q.urgent = false) : s.nextNormal = some q := by
  have hr : List.range 66 = List.range i ++ i :: (List.range 66).drop (i + 1) := by
    conv_lhs => rw [← List.take_append_drop i (List.range 66), List.drop_eq_getElem_cons (by simpa)]
    simp [List.take_range, Nat.min_eq_left hi.le]
  rw [State.nextNormal, hr, List.map_append, List.findSome?_append, List.map_cons, List.findSome?_cons]
  have hn : ((List.range i).map (fun i => (s.cmd.rrNext + i) % 66)).findSome? (fun n =>
      if s.unanswered n then none else (s.queued n).find? (fun q => !q.urgent)) = none := by
    rw [List.findSome?_eq_none_iff]
    intro n hn
    obtain ⟨j, hj, rfl⟩ := List.mem_map.mp hn
    obtain he | he := hb j (List.mem_range.mp hj)
    · simp [State.queued, he]
    · simp [he]
  rw [hn, Option.none_or]
  simp [ha, State.queued, hq, hu]

theorem execCommandStart_of_up {dt : Nat} {s : State} (hz : s.zenithUp = true) :
    execCommandStart dt s = .next (s.advance dt).startNext := by
  simp [execCommandStart, hz]

/-- Time does not change which packet is next. -/
@[simp] theorem State.advance_nextUrgent (s : State) (dt : Nat) : (s.advance dt).nextUrgent = s.nextUrgent := by
  simp [State.nextUrgent]

@[simp] theorem State.advance_nextNormal (s : State) (dt : Nat) : (s.advance dt).nextNormal = s.nextNormal := by
  simp [State.nextNormal, State.queued, State.unanswered]

/-! ### The management Ethernet channel (02 R39) -/

theorem execMgmtEthernetFrame_of_taken {dt port : Nat} {frame : Bytes} {s : State}
    (ho : (s.advance dt).channelOpen 65 = true) (hp : (s.advance dt).portUp port = true)
    (hm : (s.advance dt).mgmtMatches port (ethParse frame) = true) (h0 : byteAt (ethParse frame).payload 0 = 1)
    (h1 : byteAt (ethParse frame).payload 1 = 1) :
    execMgmtEthernetFrame dt port frame s =
      .next ((s.advance dt).arrive 65 { replyTo := (ethParse frame).src } ((ethParse frame).payload.drop 4)) := by
  simp [execMgmtEthernetFrame, State.mgmtTakes, ho, hp, hm, h0, h1]

theorem execMgmtEthernetFrame_of_dropped {dt port : Nat} {frame : Bytes} {s : State}
    (ho : (s.advance dt).channelOpen 65 = true) (hp : (s.advance dt).portUp port = true)
    (hm : (s.advance dt).mgmtMatches port (ethParse frame) = true)
    (h : byteAt (ethParse frame).payload 0 ≠ 1 ∨ byteAt (ethParse frame).payload 1 ≠ 1) :
    execMgmtEthernetFrame dt port frame s = .next ((s.advance dt).setChan 65
      { (s.advance dt).chan 65 with dropped := inc32 ((s.advance dt).chan 65).dropped }) := by
  have ht : (s.advance dt).mgmtTakes port (ethParse frame) = false := by
    obtain h | h := h <;> simp [State.mgmtTakes, h]
  simp [execMgmtEthernetFrame, ho, hp, hm, ht]

/-- Settles O9: the front end by `arrive_of_new` and `takeIn_of_room`, the order of R50 by `nextUrgent_of_first` and
`nextNormal_of_turn`, the meaning of an opcode by `runOpcode_of_row`. -/
theorem packetsQueueAndStartInOrder : Obligations.PacketsQueueAndStartInOrder := by
  refine ⟨⟨?_, ?_, ?_⟩, ?_, ?_, ?_⟩
  · intro dt chan pkt replyTo replyBytes index user s s1 v ch c diff ho hc hring hm hl hh hb hi hd hroom
    have hx : exec (.packetArrival dt chan pkt replyTo replyBytes index user) s =
        .next ((s1.takeReservation chan).takeIn c (pkt.take 14)) := by
      refine (execPacketArrival_of_open ho hc hring).trans ?_
      rw [State.arrive_of_new hl hh hb hi fun h hlast => hd _ (by simp only [diff, ch, hlast]; rfl)]
    obtain ⟨hq, harr, hother⟩ := State.takeIn_of_room (s := s1.takeReservation chan) (c := c) (hdr := pkt.take 14)
      (by simpa [s1] using hm) (by rw [State.takeReservation_chan]; exact hroom)
    have hcc : c.chan = chan := rfl
    simp only [hcc, State.takeReservation_chan, State.takeReservation_cmd, State.advance_cmd, State.advance_chan, s1] at hq harr hother
    have hch : ch = s.chan chan := State.advance_chan s dt chan
    have hgap : (∃ x, diff = some x ∧ x > 1) ↔ ∃ l, ch.lastSeq = some l ∧ sdiff 32 c.seq l > 1 := by
      cases hlast : ch.last <;> simp [diff, Channel.lastSeq, hlast]
    refine ⟨_, hx, ?_, ?_, ?_, ?_, harr, hother⟩
    · rw [hq, hch]
      rfl
    · rw [hq]
      rfl
    · rw [hq]
      rfl
    · rw [hq, ← hch]
      split
      · next hg => exact Channel.accepting_gaps_of_gap (pkt.take 14) (hgap.mp hg)
      · next hg => exact Channel.accepting_gaps_of_no_gap (pkt.take 14) (fun h => hg (hgap.mpr h))
  · intro dt chan pkt replyTo replyBytes index user s s1 ho h64 hc hh
    refine (execPacketArrival_of_open ho hc (fun h => absurd h (Nat.not_lt.mpr h64))).trans ?_
    rw [State.arrive_of_bad_hcrc h64 hh]
  · intro dt port frame s s1 e ho hp hm
    refine ⟨fun h0 h1 => ?_, fun h => execMgmtEthernetFrame_of_dropped ho hp hm h⟩
    refine (execMgmtEthernetFrame_of_taken ho hp hm h0 h1).trans (Eq.symm ?_)
    exact execPacketArrival_of_open (dt := 0) (s := s1) ho (by decide) (fun h => absurd h (by decide))
  · intro dt s q hz hu hq hm
    refine (execCommandStart_of_up hz).trans ?_
    simp only [State.startNext, State.advance_nextUrgent, State.nextUrgent_of_first hu hq hm]
  · intro dt s i q rest n hz hu hi hb ha hq hqu hn
    refine (execCommandStart_of_up hz).trans ?_
    simp only [State.startNext, State.advance_nextUrgent, State.nextUrgent_of_none hu, State.advance_nextNormal,
      State.nextNormal_of_turn hi hb ha hq hqu, hn]
  · intro kf hk s c hc
    exact State.runOpcode_of_row hk hc

end Sys2Proof.Machine

/-! SUPPORT. The bytes of a reply (02 R36, R44). -/
namespace Sys2Proof.Machine
open Sys2Proof

/-! ### Fields of a byte string (00 R6) -/

@[simp] theorem length_le (n v : Nat) : (le n v).length = n := by
  induction n generalizing v with
  | zero => rfl
  | succ n ih => rw [le, List.length_cons, ih]

/-- A little-endian field is read back. -/
theorem leNat_le (n v : Nat) : leNat (le n v) = v % 256 ^ n := by
  induction n generalizing v with
  | zero => rw [le, leNat, Nat.pow_zero, Nat.mod_one]
  | succ n ih =>
    have hp : 256 ^ (n + 1) = 256 * 256 ^ n := Nat.pow_succ'
    rw [le, leNat, ih, BitVec.toNat_ofNat, hp, Nat.mod_mul]

theorem slice_append_self (p q : Bytes) : slice (p ++ q) 0 p.length = p := by
  simp [slice]

theorem slice_append_of_le {p : Bytes} (q : Bytes) {o n : Nat} (h : p.length ≤ o) :
    slice (p ++ q) o n = slice q (o - p.length) n := by
  simp [slice, List.drop_append, List.drop_eq_nil_of_le h]

theorem uN_le_append (n v : Nat) (q : Bytes) : uN (le n v ++ q) 0 n = v % 256 ^ n := by
  have h := slice_append_self (le n v) q
  rw [length_le] at h
  rw [uN, h, leNat_le]

theorem uN_append_of_le {p : Bytes} (q : Bytes) {o n : Nat} (h : p.length ≤ o) : uN (p ++ q) o n = uN q (o - p.length) n := by
  rw [uN, slice_append_of_le q h, uN]

theorem byteAt_le_append (v : Nat) (q : Bytes) : byteAt (le 1 v ++ q) 0 = v % 256 := by
  simp [byteAt, le]

theorem byteAt_append_of_le {p : Bytes} (q : Bytes) {o : Nat} (h : p.length ≤ o) :
    byteAt (p ++ q) o = byteAt q (o - p.length) := by
  rw [byteAt, List.getD_append_right _ _ _ _ h, byteAt]

theorem length_padWord (p : Bytes) : (padWord p).length = 4 * ((p.length + 3) / 4) := by
  simp only [padWord, zeros, List.length_append, List.length_replicate]
  omega

/-! ### The packet of a reply (02 R32, R36, R44) -/

/-- The FLAGS byte of a reply: REPLY, COMPLETION in a report, TRAILER where one follows (02 R34). -/
def replyFlags (completion trailer : Bool) : Nat := 8 + 16 * boolNat completion + 4 * boolNat trailer

theorem replyFlags_bits (completion trailer : Bool) :
    bit (replyFlags completion trailer) 3 = true ∧ bit (replyFlags completion trailer) 4 = completion ∧
      bit (replyFlags completion trailer) 2 = trailer ∧ replyFlags completion trailer % 4 = 0 ∧
      replyFlags completion trailer / 32 = 0 ∧ replyFlags completion trailer < 256 := by
  revert completion trailer
  decide

/-- The fields of a reply in their order; the padding and the trailer come last. -/
theorem replyPacket_fields (c : Cmd) (completion : Bool) (status detail : Nat) (data : Bytes) :
    ∃ hcrc crc : Nat, replyPacket c completion status detail data =
      le 2 c.opcode ++ (le 1 (replyFlags completion (decide (c.chan ≥ 64) || c.trailer)) ++ (le 1 c.inst ++ (le 2 c.tag ++
        (le 2 (1 + (data.length + 3) / 4) ++ (le 4 c.seq ++ (le 2 0 ++ (le 2 hcrc ++ (le 2 status ++ (le 2 detail ++
          (data ++ (zeros ((4 - data.length % 4) % 4) ++
            (if decide (c.chan ≥ 64) || c.trailer then le 4 crc else [])))))))))))) := by
  have hw : (le 2 status ++ le 2 detail ++ padWord data).length / 4 = 1 + (data.length + 3) / 4 := by
    simp only [List.length_append, length_le, length_padWord]
    omega
  have hb := (replyFlags_bits completion (decide (c.chan ≥ 64) || c.trailer)).2.2.1
  generalize hp : (le 2 status ++ le 2 detail ++ padWord data) = params at hw
  have hh : replyPacket c completion status detail data = packet c.opcode
      (replyFlags completion (decide (c.chan ≥ 64) || c.trailer)) c.inst c.tag c.seq params := by rw [← hp]; rfl
  rw [hh, packet, hb, hw]
  generalize crc16 _ = hcrc
  refine ⟨hcrc, crc32c (hdr14 c.opcode (replyFlags completion (decide (c.chan ≥ 64) || c.trailer)) c.inst c.tag
    (1 + (data.length + 3) / 4) c.seq ++ le 2 hcrc ++ params), ?_⟩
  have hz : zeros 2 = le 2 0 := rfl
  rw [← hp]
  split <;> simp [hdr14, padWord, hz]

/-- Settles O5: each field of `replyPacket_fields` is read back at its offset. -/
theorem replyPacketLayout : Obligations.ReplyPacketLayout := by
  intro c completion status detail data hwf hown hs hd hl b words trailer
  have ht : (decide (c.chan ≥ 64) || c.trailer) = trailer := by
    have h65 : c.chan ≤ 65 := by simpa [Cmd.own] using hown
    have hc : (decide (c.chan ≥ 64) : Bool) = (decide (c.chan = 64) || decide (c.chan = 65)) := by
      rw [← Bool.decide_or]
      exact decide_eq_decide.mpr (by omega)
    rw [hc]
  obtain ⟨hcrc, crc, hb⟩ := replyPacket_fields c completion status detail data
  rw [ht] at hb
  obtain ⟨h3, h4, h2, hlow, hhigh, hlt⟩ := replyFlags_bits completion trailer
  obtain ⟨hop, hinst, htag, hseq⟩ : c.opcode < 2 ^ 16 ∧ c.inst < 2 ^ 8 ∧ c.tag < 2 ^ 16 ∧ c.seq < 2 ^ 32 := by
    simp only [Cmd.wf, Cmd.headerOk, Bool.and_eq_true, decide_eq_true_eq] at hwf
    tauto
  have hflags : byteAt b 2 = replyFlags completion trailer := by
    simp (disch := simp) only [b, hb, byteAt_append_of_le, length_le, byteAt_le_append, Nat.reduceSub]
    exact Nat.mod_eq_of_lt hlt
  have hlen : b.length = 16 + 4 * words + (if trailer then 4 else 0) := by
    simp only [b, hb, List.length_append, length_le, zeros, List.length_replicate, apply_ite List.length, List.length_nil, words]
    omega
  rw [hflags]
  refine ⟨?_, ?_, ?_, ?_, ?_, hlen, h3, h4, h2, hlow, hhigh, ?_, ?_, ?_⟩
  all_goals
    simp (disch := simp) only [b, hb, u16, u32, uN_append_of_le, byteAt_append_of_le, slice_append_of_le, length_le,
      uN_le_append, byteAt_le_append, Nat.reduceSub]
  · exact Nat.mod_eq_of_lt hop
  · exact Nat.mod_eq_of_lt hinst
  · exact Nat.mod_eq_of_lt htag
  · exact Nat.mod_eq_of_lt hseq
  · exact Nat.mod_eq_of_lt (by omega)
  · exact Nat.mod_eq_of_lt hs
  · exact Nat.mod_eq_of_lt hd
  · exact slice_append_self _ _

end Sys2Proof.Machine

/-! SUPPORT. Zenith restarts, is lost, and recovers (02 R56 to R58). -/
namespace Sys2Proof.Machine
open Sys2Proof

/-! ### Operations that leave the commands' state as it is -/

theorem State.foldl_cmd {α : Type} {f : State → α → State} (h : ∀ s x, (f s x).cmd = s.cmd) (l : List α) (s : State) :
    (l.foldl f s).cmd = s.cmd := State.foldl_same State.cmd h l s

@[simp] theorem State.pairSend_cmd (s : State) (r : Bytes) : (s.pairSend r).cmd = s.cmd := by
  rw [State.pairSend]
  split <;> rfl

@[simp] theorem State.mirrorPacket_cmd (s : State) (p : Bytes) : (s.mirrorPacket p).cmd = s.cmd := by
  rw [State.mirrorPacket]
  split
  · rfl
  · exact State.pairSend_cmd s _

@[simp] theorem State.modPort_cmd (s : State) (n : Nat) (f : Port → Port) : (s.modPort n f).cmd = s.cmd := rfl
@[simp] theorem State.modSwp_cmd (s : State) (n : Nat) (f : SwPort → SwPort) : (s.modSwp n f).cmd = s.cmd := rfl
@[simp] theorem State.portCount_cmd (s : State) (n i : Nat) : (s.portCount n i).cmd = s.cmd := rfl
@[simp] theorem State.qCount_cmd (s : State) (n tc i : Nat) : (s.qCount n tc i).cmd = s.cmd := rfl

@[simp] theorem State.checkPause_cmd (s : State) : s.checkPause.cmd = s.cmd := by
  refine State.foldl_cmd (fun s e => ?_) _ _
  dsimp only
  split
  · rfl
  · split
    · rfl
    · split <;> rfl

@[simp] theorem State.releaseId_cmd (s : State) (id : Nat) : (s.releaseId id).cmd = s.cmd := by
  rw [State.releaseId, State.checkPause_cmd]
  split <;> rfl

@[simp] theorem State.settleTx_cmd (s : State) (n : Nat) : (s.settleTx n).cmd = s.cmd := by
  rw [State.settleTx]
  split
  · rfl
  · split
    · rfl
    · dsimp only
      split
      · rfl
      · exact State.releaseId_cmd _ _

@[simp] theorem State.truncateAfter_cmd (s : State) (d : Nat) : (s.truncateAfter d).cmd = s.cmd := by
  refine State.foldl_cmd (fun s e => ?_) _ _
  dsimp only
  rw [State.foldl_cmd (fun s f => State.releaseId_cmd s _), State.modPort_cmd, State.modSwp_cmd]
  split
  · split
    · simp
    · simp
  · simp

@[simp] theorem State.giveUp_cmd (s : State) (cause : Nat) : (s.giveUp cause).cmd = s.cmd := by
  rw [State.giveUp]
  split
  · dsimp only
    rw [State.post_cmd, State.truncateAfter_cmd]
    split
    · rfl
    · exact State.pairSend_cmd _ _
  · rfl

/-! ### The restoration of lost copies (03 R79 to R88) leaves the commands' state as it is -/

@[simp] theorem State.modInst_cmd (s : State) (fi : Nat) (f : Inst → Inst) : (s.modInst fi f).cmd = s.cmd := rfl

@[simp] theorem State.meetErr_cmd (s : State) (l : Nat) : (s.meetErr l).cmd = s.cmd := by
  rw [State.meetErr]
  split <;> rfl

@[simp] theorem State.wroteRange_cmd (s : State) (a n : Nat) : (s.wroteRange a n).cmd = s.cmd := by
  refine State.foldl_cmd (fun s l => ?_) _ _
  split
  · rfl
  · exact State.meetErr_cmd s l

@[simp] theorem State.engWrite_cmd (s : State) (e : Eng) (a : Nat) (p : Bytes) : (s.engWrite e a p).cmd = s.cmd := by
  simp [State.engWrite]

@[simp] theorem State.loadCodes_cmd (s : State) (e : Eng) (c : Copy) (x : Inst) : (s.loadCodes e c x).cmd = s.cmd := by
  rw [State.loadCodes]
  split <;> simp [State.loadCode]

@[simp] theorem State.putCopy_cmd (s : State) (fi k : Nat) (e : Eng) (st : CopySt) : (s.putCopy fi k e st).cmd = s.cmd := by
  rw [State.putCopy]
  split
  · rfl
  · dsimp only
    split <;> simp

theorem State.makeRing_cmd {s t : State} {ch c0 : Nat} (h : s.makeRing ch c0 = .ok t) : t.cmd = s.cmd := by
  rw [State.makeRing] at h
  split at h
  · cases h
    rfl
  · dsimp only at h
    split at h
    · cases h
    · cases h
      exact State.wroteRange_cmd _ _ _

@[simp] theorem State.ringAgain_cmd (s : State) (ch : Nat) : (s.ringAgain ch).cmd = s.cmd := by
  rw [State.ringAgain]
  split
  · rfl
  · split
    · next h => exact State.makeRing_cmd h
    · simp

@[simp] theorem State.ringsForCopy_cmd (s : State) (fi : Nat) : (s.ringsForCopy fi).cmd = s.cmd := by
  rw [State.ringsForCopy]
  split
  · rfl
  · exact State.foldl_cmd State.ringAgain_cmd _ _

@[simp] theorem State.checkSpares_cmd (s : State) : s.checkSpares.cmd = s.cmd := by
  rw [State.checkSpares]
  split
  · split <;> simp
  · rfl

@[simp] theorem State.moveCopy_cmd (s : State) (fi k : Nat) (e : Eng) : (s.moveCopy fi k e).cmd = s.cmd := by
  simp [State.moveCopy, State.mirrorMoved]

@[simp] theorem State.commitRetained_cmd (s : State) (fi : Nat) : (s.commitRetained fi).cmd = s.cmd := by
  rw [State.commitRetained]
  split <;> rfl

@[simp] theorem State.dropRings_cmd (s : State) : s.dropRings.cmd = s.cmd := rfl

@[simp] theorem State.shed_cmd (s : State) (fi rescued : Nat) : (s.shed fi rescued).cmd = s.cmd := by
  rw [State.shed]
  split
  · rfl
  · dsimp only
    simp only [State.giveUp_cmd, State.raiseInt_cmd, State.post_cmd, State.dropRings_cmd, State.setInst_cmd]
    split <;> simp

@[simp] theorem State.shedUntil_cmd (l : List Nat) (s : State) (fi k : Nat) : (State.shedUntil l s fi k).cmd = s.cmd := by
  induction l generalizing s with
  | nil =>
    rw [State.shedUntil]
    split <;> simp
  | cons v vs ih =>
    rw [State.shedUntil]
    split
    · simp
    · rw [ih, State.shed_cmd]

@[simp] theorem State.afterExhaustion_cmd (s : State) (fi k : Nat) : (s.afterExhaustion fi k).cmd = s.cmd := by
  rw [State.afterExhaustion]
  split
  · rfl
  · split
    · simp
    · dsimp only
      split
      · simp
      · split <;> simp

@[simp] theorem State.moveLag_cmd (s : State) (fi k : Nat) : (s.moveLag fi k).cmd = s.cmd := by
  rw [State.moveLag]
  split
  · rfl
  · split <;> simp

@[simp] theorem State.restoreOne_cmd (s : State) (f : Eng) (fi k : Nat) : (s.restoreOne f fi k).cmd = s.cmd := by
  rw [State.restoreOne]
  split
  · rfl
  · dsimp only
    split
    · simp
    · split
      · split <;> simp
      · simp

@[simp] theorem State.restoreWaiting_cmd (s : State) : s.restoreWaiting.cmd = s.cmd :=
  State.foldl_cmd (fun s _ => State.restoreOne_cmd s _ _ _) _ _

/-! ### The interrupt controller in a restart (19 R461) -/

@[simp] theorem State.setSrc_cmd (s : State) (n : Nat) (x : Source) : (s.setSrc n x).cmd = s.cmd := rfl

@[simp] theorem State.deliverZenith_cmd (s : State) : s.deliverZenith.cmd = s.cmd := by
  refine State.foldl_cmd (fun s e => ?_) _ _
  split <;> rfl

@[simp] theorem State.icuRecovered_cmd (s : State) : s.icuRecovered.cmd = s.cmd := State.deliverZenith_cmd _

@[simp] theorem State.icuRestart_cmd (s : State) : s.icuRestart.cmd = s.cmd :=
  State.foldl_cmd (fun s n => State.setSrc_cmd s n _) _ _

/-! ### What Zenith's supervision does to queues and accepted commands (02 R56 to R58) -/

theorem AnswerOnly.refl (s : State) : AnswerOnly s s := .of_cmd rfl

theorem AnswerOnly.foldl {α : Type} {f : State → α → State} (h : ∀ s x, AnswerOnly s (f s x)) (l : List α) (s : State) :
    AnswerOnly s (l.foldl f s) := by
  induction l generalizing s with
  | nil => exact .refl s
  | cons x l ih => exact (h s x).trans (ih _)

/-- One channel's queue is emptied, its packets answered. -/
def State.answerQueue (status : Nat) (s : State) (e : Nat × Channel) : State :=
  e.2.queue.foldl (fun s q => s.reply q.cmd status 0) (s.setChan e.1 { s.chan e.1 with queue := [] })

theorem State.answerQueues_eq (s : State) (status : Nat) :
    s.answerQueues status = s.cmd.channels.foldl (State.answerQueue status) s := rfl

theorem State.setChan_answered (s : State) (n : Nat) (c : Channel) : CmdAnswered s (s.setChan n c) := rfl

/-- The packets of the queue are answered after the queue is empty. -/
theorem State.answerQueue_answerOnly (status : Nat) (s : State) (e : Nat × Channel) :
    AnswerOnly (s.setChan e.1 { s.chan e.1 with queue := [] }) (State.answerQueue status s e) :=
  AnswerOnly.foldl (fun s (q : Queued) => State.answer_answerOnly s q.cmd false status 0 []) _ _

/-- Queues emptied one after another: those that held a packet at the start are all among the channels' entries. -/
theorem foldl_answerQueue (status : Nat) (l : List (Nat × Channel)) (s : State) :
    CmdAnswered s (l.foldl (State.answerQueue status) s) ∧
      ∀ n, n ∈ l.map Prod.fst ∨ (s.chan n).queue = [] → ((l.foldl (State.answerQueue status) s).chan n).queue = [] := by
  induction l generalizing s with
  | nil => exact ⟨.of_cmd rfl, fun n h => h.resolve_left List.not_mem_nil⟩
  | cons e l ih =>
    obtain ⟨hc, hq⟩ := State.answerQueue_answerOnly status s e
    obtain ⟨hc', hq'⟩ := ih (State.answerQueue status s e)
    refine ⟨((State.setChan_answered s _ _).trans hc).trans hc', fun n hn => hq' n ?_⟩
    by_cases hne : n = e.1
    · right
      rw [hq, hne, State.chan_setChan_self]
    · rw [hq, State.chan_setChan_other hne]
      simpa [hne] using hn

/-- A channel without an entry has its initial record: its queue is empty. -/
theorem State.queue_of_no_entry {s : State} {n : Nat} (h : n ∉ s.cmd.channels.map Prod.fst) : (s.chan n).queue = [] := by
  have hg : Tab.get s.cmd.channels n = none := by
    refine Option.eq_none_iff_forall_not_mem.mpr fun ch hch => h ?_
    exact List.mem_map.mpr ⟨_, Tab.get_mem hch, rfl⟩
  rw [State.chan, Tab.getD, hg]
  rfl

theorem State.answerQueues_answered (s : State) (status : Nat) : CmdAnswered s (s.answerQueues status) :=
  (foldl_answerQueue status s.cmd.channels s).1

/-- Every queue is empty once the queues are answered (02 R57, R58). -/
theorem State.answerQueues_queue (s : State) (status n : Nat) : ((s.answerQueues status).chan n).queue = [] := by
  refine (foldl_answerQueue status s.cmd.channels s).2 n ?_
  by_cases h : n ∈ s.cmd.channels.map Prod.fst
  · exact .inl h
  · exact .inr (State.queue_of_no_entry h)

@[simp] theorem State.cancelWait_cmd (s : State) (a : Accepted) : (s.cancelWait a).cmd = s.cmd := by
  rw [State.cancelWait]
  split <;> rfl

/-- The commands that end are answered; of the others, nothing changes (02 R57, R58). -/
theorem State.endCommands_answerOnly (s : State) (lost : Bool) :
    AnswerOnly { s with cmd.accepted := s.cmd.accepted.filter (fun a => !lost && a.committed) } (s.endCommands lost) := by
  refine AnswerOnly.foldl (fun s a => ?_) _ _
  have h : AnswerOnly s (if a.committed then s else s.cancelWait a) := by
    split
    · exact .refl s
    · exact .of_cmd (State.cancelWait_cmd s a)
  dsimp only
  split
  · exact h.trans (State.answer_answerOnly ..)
  · exact h.trans (State.answer_answerOnly ..)

/-- What the answers of a restart or a loss leave: every queue is empty and the commands named have ended. -/
theorem State.answerQueues_endCommands_spec (s : State) (status : Nat) (lost : Bool) :
    let t := (s.answerQueues status).endCommands lost
    t.cmd.mgmt = s.cmd.mgmt ∧ t.cmd.restarts = s.cmd.restarts ∧ t.cmd.expiries = s.cmd.expiries ∧
      (∀ n, (t.chan n).queue = []) ∧ t.cmd.accepted = s.cmd.accepted.filter (fun a => !lost && a.committed) := by
  have hq := State.answerQueues_answered s status
  obtain ⟨he, hn⟩ := State.endCommands_answerOnly (s.answerQueues status) lost
  refine ⟨he.mgmt_eq.trans hq.mgmt_eq, he.restarts_eq.trans hq.restarts_eq, he.expiries_eq.trans hq.expiries_eq,
    fun n => (hn n).trans (State.answerQueues_queue s status n), he.accepted_eq.trans ?_⟩
  rw [← hq.accepted_eq]

/-- Zenith enters RESTARTING: queues empty, and of the accepted commands only those past their commit point stay (02 R56, R57). -/
theorem State.zenithRestart_spec (s : State) :
    s.zenithRestart.cmd.mgmt = .restarting ∧ s.zenithRestart.cmd.restarts = inc32 s.cmd.restarts ∧
      s.zenithRestart.cmd.expiries = s.cmd.expiries ∧ (∀ n, (s.zenithRestart.chan n).queue = []) ∧
      s.zenithRestart.cmd.accepted = s.cmd.accepted.filter (·.committed) := by
  have h := State.answerQueues_endCommands_spec { s with cmd.mgmt := .restarting, cmd.restarts := inc32 s.cmd.restarts } stRestarting false
  simpa only [State.zenithRestart, State.icuRestart_cmd, State.chan, Bool.not_false, Bool.true_and] using h

/-- Zenith is lost: queues empty and no accepted command left (02 R56, R58). -/
theorem State.managementLost_spec (s : State) :
    s.managementLost.cmd.mgmt = .lost ∧ (∀ n, (s.managementLost.chan n).queue = []) ∧ s.managementLost.cmd.accepted = [] := by
  obtain ⟨hm, -, -, hq, ha⟩ := State.answerQueues_endCommands_spec { s with cmd.mgmt := .lost } stManagementLost true
  have hc : s.managementLost.cmd =
      (({ s with cmd.mgmt := .lost }.answerQueues stManagementLost).endCommands true).cmd := by
    simp [State.managementLost]
  refine ⟨by rw [hc, hm], fun n => ?_, by rw [hc, ha]; simp⟩
  rw [State.chan_congr (congrArg _ hc)]
  exact hq n

/-! ### RESET and the watchdog (02 R56, R60) -/

/-- The expiries of the last 60 s before this one (02 R56). -/
def State.recentExpiries (s : State) : List Nat :=
  s.cmd.expiries.filter (fun x => decide (tDiff s.tb3 x < 60000000000 * 2 ^ 40))

theorem State.filter_tbMinute (s : State) :
    s.cmd.expiries.filter (fun x => decide (tDiff s.tb3 x < (tbMinute : Int))) = s.recentExpiries := by
  have h : (tbMinute : Int) = 60000000000 * 2 ^ 40 := by simp [tbMinute]
  rw [h, State.recentExpiries]

/-- The expiry is remembered and counted (02 R56). -/
def State.expired (s : State) : State := { s with cmd.expiries := s.recentExpiries ++ [s.tb3] }.bump 0x005

/-- An expiry in RUNNING that is not the third within 60 s restarts Zenith. -/
theorem State.watchdog_of_running {s : State} (core : Nat) (hm : s.cmd.mgmt = .running) (hr : s.recentExpiries.length < 2) :
    s.watchdog core = (s.expired.post 0x0102 (le 1 core ++ s.expired.runningList)).zenithRestart := by
  have h3 : ¬ (s.recentExpiries ++ [s.tb3]).length ≥ 3 := by
    rw [List.length_append, List.length_singleton]
    omega
  simp only [State.watchdog, State.filter_tbMinute, State.bump_cmd, hm, if_neg h3, State.expired]

/-- The third expiry within 60 s, or one while RESTARTING, loses Zenith. -/
theorem State.watchdog_of_lost {s : State} (core : Nat)
    (h : s.cmd.mgmt = .running ∧ s.recentExpiries.length ≥ 2 ∨ s.cmd.mgmt = .restarting) :
    s.watchdog core = (s.expired.post 0x0104 (le 1 (s.recentExpiries ++ [s.tb3]).length)).managementLost := by
  obtain ⟨hm, hr⟩ | hm := h
  · have h3 : (s.recentExpiries ++ [s.tb3]).length ≥ 3 := by
      rw [List.length_append, List.length_singleton]
      omega
    simp only [State.watchdog, State.filter_tbMinute, State.bump_cmd, hm, if_pos h3, State.expired]
  · simp only [State.watchdog, State.filter_tbMinute, State.bump_cmd, hm, State.expired]

theorem execWatchdogExpiry_of_ready {dt core : Nat} {s : State} (hr : s.boot.phase = .ready) (hc : core < 4) :
    execWatchdogExpiry dt core s = .next ((s.advance dt).watchdog core) := by
  simp [execWatchdogExpiry, hr, hc]

/-- Neither the standby nor the backup manager is told of a system command (12 R311, 13 R337). -/
theorem Card.told_of_system {k : Card} {s t : State} {c : Cmd} (h : c.opcode / 256 = 1) : k.told s t c = t := by
  have h9 : c.opcode ≠ 0x0902 := by
    intro h9
    rw [h9] at h
    contradiction
  simp [Card.told, State.mirror, State.backupCmd, h, h9]

/-- A card whose own part answers OK: the partner is told, then the reply leaves. -/
theorem Card.finish_of_ok {k : Card} {s t : State} {c : Cmd} {d : Bytes} (h : k.run (s.under c) c = .ok t d) :
    k.finish s c = (k.told s t.after c).reply c stOk 0 d := by
  simp only [State.under] at h
  simp only [Card.finish, h]
  rfl

theorem State.moduleState_under (s : State) (c : Cmd) : (s.under c).moduleState = s.moduleState := rfl

/-- The reply OK of `d` has left, and what `d` starts is to begin (02 R60, R61). -/
def State.acting (s : State) (d : Cmd) : State := { s with cmd.after := some d }.after.reply d stOk 0

theorem State.acting_answered (s : State) (d : Cmd) : CmdAnswered { s with cmd.after := some d } (s.acting d) := by
  rw [State.acting, State.reply]
  exact (CmdAnswered.of_cmd (State.after_cmd _)).trans (State.answer_answerOnly ..).1

@[simp] theorem State.acting_after (s : State) (d : Cmd) : (s.acting d).cmd.after = some d := (s.acting_answered d).after_eq

@[simp] theorem State.acting_restarts (s : State) (d : Cmd) : (s.acting d).cmd.restarts = s.cmd.restarts :=
  (s.acting_answered d).restarts_eq

@[simp] theorem State.acting_accepted (s : State) (d : Cmd) : (s.acting d).cmd.accepted = s.cmd.accepted :=
  (s.acting_answered d).accepted_eq

/-- RESET is refused only where type MODULE meets a module that protects, without FORCE; else it replies OK and acts then
(02 R60). -/
theorem execReset_of_passes {dt : Nat} {c : Cmd} {s : State}
    (hp : cardReset.passes (s.advance dt) (cardReset.cmd c) = true)
    (h : byteAt c.params 0 = 2 → bit (byteAt c.params 1) 0 = true ∨ (s.advance dt).moduleState ≠ 2) :
    execReset dt c s = .next ((s.advance dt).acting (cardReset.cmd c)).afterReply := by
  have hrun : cardReset.run ((s.advance dt).under (cardReset.cmd c)) (cardReset.cmd c) =
      .ok { (s.advance dt).under (cardReset.cmd c) with cmd.after := some (cardReset.cmd c) } [] := by
    refine if_neg fun hw => ?_
    rw [State.moduleState_under] at hw
    simp only [Card.cmd, Bool.and_eq_true, beq_iff_eq, Bool.not_eq_true'] at hw
    obtain ⟨⟨h2, hf⟩, hs⟩ := hw
    obtain hb | hn := h h2
    · rw [hb] at hf
      cases hf
    · exact hn hs
  rw [execReset, runAfter_of_runCard (runCard_of_passes hp), Card.finish_of_ok hrun, Card.told_of_system (show 0x0103 / 256 = 1 by decide)]
  rfl

/-- A ZENITH reset begins once its reply has left; the core it names is a free value. -/
theorem State.afterReply_of_zenith {s : State} {c : Cmd} (h : s.cmd.after = some c) (ho : c.opcode ≠ 0x0107)
    (ht : byteAt c.params 0 ≠ 2) : s.afterReply =
      ({ s with cmd.after := none, free := s.free + 1 }.post 0x0103
        (le 1 ((Config.freeNat s.free).toNat % 2 ^ 2) ++ { s with cmd.after := none }.runningList)).zenithRestart := by
  simp only [State.afterReply, h, if_neg ho, if_neg ht]
  rfl

/-- Settles O8: the expiry and the reset each come down to `zenithRestart` or `managementLost`. -/
theorem zenithRestartAnswers : Obligations.ZenithRestartAnswers := by
  refine ⟨?_, ?_, ?_, ?_, ?_⟩
  · intro dt c s s1 d hp _ ht
    have hx := execReset_of_passes hp (fun h2 => by rw [ht] at h2; cases h2)
    rw [State.afterReply_of_zenith (State.acting_after _ (cardReset.cmd c)) (show 0x0103 ≠ 0x0107 by decide)
      (show byteAt c.params 0 ≠ 2 by rw [ht]; decide)] at hx
    obtain ⟨hmgmt, hrestarts, -, hqueue, haccepted⟩ := State.zenithRestart_spec _
    refine ⟨_, hx, hmgmt, ?_, hqueue, ?_⟩
    · rw [hrestarts]
      simp
    · rw [haccepted]
      simp
  · intro dt core s s1 recent hr hc hm hlen
    have hrec : s1.recentExpiries = recent := by simp [State.recentExpiries, recent, s1]
    have hx := execWatchdogExpiry_of_ready (dt := dt) hr hc
    rw [State.watchdog_of_running core (by simpa using hm) (hrec ▸ hlen)] at hx
    obtain ⟨hmgmt, hrestarts, hexp, hqueue, haccepted⟩ := State.zenithRestart_spec _
    refine ⟨_, hx, hmgmt, ?_, ?_, hqueue, ?_⟩
    · rw [hrestarts]
      simp [State.expired]
    · rw [hexp, ← hrec]
      simp [State.expired, s1]
    · rw [haccepted]
      simp [State.expired]
  · intro dt core s s1 recent hr hc h
    have hrec : s1.recentExpiries = recent := by simp [State.recentExpiries, recent, s1]
    have hx := execWatchdogExpiry_of_ready (dt := dt) hr hc
    rw [State.watchdog_of_lost core (by rw [hrec, State.advance_cmd]; exact h)] at hx
    exact ⟨_, hx, State.managementLost_spec _⟩
  · intro dt s hm
    refine ⟨_, if_neg ?_, ?_⟩
    · simp [hm]
    · simp
  · intro dt s hm
    exact if_pos (by simpa using hm)

end Sys2Proof.Machine

/-! SUPPORT. The system and firmware commands (02 R59 to R61, 23 R522 to R525). -/
namespace Sys2Proof.Machine
open Sys2Proof

/-! ### The results of the reads -/

theorem le_one_boolNat (b : Bool) : le 1 (boolNat b) = [if b then 1 else 0] := by
  cases b <;> rfl

/-- STATE_A and STATE_B of GET_FIRMWARE_INFO: 0 EMPTY, 1 VALID, 2 INVALID. -/
theorem le_one_slotState (empty valid : Bool) : le 1 (if empty then 0 else if valid then 1 else 2) =
    [if empty then 0 else if valid then 1 else 2] := by
  cases empty <;> cases valid <;> rfl

theorem bitsNat_four (a b c d : Bool) :
    bitsNat [a, b, c, d] = boolNat a + 2 * boolNat b + 4 * boolNat c + 8 * boolNat d := by
  simp only [bitsNat]
  omega

/-! ### SET_CHANNEL and RESET of type MODULE act once their reply has left (02 R60, R61) -/

theorem execSetChannel_of_passes {dt : Nat} {c : Cmd} {s : State}
    (hp : cardSetChannel.passes (s.advance dt) (cardSetChannel.cmd c) = true)
    (h : byteAt c.params 0 = 1 → (s.advance dt).linkPort (u16 c.params 4) = false) :
    execSetChannel dt c s = .next ((s.advance dt).acting (cardSetChannel.cmd c)).afterReply := by
  have hrun : cardSetChannel.run ((s.advance dt).under (cardSetChannel.cmd c)) (cardSetChannel.cmd c) =
      .ok { (s.advance dt).under (cardSetChannel.cmd c) with cmd.after := some (cardSetChannel.cmd c) } [] := by
    refine if_neg fun ⟨h1, hl⟩ => ?_
    have hl' : (s.advance dt).linkPort (u16 c.params 4) = true := hl
    rw [h h1] at hl'
    cases hl'
  rw [execSetChannel, runAfter_of_runCard (runCard_of_passes hp), Card.finish_of_ok hrun,
    Card.told_of_system (show 0x0107 / 256 = 1 by decide)]
  rfl

theorem State.afterReply_of_module {s : State} {c : Cmd} (h : s.cmd.after = some c) (ho : c.opcode ≠ 0x0107)
    (ht : byteAt c.params 0 = 2) : s.afterReply = { s with cmd.after := none }.moduleReset c := by
  simp only [State.afterReply, h, if_neg ho, if_pos ht]

theorem State.afterReply_of_setChannel {s : State} {c : Cmd} (h : s.cmd.after = some c) (ho : c.opcode = 0x0107) :
    s.afterReply = { s with cmd.after := none }.applyChannel c := by
  simp only [State.afterReply, h, if_pos ho]

/-! ### WRITE_FIRMWARE (23 R522) -/

/-- A card's row is accepted from the states in which a command passes its checks: the module is command-ready there. -/
theorem Card.Accepts.of_ready {k : Card} {f : Nat → Cmd → Instr} {pre : State → Cmd → Prop} {eff : State → Cmd → State}
    {wait : State → Cmd → Wait} {committed : Bool} {result : State → Cmd → Option (Nat × Nat × Bytes)}
    (h : k.Accepts f (fun s c => pre s c ∧ s.boot.phase = .ready) eff wait committed result) :
    k.Accepts f pre eff wait committed result := by
  intro dt c s hp h2
  refine h dt c s hp ⟨h2, ?_⟩
  simp only [Card.passes, Bool.and_eq_true, beq_iff_eq] at hp
  exact hp.1.1.1.2

/-- The container slot that WRITE_FIRMWARE and SELECT_IMAGE name. -/
def imageOf (c : Cmd) : Bool := byteAt c.params 0 == 1

/-- The state once the chunk of WRITE_FIRMWARE is stored. -/
def State.chunkStored (s : State) (c : Cmd) : State :=
  s.storeChunk (imageOf c) (u32 c.params 8) (u32 c.params 4) (c.params.drop 12)

/-- The slot written, as it then stands. -/
def State.slotStored (s : State) (c : Cmd) : FwSlot := (s.chunkStored c).boot.slot (imageOf c)

/-- The container in it. -/
def State.bytesStored (s : State) (c : Cmd) : Bytes := memReadN (s.slotStored c).chunks 0 (s.slotStored c).total

section
variable {s : State} {c : Cmd}

theorem cardWriteFirmware_run_of_running (h : s.runs (imageOf c) = true) : cardWriteFirmware.run s c = .wrong 0x10 := if_pos h

theorem cardWriteFirmware_run_of_warning (h : s.runs (imageOf c) = false) (hw : s.power.supply = .warning) :
    cardWriteFirmware.run s c = .wrong 0x13 := by
  refine (if_neg ?_).trans (if_pos hw)
  exact Bool.not_eq_true _ ▸ h

variable (h : s.runs (imageOf c) = false) (hw : s.power.supply ≠ .warning)
include h hw

theorem cardWriteFirmware_run_of_writing (hb : (s.slotStored c).writing = true) :
    cardWriteFirmware.run s c = .ok (s.chunkStored c) [] :=
  (if_neg (Bool.eq_false_iff.mp h)).trans ((if_neg hw).trans (if_pos hb))

section
variable (hb : (s.slotStored c).writing = false)
include hb

/-- A complete container that is valid makes its slot VALID. -/
theorem cardWriteFirmware_run_of_valid (hv : fwVerdict (s.bytesStored c) = 0) : cardWriteFirmware.run s c =
    .accepted ({ s.chunkStored c with boot := (s.chunkStored c).boot.setSlot (imageOf c) { s.slotStored c with
      valid := true, version := u32 (s.bytesStored c) 4, level := byteAt (s.bytesStored c) 8 } }.bump 0x010)
      .firmware true (some (stOk, 0, [])) := by
  refine (if_neg (Bool.eq_false_iff.mp h)).trans ((if_neg hw).trans ((if_neg (Bool.eq_false_iff.mp hb)).trans ?_))
  dsimp only
  split
  · rfl
  · next h1 => exact absurd (hv.symm.trans h1) (by decide)
  · next h0 _ => exact absurd hv h0

theorem cardWriteFirmware_run_of_failed (hv : fwVerdict (s.bytesStored c) = 1) :
    cardWriteFirmware.run s c = .accepted (s.chunkStored c) .firmware true (some (stIntegrity, 2, [])) := by
  refine (if_neg (Bool.eq_false_iff.mp h)).trans ((if_neg hw).trans ((if_neg (Bool.eq_false_iff.mp hb)).trans ?_))
  dsimp only
  split
  · next h0 => exact absurd (hv.symm.trans h0) (by decide)
  · rfl
  · next h1 => exact absurd hv h1

theorem cardWriteFirmware_run_of_rom (hv : 2 ≤ fwVerdict (s.bytesStored c)) : cardWriteFirmware.run s c =
    .accepted (s.chunkStored c) .firmware true (some (stVersionLevel, (s.chunkStored c).level, [])) := by
  refine (if_neg (Bool.eq_false_iff.mp h)).trans ((if_neg hw).trans ((if_neg (Bool.eq_false_iff.mp hb)).trans ?_))
  dsimp only
  split
  · next h0 => exact absurd (h0 ▸ hv : 2 ≤ 0) (by decide)
  · next h1 => exact absurd (h1 ▸ hv : 2 ≤ 1) (by decide)
  · rfl

end
end

/-! The slot that runs is not the slot written: its protocol level stays as it is. -/

theorem State.level_eq (s : State) : s.level = (s.boot.slot s.boot.running).level := by
  rw [State.level, BootState.slot]
  split <;> rfl

theorem BootState.slot_setSlot_self (b : BootState) (x : Bool) (f : FwSlot) : (b.setSlot x f).slot x = f := by
  cases x <;> rfl

theorem BootState.slot_setSlot_not (b : BootState) (x : Bool) (f : FwSlot) : (b.setSlot x f).slot (!x) = b.slot (!x) := by
  cases x <;> rfl

@[simp] theorem BootState.setSlot_running (b : BootState) (x : Bool) (f : FwSlot) : (b.setSlot x f).running = b.running := by
  cases x <;> rfl

@[simp] theorem BootState.setRecord_slot (b : BootState) (r : BootRecord) (x : Bool) : (b.setRecord r).slot x = b.slot x := by
  rw [BootState.setRecord]
  split <;> rfl

@[simp] theorem BootState.setRecord_running (b : BootState) (r : BootRecord) : (b.setRecord r).running = b.running := by
  rw [BootState.setRecord]
  split <;> rfl

theorem FwSlot.abandon_level (f : FwSlot) : f.abandon.level = f.level := by
  rw [FwSlot.abandon]
  split <;> rfl

theorem State.storeChunk_level {s : State} {x : Bool} (hx : s.boot.running = !x) (total off : Nat) (d : Bytes) :
    (s.storeChunk x total off d).level = s.level := by
  have hrun : (s.storeChunk x total off d).boot.running = !x := by
    simp only [State.storeChunk, BootState.setSlot_running]
    split
    · simpa using hx
    · split <;> simpa using hx
  have hslot : (s.boot.setSlot (!x) (s.boot.slot (!x)).abandon).slot (!x) = (s.boot.slot (!x)).abandon :=
    BootState.slot_setSlot_self _ _ _
  rw [State.level_eq, State.level_eq, hrun, hx, ← FwSlot.abandon_level (s.boot.slot (!x)), ← hslot]
  simp only [State.storeChunk, BootState.slot_setSlot_not]
  split
  · rfl
  · split
    · rw [BootState.setRecord_slot, BootState.slot_setSlot_not]
    · rw [BootState.slot_setSlot_not]

/-- Settles O7: each command by what its card's own part answers; the rules of `Laws/Card` make it the row's. -/
theorem systemCommandsComplete : Obligations.SystemCommandsComplete := by
  refine ⟨⟨?_, ?_, ?_, ?_, ?_, ?_, ?_⟩, ⟨?_, ?_, ?_, ?_, ?_, ?_, ?_, ?_⟩, ?_, ?_, ?_⟩
  -- GET_IDENTITY, GET_STATUS, GET_FIRMWARE_INFO, ECHO and GET_ZENITH_LOAD.
  · exact Card.reads_of (fun _ _ _ => rfl) rfl (fun _ _ _ => ⟨trivial, rfl⟩) (fun _ _ _ => rfl)
  · exact Card.completes_of (fun _ _ _ => rfl) (fun _ _ _ => trivial) (fun _ _ _ => rfl)
  · refine Card.reads_of (fun _ _ _ => rfl) rfl (fun _ _ _ => ⟨trivial, rfl⟩) (fun s _ _ => ?_)
    simp only [cardGetFirmwareInfo, le_one_boolNat, le_one_slotState]
    rfl
  · exact Card.reads_of (fun _ _ _ => rfl) rfl (fun _ _ _ => ⟨trivial, rfl⟩) (fun _ _ _ => rfl)
  · refine Card.reads_of (fun _ _ _ => rfl) rfl (fun _ _ _ => ⟨trivial, rfl⟩) (fun s _ _ => ?_)
    simp only [cardGetZenithLoad, le_one_boolNat]
    rfl
  -- RESET of type MODULE and SET_CHANNEL.
  · intro dt c s s1 d hp ht hf
    refine (execReset_of_passes hp fun _ => hf).trans ?_
    rw [State.afterReply_of_module (State.acting_after _ (cardReset.cmd c)) (show 0x0103 ≠ 0x0107 by decide) ht]
    rfl
  · intro dt c s s1 d hp hl
    refine (execSetChannel_of_passes hp hl).trans ?_
    rw [State.afterReply_of_setChannel (State.acting_after _ (cardSetChannel.cmd c)) rfl]
    rfl
  -- WRITE_FIRMWARE.
  · exact Card.completes_of (fun _ _ _ => rfl) (fun _ _ h => h)
      (fun _ _ ⟨⟨hr, hw⟩, hb⟩ => cardWriteFirmware_run_of_writing hr hw hb)
  · exact Card.accepts_of (fun _ _ _ => rfl) (fun _ _ h => h)
      (fun _ _ ⟨⟨hr, hw⟩, hb, hv⟩ => cardWriteFirmware_run_of_valid hr hw hb hv)
  · exact Card.accepts_of (fun _ _ _ => rfl) (fun _ _ h => h)
      (fun _ _ ⟨⟨hr, hw⟩, hb, hv⟩ => cardWriteFirmware_run_of_failed hr hw hb hv)
  · refine Card.Accepts.of_ready (Card.accepts_of (fun _ _ _ => rfl) (fun _ _ h => h) ?_)
    intro s c ⟨⟨⟨hr, hw⟩, hb, hv⟩, hready⟩
    have hx : s.boot.running = !imageOf c := by
      simpa [State.runs, hready, Bool.eq_not, imageOf] using hr
    rw [cardWriteFirmware_run_of_rom hr hw hb hv, State.chunkStored, State.storeChunk_level hx]
    rfl
  · exact Card.refuses_of (fun _ _ _ => rfl) (fun _ _ h => ⟨h, rfl⟩) (fun _ _ h => cardWriteFirmware_run_of_running h)
  · exact Card.refuses_of (fun _ _ _ => rfl) (fun _ _ h => ⟨h, rfl⟩)
      (fun _ _ ⟨hr, hw⟩ => cardWriteFirmware_run_of_warning hr hw)
  -- SELECT_IMAGE.
  · exact Card.completes_of (fun _ _ _ => rfl) (fun _ _ h => h) (fun _ _ h => if_neg (by simp [h]))
  · exact Card.refuses_of (fun _ _ _ => rfl) (fun _ _ h => ⟨h, rfl⟩) (fun _ _ h => if_pos (by simp [h]))
  -- CONFIRM_IMAGE.
  · exact Card.completes_of (fun _ _ _ => rfl) (fun _ _ h => h) (fun _ _ ⟨ht, hr⟩ => if_pos (by simp [ht, hr]))
  · refine Card.refuses_of (fun _ _ _ => rfl) (fun _ _ h => ⟨h, rfl⟩) (fun s c h => if_neg ?_)
    obtain ht | hr := h
    · simp [ht]
    · simp [hr]
  -- GET_BOOT_REPORT.
  · refine Card.reads_of (fun _ _ _ => rfl) rfl (fun _ _ _ => ⟨trivial, rfl⟩) (fun s _ _ => ?_)
    simp only [cardGetBootReport, bitsNat_four]

end Sys2Proof.Machine

/-! SUPPORT. The placement commands (03 R62 to R95): what each card's own part answers. -/
namespace Sys2Proof.Machine
open Sys2Proof

/-! ### The refusals common to the commands that change placement (03 R94, 08 R222) -/

/-- Placement takes the command: it is on no WORKER's own channel, no PLACE is pending and no on-line change is open. -/
def State.PlacementOpen (s : State) (c : Cmd) : Prop :=
  (s.boot.role ≠ 2 ∨ 65 < c.chan) ∧ s.place.placing = false ∧ s.prog.change.st = .none

section
variable {s : State} {c : Cmd}

theorem State.not_workersOwn (h : s.boot.role ≠ 2 ∨ 65 < c.chan) : ¬ (s.boot.role = 2 && c.own) = true := by
  obtain hr | hc := h
  · simp [hr]
  · simp [Cmd.own, hc]

theorem State.placementShut_of_open (h : s.PlacementOpen c) : s.placementShut c = none := by
  obtain ⟨hw, hp, hc⟩ := h
  rw [State.placementShut, if_neg (State.not_workersOwn hw), if_neg (by simp [hp]), if_neg (by simp [hc])]

theorem State.placementShut_of_placing (hw : s.boot.role ≠ 2 ∨ 65 < c.chan) (hp : s.place.placing = true) :
    s.placementShut c = some (.wrong 3) := by
  rw [State.placementShut, if_neg (State.not_workersOwn hw), if_pos hp]

/-! ### DECLARE_INSTANCE -/

/-- The instance that DECLARE_INSTANCE creates: DECLARED, with the fields of the packet and the next declaration number. -/
def State.declaredInst (s : State) (c : Cmd) : Inst where
  owner := c.inst
  cls := byteAt c.params 2
  cycle := byteAt c.params 3
  phaseDecl := byteAt c.params 4
  kind := byteAt c.params 5
  shedPrio := u16 c.params 6
  image := u32 c.params 8
  wcic := u32 c.params 0x0C
  codeBytes := u32 c.params 0x10
  dataBytes := u32 c.params 0x14
  imageBytes := u32 c.params 0x18
  nodeMask := u32 c.params 0x1C
  channels := declChannels c.params
  declNo := s.place.nextDecl

theorem declareRun_of_declared (h : s.PlacementOpen c) (hd : (s.inst (u16 c.params 0)).isSome = true) :
    declareRun s c = .wrong 1 := by
  rw [declareRun, State.placementShut_of_open h]
  exact if_pos hd

/-- The memory of one engine of KIND `k` that instances may hold (03 R64). -/
theorem userBytes_kind (k : Nat) : userBytes (k == 1) = if k = 1 then 30720 else 155648 := by
  simp [userBytes]

/-- DECLARE_INSTANCE on a module that is no manager, once nothing it judges is at fault. -/
theorem declareRun_of_admitted (h : s.PlacementOpen c) (hr : s.boot.role ≠ 1) (hd : s.inst (u16 c.params 0) = none)
    (hch : ∀ ch ∈ declChannels c.params, s.ingest.chanOf.has ch = true) (him : (s.image (u32 c.params 8)).isSome = true)
    (hdiff : declareDiffers c.params (s.imageD (u32 c.params 8)) = none)
    (hw : u32 c.params 0x0C ≤ wcicLimit (byteAt c.params 5 == 1) s.place.point (byteAt c.params 3))
    (hm : u32 c.params 0x10 + u32 c.params 0x14 + u32 c.params 0x18 ≤ userBytes (byteAt c.params 5 == 1)) :
    declareRun s c = .ok { s.setInst (u16 c.params 0) (s.declaredInst c) with place.nextDecl := s.place.nextDecl + 1 }
      (le 4 s.place.nextDecl) := by
  have hfree : ¬ (s.inst (u16 c.params 0)).isSome = true := by simp [hd]
  have hdefined : ¬ (s.boot.role != 1 && !(declChannels c.params).all s.ingest.chanOf.has) = true := by
    rw [List.all_eq_true.mpr hch]
    simp
  have hloaded : ¬ (s.image (u32 c.params 8)).isNone = true := by simpa [Option.isSome_iff_ne_none] using him
  have hmask : ¬ (s.boot.role = 1 && !s.maskHolds (u32 c.params 0x1C) (u32 c.params 8)) = true := by simp [hr]
  simp only [declareRun, State.placementShut_of_open h, if_neg hfree, if_neg hdefined, if_neg hloaded, if_neg hmask, hdiff]
  exact (if_neg (Nat.not_lt.mpr hw)).trans (if_neg (Nat.not_lt.mpr hm))

/-! ### REMOVE_INSTANCE -/

theorem cardRemoveInstance_run_of_running {x : Inst} (h : s.PlacementOpen c) (hx : s.inst (u16 c.params 0) = some x)
    (hrun : x.isRunning = true) : cardRemoveInstance.run s c = .wrong 4 := by
  simp only [cardRemoveInstance, State.placementShut_of_open h, hx, if_pos hrun]

/-- An instance that no worker holds is removed here. -/
theorem cardRemoveInstance_run_of_here {x : Inst} (h : s.PlacementOpen c) (hx : s.inst (u16 c.params 0) = some x)
    (hrun : x.isRunning = false) (hw : x.place ≠ .assigned) :
    cardRemoveInstance.run s c = .ok (s.removeInst (u16 c.params 0)) [] := by
  simp only [cardRemoveInstance, State.placementShut_of_open h, hx, hrun, if_neg hw, Bool.false_eq_true, if_false]

/-! ### PLACE -/

theorem cardPlace_run_of_placing (hw : s.boot.role ≠ 2 ∨ 65 < c.chan) (hp : s.place.placing = true) :
    cardPlace.run s c = .wrong 3 := by
  simp only [cardPlace, State.placementShut_of_placing hw hp]

/-- On a module that is no manager, PLACE waits to be computed at its completion (03 R87). -/
theorem cardPlace_run_of_open (h : s.PlacementOpen c) (hr : s.boot.role ≠ 1) :
    cardPlace.run s c = .accepted { s with place.placing := true } .place false none := by
  simp only [cardPlace, State.placementShut_of_open h, if_neg hr]

/-! ### SET_PLACEMENT_LIMITS -/

/-- The operating point stays, or no placed instance holds it; and no engine that is to be a spare holds copies. -/
theorem cardSetPlacementLimits_run_of_open (h : s.PlacementOpen c)
    (hpoint : byteAt c.params 0 = s.place.point ∨ ∀ p ∈ s.place.insts, p.2.isPlaced = false)
    (hspare : ∀ e ∈ allEngs false, 12 ≤ e.no → e.no < 16 → 16 - byteAt c.params 1 ≤ e.no →
      (s.eng e).st = .spare ∨ s.copiesOn e = []) :
    cardSetPlacementLimits.run s c =
      .ok ((({ s with place.point := byteAt c.params 0 }).setExtra (byteAt c.params 1)).checkSpares.restoreDegraded) [] := by
  have hkept : ¬ (byteAt c.params 0 != s.place.point && s.place.insts.any (fun p => p.2.isPlaced)) = true := by
    obtain he | hn := hpoint
    · simp [he]
    · simpa using fun _ a b hab => hn (a, b) hab
  have hempty : ¬ (allEngs false).any (fun e => decide (12 ≤ e.no) && decide (e.no < 16) && sparePos (byteAt c.params 1) e.no &&
      (s.eng e).st != .spare && !(s.copiesOn e).isEmpty) = true := by
    simp only [List.any_eq_true, Bool.and_eq_true, decide_eq_true_eq, sparePos]
    rintro ⟨e, he, ⟨⟨⟨⟨hlo, hhi⟩, hpos⟩, hst⟩, hcopies⟩⟩
    obtain hs | hc := hspare e he hlo hhi hpos
    · simp [hs] at hst
    · simp [hc] at hcopies
  simp only [cardSetPlacementLimits, State.placementShut_of_open h, if_neg hkept, if_neg hempty]

end

/-! ### GET_PLACEMENT -/

theorem cardGetPlacement_run_of_declared {s : State} {c : Cmd} {x : Inst} (h : s.inst (u16 c.params 0) = some x) :
    cardGetPlacement.run s c = .ok s (le 2 (u16 c.params 0) ++ le 1 x.place.code ++ le 1 x.cls ++ le 1 x.cycle ++
      le 1 (if x.isPlaced || x.place == .assigned then x.phase else 0xFF) ++ le 1 x.kind ++ le 1 x.node ++ le 4 x.declNo ++
      copyEntry x 1 ++ copyEntry x 2 ++ copyEntry x 3) := by
  simp only [cardGetPlacement, h]

/-- Settles O12: each command by what its card's own part answers; the rules of `Laws/Card` make it the row's. -/
theorem placementCommandsComplete : Obligations.PlacementCommandsComplete := by
  refine ⟨?_, ?_, ?_, ?_, ?_, ?_, ?_, ?_, ?_, ?_, ?_⟩
  -- DECLARE_INSTANCE.
  · refine Card.completes_of (fun _ _ _ => rfl) (fun _ _ h => h) (fun s c ⟨h, hr, hd, hch, him, hdiff, hw, hm⟩ => ?_)
    exact declareRun_of_admitted h hr hd hch him hdiff hw (userBytes_kind _ ▸ hm)
  · exact Card.refuses_of (fun _ _ _ => rfl) (fun _ _ h => ⟨h, rfl⟩) (fun _ _ ⟨h, hd⟩ => declareRun_of_declared h hd)
  -- REMOVE_INSTANCE.
  · refine Card.completes_of (fun _ _ _ => rfl) (fun _ _ h => h) (fun s c ⟨h, x, hx, hrun, hw⟩ => ?_)
    rw [cardRemoveInstance_run_of_here h hx hrun hw, State.removeInst]
    simp only [beq_iff_eq]
  · exact Card.refuses_of (fun _ _ _ => rfl) (fun _ _ h => ⟨h, rfl⟩)
      (fun _ _ ⟨h, _, hx, hrun⟩ => cardRemoveInstance_run_of_running h hx hrun)
  -- PLACE.
  · exact Card.accepts_of (fun _ _ _ => rfl) (fun _ _ h => h) (fun _ _ ⟨h, hr⟩ => cardPlace_run_of_open h hr)
  · exact Card.refuses_of (fun _ _ _ => rfl) (fun _ _ h => ⟨h, rfl⟩) (fun _ _ ⟨hw, hp⟩ => cardPlace_run_of_placing hw hp)
  -- SET_PLACEMENT_LIMITS.
  · exact Card.completes_of (fun _ _ _ => rfl) (fun _ _ h => h)
      (fun _ _ ⟨h, hpoint, hspare⟩ => cardSetPlacementLimits_run_of_open h hpoint hspare)
  -- GET_PLACEMENT, GET_ENGINE, GET_PLACEMENT_LIMITS and GET_CLUSTER.
  · refine Card.reads_of (fun _ _ _ => rfl) rfl (fun _ _ h => ⟨h, rfl⟩) (fun s c h => ?_)
    obtain ⟨x, hx⟩ := Option.isSome_iff_exists.mp h
    rw [cardGetPlacement_run_of_declared hx, hx]
    rfl
  · exact Card.reads_of (fun _ _ _ => rfl) rfl (fun _ _ _ => ⟨trivial, rfl⟩) (fun _ _ _ => rfl)
  · exact Card.reads_of (fun _ _ _ => rfl) rfl (fun _ _ _ => ⟨trivial, rfl⟩) (fun _ _ _ => rfl)
  · exact Card.reads_of (fun _ _ _ => rfl) rfl (fun _ _ _ => ⟨trivial, rfl⟩) (fun _ _ _ => rfl)

end Sys2Proof.Machine

/-! SUPPORT. Sampled values (04 R98 to R106): a frame through the checks of ingest, the position it meets, and how slots close. -/
namespace Sys2Proof.Machine
open Sys2Proof

/-! ### Ingest's part of the state does not depend on the time -/

@[simp] theorem State.advance_stream (s : State) (dt n : Nat) : (s.advance dt).stream n = s.stream n := by
  simp [State.stream]

/-! ### Rings and recorders (10 R258) -/

/-- The rings take a position's entries by the stream's definition, whatever its state. -/
theorem State.fileRings_congr {x y : Stream} (h : x.cfg = y.cfg) (s : State) (p : Nat) (es : List (Int × Nat)) :
    s.fileRings x p es = s.fileRings y p es := by
  rw [State.fileRings, State.fileRings, h]

section
variable {s : State} (hr : s.cap.recs = [])
include hr

theorem State.capWants_of_no_recorder (x : Stream) : s.capWants x = false := by
  rw [State.capWants, hr, List.any_nil]

theorem State.capLate_of_no_recorder (x : Stream) (p : Nat) (es : List (Int × Nat)) (ta : Nat) :
    s.capLate x p es ta = (x, s) := by
  simp only [State.capLate, hr, List.filter_nil, List.any_nil, List.foldl_nil, Bool.false_eq_true, if_false]

end

/-! ### One position meets its slot (R103) -/

/-- The entries a sample leaves in its slot: the SQW bits of its synchronisation, and of holdover, beside its quality. -/
def State.stamped (s : State) (c : Carried) : List (Int × Nat) :=
  c.entries.map (fun v => (v.1, v.2 ||| c.sync ||| (if s.horizon.ptSt = .holdover then 2 ^ 14 else 0)))

/-- The stream with entries filed at position `m`, and their margin to its cutoff. -/
def Stream.fileAt (x : Stream) (m ta : Nat) (es : List (Int × Nat)) : Stream :=
  { x with
    slots := x.slots.put m { filed := some es }
    margins := (ta, (x.cutoff m : Int) - (ta : Nat)) :: x.margins.filter (fun g => decide (g.1 + 589824000000000 > ta)) }

section
variable {s : State} {n m ta : Nat} {x : Stream} {c : Carried} (hpos : c.pos = (m : Int))
  (hspan : x.cutoff m ≤ ta + x.cfg.ringSpan * 1000 * 589824)
include hpos hspan

/-- What a sample that is not early meets. -/
theorem State.filePosition_of_not_early : s.filePosition n x ta c =
    if m < x.closedTo ∨ ta > x.cutoff m then s.capLate { x with late := inc32 x.late } m (s.stamped c) ta
    else (x.slots.getD m {}).filed.elim
      (x.fileAt m ta (s.stamped c), s.fileRings x m (s.stamped c))
      (fun old =>
        if old.map (fun v => (v.1, v.2 &&& 0xFF0)) == (s.stamped c).map (fun v => (v.1, v.2 &&& 0xFF0)) then
          ({ x with duplicate := inc32 x.duplicate }, s)
        else s.dupDiffer n { x with duplicate := inc32 x.duplicate }) := by
  have hneg : ¬ (m : Int) < 0 := by omega
  have hearly : ¬ x.cutoff m > ta + x.cfg.ringSpan * 1000 * qNs := Nat.not_lt.mpr hspan
  simp only [State.filePosition, hpos, if_neg hneg, Int.toNat_natCast, if_neg hearly]
  cases (x.slots.getD m {}).filed <;> rfl

theorem State.filePosition_of_late (hlate : m < x.closedTo) (hr : s.cap.recs = []) :
    s.filePosition n x ta c = ({ x with late := inc32 x.late }, s) := by
  rw [State.filePosition_of_not_early hpos hspan, if_pos (.inl hlate), State.capLate_of_no_recorder hr]

variable (hopen : x.closedTo ≤ m) (hcut : ta ≤ x.cutoff m)
include hopen hcut

theorem State.filePosition_of_empty (he : (x.slots.getD m {}).filed = none) : s.filePosition n x ta c =
    (x.fileAt m ta (s.stamped c), s.fileRings x m (s.stamped c)) := by
  rw [State.filePosition_of_not_early hpos hspan, if_neg (by omega), he, Option.elim_none]

theorem State.filePosition_of_same {old : List (Int × Nat)} (hf : (x.slots.getD m {}).filed = some old)
    (hsame : old.map (fun v => (v.1, v.2 &&& 0xFF0)) = (s.stamped c).map (fun v => (v.1, v.2 &&& 0xFF0))) :
    s.filePosition n x ta c = ({ x with duplicate := inc32 x.duplicate }, s) := by
  rw [State.filePosition_of_not_early hpos hspan, if_neg (by omega), hf, Option.elim_some, if_pos (beq_iff_eq.mpr hsame)]

end

/-! ### A frame with one synchronised ASDU through checks 3 to 7 (R99 to R106) -/

/-- Checks 3 to 6 pass for an ASDU with global synchronisation, of a stream without authentication. -/
structure StreamDef.Admits (d : StreamDef) (a : Asdu) : Prop where
  auth : d.auth = 0
  rev : a.rev = d.confRev
  size : a.data.length = 8 * d.nEntries
  count : a.cnt < rateHz d.rate
  synch : a.synch = 2

section
variable {s : State} {n ta : Nat} {x : Stream} {u : IecPdu} {a : Asdu}

theorem tagPasses_zero (key : Option Bytes) (u : IecPdu) : tagPasses 0 key u = true := rfl

theorem synchGrade_two : synchGrade 2 = 2 := rfl

theorem syncOutcome_two (req : Nat) : syncOutcome req 2 = some 0 := rfl

/-- The sample of a synchronised ASDU, at the position that its count and its arrival name. -/
def Stream.carried (x : Stream) (a : Asdu) (ta : Nat) : Carried :=
  { entries := asduEntries x.cfg.nEntries a.data, pos := x.resolve a.cnt ta, sync := 0 }

theorem Stream.asduChecks_of_admitted (h : x.cfg.Admits a) : x.asduChecks ta [a] = ([a], true, x) := by
  have hgood : ¬ (a.data.length ≠ 8 * x.cfg.nEntries ∨ a.cnt ≥ rateHz x.cfg.rate) := by
    rw [not_or]
    exact ⟨not_not.mpr h.size, Nat.not_le.mpr h.count⟩
  simp only [Stream.asduChecks, if_neg hgood, h.synch, synchGrade_two, syncOutcome_two]

theorem State.passFive_of_running (hst : x.st = .running) : s.passFive n x ta = ({ x with lastFrame := ta }, s) := by
  simp [State.passFive, hst]

theorem State.passSix_of_running {m : Int} (hst : x.st = .running) : s.passSix n x m = (true, x, s) := by
  simp only [State.passSix, hst]

/-- A frame that matched an enabled stream counts. -/
def Stream.counted (x : Stream) : Stream := { x with frames := inc32 x.frames }

/-- A frame that passed check 5 refreshes its stream. -/
def Stream.refreshed (x : Stream) (ta : Nat) : Stream := { x with lastFrame := ta, lastSynch := 2 }

/-- The one sample of the frame meets its slot in the refreshed stream. -/
theorem State.svChecked_of_admitted (h : x.cfg.Admits a) (hst : x.st = .running) (hpt : s.ptValid = true) :
    (s.svChecked n x u [a] ta).2 =
      (s.filePosition n (x.refreshed ta) ta ((x.refreshed ta).carried a ta)).2.setStream n
        (s.filePosition n (x.refreshed ta) ta ((x.refreshed ta).carried a ta)).1 := by
  have hrev : ([a].any (fun a => a.rev != x.cfg.confRev)) = false := by simp [h.rev]
  simp [State.svChecked, h.auth, tagPasses_zero, hrev, Stream.asduChecks_of_admitted h, State.passFive_of_running hst, h.synch,
    synchGrade_two, syncOutcome_two, hpt, State.passSix_of_running, hst, State.fileAll, Stream.carried, Stream.refreshed]

/-- An SV frame of an enabled stream that decodes as the stream is defined comes to check 3. -/
theorem State.ingestFrame_of_decoded {e : Eth} {as_ : List Asdu} (hst : x.st ≠ .disabled) (hfmt : x.cfg.fmt = 0)
    (hu : iecParse e.payload = some u) (has : svParse u.apdu = some as_) (hn : as_.length = x.cfg.nAsdu)
    (hsim : u.sim = false) : s.ingestFrame n x e ta = s.svChecked n x.counted u as_ ta := by
  simp [State.ingestFrame, Stream.counted, hst, hfmt, hu, has, hn, hsim]

theorem State.ingestFrame_of_disabled {e : Eth} (hst : x.st = .disabled) :
    s.ingestFrame n x e ta = (false, { s with ingest.disabledDrops := inc32 s.ingest.disabledDrops }) := by
  rw [State.ingestFrame, if_pos hst]

end

/-! ### The frame at a switch port outside redundancy (R98, 16 R394, R415) -/

section
variable {s : State} {port ta : Nat} {frame : Bytes}

theorem State.redStrip_of_no_entity (h : s.portEntity port = none) : s.redStrip port frame = { frame := frame } := by
  rw [State.redStrip, h]

/-- The Ethertypes of ingest pass its test. -/
theorem isSample_of_etype {t : Nat} (h : t = 0x88BA ∨ t = 0x88B5) : (t != etSv && t != etTw) = false := by
  obtain rfl | rfl := h <;> rfl

section
variable (hgood : s.rxGood port frame = true) (hsw : s.isSwitchPort port = true) (hent : s.portEntity port = none)
  (het : (ethParse frame).etype = 0x88BA ∨ (ethParse frame).etype = 0x88B5)
include hgood hsw hent het

theorem State.svFrame_of_unmatched (hf : s.findStream port (ethParse frame) = none) :
    s.svFrame port ta frame = { s with ingest.unmatched := inc32 s.ingest.unmatched } := by
  simp [State.svFrame, hgood, hsw, State.redStrip_of_no_entity hent, isSample_of_etype het, State.consumerSeen, hf]

/-- Outside redundancy no copy was seen before, and none is marked. -/
theorem State.svFrame_of_matched {n : Nat} {x : Stream} (hf : s.findStream port (ethParse frame) = some n)
    (hx : s.stream n = some x) : s.svFrame port ta frame = (s.ingestFrame n x (ethParse frame) (9 * ta)).2 := by
  simp only [State.svFrame, hgood, hsw, Bool.not_true, Bool.or_self, State.redStrip_of_no_entity hent, isSample_of_etype het,
    State.consumerSeen, Bool.false_eq_true, if_false, hf, hx]
  obtain ⟨counted, t⟩ := s.ingestFrame n x (ethParse frame) (9 * ta)
  cases counted <;> rfl

end
end

theorem execSvFrameReceived_eq (dt port ta : Nat) (frame : Bytes) (s : State) :
    exec (.svFrameReceived dt port ta frame) s = .next ((s.advance dt).svFrame port ta frame) := rfl

section
variable {dt port ta n : Nat} {frame : Bytes} {s : State} {x : Stream} {u : IecPdu} {a : Asdu}

/-- The whole way of an admitted frame of a RUNNING stream: its sample meets its slot in the refreshed stream. -/
theorem execSvFrameReceived_of_admitted {x' : Stream} {t : State} (hgood : (s.advance dt).rxGood port frame = true)
    (hsw : (s.advance dt).isSwitchPort port = true) (hent : (s.advance dt).portEntity port = none)
    (het : (ethParse frame).etype = 0x88BA) (hf : (s.advance dt).findStream port (ethParse frame) = some n)
    (hx : s.stream n = some x) (hst : x.st = .running) (hfmt : x.cfg.fmt = 0) (hn : x.cfg.nAsdu = 1)
    (hu : iecParse (ethParse frame).payload = some u) (hsim : u.sim = false) (has : svParse u.apdu = some [a])
    (h : x.counted.cfg.Admits a) (hpt : (s.advance dt).ptValid = true)
    (hmeet : (s.advance dt).filePosition n (x.counted.refreshed (9 * ta)) (9 * ta)
      ((x.counted.refreshed (9 * ta)).carried a (9 * ta)) = (x', t)) :
    exec (.svFrameReceived dt port ta frame) s = .next (t.setStream n x') := by
  have hdisabled : x.st ≠ .disabled := by simp [hst]
  rw [execSvFrameReceived_eq, State.svFrame_of_matched hgood hsw hent (.inl het) hf ((State.advance_stream ..).trans hx),
    State.ingestFrame_of_decoded hdisabled hfmt hu has (by simp [hn]) hsim, State.svChecked_of_admitted h hst hpt, hmeet]

end

/-! ### Slots close (R103, R104) -/

/-- The stream once its first open position is closed. -/
def Stream.closeFirst (x : Stream) : Stream := { x with closedTo := x.closedTo + 1, slots := x.slots.del x.closedTo }

/-- An unfilled slot of a RUNNING stream closes with its pending cause (R104). -/
theorem State.closeCause_of_running {s : State} {x : Stream} (hst : x.st = .running) (hpt : s.ptValid = true) (pending : Nat) :
    s.closeCause x pending = if pending = 0 then 1 else pending := by
  simp [State.closeCause, hst, hpt, mcNotReceived]

section
variable {dt n : Nat} {s : State} {x : Stream}

theorem State.closeSlot_of_before (h : s.now < x.cutoff x.closedTo) : s.closeSlot n x = s := by
  simp [State.closeSlot, h]

section
variable (hcut : x.cutoff x.closedTo ≤ s.now) (hr : s.cap.recs = [])
include hcut hr

theorem State.closeSlot_of_filled (hf : (x.slots.getD x.closedTo {}).filed.isSome = true) :
    s.closeSlot n x = s.setStream n x.closeFirst := by
  simp [State.closeSlot, Nat.not_lt.mpr hcut, hf, State.capWants_of_no_recorder hr, Stream.closeFirst]

/-- The position counts MISSING once, and each of the stream's rings reads it MISSING with its cause. -/
theorem State.closeSlot_of_unfilled (hst : x.st = .running) (hpt : s.ptValid = true)
    (hf : (x.slots.getD x.closedTo {}).filed = none) : s.closeSlot n x =
      (s.setStream n { x.closeFirst with missing := inc32 x.missing }).fileRings x x.closedTo
        (x.cfg.channels.map (fun _ =>
          (0, 1 + 2 * (if (x.slots.getD x.closedTo {}).cause = 0 then 1 else (x.slots.getD x.closedTo {}).cause)))) := by
  simp [State.closeSlot, Nat.not_lt.mpr hcut, hf, State.capWants_of_no_recorder hr, Stream.closeFirst, hst,
    State.closeCause_of_running hst hpt]

end

theorem execSlotClose_of_defined (hx : s.stream n = some x) :
    exec (.slotClose dt n) s = .next ((s.advance dt).closeSlot n x) := by
  change execSlotClose dt n s = _
  simp [execSlotClose, hx]

/-! ### LOSS_TIME (R105) -/

section
variable (hx : s.stream n = some x)
include hx

theorem State.streamLoss_of_silent (hst : x.st = .running) (h : s.now ≥ x.lastFrame + x.lossQ) : s.streamLoss n =
    ((s.setStream n { x with st := .lost, lossEvents := inc32 x.lossEvents }).post 0x0402 (le 2 n)).raiseInt 132 := by
  simp [State.streamLoss, hx, hst, h]

theorem State.streamLoss_of_heard (h : s.now < x.lastFrame + x.lossQ) : s.streamLoss n = s := by
  simp [State.streamLoss, hx, Nat.not_le.mpr h]

end
end

/-- Settles O15: the frame passes its checks (`execSvFrameReceived_of_admitted`) and its sample meets its slot by the cases
of R103 (`State.filePosition_of_empty`, `_of_same` and `_of_late`); a slot closes by the cases of R104. -/
theorem sampleIsFiledByItsCount : Obligations.SampleIsFiledByItsCount := by
  refine ⟨?_, ?_, ?_, ?_⟩
  -- A frame of a RUNNING stream.
  · intro dt port ta n m frame s x u a s1 e es y hgood hsw hent het hf hx hfmt hauth hn hst hu hsim has hrev hsize hcount
      hsynch hpt hpos hspan
    have hexec {x' : Stream} {t : State} := execSvFrameReceived_of_admitted (ta := ta) (x' := x') (t := t) hgood hsw hent het
      hf hx hst hfmt hn hu hsim has ⟨hauth, hrev, hsize, hcount, hsynch⟩ hpt
    refine ⟨fun hopen hcut he => hexec ?_, fun old hopen hcut hold hsame => hexec ?_, fun hlate hr => hexec ?_⟩
    · exact State.filePosition_of_empty hpos hspan hopen hcut he
    · exact State.filePosition_of_same hpos hspan hopen hcut hold hsame
    · exact State.filePosition_of_late hpos hspan hlate (by simpa [s1] using hr)
  -- A frame of no stream, and one of a DISABLED stream.
  · intro dt port ta frame s s1 hgood hsw hent het
    refine ⟨fun hf => ?_, fun n x hf hx hst => ?_⟩
    · rw [execSvFrameReceived_eq, State.svFrame_of_unmatched hgood hsw hent het hf, State.advance_ingest]
    · rw [execSvFrameReceived_eq, State.svFrame_of_matched hgood hsw hent het hf ((State.advance_stream ..).trans hx),
        State.ingestFrame_of_disabled hst, State.advance_ingest]
  -- SLOT_CLOSE.
  · intro dt n s x hx s1 p cause
    rw [execSlotClose_of_defined hx]
    refine ⟨fun h => ?_, fun hcut hst hpt hf hr => ?_, fun hcut hf hr => ?_⟩
    · rw [State.closeSlot_of_before h]
    · rw [State.closeSlot_of_unfilled hcut (by simpa [s1] using hr) hst hpt hf]
      exact congrArg _ (State.fileRings_congr rfl _ _ _)
    · rw [State.closeSlot_of_filled hcut (by simpa [s1] using hr) hf]
      rfl
  -- STREAM_LOSS_TIMEOUT.
  · intro dt n s x hx hst
    have hx' := (State.advance_stream s dt n).trans hx
    exact ⟨fun h => congrArg _ (State.streamLoss_of_silent hx' hst h), fun h => congrArg _ (State.streamLoss_of_heard hx' h)⟩

end Sys2Proof.Machine

/-! SUPPORT. The ingest commands (04 R113 to R115): what each card's own part answers. -/
namespace Sys2Proof.Machine
open Sys2Proof

section
variable {s : State} {c : Cmd} {x : Stream}

/-! ### DEFINE_STREAM -/

/-- The stream that a DEFINE_STREAM without authentication creates, its first open position not set yet. -/
def definedStream (c : Cmd) : Stream :=
  { cfg := streamDefOf c.params, owner := c.inst, fixedDelay := u32 c.params 0x2C,
    margin := if u32 c.params 0x28 = 0 then 4600 else u32 c.params 0x28 }

/-- A channel belongs to an entry of the stream, and its chain starts with the CLEAR bank of the stream's rate. -/
def State.takeChannel (c : Cmd) (s : State) (e : Nat × Nat) : State :=
  { s with
    ingest.chanOf := s.ingest.chanOf.put e.1 (u16 c.params 0, e.2)
    filter.chains := s.filter.chains.put e.1 { bank := clearBank (byteAt c.params 3) } }

theorem cardDefineStream_run_of_defined (hs : (s.stream (u16 c.params 0)).isSome = true) : cardDefineStream.run s c = .wrong 1 :=
  if_pos hs

theorem cardDefineStream_run_of_free (hs : s.stream (u16 c.params 0) = none) (ha : byteAt c.params 6 = 0)
    (hch : ∀ ch ∈ defChannels c.params, ch = 0xFFFF ∨ s.ingest.chanOf.has ch = false)
    (hkey : ∀ q ∈ s.ingest.streams, keysOverlap q.2.cfg (streamDefOf c.params) = false)
    (hunits : s.unitsDefined + ((defChannels c.params).filter (· != 0xFFFF)).length * unitsOf (byteAt c.params 3) ≤ 65536) :
    cardDefineStream.run s c = .ok
      (((List.zip (defChannels c.params) (List.range (byteAt c.params 5))).filter (fun e => e.1 != 0xFFFF)).foldl
        (State.takeChannel c)
        (s.setStream (u16 c.params 0) { definedStream c with closedTo := (definedStream c).firstOpen s.now })) [] := by
  have hfree : ¬ (s.stream (u16 c.params 0)).isSome = true := by simp [hs]
  have hauth : (streamDefOf c.params).auth = 0 := ha
  have hnone : ¬ (((streamDefOf c.params).channels.filter (· != 0xFFFF)).any s.ingest.chanOf.has) = true := by
    simp only [List.any_eq_true, List.mem_filter, bne_iff_ne, not_exists, not_and, Bool.not_eq_true, and_imp]
    exact fun ch hm hne => (hch ch hm).resolve_left hne
  have hclear : ¬ (s.ingest.streams.any (fun q => keysOverlap q.2.cfg (streamDefOf c.params))) = true := by
    simpa using fun a b hab => hkey (a, b) hab
  have hfit : ¬ s.unitsDefined + ((streamDefOf c.params).channels.filter (· != 0xFFFF)).length *
      unitsOf (streamDefOf c.params).rate > 65536 := Nat.not_lt.mpr hunits
  simp only [cardDefineStream, if_neg hfree, if_neg hnone, if_pos hauth, if_neg hclear, if_neg hfit]
  rfl

/-! ### REMOVE_STREAM -/

theorem State.streamRead_iff : s.streamRead x = true ↔
    ∃ q ∈ s.place.insts, ∃ ch ∈ x.cfg.channels, ch ≠ 0xFFFF ∧ ch ∈ q.2.channels := by
  simp [State.streamRead]

theorem cardRemoveStream_run_of_undefined (hs : s.stream (u16 c.params 0) = none) : cardRemoveStream.run s c = .wrong 1 := by
  simp only [cardRemoveStream, hs]

theorem cardRemoveStream_run_of_read (hs : s.stream (u16 c.params 0) = some x) (hr : s.streamRead x = true) :
    cardRemoveStream.run s c = .wrong 5 := by
  simp only [cardRemoveStream, hs, if_pos hr]

/-- Does a detector of one of the channels drive the signal? -/
def SigSrc.ofChannels (l : List Nat) : SigSrc → Bool
  | .detector ch _ => l.contains ch
  | _ => false

/-- The module without the channels of a stream that is removed: their chains, and the signals of their detectors. -/
def State.dropStream (s : State) (n : Nat) (x : Stream) : State :=
  let mine := x.cfg.channels.filter (· != 0xFFFF)
  let t := s.releaseSignals (SigSrc.ofChannels mine)
  { t with
    ingest.streams := t.ingest.streams.del n
    ingest.chanOf := t.ingest.chanOf.keep (fun ch _ => !mine.contains ch)
    filter.chains := t.filter.chains.keep (fun ch _ => !mine.contains ch) }

theorem cardRemoveStream_run_of_unread (hs : s.stream (u16 c.params 0) = some x) (hr : s.streamRead x = false) :
    cardRemoveStream.run s c = .ok (s.dropStream (u16 c.params 0) x) [] := by
  simp only [cardRemoveStream, hs, hr, Bool.false_eq_true, if_false]
  rfl

/-! ### ENABLE_STREAM -/

theorem cardEnableStream_run_of_disabled (hs : s.stream (u16 c.params 0) = some x) (hon : byteAt c.params 2 = 1)
    (hst : x.st = .disabled) :
    cardEnableStream.run s c = .ok (s.setStream (u16 c.params 0) { x with st := .waiting }) [] := by
  simp [cardEnableStream, hs, hon, hst]

theorem cardEnableStream_run_of_enabled (hs : s.stream (u16 c.params 0) = some x) (hon : byteAt c.params 2 = 1)
    (hst : x.st ≠ .disabled) : cardEnableStream.run s c = .ok s [] := by
  simp [cardEnableStream, hs, hon, hst]

theorem cardEnableStream_run_of_off (hs : s.stream (u16 c.params 0) = some x) (hoff : byteAt c.params 2 = 0) :
    cardEnableStream.run s c = .ok (s.setStream (u16 c.params 0) { x with st := .disabled, meas := [] }) [] := by
  simp [cardEnableStream, hs, hoff]

/-! ### SET_ALIGNMENT -/

/-- The stream with a new MARGIN and FIXED_DELAY: its measurement starts again, and a FIXED_DELAY of 0 discards X and D
(R102, R105). -/
def Stream.aligned (x : Stream) (p : Bytes) : Stream :=
  { x with
    margin := if u32 p 4 = 0 then 4600 else u32 p 4, fixedDelay := u32 p 8, meas := [],
    x := if u32 p 8 = 0 then none else x.x, d := if u32 p 8 = 0 then none else x.d,
    st := if x.st = .disabled then .disabled else .waiting }

theorem cardSetAlignment_run_of_idle (hs : s.stream (u16 c.params 0) = some x) (hr : s.streamRunning x = false) :
    cardSetAlignment.run s c = .ok (s.setStream (u16 c.params 0) (x.aligned c.params)) [] := by
  simp only [cardSetAlignment, hs, hr, Bool.and_false, Bool.false_eq_true, if_false]
  by_cases hd : u32 c.params 8 = 0 <;> by_cases hst : x.st = .disabled <;> simp [hd, hst, Stream.aligned, marginOr]

theorem cardSetAlignment_run_of_running (hs : s.stream (u16 c.params 0) = some x) (hr : s.streamRunning x = true)
    (hown : c.chan ≤ 65) : cardSetAlignment.run s c = .wrong 6 := by
  simp [cardSetAlignment, hs, hr, Cmd.own, hown]

/-! ### GET_STREAM -/

/-- The ten counters of a stream, in the order of GET_STREAM. -/
def Stream.counters (x : Stream) : List Nat :=
  [x.frames, x.late, x.missing, x.duplicate, x.dupDiffer, x.authFail, x.rejected, x.early, x.unsync, x.lossEvents]

def Stream.clearCounters (x : Stream) : Stream :=
  { x with
    frames := 0, late := 0, missing := 0, duplicate := 0, dupDiffer := 0, authFail := 0, rejected := 0, early := 0,
    unsync := 0, lossEvents := 0 }

theorem boolNat_ne_zero (n : Nat) : boolNat (n != 0) = if n = 0 then 0 else 1 := by
  by_cases h : n = 0 <;> simp [boolNat, h]

theorem cardGetStream_run_of_defined (hs : s.stream (u16 c.params 0) = some x) : cardGetStream.run s c =
    .ok (if bit (byteAt c.params 2) 0 then s.setStream (u16 c.params 0) x.clearCounters else s)
      (le 2 (u16 c.params 0) ++ le 1 x.st.code ++ le 1 (if x.fixedDelay = 0 then 0 else 1) ++
        leS 4 (if x.fixedDelay = 0 then x.d.getD 0 else x.fixedDelay) ++ leS 4 (x.x.getD 0) ++ leS 4 (x.lateMargin s.now) ++
        x.counters.flatMap (le 4)) := by
  simp only [cardGetStream, hs, boolNat_ne_zero, ite_not]
  rfl

/-! ### GET_CHANNEL -/

theorem cardGetChannel_run_of_defined {o : Nat × Nat} (hc : s.ingest.chanOf.get (u16 c.params 0) = some o) :
    cardGetChannel.run s c = .ok s
      (le 2 o.1 ++ le 1 o.2 ++ le 1 (((s.place.rings.get (u16 c.params 0)).map (·.cc)).getD 0xFF) ++
        le 2 (unitsOf (((s.ingest.streams.get o.1).map (·.cfg.rate)).getD 0)) ++ zeros 2 ++
        le 4 (((s.place.rings.get (u16 c.params 0)).map (·.depth)).getD 0) ++
        le 8 (((s.place.rings.get (u16 c.params 0)).map (fun r => 0x0100000000 + r.cc * 0x200000 + r.addr)).getD 0)) := by
  simp only [cardGetChannel, hc]
  cases s.place.rings.get (u16 c.params 0) <;> rfl

end

/-- Settles O14: each command by what its card's own part answers; the rules of `Laws/Card` make it the row's. -/
theorem ingestCommandsComplete : Obligations.IngestCommandsComplete := by
  refine ⟨?_, ?_, ?_, ?_, ?_, ?_, ?_, ?_, ?_, ?_, ?_, ?_, ?_⟩
  -- DEFINE_STREAM.
  · exact Card.completes_of (fun _ _ _ => rfl) (fun _ _ h => h)
      (fun _ _ ⟨hs, ha, hch, hkey, hunits⟩ => cardDefineStream_run_of_free hs ha hch hkey hunits)
  · exact Card.refuses_of (fun _ _ _ => rfl) (fun _ _ h => ⟨h, rfl⟩) (fun _ _ ⟨_, hs⟩ => cardDefineStream_run_of_defined hs)
  -- REMOVE_STREAM.
  · refine Card.completes_of (fun _ _ _ => rfl) (fun _ _ h => h) (fun s c ⟨x, hs, hr⟩ => ?_)
    rw [cardRemoveStream_run_of_unread hs (Bool.eq_false_iff.mpr (mt State.streamRead_iff.mp hr))]
    simp only [hs]
    rfl
  · exact Card.refuses_of (fun _ _ _ => rfl) (fun _ _ h => ⟨h, rfl⟩) (fun _ _ hs => cardRemoveStream_run_of_undefined hs)
  · exact Card.refuses_of (fun _ _ _ => rfl) (fun _ _ h => ⟨h, rfl⟩)
      (fun _ _ ⟨_, hs, hr⟩ => cardRemoveStream_run_of_read hs (State.streamRead_iff.mpr hr))
  -- ENABLE_STREAM.
  · refine Card.completes_of (fun _ _ _ => rfl) (fun _ _ h => h) (fun s c ⟨hon, x, hs, hst⟩ => ?_)
    rw [cardEnableStream_run_of_disabled hs hon hst]
    simp only [hs]
  · exact Card.completes_of (fun _ _ _ => rfl) (fun _ _ h => h)
      (fun _ _ ⟨hon, _, hs, hst⟩ => cardEnableStream_run_of_enabled hs hon hst)
  · refine Card.completes_of (fun _ _ _ => rfl) (fun _ _ h => h) (fun s c ⟨hoff, hs⟩ => ?_)
    obtain ⟨x, hs⟩ := Option.isSome_iff_exists.mp hs
    rw [cardEnableStream_run_of_off hs hoff]
    simp only [hs]
  -- SET_ALIGNMENT.
  · refine Card.completes_of (fun _ _ _ => rfl) (fun _ _ h => h) (fun s c ⟨x, hs, hr⟩ => ?_)
    rw [cardSetAlignment_run_of_idle hs hr]
    simp only [hs]
    rfl
  · exact Card.refuses_of (fun _ _ _ => rfl) (fun _ _ h => ⟨h, rfl⟩)
      (fun _ _ ⟨hown, _, hs, hr⟩ => cardSetAlignment_run_of_running hs hr hown)
  -- GET_STREAM, GET_INGEST_TOTALS and GET_CHANNEL.
  · refine Card.completes_of (fun _ _ _ => rfl) (fun _ _ h => h) (fun s c hs => ?_)
    obtain ⟨x, hs⟩ := Option.isSome_iff_exists.mp hs
    rw [cardGetStream_run_of_defined hs]
    simp only [hs]
    rfl
  · exact Card.reads_of (fun _ _ _ => rfl) rfl (fun _ _ _ => ⟨trivial, rfl⟩) (fun _ _ _ => rfl)
  · refine Card.reads_of (fun _ _ _ => rfl) rfl (fun _ _ h => ⟨h, rfl⟩) (fun s c hc => ?_)
    obtain ⟨o, hc⟩ := Option.isSome_iff_exists.mp hc
    rw [cardGetChannel_run_of_defined hc, hc]
    rfl

end Sys2Proof.Machine

/-! SUPPORT. The arithmetic of the FIR stage (05 R121, R125, R127): with a bank whose magnitudes sum to at most 2.0 the 40-bit
accumulator never saturates. -/
namespace Sys2Proof.Machine
open Sys2Proof

theorem divFloor_eq_ediv (a : Int) (b : Nat) : divFloor a b = a / b := Int.fdiv_eq_ediv_of_nonneg a (Int.natCast_nonneg b)

theorem sat32_of_range {x : Int} (hlo : -2147483648 ≤ x) (hhi : x ≤ 2147483647) : sat32 x = x := by
  simp only [sat32, clampInt]
  omega

theorem sat40_of_small {x : Int} (h : x.natAbs < 549755813888) : sat40 x = x := by
  simp only [sat40, clampInt]
  omega

/-- A product of R121: exact, then rounded to the scale of the values. -/
def roundedProduct (x h : Int) : Int := (x * h + 2097152) / 4194304

theorem roundedProduct_small {x : Int} (h : Int) (hlo : -2147483648 ≤ x) (hhi : x ≤ 2147483647) :
    (roundedProduct x h).natAbs ≤ 512 * h.natAbs + 1 := by
  have hx : x.natAbs ≤ 2147483648 := by omega
  have hp : (x * h).natAbs ≤ 2147483648 * h.natAbs := by
    rw [Int.natAbs_mul]
    exact Nat.mul_le_mul_right _ hx
  simp only [roundedProduct]
  omega

/-- A saturating sum whose magnitudes leave room in the accumulator is the exact sum. -/
theorem foldl_sat40_of_small {α : Type} (f : α → Int) (l : List α) (a : Int)
    (h : a.natAbs + (l.map (fun p => (f p).natAbs)).sum < 549755813888) :
    l.foldl (fun a p => sat40 (a + f p)) a = a + (l.map f).sum := by
  induction l generalizing a with
  | nil => simp
  | cons p l ih =>
    simp only [List.map_cons, List.sum_cons] at h
    have hstep : (a + f p).natAbs ≤ a.natAbs + (f p).natAbs := Int.natAbs_add_le _ _
    rw [List.foldl_cons, sat40_of_small (by omega), ih _ (by omega), List.map_cons, List.sum_cons, Int.add_assoc]

/-- The magnitudes of the products of a history of 32-bit values, added up. -/
theorem sum_roundedProducts_small (hist taps : List Int) (hhist : ∀ x ∈ hist, -2147483648 ≤ x ∧ x ≤ 2147483647) :
    ((hist.zip taps).map (fun p => (Function.uncurry roundedProduct p).natAbs)).sum ≤
      512 * (taps.map Int.natAbs).sum + taps.length := by
  induction hist generalizing taps with
  | nil => simp
  | cons x hist ih =>
    cases taps with
    | nil => simp
    | cons h taps =>
      obtain ⟨⟨hlo, hhi⟩, hrest⟩ := List.forall_mem_cons.mp hhist
      have hx := roundedProduct_small h hlo hhi
      have hs := ih taps hrest
      simp only [List.zip_cons_cons, List.map_cons, List.sum_cons, List.length_cons,
        Function.uncurry_apply_pair]
      omega

/-- The accumulator of `firValue`, as the rounded products saturate into it. -/
theorem firValue_eq (hist taps : List Int) : (firValue hist taps).1 =
    sat32 ((hist.zip taps).foldl (fun a p => sat40 (a + Function.uncurry roundedProduct p)) 0) := by
  simp only [firValue, divFloor_eq_ediv, Function.uncurry, roundedProduct]
  rfl

/-- The Σ|h| bound of R127 keeps the accumulator exact (R121). -/
theorem firValue_of_bounded {hist taps : List Int} (hhist : ∀ x ∈ hist, -2147483648 ≤ x ∧ x ≤ 2147483647)
    (hlen : taps.length ≤ 128) (hsum : (taps.map Int.natAbs).sum ≤ 0x800000) :
    (firValue hist taps).1 = sat32 (List.zipWith roundedProduct hist taps).sum := by
  have hbound := sum_roundedProducts_small hist taps hhist
  rw [firValue_eq, foldl_sat40_of_small _ _ 0 (by rw [Int.natAbs_zero]; omega), Int.zero_add, List.map_uncurry_zip_eq_zipWith]

/-- The ROM banks (R123 to R125) are valid as R127 demands of a loaded bank. -/
theorem romBank_valid : ∀ b, b < 16 → (romBank b).taps.sum = 0x400000 ∧
    ((romBank b).taps.map Int.natAbs).sum ≤ 0x800000 ∧ (romBank b).taps.reverse = (romBank b).taps ∧
    (romBank b).firR * max (romBank b).cicR 1 ≤ 64 := by
  decide +kernel

end Sys2Proof.Machine

/-! SUPPORT. A chain through one input position (05 R116 to R139). -/
namespace Sys2Proof.Machine
open Sys2Proof

/-! ### The quality word (R136, R137) -/

@[simp] theorem bit_zero (i : Nat) : bit 0 i = false := by
  simp [bit]

theorem lor_mod_sixteen (a b : Nat) : (a ||| b) % 16 = a % 16 ||| b % 16 := Nat.or_mod_two_pow (n := 4)

theorem land_mod_sixteen (a b : Nat) : (a &&& b) % 16 = a % 16 &&& b % 16 := Nat.and_mod_two_pow (n := 4)

/-- The ORs of R137 over a mask without bits [3:0] leave them clear. -/
theorem orSqw_mod_sixteen (ps : List InPos) {mask : Nat} (hm : mask % 16 = 0) : orSqw ps mask % 16 = 0 := by
  have hfold (l : List InPos) (a : Nat) (ha : a % 16 = 0) :
      l.foldl (fun a p => if bit p.sqw 0 then a else a ||| (p.sqw &&& mask)) a % 16 = 0 := by
    induction l generalizing a with
    | nil => exact ha
    | cons p l ih =>
      refine ih _ ?_
      dsimp only
      split
      · exact ha
      · simp [lor_mod_sixteen, land_mod_sixteen, ha, hm]
  exact hfold ps 0 rfl

/-- Bits [3:0] of a settled output are those of its newest input (R137). -/
theorem Chain.grade_mod_sixteen (k : Chain) (b : Bank) (no : Nat) (newest : InPos) (outSat detInc : Bool) :
    k.grade b no newest outSat false detInc % 16 = newest.sqw % 16 := by
  have hsub : (newest.sqw &&& 0xF) = newest.sqw % 16 := Nat.and_two_pow_sub_one_eq_mod _ 4
  have hhigh (e v : Nat) : 2 ^ (e + 4) * v % 16 = 0 := by
    rw [Nat.pow_add, Nat.mul_right_comm, Nat.mul_mod_left]
  have hor := orSqw_mod_sixteen (k.window.take b.span) (mask := 0x7FB0) rfl
  have hovr := orSqw_mod_sixteen (k.window.take b.hold) (mask := 0x40) rfl
  simp only [Chain.grade, Bool.false_eq_true, if_false, lor_mod_sixteen, hsub, hor, hovr, hhigh 12, hhigh 13,
    hhigh 14, hhigh 15, hhigh 16, hhigh 20, hhigh 21, hhigh 23, hhigh 24, hhigh 25]
  simp

/-- A present input of a chain without marks in its window, on the CLEAR bank of 4 800 Hz, grades 0 (R136). -/
theorem Chain.grade_of_unmarked {k : Chain} {here : InPos} {w : List InPos} (hw : k.window = here :: w) (hsqw : here.sqw = 0)
    (hsubst : here.subst = false) (hsat : here.sat = false) (hepoch : here.epoch = k.epoch) (hsingle : k.single = false)
    (hph : k.phaseCh = false) : k.grade (romBank 0) 0 here false false false = 0 := by
  have hspan : (romBank 0).span = 1 := rfl
  have hhold : (romBank 0).hold = 1 := rfl
  simp [Chain.grade, hspan, hhold, hw, hsqw, hsubst, hsat, hepoch, hsingle, hph, orSqw, boolNat]

/-! ### Detectors that are off (R141, R146) -/

/-- Every detector is off and its signal at 0. -/
def Chain.DetOff (k : Chain) : Prop := ∀ d ∈ k.det, d.enabled = false ∧ d.level = false

@[simp] theorem Detector.step_enabled (d : Detector) (i : Nat) (y : Int) (win : List (Int × Bool)) :
    (d.step i y win).enabled = d.enabled := by
  simp only [Detector.step]
  repeat' split
  all_goals rfl

@[simp] theorem Detector.step_level (d : Detector) (i : Nat) (y : Int) (win : List (Int × Bool)) :
    (d.step i y win).level = d.level := by
  simp only [Detector.step]
  repeat' split
  all_goals rfl

theorem Detector.step_word_of_off {d : Detector} (h : d.enabled = false) (i : Nat) (y : Int) (win : List (Int × Bool)) :
    (d.step i y win).word = 0 := by
  simp [Detector.step, h]

theorem Chain.DetOff.getD {k : Chain} (h : k.DetOff) (i : Nat) :
    (k.det[i]?.getD noDet).enabled = false ∧ (k.det[i]?.getD noDet).level = false := by
  cases hi : k.det[i]? with
  | none => exact ⟨rfl, rfl⟩
  | some d => exact h d (List.mem_of_getElem? hi)

theorem Chain.DetOff.output {k : Chain} (h : k.DetOff) (b : Bank) (here : InPos) (n : Nat) : (k.output b here n).DetOff := by
  simpa [Chain.DetOff, Chain.output, List.range_succ] using ⟨h.getD 0, h.getD 1, h.getD 2⟩

/-- The record that a settled chain with its detectors off puts out. -/
theorem Chain.output_of_settled {k : Chain} {b : Bank} {here : InPos} {n : Nat} (hoff : k.DetOff) (hstarted : k.started = true)
    (hsingle : k.single = false) (hin : b.span ≤ k.inputs) : (k.output b here n).outs.head? = some {
      pos := n, value := if bit here.sqw 0 then 0 else (firValue k.hist b.taps).1,
      sqw := k.grade b k.bank here (firValue k.hist b.taps).2 false false, peak := 0, rms := 0, env := 0 } := by
  have hen (i : Nat) := (hoff.getD i).1
  simp [Chain.output, hstarted, hsingle, Nat.not_lt.mpr hin, List.range_succ, Detector.step_word_of_off (hen _), hen,
    Detector.incomplete, toSigned]

/-! ### Stages 1 to 4 (R116 to R119) -/

section
variable (k : Chain) (b : Bank) (tw : Bool) (i : Input)

/-- A restart leaves detectors that are off as they are. -/
theorem Chain.DetOff.restart {k : Chain} (h : k.DetOff) (pos : Nat) (x : Int) : (k.restart b tw pos x).DetOff := by
  intro d hd
  obtain ⟨e, he, rfl⟩ := List.mem_map.mp hd
  exact h e he

/-- Stages 1 to 4 make the chain that goes on to the next position; at an output position it runs stages 5 to 7. -/
theorem Chain.take_eq_output : ∃ k' here, k'.next = some (i.pos + 1) ∧ (k.DetOff → k'.DetOff) ∧
    k.take b tw i = if onGrid i.pos k'.nRef b.decim then k'.output b here i.pos else k' := by
  refine ⟨_, _, ?_, fun h => ?_, rfl⟩
  · rfl
  · cases bit i.sqw 0 <;> cases k.needStart
    · exact h
    · exact h.restart b tw i.pos i.value
    · exact h
    · exact h

theorem Chain.take_next : (k.take b tw i).next = some (i.pos + 1) := by
  obtain ⟨k', here, hnext, -, hk⟩ := k.take_eq_output b tw i
  rw [hk]
  split <;> exact hnext

variable {k} in
theorem Chain.DetOff.take (h : k.DetOff) : (k.take b tw i).DetOff := by
  obtain ⟨k', here, -, hoff, hk⟩ := k.take_eq_output b tw i
  rw [hk]
  split
  · exact (hoff h).output b here i.pos
  · exact hoff h

end

/-! ### A settled chain on the CLEAR bank of 4 800 Hz (R119, R121, R123) -/

theorem scaleValue_unity {v : Int} (hlo : -2147483648 ≤ v) (hhi : v ≤ 2147483647) :
    scaleValue v 0x40000000 0 = (v, false) := by
  have hy : divFloor (v * 0x40000000 + 536870912) 1073741824 + 0 = v := by
    rw [divFloor_eq_ediv]
    omega
  simp [scaleValue, hy, sat32_of_range hlo hhi]

/-- The one tap of 1.0 passes the newest value. -/
theorem firValue_unity {v : Int} (hlo : -2147483648 ≤ v) (hhi : v ≤ 2147483647) (hist : List Int) :
    firValue (v :: hist) (romBank 0).taps = (v, false) := by
  have htaps : (romBank 0).taps = [4194304] := rfl
  have hp : divFloor (v * 4194304 + 2097152) 4194304 = v := by
    rw [divFloor_eq_ediv]
    omega
  simp [firValue, htaps, hp, sat40_of_small (show v.natAbs < 549755813888 by omega), sat32_of_range hlo hhi]

/-- The settings and the state of the settled chain. -/
structure Chain.Clear (k : Chain) : Prop where
  bank : k.bank = 0
  gain : k.gain = 0x40000000
  offset : k.offset = 0
  started : k.started = true
  running : k.needStart = false
  normal : k.single = false
  inPhase : k.phaseCh = false
  detOff : k.DetOff

/-- The value that stage 4 makes of an input (R118, R119), and whether it saturated. -/
def Chain.scaled (k : Chain) (i : Input) : Int × Bool :=
  scaleValue (if bit i.sqw 0 then (if k.haveHold then k.hold else 0) else i.value) k.gain k.offset

/-- What the chain remembers of an input. -/
def Chain.mark (k : Chain) (i : Input) : InPos :=
  { sqw := i.sqw, subst := bit i.sqw 0, sat := (k.scaled i).2, epoch := k.epoch }

/-- What stages 5 to 7 of such a chain find in `k'` at an input of `k`: its scaled value is the newest of the history, its mark
the newest of the window. -/
structure Chain.Clear.Entered (k : Chain) (i : Input) (k' : Chain) : Prop where
  bank : k'.bank = 0
  started : k'.started = true
  normal : k'.single = false
  inPhase : k'.phaseCh = false
  detOff : k'.DetOff
  epoch : k'.epoch = k.epoch
  inputs : k'.inputs = k.inputs + 1
  hist : k'.hist = (k.scaled i).1 :: k.hist.take 127
  window : k'.window = k.mark i :: k.window.take 4095

/-- Every position is an output position, and no restart is due. -/
theorem Chain.Clear.take_eq_output {k : Chain} (h : k.Clear) (i : Input) :
    ∃ k', Chain.Clear.Entered k i k' ∧ k.take (romBank 0) false i = k'.output (romBank 0) (k.mark i) i.pos := by
  have hgrid (r : Nat) : onGrid i.pos r (romBank 0).decim = true := by
    simp [onGrid, show (romBank 0).decim = 1 from rfl]
  have hr : (!bit i.sqw 0 && k.needStart) = false := by simp [h.running]
  have ht : k.take (romBank 0) false i =
      if onGrid i.pos _ (romBank 0).decim then Chain.output _ (romBank 0) _ i.pos else _ := rfl
  rw [hr] at ht
  refine ⟨_, ⟨?_, ?_, ?_, ?_, ?_, ?_, ?_, ?_, ?_⟩, ht.trans (if_pos (hgrid _))⟩
  · cases bit i.sqw 0 <;> exact h.bank
  · cases bit i.sqw 0 <;> exact h.started
  · cases bit i.sqw 0 <;> exact h.normal
  · cases bit i.sqw 0 <;> exact h.inPhase
  · cases bit i.sqw 0 <;> exact h.detOff
  · cases bit i.sqw 0 <;> rfl
  · cases bit i.sqw 0 <;> rfl
  · rw [Chain.scaled]
    cases bit i.sqw 0 <;> rfl
  · rw [Chain.mark, Chain.scaled]
    cases bit i.sqw 0 <;> rfl

/-- What a position puts out, from its mark and its scaled value. -/
theorem Chain.Clear.take_head {k : Chain} (h : k.Clear) (i : Input) : ∃ k', Chain.Clear.Entered k i k' ∧
    (k.take (romBank 0) false i).outs.head? = some {
      pos := i.pos, value := if bit i.sqw 0 then 0 else (firValue k'.hist (romBank 0).taps).1,
      sqw := k'.grade (romBank 0) 0 (k.mark i) (firValue k'.hist (romBank 0).taps).2 false false, peak := 0, rms := 0,
      env := 0 } := by
  obtain ⟨k', he, hk⟩ := h.take_eq_output i
  have hin : (romBank 0).span ≤ k'.inputs := by
    rw [he.inputs]
    exact Nat.le_add_left 1 k.inputs
  refine ⟨k', he, ?_⟩
  rw [hk, Chain.output_of_settled he.detOff he.started he.normal hin, he.bank]
  rfl

/-- A present input of 32 bits is put out unchanged, graded 0. -/
theorem Chain.Clear.take_present {k : Chain} (h : k.Clear) {n : Nat} {v : Int} (hlo : -2147483648 ≤ v) (hhi : v ≤ 2147483647) :
    (k.take (romBank 0) false { pos := n, value := v, sqw := 0 }).outs.head? =
      some { pos := n, value := v, sqw := 0, peak := 0, rms := 0, env := 0 } := by
  obtain ⟨k', he, hk⟩ := h.take_head { pos := n, value := v, sqw := 0 }
  have hs : k.scaled { pos := n, value := v, sqw := 0 } = (v, false) := by
    simpa [Chain.scaled, h.gain, h.offset] using scaleValue_unity hlo hhi
  have hf : firValue k'.hist (romBank 0).taps = (v, false) := by
    rw [he.hist, hs]
    exact firValue_unity hlo hhi (k.hist.take 127)
  rw [hk, hf, Chain.grade_of_unmarked he.window rfl (bit_zero 0) (congrArg Prod.snd hs) he.epoch.symm he.normal he.inPhase]
  simp

/-- A missing input is put out as 0, MISSING with its cause. -/
theorem Chain.Clear.take_missing {k : Chain} (h : k.Clear) (n : Nat) {cause : Nat} (hc : cause < 8) :
    ∃ o, (k.take (romBank 0) false { pos := n, value := 0, sqw := 1 + 2 * cause }).outs.head? = some o ∧
      o.pos = n ∧ o.value = 0 ∧ o.sqw % 16 = 1 + 2 * cause := by
  obtain ⟨k', -, hk⟩ := h.take_head { pos := n, value := 0, sqw := 1 + 2 * cause }
  have hmissing : bit (1 + 2 * cause) 0 = true := by
    simp [bit]
  refine ⟨_, hk, rfl, if_pos hmissing, ?_⟩
  dsimp only
  rw [Chain.grade_mod_sixteen]
  exact Nat.mod_eq_of_lt (by omega : 1 + 2 * cause < 16)

end Sys2Proof.Machine

/-! SUPPORT. CHAIN_TAKE_POSITION (05 R117, R131, R140): what taking a position reads, and what it leaves. -/
namespace Sys2Proof.Machine
open Sys2Proof

/-! ### Detector signals of detectors that are off (R146) -/

theorem setAt_getD_self {α : Type} (l : List α) (i : Nat) (d : α) : setAt l i (l[i]?.getD d) = l := by
  induction l generalizing i with
  | nil => rfl
  | cons a l ih =>
    cases i with
    | zero => rfl
    | succ i => simpa [setAt] using ih i

theorem State.detSignals_of_off {k : Chain} (h : k.DetOff) (s : State) (x : Stream) (n : Nat) (l : List Nat) :
    s.detSignals x k n l = (k, s) := by
  induction l with
  | nil => rfl
  | cons i l ih =>
    obtain ⟨hen, hlv⟩ := h.getD i
    have hsame : ((k.det[i]?.getD noDet).enabled && (k.det[i]?.getD noDet).level_ i) = (k.det[i]?.getD noDet).level := by
      rw [hen, hlv, Bool.false_and]
    have hdet : setAt k.det i { k.det[i]?.getD noDet with level := (k.det[i]?.getD noDet).level } = k.det :=
      setAt_getD_self k.det i noDet
    simp only [State.detSignals, List.getD_eq_getElem?_getD, hsame, hdet, bne_self_eq_false]
    cases (k.det[i]?.getD noDet).signal <;> exact ih

/-! ### A position that is taken -/

/-- The slot of position `n` is filed or closed (R117). -/
def Stream.Settled (x : Stream) (n : Nat) : Prop := n < x.closedTo ∨ ∃ t, x.slots.get n = some t ∧ t.filed.isSome = true

/-- The chain `k` of a channel once it took position `n`, and the state that its reading, its changes and its detectors
leave. -/
def State.taken (s : State) (ch n : Nat) (r : Ring) (x : Stream) (k : Chain) : Chain × State :=
  let read := s.ringEntry r x.cfg.fmt n
  let due := read.2.applyChanges ch n k
  let bank := (due.2.bank due.1.bank).getD (romBank 0)
  let after := due.1.take bank (x.cfg.fmt != 0) read.1
  if onGrid n after.nRef bank.decim then due.2.detSignals x after n [0, 1, 2] else (after, due.2)

section
variable {s : State} {ch n st : Nat} {r : Ring} {x : Stream} {k : Chain}

section
variable (hr : s.place.rings.get ch = some r) (hx : s.chanStream ch = some (st, x)) (hk : s.filter.chains.get ch = some k)
  (hn : k.next = some n)
include hr hx hk hn

theorem State.takePosition_of_settled (h : x.Settled n) : s.takePosition ch = { (s.taken ch n r x k).2 with
    filter.chains := (s.taken ch n r x k).2.filter.chains.put ch (s.taken ch n r x k).1 } := by
  simp only [State.takePosition, hr, hx, hk, hn]
  rw [if_neg]
  · rfl
  · obtain h | ⟨t, ht, hf⟩ := h
    · simp [h]
    · simp [ht, hf]

theorem State.takePosition_of_open (h : ¬ x.Settled n) : s.takePosition ch = s := by
  obtain ⟨hopen, hempty⟩ := not_or.mp h
  simp only [State.takePosition, hr, hx, hk, hn]
  refine if_pos ?_
  cases ht : x.slots.get n with
  | none => simpa using hopen
  | some t => simpa [hopen] using fun hf => hempty ⟨t, ht, hf⟩

end

/-- A sound line, no change due and every detector off: only the chain changes. -/
theorem State.taken_of_sound (hline : s.markedLines (32 * sampleLine r.cc (r.slotOff x.cfg.fmt n)) 32 = [])
    (hc : k.changes = []) (hoff : k.DetOff) : s.taken ch n r x k =
      (k.take ((s.bank k.bank).getD (romBank 0)) (x.cfg.fmt != 0) (s.ringEntry r x.cfg.fmt n).1, s) := by
  have hread : (s.ringEntry r x.cfg.fmt n).2 = s := by
    simp only [State.ringEntry, State.readRange_clean hline]
  have hdue : s.applyChanges ch n k = (k, s) := by
    simp only [State.applyChanges, hc, List.filter_nil, List.append_nil, List.foldl_nil]
    rw [← hc]
  simp only [State.taken, hread, hdue, State.detSignals_of_off (hoff.take _ _ _), ite_self]

end

/-! ### What taking a position leaves (R140) -/

/-- The parts of the state that the chains of the other channels and the slots are in stay as they are. -/
structure State.SameFeeds (s t : State) : Prop where
  filter : t.filter = s.filter
  ingest : t.ingest = s.ingest
  place : t.place = s.place

theorem State.SameFeeds.refl (s : State) : s.SameFeeds s := ⟨rfl, rfl, rfl⟩

theorem State.SameFeeds.trans {s t u : State} (h : s.SameFeeds t) (h' : t.SameFeeds u) : s.SameFeeds u :=
  ⟨h'.filter.trans h.filter, h'.ingest.trans h.ingest, h'.place.trans h.place⟩

theorem State.SameFeeds.foldl {α : Type} {f : State → α → State} (h : ∀ (s : State) a, s.SameFeeds (f s a)) (l : List α)
    (s : State) : s.SameFeeds (l.foldl f s) := by
  induction l generalizing s with
  | nil => exact .refl s
  | cons a l ih => exact (h s a).trans (ih _)

theorem State.meetErr_sameFeeds (s : State) (l : Nat) : s.SameFeeds (s.meetErr l) := by
  rw [State.meetErr]
  split
  · exact .refl s
  · exact ⟨rfl, rfl, rfl⟩
  · exact ⟨rfl, rfl, rfl⟩

theorem State.readRange_sameFeeds (s : State) (a n : Nat) : s.SameFeeds (s.readRange a n).2 := by
  have h := State.SameFeeds.foldl State.meetErr_sameFeeds (s.markedLines a n) s
  rw [State.readRange]
  split
  · exact h
  · exact h.trans ⟨rfl, rfl, rfl⟩

theorem State.ringEntry_sameFeeds (s : State) (r : Ring) (fmt n : Nat) : s.SameFeeds (s.ringEntry r fmt n).2 := by
  have h := s.readRange_sameFeeds (32 * sampleLine r.cc (r.slotOff fmt n)) 32
  rw [State.ringEntry]
  dsimp only
  split
  · next e => rw [e] at h; exact h
  · next e => rw [e] at h; exact h

theorem chainRecord_sameFeeds (s : State) (ch first count pos : Nat) : s.SameFeeds (chainRecord s ch first count pos) := by
  rw [chainRecord]
  split
  · exact ⟨State.post_filter .., State.post_ingest .., State.post_place ..⟩
  · exact .refl s

theorem State.applyChange_sameFeeds (s : State) (ch : Nat) (k : Chain) (c : Change) :
    s.SameFeeds (s.applyChange ch k c).2 := by
  cases c with
  | reference a nRef tpi first count =>
    simp only [State.applyChange]
    split
    · exact .refl s
    · exact chainRecord_sameFeeds s ch first count a
  | setting a bank gain offset single first count => exact chainRecord_sameFeeds s ch first count a

theorem State.applyChanges_sameFeeds (s : State) (ch n : Nat) (k : Chain) : s.SameFeeds (s.applyChanges ch n k).2 := by
  have hfold (l : List Change) (p : Chain × State) :
      p.2.SameFeeds (l.foldl (fun p c => State.applyChange p.2 ch p.1 c) p).2 := by
    induction l generalizing p with
    | nil => exact .refl p.2
    | cons c l ih => exact (p.2.applyChange_sameFeeds ch p.1 c).trans (ih _)
  exact hfold _ (_, s)

theorem State.detSignals_sameFeeds (s : State) (x : Stream) (k : Chain) (n : Nat) (l : List Nat) :
    s.SameFeeds (s.detSignals x k n l).2 := by
  induction l generalizing s k with
  | nil => exact .refl s
  | cons i l ih =>
    rw [State.detSignals]
    refine State.SameFeeds.trans ?_ (ih _ _)
    split
    · split
      · exact ⟨rfl, rfl, rfl⟩
      · exact .refl s
    · exact .refl s

theorem State.taken_sameFeeds (s : State) (ch n : Nat) (r : Ring) (x : Stream) (k : Chain) :
    s.SameFeeds (s.taken ch n r x k).2 := by
  have h := (s.ringEntry_sameFeeds r x.cfg.fmt n).trans (State.applyChanges_sameFeeds _ ch n k)
  simp only [State.taken]
  split
  · exact h.trans (State.detSignals_sameFeeds _ x _ n [0, 1, 2])
  · exact h

/-- Taking a position changes nothing, or writes the chain of its channel beside what carries no feed. -/
theorem State.takePosition_cases (s : State) (ch : Nat) : s.takePosition ch = s ∨ ∃ t k, s.SameFeeds t ∧
    s.takePosition ch = { t with filter.chains := t.filter.chains.put ch k } := by
  cases hr : s.place.rings.get ch with
  | none => exact .inl (by simp only [State.takePosition, hr])
  | some r =>
    cases hx : s.chanStream ch with
    | none => exact .inl (by simp only [State.takePosition, hr, hx])
    | some p =>
      cases hk : s.filter.chains.get ch with
      | none => exact .inl (by simp only [State.takePosition, hr, hx, hk])
      | some k =>
        cases hn : k.next with
        | none => exact .inl (by simp only [State.takePosition, hr, hx, hk, hn])
        | some n =>
          by_cases h : p.2.Settled n
          · exact .inr ⟨_, _, s.taken_sameFeeds ch n r p.2 k, State.takePosition_of_settled hr hx hk hn h⟩
          · exact .inl (State.takePosition_of_open hr hx hk hn h)

/-! ### CHAIN_TAKE_POSITION -/

@[simp] theorem State.advance_chanStream (s : State) (dt ch : Nat) : (s.advance dt).chanStream ch = s.chanStream ch := by
  simp [State.chanStream]

@[simp] theorem State.advance_bank (s : State) (dt b : Nat) : (s.advance dt).bank b = s.bank b := by
  simp [State.bank]

@[simp] theorem State.advance_markedLines (s : State) (dt a n : Nat) : (s.advance dt).markedLines a n = s.markedLines a n := by
  simp [State.markedLines]

theorem execChainTakePosition_eq (dt ch : Nat) (s : State) :
    exec (.chainTakePosition dt ch) s = .next ((s.advance dt).takePosition ch) := rfl

/-- What the ring holds of a position, from a sound line. -/
theorem State.ringEntry_of_sound {s : State} {r : Ring} {fmt n : Nat}
    (hline : s.markedLines (32 * sampleLine r.cc (r.slotOff fmt n)) 32 = []) : (s.ringEntry r fmt n).1 =
      (let p := memReadN s.place.samples (sampleKey r.cc (r.slotOff fmt n)) (entryBytes fmt)
       if fmt = 0 then { pos := n, value := s32 p 0, sqw := u16 p 4 } else { pos := n, value := s16 p 0, sqw := u16 p 2 }) := by
  simp only [State.ringEntry, State.readRange_clean hline]

/-- Settles O17: a position is taken by the cases of `State.takePosition_of_settled` and `_of_open`, other channels keep theirs
by `State.takePosition_cases`, the CLEAR bank passes its input by `Chain.Clear.take_present` and `_missing`, and the accumulator
stays exact by `firValue_of_bounded`. -/
theorem chainTakesPositionsInOrder : Obligations.ChainTakesPositionsInOrder := by
  refine ⟨⟨?_, ?_, ?_, ?_⟩, fun hist taps => firValue_of_bounded, romBank_valid⟩
  -- A slot that is filed or closed.
  · intro dt ch n st s r x k off p hr hx hk hn hc hoff hsettled hline
    have hsound : (s.advance dt).markedLines (32 * sampleLine r.cc (r.slotOff x.cfg.fmt n)) 32 = [] :=
      (State.advance_markedLines ..).trans hline
    rw [execChainTakePosition_eq,
      State.takePosition_of_settled (by simpa using hr) (by simpa using hx) (by simpa using hk) hn hsettled,
      State.taken_of_sound hsound hc hoff, State.ringEntry_of_sound hsound]
    simp only [State.advance_filter, State.advance_place, State.advance_bank]
    rfl
  -- An open slot.
  · intro dt ch n st s r x k hr hx hk hn hopen hempty
    refine congrArg _ (State.takePosition_of_open (by simpa using hr) (by simpa using hx) (by simpa using hk) hn ?_)
    rintro (h | ⟨t, ht, -⟩)
    · omega
    · rw [hempty] at ht
      cases ht
  -- The other channels.
  · intro dt ch other s hne
    rw [execChainTakePosition_eq]
    obtain h | ⟨t, k, ht, h⟩ := (s.advance dt).takePosition_cases ch
    · exact ⟨_, congrArg _ h, by simp⟩
    · refine ⟨_, congrArg _ h, ?_⟩
      simp [Tab.get_put_other _ _ hne, ht.filter, ht.ingest, ht.place]
  -- The CLEAR bank of 4 800 Hz.
  · intro k n v hlo hhi hbank hgain hoffset hstarted hneed hsingle _ hph hdet
    have hclear : k.Clear := ⟨hbank, hgain, hoffset, hstarted, hneed, hsingle, hph, by simp [Chain.DetOff, hdet]⟩
    exact ⟨hclear.take_present hlo hhi, k.take_next _ _ _, fun cause => hclear.take_missing n⟩

end Sys2Proof.Machine

/-! SUPPORT. The filter commands (05 R126 to R147): what each card's own part answers. -/
namespace Sys2Proof.Machine
open Sys2Proof

section
variable {s : State} {c : Cmd}

/-! ### LOAD_BANK, FREE_BANK and READ_BANK -/

/-- The bank that LOAD_BANK carries. -/
def loadedBank (c : Cmd) : Bank where
  owner := c.inst
  taps := coeffs c.params
  firR := byteAt c.params 2
  cicR := byteAt c.params 3
  rates := byteAt c.params 4

theorem cardLoadBank_run_of_bad_crc (h : crc32c (c.params.take 8 ++ c.params.drop 0x0C) ≠ u32 c.params 8) :
    cardLoadBank.run s c = .err stIntegrity 1 [] := if_pos h

theorem cardLoadBank_run_of_unused (hcrc : crc32c (c.params.take 8 ++ c.params.drop 0x0C) = u32 c.params 8)
    (hn : 16 ≤ byteAt c.params 0) (hu : s.bankInUse (byteAt c.params 0) = false) : cardLoadBank.run s c =
      .ok { s with filter.banks := s.filter.banks.put (byteAt c.params 0) (loadedBank c) } [] := by
  simp [cardLoadBank, loadedBank, hcrc, Nat.not_lt.mpr hn, hu]

theorem cardFreeBank_run_of_unused (hn : 16 ≤ byteAt c.params 0) (hu : s.bankInUse (byteAt c.params 0) = false)
    (hl : s.filter.banks.has (byteAt c.params 0) = true) :
    cardFreeBank.run s c = .ok { s with filter.banks := s.filter.banks.del (byteAt c.params 0) } [] := by
  simp [cardFreeBank, Nat.not_lt.mpr hn, hu, hl]

theorem cardReadBank_run_of_bank {b : Bank} (h : s.bank (byteAt c.params 0) = some b) :
    cardReadBank.run s c = .ok s (bankBytes (byteAt c.params 0) b) := by
  simp [cardReadBank, h]

/-! ### SET_CHAIN and SYNC_DECIMATORS -/

/-- The input rate of a channel. -/
def State.rateOf (s : State) (ch : Nat) : Nat := ((s.chanStream ch).map (fun x => x.2.cfg.rate)).getD 0

section
variable (hdef : ∀ ch ∈ listChannels c.params, s.ingest.chanOf.has ch = true)
include hdef

/-- Every listed channel is defined: the first refusal of the list commands is not met. -/
theorem not_undefined : ¬ (!(listChannels c.params).all s.ingest.chanOf.has) = true := by
  simpa using hdef

/-- SET_CHAIN queues the new setting on each listed channel (R131). -/
theorem cardSetChain_run_of_admitted (hbank : ∀ ch ∈ listChannels c.params,
      ∃ b, s.bank (chainBank c.params (s.rateOf ch)) = some b ∧ bit b.rates (s.rateOf ch) = true)
    (hok : s.listRefusal c.own (listChannels c.params) (u64 c.params 0x0C) false = none) : cardSetChain.run s c =
      .ok (s.mapChains (listChannels c.params) (fun ch k => k.queue (.setting (s.applyPos ch (u64 c.params 0x0C))
        (chainBank c.params (s.rateOf ch)) (s32 c.params 4) (s32 c.params 8) (byteAt c.params 2 == 1)
        ((listChannels c.params).headD 0) (listChannels c.params).length))) [] := by
  refine (if_neg (not_undefined hdef)).trans ((if_neg ?_).trans ?_)
  · rw [Bool.not_eq_true, Bool.not_eq_false', List.all_eq_true]
    intro ch hch
    obtain ⟨b, hb, hr⟩ := hbank ch hch
    rw [State.rateOf] at hb hr
    simp only [hb, hr]
  · dsimp only
    rw [hok]
    rfl

/-- SOURCE TIME queues the new reference on each listed channel (R134). -/
theorem cardSyncDecimators_run_of_time (hsrc : byteAt c.params 0 = 0)
    (hok : s.listRefusal c.own (listChannels c.params) (u64 c.params 0x0C) true = none) : cardSyncDecimators.run s c =
      .ok (s.mapChains (listChannels c.params) (fun ch k => k.queue (.reference (s.applyPos ch (u64 c.params 0x0C))
        (ceilDiv (u64 c.params 4 * qNs) (periodQ (s.rateOf ch))) none ((listChannels c.params).headD 0)
        (listChannels c.params).length))) [] := by
  refine (if_neg (not_undefined hdef)).trans ((if_neg (by rw [hsrc]; decide)).trans ((if_neg (by rw [hsrc]; decide)).trans ?_))
  rw [hok]
  rfl

/-- SOURCE TPI arms each listed channel (R135). -/
theorem cardSyncDecimators_run_of_tpi (hsrc : byteAt c.params 0 = 1) : cardSyncDecimators.run s c =
    .ok (s.mapChains (listChannels c.params) (fun _ k => { k with
      armed := some (byteAt c.params 1, byteAt c.params 2 == 1)
      armList := ((listChannels c.params).headD 0, (listChannels c.params).length) })) [] :=
  (if_neg (not_undefined hdef)).trans (if_pos hsrc)

theorem cardSyncDecimators_run_of_disarm (hsrc : byteAt c.params 0 = 2) : cardSyncDecimators.run s c =
    .ok (s.mapChains (listChannels c.params) (fun _ k => { k with armed := none })) [] :=
  (if_neg (not_undefined hdef)).trans ((if_neg (by rw [hsrc]; decide)).trans (if_pos hsrc))

end

/-! ### SET_DETECTOR, GET_CHAIN and GET_DETECTORS -/

section
variable {k : Chain} (hk : s.filter.chains.get (u16 c.params 0) = some k)
include hk

/-- The detector as SET_DETECTOR without a signal leaves it. -/
def newDetector (p : Bytes) : Detector :=
  if byteAt p 3 = 1 then { enabled := true, window := u16 p 4, thresh := u32 p 8, hyst := u32 p 0x0C } else {}

theorem cardSetDetector_run_of_no_signal (hr : s.readerRunning (u16 c.params 0) = false)
    (hsig : byteAt c.params 3 = 0 ∨ bit (byteAt c.params 0x10) 0 = false) : cardSetDetector.run s c =
      .ok { s.releaseSignals (· == SigSrc.detector (u16 c.params 0) (byteAt c.params 2)) with
        filter.chains := s.filter.chains.put (u16 c.params 0) { k with
          det := setAt k.det (byteAt c.params 2) (newDetector c.params) } } [] := by
  have hs : (byteAt c.params 3 == 1 && bit (byteAt c.params 0x10) 0) = false := by
    obtain h | h := hsig
    · simp [h]
    · simp [h]
  simp only [cardSetDetector, hk, hr, hs, newDetector, Bool.false_eq_true, if_false, beq_iff_eq]
  rfl

/-- The chain's reply to GET_CHAIN. -/
def State.chainReply (s : State) (ch : Nat) (k : Chain) : Bytes :=
  let b := (s.bank k.bank).getD (romBank 0)
  le 1 k.bank ++ le 1 (boolNat k.single) ++ le 1 (if s.place.rings.has ch then (if k.settled b then 2 else 1) else 0) ++
    le 1 ((k.changes.filter (fun x => !x.isRef)).length + 8 * boolNat (k.changes.any (·.isRef)) + 16 * boolNat k.armed.isSome) ++
    leS 4 k.gain ++ leS 4 k.offset ++ le 8 k.nRef ++ le 2 b.span ++ le 2 b.gdHalf ++ le 4 k.scaleSat ++ le 4 k.outSat ++
    le 4 k.substituted ++ le 4 k.restarts

theorem cardGetChain_run_of_defined : cardGetChain.run s c = .ok
    (if bit (byteAt c.params 2) 0 then { s with filter.chains := s.filter.chains.put (u16 c.params 0) { k with
      scaleSat := 0, outSat := 0, substituted := 0, restarts := 0 } } else s) (s.chainReply (u16 c.params 0) k) := by
  simp only [cardGetChain, hk, State.chainReply]
  cases s.place.rings.has (u16 c.params 0) <;> rfl

theorem cardGetDetectors_run_of_output {r : OutRec} (ho : k.outs.head? = some r) : cardGetDetectors.run s c = .ok s
    (leS 4 r.peak ++ le 4 r.rms ++ le 4 r.env ++ le 1 (bitsNat (((List.range 3).map (fun i => (k.det.getD i noDet).enabled)) ++
      ((List.range 3).map (fun i => (k.det.getD i noDet).level)) ++ [bit r.sqw 27])) ++ zeros 3 ++ le 8 r.pos) := by
  simp only [cardGetDetectors, hk, ho]

end
end

/-- Settles O16: each command by what its card's own part answers; the rules of `Laws/Card` make it the row's. -/
theorem filterCommandsComplete : Obligations.FilterCommandsComplete := by
  refine ⟨?_, ?_, ?_, ?_, ?_, ?_, ?_, ?_, ?_, ?_, ?_⟩
  -- LOAD_BANK, FREE_BANK and READ_BANK.
  · exact Card.completes_of (fun _ _ _ => rfl) (fun _ _ h => h)
      (fun _ _ ⟨hcrc, hn, hu⟩ => cardLoadBank_run_of_unused hcrc hn hu)
  · exact Card.refuses_of (fun _ _ _ => rfl) (fun _ _ h => ⟨h, rfl⟩) (fun _ _ h => cardLoadBank_run_of_bad_crc h)
  · exact Card.completes_of (fun _ _ _ => rfl) (fun _ _ h => h) (fun _ _ ⟨hn, hu, hl⟩ => cardFreeBank_run_of_unused hn hu hl)
  · refine Card.reads_of (fun _ _ _ => rfl) rfl (fun _ _ h => ⟨h, rfl⟩) (fun s c h => ?_)
    obtain ⟨b, hb⟩ := Option.isSome_iff_exists.mp h
    rw [cardReadBank_run_of_bank hb, hb]
    rfl
  -- SET_CHAIN and SYNC_DECIMATORS.
  · exact Card.completes_of (fun _ _ _ => rfl) (fun _ _ h => h) (fun s c ⟨h, hok⟩ =>
      cardSetChain_run_of_admitted (fun ch hch => (h ch hch).1) (fun ch hch => (h ch hch).2) hok)
  · exact Card.completes_of (fun _ _ _ => rfl) (fun _ _ h => h)
      (fun _ _ ⟨hsrc, hdef, hok⟩ => cardSyncDecimators_run_of_time hdef hsrc hok)
  · exact Card.completes_of (fun _ _ _ => rfl) (fun _ _ h => h)
      (fun _ _ ⟨hsrc, hdef⟩ => cardSyncDecimators_run_of_tpi hdef hsrc)
  · exact Card.completes_of (fun _ _ _ => rfl) (fun _ _ h => h)
      (fun _ _ ⟨hsrc, hdef⟩ => cardSyncDecimators_run_of_disarm hdef hsrc)
  -- SET_DETECTOR, GET_CHAIN and GET_DETECTORS.
  · refine Card.completes_of (fun _ _ _ => rfl) (fun _ _ h => h) (fun s c ⟨h, hr, hsig⟩ => ?_)
    obtain ⟨k, hk⟩ := Option.isSome_iff_exists.mp h
    rw [cardSetDetector_run_of_no_signal hk hr hsig]
    simp only [hk]
    rfl
  · refine Card.completes_of (fun _ _ _ => rfl) (fun _ _ h => h) (fun s c h => ?_)
    obtain ⟨k, hk⟩ := Option.isSome_iff_exists.mp h
    rw [cardGetChain_run_of_defined hk]
    simp only [hk]
    rfl
  · refine Card.reads_of (fun _ _ _ => rfl) rfl (fun _ _ h => ⟨h, rfl⟩) (fun s c ⟨k, r, hk, ho⟩ => ?_)
    rw [cardGetDetectors_run_of_output hk ho, hk]
    simp only [Option.getD_some, List.headD_eq_head?_getD, ho]
    rfl

end Sys2Proof.Machine

/-! SUPPORT. One instruction on an engine, said once for PEs and LSs: what a copy that comes to its word does with the outcome
of the row, and how an exception leaves its engine (06 R152, R157, R168, R177 to R181, 07 R191 to R201). -/
namespace Sys2Proof.Machine
open Sys2Proof

/-! ### An engine after an update -/

theorem Tab.put_put {α : Type} (t : Tab α) (k : Nat) (v w : α) : (t.put k v).put k w = t.put k w := by
  induction t with
  | nil => simp [Tab.put]
  | cons p t ih =>
    obtain ⟨k', u⟩ := p
    rcases Nat.lt_trichotomy k k' with h | rfl | h
    · simp [Tab.put, h]
    · simp [Tab.put]
    · simp [Tab.put, Nat.not_lt.mpr h.le, h.ne', ih]

@[simp] theorem State.setEng_eng_self (s : State) (e : Eng) (g : Engine) : (s.setEng e g).eng e = g := by
  cases h : e.ls <;> simp [State.setEng, State.eng, h, Tab.getD_put_self]

@[simp] theorem State.modEng_eng_self (s : State) (e : Eng) (f : Engine → Engine) : (s.modEng e f).eng e = f (s.eng e) :=
  s.setEng_eng_self e _

theorem State.modEng_modEng (s : State) (e : Eng) (f g : Engine → Engine) :
    (s.modEng e f).modEng e g = s.modEng e (fun x => g (f x)) := by
  rw [State.modEng, State.modEng_eng_self]
  cases h : e.ls <;> simp [State.modEng, State.setEng, h, Tab.put_put]

/-! ### Exceptions (06 R159, R180) -/

@[simp] theorem State.postResult_eng (s : State) (fi k : Nat) (p : Posted) (e : Eng) : (s.postResult fi k p).eng e = s.eng e := by
  simp only [State.postResult]
  split <;> rfl

@[simp] theorem State.postResult_uncorrAt (s : State) (fi k : Nat) (p : Posted) :
    (s.postResult fi k p).anvil.uncorrAt = s.anvil.uncorrAt := by
  simp only [State.postResult]
  split <;> rfl

@[simp] theorem State.noteIcount_eng (s : State) (x : Exec) (e : Eng) : (s.noteIcount x).eng e = s.eng e := rfl
@[simp] theorem State.noteIcount_anvil (s : State) (x : Exec) : (s.noteIcount x).anvil = s.anvil := rfl

/-- An exception changes the phase of its engine and gives its copy the record. -/
theorem State.raiseExc_eng (s : State) (e : Eng) (x : Exec) (code trap detail : Nat) : (s.raiseExc e x code trap detail).eng e =
    { s.eng e with phase := .exception, exec := some { x with exc := some (excRecord code trap x.pc x.ic detail) } } := by
  simp [State.raiseExc]

@[simp] theorem State.raiseExc_uncorrAt (s : State) (e : Eng) (x : Exec) (code trap detail : Nat) :
    (s.raiseExc e x code trap detail).anvil.uncorrAt = s.anvil.uncorrAt := by
  simp [State.raiseExc]

/-- No memory fails where no line was just found uncorrectable (11 R295). -/
theorem State.regionFail_of_no_failure {s : State} (h : s.anvil.uncorrAt = []) : s.regionFail = s := by
  simp [State.regionFail, h]

theorem State.regionFail_modEng {s : State} (h : s.anvil.uncorrAt = []) (e : Eng) (f : Engine → Engine) :
    (s.modEng e f).regionFail = s.modEng e f :=
  State.regionFail_of_no_failure (by simpa using h)

theorem State.Ready.no_failure {s : State} {e : Eng} {n word w : Nat} {x : Exec} (h : s.Ready e n word w x) :
    s.anvil.uncorrAt = [] := by
  obtain ⟨-, -, -, -, -, hno⟩ := h
  exact hno

/-- An instruction that ends in `raiseExc` raises its exception, whatever counters it touched before. -/
theorem Raises.of_raiseExc {e : Eng} {i : Instr} {s t : State} {x : Exec} {code trap ic detail : Nat}
    (hx : exec i s = .next (t.raiseExc e { x with ic := ic } code trap detail)) (ht : t.eng e = s.eng e) :
    Raises e i s x code trap ic detail := by
  refine ⟨_, hx, ?_⟩
  simp only [State.raiseExc_eng, ht, and_self]

/-! ### Reads through the windows (06 R152, 11 R295, R296) -/

section
variable {s : State} {e : Eng} {x : Exec} {addr n m : Nat}

theorem State.peLoad_of_misaligned (al : addr % n ≠ 0) : s.peLoad e x addr n = (.error xAlign, s) := if_pos al

theorem State.peLoad_of_outside (al : addr % n = 0) (hp : x.physical .load addr n = none) :
    s.peLoad e x addr n = (.error xAccess, s) := by
  simp [State.peLoad, al, hp]

theorem State.peLoad_of_clean (al : addr % n = 0) (hp : x.physical .load addr n = some m) (h : s.markedLines (e.base + m) n = []) :
    s.peLoad e x addr n = (.ok (leNat (memReadN (s.eng e).mem m n)), s) := by
  simp [State.peLoad, al, hp, State.readRange_clean h]

/-- A line without a flipped bit is met without effect. -/
theorem State.meetErr_of_sound {l : Nat} (h : s.anvil.errs = []) : s.meetErr l = s := by
  simp [State.meetErr, h, Tab.get]

theorem State.foldl_meetErr_of_sound (h : s.anvil.errs = []) (l : List Nat) : l.foldl (fun s l => s.meetErr l) s = s := by
  induction l with
  | nil => rfl
  | cons l t ih => rw [List.foldl_cons, State.meetErr_of_sound h, ih]

/-- A read that meets no flipped bit but a POISONED line delivers poison, and counts it in a health counter only. -/
theorem State.readRange_of_poison {a l : Nat} (herr : s.anvil.errs = []) (hl : l ∈ s.anvil.poison) (hlo : a < l * 32 + 32)
    (hhi : l * 32 < a + n) : ∃ l' f, s.readRange a n = (true, s.lineHealth l' f) := by
  have hmem : l ∈ (s.markedLines a n).filter s.anvil.poison.contains := by
    simp [State.markedLines, hl, hlo, hhi]
  rw [State.readRange, State.foldl_meetErr_of_sound herr]
  split
  · next hnil => rw [hnil] at hmem; cases hmem
  · exact ⟨_, _, rfl⟩

end

/-! ### A PE comes to its word (06 R177, R181) -/

section
variable {s t : State} {k word w code trap detail addr m : Nat} {x : Exec} {p : Bytes} {r : PeRegs}
  {f : Exec → PeRegs → State → PeOut × State}

/-- The outcome of the row is applied to the copy with its weight counted. -/
theorem State.peRun_of_ready {o : PeOut} (h : s.Ready (engOfKey false k) 4 word w x)
    (hf : f (x.past w x.pc) (s.eng (engOfKey false k)).pe s = (o, t)) :
    s.peRun k word w f = (t.peApply (engOfKey false k) (x.past w x.pc) o).regionFail := by
  obtain ⟨hrun, hexec, hfetch, hlegal, hw, -⟩ := h
  have hl : peLegal word = true := hlegal
  have hov : ¬ x.ic + w > x.wcic := Nat.not_lt.mpr hw
  simp only [Exec.past] at hf ⊢
  simp [State.peRun, hrun, hexec, hfetch, hl, hov, hf]

theorem State.peRun_of_regs (h : s.Ready (engOfKey false k) 4 word w x)
    (hf : f (x.past w x.pc) (s.eng (engOfKey false k)).pe s = (.regs r, s)) : s.peRun k word w f =
      s.modEng (engOfKey false k) (fun g => { g with pe := r, exec := some (x.past w (x.pc + 4)) }) := by
  rw [State.peRun_of_ready h hf]
  exact State.regionFail_modEng h.no_failure ..

theorem State.peRun_of_jump {pc : Nat} (h : s.Ready (engOfKey false k) 4 word w x)
    (hf : f (x.past w x.pc) (s.eng (engOfKey false k)).pe s = (.jump r pc, s)) : s.peRun k word w f =
      s.modEng (engOfKey false k) (fun g => { g with pe := r, exec := some (x.past w (pc % 2 ^ 32)) }) := by
  rw [State.peRun_of_ready h hf]
  exact State.regionFail_modEng h.no_failure ..

theorem State.peRun_of_ends (h : s.Ready (engOfKey false k) 4 word w x)
    (hf : f (x.past w x.pc) (s.eng (engOfKey false k)).pe s = (.ends, s)) : s.peRun k word w f =
      s.modEng (engOfKey false k) (fun g => { g with phase := .signing, exec := some (x.past w x.pc) }) := by
  rw [State.peRun_of_ready h hf]
  exact State.regionFail_modEng h.no_failure ..

/-- A store into clean lines writes local memory and the signature's bytes (06 R158, R168). -/
theorem State.storeBytes_of_clean {e : Eng} {pc : Nat} (h : s.markedLines (e.base + m) p.length = []) :
    s.storeBytes e (x.past w pc) m addr p = s.stored e x w pc m addr p := by
  simp only [State.storeBytes, State.engWrite, State.wroteRange, h, List.foldl_nil, State.modEng_modEng]
  rfl

theorem State.peRun_of_store (h : s.Ready (engOfKey false k) 4 word w x)
    (hf : f (x.past w x.pc) (s.eng (engOfKey false k)).pe s = (.store addr p, s)) (al : addr % p.length = 0)
    (hp : x.physical .store addr p.length = some m) (hm : s.markedLines ((engOfKey false k).base + m) p.length = []) :
    s.peRun k word w f = s.stored (engOfKey false k) x w (x.pc + 4) m addr p := by
  have happly : s.peApply (engOfKey false k) (x.past w x.pc) (.store addr p) =
      s.stored (engOfKey false k) x w (x.pc + 4) m addr p := by
    have hp' : (x.past w x.pc).physical .store addr p.length = some m := hp
    simp only [State.peApply, if_neg (not_not.mpr al), hp']
    exact State.storeBytes_of_clean (x := x) (w := w) (pc := x.pc + 4) hm
  rw [State.peRun_of_ready h hf, happly]
  exact State.regionFail_modEng h.no_failure ..

/-- An outcome that raises an exception: the weight is counted, no register changes. -/
theorem Raises.of_peRun {i : Instr} {o : PeOut} (hx : exec i s = .next (s.peRun k word w f))
    (h : s.Ready (engOfKey false k) 4 word w x) (hf : f (x.past w x.pc) (s.eng (engOfKey false k)).pe s = (o, s))
    (ho : s.peApply (engOfKey false k) (x.past w x.pc) o = s.raiseExc (engOfKey false k) (x.past w x.pc) code trap detail) :
    Raises (engOfKey false k) i s x code trap (x.ic + w) detail := by
  refine .of_raiseExc (t := s) ?_ rfl
  rw [hx, State.peRun_of_ready h hf, ho, State.regionFail_of_no_failure (by simpa using h.no_failure)]
  rfl

/-- A legal word whose weight would pass WCIC is not counted (06 R177). The row's next state `t` and the run it is stand apart, so
that a row is matched with its run by a lemma and not by unfolding `peRun`. -/
theorem Raises.of_peRun_overrun {i : Instr} (hx : exec i s = .next t) (ht : t = s.peRun k word w f)
    (hrun : (s.eng (engOfKey false k)).phase = .running) (hexec : (s.eng (engOfKey false k)).exec = some x)
    (hfetch : s.fetch (engOfKey false k) x 4 = (.ok word, s)) (hl : peLegal word = true) (hw : x.wcic < x.ic + w) :
    Raises (engOfKey false k) i s x xWcic 0 x.ic 0 := by
  refine .of_raiseExc (t := s) ?_ rfl
  rw [hx, ht]
  simp [State.peRun, hrun, hexec, hfetch, hl, hw]

theorem Raises.of_peIllegal {i : Instr} (hx : exec i s = .next (s.peIllegal k))
    (hrun : (s.eng (engOfKey false k)).phase = .running) (hexec : (s.eng (engOfKey false k)).exec = some x)
    (hfetch : s.fetch (engOfKey false k) x 4 = (.ok word, s)) (hl : peLegal word = false) :
    Raises (engOfKey false k) i s x xIllegal 0 x.ic 0 := by
  refine .of_raiseExc (t := s) ?_ rfl
  rw [hx]
  simp [State.peIllegal, hrun, hexec, hfetch, hl]

end

/-! ### An LS comes to its word (07 R199, R201) -/

section
variable {s t : State} {k word code detail : Nat} {x : Exec} {f : Exec → LsRegs → State → LsOut × State}

/-- The outcome of the row is applied to the copy with its instruction counted. -/
theorem State.lsRun_of_ready {o : LsOut} (h : s.Ready (engOfKey true k) 2 word 1 x)
    (hf : f (x.past 1 x.pc) (s.eng (engOfKey true k)).lsr s = (o, t)) :
    s.lsRun k word f = (t.lsApply (engOfKey true k) (x.past 1 x.pc) o).regionFail := by
  obtain ⟨hrun, hexec, hfetch, hlegal, hw, -⟩ := h
  have hl : lsLegal word = true := hlegal
  have hov : ¬ x.ic + 1 > x.wcic := Nat.not_lt.mpr hw
  simp only [Exec.past] at hf ⊢
  simp [State.lsRun, hrun, hexec, hfetch, hl, hov, hf]

/-- An outcome that raises an exception, whatever health counters its read touched. -/
theorem Raises.of_lsRun {i : Instr} (hx : exec i s = .next (s.lsRun k word f)) (h : s.Ready (engOfKey true k) 2 word 1 x)
    (hf : f (x.past 1 x.pc) (s.eng (engOfKey true k)).lsr s = (.exc code detail, t))
    (heng : t.eng (engOfKey true k) = s.eng (engOfKey true k)) (hunc : t.anvil.uncorrAt = s.anvil.uncorrAt) :
    Raises (engOfKey true k) i s x code 0 (x.ic + 1) detail := by
  refine .of_raiseExc ?_ heng
  rw [hx, State.lsRun_of_ready h hf, State.lsApply, State.regionFail_of_no_failure (by simpa [hunc] using h.no_failure)]
  rfl

theorem Raises.of_lsRun_overrun {i : Instr} (hx : exec i s = .next (s.lsRun k word f))
    (hrun : (s.eng (engOfKey true k)).phase = .running) (hexec : (s.eng (engOfKey true k)).exec = some x)
    (hfetch : s.fetch (engOfKey true k) x 2 = (.ok word, s)) (hl : lsLegal word = true) (hw : x.wcic < x.ic + 1) :
    Raises (engOfKey true k) i s x xWcic 0 x.ic 0 := by
  refine .of_raiseExc (t := s) ?_ rfl
  rw [hx]
  simp [State.lsRun, hrun, hexec, hfetch, hl, hw]

theorem Raises.of_lsIllegal {i : Instr} (hx : exec i s = .next (s.lsIllegal k))
    (hrun : (s.eng (engOfKey true k)).phase = .running) (hexec : (s.eng (engOfKey true k)).exec = some x)
    (hfetch : s.fetch (engOfKey true k) x 2 = (.ok word, s)) (hl : lsLegal word = false) :
    Raises (engOfKey true k) i s x xIllegal 0 x.ic 0 := by
  refine .of_raiseExc (t := s) ?_ rfl
  rw [hx]
  simp [State.lsIllegal, hrun, hexec, hfetch, hl]

end

end Sys2Proof.Machine

/-! SUPPORT. The integer arithmetic of a PE: saturation, roots, quotients and reciprocals (06 R163, R164, R176). -/
namespace Sys2Proof.Machine
open Sys2Proof

/-! ### Roots (R176) -/

/-- Bit by bit from `r`, with `n` between the squares of `r` and of `r + 2^k`, the root of `n` is found. -/
theorem isqrtGo_eq_sqrt (k n r : Nat) (hlo : r * r ≤ n) (hhi : n < (r + 2 ^ k) * (r + 2 ^ k)) : isqrtGo k n r = n.sqrt := by
  induction k generalizing r with
  | zero => exact Nat.eq_sqrt.mpr ⟨hlo, hhi⟩
  | succ k ih =>
    rw [isqrtGo]
    split
    · next h => exact ih _ h (by rwa [Nat.add_assoc, ← Nat.two_mul, ← Nat.pow_succ'])
    · next h => exact ih _ hlo (Nat.not_le.mp h)

/-- `isqrt` is the floor of the root of every number below 2^80. -/
theorem isqrt_eq_sqrt {n : Nat} (h : n < 2 ^ 80) : isqrt n = n.sqrt :=
  isqrtGo_eq_sqrt 40 n 0 (Nat.zero_le n) (by rwa [Nat.zero_add, ← Nat.pow_add])

/-- The floor of a root of a number below 2^64, and that it fits a word. -/
theorem isqrt_spec {n : Nat} (h : n < 2 ^ 64) : isqrt n ^ 2 ≤ n ∧ n < (isqrt n + 1) ^ 2 ∧ isqrt n < 2 ^ 32 := by
  rw [isqrt_eq_sqrt (h.trans (by decide))]
  exact ⟨Nat.sqrt_le' n, Nat.lt_succ_sqrt' n, Nat.sqrt_lt'.mpr h⟩

theorem natAbs_toInt_le (a : Word) : a.toInt.natAbs ≤ 2 ^ 31 := by
  have hlo := a.le_toInt
  have hhi := a.toInt_lt
  omega

theorem sumSquares_lt (a b : Word) : a.toInt.natAbs ^ 2 + b.toInt.natAbs ^ 2 < 2 ^ 64 :=
  calc a.toInt.natAbs ^ 2 + b.toInt.natAbs ^ 2 ≤ (2 ^ 31) ^ 2 + (2 ^ 31) ^ 2 :=
        Nat.add_le_add (Nat.pow_le_pow_left (natAbs_toInt_le a) 2) (Nat.pow_le_pow_left (natAbs_toInt_le b) 2)
    _ < 2 ^ 64 := by decide

/-! ### Saturation (R164) -/

/-- An integer of 32 bits is read back from its word. -/
theorem toInt_iw {v : Int} (hlo : -2147483648 ≤ v) (hhi : v ≤ 2147483647) : (iw v).toInt = v :=
  BitVec.toInt_ofInt_eq_self (by decide) hlo (by omega)

/-- The value sat32 gives: the nearest of the range. -/
theorem toInt_satW (v : Int) : (satW v).1.toInt = min (max v (-2147483648)) 2147483647 := by
  rw [satW]
  split
  · rw [show (0x7FFFFFFF#32).toInt = 2147483647 from rfl]; omega
  · split
    · rw [show (0x80000000#32).toInt = -2147483648 from rfl]; omega
    · rw [toInt_iw] <;> omega

/-- SAT is set exactly where sat32 moves its argument. -/
theorem satW_flag (v : Int) : (satW v).2 = if (satW v).1.toInt = v then 0 else 1 := by
  rw [toInt_satW, satW]
  split
  · rw [if_neg (by omega)]; rfl
  · split
    · rw [if_neg (by omega)]; rfl
    · rw [if_pos (by omega)]

theorem toInt_satW_of_no_flag {v : Int} (h : (satW v).2 = 0) : (satW v).1.toInt = v := by
  by_contra hne
  rw [satW_flag, if_neg hne] at h
  cases h

/-! ### Quotients (R163) -/

theorem toInt_ne_zero {b : Word} (h : b ≠ 0) : b.toInt ≠ 0 := fun hz => h (BitVec.toInt_inj.mp (hz.trans rfl))

/-- A quotient of two words leaves the range only for the one pair that R163 names. -/
theorem tdiv_le_of_not_corner {a b : Word} (h : ¬ (a = 0x80000000 ∧ b = 0xFFFFFFFF)) : a.toInt.tdiv b.toInt ≤ 2147483647 := by
  have ha := natAbs_toInt_le a
  have hhi := a.toInt_lt
  rcases Nat.lt_or_ge b.toInt.natAbs 2 with hb | hb
  · obtain h0 | h1 | hm : b.toInt = 0 ∨ b.toInt = 1 ∨ b.toInt = -1 := by omega
    · rw [h0, Int.tdiv_zero]; decide
    · rw [h1, Int.tdiv_one]; omega
    · rw [hm, Int.tdiv_neg, Int.tdiv_one]
      have hne : a.toInt ≠ -2147483648 := fun ha' =>
        h ⟨BitVec.toInt_inj.mp (ha'.trans rfl), BitVec.toInt_inj.mp (hm.trans rfl)⟩
      omega
  · have habs : (a.toInt.tdiv b.toInt).natAbs ≤ a.toInt.natAbs / 2 := by
      rw [Int.natAbs_tdiv]; exact Nat.div_le_div_left hb (by decide)
    omega

theorem toInt_divsWord {a b : Word} (hb : b ≠ 0) (h : ¬ (a = 0x80000000 ∧ b = 0xFFFFFFFF)) :
    (divsWord a b).toInt = a.toInt.tdiv b.toInt := by
  have hlo := a.le_toInt
  have habs : (a.toInt.tdiv b.toInt).natAbs ≤ a.toInt.natAbs := by
    rw [Int.natAbs_tdiv]; exact Nat.div_le_self _ _
  have hhi := tdiv_le_of_not_corner h
  have ha := natAbs_toInt_le a
  rw [divsWord, if_neg hb, if_neg h]
  exact toInt_iw (by simp only [wi]; omega) hhi

theorem toInt_remsWord {a b : Word} (hb : b ≠ 0) (h : ¬ (a = 0x80000000 ∧ b = 0xFFFFFFFF)) :
    (remsWord a b).toInt = a.toInt.tmod b.toInt := by
  have hlt : (a.toInt.tmod b.toInt).natAbs < b.toInt.natAbs := by
    rw [Int.natAbs_tmod]; exact Nat.mod_lt _ (Int.natAbs_pos.mpr (toInt_ne_zero hb))
  have hbb := natAbs_toInt_le b
  rw [remsWord, if_neg hb, if_neg h]
  exact toInt_iw (by simp only [wi]; omega) (by simp only [wi]; omega)

/-! ### Reciprocals (R176) -/

/-- RECIPQ of a positive word is the rounded quotient, clamped. -/
theorem recipq_of_pos {a : Word} {k : Nat} (h : 0 < a.toInt) :
    recipq a k = satW (((2 ^ (2 * k) + a.toInt.natAbs / 2) / a.toInt.natAbs : Nat) : Int) := by
  have hn : a.toInt.natAbs ≠ 0 := by omega
  simp [recipq, wi, hn, h]

/-- A quotient rounded to nearest is off by at most half its divisor. -/
theorem roundedDiv_error (N n : Nat) (h : 0 < n) : (2 * ((n : Int) * ((N + n / 2) / n : Nat) - N)).natAbs ≤ n := by
  have hdm := Nat.div_add_mod (N + n / 2) n
  have hmod := Nat.mod_lt (N + n / 2) h
  rw [← Nat.cast_mul]
  omega

/-- Settles O21: the roots by `isqrt_spec`, the quotients by `Int.tdiv` and `Int.tmod`, the reciprocal by `roundedDiv_error`,
sat32 by its value and its flag. -/
theorem peRootsAndQuotients : Obligations.PeRootsAndQuotients := by
  refine ⟨fun a => isqrt_spec (a.isLt.trans (by decide)), fun a b => isqrt_spec (sumSquares_lt a b), fun a b hb h => ?_,
    fun a k _ ha hsat => ?_, fun v => ⟨toInt_satW v, satW_flag v⟩⟩
  · rw [toInt_divsWord hb h, toInt_remsWord hb h]
    refine ⟨(Int.mul_tdiv_add_tmod _ _).symm, ?_, Int.tmod_nonneg _, ?_⟩
    · rw [Int.natAbs_tmod]; exact Nat.mod_lt _ (Int.natAbs_pos.mpr (toInt_ne_zero hb))
    · intro ha
      have := Int.tmod_nonneg b.toInt (Int.neg_nonneg_of_nonpos ha)
      rw [Int.neg_tmod] at this
      omega
  · rw [recipq_of_pos ha] at hsat ⊢
    rw [toInt_satW_of_no_flag hsat]
    have herr := roundedDiv_error (2 ^ (2 * k)) a.toInt.natAbs (by omega)
    rwa [Int.natAbs_of_nonneg ha.le, Nat.cast_pow, Nat.cast_ofNat] at herr

end Sys2Proof.Machine

/-! SUPPORT. The instructions of a PE that change registers only (06 R163 to R168, R170, R176). -/
namespace Sys2Proof.Machine
open Sys2Proof

/-! ### Numbers as the rows write them -/

theorem shr_eq_ediv (v : Int) (k : Nat) : shr v k = v / 2 ^ k := by
  rw [shr, Int.fdiv_eq_ediv_of_nonneg _ (Int.natCast_nonneg _), Nat.cast_pow, Nat.cast_ofNat]

theorem slt_kSigned_iff (a : Word) (k : BitVec 14) : a.slt (kSigned k) = true ↔ a.toInt < k.toInt := by
  rw [BitVec.slt_iff_toInt_lt, kSigned, BitVec.toInt_signExtend_of_le (by decide)]

theorem toSigned_eq_toInt {n : Nat} (h : 0 < n) (v : Nat) : toSigned n v = (BitVec.ofNat n v).toInt := by
  have hp : 2 ^ n = 2 * 2 ^ (n - 1) := by rw [← Nat.pow_succ', Nat.succ_eq_add_one, Nat.sub_add_cancel h]
  have hsign : v % 2 ^ n < 2 ^ (n - 1) ↔ 2 * (v % 2 ^ n) < 2 ^ n := by omega
  simp only [toSigned, BitVec.toInt_eq_toNat_cond, BitVec.toNat_ofNat, hsign]

/-- A loaded halfword extended by its sign (R168). -/
theorem sext_two : sext 2 = fun v => (BitVec.ofNat 16 v).signExtend 32 :=
  funext fun v => congrArg iw (toSigned_eq_toInt (n := 16) (by decide) v)

/-- A loaded byte extended by its sign (R168). -/
theorem sext_one : sext 1 = fun v => (BitVec.ofNat 8 v).signExtend 32 :=
  funext fun v => congrArg iw (toSigned_eq_toInt (n := 8) (by decide) v)

theorem append_extractLsb' (v : BitVec 16) (w : Word) :
    v ++ w.extractLsb' 0 16 = BitVec.ofNat 32 (v.toNat * 65536 + w.toNat % 65536) := by
  apply BitVec.eq_of_toNat_eq
  rw [BitVec.toNat_append, BitVec.extractLsb'_toNat, Nat.shiftRight_zero,
    ← Nat.shiftLeft_add_eq_or_of_lt (Nat.mod_lt _ (by decide)), Nat.shiftLeft_eq, BitVec.toNat_ofNat]
  omega

theorem bit_mod_64 (v : Nat) {i : Nat} (h : i < 6) : bit (v % 64) i = bit v i := by
  have h2 : 64 = 2 ^ i * 2 ^ (6 - i) := by rw [← Nat.pow_add, Nat.add_sub_cancel' h.le]
  have h3 : 2 ∣ 2 ^ (6 - i) := dvd_pow_self 2 (by omega)
  rw [bit, bit, h2, Nat.mod_mul_right_div_self, Nat.mod_mod_of_dvd _ h3]

/-- A result without flags leaves STATUS. -/
@[simp] theorem PeRegs.raise_zero (r : PeRegs) : r.raise 0 = r := by
  simp [PeRegs.raise]

/-! ### Instructions on registers -/

section
variable {k word w : Nat} {i : Instr}

theorem PeDoes.of_peRegs {f : PeRegs → PeRegs} (hx : ∀ s, exec i s = .next (s.peRegs k word w f)) : PeDoes k i word w f := by
  intro s x h
  rw [hx, State.peRegs, State.peRun_of_regs h rfl]
  rfl

theorem PeDoes.of_peSet {d : Reg} {f : PeRegs → Res} (hx : ∀ s, exec i s = .next (s.peSet k word w d f)) :
    PeDoes k i word w (fun r => r.took d (f r)) := .of_peRegs hx

/-- A row that sets no flag. -/
theorem PeDoes.of_peSet_no_flags {d : Reg} {f : PeRegs → Word}
    (hx : ∀ s, exec i s = .next (s.peSet k word w d (fun r => (f r, 0)))) :
    PeDoes k i word w (fun r => r.set d (f r)) := by
  simpa only [PeRegs.took, PeRegs.raise_zero] using PeDoes.of_peSet hx

theorem PeDoes.of_peAcc {n : Fin 4} {f : PeRegs → Acc × Nat} (hx : ∀ s, exec i s = .next (s.peAcc k word w n f)) :
    PeDoes k i word w (fun r => (r.setAcc n (f r).1).raise (f r).2) := .of_peRegs hx

theorem PeDoes.of_peAcc_no_flags {n : Fin 4} {f : PeRegs → Acc}
    (hx : ∀ s, exec i s = .next (s.peAcc k word w n (fun r => (f r, 0)))) :
    PeDoes k i word w (fun r => r.setAcc n (f r)) := by
  simpa only [PeRegs.raise_zero] using PeDoes.of_peAcc hx

end

/-- Settles O18: a row is `peSet` of its value by its definition, or once the value is read as an integer. -/
theorem peRegisterInstructions : Obligations.PeRegisterInstructions := by
  refine ⟨fun row h k d a b => .of_peSet (f := fun r => row.2.2.2 (r.get a) (r.get b)) fun s => ?_,
    fun row h k d a b c => .of_peSet (f := fun r => row.2.2.2 (r.get a) (r.get b) (r.get c) c.val) fun s => ?_,
    fun row h k d a => .of_peSet (f := fun r => row.2.2.2 (r.get a)) fun s => ?_,
    fun row h k d a c => .of_peSet (f := fun r => row.2.2.2 (r.get a) c.val) fun s => ?_,
    fun row h k d a v => .of_peSet (f := fun r => row.2.2 (r.get a) v) fun s => ?_,
    fun k d v => ⟨.of_peSet_no_flags fun s => ?_, .of_peSet_no_flags fun s => ?_⟩,
    fun k d a => ⟨.of_peRegs fun _ => rfl, .of_peRegs fun s => ?_⟩⟩
  -- Operands a and b: comparisons and MULHS as the model writes them.
  · revert row
    simp only [List.forall_mem_cons, ← BitVec.slt_iff_toInt_lt, ← BitVec.ult_iff_toNat_lt, ← shr_eq_ediv]
    exact ⟨rfl, rfl, rfl, rfl, rfl, rfl, rfl, rfl, rfl, rfl, rfl, rfl, rfl, rfl, rfl, rfl, rfl, rfl, rfl, rfl, rfl, rfl,
      rfl, rfl, rfl, rfl, rfl, rfl, rfl, rfl, rfl, rfl, List.forall_mem_nil _⟩
  -- Operands a, b and c.
  · revert row
    simp only [List.forall_mem_cons, ← shr_eq_ediv, ite_not, ne_eq]
    exact ⟨rfl, rfl, rfl, rfl, rfl, List.forall_mem_nil _⟩
  -- Operand a.
  · revert row
    simp only [List.forall_mem_cons]
    exact ⟨rfl, rfl, rfl, rfl, rfl, rfl, rfl, rfl, rfl, rfl, List.forall_mem_nil _⟩
  -- Operand a and the c-field as a number.
  · revert row
    simp only [List.forall_mem_cons, ← shr_eq_ediv]
    exact ⟨rfl, rfl, rfl, rfl, rfl, rfl, rfl, rfl, List.forall_mem_nil _⟩
  -- Operand a and a constant.
  · revert row
    simp only [List.forall_mem_cons, ← slt_kSigned_iff]
    exact ⟨rfl, rfl, rfl, rfl, rfl, rfl, List.forall_mem_nil _⟩
  -- MOVL, MOVH and MTS.
  · simp only [BitVec.ofNat_toNat]
    rfl
  · simp only [← append_extractLsb']
    rfl
  · simp (disch := decide) only [← bit_mod_64 (PeRegs.get _ a).toNat]
    rfl

end Sys2Proof.Machine

/-! SUPPORT. The accumulators, loads, stores and the control flow of a PE, and PHASOR (06 R166 to R170, R176). -/
namespace Sys2Proof.Machine
open Sys2Proof

/-! ### Loads and stores (R168) -/

section
variable {s : State} {x : Exec} {i : Instr} {k op n m : Nat} {d a : Reg} {v : BitVec 14}

theorem exec_of_peLd {ext : Nat → Word} (hx : ∀ s, exec i s = .next (s.peLd k op n d a v ext))
    (h : s.Ready (engOfKey false k) 4 (encK op d a v) 1 x)
    (al : ((s.eng (engOfKey false k)).pe.get a + kSigned v).toNat % n = 0)
    (hp : x.physical .load ((s.eng (engOfKey false k)).pe.get a + kSigned v).toNat n = some m)
    (hm : s.markedLines ((engOfKey false k).base + m) n = []) : exec i s =
      .next (s.modEng (engOfKey false k) (fun g => { g with
        pe := g.pe.set d (ext (leNat (memReadN g.mem m n))), exec := some (x.past 1 (x.pc + 4)) })) := by
  have hread := State.peLoad_of_clean (x := x.past 1 x.pc) al hp hm
  rw [hx, State.peLd, State.peRun_of_regs h (by simp only [hread]; rfl)]
  rfl

theorem exec_of_peSt (hx : ∀ s, exec i s = .next (s.peSt k op n d a v))
    (h : s.Ready (engOfKey false k) 4 (encK op d a v) 1 x)
    (al : ((s.eng (engOfKey false k)).pe.get a + kSigned v).toNat % n = 0)
    (hp : x.physical .store ((s.eng (engOfKey false k)).pe.get a + kSigned v).toNat n = some m)
    (hm : s.markedLines ((engOfKey false k).base + m) n = []) : exec i s =
      .next (s.stored (engOfKey false k) x 1 (x.pc + 4) m ((s.eng (engOfKey false k)).pe.get a + kSigned v).toNat
        (le n ((s.eng (engOfKey false k)).pe.get d).toNat)) := by
  rw [hx, State.peSt, State.peRun_of_store h rfl (by rwa [length_le]) (by rwa [length_le]) (by rwa [length_le])]

end

/-! ### Branches, jumps and calls (R169) -/

/-- PC of a branch is already modulo 2^32. -/
theorem branchTo_mod (pc : Nat) (off : Int) : branchTo pc off % 2 ^ 32 = ((pc + 4 + 4 * off) % 2 ^ 32 : Int).toNat := by
  have h : 0 ≤ ((pc : Int) + 4 + 4 * off) % 2 ^ 32 := Int.emod_nonneg _ (by decide)
  have h' : ((pc : Int) + 4 + 4 * off) % 2 ^ 32 < 2 ^ 32 := Int.emod_lt_of_pos _ (by decide)
  rw [branchTo, ofSigned, Nat.cast_pow, Nat.cast_ofNat]
  omega

section
variable {k word : Nat} {i : Instr}

/-- An instruction that jumps where `ok` holds of the registers. -/
theorem PeJumps.of_peRun {ok : PeRegs → Prop} {f : PeRegs → Exec → Int} {g : PeRegs → Exec → PeRegs}
    {F : Exec → PeRegs → State → PeOut × State} {pc : PeRegs → Exec → Nat} (hx : ∀ s, exec i s = .next (s.peRun k word 1 F))
    (hF : ∀ s x r, ok r → F (x.past 1 x.pc) r s = (.jump (g r x) (pc r x), s))
    (hpc : ∀ r x, pc r x % 2 ^ 32 = (f r x % 2 ^ 32).toNat) : PeJumps k i word ok f g := by
  intro s x h hok
  rw [hx, State.peRun_of_jump h (hF s x _ hok), hpc]
  rfl

/-- The two ways of a conditional branch. -/
theorem peJumps_of_peBr {op : Nat} {a b : Reg} {v : BitVec 14} {f : Word → Word → Bool}
    (hx : ∀ s, exec i s = .next (s.peBr k op a b v f)) :
    PeJumps k i (encK op a b v) (fun r => f (r.get a) (r.get b) = true) (fun _ x => x.pc + 4 + 4 * v.toInt) (fun r _ => r) ∧
    ∀ (s : State) (x : Exec), s.Ready (engOfKey false k) 4 (encK op a b v) 1 x →
      f ((s.eng (engOfKey false k)).pe.get a) ((s.eng (engOfKey false k)).pe.get b) = false →
        exec i s = .next (s.modEng (engOfKey false k) (fun g => { g with exec := some (x.past 1 (x.pc + 4)) })) := by
  refine ⟨.of_peRun (pc := fun _ x => branchTo x.pc v.toInt) hx (fun s x r hok => ?_) (fun _ _ => branchTo_mod _ _),
    fun s x h hno => ?_⟩
  · simp only [hok, if_true]
    rfl
  · rw [hx, State.peBr, State.peRun_of_regs h (by simp only [hno]; rfl)]
    rfl

end

/-! ### PHASOR (R176) -/

/-- Samples in clean lines of a readable, aligned buffer are read in the order asked for. -/
theorem State.phasorRead_of_clean {s : State} {e : Eng} {x : Exec} {base start n m : Nat} (h0 : 0 < n) (al : base % 4 = 0)
    (hwrap : base + 4 * n ≤ 2 ^ 32) (hp : ∀ i, i < n → x.physical .load (base + 4 * i) 4 = some (m + 4 * i))
    (hm : ∀ i, i < n → s.markedLines (e.base + (m + 4 * i)) 4 = []) (ks : List Nat) :
    s.phasorRead e x base start n ks =
      (.ok (ks.map (fun j => toSigned 32 (leNat (memReadN (s.eng e).mem (m + 4 * ((start + j) % n)) 4)))), s) := by
  induction ks with
  | nil => rfl
  | cons j ks ih =>
    have hj : (start + j) % n < n := Nat.mod_lt _ h0
    have haddr : (base + 4 * ((start + j) % n)) % 2 ^ 32 = base + 4 * ((start + j) % n) := Nat.mod_eq_of_lt (by omega)
    have hread := State.peLoad_of_clean (x := x) (by omega) (hp _ hj) (hm _ hj)
    simp only [State.phasorRead, haddr, hread, ih, List.map_cons]

theorem sumMul_map (f g : Nat → Int) (l : List Nat) :
    sumMul (l.map f) (l.map g) = (l.map (fun j => f j * g j)).foldl (· + ·) 0 := by
  rw [sumMul, List.zipWith_map, List.zipWith_self]

theorem phasorPart_eq (n : Nat) (p : Int) : phasorPart n p = satW ((2 * p + n * 2 ^ 29) / (n * 2 ^ 30)) := by
  rw [phasorPart, Int.fdiv_eq_ediv_of_nonneg _ (by positivity)]

/-- PHASOR with operands in range and readable samples writes its two sums. -/
theorem State.phasor_of_clean {s : State} {e : Eng} {x : Exec} {r : PeRegs} {d a b : Reg} {h n start m : Nat}
    (hn : (r.get b).toNat % 65536 = n) (hst : (r.get b).toNat / 65536 = start) (h4 : 4 ≤ n) (h256 : n ≤ 256) (hstart : start < n)
    (hh : 1 ≤ h) (hh' : h ≤ (n - 1) / 2) (al : (r.get a).toNat % 4 = 0) (hwrap : (r.get a).toNat + 4 * n ≤ 2 ^ 32)
    (hp : ∀ i, i < n → x.physical .load ((r.get a).toNat + 4 * i) 4 = some (m + 4 * i))
    (hm : ∀ i, i < n → s.markedLines (e.base + (m + 4 * i)) 4 = []) :
    let smp (i : Nat) : Int := (BitVec.ofNat 32 (leNat (memReadN (s.eng e).mem (m + 4 * ((start + i) % n)) 4))).toInt
    let sum (f : Nat → Nat → Int) : Int := ((List.range n).map (fun i => smp i * f (h * i % n) n)).foldl (· + ·) 0
    let part (p : Int) : Res := satW ((2 * p + n * 2 ^ 29) / (n * 2 ^ 30))
    s.phasor e x r d a b h = (.regs (((r.set d (part (sum cosQ30)).1).set (d + 1) (part (-(sum sinQ30))).1).raise
      ((part (sum cosQ30)).2 ||| (part (-(sum sinQ30))).2)), s) := by
  have hok : ¬ (n < 4 ∨ n > 256 ∨ start ≥ n ∨ h < 1 ∨ h > (n - 1) / 2) := by omega
  simp only [State.phasor, hn, hst, if_neg hok, State.phasorRead_of_clean (by omega) al hwrap hp hm, sumMul_map, phasorPart_eq,
    toSigned_eq_toInt (n := 32) (by decide)]

/-- Settles O19: each row comes down to one rule of `peRun`. -/
theorem peAccumulatorMemoryAndFlow : Obligations.PeAccumulatorMemoryAndFlow := by
  refine ⟨fun k d a b n => ⟨.of_peAcc fun _ => rfl, .of_peAcc fun _ => rfl, .of_peAcc_no_flags fun _ => rfl,
    .of_peAcc_no_flags fun _ => rfl, .of_peSet fun s => ?_⟩, fun row h k d a v s x m => exec_of_peLd (ext := row.2.2.2) fun s => ?_,
    fun row h k d a v s x m => exec_of_peSt fun s => ?_, fun row h k a b v => peJumps_of_peBr fun s => ?_,
    fun k a v => ⟨?_, ?_, ?_, ?_⟩, ?_, ?_⟩
  -- ARD.
  · simp only [← shr_eq_ediv]
    rfl
  -- Loads, stores and branches.
  · revert row
    simp only [List.forall_mem_cons, ← sext_two, ← sext_one]
    exact ⟨rfl, rfl, rfl, rfl, rfl, List.forall_mem_nil _⟩
  · revert row
    simp only [List.forall_mem_cons]
    exact ⟨rfl, rfl, rfl, List.forall_mem_nil _⟩
  · revert row
    simp only [List.forall_mem_cons, ne_eq, ← not_lt, decide_not]
    exact ⟨rfl, rfl, rfl, rfl, rfl, rfl, List.forall_mem_nil _⟩
  -- GOTO, CALL, RET and GOTOI.
  · exact .of_peRun (pc := fun _ x => branchTo x.pc v.toInt) (fun _ => rfl) (fun _ _ _ _ => rfl) fun _ _ => branchTo_mod _ _
  · refine .of_peRun (pc := fun _ x => branchTo x.pc v.toInt) (fun _ => rfl) (fun _ _ _ h => ?_) fun _ _ => branchTo_mod _ _
    simp only [if_neg (Nat.not_le.mpr h)]
    rfl
  · refine .of_peRun (pc := fun r _ => (r.rs.headD 0).toNat) (fun _ => rfl) (fun s x r h => ?_) fun r x => ?_
    · obtain ⟨t, rest, hrs⟩ := List.exists_cons_of_ne_nil h
      simp only [hrs]
      rfl
    · omega
  · refine .of_peRun (pc := fun r _ => (r.get a).toNat) (fun _ => rfl) (fun s x r h => rfl) fun r x => ?_
    omega
  -- PHASOR.
  · intro k d a b c s x m e r n start base smp sum part h h4 h256 hstart hc hc' al hwrap hp hm
    exact congrArg _ (State.peRun_of_regs h (State.phasor_of_clean (x := x.past (6 + n) x.pc) rfl rfl h4 h256 hstart hc hc' al hwrap hp hm))
  -- END.
  · intro k s x h
    exact congrArg _ (State.peRun_of_ends h rfl)

end Sys2Proof.Machine

/-! SUPPORT. Exceptions that instructions of PEs and LSs raise (06 R180, R181, 07 R201). -/
namespace Sys2Proof.Machine
open Sys2Proof

/-! ### Words whose weight is tested against WCIC are legal (06 R161, 07 R193) -/

theorem and_eq_zero_of_mod_two_pow {w m n : Nat} (h : w % 2 ^ n = 0) (hm : m < 2 ^ n) : w &&& m = 0 := by
  rw [← Nat.mod_eq_of_lt hm, ← Nat.and_two_pow_sub_one_eq_mod m, Nat.and_comm m, ← Nat.and_assoc, Nat.and_two_pow_sub_one_eq_mod,
    h, Nat.zero_and]

/-- A word whose bits below `n` are 0 is legal where its OP asks for no other bits to be 0. RECIPQ and PHASOR ask for more. -/
theorem peLegal_of_low_zero {w op m n : Nat} (hop : w / 0x1000000 = op) (hz : peZeroBits op = some m) (hlow : w % 2 ^ n = 0)
    (hm : m < 2 ^ n) (h63 : op ≠ 0x63) (h64 : op ≠ 0x64) : peLegal w = true := by
  simp [peLegal, hop, hz, and_eq_zero_of_mod_two_pow hlow hm, h63, h64]

theorem peLegal_encR_dab {op m : Nat} (d a b : Reg) (hz : peZeroBits op = some m) (hm : m < 2 ^ 9) (h63 : op ≠ 0x63)
    (h64 : op ≠ 0x64) : peLegal (encR op d a b 0) = true := by
  refine peLegal_of_low_zero (n := 9) ?_ hz ?_ hm h63 h64 <;> simp only [encR, Fin.val_zero] <;> omega

theorem peLegal_encR_da {op m : Nat} (d a : Reg) (hz : peZeroBits op = some m) (hm : m < 2 ^ 14) (h63 : op ≠ 0x63)
    (h64 : op ≠ 0x64) : peLegal (encR op d a 0 0) = true := by
  refine peLegal_of_low_zero (n := 14) ?_ hz ?_ hm h63 h64 <;> simp only [encR, Fin.val_zero] <;> omega

theorem peLegal_encK {op : Nat} (d a : Reg) (v : BitVec 14) (hz : peZeroBits op = some 0) (h63 : op ≠ 0x63) (h64 : op ≠ 0x64) :
    peLegal (encK op d a v) = true :=
  peLegal_of_low_zero (n := 0) (by rw [encK]; omega) hz (Nat.mod_one _) (by decide) h63 h64

/-- A word with a reserved OP is ILLEGAL. -/
theorem peLegal_of_reserved {w : Nat} (h : peZeroBits (w / 2 ^ 24) = none) : peLegal w = false := by
  simp only [peLegal, h]

/-! ### PEs -/

theorem State.peSet_eq_peRun (s : State) (k word w : Nat) (d : Reg) (f : PeRegs → Res) :
    s.peSet k word w d f = s.peRun k word w (fun _ r s => (.regs ((r.set d (f r).1).raise (f r).2), s)) := rfl

theorem State.peSt_eq_peRun (s : State) (k op n : Nat) (d a : Reg) (v : BitVec 14) : s.peSt k op n d a v =
    s.peRun k (encK op d a v) 1 (fun _ r s => (.store (r.get a + kSigned v).toNat (le n (r.get d).toNat), s)) := rfl

theorem State.peBr_eq_peRun (s : State) (k op : Nat) (a b : Reg) (v : BitVec 14) (f : Word → Word → Bool) : s.peBr k op a b v f =
    s.peRun k (encK op a b v) 1 (fun x r s =>
      (if f (r.get a) (r.get b) then .jump r (branchTo x.pc v.toInt) else .regs r, s)) := rfl

section
variable {s : State} {x : Exec} {k : Nat} {i : Instr}

theorem Raises.of_peRun_exc {word w code trap detail : Nat} {f : Exec → PeRegs → State → PeOut × State}
    (hx : exec i s = .next (s.peRun k word w f)) (h : s.Ready (engOfKey false k) 4 word w x)
    (hf : f (x.past w x.pc) (s.eng (engOfKey false k)).pe s = (.exc code trap detail, s)) :
    Raises (engOfKey false k) i s x code trap (x.ic + w) detail :=
  .of_peRun hx h hf rfl

variable {op n addr : Nat} {d a : Reg} {v : BitVec 14}

/-- ALIGN comes before ACCESS (R181). -/
theorem raises_of_peLd {ext : Nat → Word} (hx : exec i s = .next (s.peLd k op n d a v ext))
    (h : s.Ready (engOfKey false k) 4 (encK op d a v) 1 x) (haddr : ((s.eng (engOfKey false k)).pe.get a + kSigned v).toNat = addr) :
    (addr % n ≠ 0 → Raises (engOfKey false k) i s x xAlign 0 (x.ic + 1) addr) ∧
      (addr % n = 0 → x.physical .load addr n = none → Raises (engOfKey false k) i s x xAccess 0 (x.ic + 1) addr) := by
  refine ⟨fun al => .of_peRun_exc hx h ?_, fun al hp => .of_peRun_exc hx h ?_⟩
  · simp only [haddr, State.peLoad_of_misaligned al]
  · simp only [haddr, State.peLoad_of_outside (x := x.past 1 x.pc) al hp]

theorem raises_of_peSt (hx : exec i s = .next (s.peSt k op n d a v))
    (h : s.Ready (engOfKey false k) 4 (encK op d a v) 1 x) (haddr : ((s.eng (engOfKey false k)).pe.get a + kSigned v).toNat = addr) :
    (addr % n ≠ 0 → Raises (engOfKey false k) i s x xAlign 0 (x.ic + 1) addr) ∧
      (addr % n = 0 → x.physical .store addr n = none → Raises (engOfKey false k) i s x xAccess 0 (x.ic + 1) addr) := by
  refine ⟨fun al => .of_peRun hx h rfl ?_, fun al hp => .of_peRun hx h rfl ?_⟩
  · simp only [State.peApply, haddr, length_le, if_pos al]
  · have hp' : (x.past 1 x.pc).physical .store addr n = none := hp
    simp only [State.peApply, haddr, length_le, if_neg (not_not.mpr al), hp']

/-- PHASOR with N, START or h out of range (06 R176). -/
theorem State.phasor_of_bad_arg {e : Eng} {r : PeRegs} {b : Reg} {h w : Nat} (hw : (r.get b).toNat = w)
    (hbad : w % 65536 < 4 ∨ 256 < w % 65536 ∨ w % 65536 ≤ w / 65536 ∨ h = 0 ∨ (w % 65536 - 1) / 2 < h) :
    s.phasor e x r d a b h = (.exc xArg 0 w, s) := by
  subst hw
  exact if_pos (by omega)

end

/-! ### LSs -/

section
variable {s : State} {e : Eng} {x : Exec} {addr n a l : Nat}

/-- A read through a POISONED line that meets no flipped bit leaves the engine as it is. -/
theorem State.lsRead_of_poison (hp : x.physical .load addr n = some a) (herr : s.anvil.errs = []) (hl : l ∈ s.anvil.poison)
    (hlo : e.base + a < l * 32 + 32) (hhi : l * 32 < e.base + a + n) :
    ∃ t, s.lsRead e x addr n = (.error xPoison, t) ∧ t.eng e = s.eng e ∧ t.anvil.uncorrAt = s.anvil.uncorrAt := by
  obtain ⟨l', f, hread⟩ := State.readRange_of_poison herr hl hlo hhi
  exact ⟨s.lineHealth l' f, by simp only [State.lsRead, hp, hread], rfl, rfl⟩

end

section
variable {s : State} {x : Exec} {k word : Nat} {i : Instr}

theorem Raises.of_lsRun_exc {code detail : Nat} {f : Exec → LsRegs → State → LsOut × State}
    (hx : exec i s = .next (s.lsRun k word f)) (h : s.Ready (engOfKey true k) 2 word 1 x)
    (hf : f (x.past 1 x.pc) (s.eng (engOfKey true k)).lsr s = (.exc code detail, s)) :
    Raises (engOfKey true k) i s x code 0 (x.ic + 1) detail :=
  .of_lsRun hx h hf rfl rfl

/-- An opening operation at DEPTH 8 (07 R194). -/
theorem raises_of_lsOpen {op : Nat} (hx : exec i s = .next (s.lsOpen k op)) (h : s.Ready (engOfKey true k) 2 (0xF000 + op) 1 x)
    (h8 : (s.eng (engOfKey true k)).lsr.stack.length = 8) : Raises (engOfKey true k) i s x xStack 0 (x.ic + 1) 8 := by
  have hw : encCtl 0 op = 0xF000 + op := by rw [encCtl]; omega
  exact .of_lsRun_exc hx (hw ▸ h) (by simp [h8])

/-- A jump at a DEPTH other than 0, taken or not (07 R195). -/
theorem raises_of_lsJump {sub : Nat} {n : BitVec 8} {f : Bool → Bool} (hx : exec i s = .next (s.lsJump k sub n f))
    (h : s.Ready (engOfKey true k) 2 (encCtl sub n.toNat) 1 x) (hd : (s.eng (engOfKey true k)).lsr.stack ≠ []) :
    Raises (engOfKey true k) i s x xStack 0 (x.ic + 1) (s.eng (engOfKey true k)).lsr.stack.length :=
  .of_lsRun_exc hx h (by simp [hd])

/-- SET and RST of a bit outside its window (07 R549). -/
theorem raises_of_lsStore {op addr : Nat} {sp : Fin 4} {j : Fin 1024} {f : Bool → Option Bool}
    (hx : exec i s = .next (s.lsStore k op sp j f)) (h : s.Ready (engOfKey true k) 2 (encBit op sp j) 1 x)
    (ha : bitAddr sp.val j.val = some addr) (hp : x.physical .store addr 1 = none) :
    Raises (engOfKey true k) i s x xAccess 0 (x.ic + 1) addr := by
  have hp' : (x.past 1 x.pc).physical .store addr 1 = none := hp
  exact .of_lsRun_exc hx h (by simp [ha, hp'])

end

/-- Settles O20: each row by the rule of its exception, which ends in `Raises.of_raiseExc`. -/
theorem exceptionsStopTheCopy : Obligations.ExceptionsStopTheCopy := by
  refine ⟨⟨fun k v s x h => .of_peRun_exc rfl h rfl, fun k v s x h h8 => .of_peRun_exc rfl h ?_,
    fun k s x h h0 => .of_peRun_exc rfl h ?_, ?_, ?_, ?_,
    fun k s x w hrun hexec hfetch hl => .of_peIllegal rfl hrun hexec hfetch hl, by decide, by decide, ?_⟩,
    fun k s x w hrun hexec hfetch hl => .of_lsIllegal rfl hrun hexec hfetch hl, ?_, fun k s x h h0 => .of_lsRun_exc rfl h ?_,
    ?_, ?_, ?_, ?_⟩
  -- CALL and RET.
  · simp only [h8]; rfl
  · simp only [h0]; rfl
  -- Loads and stores.
  · simp only [List.forall_mem_cons]
    exact ⟨fun _ _ _ _ _ _ h => raises_of_peLd rfl h rfl, fun _ _ _ _ _ _ h => raises_of_peLd rfl h rfl,
      fun _ _ _ _ _ _ h => raises_of_peLd rfl h rfl, fun _ _ _ _ _ _ h => raises_of_peLd rfl h rfl,
      fun _ _ _ _ _ _ h => raises_of_peLd rfl h rfl, fun _ _ _ _ _ _ h => raises_of_peSt rfl h rfl,
      fun _ _ _ _ _ _ h => raises_of_peSt rfl h rfl, fun _ _ _ _ _ _ h => raises_of_peSt rfl h rfl, List.forall_mem_nil _⟩
  -- PHASOR.
  · exact fun k d a b c s x h hbad => .of_peRun_exc rfl h (State.phasor_of_bad_arg rfl hbad)
  -- WCIC_OVERRUN.
  · intro k d a b v
    have hadd : peLegal (encR 0x10 d a b 0) = true := peLegal_encR_dab d a b rfl (by decide) (by decide) (by decide)
    have hdivs : peLegal (encR 0x1D d a b 0) = true := peLegal_encR_dab d a b rfl (by decide) (by decide) (by decide)
    have hfsqrt : peLegal (encR 0x46 d a 0 0) = true := peLegal_encR_da d a rfl (by decide) (by decide) (by decide)
    have hstW : peLegal (encK 0x88 d a v) = true := peLegal_encK d a v rfl (by decide) (by decide)
    have hbrEq : peLegal (encK 0x90 a b v) = true := peLegal_encK a b v rfl (by decide) (by decide)
    simp only [List.forall_mem_cons]
    exact ⟨fun s _ hrun hexec hfetch hw => .of_peRun_overrun rfl (s.peSet_eq_peRun ..) hrun hexec hfetch hadd hw,
      fun s _ hrun hexec hfetch hw => .of_peRun_overrun rfl (s.peSet_eq_peRun ..) hrun hexec hfetch hdivs hw,
      fun s _ hrun hexec hfetch hw => .of_peRun_overrun rfl (s.peSet_eq_peRun ..) hrun hexec hfetch hfsqrt hw,
      fun s _ hrun hexec hfetch hw => .of_peRun_overrun rfl (s.peSt_eq_peRun ..) hrun hexec hfetch hstW hw,
      fun s _ hrun hexec hfetch hw => .of_peRun_overrun rfl (s.peBr_eq_peRun ..) hrun hexec hfetch hbrEq hw,
      fun s _ hrun hexec hfetch hw => .of_peRun_overrun rfl rfl hrun hexec hfetch (by decide) hw, List.forall_mem_nil _⟩
  -- ILLEGAL words.
  · have hnone : ∀ op ∈ [0x76, 0x77, 0x85, 0x86, 0x87, 0x96, 0x97], peZeroBits op = none := by decide
    exact fun w _ hop => peLegal_of_reserved (hnone _ hop)
  -- Opening operations and LS_CLOSE.
  · simp only [List.forall_mem_cons]
    exact ⟨fun _ _ _ h h8 => raises_of_lsOpen rfl h h8, fun _ _ _ h h8 => raises_of_lsOpen rfl h h8,
      fun _ _ _ h h8 => raises_of_lsOpen rfl h h8, fun _ _ _ h h8 => raises_of_lsOpen rfl h h8,
      fun _ _ _ h h8 => raises_of_lsOpen rfl h h8, List.forall_mem_nil _⟩
  · simp only [h0, xStack]
  -- END and jumps.
  · intro k n
    simp only [List.forall_mem_cons]
    refine ⟨fun s x h hd => .of_lsRun_exc rfl h ?_, fun s x h hd => raises_of_lsJump rfl h hd,
      fun s x h hd => raises_of_lsJump rfl h hd, fun s x h hd => raises_of_lsJump rfl h hd, List.forall_mem_nil _⟩
    simp [hd, xStack]
  -- SET and RST.
  · simp only [List.forall_mem_cons]
    exact ⟨⟨fun _ _ _ _ h hp => raises_of_lsStore rfl h rfl hp, fun _ _ _ _ h hp => raises_of_lsStore rfl h rfl hp,
        List.forall_mem_nil _⟩,
      ⟨fun _ _ _ _ h hp => raises_of_lsStore rfl h rfl hp, fun _ _ _ _ h hp => raises_of_lsStore rfl h rfl hp,
        List.forall_mem_nil _⟩,
      List.forall_mem_nil _⟩
  -- TON on a POISONED line.
  · intro k n s x a h hp herr hl
    obtain ⟨t, hread, heng, hunc⟩ :=
      State.lsRead_of_poison (e := engOfKey true k) (x := x.past 1 x.pc) hp herr hl (by omega) (by omega)
    exact .of_lsRun rfl h (by simp only [hread, xPoison]) heng hunc
  -- NOP at ICOUNT = WCIC.
  · exact fun k s x hrun hexec hfetch hw => .of_lsRun_overrun rfl hrun hexec hfetch (by decide) (by omega)

end Sys2Proof.Machine

/-! SUPPORT. The instructions of an LS: bits, edges, timers, counters, nesting and jumps (07 R188, R192 to R198, R549). -/
namespace Sys2Proof.Machine
open Sys2Proof

/-! ### What an outcome does to the copy (07 R192) -/

section
variable {s : State} {k word addr a : Nat} {x : Exec} {p : Bytes} {r : LsRegs} {F : Exec → LsRegs → State → LsOut × State}

theorem State.lsRun_of_regs (h : s.Ready (engOfKey true k) 2 word 1 x)
    (hF : F (x.past 1 x.pc) (s.eng (engOfKey true k)).lsr s = (.regs r, s)) : s.lsRun k word F =
      s.modEng (engOfKey true k) (fun g => { g with lsr := r, exec := some (x.past 1 (x.pc + 2)) }) := by
  rw [State.lsRun_of_ready h hF]
  exact State.regionFail_modEng h.no_failure ..

theorem State.lsRun_of_jump {pc : Nat} (h : s.Ready (engOfKey true k) 2 word 1 x)
    (hF : F (x.past 1 x.pc) (s.eng (engOfKey true k)).lsr s = (.jump pc, s)) : s.lsRun k word F =
      s.modEng (engOfKey true k) (fun g => { g with exec := some (x.past 1 pc) }) := by
  rw [State.lsRun_of_ready h hF]
  exact State.regionFail_modEng h.no_failure ..

theorem State.lsRun_of_ends (h : s.Ready (engOfKey true k) 2 word 1 x)
    (hF : F (x.past 1 x.pc) (s.eng (engOfKey true k)).lsr s = (.ends, s)) : s.lsRun k word F =
      s.modEng (engOfKey true k) (fun g => { g with phase := .signing, exec := some (x.past 1 x.pc) }) := by
  rw [State.lsRun_of_ready h hF]
  exact State.regionFail_modEng h.no_failure ..

/-- A write into clean lines: the registers, then local memory and the signature's bytes (06 R158). -/
theorem State.lsRun_of_write (h : s.Ready (engOfKey true k) 2 word 1 x)
    (hF : F (x.past 1 x.pc) (s.eng (engOfKey true k)).lsr s = (.write r addr p, s))
    (hp : x.physical .store addr p.length = some a) (hm : s.markedLines ((engOfKey true k).base + a) p.length = []) :
    s.lsRun k word F =
      (s.modEng (engOfKey true k) (fun g => { g with lsr := r })).stored (engOfKey true k) x 1 (x.pc + 2) a addr p := by
  have hm' : (s.modEng (engOfKey true k) (fun g => { g with lsr := r })).markedLines ((engOfKey true k).base + a) p.length = [] := by
    simpa [State.markedLines] using hm
  have happly : s.lsApply (engOfKey true k) (x.past 1 x.pc) (.write r addr p) =
      (s.modEng (engOfKey true k) (fun g => { g with lsr := r })).stored (engOfKey true k) x 1 (x.pc + 2) a addr p := by
    have hp' : (x.past 1 x.pc).physical .store addr p.length = some a := hp
    simp only [State.lsApply, hp']
    exact State.storeBytes_of_clean (x := x) (w := 1) (pc := x.pc + 2) hm'
  rw [State.lsRun_of_ready h hF, happly]
  exact State.regionFail_modEng (by simpa using h.no_failure) ..

theorem State.lsRead_of_clean {e : Eng} {n : Nat} (hp : x.physical .load addr n = some a)
    (hm : s.markedLines (e.base + a) n = []) : s.lsRead e x addr n = (.ok (memReadN (s.eng e).mem a n), s) := by
  simp [State.lsRead, hp, State.readRange_clean hm]

end

/-! ### Rows as `LsDoes` and `LsUses` -/

/-- The outcome of a row that gives new registers and, where it writes, the new bytes at `addr`. -/
def LsOut.ofUse (addr : Nat) : LsRegs × Option Bytes → LsOut
  | (r, none) => .regs r
  | (r, some p) => .write r addr p

section
variable {k word addr n : Nat} {i : Instr} {F : Exec → LsRegs → State → LsOut × State}

/-- A row that answers registers only. -/
theorem LsDoes.of_lsRun {ok : LsRegs → Exec → Prop} {f : LsRegs → Exec → LsRegs}
    (hx : ∀ s, exec i s = .next (s.lsRun k word F))
    (hF : ∀ s x r, ok r x → F (x.past 1 x.pc) r s = (.regs (f r x), s)) : LsDoes k i word ok f (fun _ x => x.pc + 2) := by
  intro s x h hok
  rw [hx, State.lsRun_of_regs h (hF s x _ hok)]
  rfl

/-- A row that reads bytes of a window and answers by `f` of them. -/
theorem LsUses.of_lsRun {f : LsRegs → Exec → State → Bytes → LsRegs × Option Bytes}
    (hx : ∀ s, exec i s = .next (s.lsRun k word F))
    (hF : ∀ s x r p, (x.physical .load addr n).isSome = true →
      s.lsRead (engOfKey true k) (x.past 1 x.pc) addr n = (.ok p, s) →
        F (x.past 1 x.pc) r s = (.ofUse addr (f r x s p), s))
    (hlen : ∀ r x s p, ∀ q ∈ (f r x s p).2, q.length = n) : LsUses k i word addr n f := by
  intro s x a e p r h hp hm hstore
  have hout : F (x.past 1 x.pc) (s.eng e).lsr s = (.ofUse addr r, s) :=
    hF s x _ p (by simp [hp]) (State.lsRead_of_clean (x := x.past 1 x.pc) hp hm)
  have hlen' : ∀ q ∈ r.2, q.length = n := hlen _ x s p
  rw [hx]
  clear_value r
  obtain ⟨r', _ | q⟩ := r
  · simp only [State.lsRun_of_regs h hout, State.modEng_modEng, e]
  · obtain rfl : q.length = n := hlen' q rfl
    obtain hnone | hstore := hstore
    · cases hnone
    · rw [State.lsRun_of_write h hout hstore hm]

end

/-! ### Bits (R188, R192, R196) -/

theorem bit_eq_testBit (v i : Nat) : bit v i = v.testBit i := by
  rw [bit, Nat.testBit_eq_decide_div_mod_eq, beq_eq_decide]

@[simp] theorem length_withBit (p : Bytes) (b : Nat) (v : Bool) : (withBit p b v).length = 1 := length_le 1 _

/-- Past the header of DATA, DATA and OUTPUT are written wherever they are read (06 R152). -/
theorem Exec.physical_store_eq_load {x : Exec} {addr n : Nat}
    (hw : 0x10000020 ≤ addr ∧ addr < 0x20000000 ∨ 0x30000000 ≤ addr ∧ addr < 0x40000000) :
    x.physical .store addr n = x.physical .load addr n := by
  obtain ⟨hlo, hhi⟩ | ⟨hlo, hhi⟩ := hw
  · have ho : 0x20 ≤ addr % 0x10000000 := by omega
    have h1 : ¬ addr < 0x10000000 := by omega
    simp [Exec.physical, h1, hhi, ho]
  · have h1 : ¬ addr < 0x10000000 := by omega
    have h2 : ¬ addr < 0x20000000 := by omega
    have h3 : ¬ addr < 0x30000000 := by omega
    simp [Exec.physical, h1, h2, h3]

section
variable {k op addr : Nat} {i : Instr} {sp : Fin 4} {j : Fin 1024}

theorem LsUses.of_lsLogic {f : Bool → Bool → Bool} (hx : ∀ s, exec i s = .next (s.lsLogic k op sp j f))
    (ha : bitAddr sp.val j.val = some addr) : LsUses k i (encBit op sp j) addr 1 (fun r _ _ p =>
      ({ r with acc := f r.acc ((byteAt p 0).testBit (j.val % 8)) }, none)) := by
  refine .of_lsRun hx (fun s x r p _ hread => ?_) (fun _ _ _ _ _ hq => nomatch hq)
  simp only [ha, hread, bit_eq_testBit]
  rfl

/-- The constants of space S: FALSE, TRUE and the ENTRY_FLAGS. -/
theorem LsDoes.of_lsLogic {f : Bool → Bool → Bool} (hx : ∀ s, exec i s = .next (s.lsLogic k op 3 j f)) :
    LsDoes k i (encBit op 3 j) (fun _ _ => True) (fun r x =>
      let b := if j.val = 0 then false else if j.val = 1 then true else x.flags.testBit (j.val - 2)
      { r with acc := f r.acc b }) (fun _ x => x.pc + 2) := by
  refine .of_lsRun hx fun s x r _ => ?_
  simp only [← bit_eq_testBit]
  rfl

theorem LsUses.of_lsStore {f : Bool → Option Bool} (hx : ∀ s, exec i s = .next (s.lsStore k op sp j f))
    (ha : bitAddr sp.val j.val = some addr) (hw : 0x10000020 ≤ addr ∧ addr < 0x20000000 ∨ 0x30000000 ≤ addr ∧ addr < 0x40000000) :
    LsUses k i (encBit op sp j) addr 1 (fun r _ _ p => (r, (f r.acc).map (withBit p (j.val % 8)))) := by
  refine .of_lsRun hx (fun s x r p hload hread => ?_) fun r _ _ p q hq => ?_
  · have hstore : ((x.past 1 x.pc).physical .store addr 1).isNone = false := by
      rw [Exec.physical_store_eq_load hw]
      exact Option.isNone_eq_false_iff.mpr hload
    simp only [ha, Option.getD_some, hstore]
    cases f r.acc with
    | none => rfl
    | some v => simp only [hread]; rfl
  · obtain ⟨v, -, rfl⟩ := Option.map_eq_some_iff.mp hq
    exact length_withBit ..

/-- SET and RST at ACC 0 judge the index and read nothing (R549). -/
theorem exec_of_lsStore_idle {s : State} {x : Exec} {a : Nat} {f : Bool → Option Bool}
    (hx : ∀ s, exec i s = .next (s.lsStore k op sp j f)) (ha : bitAddr sp.val j.val = some addr)
    (h : s.Ready (engOfKey true k) 2 (encBit op sp j) 1 x) (hf : f (s.eng (engOfKey true k)).lsr.acc = none)
    (hp : x.physical .store addr 1 = some a) :
    exec i s = .next (s.modEng (engOfKey true k) (fun g => { g with exec := some (x.past 1 (x.pc + 2)) })) := by
  have hp' : (x.past 1 x.pc).physical .store addr 1 = some a := hp
  rw [hx, State.lsStore, State.lsRun_of_regs h (by simp only [ha, Option.getD_some, hp', hf]; rfl)]
  rfl

theorem LsUses.of_lsEdge {mode : Nat} {f : Bool → Bool → Bool} (hx : ∀ s, exec i s = .next (s.lsEdge k mode j f)) :
    LsUses k i (encMode 0xC mode j.val) (0x10000020 + j.val / 8) 1 (fun r _ _ p =>
      ({ r with acc := f r.acc ((byteAt p 0).testBit (j.val % 8)) }, some (withBit p (j.val % 8) r.acc))) := by
  refine .of_lsRun hx (fun s x r p _ hread => ?_) fun r _ _ p q hq => ?_
  · have ha : (bitAddr 1 j.val).getD 0 = 0x10000020 + j.val / 8 := rfl
    simp only [ha, hread, bit_eq_testBit]
    rfl
  · obtain rfl := Option.some.inj hq
    exact length_withBit ..

end

/-! ### Timers and counters (R197, R198) -/

/-- A counter after a row of R198: from (PV, CV), the input and PREV_IN, `g` gives CV, PREV_IN, whether ACC takes Q, and whether
the row is one of a down counter, whose Q is CV = 0. -/
def Counter.after (g : Nat × Nat → Bool → Bool → Nat × Bool × Bool × Bool) (c : Counter) (b : Bool) : Counter :=
  let v := g (c.pv, c.cv) b c.prev
  { pv := c.pv, cv := v.1, prev := v.2.1, q := if v.2.2.2 then v.1 == 0 else decide (c.pv ≤ v.1) }

@[simp] theorem Timer.length_bytes (t : Timer) : t.bytes.length = 16 := by simp [Timer.bytes]

@[simp] theorem Counter.length_bytes (c : Counter) : c.bytes.length = 8 := by simp [Counter.bytes, zeros]

section
variable {k mode : Nat} {i : Instr} {n : Fin 128}

theorem LsUses.of_lsTimer {f : Timer → Bool → Nat → Nat → Timer} (hx : ∀ s, exec i s = .next (s.lsTimer k mode n f)) :
    LsUses k i (encMode 0xD mode n.val) (0x100000A0 + 16 * n.val) 16 (fun r x s p =>
      let cycle := leNat (memReadN (s.eng (engOfKey true k)).mem (x.areas.dataBase + 0x10) 8)
      let t := f (timerOf p) r.acc cycle x.cycle
      ({ r with acc := t.q }, some { t with prev := r.acc }.bytes)) := by
  refine .of_lsRun hx (fun s x r p _ hread => ?_) fun r _ _ p q hq => ?_
  · simp only [hread]
    rfl
  · obtain rfl := Option.some.inj hq
    exact Timer.length_bytes _

/-- A counter row whose procedure is a row of R198's table. -/
theorem LsUses.of_lsCounter {takes : Bool} {f : Counter → Bool → Counter}
    {g : Nat × Nat → Bool → Bool → Nat × Bool × Bool × Bool}
    (hx : ∀ s, exec i s = .next (s.lsCounter k mode n takes f)) (hf : f = Counter.after g) (ht : ∀ c b p, (g c b p).2.2.1 = takes) :
    LsUses k i (encMode 0xE mode n.val) (0x100008A0 + 8 * n.val) 8 (fun r _ _ p =>
      let v := g (u16 p 0, u16 p 2) r.acc (bit (byteAt p 4) 0)
      let q := if v.2.2.2 then v.1 == 0 else decide (u16 p 0 ≤ v.1)
      ({ r with acc := if v.2.2.1 then q else r.acc },
        some (le 2 (u16 p 0) ++ le 2 v.1 ++ le 2 (bitsNat [v.2.1, q]) ++ zeros 2))) := by
  subst hf
  refine .of_lsRun hx (fun s x r p _ hread => ?_) fun r _ _ p q hq => ?_
  · simp only [hread, ht]
    rfl
  · obtain rfl := Option.some.inj hq
    exact Counter.length_bytes (Counter.after g (counterOf p) r.acc)

end

/-! ### Nesting and jumps (R194, R195) -/

section
variable {k : Nat} {i : Instr}

theorem LsDoes.of_lsOpen {op : Nat} (hx : ∀ s, exec i s = .next (s.lsOpen k op)) :
    LsDoes k i (encCtl 0 op) (fun r _ => r.stack.length < 8) (fun r _ => { r with stack := (r.acc, op) :: r.stack })
      (fun _ x => x.pc + 2) := by
  refine .of_lsRun hx fun s x r hdepth => ?_
  simp only [if_neg (Nat.not_le.mpr hdepth)]

theorem LsDoes.of_lsClose {v : Bool} {op : Nat} {rest : List (Bool × Nat)} (hx : ∀ s, exec i s = .next (s.lsClose k)) :
    LsDoes k i (encCtl 0 5) (fun r _ => r.stack = (v, op) :: rest) (fun r _ => { acc := nestOp op v r.acc, stack := rest })
      (fun _ x => x.pc + 2) := by
  refine .of_lsRun hx fun s x r hstack => ?_
  simp only [hstack]

/-- The two ways of a jump at DEPTH 0. -/
theorem LsDoes.of_lsJump {sub : Nat} {n : BitVec 8} {f : Bool → Bool} (hx : ∀ s, exec i s = .next (s.lsJump k sub n f)) :
    LsDoes k i (encCtl sub n.toNat) (fun r _ => r.stack = []) (fun r _ => r)
      (fun r x => if f r.acc then x.pc + 2 + 2 * n.toNat else x.pc + 2) := by
  intro s x h hdepth
  rw [hx, State.lsJump]
  cases htaken : f (s.eng (engOfKey true k)).lsr.acc
  · rw [State.lsRun_of_regs h (by simp only [hdepth, htaken]; rfl)]
    simp only [State.modEng, htaken]
    rfl
  · rw [State.lsRun_of_jump h (by simp only [hdepth, htaken]; rfl)]
    simp only [State.modEng, htaken]
    rfl

end

/-- Settles O22: each row comes down to the rule of the operation it is made of. -/
theorem lsInstructions : Obligations.LsInstructions := by
  refine ⟨fun row h k i => ?_,
    fun row h k i sb hsb => ?_,
    fun k i => ⟨.of_lsEdge (mode := 0) (f := fun a m => a && !m) fun _ => rfl,
      .of_lsEdge (mode := 1) (f := fun a m => !a && m) fun _ => rfl⟩,
    ?_, ?_, ?_, ?_, fun k => ⟨.of_lsRun (fun _ => rfl) fun _ _ _ _ => rfl, .of_lsRun (fun _ => rfl) fun _ _ _ _ => rfl,
      fun s x h hdepth => congrArg _ (State.lsRun_of_ends h ?_)⟩, ?_⟩
  -- LD to XOR.
  · have hrow : ∀ s sp, exec (row.1 k sp i) s = .next (s.lsLogic k row.2.1 sp i row.2.2) := by
      intro s sp
      revert row
      simp only [List.forall_mem_cons]
      exact ⟨rfl, rfl, rfl, rfl, rfl, rfl, rfl, List.forall_mem_nil _⟩
    refine ⟨fun sb hsb => .of_lsLogic (fun s => hrow s sb.1) ?_, fun _ => .of_lsLogic fun s => hrow s 3⟩
    revert sb
    simp only [List.forall_mem_cons]
    exact ⟨rfl, rfl, rfl, List.forall_mem_nil _⟩
  -- ST, STN, SET and RST.
  · have haddr : bitAddr sb.1.val i.val = some (sb.2 + i.val / 8) := by
      revert sb
      simp only [List.forall_mem_cons]
      exact ⟨rfl, rfl, List.forall_mem_nil _⟩
    have hbase : sb.2 = 0x10000020 ∨ sb.2 = 0x30000000 := by
      clear haddr
      revert sb
      decide
    have hrow : ∀ s, exec (row.1 k sb.1 i) s = .next (s.lsStore k row.2.1 sb.1 i row.2.2) := by
      intro s
      revert row
      simp only [List.forall_mem_cons]
      exact ⟨rfl, rfl, rfl, rfl, List.forall_mem_nil _⟩
    exact ⟨.of_lsStore hrow haddr (by omega), fun s x a hready hidle hp => exec_of_lsStore_idle hrow haddr hready hidle hp⟩
  -- TON, TOF and TP.
  · simp only [List.forall_mem_cons]
    exact ⟨fun _ _ => .of_lsTimer (mode := 0) fun _ => rfl, fun _ _ => .of_lsTimer (mode := 1) fun _ => rfl,
      fun _ _ => .of_lsTimer (mode := 2) fun _ => rfl, List.forall_mem_nil _⟩
  -- CTU, CTD, CRST and CLD.
  · rw [List.forall_mem_cons, List.forall_mem_cons, List.forall_mem_cons, List.forall_mem_cons]
    exact ⟨fun _ _ => .of_lsCounter (mode := 0) (fun _ => rfl) rfl fun _ _ _ => rfl,
      fun _ _ => .of_lsCounter (mode := 1) (fun _ => rfl) rfl fun _ _ _ => rfl,
      fun _ _ => .of_lsCounter (mode := 2) (fun _ => rfl) rfl fun _ _ _ => rfl,
      fun _ _ => .of_lsCounter (mode := 3) (fun _ => rfl) rfl fun _ _ _ => rfl, List.forall_mem_nil _⟩
  -- Opening operations and ")".
  · simp only [List.forall_mem_cons]
    exact ⟨fun _ => .of_lsOpen fun _ => rfl, fun _ => .of_lsOpen fun _ => rfl, fun _ => .of_lsOpen fun _ => rfl,
      fun _ => .of_lsOpen fun _ => rfl, fun _ => .of_lsOpen fun _ => rfl, List.forall_mem_nil _⟩
  · intro k v rest
    simp only [List.forall_mem_cons]
    exact ⟨.of_lsClose fun _ => rfl, .of_lsClose fun _ => rfl, .of_lsClose fun _ => rfl, .of_lsClose fun _ => rfl,
      .of_lsClose fun _ => rfl, List.forall_mem_nil _⟩
  -- END.
  · simp only [hdepth]
    rfl
  -- JMP, JC and JNC.
  · simp only [List.forall_mem_cons]
    exact ⟨fun _ _ _ => .of_lsJump (sub := 1) (f := fun _ => true) fun _ => rfl,
      fun _ _ _ => .of_lsJump (sub := 2) (f := fun a => a) fun _ => rfl,
      fun _ _ _ => .of_lsJump (sub := 3) (f := fun a => !a) fun _ => rfl, List.forall_mem_nil _⟩

end Sys2Proof.Machine

/-! SUPPORT. A posted signature under an injection (06 R158, 11 INJECT_FAULT): an armed injection of type 1 that acts on the copy
inverts bit 0 of what SIGNATURE_POSTED posts, so the post is not the CRC-32C of the store log and ICOUNT. -/
namespace Sys2Proof.Machine
open Sys2Proof

/-- What an injection of type 1 makes of a result. -/
def Posted.injected (p : Posted) : Posted := { p with sig := p.sig ^^^ 1, inj := true }

/-- The cycle after copy `k` posted `p` (11 R276). -/
def Cycle.posted (c : Cycle) (k : Nat) (p : Posted) : Cycle :=
  if c.tick = p.tick ∧ c.verdict = none ∧ (c.posts.getD (k - 1) none).isNone then
    { c with posts := setAt c.posts (k - 1) (some p) }
  else c

/-- The cycles of an instance that is declared. -/
def State.cyclesOf (s : State) (fi : Nat) : Option (List Cycle) := (s.inst fi).map (·.cycles)

section
variable {s : State}

theorem Tab.get_upd_self {α : Type} (t : Tab α) (k : Nat) (f : α → α) : Tab.get (t.upd k f) k = (Tab.get t k).map f := by
  induction t with
  | nil => rfl
  | cons e t ih =>
    obtain ⟨k', v⟩ := e
    by_cases h : k = k'
    · simp [Tab.upd, Tab.get, h]
    · simp [Tab.upd, Tab.get, h, Ne.symm h, ih]

@[simp] theorem State.modInst_inst_self (s : State) (fi : Nat) (f : Inst → Inst) :
    (s.modInst fi f).inst fi = (s.inst fi).map f :=
  Tab.get_upd_self _ _ _

@[simp] theorem State.noteIcount_cyclesOf (s : State) (x : Exec) : (s.noteIcount x).cyclesOf x.fi = s.cyclesOf x.fi := by
  simp [State.noteIcount, State.cyclesOf, Function.comp_def, Inst.modCopy]

@[simp] theorem State.modEng_cyclesOf (s : State) (e : Eng) (f : Engine → Engine) (fi : Nat) :
    (s.modEng e f).cyclesOf fi = s.cyclesOf fi := by
  cases h : e.ls <;> simp [State.modEng, State.setEng, State.cyclesOf, State.inst, h]

theorem State.modEng_injections (s : State) (e : Eng) (f : Engine → Engine) :
    (s.modEng e f).anvil.injections = s.anvil.injections := by
  cases h : e.ls <;> simp [State.modEng, State.setEng, h]

/-- The result that SIGNATURE_POSTED posts for a copy, where no injection acts (06 R158, 11 R273). -/
def State.signed (s : State) (e : Eng) (x : Exec) : Posted :=
  let outs := s.outputWords e x.areas
  let b := s.imageD (((s.inst x.fi).map (·.image)).getD 0)
  { tick := x.tick, sig := crc32c (x.log ++ le 4 x.ic), outCrc := crc32c (outs.flatMap (le 4)), exc := none, outs := outs
    data := memReadN (s.eng e).mem (x.areas.dataBase + imgRetainOff b) (imgRetainBytes b) }

theorem State.postSignature_eq (s : State) (e : Eng) (x : Exec) : s.postSignature e x =
    ((s.modEng e (fun g => { g with phase := .done })).postResult x.fi x.copy (s.signed e x)).noteIcount x := rfl

section
variable {j : Injection} (hj : j ∈ s.anvil.injections)
include hj

theorem State.postResult_cyclesOf_of_injected {fi k : Nat} {p : Posted} (ha : j.acts 1 k fi p.tick = true) :
    (s.postResult fi k p).cyclesOf fi = (s.cyclesOf fi).map (·.map (·.posted k p.injected)) := by
  have hit : s.anvil.injections.any (·.acts 1 k fi p.tick) = true := List.any_eq_true.mpr ⟨j, hj, ha⟩
  simp only [State.postResult, hit, if_true, State.cyclesOf, State.modInst_inst_self, Option.map_map]
  rfl

/-- Under the injection the result with bit 0 of its signature inverted enters each cycle of its tick that is still open. -/
theorem State.postSignature_cyclesOf_of_injected (e : Eng) {x : Exec} (ha : j.acts 1 x.copy x.fi x.tick = true) :
    (s.postSignature e x).cyclesOf x.fi = (s.cyclesOf x.fi).map (·.map (·.posted x.copy (s.signed e x).injected)) := by
  rw [State.postSignature_eq, State.noteIcount_cyclesOf,
    State.postResult_cyclesOf_of_injected (by rwa [State.modEng_injections]) ha, State.modEng_cyclesOf]

end
end

/-! ### A copy under an armed injection -/

/-- Copy 1 of instance 1, class D, as it ends the cycle latched at tick 2. -/
def injectedExec : Exec :=
  { fi := 1, copy := 1, tick := 2, flags := 0, areas := {}, frozen := 0, wcic := 100, cycle := 1, span := 1, pc := 0, ic := 0,
    log := [], exc := none }

def injectedCycle : Cycle :=
  { tick := 2, ran := true, cyc := 1, image := 5, who := [{ k := 1, eng := engOfKey false 0, areas := {}, span := 1 }],
    displaced := [], imgCrc := 0, posts := [none, none, none], verdict := none }

def injectedInst : Inst :=
  { owner := 0, cls := 1, cycle := 1, phaseDecl := 0, kind := 0, shedPrio := 0, image := 5, wcic := 100, codeBytes := 32,
    dataBytes := 64, imageBytes := 128, nodeMask := 0, channels := [], declNo := 1, run := .running, cycles := [injectedCycle] }

/-- The copy is SIGNING on PE 0.0, and COPY_MISMATCH is armed for it. -/
def injectedState : State :=
  { place.insts := [(1, injectedInst)]
    place.pes := [(0, { phase := .signing, exec := some injectedExec })]
    anvil.injections := [{ type := 1, copy := 1, target := 1, tick := 2 }] }

/-- What the copy posts. -/
def injectedPost : Posted := (injectedState.signed (engOfKey false 0) injectedExec).injected

/-- Refutes O24: SIGNATURE_POSTED posts the CRC-32C of the store log and ICOUNT only where no injection acts. In
`injectedState` a COPY_MISMATCH is armed for the copy, and the signature that is posted has bit 0 inverted
(`postSignature_cyclesOf_of_injected`, 11 INJECT_FAULT). -/
theorem not_latchesAndCyclesAreExact : ¬ Obligations.LatchesAndCyclesAreExact := by
  rintro ⟨-, -, -, -, hposted, -⟩
  obtain ⟨t, y, d, p, hexec, -, -, -, hy, hd, htick, hp, -, hsig, -⟩ :=
    hposted 0 0 false injectedState injectedExec injectedInst injectedCycle rfl rfl rfl (List.mem_singleton.mpr rfl) rfl rfl
      (by decide) (by decide) rfl
  have hcycles : t.cyclesOf 1 = some [injectedCycle.posted 1 injectedPost] := by
    rw [← Host.Outcome.next.inj hexec]
    exact State.postSignature_cyclesOf_of_injected (List.mem_singleton.mpr rfl) (engOfKey false 0) (by decide)
  have hone : y.cycles = [injectedCycle.posted 1 injectedPost] := by
    simpa [State.cyclesOf, show t.inst 1 = some y from hy] using hcycles
  rw [hone, List.mem_singleton] at hd
  have hpost : injectedPost = p := by
    rw [hd] at hp
    exact Option.some.inj hp
  rw [← hpost] at hsig
  exact absurd hsig (by decide +kernel)

end Sys2Proof.Machine

/-! SUPPORT. CHANGE_COMPLETION (08 R227): what ends a change, and what its end leaves. -/
namespace Sys2Proof.Machine
open Sys2Proof

section
variable {s : State}

/-- The outcome that every SWITCH_CHANGE gets (R227): status, DETAIL and the switch tick. -/
def OnLine.outcome (ch : OnLine) : Nat × Nat × Bytes :=
  (if ch.faultCls = 0 then stOk else stFault, ch.faultCls, le 8 ch.tick)

/-- The state once its change is over (R227): no instance awaits its first new cycle, and no copy holds old areas. -/
def State.changeEnded (s : State) : State :=
  State.dropRings { s with
    place.insts := s.place.insts.mapV (fun _ x => { x with
      firstNew := none, newOut := false, copies := x.copies.map (fun c => { c with oldAreas := none }) })
    prog.change := { failFi := s.prog.change.failFi, failSt := s.prog.change.failSt } }

/-! ### When a change is done -/

/-- With no REMOVE entry taken effect, no instance goes. -/
theorem State.removeDone_of_none (h : ∀ p ∈ s.place.insts, p.2.removeNext = false) : s.removeDone = s := by
  have hnone : s.place.insts.filter (fun p => p.2.removeNext && p.2.safe && !p.2.isRunning) = [] :=
    List.filter_eq_nil_iff.mpr fun p hp => by simp [h p hp]
  rw [State.removeDone, hnone]
  rfl

/-- A change of REPLACE entries is done once the instance of each has published its first new cycle. -/
theorem State.changeDone_of_published (h : ∀ e ∈ s.prog.change.entries, ∃ f i x, e = .replace f i ∧ s.inst f = some x ∧
    x.firstNew.isSome = true ∧ x.newOut = true) : s.changeDone = true := by
  refine List.all_eq_true.mpr fun e he => ?_
  obtain ⟨f, i, x, rfl, hx, hfirst, hout⟩ := h e he
  simp [hx, hfirst, hout]

section
variable (h : s.stratus.changeNodes = [])
include h

theorem State.partsOut_of_no_nodes : s.partsOut = false := by
  simp [State.partsOut, h]

theorem State.partFailed_of_no_nodes : s.partFailed = none := if_pos h

theorem State.completeChange_of_no_nodes : ∃ data, s.completeChange =
    (s.changeEnded.post 0x0304 data).finishWait .switch s.prog.change.outcome := by
  have hout : (if s.prog.change.faultCls = 0 then (stOk, 0) else (stFault, s.prog.change.faultCls)) =
      (s.prog.change.outcome.1, s.prog.change.outcome.2.1) := by
    dsimp only [OnLine.outcome]
    split
    · next hc => rw [hc]
    · rfl
  have hnodes : s.changeEnded.stratus.changeNodes = [] := h
  simp only [State.completeChange, State.partFailed_of_no_nodes h, hout]
  exact ⟨_, congrArg (fun t => (State.post t _ _).finishWait _ _) (if_pos hnodes)⟩

end

/-! ### What the end of the change leaves -/

theorem State.changeEnded_copies : ∀ p ∈ s.changeEnded.place.insts, ∀ c ∈ p.2.copies, c.oldAreas = none := by
  intro p hp c hc
  simp only [State.changeEnded, State.dropRings, Tab.mapV, List.mem_map] at hp
  obtain ⟨q, -, rfl⟩ := hp
  obtain ⟨d, -, rfl⟩ := List.mem_map.mp hc
  rfl

/-- A command that waited for `w` has its outcome. -/
theorem State.finishWait_accepted {w : Wait} {r : Nat × Nat × Bytes} {a : Accepted} (ha : a ∈ s.cmd.accepted)
    (hw : a.wait = w) (hr : a.result = none) : { a with result := some r } ∈ (s.finishWait w r).cmd.accepted :=
  List.mem_map.mpr ⟨a, ha, if_pos (by simp [hw, hr])⟩

end

/-- Settles O25: a change whose instances have published ends in `completeChange` (`changeDone_of_published`), which is
`changeEnded`, a record, and the outcome of the commands that waited. -/
theorem changeCompletes : Obligations.ChangeCompletes := by
  refine ⟨fun dt s h => if_pos (by rw [h]; rfl), fun dt s hsw hnodes hpub hrem => ?_⟩
  have hadv := State.advance_place s dt
  have hdone : (s.advance dt).changeDone = true :=
    State.changeDone_of_published (by simpa [State.inst] using hpub)
  have hn : (s.advance dt).stratus.changeNodes = [] := by rw [State.advance_stratus, hnodes]
  obtain ⟨data, hc⟩ := State.completeChange_of_no_nodes hn
  have hexec : exec (.changeCompletion dt) s = .next (s.advance dt).completeChange := by
    refine (if_neg (by rw [hsw]; decide)).trans ?_
    rw [State.removeDone_of_none (by rwa [hadv]), hdone, State.partsOut_of_no_nodes hn]
    rfl
  refine ⟨_, hexec, ?_⟩
  rw [hc]
  refine ⟨?_, ?_, ?_, fun a ha hw hr => ⟨_, State.finishWait_accepted ?_ hw hr, rfl, ?_⟩⟩
  · exact congrArg (·.change.st) (State.post_prog ..)
  · exact congrArg (·.change.entries) (State.post_prog ..)
  · rw [show ((State.post _ _ _).finishWait _ _).place = (s.advance dt).changeEnded.place from State.post_place ..]
    exact State.changeEnded_copies
  · rw [State.post_cmd]
    exact (State.advance_cmd s dt).symm ▸ ha
  · rw [State.advance_prog]
    rfl

end Sys2Proof.Machine

/-! SUPPORT. The program commands (08 R211 to R230): what each card's own part answers. -/
namespace Sys2Proof.Machine
open Sys2Proof

/-! ### An instance that is stored -/

@[simp] theorem State.setInst_inst_self (s : State) (fi : Nat) (x : Inst) : (s.setInst fi x).inst fi = some x :=
  Tab.get_put_self _ _ _

theorem State.setInst_setInst (s : State) (fi : Nat) (x y : Inst) : (s.setInst fi x).setInst fi y = s.setInst fi y := by
  simp only [State.setInst, Tab.put_put]

section
variable {s : State} {c : Cmd}

/-- With no setting waiting, a latch writes none (R219). -/
theorem State.writeSettings_of_none {fi : Nat} {x : Inst} (hx : s.inst fi = some x) (hw : x.setWrites = []) (n : Nat)
    (all : Bool) : s.writeSettings fi n all = s.setInst fi x := by
  simp only [State.writeSettings, hx, hw, List.filter_nil, List.foldl_nil, if_true]
  rw [← hw]

/-! ### LOAD_IMAGE and FREE_IMAGE -/

/-- The state with an image in the store. -/
def State.withImage (s : State) (id : Nat) (im : FnImage) : State := { s with prog.images := s.prog.images.put id im }

/-- The image that a chunk belongs to: the one in the store, else a new one (R211). -/
def State.imageFor (s : State) (c : Cmd) : FnImage := (s.prog.images.get (u32 c.params 0)).getD
  { owner := c.inst, total := u32 c.params 8, got := [], loaded := false, bytes := [] }

/-- The bytes received once the chunk is stored. -/
def State.gotWith (s : State) (c : Cmd) : Tab Byte := putChunk (s.imageFor c).got (u32 c.params 4) (c.params.drop 0x0C)

/-- The chunk's own parameters are right, and the store has room for its image. -/
def State.ChunkFits (s : State) (c : Cmd) : Prop :=
  u32 c.params 0 ≠ 0 ∧ u32 c.params 0 ≠ 0xFFFFFFFF ∧ u32 c.params 4 % 4 = 0 ∧
    u32 c.params 4 + (c.params.drop 0x0C).length ≤ u32 c.params 8 ∧
    u32 c.params 8 % 4 = 0 ∧ 0x44 ≤ u32 c.params 8 ∧ u32 c.params 8 ≤ 67108864 ∧ (s.imageFor c).loaded = false ∧
    (s.imageFor c).total = u32 c.params 8 ∧
    (s.prog.images.get (u32 c.params 0) = none → s.prog.images.length < 1024 ∧
      (s.prog.images.map (fun e => e.2.total)).foldl (· + ·) 0 + u32 c.params 8 ≤ 67108864)

/-- What LOAD_IMAGE answers for a chunk that fits: stored, or the container judged. -/
theorem loadImageRun_of_fits (h : s.ChunkFits c) : loadImageRun s c =
    if (s.gotWith c).length = u32 c.params 8 then
      State.finishImage (s.withImage (u32 c.params 0) { s.imageFor c with got := s.gotWith c })
        (u32 c.params 0) { s.imageFor c with got := s.gotWith c }
    else .ok (s.withImage (u32 c.params 0) { s.imageFor c with got := s.gotWith c }) [] := by
  obtain ⟨hid, hid', hoff, hend, hmul, hmin, hmax, hnew, htotal, hroom⟩ := h
  refine (if_neg (by simp [hid, hid'])).trans ((if_neg (by simp [hoff, -List.length_drop, hend])).trans
    ((if_neg (by simp [hmul, hmin, hmax])).trans ?_))
  cases him : s.prog.images.get (u32 c.params 0) with
  | some im =>
    have hfor : s.imageFor c = im := by rw [State.imageFor, him]; rfl
    simp only [State.gotWith, hfor] at hnew htotal ⊢
    exact (if_neg (by simp [hnew])).trans (if_neg (by simp [htotal]))
  | none =>
    have hfor : s.imageFor c = { owner := c.inst, total := u32 c.params 8, got := [], loaded := false, bytes := [] } := by
      rw [State.imageFor, him]; rfl
    obtain ⟨hcount, hbytes⟩ := hroom him
    simp only [State.gotWith, hfor]
    exact if_neg (by simp [hcount, hbytes])

/-- A container with a right CRC that meets R212 is loaded. -/
theorem State.finishImage_of_valid {id : Nat} {im : FnImage}
    (hcrc : crc32c ((im.got.map (·.2)).take (im.total - 4)) = u32 (im.got.map (·.2)) (im.total - 4))
    (hok : imgFault (im.got.map (·.2)) id im.total = none) : s.finishImage id im =
      .ok (s.withImage id { im with loaded := true, bytes := im.got.map (·.2), got := [] }) [] := by
  refine (if_neg (not_not.mpr hcrc)).trans ?_
  rw [hok]
  rfl

theorem loadImageRun_of_missing (h : s.ChunkFits c) (hlen : (s.gotWith c).length < u32 c.params 8) : loadImageRun s c =
    .ok (s.withImage (u32 c.params 0) { s.imageFor c with got := s.gotWith c }) [] := by
  rw [loadImageRun_of_fits h, if_neg hlen.ne]

theorem loadImageRun_of_complete (h : s.ChunkFits c) (hlen : (s.gotWith c).length = u32 c.params 8)
    (hcrc : crc32c (((s.gotWith c).map (·.2)).take (u32 c.params 8 - 4)) = u32 ((s.gotWith c).map (·.2)) (u32 c.params 8 - 4))
    (hok : imgFault ((s.gotWith c).map (·.2)) (u32 c.params 0) (u32 c.params 8) = none) : loadImageRun s c =
      .ok (s.withImage (u32 c.params 0)
        { s.imageFor c with loaded := true, bytes := (s.gotWith c).map (·.2), got := [] }) [] := by
  obtain ⟨-, -, -, -, -, -, -, -, htotal, -⟩ := id h
  rw [loadImageRun_of_fits h, if_pos hlen, State.finishImage_of_valid (by rwa [htotal]) (by rwa [htotal])]
  simp only [State.withImage, Tab.put_put]

theorem cardFreeImage_run_of_unnamed {m : FnImage} (hm : s.prog.images.get (u32 c.params 0) = some m)
    (hu : m.loaded = true → s.imageUsed (u32 c.params 0) = false) :
    cardFreeImage.run s c = .ok { s with prog.images := s.prog.images.del (u32 c.params 0) } [] := by
  simp only [cardFreeImage, hm]
  exact if_neg (by simpa using hu)

/-! ### BIND_SIGNALS, START_INSTANCE and STOP_INSTANCE -/

section
variable {x : Inst} (hx : s.inst (u16 c.params 0) = some x)
include hx

/-- The binding once a chunk is taken (R213): a chunk with FIRST 0 begins anew. -/
def Inst.bindWith (x : Inst) (p : Bytes) : Tab Nat :=
  (List.range (u16 p 6)).foldl (fun (t : Tab Nat) i => t.put (u16 p 4 + i) (u16 p (8 + 2 * i)))
    (if u16 p 4 = 0 then [] else x.binds)

section
variable (hchange : s.inChange (u16 c.params 0) = false)
include hchange

theorem cardBindSignals_run_of_still (hrun : x.isRunning = false) (hplaced : x.isPlaced = true)
    (hfirst : u16 c.params 4 = 0 ∨ x.binds ≠ [] ∧ x.bindN = u16 c.params 2) : cardBindSignals.run s c =
      .ok (s.setInst (u16 c.params 0) { x with bindN := u16 c.params 2, binds := x.bindWith c.params }) [] := by
  have hkept : ¬ (u16 c.params 4 ≠ 0 && (x.binds = [] || x.bindN != u16 c.params 2)) = true := by
    obtain h | ⟨hb, hn⟩ := hfirst
    · simp [h]
    · simp [hb, hn]
  simp only [cardBindSignals, hx]
  refine (if_neg (by simp [hrun])).trans ((if_neg (by simp [hchange])).trans ((if_neg hkept).trans ?_))
  exact if_neg (by simp [hplaced])

/-- The instance STARTING in mode COLD at latch `n` (R213, R216). -/
def Inst.startingCold (x : Inst) (delay n : Nat) : Inst :=
  { x with pubDelay := delay, prevRun := x.run, run := .starting, lastMode := some .cold, mode := .cold, nextTick := n,
           restart := false }

theorem startRun_of_cold {n : Nat} (hmode : byteAt c.params 2 = 0) (htime : s.ptValid = true)
    (hrun : x.run = .ready ∨ x.run = .stopped ∨ x.run = .faulted) (hplaced : x.isPlaced = true)
    (hbound : s.signalsBound x = true) (hn : s.resolveLatch x (u64 c.params 4) c.own = some n)
    (hroom : s.retainFull (u16 c.params 0) x.image = false)
    (hpub : ∀ q ∈ s.pub.pubs, (q.2.enabled && q.2.cls == 0 && q.2.driver == u16 c.params 0) = false) : startRun s c =
      .ok (s.setInst (u16 c.params 0) (x.startingCold (u32 c.params 0x0C) n)) (le 8 n) := by
  have hmay : x.mayStart .cold = true := by
    obtain h | h | h := hrun <;> rw [Inst.mayStart, h] <;> rfl
  have hdrives : s.pub.pubs.any (fun q => q.2.enabled && q.2.cls == 0 && q.2.driver == u16 c.params 0) = false :=
    List.any_eq_false.mpr fun q hq => by simp [hpub q hq]
  simp only [startRun, hx, show startMode (byteAt c.params 2) = .cold by rw [hmode]; rfl, hmay, hchange, hbound, hn, htime,
    hplaced, hroom, hdrives]
  simp [State.beginStart, State.setInst_setInst, Inst.startingCold]

theorem cardStopInstance_run_of_running {n : Nat} (hrun : x.run = .running)
    (hn : s.resolveLatch x (u64 c.params 4) c.own = some n) : cardStopInstance.run s c =
      .ok (s.setInst (u16 c.params 0) { x with run := .stopping, nextTick := n }) (le 8 n) := by
  simp [cardStopInstance, hx, hrun, hchange, hn]

theorem cardStopInstance_run_of_starting (hrun : x.run = .starting) (hw : x.setWrites = []) : cardStopInstance.run s c =
    .ok (s.setInst (u16 c.params 0) { x with run := x.prevRun, nextTick := 0 }) (le 8 x.nextTick) := by
  have hnone := State.writeSettings_of_none (x := { x with run := x.prevRun, nextTick := 0 })
    (State.setInst_inst_self s (u16 c.params 0) _) hw (tickAtOrAfter s.now) true
  simp [cardStopInstance, hx, hrun, hchange, hnone, State.setInst_setInst]

/-! ### WRITE_SETTINGS -/

/-- Every entry is a setting of the instance's image (R219). -/
def State.SettingsKnown (s : State) (x : Inst) (p : Bytes) : Prop :=
  ∀ e ∈ settingsOf p, (imgSettings (s.imageD x.image)).contains (e.2.1, e.2.2) = true

/-- One entry is written into every copy and recorded (R219). -/
def State.settingWritten (x : Inst) (p : Bytes) (s : State) (e : Nat × Nat × Nat) : State :=
  (s.writeDataAll x e.2.1 (slice p (e.1 + 4) e.2.2)).post 0x0303 (le 2 (u16 p 0) ++ le 2 e.2.1 ++ le 2 e.2.2 ++ le 8 0)

theorem writeSettingsRun_of_still (hplaced : x.isPlaced = true) (hknown : s.SettingsKnown x c.params)
    (hrun : x.isRunning = false) : writeSettingsRun s c =
      .ok (((settingsOf c.params).foldl (State.settingWritten x c.params) s).snapStill (u16 c.params 0)) [] := by
  simp only [writeSettingsRun, hx]
  refine (if_neg (by simp [hrun, hplaced])).trans ((if_neg (by simp [hchange])).trans ((if_neg ?_).trans ?_))
  · rw [Bool.not_eq_true, Bool.not_eq_false', List.all_eq_true]
    exact hknown
  · exact if_neg (by simp [hrun])

/-- The write of one setting waits for the latch of tick `n`. -/
def Inst.writeWaiting (x : Inst) (c : Cmd) (e : Nat × Nat × Nat) (n : Nat) : Inst :=
  { x with setWrites := x.setWrites ++
      [{ offset := e.2.1, value := slice c.params (e.1 + 4) e.2.2, tick := n, origin := c.inst }] }

theorem writeSettingsRun_of_running {e : Nat × Nat × Nat} {n : Nat} (hplaced : x.isPlaced = true)
    (hknown : s.SettingsKnown x c.params) (hrun : x.isRunning = true) (hone : settingsOf c.params = [e])
    (hn : s.resolveLatch x (u64 c.params 4) c.own = some n) : writeSettingsRun s c =
      let t := s.setInst (u16 c.params 0) (x.writeWaiting c e n)
      if boundaryQ n > s.now + 1000000 * qNs then .accepted t (.settings (u16 c.params 0) n) true none
      else .later t (.settings (u16 c.params 0) n) := by
  simp only [writeSettingsRun, hx]
  refine (if_neg (by simp [hone, hplaced])).trans ((if_neg (by simp [hchange])).trans ((if_neg ?_).trans ?_))
  · rw [Bool.not_eq_true, Bool.not_eq_false', List.all_eq_true]
    exact hknown
  · rw [if_pos hrun, hn, hone]
    rfl

end

/-! ### GET_RUN_STATE -/

theorem cardGetRunState_run_of_declared : cardGetRunState.run s c =
    .ok s (le 2 (u16 c.params 0) ++ le 1 x.run.code ++ le 1 ((x.lastMode.map StartMode.code).getD 0xFF) ++ le 4 x.image ++
      le 4 (x.pubQ / qNs) ++ le 8 x.cycleNo ++ le 8 x.nextTick ++
      le 8 (((s.prog.retained.get (u16 c.params 0)).map (·.tick)).getD 0) ++ le 1 x.faultCode ++ zeros 3) := by
  simp only [cardGetRunState, hx]

end

/-! ### The on-line change -/

theorem stageRun_of_open (hop : byteAt c.params 0 = 0) (hst : s.prog.change.st = .none) : stageRun s c =
    .ok { s with prog.change := { st := .open_, failFi := s.prog.change.failFi, failSt := s.prog.change.failSt } } [] := by
  simp [stageRun, hop, hst]

theorem stageRun_of_close (hop : byteAt c.params 0 = 5) (hst : s.prog.change.st = .open_) : stageRun s c =
    .accepted (({ s with prog.change.st := .staging } : State).tellNodes 0x0307 (le 1 5 ++ zeros 11)) .stage false none := by
  simp [stageRun, hop, hst]

theorem stageRun_of_entry (hlo : 1 ≤ byteAt c.params 0) (hhi : byteAt c.params 0 ≤ 4) (hst : s.prog.change.st = .open_)
    (hroom : s.prog.change.entries.length < 4095) (hinst : (s.inst (u16 c.params 2)).isSome = true)
    (himage : byteAt c.params 0 = 1 → (s.image (u32 c.params 4)).isSome = true)
    (hnew : byteAt c.params 0 ≠ 4 → ∀ e ∈ s.prog.change.entries, e.fi = u16 c.params 2 →
      ∃ o v, e = .setting (u16 c.params 2) o v) : stageRun s c =
      .ok { s with prog.change.entries := s.prog.change.entries ++ [stageEntryOf c.params] } [] := by
  rw [stageRun]
  split
  · omega
  · omega
  · refine (if_neg ?_).trans ((if_neg ?_).trans ((if_neg ?_).trans ((if_neg ?_).trans (if_neg ?_))))
    · simpa using Option.isSome_iff_ne_none.mp hinst
    · simpa using fun h => Option.isSome_iff_ne_none.mp (himage h)
    -- Only SETTING entries may name the FI already.
    · simp only [Bool.and_eq_true, decide_eq_true_eq, List.any_eq_true, not_and, not_exists]
      intro hop e he hnamed
      cases e with
      | setting => cases hnamed
      | replace | add | remove =>
        obtain ⟨o, v, hv⟩ := hnew hop _ he (beq_iff_eq.mp hnamed)
        cases hv
    · simp [hst]
    · simpa using hroom

theorem stageEntryOf_eq (p : Bytes) : stageEntryOf p =
    if byteAt p 0 = 1 then .replace (u16 p 2) (u32 p 4)
    else if byteAt p 0 = 2 then .add (u16 p 2)
    else if byteAt p 0 = 3 then .remove (u16 p 2)
    else .setting (u16 p 2) (u16 p 8) (slice p 0x0C (u16 p 0x0A)) := by
  rw [stageEntryOf]
  split
  · next h => rw [if_pos h]
  · next h => rw [if_neg (by omega), if_pos h]
  · next h => rw [if_neg (by omega), if_neg (by omega), if_pos h]
  · next h1 h2 h3 => rw [if_neg h1, if_neg h2, if_neg h3]

theorem cardSwitchChange_run_of_staged {n : Nat} (hst : s.prog.change.st = .staged) (htick : s.prog.change.tick = 0)
    (hn : s.resolveSwitch (u64 c.params 0) c.own = some n) : cardSwitchChange.run s c =
      .accepted ((s.added.foldl (fun (t : State) fi => t.startAdded n fi)
        { s with prog.change.tick := n }).tellNodes 0x0308 (le 8 n)) .switch true none := by
  simp only [cardSwitchChange, hn]
  exact if_neg (by simp [hst, htick])

/-- The change discarded while nothing of it is staged (R226). -/
def State.changeDiscarded (s : State) : State := State.dropRings { s with
  prog.change := { failFi := s.prog.change.failFi, failSt := s.prog.change.failSt }
  place.insts := s.place.insts.mapV (fun _ x => { x with
    newImage := none, copies := x.copies.map (fun k => { k with newAreas := none, newSpan := 0 }) }) }

theorem State.added_of_no_add (h : ∀ e ∈ s.prog.change.entries, ∀ f, e ≠ .add f) : s.added = [] := by
  refine List.filterMap_eq_nil_iff.mpr fun e he => ?_
  cases e with
  | add f => exact absurd rfl (h _ he f)
  | replace | remove | setting => rfl

theorem State.unstage_of_no_add (h : ∀ e ∈ s.prog.change.entries, ∀ f, e ≠ .add f) : s.unstage = s.changeDiscarded := by
  rw [State.unstage, State.added_of_no_add h]
  rfl

theorem State.dropParts_of_no_nodes (h : s.stratus.changeNodes = []) : s.dropParts = s := by
  simp [State.dropParts, h]

/-- No command that waits for `w` is told. -/
theorem State.finishWait_of_no_waiter {w : Wait} {r : Nat × Nat × Bytes} (h : ∀ a ∈ s.cmd.accepted, a.wait ≠ w) :
    s.finishWait w r = s := by
  have hid : s.cmd.accepted.map (fun a => if a.wait == w && a.result.isNone then { a with result := some r } else a) =
      s.cmd.accepted :=
    (List.map_congr_left fun a ha => if_neg (by simp [h a ha])).trans (List.map_id _)
  rw [State.finishWait, hid]

theorem cardCancelChange_run_of_open (hst : s.prog.change.st = .open_) (htick : s.prog.change.tick = 0)
    (hnodes : s.stratus.changeNodes = []) (hadd : ∀ e ∈ s.prog.change.entries, ∀ f, e ≠ .add f)
    (hwait : ∀ a ∈ s.cmd.accepted, a.wait ≠ .switch) : cardCancelChange.run s c = .ok s.changeDiscarded [] := by
  refine (if_neg (by simp [hst])).trans ((if_neg (by simp [hst, htick])).trans ?_)
  rw [State.unstage_of_no_add hadd, State.dropParts_of_no_nodes (s := s.changeDiscarded) hnodes,
    State.finishWait_of_no_waiter (s := s.changeDiscarded) hwait]

end

/-- Settles O23: each command by what its card's own part answers; the rules of `Laws/Card` make it the row's. -/
theorem programCommandsComplete : Obligations.ProgramCommandsComplete := by
  refine ⟨?_, ?_, ?_, ?_, ?_, ?_, ?_, ?_, ?_, ?_, ?_, ?_, ?_, ?_, ?_, ?_, ?_⟩
  -- LOAD_IMAGE and FREE_IMAGE.
  · exact Card.completes_of (fun _ _ _ => rfl) (fun _ _ h => h) (fun _ _ ⟨h, hlen⟩ => loadImageRun_of_missing h hlen)
  · exact Card.completes_of (fun _ _ _ => rfl) (fun _ _ h => h)
      (fun _ _ ⟨h, hlen, hcrc, hok⟩ => loadImageRun_of_complete h hlen hcrc hok)
  · exact Card.completes_of (fun _ _ _ => rfl) (fun _ _ h => h) (fun _ _ ⟨_, hm, hu⟩ => cardFreeImage_run_of_unnamed hm hu)
  -- BIND_SIGNALS, START_INSTANCE and STOP_INSTANCE.
  · refine Card.completes_of (fun _ _ _ => rfl) (fun _ _ h => h) (fun s c ⟨hchange, x, hx, hrun, hplaced, hfirst⟩ => ?_)
    refine (cardBindSignals_run_of_still hx hchange hrun hplaced hfirst).trans ?_
    simp only [hx]
    rfl
  · refine Card.completes_of (fun _ _ _ => rfl) (fun _ _ h => h)
      (fun s c ⟨hmode, hchange, htime, x, n, hx, hrun, hplaced, hbound, hn, hroom, hpub⟩ => ?_)
    refine (startRun_of_cold hx hchange hmode htime hrun hplaced hbound hn hroom hpub).trans ?_
    simp only [hx, Option.bind_some, hn, Option.getD_some]
    rfl
  · refine Card.completes_of (fun _ _ _ => rfl) (fun _ _ h => h) (fun s c ⟨hchange, x, n, hx, hrun, hn⟩ => ?_)
    refine (cardStopInstance_run_of_running hx hchange hrun hn).trans ?_
    simp only [hx, Option.bind_some, hn, Option.getD_some]
  · refine Card.completes_of (fun _ _ _ => rfl) (fun _ _ h => h) (fun s c ⟨hchange, x, hx, hrun, hw⟩ => ?_)
    refine (cardStopInstance_run_of_starting hx hchange hrun hw).trans ?_
    simp only [hx, Option.map_some, Option.getD_some]
  -- WRITE_SETTINGS.
  · refine Card.completes_of (fun _ _ _ => rfl) (fun _ _ h => h) (fun s c ⟨x, hx, hrun, hplaced, hchange, hknown⟩ => ?_)
    refine (writeSettingsRun_of_still hx hchange hplaced hknown hrun).trans ?_
    simp only [hx]
    rfl
  · refine Card.defers_of (fun _ _ _ => rfl) (fun _ _ h => h)
      (fun s c ⟨x, n, e, hx, hrun, hone, ⟨hplaced, hchange, hknown⟩, hn, hnear⟩ => ?_)
    refine (writeSettingsRun_of_running hx hchange hplaced hknown hrun hone hn).trans ?_
    simp only [hx, hone, Option.bind_some, hn, Option.getD_some]
    exact if_neg (of_decide_eq_false hnear)
  · refine Card.accepts_of (fun _ _ _ => rfl) (fun _ _ h => h)
      (fun s c ⟨x, n, e, hx, hrun, hone, ⟨hplaced, hchange, hknown⟩, hn, hfar⟩ => ?_)
    refine (writeSettingsRun_of_running hx hchange hplaced hknown hrun hone hn).trans ?_
    simp only [hx, hone, Option.bind_some, hn, Option.getD_some]
    exact if_pos (of_decide_eq_true hfar)
  -- STAGE_CHANGE, SWITCH_CHANGE and CANCEL_CHANGE.
  · exact Card.completes_of (fun _ _ _ => rfl) (fun _ _ h => h) (fun _ _ ⟨hop, hst⟩ => stageRun_of_open hop hst)
  · refine Card.completes_of (fun _ _ _ => rfl) (fun _ _ h => h)
      (fun s c ⟨hlo, hhi, hst, hroom, hinst, himage, hnew⟩ => ?_)
    refine (stageRun_of_entry hlo hhi hst hroom hinst himage hnew).trans ?_
    rw [stageEntryOf_eq]
  · exact Card.accepts_of (fun _ _ _ => rfl) (fun _ _ h => h) (fun _ _ ⟨hop, hst⟩ => stageRun_of_close hop hst)
  · refine Card.accepts_of (fun _ _ _ => rfl) (fun _ _ h => h) (fun s c ⟨hst, htick, hsome⟩ => ?_)
    obtain ⟨n, hn⟩ := Option.isSome_iff_exists.mp hsome
    refine (cardSwitchChange_run_of_staged hst htick hn).trans ?_
    simp only [hn, Option.getD_some]
  · exact Card.completes_of (fun _ _ _ => rfl) (fun _ _ h => h)
      (fun _ _ ⟨hst, htick, hnodes, hadd, hwait⟩ => cardCancelChange_run_of_open hst htick hnodes hadd hwait)
  -- GET_RUN_STATE and GET_CHANGE.
  · refine Card.reads_of (fun _ _ _ => rfl) rfl (fun _ _ h => ⟨h, rfl⟩) (fun s c h => ?_)
    obtain ⟨x, hx⟩ := Option.isSome_iff_exists.mp h
    rw [cardGetRunState_run_of_declared hx]
    simp only [hx]
    cases x.lastMode <;> rfl
  · exact Card.reads_of (fun _ _ _ => rfl) rfl (fun _ _ h => ⟨h, rfl⟩) (fun _ _ _ => rfl)

end Sys2Proof.Machine

/-! SUPPORT. A publication instant (09 R232 to R239): sending leaves programs, placement, filters, publications and
subscriptions as they are, so each publication of a driver is judged by the state that the driver's outputs made. -/
namespace Sys2Proof.Machine
open Sys2Proof

/-! ### Sending leaves what is published -/

/-- What the data sets of publications are made of (R235), and the publications themselves. -/
def State.pubView (s : State) : ProgState × PlaceState × FilterState × PubState := (s.prog, s.place, s.filter, s.pub)

theorem State.modSwp_pubView (s : State) (n : Nat) (f : SwPort → SwPort) : (s.modSwp n f).pubView = s.pubView := rfl

theorem State.checkPause_pubView (s : State) : s.checkPause.pubView = s.pubView := by
  refine State.foldl_same State.pubView (fun s e => ?_) _ _
  dsimp only
  split
  · rfl
  · split
    · rfl
    · split <;> rfl

theorem State.storeCells_pubView (s : State) (id bytes : Nat) : (s.storeCells id bytes).pubView = s.pubView := by
  rw [State.storeCells]
  split <;> rfl

theorem State.enqueue_pubView (s : State) (n : Nat) (f : QFrame) (need : Nat) (yellow : Bool) :
    (s.enqueue n f need yellow).2.pubView = s.pubView := by
  rw [State.enqueue]
  split
  · rfl
  · split
    · rfl
    · rfl
    · extract_lets p prof x
      split
      extract_lets s1 s2 s3 u s4
      have h1 : s1.pubView = s.pubView := by
        dsimp only [s1]
        split <;> rfl
      split
      · exact h1
      · simp only [State.checkPause_pubView, State.modSwp_pubView, State.storeCells_pubView, h1, s4, s3, s2]

theorem State.originate_pubView (s : State) (n tc : Nat) (bytes : Bytes) (ready : Nat) :
    (s.originate n tc bytes ready).pubView = s.pubView := State.enqueue_pubView ..

theorem State.pairSend_pubView (s : State) (r : Bytes) : (s.pairSend r).pubView = s.pubView := by
  rw [State.pairSend]
  split <;> rfl

theorem State.pubCopies_pubView (s : State) (mask : Nat) (f : Bytes) : (s.pubCopies mask f).2.pubView = s.pubView := by
  refine List.foldlRecOn (motive := fun r : List (Nat × Bytes) × State => r.2.pubView = s.pubView) _ _ rfl (fun r hr p _ => ?_)
  dsimp only
  split <;> exact hr

/-- Publication `num` is stored. -/
def State.putPub (s : State) (num : Nat) (p : Publication) : State := { s with pub.pubs := s.pub.pubs.put num p }

theorem State.putPub_pubView {s t : State} (h : t.pubView = s.pubView) (num : Nat) (p : Publication) :
    (t.putPub num p).pubView = (s.putPub num p).pubView := by
  simp only [State.pubView, State.putPub, Prod.mk.injEq] at h ⊢
  obtain ⟨hprog, hplace, hfilter, hpub⟩ := h
  exact ⟨hprog, hplace, hfilter, by rw [hpub]⟩

@[simp] theorem State.putPub_putPub (s : State) (num : Nat) (p q : Publication) :
    (s.putPub num p).putPub num q = s.putPub num q := by
  simp only [State.putPub, Tab.put_put]

theorem ite_ite_or {α : Type} (a b : Bool) (x y z : α) :
    (if a then x else if a || b then y else z) = if a then x else if b then y else z := by
  cases a <;> rfl

/-! ### One publication at an instant (R237 to R239) -/

/-- Route changes touch the port mask, the entries and the queue of changes (R244). -/
theorem Publication.applyRoutes_eq (p : Publication) (n : Nat) : p.applyRoutes n =
    { p with mask := (p.applyRoutes n).mask, entries := (p.applyRoutes n).entries, routes := (p.applyRoutes n).routes } := by
  have h (l : List Route) : ∀ p : Publication, ∃ m es, l.foldl (fun (p : Publication) r =>
      { p with mask := r.mask.getD p.mask, entries := r.entries.getD p.entries }) p = { p with mask := m, entries := es } := by
    induction l with
    | nil => exact fun p => ⟨p.mask, p.entries, rfl⟩
    | cons r l ih =>
      intro p
      obtain ⟨m, es, hl⟩ := ih { p with mask := r.mask.getD p.mask, entries := r.entries.getD p.entries }
      exact ⟨m, es, hl⟩
  obtain ⟨m, es, hl⟩ := h (p.routes.filter (fun r => decide (r.tick ≤ n))) p
  simp only [Publication.applyRoutes, hl]

/-- A withheld cycle is counted (R239). -/
def Publication.counted (p : Publication) (turn : PubTurn) : Publication :=
  if turn = .withheld then { p with withheld := inc32 p.withheld } else p

theorem Publication.counted_eq (p : Publication) (turn : PubTurn) :
    p.counted turn = { p with withheld := if turn = .withheld then inc32 p.withheld else p.withheld } := by
  rw [Publication.counted]
  split <;> rfl

theorem Publication.counted_applyRoutes_eq (p : Publication) (n : Nat) (turn : PubTurn) : (p.applyRoutes n).counted turn =
    { p with mask := (p.applyRoutes n).mask, entries := (p.applyRoutes n).entries, routes := (p.applyRoutes n).routes
             withheld := if turn = .withheld then inc32 p.withheld else p.withheld } := by
  rw [Publication.counted_eq, Publication.applyRoutes_eq]

/-- The publication after its instant of latch `n` with data set `st`: a new state, a retransmission or nothing. -/
def Publication.instant (p : Publication) (st : List Nat) (turn : PubTurn) (n at_ cycle : Nat) : Publication :=
  if turn != .withheld && (p.stNum == 0 || st != p.state) then p.newState st n at_ cycle
  else if p.stNum != 0 && decide (p.nextDue ≤ n) then p.again n cycle else p

section
variable {p : Publication} {st : List Nat} {turn : PubTurn} {n at_ cycle : Nat}

theorem Publication.instant_kept : (p.instant st turn n at_ cycle).mask = p.mask ∧
    (p.instant st turn n at_ cycle).entries = p.entries ∧ (p.instant st turn n at_ cycle).enabled = p.enabled ∧
    (p.instant st turn n at_ cycle).withheld = p.withheld := by
  rw [Publication.instant]
  split
  · exact ⟨rfl, rfl, rfl, rfl⟩
  · split <;> exact ⟨rfl, rfl, rfl, rfl⟩

theorem Publication.instant_of_fresh (hturn : turn ≠ .withheld) (hst : p.stNum = 0 ∨ st ≠ p.state) :
    p.instant st turn n at_ cycle = p.newState st n at_ cycle := if_pos (by simpa [hturn] using hst)

/-- Neither a withheld cycle nor an unchanged data set starts a new state. -/
theorem Publication.instant_of_old (hnum : p.stNum ≠ 0) (hold : turn = .withheld ∨ st = p.state) :
    p.instant st turn n at_ cycle = if p.nextDue ≤ n then p.again n cycle else p := by
  have hfresh : (turn != .withheld && (p.stNum == 0 || st != p.state)) = false := by
    obtain h | h := hold <;> simp [h, hnum]
  simp [Publication.instant, hfresh, hnum]

end

/-! ### The instant of a publication leaves the others -/

/-- What the data set of publication `num` is made of, and the publication. -/
def State.pubSees (s : State) (num : Nat) : ProgState × PlaceState × FilterState × Tab Subscription × Option Publication :=
  (s.prog, s.place, s.filter, s.pub.subs, s.pub.pubs.get num)

theorem State.pubSees_of_pubView {s t : State} (h : t.pubView = s.pubView) (num : Nat) : t.pubSees num = s.pubSees num := by
  simp only [State.pubView, Prod.mk.injEq] at h
  obtain ⟨hprog, hplace, hfilter, hpub⟩ := h
  simp only [State.pubSees, hprog, hplace, hfilter, hpub]

theorem State.pubState_of_pubSees {s t : State} {num : Nat} (h : t.pubSees num = s.pubSees num) (p : Publication) (n at_ : Nat)
    (turn : PubTurn) : t.pubState p n at_ turn = s.pubState p n at_ turn := by
  simp only [State.pubSees, Prod.mk.injEq] at h
  obtain ⟨hprog, hplace, hfilter, hsubs, -⟩ := h
  have hsignal (g : Nat) : t.signal g = s.signal g := by rw [State.signal, hprog, State.signal]
  have hinst (fi : Nat) : t.inst fi = s.inst fi := by rw [State.inst, hplace, State.inst]
  have hbank (b : Nat) : t.bank b = s.bank b := by rw [State.bank, hfilter, State.bank]
  have hchain (ch : Nat) : t.chainRunning ch = s.chainRunning ch := by
    simp only [State.chainRunning, hplace, hfilter, hbank]
  simp only [State.pubState, State.sigRecord, hsignal, hinst, hchain, hsubs]

/-- Publication `p` after its instant of latch `n` in state `s`, its FRAMES aside. -/
def State.pubTaken (s : State) (p : Publication) (n at_ cycle : Nat) (turn : PubTurn) : Publication :=
  ((p.applyRoutes n).counted turn).instant (s.pubState (p.applyRoutes n) n at_ turn) turn n at_ cycle

theorem State.pubTaken_kept (s : State) (p : Publication) (n at_ cycle : Nat) (turn : PubTurn) :
    (s.pubTaken p n at_ cycle turn).mask = (p.applyRoutes n).mask ∧
    (s.pubTaken p n at_ cycle turn).entries = (p.applyRoutes n).entries ∧
    (s.pubTaken p n at_ cycle turn).enabled = p.enabled ∧
    (s.pubTaken p n at_ cycle turn).withheld = if turn = .withheld then inc32 p.withheld else p.withheld := by
  rw [State.pubTaken]
  obtain ⟨hmask, hentries, henabled, hwithheld⟩ := Publication.instant_kept (p := (p.applyRoutes n).counted turn)
    (st := s.pubState (p.applyRoutes n) n at_ turn) (turn := turn) (n := n) (at_ := at_) (cycle := cycle)
  rw [hmask, hentries, henabled, hwithheld, Publication.counted_applyRoutes_eq]
  exact ⟨rfl, rfl, rfl, rfl⟩

section
variable {s : State} {num n at_ cycle : Nat} {turn : PubTurn} {p : Publication}

theorem State.pubTaken_of_fresh (hturn : turn ≠ .withheld)
    (hst : p.stNum = 0 ∨ s.pubState (p.applyRoutes n) n at_ turn ≠ p.state) : s.pubTaken p n at_ cycle turn =
      ((p.applyRoutes n).counted turn).newState (s.pubState (p.applyRoutes n) n at_ turn) n at_ cycle :=
  Publication.instant_of_fresh hturn (by rw [Publication.counted_applyRoutes_eq]; exact hst)

theorem State.pubTaken_of_old (hnum : p.stNum ≠ 0)
    (hold : turn = .withheld ∨ s.pubState (p.applyRoutes n) n at_ turn = p.state) : s.pubTaken p n at_ cycle turn =
      if p.nextDue ≤ n then ((p.applyRoutes n).counted turn).again n cycle else (p.applyRoutes n).counted turn := by
  have hP := Publication.counted_applyRoutes_eq p n turn
  rw [State.pubTaken, Publication.instant_of_old (by rwa [hP]) (by rwa [hP])]
  rw [show ((p.applyRoutes n).counted turn).nextDue = p.nextDue by rw [hP]]

end

section
variable {s : State} {num n at_ cycle : Nat} {turn : PubTurn} {p : Publication} (hp : s.pub.pubs.get num = some p)
include hp

theorem State.pubInstant_pubView_of_takes (hen : p.enabled = true) (hfirst : p.first.getD 0 ≤ n) :
    ∃ k, (s.pubInstant num n at_ cycle turn).pubView = (s.putPub num
      { s.pubTaken p n at_ cycle turn with frames := k }).pubView := by
  rw [State.pubInstant]
  split
  · next h => cases hp.symm.trans h
  · next p' h =>
    cases hp.symm.trans h
    rw [if_neg (by simp [hen, hfirst])]
    extract_lets p1 p2 st fresh due q pub s1 tc stored
    have hst : st = s.pubState (p.applyRoutes n) n at_ turn := by
      dsimp only [st, p2]
      split <;> rfl
    have hq : stored = q := by
      dsimp only [stored, State.pubTaken]
      rw [← hst]
      exact (ite_ite_or fresh _ _ _ _).symm
    rw [hq]
    split
    next copies s2 hcopies =>
    have h2 : s2.pubView = s1.pubView := by
      have h := congrArg (fun r => r.2.pubView) hcopies
      dsimp only at h
      rw [← h]
      split
      · exact State.pubCopies_pubView _ _ _
      · rfl
    split
    · extract_lets sent s3 pub' s4
      have h3 : s3.pubView = s1.pubView := by
        refine (State.foldl_same State.pubView (fun s c => ?_) _ _).trans h2
        split <;> exact State.originate_pubView ..
      have h4 : ∃ k, s4.pubView = (s.putPub num { q with frames := k }).pubView := by
        dsimp only [s4]
        split
        · exact ⟨_, (State.putPub_pubView h3 num _).trans (congrArg State.pubView (State.putPub_putPub s num q _))⟩
        · exact ⟨q.frames, h3⟩
      split
      · simpa only [State.pairSend_pubView] using h4
      · exact h4
    · refine ⟨q.frames, ?_⟩
      split <;> exact h2

end

section
variable {num n at_ cycle : Nat} {turn : PubTurn}

theorem State.putPub_pubSees_self (s : State) (p : Publication) :
    (s.putPub num p).pubSees num = (s.prog, s.place, s.filter, s.pub.subs, some p) := by
  simp only [State.pubSees, State.putPub, Tab.get_put_self]

theorem State.putPub_pubSees_other (s : State) {m : Nat} (p : Publication) (h : num ≠ m) :
    (s.putPub m p).pubSees num = s.pubSees num := by
  simp only [State.pubSees, State.putPub, Tab.get_put_other _ _ h]

theorem State.pubInstant_pubSees_other (s : State) {m : Nat} (h : num ≠ m) :
    (s.pubInstant m n at_ cycle turn).pubSees num = s.pubSees num := by
  cases hm : s.pub.pubs.get m with
  | none => simp only [State.pubInstant, hm]
  | some p =>
    by_cases htakes : p.enabled = true ∧ p.first.getD 0 ≤ n
    · obtain ⟨k, hk⟩ := State.pubInstant_pubView_of_takes (at_ := at_) (cycle := cycle) (turn := turn) hm htakes.1 htakes.2
      exact (State.pubSees_of_pubView hk num).trans (State.putPub_pubSees_other s _ h)
    · have hskip : (!p.enabled || !decide (p.first.getD 0 ≤ n)) = true := by
        by_cases hen : p.enabled = true
        · simpa [hen] using fun hf => htakes ⟨hen, hf⟩
        · simp [hen]
      simp only [State.pubInstant, hm, hskip, if_true]

theorem State.foldl_pubInstant_pubSees_other {l : List Nat} (h : num ∉ l) (s : State) :
    (l.foldl (fun s m => s.pubInstant m n at_ cycle turn) s).pubSees num = s.pubSees num := by
  induction l generalizing s with
  | nil => rfl
  | cons m l ih =>
    obtain ⟨hm, hl⟩ := not_or.mp (mt List.mem_cons.mpr h)
    exact (ih hl _).trans (State.pubInstant_pubSees_other s hm)

/-- Among the publications of a driver, each is judged by the state before the first of them. -/
theorem State.foldl_pubInstant_pubSees {l : List Nat} (hmem : num ∈ l) (hl : l.Nodup) {s : State} {p : Publication}
    (hp : s.pub.pubs.get num = some p) (hen : p.enabled = true) (hfirst : p.first.getD 0 ≤ n) :
    ∃ k, (l.foldl (fun s m => s.pubInstant m n at_ cycle turn) s).pubSees num =
      (s.prog, s.place, s.filter, s.pub.subs, some { s.pubTaken p n at_ cycle turn with frames := k }) := by
  obtain ⟨before, after, rfl⟩ := List.mem_iff_append.mp hmem
  obtain ⟨hnum, -⟩ := List.nodup_cons.mp (List.nodup_middle.mp hl)
  obtain ⟨hbefore, hafter⟩ := not_or.mp (mt List.mem_append.mpr hnum)
  rw [List.foldl_append, List.foldl_cons]
  have hsees := State.foldl_pubInstant_pubSees_other (n := n) (at_ := at_) (cycle := cycle) (turn := turn) hbefore s
  generalize before.foldl (fun s m => s.pubInstant m n at_ cycle turn) s = s1 at hsees
  have htaken : s1.pubTaken p n at_ cycle turn = s.pubTaken p n at_ cycle turn := by
    rw [State.pubTaken, State.pubState_of_pubSees hsees, State.pubTaken]
  simp only [State.pubSees, Prod.mk.injEq] at hsees
  obtain ⟨hprog, hplace, hfilter, hsubs, hget⟩ := hsees
  obtain ⟨k, hk⟩ := State.pubInstant_pubView_of_takes (at_ := at_) (cycle := cycle) (turn := turn) (hget.trans hp) hen hfirst
  refine ⟨k, (State.foldl_pubInstant_pubSees_other hafter _).trans ((State.pubSees_of_pubView hk num).trans ?_)⟩
  rw [State.putPub_pubSees_self, htaken, hprog, hplace, hfilter, hsubs]

end

/-! ### The outputs at an instant (08 R215, 09 R232) -/

theorem State.foldl_signals {α : Type} {f : State → α → State}
    (h : ∀ s a, ∃ v, f s a = { s with prog.signals := v }) (l : List α) (s : State) :
    ∃ v, l.foldl f s = { s with prog.signals := v } := by
  induction l generalizing s with
  | nil => exact ⟨_, rfl⟩
  | cons a l ih =>
    obtain ⟨v, hv⟩ := h s a
    obtain ⟨w, hw⟩ := ih (f s a)
    exact ⟨w, hw.trans (by rw [hv])⟩

theorem State.driveOutputs_signals (s : State) (fi at_ : Nat) (words : List Nat) (status : Nat) :
    ∃ v, s.driveOutputs fi at_ words status = { s with prog.signals := v } := by
  rw [State.driveOutputs]
  split
  · exact ⟨_, rfl⟩
  · exact State.foldl_signals (fun _ _ => ⟨_, rfl⟩) _ s

theorem State.setInst_driveOutputs_inst (s : State) (fi at_ : Nat) (x : Inst) (words : List Nat) (status : Nat) :
    ((s.setInst fi x).driveOutputs fi at_ words status).inst fi = some x := by
  obtain ⟨v, hv⟩ := State.driveOutputs_signals (s.setInst fi x) fi at_ words status
  rw [hv]
  exact State.setInst_inst_self s fi x

/-- An instant is taken whatever became of the cycle; only the driver and signals change. -/
theorem State.outputInstant_cases (s : State) (fi n at_ : Nat) (x : Inst) : ∃ y v,
    y.lastPub = some n ∧ (s.outputInstant fi n at_ x).2 = { s.setInst fi y with prog.signals := v } := by
  have hdrive (y : Inst) (hy : y.lastPub = some n) (words : List Nat) (status : Nat) : ∃ y' v, y'.lastPub = some n ∧
      (s.setInst fi y).driveOutputs fi at_ words status = { s.setInst fi y' with prog.signals := v } := by
    obtain ⟨v, hv⟩ := State.driveOutputs_signals (s.setInst fi y) fi at_ words status
    exact ⟨y, v, hy, hv⟩
  rw [State.outputInstant]
  split
  · exact ⟨_, _, rfl, rfl⟩
  · split
    · split
      · exact hdrive _ rfl _ _
      · exact ⟨_, _, rfl, rfl⟩
    · split
      · exact hdrive _ rfl _ _
      · split
        · exact hdrive _ rfl _ _
        · exact ⟨_, _, rfl, rfl⟩

theorem State.outputInstant_pub (s : State) (fi n at_ : Nat) (x : Inst) : (s.outputInstant fi n at_ x).2.pub = s.pub := by
  obtain ⟨y, v, -, hr⟩ := s.outputInstant_cases fi n at_ x
  rw [hr]
  rfl

theorem State.outputInstant_anvil (s : State) (fi n at_ : Nat) (x : Inst) :
    (s.outputInstant fi n at_ x).2.anvil = s.anvil := by
  obtain ⟨y, v, -, hr⟩ := s.outputInstant_cases fi n at_ x
  rw [hr]
  rfl

theorem State.outputInstant_inst (s : State) (fi n at_ : Nat) (x : Inst) :
    ∃ y, (s.outputInstant fi n at_ x).2.inst fi = some y ∧ y.lastPub = some n := by
  obtain ⟨y, v, hy, hr⟩ := s.outputInstant_cases fi n at_ x
  rw [hr]
  exact ⟨y, State.setInst_inst_self s fi y, hy⟩

theorem State.outputInstant_of_released {s : State} {fi n at_ : Nat} {x : Inst} {c : Cycle} {outs : List Nat}
    (hc : x.cycles.find? (fun c => c.tick == n) = some c) (hran : c.ran = true) (hv : c.verdict = some (.released outs)) :
    (s.outputInstant fi n at_ x).1 = .accepted ∧ ∃ y, (s.outputInstant fi n at_ x).2.inst fi = some y ∧ y.outs = outs ∧
      y.safe = false ∧ y.published = true := by
  simp only [State.outputInstant, hc, hran, hv, Bool.not_true, Bool.false_eq_true, if_false, true_and]
  exact ⟨_, State.setInst_driveOutputs_inst .., rfl, rfl, rfl⟩

/-! ### The event -/

theorem State.switchover_of_none {s : State} (h : s.pair.switchTick = none) : s.switchover = s := by
  simp only [State.switchover, h]

theorem execPublicationInstant_of_no_switchover {s : State} (h : s.pair.switchTick = none) (dt fi : Nat) :
    exec (.publicationInstant dt fi) s = .next (((s.place.insts.map (·.1)).filter (fun g => decide (g ≤ fi))).foldl
      State.instantOf (s.advance dt)) := by
  have hs : (s.advance dt).switchover = s.advance dt := State.switchover_of_none (by rw [State.advance_pair, h])
  change execPublicationInstant dt fi s = _
  rw [execPublicationInstant, hs, State.advance_place]

theorem State.instantOf_of_due {s : State} {fi n : Nat} {x : Inst} (hx : s.inst fi = some x) (hn : s.instantDue x = some n)
    (hhub : s.anvil.hub ≠ .fatal) : s.instantOf fi =
      let r := s.outputInstant fi n (boundaryQ n + x.pubQ) x
      ((s.pub.pubs.filter (fun p => p.2.driver == fi)).map (·.1)).foldl
        (fun s num => s.pubInstant num n (boundaryQ n + x.pubQ) x.cycle r.1) r.2 := by
  simp only [State.instantOf, hx, hn]
  rw [if_neg (by rwa [State.outputInstant_anvil]), State.outputInstant_pub]

theorem State.instantOf_of_not_due {s : State} {fi : Nat} (h : ∀ x, s.inst fi = some x → s.instantDue x = none) :
    s.instantOf fi = s := by
  cases hx : s.inst fi with
  | none => simp only [State.instantOf, hx]
  | some x => simp only [State.instantOf, hx, h x hx]

/-- The driver's publications, each once. -/
theorem mem_driven {t : Tab Publication} (ht : (t.map (·.1)).Nodup) {num fi : Nat} {p : Publication} (hp : t.get num = some p)
    (hd : p.driver = fi) : num ∈ (t.filter (fun e => e.2.driver == fi)).map (·.1) ∧
      ((t.filter (fun e => e.2.driver == fi)).map (·.1)).Nodup :=
  ⟨List.mem_map.mpr ⟨(num, p), List.mem_filter.mpr ⟨Tab.get_mem hp, beq_iff_eq.mpr hd⟩, rfl⟩,
    ht.sublist ((List.filter_sublist).map _)⟩

/-- With no lower FI declared, the event takes the instants of `fi` alone (R241). -/
theorem filter_le_of_lowest {l : List Nat} (hl : l.Nodup) {fi : Nat} (hmem : fi ∈ l) (hlow : ∀ g ∈ l, g ≤ fi → g = fi) :
    l.filter (fun g => decide (g ≤ fi)) = [fi] := by
  have heq : l.filter (fun g => decide (g ≤ fi)) = l.filter (· == fi) :=
    List.filter_congr fun g hg => by
      rw [Bool.eq_iff_iff, decide_eq_true_iff, beq_iff_eq]
      exact ⟨hlow g hg, fun h => h.le⟩
  rw [heq, List.filter_beq, List.count_eq_one_of_mem hl hmem, List.replicate_one]

/-- Settles O27: `foldl_pubInstant_pubSees` gives the publication after the instant, and the rules of `Publication.instant`
its numbers and its schedule. -/
theorem publicationFollowsItsSchedule : Obligations.PublicationFollowsItsSchedule := by
  refine ⟨?_, fun s fi n at_ x c outs hc hran hv => State.outputInstant_of_released hc hran hv, ?_⟩
  · intro dt fi n num s x p0 s1 at_ r p st hswitch hhub hinsts hpubs hlow hx hdue hp0 hdriver hen hfirst
    have hone : (s.place.insts.map (·.1)).filter (fun g => decide (g ≤ fi)) = [fi] :=
      filter_le_of_lowest hinsts (List.mem_map.mpr ⟨(fi, x), Tab.get_mem hx, rfl⟩)
        (List.forall_mem_map.mpr hlow)
    have hx1 : s1.inst fi = some x := by rw [State.inst, State.advance_place]; exact hx
    have hpub : r.2.pub = s.pub := (State.outputInstant_pub s1 fi n at_ x).trans (State.advance_pub s dt)
    obtain ⟨hmem, hnodup⟩ := mem_driven hpubs hp0 hdriver
    obtain ⟨y, hy, hlast⟩ := State.outputInstant_inst s1 fi n at_ x
    obtain ⟨k, hk⟩ := State.foldl_pubInstant_pubSees (s := r.2) (at_ := at_) (cycle := x.cycle) (turn := r.1) hmem hnodup
      (hpub.symm ▸ hp0) hen hfirst
    have hexec := execPublicationInstant_of_no_switchover hswitch dt fi
    rw [hone, List.foldl_cons, List.foldl_nil, State.instantOf_of_due hx1 hdue (by rwa [State.advance_anvil]),
      State.advance_pub] at hexec
    simp only [State.pubSees, Prod.mk.injEq] at hk
    obtain ⟨-, hplace, -, -, hget⟩ := hk
    obtain ⟨hmask, hentries, henabled, hwithheld⟩ := r.2.pubTaken_kept p0 n at_ x.cycle r.1
    refine ⟨_, _, y, hexec, hget, by rw [State.inst, hplace]; exact hy, hlast, hmask, hentries, henabled.trans hen,
      fun hturn => hwithheld.trans (if_pos hturn), ?_, ?_, ?_⟩
    · intro hturn hst
      rw [State.pubTaken_of_fresh hturn hst, Publication.counted_applyRoutes_eq]
      exact ⟨rfl, rfl, rfl, rfl, rfl, by simp [Publication.newState, Publication.interval]⟩
    · intro hnum hold hnow
      rw [State.pubTaken_of_old hnum hold, if_pos hnow, Publication.counted_applyRoutes_eq]
      exact ⟨rfl, rfl, rfl, rfl, rfl⟩
    · intro hnum hold hlater
      rw [State.pubTaken_of_old hnum hold, if_neg (Nat.not_le.mpr hlater), Publication.counted_applyRoutes_eq]
      exact ⟨rfl, rfl, rfl, rfl, rfl⟩
  · intro dt fi s hswitch hnone
    rw [execPublicationInstant_of_no_switchover hswitch]
    have hstays (l : List Nat) (hl : ∀ g ∈ l, (s.advance dt).instantOf g = s.advance dt) :
        l.foldl State.instantOf (s.advance dt) = s.advance dt :=
      List.foldlRecOn (motive := (· = s.advance dt)) l _ rfl fun t ht g hg => by rw [ht, hl g hg]
    rw [hstays]
    intro g hg
    obtain ⟨hg, hle⟩ := List.mem_filter.mp hg
    obtain ⟨e, he, rfl⟩ := List.mem_map.mp hg
    refine State.instantOf_of_not_due fun x hx => hnone e he (of_decide_eq_true hle) x ?_
    rwa [State.inst, State.advance_place] at hx

end Sys2Proof.Machine

/-! SUPPORT. A GOOSE frame at the subscription it matches, and its silence (09 R245 to R249). -/
namespace Sys2Proof.Machine
open Sys2Proof

/-! ### A subscription that is stored -/

theorem State.setSub_subs_self (s : State) (n : Nat) (x : Subscription) : (s.setSub n x).pub.subs.get n = some x :=
  Tab.get_put_self _ _ _

/-- Only signals take the values of a frame (R248). -/
theorem State.driveSub_pub (s : State) (x : Subscription) (values : List Nat) (ta : Nat) :
    (s.driveSub x values ta).pub = s.pub := by
  refine State.foldl_same State.pub (fun s e => ?_) _ _
  split <;> rfl

/-! ### From the port to the subscription -/

section
variable {s : State} {port ta : Nat} {f : Bytes}

theorem State.portEntity_of_untagged (h : (s.redStrip port f).ent = none) : s.portEntity port = none := by
  rw [State.redStrip] at h
  split at h
  · assumption
  · split at h <;> split at h <;> cases h

theorem State.gooseFrame_of_matched {n : Nat} {x : Subscription} (hgood : s.rxGood port f = true)
    (hswitch : s.isSwitchPort port = true) (hent : (s.redStrip port f).ent = none)
    (htype : (ethParse (s.redStrip port f).frame).etype = etGoose)
    (hfind : s.findSub port (ethParse (s.redStrip port f).frame) = some n) (hx : s.pub.subs.get n = some x) :
    s.gooseFrame port ta f = (s.gooseChecks n x (ethParse (s.redStrip port f).frame) (9 * ta)).2 := by
  have hstrip : s.redStrip port f = { frame := f } := State.redStrip_of_no_entity (State.portEntity_of_untagged hent)
  rw [hstrip] at htype hfind ⊢
  have hdeliver : s.gooseDeliver port ta { frame := f } = (s.gooseChecks n x (ethParse f) (9 * ta)).2 := by
    simp only [State.gooseDeliver, State.consumerSeen, hfind, hx, Bool.false_eq_true, if_false]
    split <;> next h => exact congrArg Prod.snd h.symm
  simp [State.gooseFrame, hgood, hswitch, hstrip, htype, hdeliver]

end

/-! ### Checks 1 to 4 (R246) -/

section
variable {s : State} {n ta : Nat} {x : Subscription} {e : Eth}

theorem State.gooseChecks_of_disabled (h : x.st = .disabled) : s.gooseChecks n x e ta = (false, s) := if_pos h

theorem State.gooseChecks_of_passed {u : IecPdu} {g : Goose}
    {v : List Nat} (hst : x.st ≠ .disabled) (hu : iecParse e.payload = some u) (hg : gooseParse u.apdu = some g)
    (hv : decodeEntries x.entries g.data = some v) (hnds : g.nds = false) (hnum : g.stNum ≠ 0) (hn : g.n = x.entries.length)
    (hsim : (g.sim || u.sim) = true → x.accSim = true) (htag : tagPasses x.auth x.key u = true) (hrev : g.rev = x.confRev) :
    s.gooseChecks n x e ta = (true, s.gooseSequence n (x.count 0) g v ta) := by
  have hreal : ((g.sim || u.sim) && !x.accSim) = false := by
    cases h : g.sim || u.sim
    · rfl
    · rw [hsim h]
      rfl
  simp [State.gooseChecks, Subscription.count, hst, hu, hg, hv, hnds, hnum, hn, hreal, htag, hrev]

end

/-! ### Check 5 (R247) -/

/-- The subscription with the numbers of an accepted frame, which is its last arrival. -/
def Subscription.accepting (x : Subscription) (g : Goose) (ta : Nat) : Subscription :=
  ({ x with last := some (g.stNum, g.sqNum) }).arrived ta g.tal

/-- A new state: the subscription and its signals take the values of the frame (R247, R248). -/
def State.takeState (s : State) (n : Nat) (x : Subscription) (g : Goose) (v : List Nat) (ta : Nat) : State :=
  (s.setSub n ({ x with values := v }.accepting g ta)).driveSub ({ x with values := v }.accepting g ta) v ta

theorem State.takeState_subs (s : State) (n : Nat) (x : Subscription) (g : Goose) (v : List Nat) (ta : Nat) :
    (s.takeState n x g v ta).pub.subs.get n = some ({ x with values := v }.accepting g ta) := by
  rw [State.takeState, State.driveSub_pub]
  exact State.setSub_subs_self _ _ _

section
variable {s : State} {n ta : Nat} {x : Subscription} {g : Goose} {v : List Nat}

theorem State.gooseSequence_of_first (h : x.last = none) : s.gooseSequence n x g v ta = s.takeState n x g v ta := by
  simp only [State.gooseSequence, h]
  rfl

section
variable {st sq : Nat} (h : x.last = some (st, sq))
include h

theorem State.gooseSequence_of_restart (hnum : g.stNum = 1 ∧ g.sqNum = 0) :
    s.gooseSequence n x g v ta = s.takeState n (x.count 7) g v ta := by
  simp only [State.gooseSequence, h]
  exact if_pos (by simpa using hnum)

variable (hnum : ¬ (g.stNum = 1 ∧ g.sqNum = 0))
include hnum

/-- The stream of numbers is judged by the differences of stNum and sqNum. -/
theorem State.gooseSequence_of_continued : s.gooseSequence n x g v ta =
    if 0 < sdiff 32 g.stNum st then s.takeState n (if 1 < sdiff 32 g.stNum st then x.count 5 else x) g v ta
    else if sdiff 32 g.stNum st = 0 ∧ 0 < sdiff 32 g.sqNum sq then
      s.setSub n ((if v = x.values then x else x.count 6).accepting g ta)
    else if sdiff 32 g.stNum st = 0 ∧ sdiff 32 g.sqNum sq = 0 then s.setSub n (x.count 4)
    else s.setSub n (x.count 3) := by
  simp only [State.gooseSequence, h]
  refine (if_neg (by simpa using hnum)).trans ?_
  have hvalues : (if (v != x.values) = true then x.count 6 else x) = if v = x.values then x else x.count 6 := by
    by_cases hv : v = x.values <;> simp [hv]
  rw [hvalues]
  rfl

end
end

/-! ### SUBSCRIPTION_STALE (R248, R249) -/

section
variable {dt n : Nat} {s : State} {x : Subscription} (hx : s.pub.subs.get n = some x)
include hx

theorem execSubscriptionStale_of_healthy {a b : Nat} {l : List (Nat × Nat)} (hst : x.st = .healthy)
    (harr : x.arrivals = (a, b) :: l) : exec (.subscriptionStale dt n) s = .next
      (if (s.advance dt).now > b + 2000 * qNs then
        ((((s.advance dt).setSub n { x.count 8 with st := .stale }).post 0x0601
          (le 2 n ++ le 4 ((x.last.map (·.1)).getD 0))).raiseInt 133)
      else s.advance dt) := by
  change execSubscriptionStale dt n s = _
  simp only [execSubscriptionStale, State.advance_pub, hx, hst, harr, List.head?_cons]
  split <;> rfl

theorem execSubscriptionStale_of_not_healthy (hst : x.st ≠ .healthy) :
    exec (.subscriptionStale dt n) s = .next (s.advance dt) := by
  change execSubscriptionStale dt n s = _
  simp only [execSubscriptionStale, State.advance_pub, hx]
  split
  · next h _ => exact absurd h hst
  · rfl

end

/-- Settles O28: the frame reaches its subscription (`State.gooseFrame_of_matched`), passes checks 1 to 4
(`State.gooseChecks_of_passed`) and is judged by the cases of R247. -/
theorem subscriptionFollowsItsStream : Obligations.SubscriptionFollowsItsStream := by
  refine ⟨?_, ?_, fun dt n s x hx hst => execSubscriptionStale_of_not_healthy hx hst⟩
  · intro dt port ta n f s x u g v s1 r e hgood hswitch hent htype hfind hx
    have hx1 : s1.pub.subs.get n = some x := by rw [State.advance_pub]; exact hx
    have hexec : exec (.gooseFrameReceived dt port ta f) s = .next (s1.gooseChecks n x e (9 * ta)).2 :=
      congrArg Host.Outcome.next (State.gooseFrame_of_matched hgood hswitch hent htype hfind hx1)
    refine ⟨fun hst => ?_, fun hst hu hg hv hnds hnum hn hsim htag hrev => ?_⟩
    · rw [hexec, State.gooseChecks_of_disabled hst]
    rw [State.gooseChecks_of_passed hst hu hg hv hnds hnum hn hsim htag hrev] at hexec
    cases hlast : x.last with
    | none =>
      rw [State.gooseSequence_of_first (x := x.count 0) hlast] at hexec
      exact ⟨_, _, hexec, State.takeState_subs .., rfl, rfl, rfl, rfl, rfl, rfl, rfl⟩
    | some p =>
      obtain ⟨st, sq⟩ := p
      dsimp only
      split
      · next h =>
        rw [State.gooseSequence_of_restart (x := x.count 0) hlast h] at hexec
        exact ⟨_, _, hexec, State.takeState_subs .., rfl, rfl, rfl, rfl, rfl, rfl, rfl⟩
      · next h =>
        rw [State.gooseSequence_of_continued (x := x.count 0) hlast h] at hexec
        split
        · next hnew =>
          rw [if_pos hnew] at hexec
          refine ⟨_, _, hexec, State.takeState_subs .., ?_⟩
          split <;> exact ⟨rfl, rfl, rfl, rfl, rfl, rfl, rfl⟩
        · next hnew =>
          rw [if_neg hnew] at hexec
          split
          · next hmore =>
            rw [if_pos hmore, show (x.count 0).values = x.values from rfl] at hexec
            refine ⟨_, _, hexec, State.setSub_subs_self .., ?_⟩
            split <;> exact ⟨rfl, rfl, rfl, rfl, rfl, rfl, rfl⟩
          · next hmore =>
            rw [if_neg hmore] at hexec
            split
            · next hsame =>
              rw [if_pos hsame] at hexec
              exact ⟨_, _, hexec, State.setSub_subs_self .., rfl, rfl, by rw [← hlast]; rfl⟩
            · next hsame =>
              rw [if_neg hsame] at hexec
              exact ⟨_, _, hexec, State.setSub_subs_self .., rfl, rfl, by rw [← hlast]; rfl⟩
  · intro dt n s x a b l s1 hx hst harr
    have hexec := execSubscriptionStale_of_healthy (dt := dt) hx hst harr
    refine ⟨fun hlate => ?_, fun hintime => ?_⟩
    · rw [if_pos hlate] at hexec
      refine ⟨_, _, hexec, ?_, rfl, ?_⟩
      · rw [State.raiseInt_pub, State.post_pub]
        exact State.setSub_subs_self _ _ _
      · rw [State.raiseInt_prog, State.post_prog, State.setSub_prog, State.advance_prog]
    · rwa [if_neg (Nat.not_lt.mpr hintime)] at hexec

end Sys2Proof.Machine

/-! SUPPORT. The publish and route commands (09 R231 to R251): what each card's own part answers. -/
namespace Sys2Proof.Machine
open Sys2Proof

section
variable {s : State} {c : Cmd}

/-! ### BIND_OUTPUTS and the sources of signals (R231, R232) -/

theorem State.drivenByOther_eq_false {sig : Nat} {src : SigSrc}
    (h : (s.signal sig).src = .none ∨ (s.signal sig).src = src) : s.drivenByOther sig src = false := by
  rw [State.drivenByOther]
  obtain h | h := h <;> simp [h]

theorem cardBindOutputs_run_of_free {x : Inst} (hx : s.inst (u16 c.params 0) = some x) (hrun : x.isRunning = false)
    (hfree : ∀ b ∈ bindEntries c.params, (s.signal b.signal).src = .none ∨
      (s.signal b.signal).src = SigSrc.output (u16 c.params 0)) : cardBindOutputs.run s c =
    let t := ((bindEntries c.params).foldl (fun (t : State) b => t.bindSignal b.signal (.output (u16 c.params 0)))
      (s.releaseSignals (· == SigSrc.output (u16 c.params 0)))).setInst (u16 c.params 0) { x with outBinds := bindEntries c.params }
    .ok (if x.isPlaced then t.redriveOutputs (u16 c.params 0) else t) [] := by
  have hnone : (bindEntries c.params).any (fun b => s.drivenByOther b.signal (.output (u16 c.params 0))) = false :=
    List.any_eq_false.mpr fun b hb => by simp [State.drivenByOther_eq_false (hfree b hb)]
  simp only [cardBindOutputs, hx, hrun, hnone, Bool.false_eq_true, if_false]

/-! ### Keys that definitions name (R469) -/

/-- The key of a use that gives one. -/
def KeyUse.taken : KeyUse → Option (Option Bytes)
  | .ok k => some (some k)
  | _ => none

/-- The key that a definition takes with AUTH `auth` from slot `n`; none where the slot does not serve. -/
def State.keyFor (s : State) (c : Cmd) (auth n : Nat) (need : Nat × Nat) : Option (Option Bytes) :=
  if auth = 0 then some none else if s.slotFits c.inst n need then (s.useSlot n).taken else none

theorem State.keyFor_cases {auth n : Nat} {need : Nat × Nat} {key : Option Bytes} (h : s.keyFor c auth n need = some key) :
    ∃ k, (if auth = 0 then KeyUse.ok [] else if s.slotFits c.inst n need then s.useSlot n else .refused) = .ok k ∧
      (if auth = 0 then none else some k) = key := by
  rw [State.keyFor] at h
  split at h
  · next ha => exact ⟨[], if_pos ha, (if_pos ha).trans (Option.some.inj h)⟩
  · next ha =>
    split at h
    · next hfits =>
      cases huse : s.useSlot n with
      | ok k =>
        rw [huse] at h
        exact ⟨k, (if_neg ha).trans ((if_pos hfits).trans rfl), (if_neg ha).trans (Option.some.inj h)⟩
      | refused | integrity t =>
        rw [huse] at h
        cases h
    · cases h

/-- ORIGIN plays no part in what a slot gives. -/
theorem State.keyFor_under (s : State) (c : Cmd) (auth n : Nat) (need : Nat × Nat) :
    (s.under c).keyFor c auth n need = s.keyFor c auth n need := by
  have htaken : ((s.under c).useSlot n).taken = (s.useSlot n).taken := by
    simp only [State.useSlot, apply_ite KeyUse.taken]
    rfl
  rw [State.keyFor, htaken]
  rfl

/-! ### Publications -/

/-- The publication that a DEFINE_PUBLICATION stores. -/
def State.pubDefined (s : State) (c : Cmd) : Publication := pubOf c.params c.inst
  ((s.keyFor c (byteAt c.params 5) (u16 c.params 6) (needGenerate (byteAt c.params 5))).getD none)

theorem State.pubDefined_under (s : State) (c : Cmd) : (s.under c).pubDefined c = s.pubDefined c := by
  rw [State.pubDefined, State.keyFor_under]
  rfl

theorem definePubRun_of_free (hfree : s.pub.pubs.get (u16 c.params 0) = none)
    (hdriver : (s.inst (u16 c.params 2)).isSome = true)
    (hkey : (s.keyFor c (byteAt c.params 5) (u16 c.params 6) (needGenerate (byteAt c.params 5))).isSome = true)
    (hbytes : (s.pubDefined c).frameBytes ≤ 1518) (hroom : s.pub.pubs.length < 1024) : definePubRun s c =
      .ok (s.putPub (u16 c.params 0) (s.pubDefined c)) (le 2 (s.pubDefined c).frameBytes ++ zeros 2) := by
  obtain ⟨key, hkey⟩ := Option.isSome_iff_exists.mp hkey
  obtain ⟨k, hk, hused⟩ := State.keyFor_cases hkey
  rw [State.pubDefined, hkey, Option.getD_some] at hbytes ⊢
  simp only [definePubRun, hfree, hk, hused]
  refine (if_neg (by simp)).trans ((if_neg (by simpa using Option.isSome_iff_ne_none.mp hdriver)).trans ?_)
  exact (if_neg (Nat.not_lt.mpr hbytes)).trans (if_neg (Nat.not_le.mpr hroom))

section
variable {q : Publication} (hq : s.pub.pubs.get (u16 c.params 0) = some q)
include hq

theorem cardRemovePublication_run_of_disabled (hen : q.enabled = false) : cardRemovePublication.run s c =
    .ok { s with pub.pubs := s.pub.pubs.del (u16 c.params 0) } [] := by
  simp only [cardRemovePublication, hq]
  exact if_neg (by simp [hen])

theorem cardRemovePublication_run_of_enabled (hen : q.enabled = true) : cardRemovePublication.run s c = .wrong 8 := by
  simp only [cardRemovePublication, hq]
  exact if_pos hen

theorem enablePubRun_of_zero (h : byteAt c.params 2 = 0) : enablePubRun s c =
    .ok (s.putPub (u16 c.params 0) { q with enabled := false }) [] := by
  simp only [enablePubRun, hq]
  exact if_pos h

/-- A publication that starts: its numbers begin anew at the first latch `n` (R237). -/
def Publication.started (q : Publication) (n : Option Nat) : Publication :=
  { q with enabled := true, first := n, stNum := 0, sqNum := 0, j := 0, state := [] }

theorem enablePubRun_of_fits {x : Inst} (hone : byteAt c.params 2 = 1) (hen : q.enabled = false)
    (hx : s.inst q.driver = some x) (hphase : x.knownPhase.isSome = true)
    (hfits : q.cls = 0 → (s.putPub (u16 c.params 0) (q.started ((s.inst q.driver).map s.firstPub))).expressFail = none)
    (hpair : (s.putPub (u16 c.params 0) (q.started ((s.inst q.driver).map s.firstPub))).pairOver = false) :
    enablePubRun s c = .ok (s.putPub (u16 c.params 0) (q.started ((s.inst q.driver).map s.firstPub))) (le 8 (s.firstPub x)) := by
  obtain ⟨ph, hph⟩ := Option.isSome_iff_exists.mp hphase
  rw [hx, Option.map_some] at hfits hpair ⊢
  have hfail : (if q.cls = 0 then (s.putPub (u16 c.params 0) (q.started (some (s.firstPub x)))).expressFail else none) = none := by
    split
    · next h => exact hfits h
    · rfl
  simp only [State.putPub, Publication.started] at hfail hpair
  simp only [enablePubRun, hq, hx, hen, hone, Option.map_some, Option.bind_some, hph, hfail, hpair]
  rfl

/-- The route change that a SET_ROUTE queues for latch `n` (R244). -/
def routeOf (p : Bytes) (n : Nat) : Route :=
  { tick := n, mask := if bit (byteAt p 2) 0 then some (uN p 0x0C 16) else none
    entries := if bit (byteAt p 2) 1 then some (dataEntries p 0x20 (u16 p 0x1C)) else none }

/-- The publication with a route change queued. -/
def Publication.routed (q : Publication) (r : Route) : Publication := { q with routes := q.routes ++ [r] }

theorem setRouteRun_of_fits {n : Nat} (hn : s.routeLatch q (u64 c.params 4) c.own = some n)
    (hfits : q.enabled = true → q.cls = 0 →
      (s.putPub (u16 c.params 0) (q.routed (routeOf c.params n))).expressFail = none) : setRouteRun s c =
      .ok (s.putPub (u16 c.params 0) (q.routed (routeOf c.params n))) (le 8 n) := by
  have hfail : (if q.enabled && q.cls == 0 then
      (s.putPub (u16 c.params 0) (q.routed (routeOf c.params n))).expressFail else none) = none := by
    split
    · next h =>
      obtain ⟨hen, hcls⟩ := Bool.and_eq_true_iff.mp h
      exact hfits hen (beq_iff_eq.mp hcls)
    · rfl
  simp only [State.putPub, Publication.routed, routeOf] at hfail
  simp only [setRouteRun, hq, hn, hfail]
  rfl

theorem cardGetPublication_run_of_defined : cardGetPublication.run s c =
    .ok (if bit (byteAt c.params 2) 0 then s.putPub (u16 c.params 0) { q with frames := 0, withheld := 0 } else s)
      (le 1 (boolNat q.enabled) ++ le 1 q.cls ++ le 2 q.frameBytes ++ le 4 q.stNum ++ le 4 q.sqNum ++
        le 8 (q.lastChange / qNs) ++ le 4 q.frames ++ le 4 q.withheld) := by
  simp only [cardGetPublication, hq]
  rfl

end

/-! ### Subscriptions -/

/-- The subscription that a DEFINE_SUBSCRIPTION stores. -/
def State.subDefined (s : State) (c : Cmd) : Subscription := subOf c.params c.inst
  ((s.keyFor c (byteAt c.params 2) (u16 c.params 0x1E) (needVerify (byteAt c.params 2))).getD none)

theorem State.subDefined_under (s : State) (c : Cmd) : (s.under c).subDefined c = s.subDefined c := by
  rw [State.subDefined, State.keyFor_under]
  rfl

theorem defineSubRun_of_free (hfree : s.pub.subs.get (u16 c.params 0) = none)
    (hkey : (s.keyFor c (byteAt c.params 2) (u16 c.params 0x1E) (needVerify (byteAt c.params 2))).isSome = true)
    (hapart : ∀ q ∈ s.pub.subs, subsOverlap q.2 (s.subDefined c) = false) (hroom : s.pub.subs.length < 1024)
    (hsignals : ∀ g ∈ valueSignals (s.subDefined c).entries, (s.signal g).src = .none) : defineSubRun s c =
      .ok ((valueSignals (s.subDefined c).entries).foldl
        (fun (t : State) g => t.bindSignal g (.subscription (u16 c.params 0)))
        (s.setSub (u16 c.params 0) (s.subDefined c))) [] := by
  obtain ⟨key, hkey⟩ := Option.isSome_iff_exists.mp hkey
  obtain ⟨k, hk, hused⟩ := State.keyFor_cases hkey
  rw [State.subDefined, hkey, Option.getD_some] at hapart hsignals ⊢
  have hover : s.pub.subs.any (fun q => subsOverlap q.2 (subOf c.params c.inst key)) = false :=
    List.any_eq_false.mpr fun q hq => by simp [hapart q hq]
  have hdriven : (valueSignals (subOf c.params c.inst key).entries).any
      (fun g => s.drivenByOther g (.subscription (u16 c.params 0))) = false :=
    List.any_eq_false.mpr fun g hg => by simp [State.drivenByOther_eq_false (.inl (hsignals g hg))]
  simp only [defineSubRun, hfree, hk, hused, hover, hdriven]
  exact (if_neg (by simp)).trans ((if_neg (by simp)).trans ((if_neg (by simp)).trans (if_neg (Nat.not_le.mpr hroom))))

section
variable {x : Subscription} (hx : s.pub.subs.get (u16 c.params 0) = some x)
include hx

theorem cardRemoveSubscription_run_of_disabled (hst : x.st = .disabled) : cardRemoveSubscription.run s c =
    .ok ({ s with pub.subs := s.pub.subs.del (u16 c.params 0) }.releaseSignals (· == SigSrc.subscription (u16 c.params 0)))
      [] := by
  simp only [cardRemoveSubscription, hx]
  exact if_neg (by simp [hst])

theorem cardEnableSubscription_run_of_defined : cardEnableSubscription.run s c =
    .ok (s.setSub (u16 c.params 0) (if byteAt c.params 2 = 0 then { x with st := .disabled }
      else if x.st = .disabled then { x with st := .waiting, arrivals := [] } else x)) [] := by
  simp only [cardEnableSubscription, hx]

theorem cardGetSubscription_run_of_defined : cardGetSubscription.run s c =
    .ok (if bit (byteAt c.params 2) 0 then s.setSub (u16 c.params 0) { x with counters := List.replicate 9 0 } else s)
      (le 1 x.st.code ++ zeros 3 ++ le 4 (x.last.getD (0, 0)).1 ++ le 4 (x.last.getD (0, 0)).2 ++
        x.counters.flatMap (le 4)) := by
  simp only [cardGetSubscription, hx]

end
end

theorem cardDefinePublication_completes : cardDefinePublication.Completes .definePublication
    (fun s c => s.pub.pubs.get (u16 c.params 0) = none ∧ (s.inst (u16 c.params 2)).isSome = true ∧
      (s.keyFor c (byteAt c.params 5) (u16 c.params 6) (needGenerate (byteAt c.params 5))).isSome = true ∧
      (s.pubDefined c).frameBytes ≤ 1518 ∧ s.pub.pubs.length < 1024)
    (fun s c => s.putPub (u16 c.params 0) (s.pubDefined c))
    (fun s c => le 2 (s.pubDefined c).frameBytes ++ zeros 2) := by
  refine Card.completes_of (fun _ _ _ => rfl) (fun s c ⟨hfree, hdriver, hkey, hbytes, hroom⟩ => ?_)
    (fun _ _ ⟨hfree, hdriver, hkey, hbytes, hroom⟩ => definePubRun_of_free hfree hdriver hkey hbytes hroom)
  rw [State.keyFor_under, State.pubDefined_under]
  exact ⟨hfree, hdriver, hkey, hbytes, hroom⟩

theorem cardDefineSubscription_completes : cardDefineSubscription.Completes .defineSubscription
    (fun s c => s.pub.subs.get (u16 c.params 0) = none ∧
      (s.keyFor c (byteAt c.params 2) (u16 c.params 0x1E) (needVerify (byteAt c.params 2))).isSome = true ∧
      (∀ q ∈ s.pub.subs, subsOverlap q.2 (s.subDefined c) = false) ∧ s.pub.subs.length < 1024 ∧
      ∀ g ∈ valueSignals (s.subDefined c).entries, (s.signal g).src = .none)
    (fun s c => (valueSignals (s.subDefined c).entries).foldl
      (fun (t : State) g => t.bindSignal g (.subscription (u16 c.params 0)))
      (s.setSub (u16 c.params 0) (s.subDefined c))) (fun _ _ => []) := by
  refine Card.completes_of (fun _ _ _ => rfl) (fun s c ⟨hfree, hkey, hapart, hroom, hsignals⟩ => ?_)
    (fun _ _ ⟨hfree, hkey, hapart, hroom, hsignals⟩ => defineSubRun_of_free hfree hkey hapart hroom hsignals)
  rw [State.keyFor_under, State.subDefined_under]
  exact ⟨hfree, hkey, hapart, hroom, hsignals⟩

/-- Settles O26: each command by what its card's own part answers; the rules of `Laws/Card` make it the row's. -/
theorem publishCommandsComplete : Obligations.PublishCommandsComplete := by
  refine ⟨?_, ?_, ?_, ?_, ?_, ?_, ?_, ?_, ?_, ?_, ?_, ?_, ?_⟩
  -- BIND_OUTPUTS.
  · refine Card.completes_of (fun _ _ _ => rfl) (fun _ _ h => h) (fun s c ⟨⟨x, hx, hrun⟩, hfree⟩ => ?_)
    refine (cardBindOutputs_run_of_free hx hrun hfree).trans ?_
    simp only [hx]
    rfl
  -- DEFINE_PUBLICATION, REMOVE_PUBLICATION and ENABLE_PUBLICATION.
  · exact cardDefinePublication_completes
  · exact Card.completes_of (fun _ _ _ => rfl) (fun _ _ h => h)
      (fun _ _ ⟨_, hq, hen⟩ => cardRemovePublication_run_of_disabled hq hen)
  · exact Card.refuses_of (fun _ _ _ => rfl) (fun _ _ h => ⟨h, rfl⟩)
      (fun _ _ ⟨_, hq, hen⟩ => cardRemovePublication_run_of_enabled hq hen)
  · refine Card.completes_of (fun _ _ _ => rfl) (fun _ _ h => h) (fun s c ⟨hzero, hsome⟩ => ?_)
    obtain ⟨q, hq⟩ := Option.isSome_iff_exists.mp hsome
    refine (enablePubRun_of_zero hq hzero).trans ?_
    simp only [hq]
    rfl
  · refine Card.completes_of (fun _ _ _ => rfl) (fun _ _ h => h)
      (fun s c ⟨hone, q, x, hq, hen, hx, hphase, hfits, hpair⟩ => ?_)
    refine (enablePubRun_of_fits hq hone hen hx hphase hfits hpair).trans ?_
    simp only [hq, Option.bind_some, hx, Option.map_some, Option.getD_some]
    rfl
  -- SET_ROUTE and GET_PUBLICATION.
  · refine Card.completes_of (fun _ _ _ => rfl) (fun _ _ h => h) (fun s c ⟨q, n, hq, hn, hfits⟩ => ?_)
    refine (setRouteRun_of_fits hq hn hfits).trans ?_
    simp only [hq, Option.bind_some, hn, Option.getD_some]
    rfl
  · refine Card.completes_of (fun _ _ _ => rfl) (fun _ _ h => h) (fun s c hsome => ?_)
    obtain ⟨q, hq⟩ := Option.isSome_iff_exists.mp hsome
    refine (cardGetPublication_run_of_defined hq).trans ?_
    simp only [hq]
    rfl
  -- DEFINE_SUBSCRIPTION, REMOVE_SUBSCRIPTION, ENABLE_SUBSCRIPTION and GET_SUBSCRIPTION.
  · exact cardDefineSubscription_completes
  · exact Card.completes_of (fun _ _ _ => rfl) (fun _ _ h => h)
      (fun _ _ ⟨_, hx, hst⟩ => cardRemoveSubscription_run_of_disabled hx hst)
  · refine Card.completes_of (fun _ _ _ => rfl) (fun _ _ h => h) (fun s c hsome => ?_)
    obtain ⟨x, hx⟩ := Option.isSome_iff_exists.mp hsome
    refine (cardEnableSubscription_run_of_defined hx).trans ?_
    simp only [hx]
  · refine Card.completes_of (fun _ _ _ => rfl) (fun _ _ h => h) (fun s c hsome => ?_)
    obtain ⟨x, hx⟩ := Option.isSome_iff_exists.mp hsome
    refine (cardGetSubscription_run_of_defined hx).trans ?_
    simp only [hx]
  -- GET_SIGNAL.
  · exact Card.reads_of (fun _ _ _ => rfl) rfl (fun _ _ h => ⟨h, rfl⟩) (fun _ _ _ => rfl)

end Sys2Proof.Machine

/-! SUPPORT. The state of the capture store (10 R252, R270): recorders that are stored, and bytes written and read back. -/
namespace Sys2Proof.Machine
open Sys2Proof

/-! ### A recorder that is stored -/

@[simp] theorem State.setRec_recd_self (s : State) (n : Nat) (r : Recorder) : (s.setRec n r).recd n = some r :=
  Tab.get_put_self _ _ _

theorem State.setRec_recd_other {s : State} {n m : Nat} {r : Recorder} (h : m ≠ n) : (s.setRec n r).recd m = s.recd m :=
  Tab.get_put_other _ _ h

theorem State.setRec_setRec (s : State) (n : Nat) (r q : Recorder) : (s.setRec n r).setRec n q = s.setRec n q := by
  simp only [State.setRec, Tab.put_put]

theorem State.recd_congr {s t : State} (h : t.cap.recs = s.cap.recs) (n : Nat) : t.recd n = s.recd n := by
  rw [State.recd, State.recd, h]

@[simp] theorem State.advance_recd (s : State) (dt n : Nat) : (s.advance dt).recd n = s.recd n :=
  State.recd_congr (by rw [State.advance_cap]) n

/-- A segment that comes free is taken only by a recorder that is FULL (R260, R267). -/
theorem State.capAvail_of_not_full {s : State} {n : Nat} {r : Recorder} (hr : s.recd n = some r) (hst : r.st ≠ .full) :
    s.capAvail n = s := by
  simp [State.capAvail, hr, hst]

/-! ### Element `i` of a list, changed -/

theorem getElem?_modAt_self {α : Type} (l : List α) (i : Nat) (f : α → α) : (modAt l i f)[i]? = l[i]?.map f := by
  induction l generalizing i with
  | nil => rfl
  | cons a l ih =>
    cases i with
    | zero => rfl
    | succ i => exact ih i

theorem getElem?_modAt_other {α : Type} {i j : Nat} (h : i ≠ j) (l : List α) (f : α → α) :
    (modAt l j f)[i]? = l[i]? := by
  induction l generalizing i j with
  | nil => rfl
  | cons a l ih =>
    cases j with
    | zero => cases i with
      | zero => exact absurd rfl h
      | succ i => rfl
    | succ j => cases i with
      | zero => rfl
      | succ i => exact ih fun e => h (congrArg _ e)

@[simp] theorem length_modAt {α : Type} (l : List α) (i : Nat) (f : α → α) : (modAt l i f).length = l.length := by
  induction l generalizing i with
  | nil => rfl
  | cons a l ih =>
    cases i with
    | zero => rfl
    | succ i => exact congrArg (· + 1) (ih i)

/-! ### Bytes of a sparse memory -/

@[simp] theorem length_readCells (n a : Nat) (t : Tab Byte) : (readCells n a t).length = n := by
  induction n generalizing a t with
  | zero => simp [readCells]
  | succ n ih =>
    cases t with
    | nil => simp [readCells, ih]
    | cons e t =>
      simp only [readCells]
      split <;> simp [ih]

@[simp] theorem length_memReadN (m : Tab Byte) (a n : Nat) : (memReadN m a n).length = n := length_readCells _ _ _

/-- A cell above the one that is read leaves it 0. -/
theorem readCells_succ_of_above {n a : Nat} {t : Tab Byte} (h : ∀ e ∈ t, a < e.1) :
    readCells (n + 1) a t = 0 :: readCells n (a + 1) t := by
  cases t with
  | nil => rw [readCells]
  | cons e t =>
    have := h e List.mem_cons_self
    rw [readCells, if_neg (by omega)]

/-- The cells of a byte string, followed by cells above it, are read as that string. -/
theorem readCells_cellsOf_append (p : Bytes) (a : Nat) {t : Tab Byte} (h : ∀ e ∈ t, a + p.length ≤ e.1) :
    readCells p.length a (cellsOf a p ++ t) = p := by
  induction p generalizing a with
  | nil => rw [List.length_nil, readCells]
  | cons b p ih =>
    rw [List.length_cons] at h
    have hrest : readCells p.length (a + 1) (cellsOf (a + 1) p ++ t) = p := ih (a + 1) fun e he => by
      have := h e he
      omega
    have habove : ∀ e ∈ cellsOf (a + 1) p ++ t, a < e.1 := fun e he => by
      rcases List.mem_append.mp he with he | he
      · have := ((cellsOf_wf (a + 1) p).2 e he).2.1
        omega
      · have := h e he
        omega
    by_cases hb : b = 0
    · rw [cellsOf, if_pos hb, List.length_cons, readCells_succ_of_above habove, hrest, hb]
    · rw [cellsOf, if_neg hb, List.length_cons, List.cons_append, readCells, if_pos rfl, hrest]

/-- A byte string that was written is read back. -/
theorem memReadN_memWriteN_self (m : Tab Byte) (a : Nat) (p : Bytes) : memReadN (memWriteN m a p) a p.length = p := by
  have hbelow : (m.filter (fun e => e.1 < a)).filter (fun e => decide (a ≤ e.1)) = [] :=
    List.filter_eq_nil_iff.mpr fun e he => by
      have := (List.mem_filter.mp he).2
      simp only [decide_eq_true_eq] at this ⊢
      omega
  have hcells : (cellsOf a p).filter (fun e => decide (a ≤ e.1)) = cellsOf a p :=
    List.filter_eq_self.mpr fun e he => by simpa using ((cellsOf_wf a p).2 e he).2.1
  rw [memReadN, memWriteN, List.filter_append, List.filter_append, hbelow, hcells, List.nil_append]
  refine readCells_cellsOf_append p a fun e he => ?_
  simpa using (List.mem_filter.mp (List.mem_filter.mp he).1).2

/-! ### The store: writes, and reads through Anvil's ECC (11 R294) -/

theorem State.meetErr_cap (s : State) (l : Nat) : (s.meetErr l).cap = s.cap := by
  rw [State.meetErr]
  split <;> rfl

theorem State.wroteRange_cap (s : State) (a n : Nat) : (s.wroteRange a n).cap = s.cap := by
  refine State.foldl_same State.cap (fun s l => ?_) _ _
  split
  · rfl
  · exact State.meetErr_cap s l

theorem State.readRange_cap (s : State) (a n : Nat) : (s.readRange a n).2.cap = s.cap := by
  have h := State.foldl_same State.cap State.meetErr_cap (s.markedLines a n) s
  rw [State.readRange]
  split <;> exact h

theorem State.capWrite_cap (s : State) (off : Nat) (p : Bytes) :
    (s.capWrite off p).cap = { s.cap with store := memWriteN s.cap.store off p } := State.wroteRange_cap _ _ _

theorem State.capReadLines_cap (fuel : Nat) (s : State) (off n : Nat) : (s.capReadLines fuel off n).2.2.cap = s.cap := by
  induction fuel generalizing s off n with
  | zero => rfl
  | succ fuel ih =>
    rw [State.capReadLines]
    split
    · rfl
    · exact (ih _ _ _).trans (State.readRange_cap _ _ _)

/-- What one line gives of a read: zeros where it is POISONED. -/
theorem length_lineRead (bad : Bool) (m : Tab Byte) (off k : Nat) :
    (if bad = true then zeros k else memReadN m off k).length = k := by
  split
  · exact List.length_replicate
  · exact length_memReadN _ _ _

/-- A read that may take as many lines as its range meets gives all its bytes. -/
theorem State.length_capReadLines (fuel : Nat) (s : State) (off n : Nat) (h : n = 0 ∨ n + off % 32 ≤ 32 * fuel) :
    (s.capReadLines fuel off n).1.length = n := by
  induction fuel generalizing s off n with
  | zero =>
    have hn : n = 0 := by omega
    rw [hn]
    rfl
  | succ fuel ih =>
    rw [State.capReadLines]
    split
    · next hn => rw [hn]; rfl
    · refine List.length_append.trans ?_
      rw [length_lineRead, ih _ _ _ (by omega)]
      omega

theorem State.capRead_cap (s : State) (off n : Nat) : (s.capRead off n).2.2.cap = s.cap := State.capReadLines_cap _ _ _ _

theorem State.length_capRead (s : State) (off n : Nat) : (s.capRead off n).1.length = n :=
  State.length_capReadLines _ _ _ _ (by omega)

end Sys2Proof.Machine

/-! SUPPORT. A run that only records passes sample time up to its horizon (10 R256, R263). -/
namespace Sys2Proof.Machine
open Sys2Proof

theorem periodQ_pos (rate : Nat) : 0 < periodQ rate := by
  unfold periodQ rateHz
  split_ifs <;> decide

/-! ### Positions -/

/-- The next position of a lane of period `per`, at `p` before, once all that lies at sample time `t` is written. -/
def passInstant (t per p : Nat) : Nat := if p * per = t then p + 1 else p

/-- The next position of a lane of period `per`, at `p` before, once all that lies up to `lim` is written. -/
def passUpTo (lim per p : Nat) : Nat := max p (lim / per + 1)

theorem le_passInstant (t per p : Nat) : p ≤ passInstant t per p := by
  unfold passInstant
  split <;> omega

section
variable {t lim per p : Nat} (hper : 0 < per)
include hper

theorem passUpTo_passInstant (h : t ≤ lim) : passUpTo lim per (passInstant t per p) = passUpTo lim per p := by
  unfold passUpTo passInstant
  split
  · next hp =>
    have : p ≤ lim / per := (Nat.le_div_iff_mul_le hper).mpr (hp.trans_le h)
    omega
  · rfl

theorem passUpTo_of_lt (h : lim < p * per) : passUpTo lim per p = p :=
  max_eq_left ((Nat.div_lt_iff_lt_mul hper).mpr h)

end

/-! ### Recorders and runs with nothing to act on -/

/-- No condition is set. -/
def Recorder.Unconditional (r : Recorder) : Prop := ∀ k ∈ r.conds, k = none

theorem Recorder.Unconditional.getD {r : Recorder} (h : r.Unconditional) (i : Nat) : r.conds.getD i none = none := by
  rw [List.getD_eq_getElem?_getD]
  cases hk : r.conds[i]? with
  | none => rfl
  | some k => exact h k (List.mem_of_getElem? hk)

/-- The run has no trigger, and neither a pulse nor a forced trigger waits for its horizon. -/
structure Run.Quiet (u : Run) : Prop where
  trig : u.trig = none
  tpi : u.tpi = []
  forced : u.forced = []

/-- `v` differs from `u` only where recording writes: positions, entries, and what conditions remember. -/
def Run.Writes (u v : Run) : Prop :=
  v = { u with next := v.next, ents := v.ents, nextSig := v.nextSig, sigs := v.sigs, snaps := v.snaps, mems := v.mems }

theorem Run.Writes.refl (u : Run) : u.Writes u := rfl

theorem Run.Writes.trans {u v w : Run} (huv : u.Writes v) (hvw : v.Writes w) : u.Writes w := by
  unfold Run.Writes at *
  rw [hvw, huv]

theorem Run.Writes.quiet {u v : Run} (h : u.Writes v) (hu : u.Quiet) : v.Quiet := by
  obtain ⟨htrig, htpi, hforced⟩ := hu
  rw [h]
  exact ⟨htrig, htpi, hforced⟩

/-- `v` is what recording makes of `u` when it moves the next positions by `f`, which takes the period and the position
before. -/
structure Run.Moved (r : Recorder) (f : Nat → Nat → Nat) (u v : Run) : Prop where
  writes : u.Writes v
  len : v.next.length = u.next.length
  next : ∀ (i : Nat) (l : Lane) (p : Nat), r.lanes[i]? = some l → u.next[i]? = some p →
    v.next[i]? = some (f (periodQ l.rate) p)
  nextSig : v.nextSig = if r.signals = [] then u.nextSig else f qTick u.nextSig

section
variable {r : Recorder} {f g : Nat → Nat → Nat} {u v w : Run}

theorem Run.Moved.trans (huv : u.Moved r f v) (hvw : v.Moved r g w) : u.Moved r (fun per p => g per (f per p)) w where
  writes := huv.writes.trans hvw.writes
  len := hvw.len.trans huv.len
  next i l p hl hp := hvw.next i l _ hl (huv.next i l p hl hp)
  nextSig := by
    rw [hvw.nextSig, huv.nextSig]
    split <;> rfl

theorem Run.Moved.congr (h : u.Moved r f v) (hfg : ∀ per p, 0 < per → f per p = g per p) : u.Moved r g v where
  writes := h.writes
  len := h.len
  next i l p hl hp := (h.next i l p hl hp).trans (congrArg _ (hfg _ _ (periodQ_pos _)))
  nextSig := by rw [h.nextSig, hfg qTick _ (by decide)]

end

/-! ### The next instant of a run -/

/-- A lane, or the signal lane, has its next position at `t`. -/
def Run.HasInstant (r : Recorder) (u : Run) (t : Nat) : Prop :=
  (∃ (i : Nat) (l : Lane) (p : Nat), r.lanes[i]? = some l ∧ u.next[i]? = some p ∧ p * periodQ l.rate = t) ∨
    (r.signals ≠ [] ∧ boundaryQ u.nextSig = t)

theorem foldl_minOpt_some (l : List Nat) (a : Nat) : l.foldl (fun o t => minOpt o (some t)) (some a) = some (l.foldl min a) := by
  induction l generalizing a with
  | nil => rfl
  | cons b l ih => exact ih (min a b)

theorem foldl_minOpt_eq_min? (l : List Nat) : l.foldl (fun o t => minOpt o (some t)) none = l.min? := by
  cases l with
  | nil => rfl
  | cons a l => exact (foldl_minOpt_some l a).trans List.min?_cons'.symm

/-- The next instant of a quiet run is the first that a lane or the signal lane has, if there is one. -/
theorem Run.nextT_cases {r : Recorder} {u : Run} (hu : u.Quiet) :
    (u.nextT r = none ∧ ∀ t, ¬ u.HasInstant r t) ∨
      ∃ t, u.nextT r = some t ∧ u.HasInstant r t ∧ ∀ t', u.HasInstant r t' → t ≤ t' := by
  obtain ⟨-, htpi, hforced⟩ := hu
  simp only [Run.nextT, htpi, hforced, List.map_nil, List.append_nil, foldl_minOpt_eq_min?]
  generalize hts : List.filterMap _ _ ++ _ = ts
  have hmem : ∀ t, t ∈ ts ↔ u.HasInstant r t := fun t => by
    rw [← hts, List.mem_append, Run.HasInstant]
    refine or_congr ?_ ?_
    · rw [List.mem_filterMap]
      constructor
      · rintro ⟨i, -, hi⟩
        split at hi
        · next l p hl hp => exact ⟨i, l, p, hl, hp, Option.some.inj hi⟩
        · cases hi
      · rintro ⟨i, l, p, hl, hp, ht⟩
        refine ⟨i, List.mem_range.mpr (List.getElem?_eq_some_iff.mp hl).1, ?_⟩
        simp only [hl, hp, ht]
    · by_cases hs : r.signals = []
      · simp [hs]
      · rw [if_neg (by simpa using hs), List.mem_singleton]
        exact ⟨fun h => ⟨hs, h.symm⟩, fun h => h.2.symm⟩
  cases hmin : ts.min? with
  | none =>
    rw [List.min?_eq_none_iff] at hmin
    exact .inl ⟨rfl, fun t ht => by simpa [hmin] using (hmem t).mpr ht⟩
  | some t =>
    obtain ⟨ht, hle⟩ := List.min?_eq_some_iff.mp hmin
    exact .inr ⟨t, rfl, (hmem t).mp ht, fun t' ht' => hle t' ((hmem t').mpr ht')⟩

end Sys2Proof.Machine

/-! SUPPORT. What a quiet run writes at one instant, and up to its horizon (10 R253, R256). -/
namespace Sys2Proof.Machine
open Sys2Proof

/-! ### Lanes that write at an instant -/

/-- What lane `i` writes at `t`, with its position, if it has one there. -/
def State.entryAt (s : State) (r : Recorder) (u : Run) (t i : Nat) : Option (Nat × Lane × Nat × Option Written) :=
  match r.lanes[i]?, u.next[i]? with
  | some l, some p =>
    if p * periodQ l.rate = t then some (i, l, p, if l.tap = 0 then some (s.rawAt l p (t + u.h)) else s.filtAt l p) else none
  | _, _ => none

/-- What the lanes write at `t`. -/
def State.entriesAt (s : State) (r : Recorder) (u : Run) (t : Nat) : List (Nat × Lane × Nat × Option Written) :=
  (List.range r.lanes.length).filterMap (s.entryAt r u t)

/-- A lane's entry is written, and the lane goes on to its next position. -/
def Run.file (u : Run) (e : Nat × Lane × Nat × Option Written) : Run :=
  let ents := match e.2.2.2 with
    | some w => modAt u.ents e.1 (fun l => ({ pos := e.2.2.1, bytes := w.bytes, q := w.q } : Ent) :: l)
    | none => u.ents
  { u with ents := ents, next := modAt u.next e.1 (· + 1) }

theorem Run.writes_foldl_file (es : List (Nat × Lane × Nat × Option Written)) (u : Run) : u.Writes (es.foldl Run.file u) := by
  induction es generalizing u with
  | nil => rfl
  | cons e es ih => exact (show u.Writes (u.file e) from rfl).trans (ih (u.file e))

theorem Run.nextSig_foldl_file (es : List (Nat × Lane × Nat × Option Written)) (u : Run) :
    (es.foldl Run.file u).nextSig = u.nextSig := by
  induction es generalizing u with
  | nil => rfl
  | cons e es ih => exact ih (u.file e)

theorem Run.foldl_file_next (es : List (Nat × Lane × Nat × Option Written)) (u : Run) :
    (es.foldl Run.file u).next = (es.map (·.1)).foldl (fun l j => modAt l j (· + 1)) u.next := by
  rw [List.foldl_map]
  exact (List.foldl_hom Run.next fun _ _ => rfl).symm

theorem length_foldl_modAt {α : Type} (g : α → α) (is : List Nat) (l : List α) :
    (is.foldl (fun l j => modAt l j g) l).length = l.length := by
  induction is generalizing l with
  | nil => rfl
  | cons j is ih => rw [List.foldl_cons, ih, length_modAt]

/-- Elements changed at different places, each once. -/
theorem getElem?_foldl_modAt {α : Type} (g : α → α) {is : List Nat} (hnodup : is.Nodup) (l : List α) (i : Nat) :
    (is.foldl (fun l j => modAt l j g) l)[i]? = if i ∈ is then l[i]?.map g else l[i]? := by
  induction is generalizing l with
  | nil => rfl
  | cons j is ih =>
    obtain ⟨hj, hnodup⟩ := List.nodup_cons.mp hnodup
    rw [List.foldl_cons, ih hnodup]
    by_cases hi : i = j
    · subst hi
      rw [if_neg hj, if_pos List.mem_cons_self, getElem?_modAt_self]
    · simp only [List.mem_cons, hi, false_or, getElem?_modAt_other hi]

/-- Elements that carry the index they come from. -/
theorem map_fst_filterMap {α : Type} {f : Nat → Option (Nat × α)} (h : ∀ i e, f i = some e → e.1 = i) (l : List Nat) :
    (l.filterMap f).map (·.1) = l.filter (fun i => (f i).isSome) := by
  induction l with
  | nil => rfl
  | cons i l ih =>
    cases hi : f i with
    | none => simp [hi, ih]
    | some e => simp [hi, ih, h i e hi]

section
variable {s : State} {r : Recorder} {u : Run} {t : Nat}

theorem State.entryAt_fst (i : Nat) (e : Nat × Lane × Nat × Option Written) (h : s.entryAt r u t i = some e) : e.1 = i := by
  rw [State.entryAt] at h
  split at h
  · split at h
    · cases h
      rfl
    · cases h
  · cases h

theorem State.nodup_entriesAt : ((s.entriesAt r u t).map (·.1)).Nodup := by
  rw [State.entriesAt, map_fst_filterMap State.entryAt_fst]
  exact List.nodup_range.filter _

theorem State.mem_entriesAt {i p : Nat} {l : Lane} (hl : r.lanes[i]? = some l) (hp : u.next[i]? = some p) :
    i ∈ (s.entriesAt r u t).map (·.1) ↔ p * periodQ l.rate = t := by
  have hi := (List.getElem?_eq_some_iff.mp hl).1
  rw [State.entriesAt, map_fst_filterMap State.entryAt_fst, List.mem_filter, List.mem_range]
  simp only [hi, true_and, State.entryAt, hl, hp]
  by_cases ht : p * periodQ l.rate = t <;> simp [ht]

end

theorem bitsNat_eq_zero {l : List Bool} (h : ∀ b ∈ l, b = false) : bitsNat l = 0 := by
  induction l with
  | nil => rfl
  | cons b l ih =>
    rw [bitsNat, ih fun c hc => h c (List.mem_cons_of_mem _ hc), h b List.mem_cons_self]
    rfl

/-- The signal lane takes its entry for the boundary at `t` and goes on to the next, in the run that `v` is so far. -/
def Run.fileSignals (r : Recorder) (u : Run) (t : Nat) (v : Run) : Run :=
  if !r.signals.isEmpty && decide (boundaryQ u.nextSig = t) then
    let vals := u.snaps.getD u.nextSig []
    { v with
      sigs := { pos := u.nextSig, bytes := vals.flatMap (fun x => le 4 x.1 ++ le 4 x.2), q := 0 } :: v.sigs
      nextSig := v.nextSig + 1
      snaps := v.snaps.del u.nextSig }
  else v

theorem Run.writes_fileSignals (r : Recorder) (u : Run) (t : Nat) (v : Run) : v.Writes (u.fileSignals r t v) := by
  rw [Run.fileSignals]
  split <;> rfl

theorem Run.fileSignals_next (r : Recorder) (u : Run) (t : Nat) (v : Run) : (u.fileSignals r t v).next = v.next := by
  rw [Run.fileSignals]
  split <;> rfl

theorem Run.fileSignals_nextSig {r : Recorder} {u v : Run} (t : Nat) (h : v.nextSig = u.nextSig) :
    (u.fileSignals r t v).nextSig = if r.signals = [] then u.nextSig else passInstant t qTick u.nextSig := by
  rw [Run.fileSignals]
  by_cases hs : r.signals = []
  · rw [if_neg (by simp [hs]), if_pos hs, h]
  · rw [if_neg hs, passInstant]
    by_cases ht : u.nextSig * qTick = t
    · rw [if_pos ht, if_pos (by simp [hs, boundaryQ, ht]), h]
    · rw [if_neg ht, if_neg (by simp [boundaryQ, ht]), h]

/-- What an instant at `t` writes, before conditions and triggers are looked at. -/
def State.filedAt (s : State) (r : Recorder) (u : Run) (t : Nat) : Run :=
  u.fileSignals r t ((s.entriesAt r u t).foldl Run.file u)

theorem State.moved_filedAt (s : State) (r : Recorder) (u : Run) (t : Nat) : u.Moved r (passInstant t) (s.filedAt r u t) where
  writes := (Run.writes_foldl_file _ _).trans (Run.writes_fileSignals _ _ _ _)
  len := by rw [State.filedAt, Run.fileSignals_next, Run.foldl_file_next, length_foldl_modAt]
  next i l p hl hp := by
    rw [State.filedAt, Run.fileSignals_next, Run.foldl_file_next, getElem?_foldl_modAt _ State.nodup_entriesAt, passInstant, hp]
    simp only [State.mem_entriesAt hl hp]
    split <;> rfl
  nextSig := Run.fileSignals_nextSig t (Run.nextSig_foldl_file _ _)

/-- An instant of a quiet run of a recorder without conditions raises no event: only what lies there is written. -/
theorem State.runAt_of_quiet (s : State) {r : Recorder} {u : Run} (t : Nat) (hr : r.Unconditional) (hu : u.Quiet) :
    ∃ counters v, s.runAt r u t = ({ r with counters := counters }, v) ∧ u.Moved r (passInstant t) v := by
  have hmoved := s.moved_filedAt r u t
  have hquiet := hmoved.writes.quiet hu
  have hrun : ∃ counters mems, s.runAt r u t = ({ r with counters := counters },
      { s.filedAt r u t with
        mems := mems
        tpi := (s.filedAt r u t).tpi.filter (fun e => e.2 != t)
        forced := (s.filedAt r u t).forced.filter (· != t) }) := by
    refine ⟨_, _, if_pos ?_⟩
    simp only [hr.getD, hu.forced]
    rw [bitsNat_eq_zero (by simp)]
    rfl
  obtain ⟨counters, mems, hrun⟩ := hrun
  simp only [hquiet.tpi, hquiet.forced, List.filter_nil] at hrun
  rw [← hquiet.tpi, ← hquiet.forced] at hrun
  exact ⟨counters, _, hrun, hmoved.writes.trans rfl, hmoved.len, hmoved.next, hmoved.nextSig⟩

end Sys2Proof.Machine

/-! SUPPORT. CAPTURE_HORIZON (10 R256): a quiet run writes all that lies up to its horizon. -/
namespace Sys2Proof.Machine
open Sys2Proof

/-! ### The steps that a run has up to a horizon -/

/-- The positions that lane `i` has up to `lim`. -/
def Run.laneSteps (r : Recorder) (u : Run) (lim i : Nat) : Nat :=
  match r.lanes[i]?, u.next[i]? with
  | some l, some p => lim / periodQ l.rate + 1 - p
  | _, _ => 0

theorem Run.laneSteps_of_lane {r : Recorder} {u : Run} {i p : Nat} {l : Lane} (hl : r.lanes[i]? = some l)
    (hp : u.next[i]? = some p) (lim : Nat) : u.laneSteps r lim i = lim / periodQ l.rate + 1 - p := by
  simp only [Run.laneSteps, hl, hp]

theorem Run.steps_eq (r : Recorder) (u : Run) (lim : Nat) : u.steps r lim =
    ((List.range r.lanes.length).map (u.laneSteps r lim)).sum + (lim / qTick + 1 - u.nextSig) + u.tpi.length +
      u.forced.length + 1 := by
  rw [Run.steps, List.sum_eq_foldl]
  rfl

section
variable {r : Recorder} {u v : Run} {t lim : Nat} (h : u.Moved r (passInstant t) v)
include h

theorem Run.Moved.laneSteps_le (i : Nat) : v.laneSteps r lim i ≤ u.laneSteps r lim i := by
  cases hl : r.lanes[i]? with
  | none => simp only [Run.laneSteps, hl, le_refl]
  | some l =>
    cases hp : u.next[i]? with
    | none =>
      have hv : v.next[i]? = none := by
        rw [List.getElem?_eq_none_iff, h.len]
        exact List.getElem?_eq_none_iff.mp hp
      simp only [Run.laneSteps, hl, hp, hv, le_refl]
    | some p =>
      rw [Run.laneSteps_of_lane hl hp, Run.laneSteps_of_lane hl (h.next i l p hl hp)]
      exact Nat.sub_le_sub_left (le_passInstant _ _ _) _

theorem Run.Moved.laneSteps_lt {i p : Nat} {l : Lane} (ht : t ≤ lim) (hl : r.lanes[i]? = some l) (hp : u.next[i]? = some p)
    (hpt : p * periodQ l.rate = t) : v.laneSteps r lim i < u.laneSteps r lim i := by
  have hle : p ≤ lim / periodQ l.rate := (Nat.le_div_iff_mul_le (periodQ_pos _)).mpr (hpt.trans_le ht)
  rw [Run.laneSteps_of_lane hl hp, Run.laneSteps_of_lane hl (h.next i l p hl hp), passInstant, if_pos hpt]
  omega

/-- Passing an instant up to `lim` takes one of the steps that the run has to there. -/
theorem Run.Moved.steps_lt (ht : t ≤ lim) (hat : u.HasInstant r t) : v.steps r lim < u.steps r lim := by
  have htpi : v.tpi = u.tpi := by rw [h.writes]
  have hforced : v.forced = u.forced := by rw [h.writes]
  have hlanes : ∀ i ∈ List.range r.lanes.length, v.laneSteps r lim i ≤ u.laneSteps r lim i :=
    fun i _ => h.laneSteps_le i
  rw [Run.steps_eq, Run.steps_eq, htpi, hforced]
  obtain ⟨i, l, p, hl, hp, hpt⟩ | ⟨hs, hst⟩ := hat
  · have hsum := List.sum_lt_sum _ _ hlanes
      ⟨i, List.mem_range.mpr (List.getElem?_eq_some_iff.mp hl).1, h.laneSteps_lt ht hl hp hpt⟩
    have hsig : u.nextSig ≤ v.nextSig := by
      rw [h.nextSig]
      split
      · exact le_rfl
      · exact le_passInstant _ _ _
    omega
  · have hsum := List.sum_le_sum hlanes
    have hle : u.nextSig ≤ lim / qTick := (Nat.le_div_iff_mul_le (by decide)).mpr (hst.trans_le ht)
    have hsig : v.nextSig = u.nextSig + 1 := by
      rw [h.nextSig, if_neg hs]
      exact if_pos hst
    omega

end

/-! ### Up to the horizon -/

/-- Nothing of the run lies up to `lim`. -/
theorem Run.moved_passUpTo_of_after {r : Recorder} {u : Run} {lim : Nat} (h : ∀ t, u.HasInstant r t → lim < t) :
    u.Moved r (passUpTo lim) u where
  writes := .refl u
  len := rfl
  next i l p hl hp := by
    rw [passUpTo_of_lt (periodQ_pos _) (h _ (.inl ⟨i, l, p, hl, hp, rfl⟩))]
    exact hp
  nextSig := by
    split
    · rfl
    · next hs => exact (passUpTo_of_lt (by decide) (h _ (.inr ⟨hs, rfl⟩))).symm

/-- A quiet run with fuel for all its steps passes everything up to `lim`, and has not ended. -/
theorem State.runTo_of_quiet (s : State) {fuel lim : Nat} {r : Recorder} {u : Run} (hr : r.Unconditional) (hu : u.Quiet)
    (hfuel : u.steps r lim < fuel) :
    ∃ counters v, s.runTo fuel r u lim = (false, { r with counters := counters }, v) ∧ u.Moved r (passUpTo lim) v := by
  induction fuel generalizing r u with
  | zero => omega
  | succ fuel ih =>
    rw [State.runTo, hu.trig]
    obtain ⟨hnone, hafter⟩ | ⟨t, hsome, hat, hfirst⟩ := Run.nextT_cases (r := r) hu
    · rw [hnone]
      exact ⟨r.counters, u, rfl, Run.moved_passUpTo_of_after fun t ht => absurd ht (hafter t)⟩
    · rw [hsome]
      by_cases ht : t ≤ lim
      · obtain ⟨counters, v, hrun, hmoved⟩ := s.runAt_of_quiet t hr hu
        have hsteps := hmoved.steps_lt ht hat
        obtain ⟨counters', w, hw, hpassed⟩ := ih (r := { r with counters := counters }) (u := v) hr (hmoved.writes.quiet hu)
          (show v.steps r lim < fuel by omega)
        have hpassed : v.Moved r (passUpTo lim) w := ⟨hpassed.writes, hpassed.len, hpassed.next, hpassed.nextSig⟩
        refine ⟨counters', w, ?_, (hmoved.trans hpassed).congr fun per p hper => passUpTo_passInstant hper ht⟩
        simp only [Option.map_none, if_pos ht, hrun, hw]
      · refine ⟨r.counters, u, if_neg ht, Run.moved_passUpTo_of_after fun t' ht' => ?_⟩
        have := hfirst t' ht'
        omega

/-! ### The horizon of a recorder -/

theorem State.snapRun_same (s : State) (r : Recorder) (u : Run) :
    s.snapRun r u = { u with snapTo := (s.snapRun r u).snapTo, snaps := (s.snapRun r u).snaps } := by
  rw [State.snapRun]
  split <;> rfl

/-- The recorder after it wrote everything up to `lim`: the entries from before its window are dropped. -/
theorem State.passRun_of_quiet {s : State} {n : Nat} {r : Recorder} {u : Run} (fuel : Nat) (hrec : s.recd n = some r)
    (hrun : r.run = some u) (hnow : u.h ≤ s.now) (hr : r.Unconditional) (hu : u.Quiet) :
    ∃ counters v, s.passRun (fuel + 1) n = s.setRec n { r with counters := counters, run := some v } ∧
      u.Moved r (passUpTo (s.now - u.h)) v := by
  obtain ⟨counters, v, hto, hmoved⟩ := s.runTo_of_quiet hr hu (Nat.lt_succ_self (u.steps r (s.now - u.h)))
  have htrig : v.trig.isSome = false := by rw [(hmoved.writes.quiet hu).trig, Option.isSome_none]
  have hnot : ¬ s.now < u.h := by omega
  simp only [State.passRun, hrec, hrun, if_neg hnot, hto, htrig, Bool.false_eq_true, if_false]
  exact ⟨counters, _, rfl, hmoved.writes.trans rfl, hmoved.len, hmoved.next, hmoved.nextSig⟩

theorem State.pruneKept_cap (s : State) : s.pruneKept.cap = s.cap := rfl

/-- CAPTURE_HORIZON of a recorder that only records: its signals are sampled, then its run passes to the horizon. -/
theorem State.capHorizon_of_quiet {s : State} {n : Nat} {r : Recorder} {u : Run} (hrec : s.recd n = some r)
    (hrun : r.run = some u) (hdrains : r.drains = []) (hnow : u.h ≤ s.now) (hr : r.Unconditional) (hu : u.Quiet) :
    ∃ counters v, (s.capHorizon n).cap =
        (s.setRec n { r with counters := counters, run := some v, drains := [] }).cap ∧
      (s.snapRun r u).Moved r (passUpTo (s.now - u.h)) v := by
  have hsnap := s.snapRun_same r u
  obtain ⟨htrig, htpi, hforced⟩ := hu
  have hquiet : (s.snapRun r u).Quiet := by
    rw [hsnap]
    exact ⟨htrig, htpi, hforced⟩
  have hh : (s.snapRun r u).h = u.h := by rw [hsnap]
  obtain ⟨counters, v, hpass, hmoved⟩ := State.passRun_of_quiet
    (s := s.setRec n { r with run := some (s.snapRun r u), drains := [] })
    (tickAtOrBefore s.now - tickAtOrBefore (s.snapRun r u).a + 1) (State.setRec_recd_self _ _ _) rfl
    (hh.symm ▸ hnow) hr hquiet
  rw [State.setRec_setRec] at hpass
  refine ⟨counters, v, ?_, ?_⟩
  · simp only [State.capHorizon, hrec, hrun, hdrains, Option.map_some, List.map_nil, List.foldl_nil]
    exact (State.pruneKept_cap _).trans (congrArg State.cap hpass)
  · rw [hh] at hmoved
    exact ⟨hmoved.writes, hmoved.len, hmoved.next, hmoved.nextSig⟩

end Sys2Proof.Machine

/-! SUPPORT. The events of a recorder (10 R263, R265), and how its segments complete and reach the archive (10 R261, R271). -/
namespace Sys2Proof.Machine
open Sys2Proof

/-! ### Events -/

section
variable {s : State} {r : Recorder} {u : Run} {t src : Nat} {stop : Bool}

/-- Hold-off runs: by time, or for a number of events (R265). -/
def Recorder.Held (r : Recorder) (t : Nat) : Prop := (r.holdMode = 1 ∧ t < r.holdTo) ∨ (r.holdMode = 2 ∧ 0 < r.holdN)

/-- Every event counts down a hold-off by number. -/
def Recorder.heldLess (r : Recorder) : Recorder := if decide (r.holdN > 0) then { r with holdN := r.holdN - 1 } else r

theorem Recorder.heldLess_eq (r : Recorder) : r.heldLess = { r with holdN := r.holdN - 1 } := by
  rw [Recorder.heldLess]
  split
  · rfl
  · next h =>
    have hsame : r.holdN - 1 = r.holdN := by simp at h; omega
    rw [hsame]

theorem Recorder.held_iff : ((r.holdMode == 1 && decide (t < r.holdTo)) || (r.holdMode == 2 && decide (r.holdN > 0))) = true ↔
    r.Held t := by
  simp [Recorder.Held]

theorem State.capEvent_of_held (htrig : u.trig = none) (hheld : r.Held t) (hstop : stop = false) (hforced : bit src 8 = false) :
    s.capEvent r u t src stop = ({ r with holdN := r.holdN - 1, heldOff := inc32 r.heldOff }.count 2 1, u) := by
  have hacts : (((r.holdMode == 1 && decide (t < r.holdTo)) || (r.holdMode == 2 && decide (r.holdN > 0))) && !stop &&
      !bit src 8) = true := by
    rw [Recorder.held_iff.mpr hheld, hstop, hforced]
    rfl
  simp only [State.capEvent, htrig, if_pos hacts]
  rw [← Recorder.heldLess, Recorder.heldLess_eq]

/-- The trigger that an event at `t` makes (R263, R266). -/
def State.triggered (s : State) (r : Recorder) (u : Run) (t src : Nat) : Trig :=
  let b := tickAtOrBefore t
  let tb0 : Int := (9 * vis s.horizon.tb0.value : Nat) - ((s.now : Int) - (t : Int))
  { seq := r.seq, t := t, sources := src, start := max (boundaryQ (b - r.pre)) u.a, stop := boundaryQ (b + r.post)
    follow1 := s.horizon.follow1, tb0 := if s.horizon.tb0.valid then some tb0.toNat else none, heldOff := r.heldOff }

/-- The recorder once it acts on an event at `t` (R263, R265). -/
def Recorder.acted (r : Recorder) (u : Run) (t : Nat) : Recorder :=
  { r with
    seq := r.seq + 1, heldOff := 0, st := if r.st = RecSt.armed then RecSt.post else r.st
    segs := modAt r.segs u.seg (fun x => { x with seq := r.seq })
    holdTo := t + r.holdoff * 1000 * qNs, holdN := if r.holdMode = 2 then r.holdoff else 0 }.count 0 1

theorem State.capEvent_of_acts (htrig : u.trig = none) (hacts : ¬ r.Held t ∨ stop = true ∨ bit src 8 = true) :
    s.capEvent r u t src stop =
      (r.acted u t, { u with trig := some (s.triggered r u t src), stopPending := u.stopPending || stop }) := by
  have hnot : ¬ (((r.holdMode == 1 && decide (t < r.holdTo)) || (r.holdMode == 2 && decide (r.holdN > 0))) && !stop &&
      !bit src 8) = true := by
    rw [← Recorder.held_iff] at hacts
    simp only [Bool.and_eq_true, Bool.not_eq_true'] at hacts ⊢
    rintro ⟨⟨hheld, hstop⟩, hforced⟩
    simp [hheld, hstop, hforced] at hacts
  simp only [State.capEvent, htrig, if_neg hnot]
  rw [← Recorder.heldLess, Recorder.heldLess_eq]
  rfl

theorem State.capEvent_of_triggered {g : Trig} (htrig : u.trig = some g) : s.capEvent r u t src stop =
    ({ r with holdN := r.holdN - 1 }.count 1 1,
      { u with trig := some { g with extra := inc32 g.extra }, stopPending := u.stopPending || stop }) := by
  simp only [State.capEvent, htrig]
  rw [← Recorder.heldLess, Recorder.heldLess_eq]

end

/-! ### A segment completes -/

/-- The oldest segment past END gets its CRC and is COMPLETE. -/
theorem State.completeSegment_of_closing {s : State} {n i : Nat} {rest : List (Nat × Nat)} {r : Recorder}
    (hclosing : s.cap.closing = (n, i) :: rest) (hrec : s.recd n = some r) (hst : r.st ≠ .full) :
    s.completeSegment.cap = { s.cap with
      closing := rest
      recs := s.cap.recs.put n { r with segs := modAt r.segs i (fun x => { x with st := .complete }) }
      store := memWriteN s.cap.store ((r.first + i * r.segBlocks) * 4096 + 0xFC)
        (le 4 (crc32c (memReadN s.cap.store ((r.first + i * r.segBlocks) * 4096) r.segBytes)))
      copies := s.cap.copies ++ (if r.archive then [(n, i)] else []) } := by
  have hrec' : State.recd { s with cap.closing := rest } n = some r := hrec
  simp only [State.completeSegment, hclosing, hrec']
  rw [State.capAvail_of_not_full (r := { r with segs := modAt r.segs i (fun x => { x with st := .complete }) })]
  · split
    · simp [State.setRec, State.capWrite_cap]
    · simp [State.setRec, State.capWrite_cap]
  · split
    · exact State.setRec_recd_self _ _ _
    · exact State.setRec_recd_self _ _ _
  · exact hst

/-! ### The archive -/

/-- What fits the archive on its own stays as its newest entry. -/
theorem getLast?_trimArchive {a : Archived} (h : a.bytes.length ≤ archiveBytes) (l : List Archived) :
    (trimArchive (l ++ [a])).getLast? = some a := by
  induction l with
  | nil =>
    rw [List.nil_append, trimArchive, if_pos (by simpa using h)]
    rfl
  | cons b l ih =>
    rw [List.cons_append, trimArchive]
    split
    · simp [List.getLast?_cons]
    · exact ih

/-- The oldest pending copy is added to the archive. -/
theorem State.archiveOne_of_running {s : State} {n i : Nat} {rest : List (Nat × Nat)} {r : Recorder}
    (hrun : s.power.supply = .running) (hcopies : s.cap.copies = (n, i) :: rest) (hrec : s.recd n = some r)
    (hst : r.st ≠ .full) : ∃ bytes, bytes.length = r.segBytes ∧ s.archiveOne.cap = { s.cap with
      copies := rest
      archive := trimArchive (s.cap.archive ++ [{ cap := n, seq := (r.segs.getD i {}).seq, bytes := bytes }]) } := by
  have hrec' : State.recd { s with cap.copies := rest } n = some r := hrec
  refine ⟨_, State.length_capRead { s with cap.copies := rest } ((r.first + i * r.segBlocks) * 4096) r.segBytes, ?_⟩
  simp only [State.archiveOne, hrun, hcopies, hrec', bne_self_eq_false, Bool.false_eq_true, if_false]
  rw [State.capAvail_of_not_full (r := r) _ hst]
  · simp only [State.capRead_cap]
  · exact (State.recd_congr (congrArg CaptureState.recs (State.capRead_cap _ _ _)) n).trans hrec'

end Sys2Proof.Machine

/-! SUPPORT. The recorders, clause by clause of the obligation (10 R256 to R271). -/
namespace Sys2Proof.Machine
open Sys2Proof

theorem captureHorizon_of_quiet {dt n : Nat} {s : State} {r : Recorder} {u : Run} (hrec : s.recd n = some r)
    (hrun : r.run = some u) (hdrains : r.drains = []) (hnow : u.h ≤ (s.advance dt).now) (hr : r.Unconditional)
    (hu : u.Quiet) : ∃ t q v, exec (.captureHorizon dt n) s = .next t ∧ t.recd n = some q ∧ q.run = some v ∧ q.st = r.st ∧
      q.segs = r.segs ∧ v.seg = u.seg ∧ v.a = u.a ∧ v.trig = none ∧
      (∀ (i : Nat) (l : Lane) (p : Nat), r.lanes[i]? = some l → u.next[i]? = some p →
        v.next[i]? = some (passUpTo ((s.advance dt).now - u.h) (periodQ l.rate) p)) ∧
      (r.signals ≠ [] → v.nextSig = passUpTo ((s.advance dt).now - u.h) qTick u.nextSig) ∧
      ∀ m, m ≠ n → t.recd m = s.recd m := by
  obtain ⟨counters, v, hcap, hmoved⟩ :=
    State.capHorizon_of_quiet ((State.advance_recd s dt n).trans hrec) hrun hdrains hnow hr hu
  have hrecs := congrArg CaptureState.recs hcap
  have hsnap := (s.advance dt).snapRun_same r u
  have hnext : ((s.advance dt).snapRun r u).next = u.next := by rw [hsnap]
  have hsig : ((s.advance dt).snapRun r u).nextSig = u.nextSig := by rw [hsnap]
  have hv := hmoved.writes
  refine ⟨_, _, v, rfl, (State.recd_congr hrecs n).trans (State.setRec_recd_self _ _ _), rfl, rfl, rfl, ?_, ?_, ?_,
    fun i l p hl hp => hmoved.next i l p hl (hnext ▸ hp), fun hs => ?_, fun m hm => ?_⟩
  · rw [hv, hsnap]
  · rw [hv, hsnap]
  · rw [hv, hsnap]
    exact hu.trig
  · rw [hmoved.nextSig, if_neg hs, hsig]
  · exact (State.recd_congr hrecs m).trans ((State.setRec_recd_other hm).trans (State.advance_recd s dt m))

theorem segmentComplete_of_closing {dt n i : Nat} {rest : List (Nat × Nat)} {s : State} {r : Recorder} {x : Seg}
    (hclosing : s.cap.closing = (n, i) :: rest) (hrec : s.recd n = some r) (hst : r.st ≠ .full) (hx : r.segs[i]? = some x) :
    ∃ t q, exec (.segmentComplete dt) s = .next t ∧ t.cap.closing = rest ∧ t.recd n = some q ∧
      q.segs[i]? = some { x with st := .complete } ∧
      memReadN t.cap.store ((r.first + i * r.segBlocks) * 4096 + 0xFC) 4 =
        le 4 (crc32c (memReadN s.cap.store ((r.first + i * r.segBlocks) * 4096) r.segBytes)) ∧
      t.cap.copies = s.cap.copies ++ (if r.archive then [(n, i)] else []) := by
  have hcap := State.completeSegment_of_closing (s := s.advance dt) (by rw [State.advance_cap, hclosing])
    ((State.advance_recd s dt n).trans hrec) hst
  rw [State.advance_cap] at hcap
  refine ⟨_, _, rfl, congrArg CaptureState.closing hcap,
    (congrArg (fun c : CaptureState => c.recs.get n) hcap).trans (Tab.get_put_self _ _ _), ?_,
    (congrArg (fun c : CaptureState => memReadN c.store _ 4) hcap).trans ?_, congrArg CaptureState.copies hcap⟩
  · rw [getElem?_modAt_self, hx]
    rfl
  · exact memReadN_memWriteN_self _ _ (le 4 _)

theorem segmentComplete_of_none {dt : Nat} {s : State} (h : s.cap.closing = []) :
    exec (.segmentComplete dt) s = .next (s.advance dt) := by
  have h' : (s.advance dt).cap.closing = [] := by rw [State.advance_cap, h]
  refine congrArg Host.Outcome.next ?_
  rw [State.completeSegment, h']

theorem archiveCopyComplete_of_running {dt n i : Nat} {rest : List (Nat × Nat)} {s : State} {r : Recorder}
    (hrun : s.power.supply = .running) (hcopies : s.cap.copies = (n, i) :: rest) (hrec : s.recd n = some r)
    (hst : r.st ≠ .full) (hsize : r.segBytes ≤ archiveBytes) :
    ∃ t a, exec (.archiveCopyComplete dt) s = .next t ∧ t.cap.copies = rest ∧ t.cap.archive.getLast? = some a ∧ a.cap = n ∧
      a.seq = (r.segs.getD i {}).seq ∧ a.bytes.length = r.segBytes := by
  obtain ⟨bytes, hbytes, hcap⟩ := State.archiveOne_of_running (s := s.advance dt)
    (by rw [State.advance_power, hrun]) (by rw [State.advance_cap, hcopies]) ((State.advance_recd s dt n).trans hrec) hst
  exact ⟨_, _, rfl, congrArg CaptureState.copies hcap, (congrArg (fun c : CaptureState => c.archive.getLast?) hcap).trans
    (getLast?_trimArchive (hbytes.trans_le hsize) _), rfl, rfl, hbytes⟩

theorem archiveCopyComplete_of_not_running {dt : Nat} {s : State} (h : s.power.supply ≠ .running) :
    exec (.archiveCopyComplete dt) s = .next (s.advance dt) := by
  refine congrArg Host.Outcome.next (if_pos ?_)
  rw [State.advance_power]
  exact bne_iff_ne.mpr h

/-- Settles O30: the horizon by the steps of a quiet run, events by the branches of `capEvent`, segments and the archive by
what they leave of the store. -/
theorem recorderWorksAtItsHorizon : Obligations.RecorderWorksAtItsHorizon := by
  refine ⟨?_, ?_, ?_, ?_, ?_, ?_⟩
  · intro dt n s r u s1 lim hrec hrun hdrains hnow htrig htpi hforced hconds _ _ _
    exact captureHorizon_of_quiet hrec hrun hdrains hnow hconds ⟨htrig, htpi, hforced⟩
  · intro s r u t src stop held out
    refine ⟨fun htrig hheld hstop hforced => ?_, fun htrig hacts hst => ?_, fun g htrig => ?_⟩
    · have hout : out = _ := State.capEvent_of_held htrig hheld hstop hforced
      rw [hout]
      exact ⟨rfl, rfl, rfl, rfl, rfl, rfl⟩
    · have hout : out = _ := State.capEvent_of_acts htrig hacts
      rw [hout]
      exact ⟨_, rfl, rfl, rfl, rfl, rfl, rfl, if_pos hst, rfl, rfl, rfl, rfl⟩
    · have hout : out = _ := State.capEvent_of_triggered htrig
      rw [hout]
      exact ⟨rfl, rfl, rfl⟩
  · intro dt n i rest s r x base hclosing hrec hst hx
    exact segmentComplete_of_closing hclosing hrec hst hx
  · intro dt s h
    exact segmentComplete_of_none h
  · intro dt n i rest s r hrun hcopies hrec hst hsize
    exact archiveCopyComplete_of_running hrun hcopies hrec hst hsize
  · intro dt s h
    exact archiveCopyComplete_of_not_running h

end Sys2Proof.Machine

/-! SUPPORT. The capture commands (10 R252 to R272): what each card's own part answers. -/
namespace Sys2Proof.Machine
open Sys2Proof

section
variable {s : State} {c : Cmd}

/-! ### DEFINE_RECORDER -/

/-- The lanes of a DEFINE_RECORDER, for its PRE_TICKS and POST_TICKS. -/
def State.lanesDefined (s : State) (c : Cmd) : List Lane := (List.range (byteAt c.params 2)).map (fun i =>
  s.laneOf (u32 c.params 4 + u32 c.params 8) (u16 c.params (0x18 + 4 * i)) (byteAt c.params (0x18 + 4 * i + 2)))

/-- The signals of a DEFINE_RECORDER. -/
def signalsDefined (c : Cmd) : List Nat :=
  (List.range (u16 c.params 0x14)).map (fun i => u16 c.params (0x18 + 4 * byteAt c.params 2 + 2 * i))

/-- Its write rate in bytes/s (R255). -/
def State.rateDefined (s : State) (c : Cmd) : Nat := ((s.lanesDefined c).map s.laneRate).foldl (· + ·) 0 +
  (if (signalsDefined c).isEmpty then 0 else 8 * (signalsDefined c).length * 96000)

/-- The bytes of its segments (R254). -/
def State.sizeDefined (s : State) (c : Cmd) : Nat :=
  (laneOffsets (dirEnd ((s.lanesDefined c).length + boolNat (!(signalsDefined c).isEmpty)))
    (laneSizes (s.lanesDefined c) (signalsDefined c).length (u32 c.params 4 + u32 c.params 8))).2

/-- The lowest free run of blocks that holds it (R252). -/
def State.runDefined (s : State) (c : Cmd) : Option Nat :=
  lowestRun (byteAt c.params 1 * blocksOf (s.sizeDefined c)) 0 s.capRuns

/-- The recorder that DEFINE_RECORDER creates, its first block at `first`. -/
def State.recorderDefined (s : State) (c : Cmd) (first : Nat) : Recorder where
  owner := c.inst
  overwrite := byteAt c.params 3 == 1
  pre := u32 c.params 4
  post := u32 c.params 8
  grace := u16 c.params 0x0C
  holdMode := byteAt c.params 0x0E
  holdoff := u32 c.params 0x10
  archive := bit (byteAt c.params 0x0F) 0
  lanes := s.lanesDefined c
  signals := signalsDefined c
  first := first
  segBytes := s.sizeDefined c
  rate := s.rateDefined c
  segs := List.replicate (byteAt c.params 1) {}

theorem State.chans_of_lanesDefined (h : ∀ l ∈ s.lanesDefined c, s.ingest.chanOf.has l.chan = true) :
    ((List.range (byteAt c.params 2)).map (fun i => (u16 c.params (0x18 + 4 * i), byteAt c.params (0x18 + 4 * i + 2)))).any
      (fun e => !s.ingest.chanOf.has e.1) = false := by
  rw [List.any_map, List.any_eq_false]
  intro i hi
  have hlane : s.ingest.chanOf.has (u16 c.params (0x18 + 4 * i)) = true := h _ (List.mem_map_of_mem hi)
  simp only [Function.comp_apply, hlane, Bool.not_true, Bool.false_eq_true, not_false_eq_true]

theorem cardDefineRecorder_run_of_free {first : Nat} (hfree : s.recd (byteAt c.params 0) = none)
    (hchans : ∀ l ∈ s.lanesDefined c, s.ingest.chanOf.has l.chan = true) (hrun : s.runDefined c = some first)
    (hrate : s.capRate + s.rateDefined c ≤ 2400000000) : cardDefineRecorder.run s c =
      .ok (s.setRec (byteAt c.params 0) (s.recorderDefined c first))
        (le 4 (s.sizeDefined c) ++ le 4 (s.rateDefined c / 1000)) := by
  have hlanes : ((List.range (byteAt c.params 2)).map
      (fun i => (u16 c.params (0x18 + 4 * i), byteAt c.params (0x18 + 4 * i + 2)))).map
      (fun e => s.laneOf (u32 c.params 4 + u32 c.params 8) e.1 e.2) = s.lanesDefined c := List.map_map
  dsimp only [cardDefineRecorder]
  rw [hlanes]
  refine (if_neg (by simp [hfree])).trans ((if_neg (by simp [State.chans_of_lanesDefined hchans])).trans ?_)
  split
  · next h => cases hrun.symm.trans h
  · next h =>
    cases hrun.symm.trans h
    exact if_neg (Nat.not_lt.mpr hrate)

/-! ### Recorders that are idle: REMOVE_RECORDER, SET_TRIGGER and ARM_RECORDER (R260) -/

theorem Recorder.idle_beq {r : Recorder} (hidle : r.st = .disabled ∨ r.st = .stopped) :
    (r.st == .disabled || r.st == .stopped) = true := by
  simpa using hidle

/-- The condition that SET_TRIGGER carries (R262). -/
def condDefined (c : Cmd) : Cond where
  type := byteAt c.params 2
  mode := byteAt c.params 3
  source := u16 c.params 4
  stop := bit (byteAt c.params 6) 0
  mask := byteAt c.params 7
  level := s32 c.params 8
  ref := u64 c.params 0x0C

/-- The first segment that is FREE. -/
def firstFree (segs : List Seg) : Nat := segs.findIdx (fun x => x.st == .free)

/-- The first FREE segment is used next (R267). -/
theorem State.pickSeg_of_free (s : State) (n : Nat) {r : Recorder} (hfree : ∃ x ∈ r.segs, x.st = .free) :
    s.pickSeg n r = some (firstFree r.segs, false) := by
  have hlt : firstFree r.segs < r.segs.length :=
    List.findIdx_lt_length_of_exists (by simpa using hfree)
  have hfind : (List.range r.segs.length).find? (fun i => (r.segs.getD i {}).st == .free) =
      some (firstFree r.segs) := by
    refine List.find?_range_eq_some.mpr ⟨?_, List.mem_range.mpr hlt, fun j hj => ?_⟩
    · rw [List.getD_eq_getElem _ _ hlt]
      exact List.findIdx_getElem (w := hlt)
    · rw [List.getD_eq_getElem _ _ (hj.trans hlt)]
      exact congrArg (!·) (List.not_of_lt_findIdx hj)
  simp only [State.pickSeg, hfind]

/-- The recorder once it is armed: its first FREE segment is RECORDING from the next boundary on (R260). -/
def State.recorderArmed (s : State) (r : Recorder) : Recorder :=
  let q := { r with segs := setAt r.segs (firstFree r.segs) { st := .recording } }
  { (q.count 3 0) with st := .armed, run := some (q.begin (firstFree r.segs) (boundaryQ (tickAtOrAfter s.now))) }

theorem Recorder.take_false (r : Recorder) (i : Nat) :
    r.take i false = { r with segs := setAt r.segs i { st := .recording } }.count 3 0 := rfl

theorem Recorder.begin_count (r : Recorder) (k m i a : Nat) : (r.count k m).begin i a = r.begin i a := rfl

theorem Recorder.begin_a (r : Recorder) (i a : Nat) : (r.begin i a).a = a := rfl

theorem State.armRec_of_free (s : State) (n : Nat) {r : Recorder} (hfree : ∃ x ∈ r.segs, x.st = .free) :
    s.armRec n r = s.setRec n (s.recorderArmed r) := by
  rw [State.armRec, s.pickSeg_of_free _ hfree]
  dsimp only
  rw [Recorder.take_false, Recorder.begin_count]
  rfl

theorem tickAtOrAfter_boundaryQ (n : Nat) : tickAtOrAfter (boundaryQ n) = n := by
  unfold tickAtOrAfter boundaryQ ceilDiv qTick
  omega

/-- The time that FORCE_TRIGGER names, now where it is 0. -/
def State.timeForced (s : State) (c : Cmd) : Nat := if u64 c.params 4 = 0 then s.now else u64 c.params 4 * qNs

section
variable {r : Recorder} (hrec : s.recd (byteAt c.params 0) = some r)
include hrec

section
variable (hidle : r.st = .disabled ∨ r.st = .stopped)
include hidle

theorem cardRemoveRecorder_run_of_idle (hfree : s.anyLocked (byteAt c.params 0) r = false) : cardRemoveRecorder.run s c =
    .ok { s with
      cap.recs := s.cap.recs.del (byteAt c.params 0)
      cap.closing := s.cap.closing.filter (fun e => e.1 != byteAt c.params 0) } [] := by
  simp only [cardRemoveRecorder, hrec]
  exact (if_neg (by simp [Recorder.idle_beq hidle])).trans (if_neg (by simp [hfree]))

theorem cardSetTrigger_run_of_idle (hmask : byteAt c.params 2 = 3 → s.maskLoaded (byteAt c.params 7) = true)
    (hsignal : byteAt c.params 2 = 1 → u16 c.params 4 ∈ r.signals)
    (hlane : byteAt c.params 2 = 2 ∨ byteAt c.params 2 = 3 → u16 c.params 4 < r.lanes.length) : cardSetTrigger.run s c =
      .ok (s.setRec (byteAt c.params 0) { r with
        conds := setAt r.conds (byteAt c.params 1) (if byteAt c.params 2 = 0 then none else some (condDefined c)) }) [] := by
  have hloaded : ¬ (byteAt c.params 2 == 3 && !s.maskLoaded (byteAt c.params 7)) = true := by
    simpa using hmask
  have hsource : ¬ ((byteAt c.params 2 == 1 && !r.signals.contains (u16 c.params 4)) ||
      ((byteAt c.params 2 == 2 || byteAt c.params 2 == 3) && decide (r.lanes.length ≤ u16 c.params 4))) = true := by
    simpa using ⟨hsignal, hlane⟩
  simp only [cardSetTrigger, hrec]
  exact (if_neg (by simp [Recorder.idle_beq hidle])).trans ((if_neg hloaded).trans (if_neg hsource))

theorem cardArmRecorder_run_of_idle (hone : byteAt c.params 1 = 1) (hfree : ∃ x ∈ r.segs, x.st = .free)
    (hmasks : ∀ k ∈ r.conds, ∀ x, k = some x → x.type = 3 → s.maskLoaded x.mask = true) : cardArmRecorder.run s c =
      .ok (s.setRec (byteAt c.params 0) (s.recorderArmed { r with h := s.horizonOf r })) (le 8 (tickAtOrAfter s.now)) := by
  have hloaded : ¬ (r.conds.any (fun k => match k with
      | some k => k.type == 3 && !s.maskLoaded k.mask
      | none => false)) = true := by
    rw [Bool.not_eq_true, List.any_eq_false]
    intro k hk
    cases k with
    | none => simp
    | some x => simpa using hmasks _ hk x rfl
  simp only [cardArmRecorder, hrec]
  refine (if_neg (by omega)).trans ((if_pos (Recorder.idle_beq hidle)).trans ((if_neg hloaded).trans ?_))
  rw [s.armRec_of_free (r := { r with h := s.horizonOf r }) _ hfree, State.setRec_recd_self, Option.bind_some,
    State.recorderArmed, Option.elim_some, Recorder.begin_a, tickAtOrAfter_boundaryQ]

end

theorem cardArmRecorder_run_of_armed {u : Run} (hzero : byteAt c.params 1 = 0) (hst : r.st = .armed) (hrun : r.run = some u) :
    cardArmRecorder.run s c = .ok (s.setRec (byteAt c.params 0)
      { r with st := .disabled, run := none, segs := setAt r.segs u.seg {} }) [] := by
  simp only [cardArmRecorder, hrec, if_pos hzero, State.disarmRec, hst, hrun]

/-! ### FORCE_TRIGGER, GET_RECORDER and LIST_SEGMENTS -/

theorem cardForceTrigger_run_of_open {u : Run} (hown : bit (byteAt c.params 1) 0 = false) (hrun : r.run = some u)
    (hopen : s.now ≤ s.timeForced c + u.h) : cardForceTrigger.run s c =
      .ok (s.setRec (byteAt c.params 0) { r with run := some { u with forced := u.forced ++ [s.timeForced c] } })
        (le 8 (tickAtOrBefore (s.timeForced c))) := by
  simp only [cardForceTrigger, hrec, hrun, hown, Bool.false_and, Bool.false_eq_true, if_false]
  exact if_neg (Nat.not_lt.mpr hopen)

theorem cardGetRecorder_run_of_defined : cardGetRecorder.run s c =
    .ok (if bit (byteAt c.params 1) 0 then s.setRec (byteAt c.params 0) { r with counters := [0, 0, 0, 0, 0, 0] } else s)
      (le 1 r.st.code ++ le 1 (r.segs.filter (fun x => x.st == .complete)).length ++ le 2 r.first ++
        le 4 (ceilDiv r.h qNs) ++ r.counters.flatMap (le 4)) := by
  simp only [cardGetRecorder, hrec]

theorem cardListSegments_run_of_defined : cardListSegments.run s c =
    .ok s (le 4 r.segs.length ++ (List.range r.segs.length).flatMap (fun i =>
      le 1 (s.segCode (byteAt c.params 0) i (r.segs.getD i {})) ++ zeros 3 ++ le 4 (r.segs.getD i {}).seq)) := by
  simp only [cardListSegments, hrec]

/-! ### READ_SEGMENT and RELEASE_SEGMENT -/

section
variable (hcomplete : (r.segs.getD (byteAt c.params 1) {}).st = .complete)
include hcomplete

theorem cardReadSegment_run_of_inline (hinline : byteAt c.params 2 = 1) : cardReadSegment.run s c =
    .ok (s.readSegment c.params).2.2 ((s.readSegment c.params).2.1 ++ (s.readSegment c.params).1) := by
  have hset : bit (byteAt c.params 2) 0 = true := by
    rw [hinline]
    rfl
  have hclear : bit (byteAt c.params 2) 1 = false := by
    rw [hinline]
    rfl
  simp only [cardReadSegment, hset, hclear, hrec, hcomplete]
  rfl

theorem cardReadSegment_run_of_dma (hdma : byteAt c.params 2 = 0) (hchan : c.chan < 64) : cardReadSegment.run s c =
    .accepted s .segment false none := by
  simp only [cardReadSegment, hdma, bit_zero, hrec, hcomplete]
  exact if_neg (Nat.not_le.mpr hchan)

theorem cardReleaseSegment_run_of_complete (hst : r.st ≠ .full) : cardReleaseSegment.run s c =
    .ok { s.setRec (byteAt c.params 0) { r with segs := setAt r.segs (byteAt c.params 1) {} } with
      cap.copies := s.cap.copies.filter (fun e => e != (byteAt c.params 0, byteAt c.params 1)) } [] := by
  simp only [cardReleaseSegment, hrec, hcomplete]
  refine (if_neg (by simp)).trans (congrArg (fun t => CardOut.ok t []) ?_)
  exact State.capAvail_of_not_full (r := { r with segs := setAt r.segs (byteAt c.params 1) {} })
    (State.setRec_recd_self _ _ _) hst

end

end

/-! ### LOAD_MASK (R264) -/

theorem cardLoadMask_run_of_freed (huse : s.maskInUse (byteAt c.params 0) = false) (hzero : u16 c.params 2 = 0)
    (hhas : s.cap.masks.has (byteAt c.params 0) = true) : cardLoadMask.run s c =
      .ok { s with cap.masks := s.cap.masks.del (byteAt c.params 0) } [] := by
  simp only [cardLoadMask]
  exact (if_neg (by simp [huse])).trans ((if_pos hzero).trans (if_pos hhas))

/-- A mask with the points that LOAD_MASK carries. -/
def Mask.pointsLoaded (x : Mask) (c : Cmd) : Mask :=
  { x with points := (maskPoints c.params).foldl (fun (t : Tab (Int × Int)) e => t.put e.1 e.2) x.points }

/-- The state with mask `x` once it took the points, which the store holds too. -/
def State.maskStored (s : State) (c : Cmd) (x : Mask) : State :=
  ({ s with cap.masks := s.cap.masks.put (byteAt c.params 0) (x.pointsLoaded c) }).capWrite
    (x.first * 4096 + 8 * u16 c.params 4) (slice c.params 8 (8 * u16 c.params 6))

/-- The mask that LOAD_MASK finds, or else makes in the lowest free run of blocks. -/
def State.maskFound (s : State) (c : Cmd) : Mask := (s.cap.masks.get (byteAt c.params 0)).getD
  { owner := c.inst, m := u16 c.params 2, first := (lowestRun (blocksOf (8 * u16 c.params 2)) 0 s.capRuns).getD 0 }

theorem cardLoadMask_run_of_points (huse : s.maskInUse (byteAt c.params 0) = false) (hpoints : u16 c.params 2 ≠ 0)
    (hroom : s.cap.masks.get (byteAt c.params 0) = none →
      (lowestRun (blocksOf (8 * u16 c.params 2)) 0 s.capRuns).isSome = true) :
    cardLoadMask.run s c = .ok (s.maskStored c (s.maskFound c)) [] := by
  simp only [cardLoadMask]
  refine (if_neg (by simp [huse])).trans ((if_neg hpoints).trans ?_)
  cases hmask : s.cap.masks.get (byteAt c.params 0) with
  | some x =>
    rw [State.maskFound, hmask]
    rfl
  | none =>
    obtain ⟨first, hfirst⟩ := Option.isSome_iff_exists.mp (hroom hmask)
    rw [State.maskFound, hmask, hfirst]
    rfl

end

end Sys2Proof.Machine

/-! SUPPORT. The rows of the capture commands (10 R272). -/
namespace Sys2Proof.Machine
open Sys2Proof

/-- Settles O29: each command by what its card's own part answers; the rules of `Laws/Card` make it the row's. -/
theorem captureCommandsComplete : Obligations.CaptureCommandsComplete := by
  refine ⟨?_, ?_, ?_, ?_, ?_, ?_, ?_, ?_, ?_, ?_, ?_, ?_, ?_, ?_⟩
  -- DEFINE_RECORDER, REMOVE_RECORDER and SET_TRIGGER.
  · refine Card.completes_of (fun _ _ _ => rfl) (fun _ _ h => h) (fun s c ⟨hfree, hchans, hsome, hrate⟩ => ?_)
    obtain ⟨first, hrun⟩ := Option.isSome_iff_exists.mp hsome
    refine (cardDefineRecorder_run_of_free hfree hchans hrun hrate).trans ?_
    simp only [hrun]
    rfl
  · refine Card.completes_of (fun _ _ _ => rfl) (fun _ _ h => h) (fun s c ⟨r, hrec, hidle, hfree⟩ => ?_)
    exact cardRemoveRecorder_run_of_idle hrec hidle hfree
  · refine Card.completes_of (fun _ _ _ => rfl) (fun _ _ h => h) (fun s c ⟨r, hrec, hidle, hmask, hsignal, hlane⟩ => ?_)
    refine (cardSetTrigger_run_of_idle hrec hidle hmask hsignal hlane).trans ?_
    simp only [hrec]
    rfl
  -- LOAD_MASK.
  · exact Card.completes_of (fun _ _ _ => rfl) (fun _ _ h => h)
      (fun s c ⟨huse, hzero, hhas⟩ => cardLoadMask_run_of_freed huse hzero hhas)
  · exact Card.completes_of (fun _ _ _ => rfl) (fun _ _ h => h)
      (fun s c ⟨huse, hpoints, hroom⟩ => cardLoadMask_run_of_points huse hpoints hroom)
  -- ARM_RECORDER.
  · refine Card.completes_of (fun _ _ _ => rfl) (fun _ _ h => h) (fun s c ⟨hone, r, hrec, hidle, hfree, hmasks⟩ => ?_)
    refine (cardArmRecorder_run_of_idle hrec hidle hone hfree hmasks).trans ?_
    simp only [hrec]
    rfl
  · refine Card.completes_of (fun _ _ _ => rfl) (fun _ _ h => h) (fun s c ⟨hzero, r, u, hrec, hst, hrun⟩ => ?_)
    refine (cardArmRecorder_run_of_armed hrec hzero hst hrun).trans ?_
    simp only [hrec, hrun]
  -- FORCE_TRIGGER, GET_RECORDER and LIST_SEGMENTS.
  · refine Card.completes_of (fun _ _ _ => rfl) (fun _ _ h => h) (fun s c ⟨hown, r, u, hrec, hrun, hopen⟩ => ?_)
    refine (cardForceTrigger_run_of_open hrec hown hrun hopen).trans ?_
    simp only [hrec, hrun]
    rfl
  · refine Card.completes_of (fun _ _ _ => rfl) (fun _ _ h => h) (fun s c hsome => ?_)
    obtain ⟨r, hrec⟩ := Option.isSome_iff_exists.mp hsome
    refine (cardGetRecorder_run_of_defined hrec).trans ?_
    simp only [hrec]
  · refine Card.reads_of (fun _ _ _ => rfl) rfl (fun _ _ h => ⟨h, rfl⟩) (fun s c hsome => ?_)
    obtain ⟨r, hrec⟩ := Option.isSome_iff_exists.mp hsome
    refine (cardListSegments_run_of_defined hrec).trans ?_
    simp only [hrec]
  -- READ_SEGMENT and RELEASE_SEGMENT.
  · exact Card.completes_of (fun _ _ _ => rfl) (fun _ _ h => h)
      (fun s c ⟨hinline, r, hrec, hcomplete⟩ => cardReadSegment_run_of_inline hrec hcomplete hinline)
  · exact Card.accepts_of (fun _ _ _ => rfl) (fun _ _ h => h)
      (fun s c ⟨hdma, hchan, r, hrec, hcomplete⟩ => cardReadSegment_run_of_dma hrec hcomplete hdma hchan)
  · refine Card.completes_of (fun _ _ _ => rfl) (fun _ _ h => h) (fun s c ⟨r, hrec, hst, hcomplete⟩ => ?_)
    refine (cardReleaseSegment_run_of_complete hrec hcomplete hst).trans ?_
    simp only [hrec]
  -- GET_CAPTURE_TOTALS.
  · exact Card.reads_of (fun _ _ _ => rfl) rfl (fun _ _ h => ⟨h, rfl⟩) (fun _ _ _ => rfl)

end Sys2Proof.Machine
